-- ==== Sys2Proof/Word.lean ====
section
/-! DEFINITION. The word types of the register file and the table type every sparse store of the model uses. -/

set_option Elab.async false

namespace Sys2Proof

/-- One byte (R9: values wider than a byte are little-endian). -/
abbrev Byte := BitVec 8
/-- One 32-bit word, the width of a register (R28). -/
abbrev W := BitVec 32
/-- A 64-bit word: GTIME, 64-bit registers, device virtual addresses. -/
abbrev W64 := BitVec 64

/-- A sparse table from natural keys to values: keys strictly rising, and no entry equal to the table's default. -/
abbrev Tbl (β : Type) := List (Nat × β)

/-- Bits `lo + n - 1 : lo` of a natural number. -/
def bitsOf (x lo n : Nat) : Nat := x / 2 ^ lo % 2 ^ n

/-- Bit `i` of a natural number. -/
def bitOf (x i : Nat) : Bool := x / 2 ^ i % 2 == 1

/-- A Boolean as a number. -/
def b2n (b : Bool) : Nat := if b then 1 else 0

end Sys2Proof
end

