-- ==== Sys2Proof/Machine/Types.lean ====
section
/-! DEFINITION. The plain data types the state is made of: one inductive or structure for each thing the spec names. -/

set_option Elab.async false
namespace Sys2Proof

/-- A writer: agent code and index (R78). -/
structure Agent where
  code : Nat
  idx : Nat
deriving DecidableEq, Repr

/-- BOOT_STATUS.STAGE (RESET page). -/
inductive Stage
  | romStart | fusesRead | pllLocked | hbmReady | imageVerified | protLocked | fwStarting | ready | l3Recovery | parked | bootFailed
deriving DecidableEq, Repr

/-- RESET_CAUSE.LAST (RESET page). -/
inductive ResetLast
  | cold | warm | hotReset | linkLoss | hostL3 | faultL3
deriving DecidableEq, Repr

/-- Life-cycle state of an instance (R306). -/
inductive InstSt
  | unassigned | configured | active | quiescing | quiesced | shadowed | resetting | faulted
deriving DecidableEq, Repr

/-- QSTATE.STATE (R397). -/
inductive QSt
  | free | stopped | running | faulted
deriving DecidableEq, Repr

/-- STALL_STATUS.STATE (R165 to R170). -/
inductive Stall
  | normal | creditWait | linkStall
deriving DecidableEq, Repr

/-- What ended a host read (R161). -/
inductive Cpl
  | ok | timeout | ur | ca | poisoned | atsDenied | bmeOff
deriving DecidableEq, Repr

/-- What an ECC check of a memory read finds (R648, R649). -/
inductive Ecc
  | good | corrected | uncorrected
deriving DecidableEq, Repr

/-- A firmware image as its header and the verification results give it (R191). The signature and digest verdicts
are what the cryptographic engines answer for the image. -/
structure Image where
  present : Bool
  formatOk : Bool
  svn : Nat
  keySlot : Nat
  ownerSigned : Bool
  revokeLower : Bool
  fwCarve : Nat
  secCarve : Nat
  act : List (BitVec 16)
  version : W64
  brnMin : BitVec 16
  brnMax : BitVec 16
  keyHashOk : Bool
  kenudSigOk : Bool
  ownerOk : Bool
  hashOk : Bool
  header : BitVec 384
  body : BitVec 384
  windows : List (W × W)
deriving DecidableEq, Repr

/-- One copy of the boot control block (R188). -/
structure Bcb where
  valid : Bool
  preferred : Bool
  seq : W
deriving DecidableEq, Repr

/-- The SPI flash as the boot ROM reads it (R185). -/
structure Flash where
  bcb0 : Bcb
  bcb1 : Bcb
  slotA : Image
  slotB : Image
deriving DecidableEq, Repr

/-- A host-bound write, an MSI-X message or an ATS invalidation completion as it leaves the device (R156). `copy` is one more
than the copy the write belongs to, 0 for other writes. -/
inductive HostMsg
  | write (inst : Nat) (addr : W64) (data : List Byte) (marks : Bool) (copy : Nat)
  | msix (inst vec : Nat)
  | atsDone (inst : Nat)
deriving DecidableEq, Repr

/-- The completion a host answers with: of the outstanding read at a position, or of the translation request for the host
destination of a copy (R161, R174). -/
inductive CplOf
  | read (n : Nat)
  | xlate (id : Nat)
deriving DecidableEq, Repr

/-- A register field of a function's configuration space that this part gives a meaning (R2, R3, R135 to R160). -/
inductive CfgReg
  | vendorId | deviceId | classCode | revisionId | subsysVendorId | subsysId
  | memSpace | busMaster | powerState | mps | mrrs | cplTimeout | initiateFlr
  | msixEnable | msixMask | msixTableSize | msixTable | msixPba
  | atsEnable | ptmEnable | vfEnable | vfMse | numVfs | totalVfs | vfOffset | vfStride | vfDeviceId
  | barSize | vfBarSize | maxRate | maxWidth | linkRate | linkWidth | aer | other
deriving DecidableEq, Repr

/-- What an outstanding host read is for (R161). -/
inductive ReadFor
  | ring (hwq : Nat) (count : W)
  | indirect (hwq depth off : Nat)
  | const (launch off : Nat)
  | copy (id : Nat)
  | operand (cmd off : Nat)
deriving DecidableEq, Repr

/-- An outstanding host read: the function that issued it, its purpose, address and length. -/
structure HostRead where
  inst : Nat
  what : ReadFor
  addr : W64
  len : Nat
deriving DecidableEq, Repr

/-- A function's configuration space, as far as this part acts on it (R135 to R160). -/
structure FnCfg where
  memEn : Bool
  bme : Bool
  msixEn : Bool
  fmask : Bool
  d3hot : Bool
  mps : Nat
  mrrs : Nat
  cto : BitVec 4
  atsEn : Bool
  flr : Bool
  aer : List Nat
deriving DecidableEq, Repr

/-- One level of execution inside an indirect buffer (R387 to R389): its device virtual address, length in words, whether
some page of it lies in host memory, the words as read when the buffer was entered, for a buffer with host pages the pieces
that have arrived by word offset and the pieces whose read failed (offset, words, why), and the word position of the next
command. -/
structure Frame where
  addr : Nat
  len : Nat
  host : Bool
  words : List W
  got : Tbl (List W)
  fails : List (Nat × Nat × Cpl)
  pos : Nat
deriving DecidableEq, Repr

/-- An open loop (R469 to R471): mode, iterations left to run, body start, level, and the position of its LOOP_BEGIN. -/
structure Loop where
  isWhile : Bool
  count : Nat
  done : Nat
  body : Nat
  level : Nat
  beginPos : Nat
deriving DecidableEq, Repr

/-- A hardware queue (QDESC, R379 to R430). -/
structure Queue where
  st : QSt
  base : W64
  log2 : Nat
  user : Bool
  band : Nat
  cgrp : Nat
  inst : Nat
  loc : Nat
  doneVec : Nat
  faultVec : Nat
  doneEn : Bool
  faultEn : Bool
  presets : W
  head : W
  tail : W
  fetchPtr : W
  fetched : Tbl (List W)
  fetchFail : List (Nat × Cpl)
  frames : List Frame
  loops : List Loop
  pred : Bool
  checked : Bool
  faultCode : BitVec 16
  faultInfo : W
  cmdDone : W
  faultRec : W64
  saveArea : W64
  saveNext : Option W64
  res : Option Nat
  ready : Option Nat
  waiting : Bool
deriving DecidableEq, Repr

/-- One HTAB entry (R407): two words. -/
structure HtabEnt where
  w0 : W64
  w1 : W64
deriving DecidableEq, Repr

/-- What a begun command still has to do: a launch, a copy, an operation on its way to the hub, a wait in the hub, a Beacon
wait, the completion of earlier commands, the host reads of an operand (offsets outstanding, bytes arrived by offset), the
record of a copy that a stall ended INCOMPLETE (R168, R170), the accesses an invalidation waits for (R642), or the issue of host-bound writes held by a stall. -/
inductive Work
  | launch (id : Nat)
  | copy (id : Nat)
  | sync
  | wait
  | beacon (b : Nat) (absolute : Bool) (tick : W)
  | earlier (words : List W)
  | operand (words : List W) (need : List Nat) (got : Tbl (List Byte))
  | incomplete (issued index : Nat)
  | inval
  | hostWait
deriving DecidableEq, Repr

/-- A command that has begun and not completed (R432): queue, opcode, header word, where it stood in the stream. -/
structure Cmd where
  id : Nat
  hwq : Nat
  op : Nat
  hdr : W
  ring : W
  depth : Nat
  off : Nat
  blocking : Bool
  preset : Nat
  work : Work
deriving DecidableEq, Repr

/-- A copy or fill on a bulk mover (R451 to R463): its command, mover, instance and queue; the bytes still to write in
traversal order, each with its destination address and, for a source in HBM, one more than the source's physical address;
the fault it meets after them (code, address, DETAIL); the pieces of a host-sourced copy whose data has not arrived; bytes
issued so far; the chain's next descriptor, and the device writes made since the chain began (R461). -/
structure Mover where
  id : Nat
  bmv : Nat
  inst : Nat
  hwq : Nat
  toHost : Bool
  todo : List (Nat × Nat × Byte)
  stop : Option (Nat × Nat × Nat)
  hostRows : List (Nat × Nat)
  issued : Nat
  chain : Bool
  next : Nat
  index : Nat
  staged : Bool
  reversed : Bool
  touched : List (Nat × Nat)
deriving DecidableEq, Repr

/-- State of a context on a cluster (CTX_STATE). `ready` can run and waits for the cluster; `parked` waits in the hub;
`ending` has returned from its last item and waits for its engines. -/
inductive CtxSt
  | running | ready | parked | spinning | swappingOut | swappedOut | swappingIn | ending
deriving DecidableEq, Repr

/-- A waiting wait of a queue or a context (R559). -/
inductive WaitKind
  | ge | gen | geConsume
deriving DecidableEq, Repr

/-- Where an operation on a sync object came from (R553). -/
inductive Issuer
  | queue (hwq cmd : Nat)
  | ctx (launch cluster : Nat) (engine : Option Nat)
  | host (inst : Nat)
  | force
deriving DecidableEq, Repr

/-- The operations of the hub (R543 to R549). -/
inductive HubKind
  | arrive | add | consume | waitGe | waitGen | waitGeConsume
deriving DecidableEq, Repr

/-- An operation on its way to the hub (R535): its port (0 the Masthead, 1 + n YARD_n, 17 the service port), issuer and its
instance, the SYNC_ID, the amount or value, whether a context asked to spin. -/
structure HubOp where
  port : Nat
  who : Issuer
  inst : Nat
  kind : HubKind
  id : Nat
  val : Nat
  spin : Bool
deriving DecidableEq, Repr

/-- A waiter of the hub (R559): who waits, on which object, for what, in arrival order. -/
structure Waiter where
  who : Issuer
  obj : Nat
  kind : WaitKind
  value : Nat
deriving DecidableEq, Repr

/-- A descriptor on its way through a port: its sixteen words (R610), when it was pushed, and the offset of the store that
pushed it. -/
structure Ent where
  ws : List W
  seq : Nat
  pc : Nat
deriving DecidableEq, Repr

/-- An engine port of a context (R601 to R606): staged words, waiting descriptors, the chain's next descriptor, the running
one, whether it is within a chain, DONE_COUNT. -/
structure Port where
  stage : List W
  fifo : List Ent
  next : Option Ent
  run : Option Ent
  chain : Bool
  doneCount : W
deriving DecidableEq, Repr

/-- A context of a launch on one cluster (R587): its slot, scratchpad granules, the number of its current work item, ports,
local event counters, scratchpad and data SRAM (byte tables that read zero where nothing is listed, R593), the registers and
counters of its CCC. `held` keeps it out of switching until its launch runs again (R493); `forced` says a forced save runs
(R503), `yieldAt` when the yield was asked for; `full` counts what R494 asks of a slice: 0 none begun since the last dispatch or swap-in, 1 begun, 2 one run whole;
`stall` is a push that waits for room (R601); `ret` the runtime's return point (R598), `resv` the word an LR reserved, `opLow`,
`waitLow` and `timeHigh` the halves of SYNC_OP, SYNC_WAIT and GTIME that R57 and R58 hold back. -/
structure Ctx where
  st : CtxSt
  slot : Nat
  gran : Nat
  item : Nat
  ports : List Port
  levs : List (BitVec 16)
  sp : Tbl Byte
  sram : Tbl Byte
  xregs : List W
  pc : W
  cycle : W64
  instret : W64
  yieldReq : Bool
  yieldAt : W64
  atYield : Bool
  syncRes : Nat
  syncId : Nat
  lastRun : Nat
  since : Nat
  held : Bool
  entered : Bool
  forced : Bool
  full : Nat
  stall : Option (Nat × Ent)
  ret : W
  resv : Option Nat
  opLow : W
  waitLow : W
  timeHigh : W
deriving DecidableEq, Repr

/-- A launch that is ready or in flight (R449, R450, R489). -/
structure Launch where
  hwq : Nat
  cmd : Nat
  inst : Nat
  image : W64
  imageSize : Nat
  grp : Nat
  useGrp : Bool
  mask : BitVec 16
  gran : Nat
  gx : Nat
  gy : Nat
  gz : Nat
  cbAddr : W64
  cbLen : Nat
  inlineCb : Option (List W)
  snapshot : List W
  snapNeed : List Nat
  snapGot : Tbl (List Byte)
  header : List W
  band : Nat
  dispatched : Bool
  drain : Bool
  kidx : Nat
  gtime : W64
  view : List Nat
  res : Option Nat
  tickDisp : W
  save : W64
deriving DecidableEq, Repr

/-- A Beacon (R505 to R512). Offset and period in ns; `pend` is the accepted configuration not yet in effect; `since` is when it left
OFF. -/
structure BcnCfg where
  src : Nat
  div : Nat
  period : Nat
  offset : Nat
deriving DecidableEq, Repr

structure Beacon where
  cfg : BcnCfg
  pend : Option BcnCfg
  ticks : W
  resid : Int
  lastTick : W64
  since : W64
  locked : Bool
  lockLost : Bool
  frames : Nat
  ticked : Bool
  paused : Nat
deriving DecidableEq, Repr

/-- A cadence reservation (R513 to R518). -/
structure Resv where
  valid : Bool
  inst : Nat
  grp : Nat
  bcn : Nat
  budget : Nat
  charged : Nat
  last : Nat
  queues : W64
  misses : Nat
  exhausted : Nat
  exhaust : Bool
  started : Bool
deriving DecidableEq, Repr

/-- A sync object (R539). -/
structure SyncObj where
  type : Nat
  cadence : Bool
  beacon : Nat
  notify : Bool
  limit : Nat
  value : Nat
  gen : BitVec 16
  realign : Nat
  drift : Int
  unders : Nat
  overs : Nat
  forced : Bool
deriving DecidableEq, Repr

/-- A slot of HBM (R301 to R304). -/
inductive Scrub
  | clean | waiting | active
deriving DecidableEq, Repr

structure Slot where
  owner : Option Nat
  scrub : Scrub
deriving DecidableEq, Repr

/-- Where a quiesce leads once complete (R309, R310). -/
inductive After
  | quiesced | reset (remove : Bool)
deriving DecidableEq, Repr

/-- A quiesce or forced kill in progress (R309, R316, R320): DRAIN mode, forced form, whether the kill has been made, whether an
L2 reaction leads to FAULTED, what comes after, the CAUSE of the trigger. -/
structure Quiesce where
  drain : Bool
  forced : Bool
  killed : Bool
  fault : Bool
  after : After
  cause : Nat
deriving DecidableEq, Repr

/-- An instance (R293 to R343). -/
structure Inst where
  st : InstSt
  cause : Nat
  trans : Nat
  maxQ : Nat
  htab : Nat
  maxSync : Nat
  maxRes : Nat
  rights : BitVec 16
  faults : Nat
  lastFault : BitVec 16
  quiesce : Option Quiesce
  removing : Bool
  root : W64
  resDropped : List Nat
  moved : List Nat
deriving DecidableEq, Repr

/-- An event of the Briane rings (R267): code and payload bytes. -/
structure Event where
  code : Nat
  payload : List Byte
deriving DecidableEq, Repr

/-- A Briane request as read from the ring (message layout, 06). -/
structure Req where
  op : Nat
  target : Nat
  tag : W
  reserved : Byte
  payload : List Byte
deriving DecidableEq, Repr

/-- A Shadow image (R358 to R366) as a restore reads it: what its header and checks give, and the carried state. The section
bytes themselves are private to Fausk (R363). `idx` holds the four ring indices, `ring` the words of both rings; a queue's number is
its position in `queues`; a launch names its queue so; `cmds` holds the command of each launch in order; a context names its
launch and its cluster's position in the group; a waiter its context, SYNC_ID, kind and value. -/
structure Shadow where
  magicOk : Bool
  reservedOk : Bool
  tableOk : Bool
  digestOk : Bool
  size : Nat
  maj : Nat
  min : Nat
  part : W
  brnMaj : Nat
  brnMin : Nat
  ringsOpen : Bool
  gtimeSave : W64
  maxQ : Nat
  htab : Nat
  maxSync : Nat
  maxRes : Nat
  root : W64
  ctrl : W
  share : W
  vecMap : W
  msix : List W
  pba : List Nat
  idx : List (BitVec 8)
  ring : List W
  queues : List Queue
  blocks : List (Nat × List SyncObj)
  entries : List HtabEnt
  launches : List Launch
  cmds : List Cmd
  ctxs : List (Nat × Nat × Ctx)
  waiters : List (Nat × Nat × Nat × WaitKind × Nat)
  resvs : List Resv
  slots : Nat
  groups : List (Nat × Nat)
deriving DecidableEq, Repr

/-- A long request pending (R254): the request, the masks of an INST_QUIESCE or the payload of the final response, the
image of a restore, and the final response once it waits for a free entry. -/
structure Long where
  req : Req
  mask : List Nat
  failed : List Nat
  done : List Nat
  detail : Nat
  data : List Byte
  img : Option Shadow
  out : Option (List Byte)
deriving DecidableEq, Repr

/-- VER_STATUS.STATE (R258). -/
inductive RingSt
  | closed | negotiating | opened | rejected
deriving DecidableEq, Repr

/-- The Briane rings of one function (R244 to R261). `dirty` lists the counts of covered request entries that were written again
(R249). -/
structure Brn where
  st : RingSt
  maj : Nat
  min : Nat
  reqProd : BitVec 8
  reqCons : BitVec 8
  rspProd : BitVec 8
  rspCons : BitVec 8
  lostFlag : Bool
  held : List Event
  cur : Option Req
  long : Option Long
  dirty : List Nat
deriving DecidableEq, Repr

/-- A log record (06). -/
structure LogRec where
  gtime : W64
  seq : W
  sev : Nat
  trace : Bool
  source : Nat
  srcIdx : Nat
  inst : Nat
  code : Nat
  args : List W
  readOut : Bool
deriving DecidableEq, Repr

/-- Owner kinds of a fault record (fault record layout, 17). -/
inductive Owner
  | device | inst (k : Nat) | queue (k hwq : Nat) | ctx (k hwq launch : Nat) | agent (code idx : Nat)
deriving DecidableEq, Repr

/-- Reaction levels in the ranking of R762. -/
inductive Level
  | l0 | l1 | l2 | l2inst | l3 | l4 | absorbed
deriving DecidableEq, Repr

/-- A fault on its way to the FCOL (R750, R751). -/
structure FaultIn where
  gtime : W64
  code : Nat
  cls : Nat
  level : Level
  owner : Owner
  hwq : Option Nat
  source : W
  detail : W64
  scrub : Bool
  injected : Bool
  onFaulted : Bool
deriving DecidableEq, Repr

/-- A fault record in the FCOL ring (17). -/
structure FRec where
  gtime : W64
  seq : W
  code : Nat
  cls : Nat
  level : Level
  esc : Bool
  rate : Bool
  injected : Bool
  owner : Owner
  hwq : Option Nat
  source : W
  detail : W64
  scrub : Bool
  acked : Bool
deriving DecidableEq, Repr

/-- An open escalation entry (R761): class, escalation owner, the SEQ it holds and the level applied. -/
structure OpenEnt where
  cls : Nat
  owner : Owner
  seq : W
  level : Level
  hwq : Option Nat
deriving DecidableEq, Repr

/-- A dirty-log session (R344 to R357): windows, the active and the spare mark sets, and the counts. -/
structure Sess where
  active : Bool
  inst : Nat
  host : Bool
  dev : Bool
  wins : List (W64 × Nat)
  marksH : List Nat
  marksD : List Nat
  spareH : List Nat
  spareD : List Nat
  missed : Nat
  harvest : W64
deriving DecidableEq, Repr

/-- A frame presented by SCANOUT_FLIP (R476, R698); `pages` maps the 4 KiB pages of its planes to HBM, as they translated when
the head accepted it. -/
structure FrameT where
  planes : List W64
  pitch0 : Nat
  pitch12 : Nat
  format : Nat
  crcValid : Bool
  crc : W
  hwq : Nat
  pages : List (Nat × Nat)
deriving DecidableEq, Repr

/-- Receipts of a head (R229, R705). -/
structure Rcpt where
  n : Nat
  buf : W64
  entries : Nat
  seq : W
  due : Option (List Byte)
  skipFlag : Bool
  written : Nat
  skipped : Nat
deriving DecidableEq, Repr

/-- A scanout head (R672 to R710). `touched` says a write reached the latched frame since the refresh began, `latchT` is GTIME
at the vertical blank that latched it, `capData` what a running capture reads. -/
structure Head where
  enabled : Bool
  modeErr : Bool
  scanning : Bool
  cur : Option FrameT
  pend : Option FrameT
  owner : Option Nat
  hold : Bool
  black : Bool
  frameCtr : W64
  vblank : W64
  lastCrc : W
  mismatched : Bool
  rcpt : Option Rcpt
  cap : Nat
  capBytes : W64
  bank : Bool
  lut : Tbl (BitVec 16)
  dither : Nat
  share : Nat
  touched : Bool
  latchT : W64
  capData : List Byte
deriving DecidableEq, Repr

/-- A DisplayPort port (R682 to R690). -/
structure DpPort where
  powered : Bool
  trained : Bool
  training : Bool
  fail : Bool
  rate : Nat
  lanes : Nat
  hpd : Bool
  irqs : Nat
  aux : Bool
  route : Nat
  routePend : Option Nat
  restarting : Bool
  sdp : List W
  sdpNext : Option (List W)
  video : Bool
deriving DecidableEq, Repr

/-- The divider state of a cluster's CCLK (CCLK_STATE_n). -/
structure Cclk where
  n : Nat
  gated : Bool
  stretch : Bool
  base : Nat
  throttled : Nat
deriving DecidableEq, Repr

/-- A cluster as the Yard sequencer holds it (CLUSTER_STATUS): the launch whose context runs, and the one whose context ran last while
some context has been resident (SWITCH_COUNT). -/
structure Cluster where
  run : Option Nat
  last : Option Nat
  reefed : Bool
  staging : Bool
  used : Bool
deriving DecidableEq, Repr

/-- A cached line of a cluster's L1 (R659). -/
structure L1Line where
  cluster : Nat
  inst : Nat
  line : Nat
  data : List Byte
deriving DecidableEq, Repr

/-- A TLB entry (R641): the unit that holds it (16 = Masthead), the instance, the 4 KiB page, and what it maps to. -/
structure TlbEnt where
  unit : Nat
  inst : Nat
  page : Nat
  host : Bool
  base : Nat
  canRead : Bool
  canWrite : Bool
deriving DecidableEq, Repr

/-- SPDM responder state (R226). -/
inductive SpdmSt
  | start | version | caps | algos | keyed | session
deriving DecidableEq, Repr

/-- The last message of the DOE mailbox: the answered request code and its outcome bytes; busy and error are SPDM ERRORs. -/
inductive SpdmRsp
  | data (bytes : List Byte)
  | busy
  | invalid
  | unexpected
deriving DecidableEq, Repr

/-- A SEC_MBOX command in progress (R231): code, length, and the answer once the SEC core has it. -/
structure Mbox where
  cmd : Nat
  len : Nat
  answer : Option (Nat × List Byte)
deriving DecidableEq, Repr

/-- FW_STATE of the BRIANE_PF page. -/
inductive FwSt
  | running | staging | staged | activating | persisting
deriving DecidableEq, Repr

/-- A policy conflict in progress (R727). -/
structure Conflict where
  cause : Nat
  mask : BitVec 16
  worst : Nat
  ms : Nat
deriving DecidableEq, Repr

/-- Rails, pins, clocks, boot progress and reset causes (03: RESET and CLOCK pages). `railsUp` says the rails are within
tolerance, `perst` that PERST_N is asserted (low), `refclk` that SYS_REFCLK is present, `sclk` is SCLK_STATUS.SRC.
`bootStart` is GTIME at the last PERST_N deassertion. `l3` says an L3 recovery runs, `removing` that PREPARE_REMOVAL
was received (R126). -/
structure Power where
  railsUp : Bool
  perst : Bool
  refclk : Bool
  pllOn : Bool
  pllLock : Bool
  sclk : Nat
  stage : Stage
  failCause : Nat
  configReady : Bool
  trngReady : Bool
  last : ResetLast
  safe : Bool
  warmCount : Nat
  l3Count : Nat
  bootStart : W64
  bootTime : W
  l3 : Bool
  removing : Bool
  hbmTrained : Nat
  selfRefresh : Nat
  faultN : Bool
  thermTripN : Bool
deriving DecidableEq, Repr

/-- The clock dividers and GTIME (R96 to R103, R176 to R178). `vcore` is the VDD_CORE target last commanded in mV, `settling` while
VR_SETTLE runs the target before it and the target wanted in the end (R788). `gated` of a cluster says that the PWR core has not enabled
its CCLK (R100) or that a removal or the safe state gates it. `phase` counts the nanoseconds since the last one that a slew changed. -/
structure Clocks where
  cclk : List Cclk
  gtime : W64
  synced : Bool
  slewing : Bool
  failRun : Nat
  offset : Int
  vcore : Nat
  settling : Option (Nat × Nat)
  phase : Nat
deriving DecidableEq, Repr

/-- The PCIe controller: link, functions, BAR sizes, host-bound stream, host reads, MSI-X pending bits, ATS and IDE (04).
`txq` is the posted transmit queue, `held` the writes not yet issued, `sent` the messages that left on the link, `ats` the
translations held (function, host page), `atsInval` the invalidations not yet answered (function, first page, pages). -/
structure Pcie where
  linkUp : Bool
  rate : Nat
  width : Nat
  flit : Bool
  fns : Tbl FnCfg
  vfEn : Bool
  vfMse : Bool
  numVfs : Nat
  pfBar2 : Nat
  vfBar2 : Nat
  ptmEn : Bool
  stall : Stall
  stallStart : W64
  txq : List HostMsg
  held : List HostMsg
  sent : List HostMsg
  reads : List HostRead
  pba : List Nat
  ide : List Nat
  ideFails : Nat
  ats : List (Nat × Nat)
  atsInval : List (Nat × Nat × Nat)
  doe : List SpdmRsp
deriving DecidableEq, Repr

/-- A Debug Module (R215), its registers as version 0.13.2 of the RISC-V debug specification lays them out: dmactive, data0 and data1,
cmderr, the resume acknowledge, and dcsr.step of its core. -/
structure Dm where
  active : Bool
  data0 : W
  data1 : W
  cmderr : Nat
  resumeAck : Bool
  step : Bool
deriving DecidableEq, Repr

/-- The SEC core: flash as last read or written, board configuration record as read, boot attempt, fuses, measurements, RNG, mailbox, debug lock, SPDM (05). -/
structure Sec where
  flash : Option Flash
  board : List Byte
  image : Option Image
  slotB : Bool
  fallback : Bool
  firstFail : Nat
  svn : Nat
  fuseOk : Bool
  arb : Nat
  keyRevoke : Nat
  ownerHash : BitVec 384
  ownerMarker : BitVec 16
  ownerCheck : BitVec 16
  meas : List (BitVec 384)
  attestKey : Bool
  rng : Nat
  rngFails : Nat
  rngRerun : Bool
  drbgCount : Nat
  mbox : Option Mbox
  ownerStep : Bool
  nonce : Option (BitVec 256)
  dbgScope : Nat
  dbgSlot : Nat
  halted : List Nat
  dms : Tbl Dm
  spdm : SpdmSt
deriving DecidableEq, Repr

/-- Fausk: running and staged image, activation, log and trace (06). -/
structure Fw where
  version : W64
  verMin : BitVec 16
  verMax : BitVec 16
  st : FwSt
  staged : Option Image
  brnMinStaged : BitVec 16
  actBy : Option Nat
  paused : Bool
  swapping : Bool
  actStart : W64
  log : List LogRec
  logHead : W
  trace : List LogRec
  fetchBy : Option Nat
deriving DecidableEq, Repr

/-- The fault collector (17): input queue, ring of records, open entries, retained history, counts of the rate window. -/
structure Fcol where
  inq : List FaultIn
  ring : List FRec
  head : W
  open_ : List OpenEnt
  hist : List FRec
  rates : Tbl Nat
deriving DecidableEq, Repr

/-- The Rigging hub (12): objects by device index, the block map (instance, ordinal) by device block, waiters in arrival
order, the operations in the port FIFOs, oldest first. -/
structure Sync where
  objs : Tbl SyncObj
  blocks : Tbl (Nat × Nat)
  waiters : List Waiter
  fifo : List HubOp
deriving DecidableEq, Repr

/-- Scanout: the two heads and the two ports (15). -/
structure Disp where
  heads : List Head
  ports : List DpPort
deriving DecidableEq, Repr

/-- The limits a Trim loop applies (R728): host cap, board limit, quiet power, quiet fan, floor. -/
structure Limits where
  cap : Nat
  board : Nat
  quiet : Nat
  fan : Nat
  floor : Nat
deriving DecidableEq, Repr

/-- Trim, telemetry and background work (16): limits as accepted, `eff` as the loop applies them and `next` as the next one will
(R728), conflict, flags of the loops, the published sensors. `crackRec` is the resistance at the last CRACK_DRIFT, 0 for none. -/
structure Trim where
  capW : Nat
  boardW : Nat
  quietW : Nat
  quietFan : Nat
  floorN : Nat
  throttle : Bool
  clamp : Bool
  capLim : Bool
  quietLim : Bool
  boardLim : Bool
  conflict : Option Conflict
  power1ms : Nat
  power10ms : Nat
  eff : Limits
  next : Limits
  lendTable : List Nat
  lendReefed : BitVec 16
  lendR : Nat
  lending : Bool
  seq : W
  sampleGtime : W64
  sensors : Tbl (BitVec 16)
  stale : List Nat
  hotspot : Nat
  eid : Nat
  eidSet : Bool
  i3c : Bool
  crackBase : W
  crackLast : W
  crackRec : W
  patrol : Nat
  patrolPasses : Nat
  telemetryOn : Bool
deriving DecidableEq, Repr

/-- The cached copies the memory system may hold (14): TLB entries and L1 lines. -/
structure Caches where
  tlb : List TlbEnt
  l1 : List L1Line
  grans : Tbl (List Nat)
deriving DecidableEq, Repr

/-- The model's own fields: the counter that numbers the free values drawn, the data of the last access that returned
data to its sender, and the armed injections' copy. -/
structure Own where
  freeCtr : Nat
  readData : List Byte
  cpl : Nat
deriving DecidableEq, Repr

end Sys2Proof
end

