-- ==== Sys2Proof/Syntax.lean ====
section
/-! DEFINITION. The commands of the block: one constructor per row of spec/opcode_table.json. -/

set_option Elab.async false
namespace Sys2Proof

/-- One command: an access from a host or an agent, an event on a pin or a link, or one whole step of an engine
of the device. Each is one indivisible step; its operands are what the outside gives it. -/
inductive Instr
  /-- R88. The rails come up in the required order with PERST_N held, and the always-on power-on reset releases the domains for a cold boot. -/
  | coldPowerUp (inOrder : Bool) (crack : W)
  /-- R94. VDD_AON falls below its power-on-reset threshold and the device undergoes a cold reset. -/
  | vddAonLoss
  /-- R93. Input power is lost and the rails collapse in any order; the next power-up is a cold reset. -/
  | inputPowerLoss
  /-- R792. A PERST_N low pulse passes the glitch filter and starts a warm reset, or a PCIe-only reset in the safe state, abandoning any boot in progress. -/
  | perstNAsserted (us : Nat)
  /-- R111. PERST_N is released and the SEC boot ROM starts the boot sequence from step 1. -/
  | perstNDeasserted (holdMet fusesOk : Bool) (board : List Byte)
  /-- R102. The ROOT PLL reports lock, FCLK starts and SCLK switches glitch-free to 250 MHz. -/
  | rootPllLock
  /-- R222. The TRNG start-up test and entropy gathering finish, the CTR_DRBG is seeded and TRNG_READY is set. -/
  | trngReady
  /-- R107. Configuration space becomes ready, retry status ends and BOOT_STATUS.CONFIG_READY is set. -/
  | configReady
  /-- R107. A configuration request arrives and is answered, or receives retry status before configuration space is ready or during recovery or FLR. -/
  | pcieConfigRequest (k : Nat) (reg : CfgReg) (write : Option Nat) (prog : List (Nat × Nat))
  /-- R192. HBM training of the four stacks completes and STAGE reaches HBM_READY, or the boot fails with HBM_TRAIN. -/
  | hbmTrained (okStacks : Nat)
  /-- R191. The image read from a flash slot into HBM is checked in order against the header, keys, signatures, anti-rollback counter and body hash. -/
  | imageVerify (flash : Option Flash)
  /-- R196. The boot code writes the protection setup from the image header and sets PROT_LOCK. -/
  | protSetupLock
  /-- R238. The PWR, SCH and CCC cores are released and the PWR core starts telemetry and Trim. -/
  | fwStarting
  /-- R261. STAGE reaches READY and the PF BRIANE page starts accepting the version handshake. -/
  | brianeReady
  /-- R104. SYS_REFCLK is absent for 1 µs; SCLK switches to the internal oscillator and the device-fatal fault is raised. -/
  | refclkLoss
  /-- R105. The ROOT PLL loses lock with SYS_REFCLK present; SCLK moves to SYS_REFCLK and the device-fatal fault is raised. -/
  | pllUnlock
  /-- R128. The Data Link Layer goes down; host-bound writes are discarded, host reads end and L3 recovery starts. -/
  | linkDown
  /-- R128. A PCIe Hot Reset is received; host-bound traffic stops, L3 recovery starts and the link retrains from Detect. -/
  | hotReset
  /-- R129. The link returns and configuration requests are answered, with retry status until any running recovery completes. -/
  | linkUp (rate width : Nat) (flit : Bool)
  /-- R114. An L3 recovery begins, killing every context at once and resetting instance, queue and sync state. -/
  | l3RecoveryStart (cause : ResetLast)
  /-- R113. The L3 recovery completes, STAGE returns to READY and the PF BRIANE page accepts the handshake again. -/
  | l3RecoveryDone
  /-- R133. A RESET_REQ write with L3 set and the correct key from agent 0 starts L3 recovery; any other write is ignored. -/
  | resetReqL3 (ag : Agent) (v : BitVec 32)
  /-- R115. A Function Level Reset of the PF resets INST_0 and every VF instance. -/
  | pfFlr
  /-- R115. A Function Level Reset of a VF force-quiesces its instance and then resets it. -/
  | vfFlr (k : Nat)
  /-- R115. An FLR in progress completes within 100 ms and the function's configuration space answers again. -/
  | flrDone (k : Nat)
  /-- R34. A BLK_CTRL write with SOFT_RESET, allowed only at expert level on implementing pages, resets the block alone. -/
  | softReset (ag : Agent) (base : Nat) (v : BitVec 32)
  /-- R35. The soft-reset block becomes idle and BLK_STATUS.BUSY clears. -/
  | softResetDone (base : Nat)
  /-- R48. A BLK_CTRL write changes LEVEL from 0 to 1, applying every held expert value under its Apply attribute. -/
  | levelSet (ag : Agent) (base : Nat) (v : BitVec 32)
  /-- R49. A BLK_CTRL write changes LEVEL from 1 to 0, returning expert fields to their reset values. -/
  | levelClear (ag : Agent) (base : Nat) (v : BitVec 32)
  /-- R45. TEST_MODE is cleared, cancelling an armed injection. -/
  | testModeClear (ag : Agent) (base : Nat) (v : BitVec 32)
  /-- R39. A BLK_INT_FORCE write sets interrupt status bits and may raise an interrupt event. -/
  | blkIntForceWrite (ag : Agent) (base : Nat) (v : BitVec 32)
  /-- R42. The first write to BLK_LOCK after reset locks the page or uses up the single write. -/
  | blkLockWrite (ag : Agent) (base : Nat) (v : BitVec 32)
  /-- R43. An INJECT write with ARM arms a one-shot check-bit inversion, or is refused and sets REJECTED. -/
  | injectArm (ag : Agent) (base : Nat) (v : BitVec 32) (check : Option Nat)
  /-- R11. A write reaches a register that has no row of its own and is applied under its access code and Apply attribute. -/
  | registerWrite (ag : Agent) (o be : Nat) (v : BitVec 64) (wide : Bool)
  /-- R56. A read of an RC register returns its value and clears it. -/
  | rcRegisterRead (ag : Agent) (o : Nat) (wide avail : Bool)
  /-- R58. A 32-bit read of the low word of a 64-bit register captures the high word for the next read by that agent. -/
  | split64bitRead (ag : Agent) (o : Nat)
  /-- R138. VF Enable is set with NumVFs from 1 to 127, making the VFs visible. -/
  | vfEnableSet
  /-- R309. VF Enable is cleared, force-quiescing and removing every VF instance. -/
  | vfEnableClear
  /-- R138. A NumVFs write is accepted or ignored under its rules, possibly making VFs visible. -/
  | numvfsWrite (n : Nat)
  /-- R143. A Resizable BAR size write is applied only while Memory Space Enable is 0. -/
  | barSizeWrite (vf : Bool) (size : Nat)
  /-- R144. A host read or write through PF or VF BAR 2 reaches HBM through the owning L2 slice, or is denied and counted. -/
  | bar2Access (k off len : Nat) (wr : Option (List (Option Byte))) (err : Option (Nat × Bool)) (checked : Bool)
  /-- R162. A poisoned host write to BAR 0 or BAR 2 is discarded and logged in AER. -/
  | poisonedHostWrite (k : Nat)
  /-- R137. An AtomicOp request is answered with Unsupported Request and logged. -/
  | atomicopReceived (k : Nat)
  /-- R140. A function enters D3hot and its instance undergoes a forced quiesce. -/
  | d3hotEntry (k : Nat)
  /-- R140. A function returns to D0 and its instance is left QUIESCED. -/
  | d0Return (k : Nat)
  /-- R159. Bus Master Enable is cleared; the function's host-bound writes are discarded and its host copies end INCOMPLETE. -/
  | busMasterDisable (k : Nat) (prog : List (Nat × Nat))
  /-- R153. The last hold condition on a vector clears and one message is sent for each pending vector. -/
  | msixUnmask (k v : Nat)
  /-- R161. A host read receives its completion, delivering ring, buffer or copy data, or failing with UR, CA or poisoned status. -/
  | hostReadCompletion (who : CplOf) (res : Cpl) (data : List Byte)
  /-- R160. A host read reaches its Completion Timeout Value and fails with HOST_READ_FAIL. -/
  | hostReadTimeout (n : Nat)
  /-- R165. The head posted TLP cannot be sent for lack of credits and the link enters CREDIT_WAIT. -/
  | creditStallBegin (prog : List (Nat × Nat))
  /-- R167. HOST_STALL_LIMIT expires during a credit stall; LINK_STALL begins and partial host copies end INCOMPLETE. -/
  | hostStallLimitExpiry (prog : List (Nat × Nat))
  /-- R170. A posted TLP is sent, ending the credit stall, draining the queue and writing INCOMPLETE records. -/
  | creditReturn
  /-- R172. A credit stall reaches 100 ms and is treated as link loss with L3 recovery. -/
  | stallLinkLoss
  /-- R175. An ATS invalidation request is received and answered once no access uses the translation. -/
  | atsInvalidateRequest (k pg n : Nat)
  /-- R176. A PTM dialog runs every PTM_INTERVAL and GTIME is slewed or stepped toward host time. -/
  | ptmDialog (ok : Bool) (e : Int)
  /-- R180. Keys for a Selective IDE stream are delivered over Secured CMA/SPDM. -/
  | ideKmKeySetup (n : Nat)
  /-- R181. An IDE check fails; the TLP is discarded and the stream set Insecure. -/
  | ideCheckFail (n : Nat)
  /-- R226. The SEC core answers an SPDM GET_VERSION request on the DOE mailbox. -/
  | spdmGetVersion
  /-- R226. The SEC core answers an SPDM GET_CAPABILITIES request. -/
  | spdmGetCapabilities
  /-- R227. The SEC core negotiates the supported SPDM algorithms. -/
  | spdmNegotiateAlgorithms (offered : Bool)
  /-- R227. The SEC core returns the certificate digests. -/
  | spdmGetDigests (len : Nat)
  /-- R227. The SEC core returns the Kenud device certificate chain from slot 0. -/
  | spdmGetCertificate (slot off len : Nat)
  /-- R226. The SEC core answers an SPDM CHALLENGE with a signature by the attestation key. -/
  | spdmChallenge (nonce : List Byte)
  /-- R228. The SEC core reports measurement registers 0 to 7 and the raw state index. -/
  | spdmGetMeasurements (idx : Nat) (sign : Bool) (nonce : List Byte)
  /-- R226. The SEC core performs an SPDM KEY_EXCHANGE, checking ECDH inputs in the PKE. -/
  | spdmKeyExchange (ok : Bool)
  /-- R226. The SEC core completes an SPDM session handshake. -/
  | spdmFinish (ok : Bool)
  /-- R226. The SEC core updates the session keys of an SPDM session. -/
  | spdmKeyUpdate
  /-- R226. The SEC core answers an SPDM HEARTBEAT. -/
  | spdmHeartbeat
  /-- R226. The SEC core ends an SPDM session. -/
  | spdmEndSession
  /-- R232. SEC_MBOX command 0x01 returns DRBG bytes, or RNG_NOT_READY. -/
  | getRandom
  /-- R232. SEC_MBOX command 0x02 returns a SHA-256 or SHA-384 digest. -/
  | hash (alg : Nat) (data : List Byte)
  /-- R219. SEC_MBOX command 0x03 runs a PKE operation in fixed time after the ordered input checks. -/
  | pkeTest (op curve : Nat) (operands : List Byte) (fails : List Bool)
  /-- R212. SEC_MBOX command 0x10 issues a fresh 32-byte nonce. -/
  | debugChallenge
  /-- R212. SEC_MBOX command 0x11 checks a debug unlock token and opens debug on success. -/
  | debugUnlock (kenudOk ownerOk : Bool)
  /-- R205. SEC_MBOX command 0x20 programs the owner key hash and then the commit marker. -/
  | ownerKeyProgram (ok : Bool)
  /-- R208. SEC_MBOX command 0x21 raises the anti-rollback counter to the running SVN and may revoke lower key slots. -/
  | arbCommit (ok : Bool)
  /-- R232. A reserved SEC_MBOX command code completes with BAD_CMD. -/
  | mboxReservedCmd
  /-- R236. A read of RNG_DATA returns fresh DRBG output with VALID, or zero. -/
  | rngDataRead (ag : Agent) (avail : Bool)
  /-- R224. After 65,536 generate requests the DRBG reseeds from the TRNG. -/
  | drbgReseed
  /-- R225. A TRNG health test fails, DRBG output stops and the start-up is rerun once. -/
  | rngHealthFail
  /-- R212. A debug nonce expires 60 s after issue. -/
  | nonceExpiry
  /-- R216. A debug-region HBM_PEEK access reaches HBM through L2 without the DMMU, or is denied. -/
  | hbmPeekAccess (ag : Agent) (o len : Nat) (wr : Option (List (Option Byte))) (err : Option (Nat × Bool))
  /-- R215. A JTAG DMI access reaches a firmware core's Debug Module to halt, resume, step or access registers and memory. -/
  | jtagDmiAccess (addr : Nat) (wr : Option (BitVec 32))
  /-- R229. The SEC core finishes signing a due frame receipt and writes it to the next buffer entry. -/
  | receiptWrite (d : Nat)
  /-- R239. A firmware core fails to refresh its watchdog for 10 ms and a firmware assert is recorded. -/
  | fwWatchdogExpiry (core : Nat)
  /-- R258. A HELLO write starts the Briane version handshake, ending OPEN or REJECTED. -/
  | verHello (ag : Agent)
  /-- R248. A REQ_PROD write makes request entries present, or is refused with RING_ERR. -/
  | reqProdWrite (ag : Agent) (v : BitVec 32)
  /-- R250. An RSP_CONS write frees response entries for further responses and events. -/
  | rspConsWrite (ag : Agent) (v : BitVec 32)
  /-- R251. Fausk starts the next request of a function once a response entry is free, checking format, sender and target. -/
  | brianeRequestStart (k : Nat)
  /-- R255. A held asynchronous event is written into the response ring when room exists. -/
  | brianeEventDeliver (k : Nat)
  /-- R264. A request with a reserved or undefined opcode returns BAD_OPCODE. -/
  | brianeReservedOpcode (k : Nat)
  /-- R268. Briane PING returns GTIME. -/
  | ping (k : Nat)
  /-- R268. Briane GET_INFO returns firmware versions and the instance's quotas and holdings. -/
  | getInfo (k : Nat)
  /-- R424. Briane QUEUE_CREATE binds a local index to a hardware queue after ordered checks. -/
  | queueCreate (k want : Nat)
  /-- R425. Briane QUEUE_DESTROY frees a stopped or faulted idle queue. -/
  | queueDestroy (k : Nat)
  /-- R426. Briane QUEUE_RESTART resumes, skips, discards or stops a queue by its mode. -/
  | queueRestart (k : Nat)
  /-- R528. Briane QUEUE_MODIFY changes a queue's band or cluster group. -/
  | queueModify (k : Nat)
  /-- R575. Briane SYNC_BLOCK_ALLOC maps an ordinal to a free device sync block. -/
  | syncBlockAlloc (k want : Nat)
  /-- R576. Briane SYNC_BLOCK_FREE unmaps an ordinal and returns its objects to NONE. -/
  | syncBlockFree (k : Nat)
  /-- R578. Briane SYNC_FORCE sets a counter value, releases a barrier or sets its count in one hub operation. -/
  | syncForce (k : Nat)
  /-- R646. Briane ASPACE_SET sets the instance's page-table root and invalidates its translations. -/
  | aspaceSet (k : Nat)
  /-- R525. Briane BEACON_CONFIG sets a Beacon's source, divider, period and offset after ordered checks. -/
  | beaconConfig (k : Nat)
  /-- R526. Briane RESERVE admits a cadence reservation and binds its queues. -/
  | reserve (k want : Nat)
  /-- R527. Briane RESERVE_RELEASE frees a reservation and unbinds its queues. -/
  | reserveRelease (k : Nat)
  /-- R337. Briane INST_CONFIGURE sets an instance's quotas and moves it to CONFIGURED. -/
  | instConfigure (k : Nat)
  /-- R309. Briane INST_ACTIVATE moves an instance to ACTIVE and processes latched doorbells. -/
  | instActivate (k : Nat)
  /-- R338. Briane INST_QUIESCE starts the quiesce sequence on every instance in its mask. -/
  | instQuiesce (k : Nat)
  /-- R340. Briane INST_RESET quiesces and resets an instance back to CONFIGURED. -/
  | instReset (k : Nat)
  /-- R340. Briane INST_REMOVE quiesces and resets an instance to UNASSIGNED. -/
  | instRemove (k : Nat)
  /-- R339. Briane SLOT_ASSIGN assigns or releases a list of slots atomically. -/
  | slotAssign (k : Nat)
  /-- R297. Briane CGRP_DEFINE sets or clears a cluster group's mask. -/
  | cgrpDefine (k : Nat)
  /-- R300. Briane CGRP_GRANT replaces an instance's cluster group rights. -/
  | cgrpGrant (k : Nat)
  /-- R699. Briane HEAD_ASSIGN gives a head to an instance or releases it into head hold. -/
  | headAssign (k : Nat)
  /-- R336. Briane ISOLATION_SET writes an L2 way mask or an HBM share. -/
  | isolationSet (k : Nat)
  /-- R356. Briane DIRTY_LOG_START opens a dirty-logging session for a VF instance. -/
  | dirtyLogStart (k : Nat) (fits : Bool)
  /-- R351. Briane DIRTY_HARVEST swaps the bitmap sets in one cycle and copies the harvested set to the host. -/
  | dirtyHarvest (k : Nat)
  /-- R353. Every bitmap write of a harvest is issued and the final response is written. -/
  | dirtyHarvestDone (k : Nat)
  /-- R354. Briane DIRTY_LOG_STOP ends a session and discards unharvested marks. -/
  | dirtyLogStop (k : Nat)
  /-- R362. Briane SHADOW_SIZE returns the exact Shadow image size. -/
  | shadowSize (k : Nat)
  /-- R368. Briane SHADOW_SAVE takes a Shadow image of a QUIESCED instance and enters SHADOWED. -/
  | shadowSave (k : Nat)
  /-- R369. Every host-bound write of the image is issued and the final response is written. -/
  | shadowSaveDone (k : Nat)
  /-- R373. Briane SHADOW_RESTORE checks and loads a Shadow image into a CONFIGURED instance. -/
  | shadowRestore (k : Nat) (img : Option Shadow) (cause : Nat)
  /-- R375. The restore completes, the instance is SHADOWED and its rings open if the image says so. -/
  | shadowRestoreDone (k : Nat)
  /-- R277. Briane FW_STAGE copies an image into the staging area to be verified. -/
  | fwStage (k : Nat) (img : Option Image) (cause : Nat)
  /-- R277. Verification of the staged image finishes with OK, VERIFY_FAIL, PROT_MISMATCH or VERSION_CONFLICT. -/
  | fwStageVerifyDone
  /-- R280. Briane FW_ACTIVATE stops INTERACTIVE and BATCH dispatch and waits for an activation boundary. -/
  | fwActivate (k : Nat)
  /-- R280. No launch is in flight and no other long request pending; dispatch stops and the firmware swap begins. -/
  | fwActivateBoundary
  /-- R280. The firmware swap completes, dispatch resumes and FW_ACTIVATED is raised. -/
  | fwSwapCommit
  /-- R281. ACTIVATE_WINDOW passes without a boundary; the request ends BUSY and dispatch resumes. -/
  | activateWindowExpiry
  /-- R288. Briane FW_PERSIST writes an image into the non-preferred slot, verifies it and switches the boot control block. -/
  | fwPersist (k : Nat)
  /-- R288. The flash write, read-back and boot control block update finish and the final response is written. -/
  | fwPersistDone (ok : Bool)
  /-- R279. Briane FW_DISCARD empties the staging area. -/
  | fwDiscard (k : Nat)
  /-- R126. Briane PREPARE_REMOVAL parks the device: black heads, HBM in self-refresh, STAGE PARKED. -/
  | prepareRemoval (k : Nat)
  /-- R274. Briane LOG_FETCH copies log records to a host buffer. -/
  | logFetch (k : Nat)
  /-- R268. Briane LOG_CONFIG sets the minimum logged severity. -/
  | logConfig (k : Nat)
  /-- R275. Briane TRACE_SET writes the trace-point masks. -/
  | traceSet (k : Nat)
  /-- R745. Briane POWER_CAP_SET sets the host power cap. -/
  | powerCapSet (k : Nat)
  /-- R745. Briane QUIET_LIMIT_SET sets the quiet power and fan limits. -/
  | quietLimitSet (k : Nat)
  /-- R745. Briane CADENCE_FLOOR_SET sets the CADENCE divider floor. -/
  | cadenceFloorSet (k : Nat)
  /-- R746. Briane TELEM_READ returns sensor values of the last published set. -/
  | telemRead (k : Nat)
  /-- R705. Briane RECEIPT_START begins signed frame receipts on an owned head. -/
  | receiptStart (k : Nat)
  /-- R706. Briane RECEIPT_STOP ends receipts on a head and reports counts. -/
  | receiptStop (k : Nat)
  /-- R269. Briane ATTEST_QUOTE asks the SEC core for a signed measurement quote. -/
  | attestQuote (k : Nat)
  /-- R269. The SEC core writes the signed quote to the buffer and then the final response. -/
  | attestQuoteSigned (k : Nat)
  /-- R273. A LOG_SEL write selects a log record into LOG_REC and LOG_SEL_STATUS. -/
  | logSelWrite (ag : Agent) (v : BitVec 32)
  /-- R316. QUIESCE_LIMIT passes and every still-running context and command of the instance is killed. -/
  | quiesceLimitExpiry (k : Nat)
  /-- R316. No host-bound write of the quiescing instance remains queued and the instance enters QUIESCED. -/
  | quiesceFlushDone (k : Nat)
  /-- R319. Writes of the instance still queued 10 ms after the kill are discarded and counted. -/
  | flushTimeout (k : Nat)
  /-- R309. A RESETTING instance completes its reset and enters CONFIGURED or UNASSIGNED. -/
  | instanceResetDone (k : Nat)
  /-- R303. A released slot begins its scrub once a scrub channel is free and no head hold covers it. -/
  | slotScrubStart (n : Nat)
  /-- R304. A slot scrub completes and a pending owner's bitmap bit is set. -/
  | slotScrubDone (n : Nat)
  /-- R393. A doorbell write is checked against HEAD and the latched tail and latches the tail, or faults the queue with RING_OVERRUN. -/
  | doorbell (ag : Agent) (q : Nat) (tail : BitVec 32)
  /-- R403. Ring or indirect data returns and each command is decoded and checked in order. -/
  | ringDataReturn (h : Nat) (err : Option (Nat × Bool))
  /-- R442. Command 0x00 completes when it begins. -/
  | nop (h : Nat)
  /-- R447. Command 0x01 enters an indirect buffer. -/
  | indirect (h : Nat) (err : Option (Nat × Bool))
  /-- R449. Command 0x10 becomes a ready launch after its begin checks. -/
  | launch (h : Nat)
  /-- R450. Command 0x11 becomes a ready launch with inline constants. -/
  | launchInline (h : Nat)
  /-- R451. Command 0x12 passes its begin checks and runs on a bulk mover with overlap handling. -/
  | copy (h : Nat) (err : Option (Nat × Bool))
  /-- R462. A bulk-mover chain descriptor completes and the next one starts, or the chain ends. -/
  | bmvDescriptorComplete (id : Nat) (err : Option (Nat × Bool))
  /-- R432. A copy or fill has every write accepted or issued and completes. -/
  | bmvCopyComplete (id : Nat)
  /-- R463. Command 0x13 writes a repeated pattern to the destination. -/
  | fill (h : Nat)
  /-- R464. Command 0x20 sends a SIGNAL_ADD to the Rigging hub. -/
  | signal (h : Nat)
  /-- R465. Command 0x21 parks the queue on a sync object until released. -/
  | wait (h : Nat)
  /-- R464. Command 0x22 sends an arrival to a barrier. -/
  | arrive (h : Nat)
  /-- R467. Command 0x23 begins once every earlier command has completed. -/
  | fence (h : Nat)
  /-- R468. Command 0x30 compares a value and combines the result into the queue predicate. -/
  | cond (h : Nat) (err : Option (Nat × Bool))
  /-- R469. Command 0x31 opens a COUNT or WHILE loop inside an indirect buffer. -/
  | loopBegin (h : Nat)
  /-- R470. Command 0x32 repeats the loop body or exits. -/
  | loopEnd (h : Nat)
  /-- R472. Command 0x40 writes 8 B of GTIME. -/
  | timestamp (h : Nat)
  /-- R472. Command 0x41 writes its data words. -/
  | writeData (h : Nat)
  /-- R473. Command 0x42 waits for earlier commands and writes a 32-byte completion record. -/
  | report (h : Nat)
  /-- R475. Command 0x50 waits for a Beacon tick or tick count. -/
  | beaconWait (h : Nat)
  /-- R476. Command 0x51 gives a head a pending flip. -/
  | scanoutFlip (h : Nat)
  /-- R477. Command 0x80 sets a queue's FAULT_REC and SAVE_AREA. -/
  | setContext (h : Nat)
  /-- R478. Command 0x81 checks and writes HTAB entries. -/
  | htabLoad (h : Nat) (err : Option (Nat × Bool))
  /-- R479. Command 0x82 writes PF BAR 0 registers as agent 2 after ACT checks. -/
  | regWrite (h : Nat)
  /-- R479. Command 0x83 reads PF BAR 0 registers into memory. -/
  | regRead (h : Nat) (avail : Bool)
  /-- R642. Command 0x84 removes the instance's translations and waits for accesses that used them. -/
  | dmmuInvalidate (h : Nat)
  /-- R541. Command 0x85 initialises sync objects atomically. -/
  | syncInit (h : Nat) (err : Option (Nat × Bool))
  /-- R477. Command 0x86 sets a queue's timeout presets. -/
  | timeoutSet (h : Nat)
  /-- R482. A command's timeout expires and it stops, ends without effect, or starts drain for a launch. -/
  | commandTimeoutExpiry (id n : Nat)
  /-- R519. DRAIN_GRACE passes and the remaining contexts of a timed-out launch are killed. -/
  | drainGraceExpiry (l : Nat)
  /-- R489. The Masthead dispatches a ready launch to every cluster of its group once each has a slot. -/
  | launchDispatch (l : Nat) (err : Option (Nat × Bool))
  /-- R450. Every Yard has ended the launch and its writes are complete. -/
  | launchComplete (l : Nat)
  /-- R492. A launch's time slice expires and it is asked to yield if same-band work needs its clusters. -/
  | sliceExpiry (l : Nat)
  /-- R494. A ready launch finds a cluster full and an eligible victim begins swapping out. -/
  | swapOutStart (l n : Nat)
  /-- R494. A context image is written to its save area and the slot is freed. -/
  | swapOutComplete (l n : Nat)
  /-- R495. A swapped-out context returns to the first slot that frees on its cluster. -/
  | swapIn (l n : Nat)
  /-- R495. A swapped-in context is resident again and can run. -/
  | swapInComplete (l n : Nat) (err : Option (Nat × Bool))
  /-- R503. A context has not yielded by YIELD_LIMIT and the Yard forces a save. -/
  | yieldLimitExpiry (l n : Nat)
  /-- R504. An engine still runs 100 µs into a forced save; the context is killed with YIELD_OVERDUE. -/
  | forcedSaveOverdue (l n : Nat)
  /-- R509. A Beacon ticks, releasing BEACON_WAITs and starting new reservation periods. -/
  | beaconTick (b : Nat) (vb : Bool)
  /-- R510. A head-sourced Beacon sees no vertical blank for twice the frame period and free-runs. -/
  | beaconLockLoss (b : Nat)
  /-- R515. A reservation's charge reaches BUDGET and its contexts move to INTERACTIVE. -/
  | budgetExhausted (r : Nat)
  /-- R543. An arrival reaches the hub and may release the barrier. -/
  | hubArrive (port : Nat)
  /-- R546. A SIGNAL_ADD reaches the hub and waiters are evaluated. -/
  | hubSignalAdd (port : Nat)
  /-- R547. A CONSUME reaches the hub and subtracts, or underflows. -/
  | hubConsume (port : Nat)
  /-- R548. A WAIT_GE reaches the hub and is released or becomes a waiter. -/
  | hubWaitGe (port : Nat)
  /-- R545. A WAIT_GEN reaches the hub and is released or becomes a waiter. -/
  | hubWaitGen (port : Nat)
  /-- R549. A consuming wait reaches the hub and is released with its consume, or queues. -/
  | hubWaitGeConsume (port : Nat)
  /-- R566. A waiter's age reaches WAIT_LIMIT and SYNC_TIMEOUT is raised on every waiter of the object. -/
  | waitWatchdogExpiry (l : Nat)
  /-- R563. A spin that has lasted 200 µs becomes a park. -/
  | spinToPark (l n : Nat)
  /-- R573. A host SV_OP write with OP 0 sends a SIGNAL_ADD, fenced if FENCE is set. -/
  | svOpSignalAdd (ag : Agent) (v : BitVec 64)
  /-- R573. A host SV_OP write with OP 1 sends a CONSUME. -/
  | svOpConsume (ag : Agent) (v : BitVec 64)
  /-- R573. A host SV_OP write with OP 2 sends an ARRIVE. -/
  | svOpArrive (ag : Agent) (v : BitVec 64)
  /-- R585. A read of SV_OP_STATUS waits until earlier SV_OP writes are applied. -/
  | svOpStatusRead (ag : Agent)
  /-- R582. An OBJ_SEL write shows the selected object in the RIGGING registers. -/
  | objSelWrite (ag : Agent) (v : BitVec 32)
  /-- R584. An SV_SEL write shows the selected object in the SYNC_VIEW registers. -/
  | svSelWrite (ag : Agent) (v : BitVec 32)
  /-- R530. A RES_SEL write shows the selected reservation. -/
  | resSelWrite (ag : Agent) (v : BitVec 32)
  /-- R594. The Yard checks the image header and the CCC enters the context's work items. -/
  | yardContextEnter (l n : Nat) (err : Option (Nat × Bool))
  /-- R599. The entry returns; a zero a0 ends the item and a nonzero a0 traps. -/
  | itemReturn (l n : Nat) (a0 : BitVec 32) (pc : Nat)
  /-- R600. The last item has returned, the ports are empty and the writes accepted; the context ends. -/
  | contextEnd (l n : Nat)
  /-- R601. A PUSH_e write enqueues the staged descriptor, stalling the CCC while the port is full. -/
  | push (l n e : Nat) (ws : List (BitVec 32)) (pc : Nat)
  /-- R610. A PUSH_TABLE_e write enqueues a descriptor named by a NEXT-form value. -/
  | pushTable (l n e v pc : Nat)
  /-- R605. A LEV_ADD write adds to a local event counter. -/
  | levAdd (l n k v : Nat)
  /-- R602. A CCC SYNC_OP write with OP 0 sends a SIGNAL_ADD to the hub. -/
  | cccSyncOpSignalAdd (l n : Nat) (word : BitVec 64) (pc : Nat)
  /-- R602. A CCC SYNC_OP write with OP 1 sends a CONSUME to the hub. -/
  | cccSyncOpConsume (l n : Nat) (word : BitVec 64) (pc : Nat)
  /-- R602. A CCC SYNC_OP write with OP 2 sends an ARRIVE to the hub. -/
  | cccSyncOpArrive (l n : Nat) (word : BitVec 64) (pc : Nat)
  /-- R602. A SYNC_WAIT write with KIND 0 stalls the context on a WAIT_GE, parked or spinning. -/
  | cccSyncWaitGe (l n : Nat) (word : BitVec 64) (pc : Nat)
  /-- R602. A SYNC_WAIT write with KIND 1 stalls the context on a WAIT_GEN. -/
  | cccSyncWaitGen (l n : Nat) (word : BitVec 64) (pc : Nat)
  /-- R602. A SYNC_WAIT write with KIND 2 stalls the context on a consuming wait. -/
  | cccSyncWaitGeConsume (l n : Nat) (word : BitVec 64) (pc : Nat)
  /-- R602. A SYNC_STATUS read stalls until the context's earlier SYNC_OPs are applied. -/
  | cccSyncStatusRead (l n : Nat)
  /-- R625. A YIELD write marks a yield point and stops the context if a yield is requested. -/
  | yield (l n idx pc : Nat)
  /-- R627. A TRAP register write raises YARD_TRAP with cause USER_TRAP. -/
  | trap (l n v pc : Nat)
  /-- R629. A RISC-V exception of the program raises YARD_TRAP with cause CCC_EXCEPTION or SP_BOUNDS. -/
  | cccException (l n mcause mtval pc : Nat)
  /-- R614. TE descriptor OP 0 computes a matrix product after its checks. -/
  | matmul (l n e : Nat) (err : Option (Nat × Bool))
  /-- R617. TE descriptor OP 1 computes a 2D convolution. -/
  | conv2d (l n e : Nat) (err : Option (Nat × Bool))
  /-- R617. TE descriptor OP 2 computes a depthwise convolution. -/
  | dwconv (l n e : Nat) (err : Option (Nat × Bool))
  /-- R617. TE descriptor OP 3 computes max or average pooling. -/
  | pool (l n e : Nat) (err : Option (Nat × Bool))
  /-- R618. VU descriptor OP 0 applies an elementwise function. -/
  | eltwise (l n e : Nat) (err : Option (Nat × Bool))
  /-- R619. VU descriptor OP 1 reduces an operand, including CRC32 and CRC_COMBINE. -/
  | reduce (l n e : Nat) (err : Option (Nat × Bool))
  /-- R618. VU descriptor OP 2 scales, offsets and converts an operand. -/
  | quant (l n e : Nat) (err : Option (Nat × Bool))
  /-- R620. VU descriptor OP 3 copies, transposes, packs or unpacks RGB10A2. -/
  | transform (l n e : Nat) (err : Option (Nat × Bool))
  /-- R621. VU descriptor OP 4 gathers elements by INT32 index. -/
  | gather (l n e : Nat) (err : Option (Nat × Bool))
  /-- R622. CDMA descriptor OP 0 moves a contiguous block. -/
  | move (l n e : Nat) (err : Option (Nat × Bool))
  /-- R623. CDMA descriptor OP 1 moves a two-dimensional block with overlap handling. -/
  | move2d (l n e : Nat) (err : Option (Nat × Bool))
  /-- R623. CDMA descriptor OP 2 moves a four-dimensional block with overlap handling. -/
  | move4d (l n e : Nat) (err : Option (Nat × Bool))
  /-- R624. SYNC descriptor OP 0 is an inline arrival sent once eligible. -/
  | descArrive (l n e : Nat)
  /-- R624. SYNC descriptor OP 1 is an inline SIGNAL_ADD sent once eligible. -/
  | descSignal (l n e : Nat)
  /-- R624. SYNC descriptor OP 2 is an inline CONSUME sent once eligible. -/
  | descConsume (l n e : Nat)
  /-- R570. SYNC descriptor OP 3 waits for the earlier descriptors of its scope to complete. -/
  | descFence (l n e : Nat)
  /-- R604. An engine descriptor's writes are accepted; DONE_COUNT and LEV_POST advance and any NEXT runs. -/
  | descriptorComplete (l n e : Nat)
  /-- R674. A head's vertical blank starts; FRAME_COUNTER advances, the flip latches and the last refresh's CRC is checked. -/
  | vblankStart (d : Nat) (err : Option (Nat × Bool))
  /-- R681. A line's data has not arrived when output needs it; the rest of the line is black and counted. -/
  | lineUnderrun (d : Nat)
  /-- R673. A write of 1 to a HEAD page ENABLE starts the head, or sets MODE_ERR for an invalid timing. -/
  | headEnable (ag : Agent) (d : Nat) (v : BitVec 32)
  /-- R676. A write of 0 to a HEAD page ENABLE stops the head and discards its pending flip. -/
  | headDisable (ag : Agent) (d : Nat) (v : BitVec 32)
  /-- R120. HEAD_HOLD_LIMIT expires and the held head outputs black. -/
  | headHoldLimitExpiry (d : Nat)
  /-- R683. A PORT_ROUTE write requests a source change at the feeding head's next vertical blank. -/
  | portRouteWrite (ag : Agent) (v : BitVec 32)
  /-- R684. A restarting port resumes video after the new Main Stream Attribute. -/
  | portRestartDone (d : Nat)
  /-- R711. A DP page ENABLE write powers the port, or drops its link when cleared. -/
  | dpPortEnable (ag : Agent) (d : Nat) (v : BitVec 32)
  /-- R687. A DP_TRAIN write starts link training at the configured rate and lanes. -/
  | dpTrainStart (ag : Agent) (d : Nat)
  /-- R687. Link training succeeds or fails and TRAIN_DONE is raised. -/
  | dpTrainDone (d : Nat) (ok : Bool)
  /-- R688. An AUX_CMD write with START runs one AUX transaction. -/
  | auxCmdStart (ag : Agent) (d : Nat) (v : BitVec 32)
  /-- R688. An AUX reply or its retries and timeout end the transaction and set DONE. -/
  | auxDone (d result : Nat) (reply : List Byte)
  /-- R689. A short HPD low pulse raises HPD_IRQ. -/
  | hpdIrq (d : Nat)
  /-- R689. HPD stays low for 2 ms; the port stops and LINK_LOST is raised. -/
  | hpdLoss (d : Nat)
  /-- R689. HPD goes high again after debounce and HPD_CHANGE is raised. -/
  | hpdReturn (d : Nat)
  /-- R690. An SDP_CTRL COMMIT makes staged SDP words take effect at the next vertical blank. -/
  | sdpCommit (ag : Agent) (d : Nat) (v : BitVec 32)
  /-- R695. A LUT_DATA write sets a LUT entry and may advance LUT_INDEX. -/
  | lutDataWrite (ag : Agent) (d : Nat) (v : BitVec 32)
  /-- R707. A CAP_CTRL ARM write arms capture of the next refresh, or is refused. -/
  | captureArm (ag : Agent) (d : Nat)
  /-- R707. Every write of the capture is issued and CAP_STATUS reads DONE or INCOMPLETE. -/
  | captureDone (d : Nat)
  /-- R726. The 1 ms firmware loop resolves limits and sets base dividers, the VDD_CORE target and LEND_TABLE. -/
  | trimLoop (p1 p10 : Nat) (want table : List Nat) (lim : Nat) (conf : Option (Nat × Nat × Nat))
  /-- R788. VR_SETTLE passes after a raising VOUT_COMMAND and faster dividers become allowed. -/
  | vrSettleExpiry
  /-- R789. The regulator fails three attempts; the voltage is held and FW_ASSERT recorded. -/
  | vrTransactionFail
  /-- R789. VR_ALERT_N is asserted; STATUS_WORD is read and logged. -/
  | vrAlert
  /-- R716. Local VDD_CORE falls below the target by DROOP_MARGIN and the cluster's CCLK is stretched. -/
  | droopDetect (n : Nat)
  /-- R717. The summed cluster current exceeds OC_LIMIT and every ungated cluster is stretched. -/
  | overcurrentDetect
  /-- R718. A stretch ends 2 µs after its cause clears. -/
  | stretchEnd (n : Nat)
  /-- R719. A diode reads 105 °C and every cluster is set to N = 40. -/
  | thermalClamp
  /-- R719. Every diode reads below 100 °C for 10 ms and the clamp releases. -/
  | clampRelease
  /-- R720. The trip comparator sees 110 °C; THERM_TRIP_N asserts and the safe state is entered. -/
  | thermTrip
  /-- R730. At each 250 µs boundary, borrowers are set from LEND_TABLE for the reefed count. -/
  | lendingWindow
  /-- R735. All sensors are sampled every 100 µs and published together with TELEM_SEQ. -/
  | telemetrySample (vals : List (BitVec 16)) (held : List Nat)
  /-- R739. A due background step takes its unit at the start of an idle window. -/
  | bgStepTake (t u : Nat) (cmem found : Bool)
  /-- R740. A background step's slack expires and it takes its unit by force. -/
  | bgForced (t u : Nat) (first : Bool)
  /-- R650. Patrol scrub reads a unit, correcting single-bit errors and poisoning uncorrectable ones. -/
  | hbmPatrolStep (u : Nat) (err : Ecc)
  /-- R744. The crack loop is measured against its baseline and drift or opening is raised. -/
  | crackLoopMeasure (res : Option W)
  /-- R758. A die rail stays outside its limits for 100 µs and RAIL_FAULT is raised. -/
  | railFault
  /-- R736. The bus owner assigns the MCTP Endpoint ID. -/
  | mctpEidAssign (eid : Nat)
  /-- R736. An MCTP control message is received and answered. -/
  | mctpControlMessage (cmd : Nat)
  /-- R737. A PLDM numeric sensor read returns a value of the last published set. -/
  | pldmSensorRead (id : Nat)
  /-- R737. A PLDM write to effecter 1 sets the board power limit, or is refused. -/
  | pldmEffecterSet (id v : Nat)
  /-- R751. The FCOL takes a fault from its input queue, writes the record and applies the reaction. -/
  | fcolTakeFault
  /-- R760. A 1 s rate window ends and the per-code counts restart. -/
  | rateWindowExpiry
  /-- R774. The FCOL detects a fault in its own configuration or ring and goes straight to L4. -/
  | fcolSelf
  /-- R765. An FR_ACK write from agent 0 acknowledges records and closes their open entries. -/
  | frAck (ag : Agent) (v : BitVec 32)
  /-- R780. A FW_REPORT write from a firmware core raises a fault code with its owner and detail. -/
  | fwReport (ag : Agent) (v : BitVec 64)
  /-- R759. An FR_SEL write selects a fault record into FR_DATA. -/
  | frSelWrite (ag : Agent) (v : BitVec 32)
  /-- R775. A HIST_SEL write selects a retained history entry into HIST_DATA. -/
  | histSelWrite (ag : Agent) (v : BitVec 32)
  /-- R671. A SLICE_SEL write selects the L2 slice shown and targeted by injection. -/
  | sliceSelWrite (ag : Agent) (v : BitVec 32)
  /-- R274. Every host-bound write of a LOG_FETCH copy has been issued and Fausk writes the final response. -/
  | logFetchDone (k : Nat)
  /-- R126. Issued host-bound writes complete, HBM is in self-refresh, STAGE reads PARKED and the final response is written. -/
  | prepareRemovalDone
  /-- R231. The SEC core finishes a SEC_MBOX command, writes RSP and CODE, sets DONE and clears BUSY. -/
  | mboxDone
  /-- R326. The forced kill of an L2 instance-scope reaction completes, and the instance enters FAULTED and, with AUTO_RESET 1, RESETTING. -/
  | forcedKillDone (k : Nat)
deriving DecidableEq, Repr

end Sys2Proof
end

