-- ==== Sys2Proof/Decode.lean ====
section
/-! DEFINITION. Commands reach the block from outside; no row of spec/opcode_table.json gives a command bits, so no word spells
one (log entry 6). -/

set_option Elab.async false
namespace Sys2Proof

/-- The command that a word of `nbits` bits spells by the table: none, since the table gives no row any bits. -/
def decodeTableWord (_nbits _w : Nat) : Option Instr := none

end Sys2Proof
end

