-- ==== Sys2Proof/Config.lean ====
section
/-! DEFINITION. What an implementation fixes and what the spec leaves open: fused values, cryptographic functions and the
numbered free values. Every constant without a body is opaque: no proof can see its value (log entries 1 to 4). -/

set_option Elab.async false
namespace Sys2Proof.Config

/-- GLOBAL.UNIQUE_ID (02): fused, different on every die. -/
opaque uniqueId : W64
/-- FUSE.KENUD_KEY_HASH_k (05): fused key hashes, slot k = 0 to 3. -/
opaque kenudKeyHash : Nat → BitVec 384
/-- FUSE_STATUS.DEBUG_DISABLE (05): whether the debug disable fuse is blown. -/
opaque debugDisable : Bool
/-- SHA-256 of a byte string (R218): the standard's function, not restated here. -/
opaque sha256 : List Byte → BitVec 256
/-- SHA-384 of a byte string (R218). -/
opaque sha384 : List Byte → BitVec 384
/-- The random bytes of the n-th draw from the DRBG (R223): n, byte index. -/
opaque drbgByte : Nat → Nat → Byte
/-- A signature byte by the attestation key over a message (R195, R226, R229, R269). -/
opaque signByte : List Byte → Nat → Byte
/-- A byte of the SEC core's PKE result for an operation on operands (R217): operation, operands, byte index. -/
opaque pkeByte : Nat → List Byte → Nat → Byte
/-- A byte of the device certificate chain of slot 0 (R227). -/
opaque certByte : Nat → Byte
/-- The 16-bit check word over an owner key hash (R205). -/
opaque ownerCheckWord : BitVec 384 → BitVec 16
/-- How the content a measurement register is extended with is laid out as bytes (R194): register index, content. -/
opaque measBytes : Nat → List Byte → List Byte
/-- Whether the image of a failed first attempt is measured too (R194 leaves it open). -/
opaque measuresBoth : Bool
/-- Free numbers. -/
opaque freeNat : Nat → Nat
/-- Free words: the value the spec leaves open at the n-th draw. -/
opaque freeWord : Nat → W
/-- Free 64-bit values. -/
opaque freeWord64 : Nat → W64
/-- Free bytes: the i-th byte of the n-th draw. -/
opaque freeByte : Nat → Nat → Byte
/-- Free choices between two courses the spec allows. -/
opaque freeBool : Nat → Bool
/-- Floating-point results the spec bounds but does not fix (R613 to R621): draw, index, element bits. -/
opaque freeElem : Nat → Nat → W
/-- An elementwise function of the vector unit whose exact result the spec leaves within an error bound (R618): function
code, operand bits. -/
opaque vuFunc : Nat → Nat → Nat
/-- The highest Shadow MINOR a Fausk release writes that R365 does not list. -/
opaque otherShadowMinor : W64 → Nat
/-- Where Fausk places an instance's handle table in the HTAB pool, in 4 KiB units (09): instance, the tables' sizes. -/
opaque htabPlace : Nat → List Nat → Nat
/-- Whether the weights of a DWCONV are KH x KW x C_IN x C_OUT as for CONV2D, or one filter per channel (13 leaves it open). -/
opaque dwDense : Bool
/-- Whether a POOL multiplies by SCALE (13 leaves it open). -/
opaque poolScale : Bool
/-- Whether SRC0 of a GATHER is one row of IMM elements, or rows of X elements (13 leaves it open). -/
opaque gatherFlat : Bool

end Sys2Proof.Config
end

