-- ==== Sys2Proof/Machine/RegMap.lean ====
section
/-! DEFINITION. The register map: which page an offset lies in (R27 to R31, R79 to R83), and each register's access code,
reset value, Apply attribute and writable bits as the chapters' register tables give them. -/

set_option Elab.async false
namespace Sys2Proof.Machine

/-- The pages and array regions of the windows. -/
inductive Pg
  | global | clock | reset | gtimer | prot | fuse | secMbox | trim | telem | fcol | brianePf | logtrace
  | mh (i : Nat) | beacon | qdesc | seq | ccc | eng (e : Nat) | cmem | rigging | rigMap | syncDirect
  | dmmu | dmmuEnt | l2 | hbm | scan | head | dp | pcieCtl | instTab | instEnt | slotOwner
  | dbgInfo | dbgDm | dbgPeek | inst | doorbell | brn | msix | pba | syncView | rsvd
deriving DecidableEq, Repr

/-- Where an offset lies: its page, the unit or instance of the page, the page's base, the offset in the page, the ACT
region (R199). -/
structure Loc where
  pg : Pg
  unit : Nat
  base : Nat
  off : Nat
  region : Nat
deriving DecidableEq, Repr

/-- Access codes (R11). -/
inductive Acc
  | ro | rw | w1c | rc | wo | w1s | wos
deriving DecidableEq, Repr

/-- Apply attributes (R61). -/
inductive Apply
  | immediate | launch | frame | idle | static
deriving DecidableEq, Repr

/-- The Apply code of R61. -/
def Apply.code : Apply → Nat
  | .immediate => 0 | .launch => 1 | .frame => 2 | .idle => 3 | .static => 4

/-- A register table row: offset of the first register, how many, their stride, access, reset value, Apply, writable
bits, lock-exempt, 64-bit. -/
structure Row where
  off : Nat
  n : Nat
  stride : Nat
  acc : Acc
  reset : Nat
  apply : Apply
  mask : Nat
  exempt : Bool
  wide : Bool
deriving DecidableEq, Repr

/-- The base at which the model lays the instance window of INST_k out in the register file's numbering. -/
def instWin (k : Nat) : Nat := 0x10000000 + 0x10000 * k

/-- The page of an instance window at an offset (R82). -/
def locateInst (k o : Nat) : Loc :=
  let b := instWin k
  if o < 0x1000 then ⟨.inst, k, b, o, 47⟩
  else if o < 0x1200 then ⟨.doorbell, k, b + 0x1000, o - 0x1000, 47⟩
  else if o < 0x2000 then ⟨.rsvd, k, b + 0x1000, o - 0x1000, 47⟩
  else if o < 0x3000 then ⟨.brn, k, b + 0x2000, o - 0x2000, 47⟩
  else if o < 0x3100 then ⟨.msix, k, b + 0x3000, o - 0x3000, 47⟩
  else if o < 0x3800 then ⟨.rsvd, k, b + 0x3000, o - 0x3000, 47⟩
  else if o < 0x3804 then ⟨.pba, k, b + 0x3800, o - 0x3800, 47⟩
  else if o < 0x4000 then ⟨.rsvd, k, b + 0x3800, o - 0x3800, 47⟩
  else if o < 0x5000 then ⟨.syncView, k, b + 0x4000, o - 0x4000, 47⟩
  else ⟨.rsvd, k, b + 0x5000, o - 0x5000, 47⟩

/-- The twelve pages at 0x000_0000 to 0x000_B000, in order (R79). -/
def lowPage : Nat → Pg
  | 0 => .global | 1 => .clock | 2 => .reset | 3 => .gtimer | 4 => .prot | 5 => .fuse | 6 => .secMbox | 7 => .trim
  | 8 => .telem | 9 => .fcol | 10 => .brianePf | _ => .logtrace

/-- The page of an offset within a YARD_n window (R81). Engines 0 to 3 are the TEs, 4 the VU, 5 the CDMA. -/
def yardPage : Nat → Pg
  | 0 => .seq | 1 => .ccc | 2 => .eng 0 | 3 => .eng 1 | 4 => .eng 2 | 5 => .eng 3 | 6 => .eng 4 | 7 => .eng 5
  | 8 => .cmem | _ => .rsvd

/-- The page of a 64 KiB block at or above 0x018_0000 (R79): block number, offset in the block. -/
def blockPage (blk o : Nat) : Loc :=
  let b := 0x10000 * blk
  match blk with
  | 0x18 => if o < 0x1000 then ⟨.rigging, 0, b, o, 38⟩ else if o < 0x1400 then ⟨.rigMap, 0, b + 0x1000, o - 0x1000, 38⟩
            else ⟨.rsvd, 0, b, o, 38⟩
  | 0x19 => ⟨.syncDirect, 0, b, o, 39⟩
  | 0x1A => if o < 0x1000 then ⟨.dmmu, 0, b, o, 40⟩ else if o < 0x1800 then ⟨.dmmuEnt, (o - 0x1000) / 16, b + 0x1000 + (o - 0x1000) / 16 * 16, o % 16, 40⟩
            else ⟨.rsvd, 0, b, o, 40⟩
  | 0x1B => if o < 0x1000 then ⟨.l2, 0, b, o, 41⟩ else ⟨.rsvd, 0, b, o, 41⟩
  | 0x1C => if o < 0x1000 then ⟨.hbm, 0, b, o, 42⟩ else ⟨.rsvd, 0, b, o, 42⟩
  | 0x1D => if o < 0x1000 then ⟨.scan, 0, b, o, 43⟩
            else if o < 0x3000 then ⟨.head, o / 0x1000 - 1, b + 0x1000 * (o / 0x1000), o % 0x1000, 43⟩
            else if o < 0x5000 then ⟨.dp, o / 0x1000 - 3, b + 0x1000 * (o / 0x1000), o % 0x1000, 43⟩
            else ⟨.rsvd, 0, b, o, 43⟩
  | 0x1E => if o < 0x1000 then ⟨.pcieCtl, 0, b, o, 44⟩ else ⟨.rsvd, 0, b, o, 44⟩
  | _ => if o < 0x1000 then ⟨.instTab, 0, b, o, 45⟩
         else if o < 0x3000 then ⟨.instEnt, (o - 0x1000) / 64, b + o / 64 * 64, o % 64, 45⟩
         else if o < 0x3180 then ⟨.slotOwner, 0, b + 0x3000, o - 0x3000, 45⟩ else ⟨.rsvd, 0, b, o, 45⟩

/-- The page an offset lies in: a PF BAR 0 offset, or an offset of the model's instance windows; none where no block
occupies it (R80). -/
def locate (a : Nat) : Option Loc :=
  if a < 0xC000 then some ⟨lowPage (a / 0x1000), 0, 0x1000 * (a / 0x1000), a % 0x1000, a / 0x1000⟩
  else if a < 0x10000 then none
  else if a < 0x18000 then some ⟨.mh (a / 0x1000 - 0x10), 0, 0x1000 * (a / 0x1000), a % 0x1000, 12 + (a / 0x1000 - 0x10)⟩
  else if a < 0x20000 then none
  else if a < 0x21000 then some ⟨.beacon, 0, 0x20000, a % 0x1000, 20⟩
  else if a < 0x40000 then none
  else if a < 0x50000 then some ⟨.qdesc, (a - 0x40000) / 64, a / 64 * 64, a % 64, 21⟩
  else if a < 0x80000 then none
  else if a < 0x180000 then
    some ⟨yardPage (a / 0x1000 % 16), a / 0x10000 - 8, 0x1000 * (a / 0x1000), a % 0x1000, 22 + (a / 0x10000 - 8)⟩
  else if a < 0x200000 then some (blockPage (a / 0x10000) (a % 0x10000))
  else if a < 0x400000 then
    some (if a < 0x201000 then ⟨.dbgInfo, 0, 0x200000, a - 0x200000, 46⟩
      else if a < 0x210000 then ⟨.rsvd, 0, 0x200000, a - 0x200000, 46⟩
      else if a < 0x223000 then ⟨.dbgDm, (a - 0x210000) / 0x1000, 0x1000 * (a / 0x1000), a % 0x1000, 46⟩
      else if a < 0x300000 then ⟨.rsvd, 0, 0x200000, a - 0x200000, 46⟩
      else ⟨.dbgPeek, 0, 0x300000, a - 0x300000, 46⟩)
  else if a < 0x410000 then some (locateInst 0 (a - 0x400000))
  else if 0x10000000 ≤ a ∧ a < 0x10800000 then some (locateInst ((a - 0x10000000) / 0x10000) (a % 0x10000))
  else none

/-- Whether a page carries the common header (R27, R29). -/
def Pg.hasHeader : Pg → Bool
  | .qdesc | .rigMap | .syncDirect | .dmmuEnt | .instEnt | .slotOwner | .dbgInfo | .dbgDm | .dbgPeek | .doorbell | .msix
  | .pba | .rsvd => false
  | _ => true

/-- BLK_ID of a page (R31): TYPE, SUB and UNIT. -/
def blkId (l : Loc) : W :=
  let n (type sub unit : Nat) : W := BitVec.ofNat 32 (type + 0x1000 * sub + 0x10000 * unit)
  match l.pg with
  | .global => n 0x001 0 0 | .clock => n 0x002 0 0 | .reset => n 0x003 0 0 | .gtimer => n 0x004 0 0
  | .prot => n 0x005 0 0 | .fuse => n 0x006 0 0 | .secMbox => n 0x007 0 0 | .trim => n 0x008 0 0 | .telem => n 0x009 0 0
  | .fcol => n 0x00A 0 0 | .brianePf => n 0x00B 0 0 | .logtrace => n 0x00C 0 0 | .mh i => n 0x010 i 0
  | .beacon => n 0x011 0 0 | .seq => n 0x020 0 l.unit | .ccc => n 0x021 0 l.unit
  | .eng e => if e < 4 then n 0x022 e l.unit else if e = 4 then n 0x023 0 l.unit else n 0x024 0 l.unit
  | .cmem => n 0x025 0 l.unit | .rigging => n 0x030 0 0 | .dmmu => n 0x031 0 0 | .l2 => n 0x032 0 0 | .hbm => n 0x033 0 0
  | .scan => n 0x034 0 0 | .head => n 0x034 (1 + l.unit) 0 | .dp => n 0x034 (3 + l.unit) 0 | .pcieCtl => n 0x035 0 0
  | .instTab => n 0x036 0 0 | .inst => n 0x040 0 l.unit | .brn => n 0x041 0 l.unit | .syncView => n 0x042 0 l.unit
  | _ => 0

/-- Whether BLK_CTRL.ENABLE of a page is a control (the HEAD and DP pages, 15); in every other page it reads 1 and ignores
writes (R132, R182, R235, R290, R341, R529, R581, R630, R670, R747, R779, R809). -/
def Pg.enableRw : Pg → Bool
  | .head | .dp => true
  | _ => false

/-- Pages that implement SOFT_RESET (R36). -/
def Pg.softReset : Pg → Bool
  | .seq | .ccc | .eng _ | .cmem | .head | .dp => true
  | _ => false

/-- How many checkers the owning chapter lists for a page (R46). -/
def Pg.checkers : Pg → Nat
  | .mh 0 => 2 | .mh 1 => 1 | .mh 2 => 2 | .mh 6 => 2
  | .mh 3 => 1 | .mh 4 => 1 | .mh 5 => 1
  | .beacon => 1 | .rigging => 2 | .dmmu => 2 | .l2 => 3 | .hbm => 2 | .scan => 1 | .head => 2 | .dp => 1 | .pcieCtl => 3
  | .seq => 2 | .ccc => 2 | .eng e => if e < 4 then 2 else if e = 4 then 1 else 2 | .cmem => 2 | .trim => 2 | .telem => 1
  | .fcol => 3
  | _ => 0

/-- Pages of an instance window (R82). -/
def Pg.isInst : Pg → Bool
  | .inst | .doorbell | .brn | .msix | .pba | .syncView => true
  | _ => false

/-- Register rows of the GLOBAL page. -/
def rowsGlobal : List Row := [
  ⟨0x100, 1, 0x4, .ro, 0x120D40, .immediate, 0x0, false, false⟩, -- DIE_ID
  ⟨0x104, 1, 0x4, .ro, 0x16400, .immediate, 0x0, false, false⟩, -- PART_ID
  ⟨0x108, 1, 0x4, .ro, 0x0, .immediate, 0x0, false, false⟩, -- UNIQUE_ID_LO
  ⟨0x10C, 1, 0x4, .ro, 0x0, .immediate, 0x0, false, false⟩, -- UNIQUE_ID_HI
  ⟨0x110, 1, 0x4, .rw, 0x0, .immediate, 0xFFFFFFFF, false, false⟩, -- SCRATCH_0
  ⟨0x114, 1, 0x4, .rw, 0x0, .immediate, 0xFFFFFFFF, false, false⟩, -- SCRATCH_1
  ⟨0x120, 1, 0x4, .ro, 0x0, .immediate, 0x0, false, false⟩, -- REG_EVENT_ADDR
  ⟨0x124, 1, 0x4, .rc, 0x0, .immediate, 0x0, false, false⟩, -- REG_EVENT_INFO
  ⟨0x128, 1, 0x4, .rc, 0x0, .immediate, 0x0, false, false⟩] -- UNMAPPED_COUNT

/-- Register rows of the CLOCK page. -/
def rowsClock : List Row := [
  ⟨0x100, 1, 0x4, .ro, 0x0, .immediate, 0x0, false, false⟩, -- PLL_STATUS
  ⟨0x104, 1, 0x4, .ro, 0x0, .immediate, 0x0, false, false⟩, -- SCLK_STATUS
  ⟨0x108, 1, 0x4, .ro, 0x0, .immediate, 0x0, false, false⟩, -- REFCLK_MEAS
  ⟨0x10C, 1, 0x4, .rc, 0x0, .immediate, 0x0, false, false⟩, -- CLK_EVENT
  ⟨0x140, 16, 0x4, .ro, 0x280128, .immediate, 0x0, false, false⟩] -- CCLK_STATE_n

/-- Register rows of the RESET page. -/
def rowsReset : List Row := [
  ⟨0x100, 1, 0x4, .ro, 0x0, .immediate, 0x0, false, false⟩, -- RESET_CAUSE
  ⟨0x104, 1, 0x4, .ro, 0x0, .immediate, 0x0, false, false⟩, -- L3_COUNT
  ⟨0x108, 1, 0x4, .ro, 0x0, .immediate, 0x0, false, false⟩, -- BOOT_STATUS
  ⟨0x10C, 1, 0x4, .ro, 0x0, .immediate, 0x0, false, false⟩, -- BOOT_TIME
  ⟨0x110, 1, 0x4, .wo, 0x0, .immediate, 0xFFFF0001, false, false⟩, -- RESET_REQ
  ⟨0x120, 1, 0x4, .rw, 0x0, .immediate, 0xFFFFFFFF, false, false⟩, -- AON_SCRATCH_0
  ⟨0x124, 1, 0x4, .rw, 0x0, .immediate, 0xFFFFFFFF, false, false⟩] -- AON_SCRATCH_1

/-- Register rows of the GTIMER page. -/
def rowsGtimer : List Row := [
  ⟨0x100, 1, 0x4, .ro, 0x0, .immediate, 0x0, false, true⟩, -- GTIME
  ⟨0x108, 1, 0x4, .rw, 0xA, .immediate, 0x3FF, false, false⟩, -- PTM_CTRL
  ⟨0x10C, 1, 0x4, .ro, 0x0, .immediate, 0x0, false, false⟩, -- PTM_STATUS
  ⟨0x110, 1, 0x4, .ro, 0x0, .immediate, 0x0, false, false⟩, -- PTM_OFFSET
  ⟨0x114, 1, 0x4, .rc, 0x0, .immediate, 0x0, false, false⟩] -- PTM_EVENT

/-- Register rows of the PCIECTL page. -/
def rowsPcieCtl : List Row := [
  ⟨0x100, 1, 0x4, .ro, 0x0, .immediate, 0x0, false, false⟩, -- LINK_STATUS
  ⟨0x104, 1, 0x4, .rc, 0x0, .immediate, 0x0, false, false⟩, -- LINK_EVENT
  ⟨0x108, 1, 0x4, .rw, 0xA, .immediate, 0xFFFFFFFF, false, false⟩, -- HOST_STALL_LIMIT
  ⟨0x10C, 1, 0x4, .ro, 0x0, .immediate, 0x0, false, false⟩, -- STALL_STATUS
  ⟨0x110, 1, 0x4, .rc, 0x0, .immediate, 0x0, false, false⟩, -- STALL_COUNT
  ⟨0x114, 1, 0x4, .rw, 0x0, .immediate, 0xFFFFFFFF, false, false⟩, -- BAR2_WIN_BASE
  ⟨0x118, 1, 0x4, .rc, 0x0, .immediate, 0x0, false, false⟩, -- BAR2_DENIED
  ⟨0x11C, 1, 0x4, .rc, 0x0, .immediate, 0x0, false, false⟩, -- HOST_READ_ERR
  ⟨0x120, 1, 0x4, .ro, 0x0, .immediate, 0x0, false, false⟩, -- IDE_STATUS
  ⟨0x600, 1, 0x4, .ro, 0x0, .immediate, 0x0, false, false⟩, -- DIRTY_SUMMARY
  ⟨0x610, 8, 0x20, .ro, 0x0, .immediate, 0x0, false, false⟩, -- DSESS_s_INFO
  ⟨0x614, 8, 0x20, .ro, 0x0, .immediate, 0x0, false, false⟩, -- DSESS_s_HOST_MARKS
  ⟨0x618, 8, 0x20, .ro, 0x0, .immediate, 0x0, false, false⟩, -- DSESS_s_DEV_MARKS
  ⟨0x61C, 8, 0x20, .ro, 0x0, .immediate, 0x0, false, false⟩, -- DSESS_s_MISSED
  ⟨0x620, 8, 0x20, .ro, 0x0, .immediate, 0x0, false, true⟩] -- DSESS_s_HARVEST_GTIME

/-- Register rows of the DBGINFO page. -/
def rowsDbgInfo : List Row := [
  ⟨0x000, 1, 0x4, .ro, 0x0, .immediate, 0x0, false, false⟩, -- DBG_STATE
  ⟨0x004, 1, 0x4, .rw, 0x0, .immediate, 0x1FFFF, false, false⟩, -- PEEK_BASE
  ⟨0x008, 1, 0x4, .rc, 0x0, .immediate, 0x0, false, false⟩] -- PEEK_DENIED

/-- Register rows of the PROT page. -/
def rowsProt : List Row := [
  ⟨0x100, 1, 0x4, .wos, 0x0, .immediate, 0x1, false, false⟩, -- PROT_LOCK
  ⟨0x110, 1, 0x4, .rw, 0x0, .immediate, 0xF01FF, false, false⟩, -- FW_CARVE
  ⟨0x114, 1, 0x4, .rw, 0x0, .immediate, 0xF01FF, false, false⟩, -- SEC_CARVE
  ⟨0x118, 1, 0x4, .rw, 0x0, .immediate, 0x1FF01FF, false, false⟩, -- TENANT_POOL
  ⟨0x11C, 1, 0x4, .ro, 0x0, .immediate, 0x0, false, false⟩, -- SLOT_SIZE
  ⟨0x120, 1, 0x4, .rc, 0x0, .immediate, 0x0, false, false⟩, -- ACT_EVENT
  ⟨0x124, 1, 0x4, .rc, 0x0, .immediate, 0x0, false, false⟩, -- ACT_DENY_COUNT
  ⟨0x200, 64, 0x4, .rw, 0x0, .immediate, 0xFFFF, false, false⟩, -- ACT_x
  ⟨0x300, 16, 0x8, .rw, 0x0, .immediate, 0x1FFFF, false, false⟩, -- CORE_WIN_w_BASE
  ⟨0x304, 16, 0x8, .rw, 0x0, .immediate, 0x7F1FFFF, false, false⟩] -- CORE_WIN_w_CTRL

/-- Register rows of the FUSE page. -/
def rowsFuse : List Row := [
  ⟨0x100, 1, 0x4, .ro, 0x0, .immediate, 0x0, false, false⟩, -- FUSE_STATUS
  ⟨0x104, 1, 0x4, .ro, 0x0, .immediate, 0x0, false, false⟩, -- ARB_COUNTER
  ⟨0x108, 1, 0x4, .ro, 0x0, .immediate, 0x0, false, false⟩, -- KEY_REVOKE
  ⟨0x140, 48, 0x4, .ro, 0x0, .immediate, 0x0, false, false⟩, -- KENUD_KEY_HASH_k
  ⟨0x200, 12, 0x4, .ro, 0x0, .immediate, 0x0, false, false⟩, -- OWNER_KEY_HASH
  ⟨0x230, 1, 0x4, .ro, 0x0, .immediate, 0x0, false, false⟩] -- OWNER_COMMIT

/-- Register rows of the SECMBOX page. -/
def rowsSecMbox : List Row := [
  ⟨0x100, 1, 0x4, .wo, 0x0, .idle, 0x1FFFF, false, false⟩, -- MBOX_CMD
  ⟨0x104, 1, 0x4, .w1c, 0x0, .immediate, 0x1, false, false⟩, -- MBOX_STATUS
  ⟨0x108, 1, 0x4, .ro, 0x1, .immediate, 0x0, false, false⟩, -- RNG_STATUS
  ⟨0x110, 1, 0x4, .ro, 0x0, .immediate, 0x0, false, true⟩, -- RNG_DATA
  ⟨0x118, 1, 0x4, .ro, 0x0, .immediate, 0x0, false, false⟩, -- SEC_BOOT_INFO
  ⟨0x200, 64, 0x4, .wo, 0x0, .idle, 0xFFFFFFFF, false, false⟩, -- REQ
  ⟨0x300, 64, 0x4, .ro, 0x0, .immediate, 0x0, false, false⟩] -- RSP

/-- Register rows of the BRN page. -/
def rowsBrn : List Row := [
  ⟨0x100, 1, 0x4, .rw, 0x0, .immediate, 0xFFFFFFFF, false, false⟩, -- VER_OFFER
  ⟨0x104, 1, 0x4, .wo, 0x0, .immediate, 0x1, false, false⟩, -- VER_CTRL
  ⟨0x108, 1, 0x4, .ro, 0x0, .immediate, 0x0, false, false⟩, -- VER_STATUS
  ⟨0x10C, 1, 0x4, .ro, 0x0, .immediate, 0x0, false, false⟩, -- FW_RANGE
  ⟨0x110, 1, 0x4, .rw, 0x0, .immediate, 0xFF, false, false⟩, -- REQ_PROD
  ⟨0x114, 1, 0x4, .ro, 0x0, .immediate, 0x0, false, false⟩, -- REQ_CONS
  ⟨0x118, 1, 0x4, .ro, 0x0, .immediate, 0x0, false, false⟩, -- RSP_PROD
  ⟨0x11C, 1, 0x4, .rw, 0x0, .immediate, 0xFF, false, false⟩, -- RSP_CONS
  ⟨0x120, 1, 0x4, .w1c, 0x0, .immediate, 0x6, false, false⟩, -- BRIANE_STATUS
  ⟨0x200, 64, 0x4, .rw, 0x0, .immediate, 0xFFFFFFFF, false, false⟩, -- REQ_RING
  ⟨0x300, 64, 0x4, .ro, 0x0, .immediate, 0x0, false, false⟩] -- RSP_RING

/-- Register rows of the BRIANEPF page. -/
def rowsBrianePf : List Row := [
  ⟨0x100, 1, 0x4, .ro, 0x0, .immediate, 0x0, false, true⟩, -- FW_VERSION
  ⟨0x108, 1, 0x4, .ro, 0x0, .immediate, 0x0, false, true⟩, -- STAGED_VERSION
  ⟨0x110, 1, 0x4, .ro, 0x0, .immediate, 0x0, false, false⟩, -- FW_STATE
  ⟨0x114, 1, 0x4, .rw, 0x32, .immediate, 0x3FF, false, false⟩, -- ACTIVATE_WINDOW
  ⟨0x118, 1, 0x4, .ro, 0x0, .immediate, 0x0, false, false⟩, -- ACT_RESULT
  ⟨0x120, 4, 0x4, .ro, 0x0, .immediate, 0x0, false, false⟩, -- FN_OPEN_0
  ⟨0x130, 4, 0x4, .ro, 0x0, .immediate, 0x0, false, false⟩] -- FN_REJECTED_0

/-- Register rows of the LOGTRACE page. -/
def rowsLogtrace : List Row := [
  ⟨0x100, 1, 0x4, .rw, 0x1, .immediate, 0x7, false, false⟩, -- LOG_CTRL
  ⟨0x104, 1, 0x4, .ro, 0x0, .immediate, 0x0, false, false⟩, -- LOG_HEAD
  ⟨0x108, 1, 0x4, .rw, 0x0, .immediate, 0xFFFFFFFF, false, false⟩, -- LOG_SEL
  ⟨0x10C, 1, 0x4, .ro, 0x0, .immediate, 0x0, false, false⟩, -- LOG_SEL_STATUS
  ⟨0x110, 1, 0x4, .rc, 0x0, .immediate, 0x0, false, false⟩, -- TRACE_DROPPED
  ⟨0x114, 1, 0x4, .rc, 0x0, .immediate, 0x0, false, false⟩, -- LOG_OVERWRITTEN
  ⟨0x140, 8, 0x4, .rw, 0x0, .immediate, 0xFFFFFFFF, false, false⟩, -- TRACE_MASK_m
  ⟨0x200, 8, 0x4, .ro, 0x0, .immediate, 0x0, false, false⟩] -- LOG_REC

/-- Register rows of the INSTANCE main page. -/
def rowsInstTab : List Row := [
  ⟨0x100, 1, 0x4, .ro, 0x1, .immediate, 0x0, false, false⟩, -- INST_SUMMARY
  ⟨0x104, 1, 0x4, .ro, 0x100040, .immediate, 0x0, false, false⟩, -- QUOTA_TOTALS
  ⟨0x108, 1, 0x4, .ro, 0x10, .immediate, 0x0, false, false⟩, -- RES_TOTAL
  ⟨0x110, 4, 0x4, .ro, 0x1, .immediate, 0x0, false, false⟩, -- ACTIVE_0
  ⟨0x120, 4, 0x4, .ro, 0x0, .immediate, 0x0, false, false⟩, -- FAULTED_0
  ⟨0x140, 16, 0x4, .ro, 0x0, .immediate, 0x0, false, false⟩, -- CGRP_g
  ⟨0x180, 1, 0x4, .ro, 0x0, .immediate, 0x0, false, false⟩, -- SCRUB_STATUS
  ⟨0x400, 128, 0x4, .rw, 0x10, .immediate, 0xFF, false, false⟩, -- HBM_SHARE_k
  ⟨0x600, 16, 0x4, .rw, 0xFFF, .launch, 0xFFF, false, false⟩] -- L2_WAYS_g

/-- Register rows of the instance entries. -/
def rowsInstEnt : List Row := [
  ⟨0x000, 1, 0x4, .ro, 0x0, .immediate, 0x0, false, false⟩, -- STATE
  ⟨0x004, 1, 0x4, .rw, 0x10014, .immediate, 0x103FF, false, false⟩, -- CTRL
  ⟨0x008, 1, 0x4, .ro, 0x0, .immediate, 0x0, false, false⟩, -- QUEUES
  ⟨0x00C, 1, 0x4, .ro, 0x0, .immediate, 0x0, false, false⟩, -- SYNC_BLOCKS
  ⟨0x010, 1, 0x4, .ro, 0x0, .immediate, 0x0, false, false⟩, -- HTAB
  ⟨0x014, 1, 0x4, .ro, 0x0, .immediate, 0x0, false, false⟩, -- RESERV
  ⟨0x018, 1, 0x4, .ro, 0x0, .immediate, 0x0, false, false⟩, -- SLOTS
  ⟨0x01C, 1, 0x4, .ro, 0x0, .immediate, 0x0, false, false⟩, -- CGRP_RIGHTS
  ⟨0x020, 1, 0x4, .ro, 0x0, .immediate, 0x0, false, false⟩, -- FAULTS
  ⟨0x024, 1, 0x4, .rc, 0x0, .immediate, 0x0, false, false⟩] -- FLUSH_DROPPED

/-- Register rows of the INST page. -/
def rowsInst : List Row := [
  ⟨0x100, 1, 0x4, .ro, 0x0, .immediate, 0x0, false, false⟩, -- INST_ID
  ⟨0x104, 1, 0x4, .ro, 0x0, .immediate, 0x0, false, false⟩, -- INST_STATE
  ⟨0x108, 1, 0x4, .ro, 0x0, .immediate, 0x0, false, false⟩, -- INST_QUEUES
  ⟨0x10C, 1, 0x4, .ro, 0x0, .immediate, 0x0, false, false⟩, -- INST_SYNC
  ⟨0x110, 1, 0x4, .ro, 0x0, .immediate, 0x0, false, false⟩, -- INST_RESERV
  ⟨0x114, 1, 0x4, .ro, 0x0, .immediate, 0x0, false, false⟩, -- INST_SLOTS
  ⟨0x118, 1, 0x4, .ro, 0x0, .immediate, 0x0, false, false⟩, -- INST_CGRP
  ⟨0x120, 1, 0x4, .rw, 0x0, .immediate, 0xFFF, false, false⟩, -- VEC_MAP
  ⟨0x124, 1, 0x4, .rc, 0x0, .immediate, 0x0, false, false⟩] -- FAULT_NOTE

/-- Register rows of the QDESC entries. -/
def rowsQdesc : List Row := [
  ⟨0x000, 1, 0x4, .ro, 0x0, .immediate, 0x0, false, true⟩, -- RING_BASE
  ⟨0x008, 1, 0x4, .ro, 0x0, .immediate, 0x0, false, false⟩, -- QCFG
  ⟨0x00C, 1, 0x4, .ro, 0x0, .immediate, 0x0, false, false⟩, -- QIRQ
  ⟨0x010, 1, 0x4, .ro, 0x0, .immediate, 0x0, false, false⟩, -- TIMEOUT_PRESETS
  ⟨0x014, 1, 0x4, .ro, 0x0, .immediate, 0x0, false, false⟩, -- QSTATE
  ⟨0x018, 1, 0x4, .ro, 0x0, .immediate, 0x0, false, false⟩, -- HEAD
  ⟨0x01C, 1, 0x4, .ro, 0x0, .immediate, 0x0, false, false⟩, -- LATCHED_TAIL
  ⟨0x020, 1, 0x4, .ro, 0x0, .immediate, 0x0, false, false⟩, -- FETCH_PTR
  ⟨0x024, 1, 0x4, .ro, 0x0, .immediate, 0x0, false, false⟩, -- FAULT_INFO
  ⟨0x028, 1, 0x4, .ro, 0x0, .immediate, 0x0, false, true⟩, -- IB_ADDR
  ⟨0x030, 1, 0x4, .ro, 0x0, .immediate, 0x0, false, false⟩, -- IB_REMAIN
  ⟨0x034, 1, 0x4, .ro, 0x0, .immediate, 0x0, false, false⟩, -- CMD_DONE
  ⟨0x038, 1, 0x4, .ro, 0x0, .immediate, 0x0, false, false⟩] -- TIMEOUT_LEFT

/-- Register rows of the DOORBELL page. -/
def rowsDoorbell : List Row := [
  ⟨0x000, 64, 0x8, .rw, 0x0, .immediate, 0xFFFFFFFF, false, true⟩] -- DOORBELL_q

/-- Register rows of the MASTHEAD page 0. -/
def rowsMh0 : List Row := [
  ⟨0x100, 1, 0x4, .ro, 0x0, .immediate, 0x0, false, false⟩, -- FE_STATUS
  ⟨0x104, 1, 0x4, .rc, 0x0, .immediate, 0x0, false, false⟩, -- DOORBELL_COUNT
  ⟨0x108, 1, 0x4, .rc, 0x0, .immediate, 0x0, false, false⟩, -- DOORBELL_DROPS
  ⟨0x10C, 1, 0x4, .rc, 0x0, .immediate, 0x0, false, false⟩, -- DROP_EVENT
  ⟨0x110, 1, 0x4, .rc, 0x0, .immediate, 0x0, false, false⟩, -- FETCH_LAT_MAX
  ⟨0x400, 1, 0x4, .rw, 0x3, .immediate, 0x3, false, false⟩] -- FETCH_CTRL

/-- Register rows of the MASTHEAD page 1. -/
def rowsMh1 : List Row := [
  ⟨0x100, 1, 0x4, .ro, 0x0, .immediate, 0x0, false, false⟩, -- QCOUNT
  ⟨0x104, 1, 0x4, .rc, 0x0, .immediate, 0x0, false, false⟩, -- QFAULT_EVENT
  ⟨0x108, 1, 0x4, .rc, 0x0, .immediate, 0x0, false, false⟩, -- QFAULT_COUNT
  ⟨0x200, 32, 0x4, .ro, 0x0, .immediate, 0x0, false, false⟩, -- QFAULTED_j
  ⟨0x280, 32, 0x4, .ro, 0x0, .immediate, 0x0, false, false⟩] -- QRUNNING_j

/-- Register rows of the MASTHEAD page 2. -/
def rowsMh2 : List Row := [
  ⟨0x100, 1, 0x4, .ro, 0x1000, .immediate, 0x0, false, false⟩, -- HTAB_POOL
  ⟨0x104, 1, 0x4, .rc, 0x0, .immediate, 0x0, false, false⟩, -- HTAB_MISS
  ⟨0x108, 1, 0x4, .rc, 0x0, .immediate, 0x0, false, false⟩, -- HANDLE_FAULTS
  ⟨0x200, 128, 0x4, .ro, 0x0, .immediate, 0x0, false, false⟩] -- HTAB_LOC_k

/-- Register rows of the MASTHEAD page 6. -/
def rowsMh6 : List Row := [
  ⟨0x100, 1, 0x4, .ro, 0x0, .immediate, 0x0, false, false⟩, -- BMV_STATUS
  ⟨0x110, 4, 0x10, .ro, 0x0, .immediate, 0x0, false, false⟩, -- BMV_n_QUEUE
  ⟨0x114, 4, 0x10, .ro, 0x0, .immediate, 0x0, false, false⟩, -- BMV_n_PROGRESS
  ⟨0x118, 4, 0x10, .rc, 0x0, .immediate, 0x0, false, false⟩, -- BMV_n_TOTAL
  ⟨0x11C, 4, 0x10, .rc, 0x0, .immediate, 0x0, false, false⟩, -- BMV_n_OVERLAP
  ⟨0x150, 1, 0x4, .rc, 0x0, .immediate, 0x0, false, false⟩, -- OVERLAP_UNSAFE_COUNT
  ⟨0x154, 1, 0x4, .rc, 0x0, .immediate, 0x0, false, false⟩, -- INCOMPLETE_COUNT
  ⟨0x158, 1, 0x4, .rc, 0x0, .immediate, 0x0, false, false⟩, -- REC_DROPPED
  ⟨0x15C, 1, 0x4, .ro, 0x0, .immediate, 0x0, false, false⟩, -- STAGING_BASE
  ⟨0x400, 1, 0x4, .rw, 0xF, .immediate, 0xF, false, false⟩] -- BMV_AUTO_MASK

/-- Register rows of the MASTHEAD page 3. -/
def rowsMh3 : List Row := [
  ⟨0x100, 1, 0x4, .rw, 0x3E8, .immediate, 0x1FFFF, false, false⟩, -- SLICE_CADENCE
  ⟨0x104, 1, 0x4, .rw, 0x3E8, .immediate, 0x1FFFF, false, false⟩, -- SLICE_INTERACTIVE
  ⟨0x108, 1, 0x4, .rw, 0x3E8, .immediate, 0x1FFFF, false, false⟩, -- SLICE_BATCH
  ⟨0x110, 1, 0x4, .ro, 0x0, .immediate, 0x0, false, false⟩, -- READY_COUNT
  ⟨0x114, 1, 0x4, .rc, 0x0, .immediate, 0x0, false, false⟩, -- DISPATCH_COUNT
  ⟨0x118, 1, 0x4, .rc, 0x0, .immediate, 0x0, false, false⟩, -- DISPATCH_LAT_MAX
  ⟨0x11C, 1, 0x4, .rc, 0x0, .immediate, 0x0, false, false⟩, -- SWITCH_COUNT
  ⟨0x120, 1, 0x4, .rc, 0x0, .immediate, 0x0, false, false⟩, -- SWAP_OUT_COUNT
  ⟨0x124, 1, 0x4, .rc, 0x0, .immediate, 0x0, false, false⟩, -- SWAP_IN_COUNT
  ⟨0x128, 1, 0x4, .rc, 0x0, .immediate, 0x0, false, false⟩] -- DEMOTE_COUNT

/-- Register rows of the MASTHEAD page 4. -/
def rowsMh4 : List Row := [
  ⟨0x100, 1, 0x4, .ro, 0x0, .immediate, 0x0, false, false⟩, -- RES_SUMMARY
  ⟨0x104, 1, 0x4, .rw, 0x0, .immediate, 0xFF, true, false⟩, -- RES_SEL
  ⟨0x108, 1, 0x4, .ro, 0x0, .immediate, 0x0, false, false⟩, -- RES_INFO
  ⟨0x10C, 1, 0x4, .ro, 0x0, .immediate, 0x0, false, false⟩, -- RES_BUDGET
  ⟨0x110, 1, 0x4, .ro, 0x0, .immediate, 0x0, false, false⟩, -- RES_CHARGED
  ⟨0x114, 1, 0x4, .ro, 0x0, .immediate, 0x0, false, false⟩, -- RES_LAST
  ⟨0x118, 1, 0x4, .ro, 0x0, .immediate, 0x0, false, true⟩, -- RES_QUEUES
  ⟨0x120, 1, 0x4, .ro, 0x0, .immediate, 0x0, false, false⟩, -- RES_EVENTS
  ⟨0x124, 1, 0x4, .rc, 0x0, .immediate, 0x0, false, false⟩, -- MISS_EVENT
  ⟨0x128, 1, 0x4, .rc, 0x0, .immediate, 0x0, false, false⟩, -- MISS_COUNT
  ⟨0x180, 16, 0x4, .ro, 0x0, .immediate, 0x0, false, false⟩] -- CLUSTER_UTIL_n

/-- Register rows of the MASTHEAD page 5. -/
def rowsMh5 : List Row := [
  ⟨0x100, 1, 0x4, .rw, 0xC8, .immediate, 0x3FFF, false, false⟩, -- YIELD_LIMIT
  ⟨0x104, 1, 0x4, .rw, 0x5, .immediate, 0x7F, false, false⟩, -- DRAIN_GRACE
  ⟨0x108, 1, 0x4, .rc, 0x0, .immediate, 0x0, false, false⟩, -- TIMEOUT_COUNT
  ⟨0x10C, 1, 0x4, .rc, 0x0, .immediate, 0x0, false, false⟩, -- KILL_COUNT
  ⟨0x110, 1, 0x4, .rc, 0x0, .immediate, 0x0, false, false⟩, -- TIMEOUT_EVENT
  ⟨0x114, 1, 0x4, .rc, 0x0, .immediate, 0x0, false, false⟩, -- FORCED_SAVE_COUNT
  ⟨0x118, 1, 0x4, .rc, 0x0, .immediate, 0x0, false, false⟩, -- OVERDUE_COUNT
  ⟨0x11C, 1, 0x4, .rc, 0x0, .immediate, 0x0, false, false⟩] -- YIELD_GAP_MAX

/-- Register rows of the BEACON page. -/
def rowsBeacon : List Row := [
  ⟨0x100, 8, 0x20, .ro, 0x0, .immediate, 0x0, false, false⟩, -- BCN_CFG_b
  ⟨0x104, 8, 0x20, .ro, 0x0, .immediate, 0x0, false, false⟩, -- BCN_PERIOD_b
  ⟨0x108, 8, 0x20, .ro, 0x0, .immediate, 0x0, false, false⟩, -- BCN_TICKS_b
  ⟨0x10C, 8, 0x20, .ro, 0x0, .immediate, 0x0, false, false⟩, -- BCN_RESID_b
  ⟨0x110, 8, 0x20, .ro, 0x0, .immediate, 0x0, false, true⟩, -- BCN_LAST_TICK_b
  ⟨0x118, 8, 0x20, .rc, 0x0, .immediate, 0x0, false, false⟩, -- BCN_EVENTS_b
  ⟨0x11C, 8, 0x20, .rc, 0x0, .immediate, 0x0, false, false⟩, -- BCN_RESID_MAX_b
  ⟨0x400, 8, 0x4, .rw, 0x0, .frame, 0x87FFFFFF, false, false⟩] -- BCN_OFFSET_b

/-- Register rows of the RIGGING page. -/
def rowsRigging : List Row := [
  ⟨0x100, 1, 0x4, .ro, 0x0, .immediate, 0x0, false, false⟩, -- HUB_STATUS
  ⟨0x104, 1, 0x4, .rw, 0x0, .immediate, 0x3FFF, true, false⟩, -- OBJ_SEL
  ⟨0x108, 1, 0x4, .ro, 0x0, .immediate, 0x0, false, false⟩, -- OBJ_CFG
  ⟨0x10C, 1, 0x4, .ro, 0x0, .immediate, 0x0, false, false⟩, -- OBJ_VALUE
  ⟨0x110, 1, 0x4, .ro, 0x0, .immediate, 0x0, false, false⟩, -- OBJ_LIMIT
  ⟨0x114, 1, 0x4, .ro, 0x0, .immediate, 0x0, false, false⟩, -- OBJ_REALIGN
  ⟨0x118, 1, 0x4, .ro, 0x0, .immediate, 0x0, false, false⟩, -- OBJ_DRIFT
  ⟨0x11C, 1, 0x4, .ro, 0x0, .immediate, 0x0, false, false⟩, -- OBJ_COUNTS
  ⟨0x120, 1, 0x4, .rc, 0x0, .immediate, 0x0, false, false⟩, -- RELEASE_COUNT
  ⟨0x124, 1, 0x4, .rc, 0x0, .immediate, 0x0, false, false⟩, -- UNDERFLOW_COUNT
  ⟨0x128, 1, 0x4, .rc, 0x0, .immediate, 0x0, false, false⟩, -- OVERFLOW_COUNT
  ⟨0x12C, 1, 0x4, .rc, 0x0, .immediate, 0x0, false, false⟩, -- TIMEOUT_COUNT
  ⟨0x130, 1, 0x4, .rc, 0x0, .immediate, 0x0, false, false⟩, -- FORCE_COUNT
  ⟨0x134, 1, 0x4, .rc, 0x0, .immediate, 0x0, false, false⟩, -- SPIN_EVENTS
  ⟨0x138, 1, 0x4, .rc, 0x0, .immediate, 0x0, false, false⟩, -- SYNC_EVENT
  ⟨0x13C, 1, 0x4, .rc, 0x0, .immediate, 0x0, false, false⟩, -- RELEASE_LAT_MAX
  ⟨0x200, 128, 0x4, .rw, 0xFA, .immediate, 0x3FFF, false, false⟩] -- WAIT_LIMIT_k

/-- Register rows of the SYNCVIEW page. -/
def rowsSyncView : List Row := [
  ⟨0x100, 1, 0x4, .rw, 0x0, .immediate, 0x3FFF, false, false⟩, -- SV_SEL
  ⟨0x104, 1, 0x4, .ro, 0x0, .immediate, 0x0, false, false⟩, -- SV_STATE
  ⟨0x108, 1, 0x4, .ro, 0x0, .immediate, 0x0, false, false⟩, -- SV_VALUE
  ⟨0x10C, 1, 0x4, .ro, 0x0, .immediate, 0x0, false, false⟩, -- SV_LIMIT
  ⟨0x110, 1, 0x4, .ro, 0x0, .immediate, 0x0, false, false⟩, -- SV_DRIFT
  ⟨0x114, 1, 0x4, .ro, 0x0, .immediate, 0x0, false, false⟩, -- SV_COUNTS
  ⟨0x118, 1, 0x4, .wo, 0x0, .immediate, 0xFFFFFFFF, false, true⟩, -- SV_OP
  ⟨0x120, 1, 0x4, .ro, 0x0, .immediate, 0x0, false, false⟩, -- SV_OP_STATUS
  ⟨0x124, 1, 0x4, .rc, 0x0, .immediate, 0x0, false, false⟩, -- SV_EVENTS
  ⟨0x128, 1, 0x4, .rc, 0x0, .immediate, 0x0, false, false⟩, -- SV_NOTIFY
  ⟨0x12C, 1, 0x4, .ro, 0xFA, .immediate, 0x0, false, false⟩, -- SV_WAIT_LIMIT
  ⟨0x140, 8, 0x4, .ro, 0x0, .immediate, 0x0, false, false⟩] -- SV_HELD_j

/-- Register rows of the SEQ page. -/
def rowsSeq : List Row := [
  ⟨0x100, 1, 0x4, .ro, 0x0, .immediate, 0x0, false, false⟩, -- CLUSTER_STATUS
  ⟨0x110, 4, 0x4, .ro, 0x0, .immediate, 0x0, false, false⟩, -- CTX_STATE_s
  ⟨0x120, 1, 0x4, .rc, 0x0, .immediate, 0x0, false, false⟩, -- SWITCH_COUNT
  ⟨0x124, 1, 0x4, .rc, 0x0, .immediate, 0x0, false, false⟩, -- YIELD_COUNT
  ⟨0x128, 1, 0x4, .rc, 0x0, .immediate, 0x0, false, false⟩, -- REEF_COUNT
  ⟨0x12C, 1, 0x4, .rc, 0x0, .immediate, 0x0, false, false⟩, -- REEF_TIME
  ⟨0x130, 1, 0x4, .rc, 0x0, .immediate, 0x0, false, false⟩] -- TRAP_COUNT

/-- Register rows of the CCC page. -/
def rowsCcc : List Row := [
  ⟨0x100, 1, 0x4, .ro, 0x0, .immediate, 0x0, false, false⟩, -- CCC_STATUS
  ⟨0x104, 1, 0x4, .rc, 0x0, .immediate, 0x0, false, false⟩, -- TRAP_INFO
  ⟨0x108, 1, 0x4, .ro, 0x0, .immediate, 0x0, false, false⟩, -- TRAP_PC
  ⟨0x10C, 1, 0x4, .ro, 0x0, .immediate, 0x0, false, false⟩, -- TRAP_VALUE
  ⟨0x110, 1, 0x4, .ro, 0x0, .immediate, 0x0, false, false⟩, -- TRAP_DETAIL
  ⟨0x114, 1, 0x4, .ro, 0x0, .immediate, 0x0, false, false⟩] -- TRAP_ITEM

/-- Register rows of the TE, VU and CDMA pages. -/
def rowsEng : List Row := [
  ⟨0x100, 1, 0x4, .ro, 0x0, .immediate, 0x0, false, false⟩, -- ENG_STATUS
  ⟨0x104, 1, 0x4, .rc, 0x0, .immediate, 0x0, false, false⟩, -- DESC_DONE
  ⟨0x108, 1, 0x4, .rc, 0x0, .immediate, 0x0, false, false⟩, -- BUSY_TIME
  ⟨0x10C, 1, 0x4, .rc, 0x0, .immediate, 0x0, false, false⟩, -- WORK_DONE
  ⟨0x110, 1, 0x4, .rc, 0x0, .immediate, 0x0, false, false⟩, -- ENG_EVENTS
  ⟨0x114, 1, 0x4, .rc, 0x0, .immediate, 0x0, false, false⟩] -- UNSAFE_COUNT

/-- Register rows of the DMMU page. -/
def rowsDmmu : List Row := [
  ⟨0x100, 1, 0x4, .ro, 0x0, .immediate, 0x0, false, false⟩, -- DMMU_STATUS
  ⟨0x104, 1, 0x4, .rc, 0x0, .immediate, 0x0, false, false⟩, -- WALK_COUNT
  ⟨0x108, 1, 0x4, .rc, 0x0, .immediate, 0x0, false, false⟩, -- TLB_MISS_YARD
  ⟨0x10C, 1, 0x4, .rc, 0x0, .immediate, 0x0, false, false⟩, -- TLB_MISS_MH
  ⟨0x110, 1, 0x4, .rc, 0x0, .immediate, 0x0, false, false⟩, -- FAULT_EVENT
  ⟨0x118, 1, 0x4, .ro, 0x0, .immediate, 0x0, false, true⟩, -- FAULT_VA
  ⟨0x120, 1, 0x4, .rc, 0x0, .immediate, 0x0, false, false⟩, -- DMMU_FAULT_COUNT
  ⟨0x124, 1, 0x4, .rc, 0x0, .immediate, 0x0, false, false⟩, -- SLOT_VIOL_COUNT
  ⟨0x128, 1, 0x4, .rc, 0x0, .immediate, 0x0, false, false⟩] -- INVAL_COUNT

/-- Register rows of the address-space entries. -/
def rowsDmmuEnt : List Row := [
  ⟨0x000, 1, 0x4, .ro, 0x0, .immediate, 0x0, false, true⟩, -- ROOT_k
  ⟨0x008, 1, 0x4, .ro, 0x0, .immediate, 0x0, false, false⟩] -- IPA_LIMIT_k

/-- Register rows of the L2 page. -/
def rowsL2 : List Row := [
  ⟨0x100, 1, 0x4, .rw, 0x0, .immediate, 0x1F, true, false⟩, -- SLICE_SEL
  ⟨0x104, 1, 0x4, .rc, 0x0, .immediate, 0x0, false, false⟩, -- SL_HITS
  ⟨0x108, 1, 0x4, .rc, 0x0, .immediate, 0x0, false, false⟩, -- SL_MISSES
  ⟨0x10C, 1, 0x4, .rc, 0x0, .immediate, 0x0, false, false⟩, -- SL_WRITEBACKS
  ⟨0x110, 1, 0x4, .ro, 0x0, .immediate, 0x0, false, false⟩, -- SL_KEEP
  ⟨0x114, 1, 0x4, .rc, 0x0, .immediate, 0x0, false, false⟩, -- SL_ECC
  ⟨0x120, 1, 0x4, .rc, 0x0, .immediate, 0x0, false, false⟩, -- STREAMS
  ⟨0x400, 1, 0x4, .rw, 0x0, .immediate, 0x3, false, false⟩] -- DET_CTRL

/-- Register rows of the HBM page. -/
def rowsHbm : List Row := [
  ⟨0x100, 1, 0x4, .ro, 0x0, .immediate, 0x0, false, false⟩, -- HBM_STATUS
  ⟨0x104, 1, 0x4, .rc, 0x0, .immediate, 0x0, false, false⟩, -- ECC_CORR_COUNT
  ⟨0x108, 1, 0x4, .rc, 0x0, .immediate, 0x0, false, false⟩, -- ECC_UNCORR_COUNT
  ⟨0x10C, 1, 0x4, .rc, 0x0, .immediate, 0x0, false, false⟩, -- ECC_EVENT
  ⟨0x110, 1, 0x4, .ro, 0x0, .immediate, 0x0, false, true⟩, -- ECC_EVENT_ADDR
  ⟨0x118, 1, 0x4, .ro, 0x0, .immediate, 0x0, false, false⟩, -- PATROL_STATUS
  ⟨0x120, 1, 0x4, .rw, 0x0, .immediate, 0x7F, true, false⟩, -- INJ_SEL
  ⟨0x400, 1, 0x4, .rw, 0x18, .immediate, 0x7F, false, false⟩] -- PATROL_CTRL

/-- Register rows of the CMEM page. -/
def rowsCmem : List Row := [
  ⟨0x100, 1, 0x4, .ro, 0xC, .immediate, 0x0, false, false⟩, -- L1_STATUS
  ⟨0x104, 1, 0x4, .ro, 0x0, .immediate, 0x0, false, false⟩, -- GRANULE_MAP_LO
  ⟨0x108, 1, 0x4, .ro, 0x0, .immediate, 0x0, false, false⟩, -- GRANULE_MAP_HI
  ⟨0x10C, 1, 0x4, .rc, 0x0, .immediate, 0x0, false, false⟩, -- L1_HITS
  ⟨0x110, 1, 0x4, .rc, 0x0, .immediate, 0x0, false, false⟩, -- L1_MISSES
  ⟨0x114, 1, 0x4, .rc, 0x0, .immediate, 0x0, false, false⟩, -- L1_INVAL
  ⟨0x118, 1, 0x4, .rc, 0x0, .immediate, 0x0, false, false⟩, -- STREAMS
  ⟨0x11C, 1, 0x4, .rc, 0x0, .immediate, 0x0, false, false⟩, -- ECC_EVENTS
  ⟨0x400, 1, 0x4, .rw, 0x0, .launch, 0x1, false, false⟩] -- DET_CTRL

/-- Register rows of the SCAN page. -/
def rowsScan : List Row := [
  ⟨0x100, 1, 0x4, .rw, 0x0, .frame, 0x33, false, false⟩, -- PORT_ROUTE
  ⟨0x104, 1, 0x4, .ro, 0x0, .immediate, 0x0, false, false⟩, -- ROUTE_STATUS
  ⟨0x108, 1, 0x4, .rw, 0x7D0, .immediate, 0x3FFF, false, false⟩] -- HEAD_HOLD_LIMIT

/-- Register rows of the HEAD page. -/
def rowsHead : List Row := [
  ⟨0x100, 1, 0x4, .rw, 0x0, .static, 0x1FFF1FFF, false, false⟩, -- H_TIMING
  ⟨0x104, 1, 0x4, .rw, 0x0, .static, 0x81FF1FFF, false, false⟩, -- H_SYNC
  ⟨0x108, 1, 0x4, .rw, 0x0, .static, 0x1FFF1FFF, false, false⟩, -- V_TIMING
  ⟨0x10C, 1, 0x4, .rw, 0x0, .static, 0x81FF1FFF, false, false⟩, -- V_SYNC
  ⟨0x110, 1, 0x4, .rw, 0x0, .static, 0x3FFFFF, false, false⟩, -- PCLK_KHZ
  ⟨0x114, 1, 0x4, .rw, 0x0, .immediate, 0x31, false, false⟩, -- HEAD_CTRL
  ⟨0x118, 1, 0x4, .ro, 0x0, .immediate, 0x0, false, false⟩, -- HEAD_STATUS
  ⟨0x11C, 1, 0x4, .ro, 0x0, .immediate, 0x0, false, false⟩, -- READ_SHARE
  ⟨0x120, 1, 0x4, .ro, 0x0, .immediate, 0x0, false, true⟩, -- FRAME_COUNTER
  ⟨0x128, 1, 0x4, .ro, 0x0, .immediate, 0x0, false, true⟩, -- VBLANK_GTIME
  ⟨0x130, 1, 0x4, .ro, 0x0, .immediate, 0x0, false, false⟩, -- LAST_CRC
  ⟨0x134, 1, 0x4, .ro, 0x0, .immediate, 0x0, false, false⟩, -- PROD_CRC
  ⟨0x138, 1, 0x4, .ro, 0x0, .immediate, 0x0, false, false⟩, -- CUR_INFO
  ⟨0x140, 1, 0x4, .rc, 0x0, .immediate, 0x0, false, false⟩, -- FLIP_COUNT
  ⟨0x144, 1, 0x4, .rc, 0x0, .immediate, 0x0, false, false⟩, -- SKIP_COUNT
  ⟨0x148, 1, 0x4, .rc, 0x0, .immediate, 0x0, false, false⟩, -- CRC_MISMATCH_COUNT
  ⟨0x14C, 1, 0x4, .rc, 0x0, .immediate, 0x0, false, false⟩, -- UNDERRUN_COUNT
  ⟨0x150, 1, 0x4, .ro, 0x0, .immediate, 0x0, false, false⟩, -- RCPT_STATUS
  ⟨0x154, 1, 0x4, .rc, 0x0, .immediate, 0x0, false, false⟩, -- RCPT_COUNTS
  ⟨0x160, 1, 0x4, .w1s, 0x0, .immediate, 0x1, false, false⟩, -- CAP_CTRL
  ⟨0x164, 1, 0x4, .ro, 0x0, .immediate, 0x0, false, false⟩, -- CAP_STATUS
  ⟨0x168, 1, 0x4, .rw, 0x0, .idle, 0xFFFFFFFF, false, true⟩, -- CAP_ADDR
  ⟨0x170, 1, 0x4, .rw, 0x0, .idle, 0xFFFFFFFF, false, false⟩, -- CAP_PITCH
  ⟨0x178, 1, 0x4, .ro, 0x0, .immediate, 0x0, false, true⟩, -- CAP_BYTES
  ⟨0x180, 1, 0x4, .rw, 0x0, .frame, 0x1, false, false⟩, -- PRISM_BANK_SEL
  ⟨0x184, 1, 0x4, .ro, 0x0, .immediate, 0x0, false, false⟩, -- PRISM_ACTIVE
  ⟨0x188, 1, 0x4, .rw, 0x0, .immediate, 0x11FFF, false, false⟩, -- LUT_INDEX
  ⟨0x18C, 1, 0x4, .rw, 0x0, .immediate, 0xFFFF, false, false⟩, -- LUT_DATA
  ⟨0x200, 2, 0x40, .rw, 0x0, .immediate, 0xFFFF, false, false⟩, -- OFF_b_0
  ⟨0x204, 2, 0x40, .rw, 0x0, .immediate, 0xFFFF, false, false⟩, -- OFF_b_0
  ⟨0x208, 2, 0x40, .rw, 0x0, .immediate, 0xFFFF, false, false⟩, -- OFF_b_0
  ⟨0x20C, 2, 0x40, .rw, 0x0, .immediate, 0xFFFF, false, false⟩, -- M_b_00
  ⟨0x210, 2, 0x40, .rw, 0x0, .immediate, 0xFFFF, false, false⟩, -- M_b_00
  ⟨0x214, 2, 0x40, .rw, 0x0, .immediate, 0xFFFF, false, false⟩, -- M_b_00
  ⟨0x218, 2, 0x40, .rw, 0x0, .immediate, 0xFFFF, false, false⟩, -- M_b_00
  ⟨0x21C, 2, 0x40, .rw, 0x0, .immediate, 0xFFFF, false, false⟩, -- M_b_00
  ⟨0x220, 2, 0x40, .rw, 0x0, .immediate, 0xFFFF, false, false⟩, -- M_b_00
  ⟨0x224, 2, 0x40, .rw, 0x0, .immediate, 0xFFFF, false, false⟩, -- M_b_00
  ⟨0x228, 2, 0x40, .rw, 0x0, .immediate, 0xFFFF, false, false⟩, -- M_b_00
  ⟨0x22C, 2, 0x40, .rw, 0x0, .immediate, 0xFFFF, false, false⟩] -- M_b_00

/-- Register rows of the DP page. -/
def rowsDp : List Row := [
  ⟨0x100, 1, 0x4, .rw, 0x0, .static, 0x37, false, false⟩, -- DP_LINK_CFG
  ⟨0x104, 1, 0x4, .wo, 0x0, .idle, 0x1, false, false⟩, -- DP_TRAIN
  ⟨0x108, 1, 0x4, .ro, 0x0, .immediate, 0x0, false, false⟩, -- DP_LINK_STATUS
  ⟨0x10C, 1, 0x4, .ro, 0x0, .immediate, 0x0, false, false⟩, -- HPD_STATUS
  ⟨0x110, 1, 0x4, .wo, 0x0, .idle, 0x8FFFFFFF, false, false⟩, -- AUX_CMD
  ⟨0x114, 1, 0x4, .w1c, 0x0, .immediate, 0x100, false, false⟩, -- AUX_STATUS
  ⟨0x120, 4, 0x4, .rw, 0x0, .immediate, 0xFFFFFFFF, false, false⟩, -- AUX_DATA_0
  ⟨0x140, 1, 0x4, .rw, 0x0, .frame, 0x3, false, false⟩, -- SDP_CTRL
  ⟨0x144, 9, 0x4, .rw, 0x0, .immediate, 0xFFFFFFFF, false, false⟩] -- SDP_DATA_0

/-- Register rows of the TRIM page. -/
def rowsTrim : List Row := [
  ⟨0x100, 1, 0x4, .ro, 0x0, .immediate, 0x0, false, false⟩, -- TRIM_STATUS
  ⟨0x104, 1, 0x4, .ro, 0x190, .immediate, 0x0, false, false⟩, -- POWER_CAP
  ⟨0x108, 1, 0x4, .ro, 0x0, .immediate, 0x0, false, false⟩, -- QUIET_LIMIT
  ⟨0x10C, 1, 0x4, .ro, 0x0, .immediate, 0x0, false, false⟩, -- CADENCE_FLOOR
  ⟨0x110, 1, 0x4, .ro, 0x2EE, .immediate, 0x0, false, false⟩, -- VCORE_TARGET
  ⟨0x114, 1, 0x4, .ro, 0x0, .immediate, 0x0, false, false⟩, -- POWER_EST
  ⟨0x118, 1, 0x4, .ro, 0x0, .immediate, 0x0, false, false⟩, -- CONFLICT_STATUS
  ⟨0x11C, 1, 0x4, .rc, 0x0, .immediate, 0x0, false, false⟩, -- CONFLICT_COUNT
  ⟨0x120, 1, 0x4, .rc, 0x0, .immediate, 0x0, false, false⟩, -- STRETCH_COUNT
  ⟨0x124, 1, 0x4, .rc, 0x0, .immediate, 0x0, false, false⟩, -- THERMAL_EVENTS
  ⟨0x128, 1, 0x4, .ro, 0x0, .immediate, 0x0, false, false⟩, -- LEND_STATUS
  ⟨0x12C, 1, 0x4, .rc, 0x0, .immediate, 0x0, false, false⟩, -- LEND_COUNT
  ⟨0x130, 1, 0x4, .rc, 0x0, .immediate, 0x0, false, false⟩, -- RECLAIM_MAX
  ⟨0x134, 1, 0x4, .ro, 0x1F4, .immediate, 0x0, false, false⟩, -- OC_LIMIT
  ⟨0x140, 16, 0x4, .ro, 0x28, .immediate, 0x0, false, false⟩, -- LEND_TABLE_r
  ⟨0x1A0, 6, 0x4, .rc, 0x0, .immediate, 0x0, false, false⟩, -- BG_FORCED_t
  ⟨0x1C0, 1, 0x4, .ro, 0x0, .immediate, 0x0, false, false⟩, -- BG_STATUS
  ⟨0x1C4, 1, 0x4, .rc, 0x0, .immediate, 0x0, false, false⟩, -- BG_EVENT
  ⟨0x400, 1, 0x4, .rw, 0x1, .immediate, 0x1, false, false⟩, -- LEND_CTRL
  ⟨0x404, 1, 0x4, .rw, 0x3208, .immediate, 0x7F1F, false, false⟩] -- STRETCH_CFG

/-- Register rows of the TELEM page. -/
def rowsTelem : List Row := [
  ⟨0x100, 1, 0x4, .ro, 0x0, .immediate, 0x0, false, false⟩, -- TELEM_SEQ
  ⟨0x108, 1, 0x4, .ro, 0x0, .immediate, 0x0, false, true⟩, -- SAMPLE_GTIME
  ⟨0x110, 1, 0x4, .ro, 0x0, .immediate, 0x0, false, false⟩, -- HOTSPOT_IDX
  ⟨0x114, 1, 0x4, .ro, 0x0, .immediate, 0x0, false, false⟩, -- STALE_LO
  ⟨0x118, 1, 0x4, .ro, 0x0, .immediate, 0x0, false, false⟩, -- VSTALE
  ⟨0x11C, 1, 0x4, .ro, 0x0, .immediate, 0x0, false, false⟩, -- MCTP_STATUS
  ⟨0x120, 1, 0x4, .ro, 0x0, .immediate, 0x0, false, false⟩, -- CRACK_BASE
  ⟨0x124, 1, 0x4, .ro, 0x0, .immediate, 0x0, false, false⟩, -- CRACK_LAST
  ⟨0x200, 67, 0x4, .ro, 0x0, .immediate, 0x0, false, false⟩] -- SENSOR_i

/-- Register rows of the FCOL page. -/
def rowsFcol : List Row := [
  ⟨0x100, 1, 0x4, .ro, 0x0, .immediate, 0x0, false, false⟩, -- FCOL_STATUS
  ⟨0x104, 1, 0x4, .ro, 0x0, .immediate, 0x0, false, false⟩, -- FR_HEAD
  ⟨0x108, 1, 0x4, .rw, 0x0, .immediate, 0xFFFFFFFF, true, false⟩, -- FR_SEL
  ⟨0x10C, 1, 0x4, .ro, 0x0, .immediate, 0x0, false, false⟩, -- FR_SEL_STATUS
  ⟨0x110, 1, 0x4, .wo, 0x0, .immediate, 0xFFFFFFFF, true, false⟩, -- FR_ACK
  ⟨0x114, 1, 0x4, .rc, 0x0, .immediate, 0x0, false, false⟩, -- FR_DROPPED
  ⟨0x118, 1, 0x4, .rc, 0x0, .immediate, 0x0, false, false⟩, -- FR_LOST
  ⟨0x11C, 1, 0x4, .rc, 0x0, .immediate, 0x0, false, false⟩, -- FR_SUPPRESSED
  ⟨0x120, 4, 0x4, .rc, 0x0, .immediate, 0x0, false, false⟩, -- CLASS_COUNT_c
  ⟨0x130, 1, 0x4, .rc, 0x0, .immediate, 0x0, false, false⟩, -- ESC_COUNT
  ⟨0x138, 1, 0x4, .wo, 0x0, .immediate, 0xFFFFFFFF, false, true⟩, -- FW_REPORT
  ⟨0x140, 1, 0x4, .rw, 0x0, .immediate, 0xF, true, false⟩, -- HIST_SEL
  ⟨0x144, 1, 0x4, .ro, 0x0, .immediate, 0x0, false, false⟩, -- HIST_STATUS
  ⟨0x180, 8, 0x4, .ro, 0x0, .immediate, 0x0, false, false⟩, -- FR_DATA
  ⟨0x1A0, 8, 0x4, .ro, 0x0, .immediate, 0x0, false, false⟩, -- HIST_DATA
  ⟨0x400, 1, 0x4, .rw, 0x64, .immediate, 0xFFFF, false, false⟩, -- RATE_LIMIT
  ⟨0x404, 1, 0x4, .rw, 0x7, .immediate, 0x7, false, false⟩, -- ESC_CTRL
  ⟨0x408, 1, 0x4, .rw, 0x1, .immediate, 0x7, false, false⟩] -- INJ_CAP

/-- The register rows of a page. -/
def rowsOf : Pg → List Row
  | .global => rowsGlobal | .clock => rowsClock | .reset => rowsReset | .gtimer => rowsGtimer | .prot => rowsProt
  | .fuse => rowsFuse | .secMbox => rowsSecMbox | .trim => rowsTrim | .telem => rowsTelem | .fcol => rowsFcol
  | .brianePf => rowsBrianePf | .logtrace => rowsLogtrace
  | .mh 0 => rowsMh0 | .mh 1 => rowsMh1 | .mh 2 => rowsMh2 | .mh 3 => rowsMh3 | .mh 4 => rowsMh4 | .mh 5 => rowsMh5
  | .mh 6 => rowsMh6 | .beacon => rowsBeacon | .qdesc => rowsQdesc | .seq => rowsSeq | .ccc => rowsCcc | .eng _ => rowsEng
  | .cmem => rowsCmem | .rigging => rowsRigging | .rigMap => [⟨0, 256, 4, .ro, 0, .immediate, 0, false, false⟩]
  | .syncDirect => [⟨0, 16384, 4, .ro, 0, .immediate, 0, false, false⟩]
  | .dmmu => rowsDmmu | .dmmuEnt => rowsDmmuEnt | .l2 => rowsL2 | .hbm => rowsHbm | .scan => rowsScan | .head => rowsHead
  | .dp => rowsDp | .pcieCtl => rowsPcieCtl | .instTab => rowsInstTab | .instEnt => rowsInstEnt
  | .slotOwner => [⟨0, 96, 4, .ro, 0, .immediate, 0, false, false⟩]
  | .dbgInfo => rowsDbgInfo | .inst => rowsInst | .doorbell => rowsDoorbell | .brn => rowsBrn
  | .msix => [⟨0, 64, 4, .rw, 0, .immediate, 0xFFFFFFFF, false, false⟩]
  | .pba => [⟨0, 1, 4, .ro, 0, .immediate, 0, false, false⟩]
  | .syncView => rowsSyncView
  | _ => []

/-- Which word of a row an offset names: 0 the register or its low word, 1 the high word of a 64-bit register. -/
def Row.part (r : Row) (off : Nat) : Option Nat :=
  if off < r.off then none
  else
    let d := off - r.off
    let k := if r.n = 1 then 0 else d / r.stride
    let p := d - k * r.stride
    if r.n ≤ k then none
    else if p = 0 then some 0
    else if p = 4 ∧ r.wide then some 1 else none

/-- The row of a page that holds an offset, with the word of it. -/
def findRow (off : Nat) : List Row → Option (Row × Nat)
  | [] => none
  | r :: rs => match r.part off with
    | some p => some (r, p)
    | none => findRow off rs

/-- A register the location names: its row and which word of it. -/
def Loc.row (l : Loc) : Option (Row × Nat) := findRow l.off (rowsOf l.pg)

/-- The reset value of a register word: the tables' value; the fused serial; the identity matrix of the Prism banks
(R696); one page entry of INST_0; vector control of an MSI-X entry masked, as the PCIe specification resets it. -/
def Loc.resetVal (l : Loc) (r : Row) (part : Nat) : W :=
  match l.pg with
  | .global => if l.off = 0x108 then Config.uniqueId.truncate 32
    else if l.off = 0x10C then (Config.uniqueId >>> 32).truncate 32 else BitVec.ofNat 32 r.reset
  | .head => if l.off % 0x40 = 0x0C ∨ l.off % 0x40 = 0x1C ∨ l.off % 0x40 = 0x2C then
      (if 0x200 ≤ l.off then 8192 else BitVec.ofNat 32 r.reset) else BitVec.ofNat 32 r.reset
  | .msix => if l.off % 16 = 12 then 1 else 0
  | _ => if part = 0 then BitVec.ofNat 32 r.reset else BitVec.ofNat 32 (r.reset / 2 ^ 32)

/-- Encodings that a register's table lists as reserved (R53). -/
def reservedEnc (pg : Pg) (off v : Nat) : Bool :=
  let out (x lo hi : Nat) : Bool := x < lo || hi < x
  match pg with
  | .gtimer => off == 0x108 && out (v % 1024) 1 1000
  | .pcieCtl => off == 0x108 && out v 1 50 || off == 0x114 && out v 0 383
  | .dbgInfo => off == 4 && out (v % 0x20000) 0 98303
  | .brianePf => off == 0x114 && out (v % 1024) 1 1000
  | .logtrace => off == 0x100 && out (v % 8) 0 4
  | .instTab => 0x600 ≤ off && v % 4096 == 0
  | .instEnt => off == 4 && out (v % 1024) 1 1000
  | .mh 3 => (off == 0x100 || off == 0x104 || off == 0x108) && out (v % 0x20000) 100 100000
  | .mh 5 => off == 0x100 && out (v % 0x4000) 50 10000 || off == 0x104 && out (v % 0x80) 1 100
  | .mh 6 => off == 0x400 && v % 16 == 0
  | .rigging => 0x200 ≤ off && out (v % 0x4000) 10 10000
  | .hbm => off == 0x400 && out (v % 128) 6 72
  | .scan => off == 0x100 && (v % 4 == 3 || v / 16 % 4 == 3) || off == 0x108 && out (v % 0x4000) 0 10000
  | .head => off == 0x188 && v / 1024 % 4 == 3
  | .dp => off == 0x100 && (v % 8 == 7 || v / 16 % 4 == 3)
  | .trim => off == 0x404 && (out (v % 32) 4 16 || out (v / 256 % 128) 25 75)
  | .fcol => off == 0x400 && v % 0x10000 == 0 || off == 0x408 && out (v % 8) 0 4
  | _ => false

end Sys2Proof.Machine
end

