-- ==== Sys2Proof/Machine/State.lean ====
section
/-! DEFINITION. The state of the device as plain data, the reasons a step can stop, and the state after reset. -/

set_option Elab.async false
namespace Sys2Proof.Machine

/-- Why a step stops with a fault. -/
inductive Fault
  /-- Raised by COLD_POWER_UP: the rails came up outside the order of R88, and R91 says that the device's state is then
  not specified until the next power-up. Safe: nothing can be proved of a device in that state. -/
  | railsOutOfOrder
  /-- Raised by PERST_N_DEASSERTED: PERST_N was released before R89 allows it, and the boot behaviour is then not
  specified until the next correct reset (03, corner cases). Safe. -/
  | perstHoldUnmet
deriving DecidableEq, Repr

/-- Why a command has no meaning here. -/
inductive Refusal
  /-- The command has no meaning in this model yet. -/
  | notModelled (mnemonic : String)
deriving DecidableEq, Repr

/-- The whole state of the block.

`regs` holds every register that has no field of its own, by PF BAR 0 offset; the instance windows of INST_k lie at
0x1000_0000 + k * 0x1_0000 (INST_0's is also PF BAR 0 + 0x040_0000). `expert` holds the values last written to expert
fields (R47, R49), `effect` the values in effect of LAUNCH and FRAME fields that were written or returned and have not
latched (R63 to R67), `lowWord` the low words last written to 64-bit registers (R57), `capture` the high words captured by
32-bit reads of an agent (R58), `vague` the slots whose contents a reset left open (R112): for each the number of its free
bytes and the 4 KiB pages of frames under head hold, which it keeps, `flips` the 32 B units of HBM whose check bits an
injection inverted, with how many (R671), `rr` for each band one more than the queue it last dispatched from (R488), `lockUsed` the pages whose single BLK_LOCK write is used (R42). `pending` is the queue of
commands, first in, first out. -/
structure State where
  pw : Power
  ck : Clocks
  pcie : Pcie
  sec : Sec
  fw : Fw
  fcol : Fcol
  brn : Tbl Brn
  insts : Tbl Inst
  slots : Tbl Slot
  queues : Tbl Queue
  cmds : List Cmd
  movers : List Mover
  launches : Tbl Launch
  ctxs : Tbl Ctx
  rr : List Nat
  clusters : Tbl Cluster
  beacons : Tbl Beacon
  resvs : Tbl Resv
  sync : Sync
  sess : Tbl Sess
  disp : Disp
  trim : Trim
  caches : Caches
  htab : Tbl HtabEnt
  mem : Tbl Byte
  poison : List Nat
  vague : Tbl (Nat × List Nat)
  flips : Tbl Nat
  regs : Tbl W
  expert : Tbl W
  effect : Tbl W
  lowWord : Tbl W
  capture : Tbl W
  lockUsed : List Nat
  own : Own
  nextId : Nat
  pending : List Instr
deriving DecidableEq, Repr

/-- A function's configuration space at reset (R135 to R160; PCIe reset values: everything disabled). -/
def fnReset : FnCfg :=
  { memEn := false, bme := false, msixEn := false, fmask := false, d3hot := false, mps := 128, mrrs := 512,
    cto := 0, atsEn := false, flr := false, aer := [] }

/-- The state of an instance before anything configures it (R306); INST_0 is ACTIVE with the quotas of R296. -/
def instReset (k : Nat) : Inst :=
  { st := if k = 0 then .active else .unassigned, cause := 0, trans := 0,
    maxQ := if k = 0 then 64 else 0, htab := if k = 0 then 12 else 0,
    maxSync := if k = 0 then 16 else 0, maxRes := if k = 0 then 16 else 0,
    rights := 0, faults := 0, lastFault := 0, quiesce := none, removing := false, root := 0,
    resDropped := [], moved := [] }

/-- A slot with no owner and no scrub outstanding. -/
def slotFree : Slot := { owner := none, scrub := .clean }

/-- The Briane rings of a function while CLOSED (R246). -/
def brnReset : Brn :=
  { st := .closed, maj := 0, min := 0, reqProd := 0, reqCons := 0, rspProd := 0, rspCons := 0, lostFlag := false,
    held := [], cur := none, long := none, dirty := [] }

/-- A queue descriptor at reset: every field zero, which reads as FREE. -/
def queueReset : Queue :=
  { st := .free, base := 0, log2 := 0, user := false, band := 0, cgrp := 0, inst := 0, loc := 0, doneVec := 0,
    faultVec := 0, doneEn := false, faultEn := false, presets := 0, head := 0, tail := 0, fetchPtr := 0, fetched := [],
    fetchFail := [], frames := [], loops := [], pred := false, checked := false, faultCode := 0, faultInfo := 0,
    cmdDone := 0, faultRec := 0, saveArea := 0, saveNext := none, res := none, ready := none, waiting := false }

/-- A Beacon that is OFF (R505). -/
def beaconReset : Beacon :=
  { cfg := { src := 0, div := 0, period := 0, offset := 0 }, pend := none, ticks := 0, resid := 0, lastTick := 0, since := 0,
    locked := false, lockLost := false, frames := 0, ticked := false, paused := 0 }

/-- A reservation number that is not admitted. -/
def resvReset : Resv :=
  { valid := false, inst := 0, grp := 0, bcn := 0, budget := 0, charged := 0, last := 0, queues := 0, misses := 0,
    exhausted := 0, exhaust := false, started := false }

/-- A sync object of type NONE (R539, R540). -/
def objReset : SyncObj :=
  { type := 0, cadence := false, beacon := 0, notify := false, limit := 0, value := 0, gen := 0, realign := 0, drift := 0,
    unders := 0, overs := 0, forced := false }

/-- A dirty-logging session that is not active (R344). -/
def sessReset : Sess :=
  { active := false, inst := 0, host := false, dev := false, wins := [], marksH := [], marksD := [], spareH := [],
    spareD := [], missed := 0, harvest := 0 }

/-- A scanout head that is off. -/
def headReset : Head :=
  { enabled := false, modeErr := false, scanning := false, cur := none, pend := none, owner := none, hold := false,
    black := false, frameCtr := 0, vblank := 0, lastCrc := 0, mismatched := false, rcpt := none,
    cap := 0, capBytes := 0, bank := false, lut := [], dither := 0, share := 0,
    touched := false, latchT := 0, capData := [] }

/-- A DisplayPort port that is off. -/
def portReset : DpPort :=
  { powered := false, trained := false, training := false, fail := false, rate := 0, lanes := 0, hpd := false, irqs := 0,
    aux := false, route := 0, routePend := none, restarting := false, sdp := [], sdpNext := none, video := false }

/-- A cluster with nothing on it. -/
def clusterReset : Cluster := { run := none, last := none, reefed := false, staging := false, used := false }

/-- CCLK_STATE_n at reset: N 40, gated (R100). -/
def cclkReset : Cclk := { n := 40, gated := true, stretch := false, base := 40, throttled := 0 }

/-- The rails up, PERST_N held, nothing booted (R88, R102, BOOT_STATUS and RESET_CAUSE reset values). -/
def powerReset : Power :=
  { railsUp := true, perst := true, refclk := true, pllOn := false, pllLock := false, sclk := 0,
    stage := .romStart, failCause := 0, configReady := false, trngReady := false, last := .cold,
    safe := false, warmCount := 0, l3Count := 0, bootStart := 0, bootTime := 0, l3 := false, removing := false,
    hbmTrained := 0, selfRefresh := 0, faultN := true, thermTripN := true }

/-- Dividers gated and GTIME zero (R100, R103); VCORE_TARGET 750 mV. -/
def clocksReset : Clocks :=
  { cclk := List.replicate 16 cclkReset, gtime := 0, synced := false, slewing := false, failRun := 0, offset := 0,
    vcore := 750, settling := none, phase := 0 }

/-- The PCIe controller at reset: link down, configuration space at its reset values, nothing queued. -/
def pcieReset : Pcie :=
  { linkUp := false, rate := 0, width := 0, flit := false, fns := [], vfEn := false, vfMse := false, numVfs := 0,
    pfBar2 := 0, vfBar2 := 0, ptmEn := false, stall := .normal, stallStart := 0, txq := [], held := [], sent := [],
    reads := [], pba := [], ide := [0, 0, 0, 0], ideFails := 0, ats := [], atsInval := [], doe := [] }

/-- The SEC core at a cold reset on a part whose fuses are blank (log entry 5); measurement registers zero (R194). -/
def secReset : Sec :=
  { flash := none, board := [], image := none, slotB := false, fallback := false, firstFail := 0, svn := 0, fuseOk := false, arb := 0,
    keyRevoke := 0, ownerHash := 0, ownerMarker := 0, ownerCheck := 0, meas := List.replicate 8 0, attestKey := false,
    rng := 1, rngFails := 0, rngRerun := false, drbgCount := 0, mbox := none, ownerStep := false, nonce := none,
    dbgScope := 0, dbgSlot := 0, halted := [], dms := [], spdm := .start }

/-- A Debug Module at reset. -/
def dmReset : Dm := { active := false, data0 := 0, data1 := 0, cmderr := 0, resumeAck := false, step := false }

/-- No firmware loaded. -/
def fwReset : Fw :=
  { version := 0, verMin := 0, verMax := 0, st := .running, staged := none, brnMinStaged := 0, actBy := none,
    paused := false, swapping := false, actStart := 0, log := [], logHead := 0, trace := [], fetchBy := none }

/-- An empty fault collector. -/
def fcolReset : Fcol := { inq := [], ring := [], head := 0, open_ := [], hist := [], rates := [] }

/-- The default limits (16, *Limits and settings*). -/
def limitsReset : Limits := { cap := 400, board := 0, quiet := 0, fan := 0, floor := 0 }

/-- Trim and telemetry at reset: POWER_CAP 400 W, LEND_TABLE all 40. -/
def trimReset : Trim :=
  { capW := 400, boardW := 0, quietW := 0, quietFan := 0, floorN := 0, throttle := false, clamp := false,
    capLim := false, quietLim := false, boardLim := false, conflict := none, power1ms := 0, power10ms := 0,
    eff := limitsReset, next := limitsReset,
    lendTable := List.replicate 16 40, lendReefed := 0, lendR := 0, lending := false, seq := 0, sampleGtime := 0,
    sensors := [], stale := [], hotspot := 0, eid := 0, eidSet := false, i3c := false, crackBase := 0, crackLast := 0, crackRec := 0,
    patrol := 0, patrolPasses := 0, telemetryOn := false }

/-- The device right after a cold power-up that met R88, with PERST_N still held: every field at its reset value. -/
def State.reset : State :=
  { pw := powerReset, ck := clocksReset, pcie := pcieReset, sec := secReset, fw := fwReset, fcol := fcolReset,
    brn := [], insts := [], slots := [], queues := [], cmds := [], movers := [], launches := [], ctxs := [], rr := [0, 0, 0],
    clusters := [], beacons := [], resvs := [], sync := { objs := [], blocks := [], waiters := [], fifo := [] }, sess := [],
    disp := { heads := [headReset, headReset], ports := [portReset, portReset] }, trim := trimReset,
    caches := { tlb := [], l1 := [], grans := [] }, htab := [], mem := [], poison := [], vague := [], flips := [], regs := [], expert := [],
    effect := [], lowWord := [], capture := [], lockUsed := [], own := { freeCtr := 0, readData := [], cpl := 0 },
    nextId := 0, pending := [] }

end Sys2Proof.Machine
end

