-- ==== Sys2Proof/Machine/Ops.lean ====
section
/-! DEFINITION. The named operations every meaning is built from: tables, free values, stored registers and counters,
interrupts, faults on their way to the FCOL, and the host-bound stream. -/

set_option Elab.async false
namespace Sys2Proof.Machine

/-! ### Sparse tables -/

/-- The entry listed for a key. -/
def tblFind {β : Type} (k : Nat) : Tbl β → Option β
  | [] => none
  | (k', v) :: t => if k' = k then some v else tblFind k t

/-- The entry of a key, or the table's default. -/
def tblGet {β : Type} (d : β) (k : Nat) (t : Tbl β) : β := (tblFind k t).getD d

/-- The table without a key. -/
def tblErase {β : Type} (k : Nat) : Tbl β → Tbl β
  | [] => []
  | (k', v) :: t => if k' = k then tblErase k t else (k', v) :: tblErase k t

/-- The table with a key's entry replaced or added in order. -/
def tblPut {β : Type} (k : Nat) (v : β) : Tbl β → Tbl β
  | [] => [(k, v)]
  | (k', v') :: t => if k < k' then (k, v) :: (k', v') :: t else if k = k' then (k, v) :: t else (k', v') :: tblPut k v t

/-- Write an entry and keep the canonical form: an entry equal to the default is not listed. -/
def tblSet {β : Type} [DecidableEq β] (d : β) (k : Nat) (v : β) (t : Tbl β) : Tbl β :=
  if v = d then tblErase k t else tblPut k v t

/-- Keys strictly rising above a bound. -/
def tblRising {β : Type} (lo : Nat) : Tbl β → Bool
  | [] => true
  | (k, _) :: t => decide (lo ≤ k) && tblRising (k + 1) t

/-- The canonical order of a table. -/
def tblWf {β : Type} (t : Tbl β) : Bool := tblRising 0 t

/-- Insert a number into a rising list, once. -/
def addNat (n : Nat) : List Nat → List Nat
  | [] => [n]
  | m :: t => if n < m then n :: m :: t else if n = m then m :: t else m :: addNat n t

/-- The first `n` elements starting at index `i` of a list of bytes, zero beyond its end. -/
def bytesAt (l : List Byte) (i n : Nat) : List Byte :=
  let d := (l.drop i).take n
  d ++ List.replicate (n - d.length) 0

/-- The little-endian number a byte list spells (R9). -/
def leNat : List Byte → Nat
  | [] => 0
  | b :: t => b.toNat + 256 * leNat t

/-- The `n` little-endian bytes of a number (R9). -/
def leBytes : Nat → Nat → List Byte
  | 0, _ => []
  | n + 1, x => BitVec.ofNat 8 x :: leBytes n (x / 256)

/-- The bytes of 32-bit words in order. -/
def wordsBytes : List W → List Byte
  | [] => []
  | w :: t => leBytes 4 w.toNat ++ wordsBytes t

/-- The 32-bit words a byte list spells; a short last word is filled with zeros. -/
def bytesWords (n : Nat) (l : List Byte) : List W :=
  match n with
  | 0 => []
  | n + 1 => BitVec.ofNat 32 (leNat (bytesAt l 0 4)) :: bytesWords n (l.drop 4)

/-- The word at an index of a word list, zero beyond its end. -/
def wordAt (l : List W) (i : Nat) : W := l.getD i 0

/-- A word as a natural number. -/
def natAt (l : List W) (i : Nat) : Nat := (l.getD i 0).toNat

/-- Two words as one 64-bit value, low word first. -/
def nat64At (l : List W) (i : Nat) : Nat := natAt l i + 2 ^ 32 * natAt l (i + 1)

/-- The bits `i < n` for which a test holds, as a number. -/
def bitMask (n : Nat) (p : Nat → Bool) : Nat := ((List.range n).map fun i => 2 ^ i * b2n (p i)).sum

/-- A field of a word replaced. -/
def setField (w : W) (lo n v : Nat) : W :=
  BitVec.ofNat 32 (w.toNat % 2 ^ lo + 2 ^ lo * (v % 2 ^ n) + 2 ^ (lo + n) * (w.toNat / 2 ^ (lo + n)))

/-- A field of a word increased by `k`, stopping at its maximum. -/
def satField (w : W) (lo n k : Nat) : W := setField w lo n (min (bitsOf w.toNat lo n + k) (2 ^ n - 1))

/-! ### Parts of the state -/

/-- Instance `k`. -/
def State.inst (s : State) (k : Nat) : Inst := tblGet (instReset k) k s.insts
/-- Replace instance `k`. -/
def State.setInst (s : State) (k : Nat) (i : Inst) : State := { s with insts := tblSet (instReset k) k i s.insts }
/-- Slot `n` of HBM. -/
def State.slot (s : State) (n : Nat) : Slot := tblGet slotFree n s.slots
/-- Replace slot `n`. -/
def State.setSlot (s : State) (n : Nat) (v : Slot) : State := { s with slots := tblSet slotFree n v s.slots }
/-- Hardware queue `h`. -/
def State.queue (s : State) (h : Nat) : Queue := tblGet queueReset h s.queues
/-- Replace hardware queue `h`. -/
def State.setQueue (s : State) (h : Nat) (q : Queue) : State := { s with queues := tblSet queueReset h q s.queues }
/-- The Briane rings of function `k`. -/
def State.ringsOf (s : State) (k : Nat) : Brn := tblGet brnReset k s.brn
/-- Replace the Briane rings of function `k`. -/
def State.setRings (s : State) (k : Nat) (b : Brn) : State := { s with brn := tblSet brnReset k b s.brn }
/-- Cluster `n`. -/
def State.cluster (s : State) (n : Nat) : Cluster := tblGet clusterReset n s.clusters
/-- Replace cluster `n`. -/
def State.setCluster (s : State) (n : Nat) (c : Cluster) : State := { s with clusters := tblSet clusterReset n c s.clusters }
/-- Beacon `b`. -/
def State.beacon (s : State) (b : Nat) : Beacon := tblGet beaconReset b s.beacons
/-- Replace Beacon `b`. -/
def State.setBeacon (s : State) (b : Nat) (v : Beacon) : State := { s with beacons := tblSet beaconReset b v s.beacons }
/-- Reservation `r`. -/
def State.resv (s : State) (r : Nat) : Resv := tblGet resvReset r s.resvs
/-- Replace reservation `r`. -/
def State.setResv (s : State) (r : Nat) (v : Resv) : State := { s with resvs := tblSet resvReset r v s.resvs }
/-- Sync object by device index. -/
def State.obj (s : State) (i : Nat) : SyncObj := tblGet objReset i s.sync.objs
/-- Replace a sync object. -/
def State.setObj (s : State) (i : Nat) (o : SyncObj) : State := { s with sync := { s.sync with objs := tblSet objReset i o s.sync.objs } }
/-- Dirty-logging session `n`. -/
def State.session (s : State) (n : Nat) : Sess := tblGet sessReset n s.sess
/-- Replace a session. -/
def State.setSession (s : State) (n : Nat) (v : Sess) : State := { s with sess := tblSet sessReset n v s.sess }
/-- The configuration space of function `k`. -/
def State.fn (s : State) (k : Nat) : FnCfg := tblGet fnReset k s.pcie.fns
/-- Replace the configuration space of function `k`. -/
def State.setFn (s : State) (k : Nat) (f : FnCfg) : State := { s with pcie := { s.pcie with fns := tblSet fnReset k f s.pcie.fns } }
/-- Replace or add a launch. -/
def State.setLaunch (s : State) (i : Nat) (l : Launch) : State := { s with launches := tblPut i l s.launches }
/-- Replace or add a context. -/
def State.setCtx (s : State) (k : Nat) (c : Ctx) : State := { s with ctxs := tblPut k c s.ctxs }
/-- The key of the context of launch `i` on cluster `n`. -/
def ctxKey (i n : Nat) : Nat := i * 16 + n
/-- Head `h`. -/
def State.head (s : State) (h : Nat) : Head := s.disp.heads.getD h headReset
/-- Replace head `h`. -/
def State.setHead (s : State) (h : Nat) (v : Head) : State := { s with disp := { s.disp with heads := s.disp.heads.set h v } }
/-- Port `d`. -/
def State.port (s : State) (d : Nat) : DpPort := s.disp.ports.getD d portReset
/-- Replace port `d`. -/
def State.setPort (s : State) (d : Nat) (v : DpPort) : State := { s with disp := { s.disp with ports := s.disp.ports.set d v } }

/-! ### Free values -/

/-- Take the number of the next free value. -/
def State.bumpFree (s : State) : State := { s with own := { s.own with freeCtr := s.own.freeCtr + 1 } }
/-- A free word. -/
def State.drawWord (s : State) : W × State := (Config.freeWord s.own.freeCtr, s.bumpFree)
/-- A free 64-bit value. -/
def State.drawWord64 (s : State) : W64 × State := (Config.freeWord64 s.own.freeCtr, s.bumpFree)
/-- A free number below `n`. -/
def State.drawNat (s : State) (n : Nat) : Nat × State := (Config.freeNat s.own.freeCtr % n, s.bumpFree)
/-- A free choice. -/
def State.drawBool (s : State) : Bool × State := (Config.freeBool s.own.freeCtr, s.bumpFree)
/-- `n` free bytes. -/
def State.drawBytes (s : State) (n : Nat) : List Byte × State :=
  ((List.range n).map (Config.freeByte s.own.freeCtr), s.bumpFree)

/-! ### Stored registers -/

/-- The reset value of the register word at an address of the register file. -/
def regResetOf (a : Nat) : W :=
  match locate a with
  | some l => match l.row with
    | some (r, p) => l.resetVal r p
    | none => 0
  | none => 0

/-- The stored value of a register. -/
def State.reg (s : State) (a : Nat) : W := tblGet (regResetOf a) a s.regs
/-- Store a register's value. -/
def State.setReg (s : State) (a : Nat) (v : W) : State := { s with regs := tblSet (regResetOf a) a v s.regs }
/-- Add to a saturating counter field of a stored register. -/
def State.countField (s : State) (a lo n k : Nat) : State := s.setReg a (satField (s.reg a) lo n k)
/-- Count one event in a 32-bit counter that stops at 0xFFFF_FFFF. -/
def State.count (s : State) (a : Nat) : State := s.countField a 0 32 1
/-- Keep the largest value seen in a register, saturating. -/
def State.maxReg (s : State) (a v : Nat) : State :=
  s.setReg a (BitVec.ofNat 32 (max (s.reg a).toNat (min v 0xFFFFFFFF)))

/-- The key of the hidden flag that a first-event capture register holds an event (an address no register has). -/
def capKey (a : Nat) : Nat := a + 1

/-- Capture the first event in a register; a further one only sets its OVERRUN bit. Says whether it captured. -/
def State.captureAt (s : State) (a : Nat) (v : Nat) (ovr : Nat) : Bool × State :=
  if tblGet 0 (capKey a) s.regs = 0 then
    (true, { (s.setReg a (BitVec.ofNat 32 v)) with regs := tblPut (capKey a) 1 (s.setReg a (BitVec.ofNat 32 v)).regs })
  else (false, s.setReg a (s.reg a ||| BitVec.ofNat 32 (2 ^ ovr)))

/-- Capture the first event in a register whose OVERRUN is bit 31. -/
def State.capture31 (s : State) (a : Nat) (v : Nat) : State := (s.captureAt a v 31).2

/-- Clear a register and free its capture (R56). -/
def State.clearReg (s : State) (a : Nat) : State :=
  { (s.setReg a (regResetOf a)) with regs := tblErase (capKey a) (s.setReg a (regResetOf a)).regs }

/-! ### MSI-X, the host-bound stream and page marks -/

/-- Bytes a message takes in the posted transmit queue. -/
def msgSize : HostMsg → Nat
  | .write _ _ d _ _ => d.length
  | .msix _ _ => 4
  | .atsDone _ => 4

/-- The instance a message is attributed to. -/
def msgInst : HostMsg → Nat
  | .write k _ _ _ _ => k
  | .msix k _ => k
  | .atsDone k => k

/-- The bytes that fill the posted transmit queue. -/
def txFill (l : List HostMsg) : Nat := (l.map msgSize).sum

/-- The mark of a host page in a session's windows: window number and page in the window (R344, R347). -/
def windowUnit (a : Nat) : Nat → List (W64 × Nat) → Option Nat
  | _, [] => none
  | i, (b, n) :: t =>
    if b.toNat ≤ a ∧ a < b.toNat + 0x40000 * n then some (2 ^ 25 * i + (a - b.toNat) / 4096) else windowUnit a (i + 1) t

/-- Mark the page of an issued host-bound write in the active sessions of its instance (R344 to R347). -/
def markHost (k a : Nat) (t : Tbl Sess) : Tbl Sess :=
  t.map fun (n, v) =>
    if v.active ∧ v.host ∧ v.inst = k then
      match windowUnit a 0 v.wins with
      | some u => (n, { v with marksH := addNat u v.marksH })
      | none => (n, { v with missed := min (v.missed + 1) 0xFFFFFFFF })
    else (n, v)

/-- Mark a message at its issue. -/
def State.markMsg (s : State) (m : HostMsg) : State :=
  match m with
  | .write k a _ true _ => { s with sess := markHost k a.toNat s.sess }
  | _ => s

/-- A request of a function at a host address uses a translation while ATS Enable is 1 (R174). Which entry a full cache gives up
is open. -/
def State.atsUse (s : State) (k a : Nat) : State :=
  if !(s.fn k).atsEn || s.pcie.ats.contains (k, a / 4096) then s
  else
    let l := if 2048 ≤ s.pcie.ats.length then s.pcie.ats.eraseIdx (Config.freeNat s.own.freeCtr % s.pcie.ats.length) else s.pcie.ats
    { s.bumpFree with pcie := { s.pcie with ats := l ++ [(k, a / 4096)] } }

/-- A message takes its translation as it is issued. -/
def State.atsMsg (s : State) (m : HostMsg) : State :=
  match m with
  | .write k a _ _ _ => s.atsUse k a.toNat
  | _ => s

/-- Issue one host-bound message (R156, R164 to R169): discarded while the link is down or while Bus Master Enable of its
function is 0 (R128, R159) and in the safe state (17), held in LINK_STALL or behind a full queue, in the posted transmit queue during a credit stall,
and on the link at once otherwise. -/
def State.issueHost (s : State) (m : HostMsg) : State :=
  if !s.pcie.linkUp || !(s.fn (msgInst m)).bme || s.pw.safe then s
  else match s.pcie.stall with
    | .linkStall => { s with pcie := { s.pcie with held := s.pcie.held ++ [m] } }
    | .creditWait =>
      if s.pcie.held = [] ∧ txFill s.pcie.txq + msgSize m ≤ 65536 then
        (({ s with pcie := { s.pcie with txq := s.pcie.txq ++ [m] } } : State).atsMsg m).markMsg m
      else { s with pcie := { s.pcie with held := s.pcie.held ++ [m] } }
    | .normal => (({ s with pcie := { s.pcie with sent := s.pcie.sent ++ [m] } } : State).atsMsg m).markMsg m

/-- The largest payload of a host-bound write: 256 B and the Max_Payload_Size in effect (R154, R135). -/
def State.maxWrite (s : State) : Nat := min 256 (min 512 (s.fn 0).mps)

/-- Cut a host-bound write into TLPs that respect the payload limit and cross no 256-byte boundary (R154). -/
def splitTlp (mx : Nat) : Nat → Nat → List Byte → List (Nat × List Byte)
  | 0, _, _ => []
  | f + 1, a, d =>
    if d = [] then []
    else
      let n := min mx (256 - a % 256)
      (a, d.take n) :: splitTlp mx f (a + n) (d.drop n)

/-- Issue the TLPs of a host-bound write of an instance. `marks` says whether it marks pages (R345), `copy` which copy it
belongs to. -/
def State.issueWrite (s : State) (k a : Nat) (d : List Byte) (marks : Bool) (copy : Nat) : State :=
  (splitTlp s.maxWrite d.length a d).foldl (fun s (b, c) => s.issueHost (.write k (BitVec.ofNat 64 b) c marks copy)) s

/-- Issue a host-bound write of an instance that belongs to no copy. -/
def State.hostWrite (s : State) (k a : Nat) (d : List Byte) (marks : Bool) : State := s.issueWrite k a d marks 0

/-- The vector control word of an MSI-X table entry. -/
def msixCtl (k v : Nat) : Nat := instWin k + 0x3000 + 16 * v + 12

/-- Whether a vector's event is held as a pending bit (R153). -/
def State.msixHeld (s : State) (k v : Nat) : Bool :=
  bitOf (s.reg (msixCtl k v)).toNat 0 || (s.fn k).fmask || !(s.fn k).msixEn || !(s.fn k).bme

/-- An event on vector `v` of function `k`: held in the PBA or sent (R153, R158). -/
def State.msixEvent (s : State) (k v : Nat) : State :=
  if s.msixHeld k v then { s with pcie := { s.pcie with pba := addNat (k * 16 + v) s.pcie.pba } }
  else s.issueHost (.msix k v)

/-- Send one message for each pending vector of function `k` that nothing holds any more (R153). -/
def State.msixRelease (s : State) (k : Nat) : State :=
  (List.range 16).foldl (fun s v =>
    if (k * 16 + v) ∈ s.pcie.pba ∧ !s.msixHeld k v then
      ({ s with pcie := { s.pcie with pba := s.pcie.pba.filter (· != k * 16 + v) } } : State).issueHost (.msix k v)
    else s) s

/-! ### Interrupt causes of pages -/

/-- The function and vector of a page's interrupt (R39, R152): the PF vector of a control window page, or the instance's
vector that its INST page's VEC_MAP names. -/
def State.pageVec (s : State) (l : Loc) : Nat × Nat :=
  let vm := (s.reg (instWin l.unit + 0x120)).toNat
  match l.pg with
  | .fcol => (0, 1)
  | .trim | .telem => (0, 2)
  | .scan | .head | .dp | .beacon => (0, 3)
  | .pcieCtl | .gtimer => (0, 4)
  | .inst => (l.unit, bitsOf vm 0 4)
  | .brn => (l.unit, bitsOf vm 4 4)
  | .syncView => (l.unit, bitsOf vm 8 4)
  | _ => (0, 5)

/-- Raise one interrupt event if a bit of status AND enable rose (R39). -/
def State.intEdge (s : State) (base : Nat) (before : Nat) : State :=
  let now := (s.reg (base + 0x10)).toNat &&& (s.reg (base + 0x14)).toNat
  if now &&& before = now then s
  else match locate base with
    | some l => s.msixEvent (s.pageVec l).1 (s.pageVec l).2
    | none => s

/-- The bits of status AND enable of a page. -/
def State.intNow (s : State) (base : Nat) : Nat := (s.reg (base + 0x10)).toNat &&& (s.reg (base + 0x14)).toNat

/-- Set interrupt status bits of a page and raise the event they cause (R39). -/
def State.causes (s : State) (base bits : Nat) : State :=
  (s.setReg (base + 0x10) (s.reg (base + 0x10) ||| BitVec.ofNat 32 bits)).intEdge base (s.intNow base)

/-- Set one interrupt cause bit of a page. -/
def State.cause (s : State) (base bit : Nat) : State := s.causes base (2 ^ bit)

/-! ### Faults on their way to the FCOL (R750, R751) -/

/-- The class and the default reaction of a fault code (R754). Codes "by location" or "by issuer" pass their own. -/
def codeClass (c : Nat) : Nat × Level :=
  if c = 0x0204 ∨ c = 0x0304 ∨ c = 0x0602 ∨ c = 0x0701 ∨ c = 0x0702 ∨ c = 0x0703 ∨ c = 0x0802 then (0, .l0)
  else if c = 0x0601 ∨ c = 0x0801 ∨ c = 0x0902 ∨ c = 0x0B01 then (0, .l1)
  else if c = 0x0401 ∨ c = 0x0403 ∨ c = 0x0901 ∨ c = 0x0903 then (2, .l1)
  else if c = 0x0402 ∨ c = 0x0A01 ∨ c = 0x0A02 then (2, .l3)
  else if 0x0B02 ≤ c then (3, .l4)
  else (1, .l2)

/-- C0 and C1 faults in the input queue, which may occupy 48 entries. -/
def lowFaults (l : List FaultIn) : Nat := (l.filter (·.cls < 2)).length
/-- Faults that occupy entries of the input queue: all but C3, which bypass it. -/
def queuedFaults (l : List FaultIn) : Nat := (l.filter (·.cls < 3)).length

/-- Remove the most recently queued C0 or C1 fault. -/
def dropLastLow (l : List FaultIn) : List FaultIn :=
  match l.reverse.findIdx? (·.cls < 2) with
  | some i => (l.reverse.eraseIdx i).reverse
  | none => l

/-- FR_DROPPED of the FCOL page. -/
def aFrDropped : Nat := 0x9114

/-- Count a discarded fault and raise its cause (R751, R781). -/
def State.dropFault (s : State) : State := (s.count aFrDropped).cause 0x9000 13

/-- A fault arrives at the FCOL's input queue (R751) and is counted for its class. C3 faults bypass the queue; a C2 fault that finds 64 C2
entries raises FCOL_SELF. -/
def State.enqueueFault (s : State) (f : FaultIn) : State :=
  let s := s.count (0x9120 + 4 * f.cls)
  let q := s.fcol.inq
  let put (l : List FaultIn) (s : State) : State := { s with fcol := { s.fcol with inq := l } }
  if f.cls = 3 then put (q ++ [f]) s
  else if f.cls < 2 then
    if lowFaults q < 48 ∧ queuedFaults q < 64 then put (q ++ [f]) s else s.dropFault
  else if queuedFaults q < 64 then put (q ++ [f]) s
  else if lowFaults q = 0 then
    put (q ++ [{ f with code := 0x0B07, cls := 3, level := .l4, owner := .device, hwq := none, detail := 0 }]) (s.count 0x912C)
  else put (dropLastLow q ++ [f]) s.dropFault

/-- SOURCE of a record: the page's BLK_ID fields and a checker index, 0xFF where none applies (17). -/
def sourceOf (base chk : Nat) : W :=
  match locate base with
  | some l => BitVec.ofNat 32 ((blkId l).toNat % 2 ^ 24 + 2 ^ 24 * chk)
  | none => BitVec.ofNat 32 (2 ^ 24 * chk)

/-- Raise a fault with its class and reaction given. An uncorrectable unit of HBM that an injection made is recorded INJECTED (R777). -/
def State.raiseAs (s : State) (code cls : Nat) (lvl : Level) (o : Owner) (hwq : Option Nat) (base chk : Nat) (detail : Nat)
    (scrub injected onFaulted : Bool) : State :=
  s.enqueueFault
    { gtime := s.ck.gtime, code := code, cls := cls, level := lvl, owner := o, hwq := hwq,
      source := sourceOf base chk, detail := BitVec.ofNat 64 detail, scrub := scrub
      injected := injected || (decide (code = 0x0205 ∧ base = 0x1C0000) && (tblFind (detail / 32) s.flips).isSome)
      onFaulted := onFaulted }

/-- Raise a fault with its table class and reaction (R754), no checker. -/
def State.raise (s : State) (code : Nat) (o : Owner) (hwq : Option Nat) (base detail : Nat) : State :=
  s.raiseAs code (codeClass code).1 (codeClass code).2 o hwq base 0xFF detail false false false

/-! ### Register events (R53, R70, R76, R84) -/

/-- The REG_EVENT_ADDR layout of an address: its offset within its window, and the window. INST_0's window lies in PF BAR 0. -/
def eventAddr (a : Nat) : Nat :=
  if 0x10000000 ≤ a ∧ a < 0x10010000 then 0x400000 + (a - 0x10000000)
  else if 0x10000000 ≤ a then (a - 0x10000000) % 0x10000 + 2 ^ 31 else a % 2 ^ 26

/-- Capture a register event in the GLOBAL page (R84): kind, Apply code, writer. -/
def State.captureEvent (s : State) (a kind apply : Nat) (ag : Agent) : State :=
  if bitsOf (s.reg 0x124).toNat 0 2 = 0 then
    (s.setReg 0x120 (BitVec.ofNat 32 (eventAddr a))).setReg 0x124
      (BitVec.ofNat 32 (kind + apply * 4 + ag.code * 32 + 256 * (ag.idx % 128)))
  else s.setReg 0x124 (s.reg 0x124 ||| 0x8000)

/-- A write was ignored because of a lock (R76). `a` is its address, `base` the page's. -/
def State.lockViol (s : State) (a base apply : Nat) (ag : Agent) : State :=
  let s := s.setReg (base + 0xC) (s.reg (base + 0xC) ||| 8)
  let s := (s.cause base 0).captureEvent a 1 apply ag
  s.raise 0x0701 (.agent ag.code ag.idx) none base (eventAddr a + 2 ^ 32 * apply)

/-- A write was dropped because its block was busy or enabled, or because its bank is active (R70). -/
def State.busyDrop (s : State) (a base apply : Nat) (ag : Agent) : State :=
  let s := s.setReg (base + 0xC) (s.reg (base + 0xC) ||| 16)
  let s := (s.cause base 1).captureEvent a 2 apply ag
  s.raise 0x0702 (.agent ag.code ag.idx) none base (eventAddr a + 2 ^ 32 * apply)

/-- A write carried a reserved encoding and is ignored as a whole (R53). -/
def State.rsvdValue (s : State) (a base apply : Nat) (ag : Agent) : State :=
  (s.cause base 2).captureEvent a 3 apply ag

/-- An access to nothing, or of partial width, is counted (R55, R80, R85). -/
def State.unmapped (s : State) : State := s.count 0x128

/-! ### Answers to the sender -/

/-- Record the data an access returned to its sender, and how it completed (0: successfully). -/
def State.answer (s : State) (d : List Byte) (cpl : Nat) : State := { s with own := { s.own with readData := d, cpl := cpl } }

end Sys2Proof.Machine
end

