-- ==== Sys2Proof/Machine/Num.lean ====
section
/-! DEFINITION. Number formats of the engines (R612, R613), exact rational arithmetic on their values, and the frame CRC
(R701, R619). -/

set_option Elab.async false
namespace Sys2Proof.Machine

/-- A value of a number format: NaN, an infinity, or a signed exact rational `p / q` (q at least 1); a zero keeps its sign. -/
inductive Num
  | nan
  | inf (neg : Bool)
  | fin (neg : Bool) (p q : Nat)
deriving DecidableEq, Repr

/-- Zero. -/
def Num.zero : Num := .fin false 0 1

/-- The exact integer a value is made from. -/
def Num.ofInt (i : Int) : Num := .fin (decide (i < 0)) i.natAbs 1

/-- Format codes: 0 INT8, 1 E4M3, 2 E5M2, 3 INT4, 4 BF16, 5 FP16, 6 INT32, 7 FP32. -/
def fmtBits (f : Nat) : Nat := match f with | 0 => 8 | 1 => 8 | 2 => 8 | 3 => 4 | 4 => 16 | 5 => 16 | _ => 32

/-- Whether a format is an integer format. -/
def fmtInt (f : Nat) : Bool := f == 0 || f == 3 || f == 6

/-- Exponent bits, mantissa bits and bias of a floating-point format (R612). -/
def fpShape (f : Nat) : Nat × Nat × Nat :=
  match f with | 1 => (4, 3, 7) | 2 => (5, 2, 15) | 4 => (8, 7, 127) | 5 => (5, 10, 15) | _ => (8, 23, 127)

/-- A magnitude `m * 2 ^ (e - b)` with all three natural. -/
def scaled (neg : Bool) (m e b : Nat) : Num := if b ≤ e then .fin neg (m * 2 ^ (e - b)) 1 else .fin neg m (2 ^ (b - e))

/-- Decode the bits of a floating-point format (R612): E4M3 has no infinities and one NaN pattern. -/
def decodeFp (f x : Nat) : Num :=
  match fpShape f with
  | (eb, mb, bias) =>
    let neg := bitOf x (eb + mb)
    let e := bitsOf x mb eb
    let m := bitsOf x 0 mb
    if f = 1 ∧ e = 15 ∧ m = 7 then .nan
    else if f ≠ 1 ∧ e = 2 ^ eb - 1 then (if m = 0 then .inf neg else .nan)
    else if e = 0 then scaled neg m 1 (bias + mb)
    else scaled neg (2 ^ mb + m) e (bias + mb)

/-- Decode the bits of a format. -/
def decodeNum (f x : Nat) : Num :=
  if fmtInt f then
    let w := fmtBits f
    Num.ofInt (if bitOf x (w - 1) then (x % 2 ^ w : Int) - 2 ^ w else (x % 2 ^ w : Int))
  else decodeFp f x

/-- Round a non-negative rational to the nearest integer, ties to even (R612). -/
def roundQ (p q : Nat) : Nat :=
  let d := p / q
  let r := 2 * (p % q)
  if r < q then d else if q < r then d + 1 else d + d % 2

/-- The exponent `e` with `2^(e-off) ≤ p / q < 2^(e+1-off)`, shifted by `off` so that it is natural; values below `2^(1-off)`
give 1 or less. -/
def expOf (p q off : Nat) : Nat :=
  let a := p * 2 ^ off / q
  Nat.log2 a

/-- The largest finite magnitude's bits of a floating-point format. -/
def maxFinite (f : Nat) : Nat :=
  match fpShape f with
  | (eb, mb, _) => if f = 1 then 0x7E else (2 ^ eb - 1) * 2 ^ mb - 1

/-- Bits of NaN of a floating-point format: the quiet pattern; E4M3's only one. -/
def nanBits (f : Nat) : Nat :=
  match fpShape f with
  | (eb, mb, _) => if f = 1 then 0x7F else (2 ^ eb - 1) * 2 ^ mb + 2 ^ (mb - 1)

/-- Bits of what an out-of-range magnitude becomes (R613): the largest finite value with SAT, otherwise infinity, or NaN for
E4M3. -/
def overBits (f : Nat) (sat : Bool) : Nat :=
  match fpShape f with
  | (eb, mb, _) => if sat then maxFinite f else if f = 1 then 0x7F else (2 ^ eb - 1) * 2 ^ mb

/-- Encode a rational magnitude in a floating-point format: rounded to nearest even, subnormals kept (R612, R613). -/
def encodeMag (f : Nat) (sat : Bool) (p q : Nat) : Nat :=
  match fpShape f with
  | (_, mb, bias) =>
    if p = 0 then 0
    else
      let e := max 1 (expOf p q (bias + mb) - mb)
      let m := if bias + mb ≤ e then roundQ p (q * 2 ^ (e - bias - mb)) else roundQ (p * 2 ^ (bias + mb - e)) q
      let x := if m < 2 ^ mb then m else (e - 1) * 2 ^ mb + m
      if maxFinite f < x then overBits f sat else x

/-- Encode a value in a format (R613). A NaN has no integer: `free` stands for what an integer format then holds. -/
def encodeNum (f : Nat) (sat : Bool) (free : Nat) (v : Num) : Nat :=
  let w := fmtBits f
  if fmtInt f then
    let hi := 2 ^ (w - 1) - 1
    match v with
    | .nan => free % 2 ^ w
    | .inf neg => if neg then hi + 1 else hi
    | .fin neg p q =>
      let n := roundQ p q
      if neg then (if hi + 1 < n then hi + 1 else (2 ^ w - n) % 2 ^ w) else min n hi
  else
    let sg (neg : Bool) : Nat := if neg then 2 ^ (w - 1) else 0
    match v with
    | .nan => nanBits f
    | .inf neg => sg neg + overBits f sat
    | .fin neg p q => sg neg + encodeMag f sat p q

/-- A value rounded to a floating-point format. -/
def roundTo (f : Nat) (v : Num) : Num :=
  match v with
  | .fin neg p q => if encodeMag f false p q = overBits f false then .inf neg else decodeFp f (encodeNum f false 0 v)
  | x => x

/-- Negation. -/
def Num.neg : Num → Num
  | .nan => .nan
  | .inf n => .inf !n
  | .fin n p q => .fin (!n) p q

/-- The exact product; infinity times zero is NaN. -/
def Num.mul : Num → Num → Num
  | .nan, _ => .nan
  | _, .nan => .nan
  | .inf a, .inf b => .inf (a != b)
  | .inf a, .fin b p _ => if p = 0 then .nan else .inf (a != b)
  | .fin a p _, .inf b => if p = 0 then .nan else .inf (a != b)
  | .fin a p q, .fin b r s => .fin (a != b) (p * r) (q * s)

/-- The exact sum; opposite infinities give NaN; an exact zero is positive unless both are negative. -/
def Num.add : Num → Num → Num
  | .nan, _ => .nan
  | _, .nan => .nan
  | .inf a, .inf b => if a = b then .inf a else .nan
  | .inf a, _ => .inf a
  | _, .inf b => .inf b
  | .fin a p q, .fin b r s =>
    let x := p * s
    let y := r * q
    if a = b then .fin a (x + y) (q * s)
    else if x = y then .fin false 0 1
    else if y < x then .fin a (x - y) (q * s) else .fin b (y - x) (q * s)

/-- Whether a value is below another; false where either is NaN. -/
def Num.lt : Num → Num → Bool
  | .nan, _ => false
  | _, .nan => false
  | .inf a, .inf b => a && !b
  | .inf a, _ => a
  | _, .inf b => !b
  | .fin a p q, .fin b r s =>
    let x := p * s
    let y := r * q
    match a, b with
    | false, false => decide (x < y)
    | true, true => decide (y < x)
    | true, false => !(x == 0 && y == 0)
    | false, true => false

/-- Whether a value is NaN. -/
def Num.isNan : Num → Bool
  | .nan => true
  | _ => false

/-- The larger of two values; NaN if either is NaN (R612). -/
def Num.max (a b : Num) : Num := if a.isNan || b.isNan then .nan else if a.lt b then b else a
/-- The smaller of two values; NaN if either is NaN. -/
def Num.min (a b : Num) : Num := if a.isNan || b.isNan then .nan else if b.lt a then b else a
/-- The magnitude of a value. -/
def Num.abs : Num → Num
  | .inf _ => .inf false
  | .fin _ p q => .fin false p q
  | .nan => .nan
/-- Negative values become zero (RELU). -/
def Num.relu (a : Num) : Num := if a.lt .zero then .zero else a

/-- A value divided by a positive natural number. -/
def Num.divNat (a : Num) (n : Nat) : Num :=
  match a with
  | .fin s p q => .fin s p (q * n)
  | x => x

/-- The exact sum of a list. -/
def Num.sum (l : List Num) : Num := match l with | [] => .zero | x :: t => t.foldl Num.add x

/-- Whether every partial sum of a list, in whatever order it is added, is exact in FP32: all terms finite multiples of one
unit, their magnitudes adding up to no more than 2^24 units, in range. -/
def sumExact (l : List Num) : Bool :=
  let q := l.foldl (fun a x => match x with | .fin _ _ d => Nat.max a d | _ => a) 1
  let ms := l.map fun x => match x with | .fin _ p d => if q % d = 0 then some (p * (q / d)) else none | _ => none
  ms.all Option.isSome &&
    (let ns := ms.map fun x => x.getD 0
     let g := ns.foldl Nat.gcd 0
     g == 0 || decide (ns.sum ≤ 2 ^ 24 * g ∧ q ≤ 2 ^ 149 ∧ ns.sum < 2 ^ 127 * q))

/-- A sum in an FP32 accumulator (R614): the spec does not give the order of the additions, so the result is fixed where every
order gives the same and free otherwise; a NaN or an infinity comes out as one. -/
def fpSum (free : Nat) (l : List Num) : Num :=
  match Num.sum l with
  | .nan => .nan
  | .inf n => .inf n
  | v => if sumExact l then v else decodeFp 7 free

/-- Convert through FP32 or directly: fixed where both readings agree, free otherwise. -/
def viaFp32 (f : Nat) (sat : Bool) (free : Nat) (v : Num) : Nat :=
  let a := encodeNum f sat free v
  let b := encodeNum f sat free (roundTo 7 v)
  if a = b then a else if free % 2 = 0 then a else b

/-- One product added, with one or two roundings in a format (R618): fixed where both agree. -/
def mulAdd (f : Nat) (free : Nat) (a b c : Num) : Num :=
  let x := roundTo f ((a.mul b).add c)
  let y := roundTo f ((roundTo f (a.mul b)).add c)
  if x = y then x else if free % 2 = 0 then x else y

/-- FP32 bits next to a value's, within one unit in the last place: the free choice of R618's bound. -/
def nearFp32 (free : Nat) (v : Num) : Num :=
  let x := encodeNum 7 false 0 v
  decodeFp 7 (match free % 3 with | 0 => x | 1 => x + 1 | _ => x - 1)

/-! ### CRC-32 (R701) -/

/-- One bit of the reflected CRC-32 with the polynomial 0x04C1_1DB7. -/
def crcBit (c : W) : W := if c.toNat % 2 = 1 then (c >>> 1) ^^^ 0xEDB88320 else c >>> 1

/-- `n` steps of the CRC register with no input. -/
def crcBits : Nat → W → W
  | 0, c => c
  | n + 1, c => crcBits n (crcBit c)

/-- One byte into the CRC register. -/
def crcByte (c : W) (b : Byte) : W := crcBits 8 (c ^^^ b.setWidth 32)

/-- The CRC of some bytes after a sequence whose CRC is `c` (R619). -/
def crcRun (c : W) (bs : List Byte) : W := bs.foldl crcByte (c ^^^ 0xFFFFFFFF) ^^^ 0xFFFFFFFF

/-- The CRC of A followed by B from both CRCs and the length of B (R619). -/
def crcCombine (a b : W) (len : Nat) : W := crcBits (8 * len) a ^^^ b

end Sys2Proof.Machine
end

