-- ==== Sys2Proof/Machine/Mem.lean ====
section
/-! DEFINITION. Device memory: HBM with ECC and poison, dirty granules, the instances' slot lists and the DMMU (14). -/

set_option Elab.async false
namespace Sys2Proof.Machine

/-! ### HBM -/

/-- The free bytes of an address whose contents a reset left open (R112): their number. -/
def State.vagueAt (s : State) (pa : Nat) : Option Nat :=
  match tblFind (pa / 2 ^ 28) s.vague with
  | some (n, keep) => if keep.contains (pa / 4096) then none else some n
  | none => none

/-- What a byte of HBM that no entry lists reads as: zero, as the slot scrub leaves it (R302, R651), or a free byte where a reset
left the contents open. -/
def State.memDef (s : State) (pa : Nat) : Byte := match s.vagueAt pa with | some n => Config.freeByte n pa | none => 0

/-- A byte of HBM. -/
def State.memByte (s : State) (pa : Nat) : Byte := (tblFind pa s.mem).getD (s.memDef pa)
/-- Bytes of HBM. -/
def State.memBytes (s : State) (pa n : Nat) : List Byte := (List.range n).map fun i => s.memByte (pa + i)

/-- Bytes written one by one into a byte table; `none` leaves its byte alone (byte enables, R149). -/
def putBytes : Nat → List (Option Byte) → Tbl Byte → Tbl Byte
  | _, [], t => t
  | a, b :: bs, t => putBytes (a + 1) bs (match b with | some v => tblSet 0 a v t | none => t)

/-- Bytes written one by one into device memory: where what an unlisted address reads as is free (`f`), every byte is listed. -/
def putMem (f : Nat → Bool) : Nat → List (Option Byte) → Tbl Byte → Tbl Byte
  | _, [], t => t
  | a, b :: bs, t => putMem f (a + 1) bs (match b with | some v => if f a then tblPut a v t else tblSet 0 a v t | none => t)

/-- Whether a byte of the write at `pa` covers address `a`. -/
def coversAt (pa : Nat) (bs : List (Option Byte)) (a : Nat) : Bool :=
  decide (pa ≤ a) && (match bs.getD (a - pa) none with | some _ => true | none => false)

/-- Whether a write covers all 32 B of a unit. -/
def coversUnit (pa : Nat) (bs : List (Option Byte)) (u : Nat) : Bool :=
  (List.range 32).all fun i => coversAt pa bs (32 * u + i)

/-- Mark the 64 KiB granules of a device write in the sessions of the slot's owner (R348). -/
def markDev (o : Option Nat) (g : Nat) (t : Tbl Sess) : Tbl Sess :=
  t.map fun (n, v) => if v.active ∧ v.dev ∧ some v.inst = o then (n, { v with marksD := addNat g v.marksD }) else (n, v)

/-- Mark every granule from `g` on, `n` of them. -/
def State.markGrans (s : State) (g n : Nat) : State :=
  (List.range n).foldl (fun s i =>
    { s with sess := markDev (s.slot ((g + i) / 4096)).owner (g + i) s.sess }) s

/-- A write reaches a frame that a head has latched: what the refresh in progress reads of it is open (R657, R679). -/
def State.touchHeads (s : State) (pa n : Nat) : State :=
  if s.disp.heads.any fun v => !v.touched && v.scanning && (match v.cur with
      | some f => f.pages.any fun (_, p) => decide (pa / 4096 ≤ p ∧ p ≤ (pa + n - 1) / 4096)
      | none => false) then
    { s with disp := { s.disp with heads := s.disp.heads.map fun v => match v.cur with
      | some f => if f.pages.any fun (_, p) => decide (pa / 4096 ≤ p ∧ p ≤ (pa + n - 1) / 4096) then { v with touched := true } else v
      | none => v } }
  else s

/-- An L2 slice accepts a write (R348, R649, R655): the bytes change, a unit covered whole loses its poison, the granules
are marked. Bytes that a running copy still has to take from the written range are free (R453, R458). -/
def State.devWriteMask (s : State) (pa : Nat) (bs : List (Option Byte)) : State :=
  if bs = [] then s
  else
    let mark (b : Nat × Nat × Byte) (i : Nat) : Nat × Nat × Byte :=
      if 0 < b.2.1 ∧ coversAt pa bs (b.2.1 - 1) then (b.1, b.2.1, Config.freeByte s.own.freeCtr i) else b
    let hit := s.movers.any fun m => m.todo.any fun b => decide (0 < b.2.1) && coversAt pa bs (b.2.1 - 1)
    let mem := putMem (fun a => (s.vagueAt a).isSome) pa bs s.mem
    let poison := s.poison.filter fun u => !coversUnit pa bs u
    let s := { s with mem := mem, poison := poison, flips := s.flips.filter fun (u, _) => !coversUnit pa bs u }
    let s := if s.movers.any (·.chain) then
        { s with movers := s.movers.map fun m => if m.chain then { m with touched := (pa, bs.length) :: m.touched } else m } else s
    let s := if hit then State.bumpFree { s with movers := s.movers.map fun m => { m with todo := m.todo.mapIdx fun i b => mark b i } } else s
    (s.markGrans (pa / 65536) ((pa + bs.length - 1) / 65536 - pa / 65536 + 1)).touchHeads pa bs.length

/-- A write of whole bytes to device memory. -/
def State.devWrite (s : State) (pa : Nat) (bs : List Byte) : State := s.devWriteMask pa (bs.map some)

/-- The first poisoned unit an access of `n` bytes at `pa` meets (R649). -/
def State.poisonAt (s : State) (pa n : Nat) : Option Nat :=
  s.poison.find? fun u => decide (pa < 32 * u + 32 ∧ 32 * u < pa + n)

/-- Stack and pseudo-channel of an HBM physical address (R647). -/
def hbmPlace (pa : Nat) : Nat × Nat :=
  let u := pa / 256
  let h := u ^^^ (u / 2 ^ 9) ^^^ (u / 2 ^ 18) ^^^ (u / 2 ^ 27)
  (h % 4, h / 4 % 32)

/-- The L2 slice that owns an HBM physical address (R647). -/
def hbmSlice (pa : Nat) : Nat := (hbmPlace pa).1 * 8 + (hbmPlace pa).2 % 8

/-- Capture an HBM ECC event (ECC_EVENT, ECC_EVENT_ADDR). -/
def State.eccEvent (s : State) (pa : Nat) (uncorr patrol : Bool) : State :=
  let o := (s.slot (pa / 2 ^ 28)).owner
  let v := b2n uncorr + 2 * b2n patrol + 4 * (hbmPlace pa).1 + 16 * (hbmPlace pa).2 +
    (match o with | some k => 2 ^ 16 * k + 2 ^ 23 | none => 0)
  match s.captureAt 0x1C010C v 31 with
  | (true, s) => (s.setReg 0x1C0110 (BitVec.ofNat 32 pa)).setReg 0x1C0114 (BitVec.ofNat 32 (pa / 2 ^ 32))
  | (false, s) => s

/-- What the ECC check of a memory read finds: nothing, or an error in a 32 B unit, correctable or not. -/
abbrev EccFind := Option (Nat × Bool)

/-- Apply what the ECC check of a read finds (R648, R649): a correction is counted and recorded; an uncorrectable error
poisons the unit, once. -/
def State.eccFind (s : State) (e : EccFind) (patrol : Bool) : State :=
  match e with
  | none => s
  | some (u, false) =>
    if u ∈ s.poison then s
    else
      let s := (s.count 0x1C0104).eccEvent (32 * u) false patrol
      let s := s.raiseAs 0x0204 0 .l0 .device none 0x1C0000 0xFF (32 * u) false (tblFind u s.flips).isSome false
      { s with flips := tblErase u s.flips }
  | some (u, true) =>
    if u ∈ s.poison then s
    else
      let s := { s with poison := addNat u s.poison }
      let s := (s.count 0x1C0108).eccEvent (32 * u) true patrol
      s.cause 0x1C0000 8

/-- PROT.TENANT_POOL's first and last slot. -/
def State.pool (s : State) : Nat × Nat := (bitsOf (s.reg 0x4118).toNat 0 9, bitsOf (s.reg 0x4118).toNat 16 9)

/-- Whether a slot lies in the tenant pool (R197, R198); before the protection setup is written no slot does. -/
def State.inPool (s : State) (n : Nat) : Bool :=
  decide (s.reg 0x4100 = 1) && decide (s.pool.1 ≤ n ∧ n ≤ s.pool.2)

/-- Whether a slot lies in the firmware carve-out. -/
def State.inFwCarve (s : State) (n : Nat) : Bool :=
  let r := (s.reg 0x4110).toNat
  decide (bitsOf r 0 9 ≤ n ∧ n < bitsOf r 0 9 + bitsOf r 16 4)

/-- Whether a slot lies in the security carve-out. -/
def State.inSecCarve (s : State) (n : Nat) : Bool :=
  let r := (s.reg 0x4114).toNat
  decide (bitsOf r 0 9 ≤ n ∧ n < bitsOf r 0 9 + bitsOf r 16 4)

/-- Whether a slot is pending: assigned, and its scrub not complete (R304). -/
def slotPending (v : Slot) : Bool := v.owner.isSome && !(v.scrub == .clean)

/-- The instance's slot list: every slot assigned to it, pending ones included, in ascending order (R634). -/
def State.slotList (s : State) (k : Nat) : List Nat :=
  s.slots.filterMap fun (n, v) => if v.owner = some k then some n else none

/-! ### Translation -/

/-- Why an access was refused: DMMU_FAULT or SLOT_VIOLATION with cause and level, or a poisoned table entry. -/
inductive XErr
  | dmmu (cause lvl : Nat)
  | slot (cause lvl : Nat)
  | ecc (pa : Nat)
deriving DecidableEq, Repr

/-- Where an access goes. -/
inductive XDest
  | hbm (pa : Nat)
  | host (a : Nat)
deriving DecidableEq, Repr

/-- A leaf as a walk finds it. -/
structure Leaf where
  host : Bool
  base : Nat
  lvl : Nat
  canR : Bool
  canW : Bool
deriving DecidableEq, Repr

/-- Whether the instance's slot list moved while commands or launches that are still in flight had begun (R636). -/
def State.slotsMoving (s : State) (k : Nat) : Bool :=
  (s.inst k).moved.any fun i => s.cmds.any (·.id = i) || (tblFind i s.launches).isSome

/-- An IPA to its HBM physical address through the checks of R635, in order. While the list is moving, which of the own
slots is reached is free (R636). -/
def State.ipaToPa (s : State) (k ipa lvl : Nat) : Except XErr Nat :=
  let l := s.slotList k
  let n := ipa / 2 ^ 28 % 512
  if ipa / 2 ^ 37 ≠ 0 ∨ l.length ≤ n then .error (.slot 1 lvl)
  else
    let n := if s.slotsMoving k then Config.freeNat s.own.freeCtr % l.length else n
    let sl := l.getD n 0
    if slotPending (s.slot sl) then .error (.slot 2 lvl)
    else if (s.slot sl).owner ≠ some k then .error (.slot 3 lvl)
    else if !s.inPool sl then .error (.slot 4 lvl)
    else .ok (2 ^ 28 * sl + ipa % 2 ^ 28)

/-- The format checks of R638 on an entry at a level. -/
def pteBad (e idx lvl sz : Nat) : Bool :=
  let leaf := bitOf e 1
  let addr := 4096 * (e / 4096 % 2 ^ 40)
  bitsOf e 7 5 != 0 || bitsOf e 52 12 != 0 || (lvl == 0 && leaf) || (lvl == 3 && !leaf)
    || (if leaf then decide (2 ≤ bitsOf e 2 2) else bitsOf e 2 2 != 0)
    || (!leaf && (bitOf e 4 || bitOf e 5)) || (leaf && addr % sz != 0)
    || (bitOf e 6 && (lvl != 3 || bitsOf e 12 4 != idx % 16))

/-- The entries of a CONT group agree (R639): CONT, TARGET, R and W and ADDR bits 51:16. -/
def contAgree (es : List Nat) : Bool :=
  es.all fun e => bitOf e 6 && (bitsOf e 2 4 == bitsOf (es.getD 0 0) 2 4) && (bitsOf e 16 36 == bitsOf (es.getD 0 0) 16 36)

/-- Walk the levels still to read from a table's IPA (R637, R638). -/
def State.walkFrom (s : State) (k va : Nat) (write : Bool) : List (Nat × Nat) → Nat → Except XErr Leaf
  | [], _ => .error (.dmmu 4 3)
  | (sh, lvl) :: more, tbl =>
    let idx := va / 2 ^ sh % 512
    match s.ipaToPa k (tbl + 8 * idx) lvl with
    | .error x => .error x
    | .ok pa =>
      if (s.poisonAt pa 8).isSome then .error (.ecc pa)
      else
        let e := leNat (s.memBytes pa 8)
        let addr := 4096 * (e / 4096 % 2 ^ 40)
        if !bitOf e 0 then .error (.dmmu 2 lvl)
        else if pteBad e idx lvl (2 ^ sh) then .error (.dmmu 4 lvl)
        else if !bitOf e 1 then s.walkFrom k va write more addr
        else
          let grp := (List.range 16).map fun j => leNat (s.memBytes (pa - idx % 16 * 8 + 8 * j) 8)
          let e := if bitOf e 6 && !contAgree grp then grp.getD (Config.freeNat s.own.freeCtr % 16) e else e
          let addr := 4096 * (e / 4096 % 2 ^ 40)
          if (write && !bitOf e 5) || (!write && !bitOf e 4) then .error (.dmmu 3 lvl)
          else .ok { host := bitsOf e 2 2 == 1, base := addr + 4096 * (va % 2 ^ sh / 4096), lvl := lvl, canR := bitOf e 4, canW := bitOf e 5 }

/-- The walk of an instance's tables for a device virtual address (R638). -/
def State.walk (s : State) (k va : Nat) (write : Bool) : Except XErr Leaf :=
  if (s.inst k).root = 0 then .error (.dmmu 1 0)
  else s.walkFrom k (va % 2 ^ 48) write [(39, 0), (30, 1), (21, 2), (12, 3)] (s.inst k).root.toNat

/-- Who asks for a translation: requester code of FAULT_EVENT and the cluster of requesters 2 to 5. -/
structure Asker where
  req : Nat
  cluster : Nat
deriving DecidableEq, Repr

/-- The unit whose TLB serves a requester: the Masthead's (16) or a Yard's. -/
def Asker.unit (a : Asker) : Nat := if a.req < 2 then 16 else a.cluster

/-- The TLB entry of a unit for a page of an instance. -/
def tlbFind (u k pg : Nat) (l : List TlbEnt) : Option TlbEnt :=
  l.find? fun e => decide (e.unit = u ∧ e.inst = k ∧ e.page = pg)

/-- A translated page: where its first byte lies, before the slot list is applied to an IPA. -/
def State.xlatePage (s : State) (k va : Nat) (write : Bool) (a : Asker) : State × Except XErr Leaf :=
  let pg := va % 2 ^ 48 / 4096
  let w := s.walk k va write
  let fresh (s : State) : State × Except XErr Leaf :=
    let s := (s.count 0x1A0104).count (if a.unit = 16 then 0x1A010C else 0x1A0108)
    match w with
    | .ok l =>
      let ent : TlbEnt :=
        { unit := a.unit, inst := k, page := pg, host := l.host, base := l.base, canRead := l.canR, canWrite := l.canW }
      ({ s with caches := { s.caches with
          tlb := ent :: s.caches.tlb.filter fun e => !decide (e.unit = a.unit ∧ e.inst = k ∧ e.page = pg) } }, .ok l)
    | .error x => (s, .error x)
  match tlbFind a.unit k pg s.caches.tlb with
  | none => fresh s
  | some e =>
    let kept : Except XErr Leaf :=
      if (write && !e.canWrite) || (!write && !e.canRead) then .error (.dmmu 3 3)
      else .ok { host := e.host, base := e.base, lvl := 3, canR := e.canRead, canW := e.canWrite }
    let same : Bool := match w, kept with
      | .ok x, .ok y => x.host == y.host && x.base == y.base
      | _, _ => false
    if same then (s, w)
    else if Config.freeBool s.own.freeCtr then (s.bumpFree, kept) else fresh s.bumpFree

/-- Translate one device virtual address for an access (R633 to R641). -/
def State.xlate (s : State) (k va : Nat) (write : Bool) (a : Asker) : State × Except XErr XDest :=
  match s.xlatePage k va write a with
  | (s, .error x) => (s, .error x)
  | (s, .ok l) =>
    if l.host then (s, .ok (.host (l.base + va % 4096)))
    else match s.ipaToPa k (l.base + va % 4096) l.lvl with
      | .ok pa => (s, .ok (.hbm pa))
      | .error x => (s, .error x)

/-- A run of bytes within one page: offset in the operand, where it goes, how many bytes. -/
structure Seg where
  off : Nat
  dest : XDest
  len : Nat
deriving DecidableEq, Repr

/-- Translate a range page by page (R643): the runs reached, and the offset and reason of the first refusal. -/
def State.xlateRange (s : State) (k : Nat) (write : Bool) (a : Asker) :
    Nat → Nat → Nat → Nat → List Seg → State × List Seg × Option (Nat × XErr)
  | 0, _, _, _, acc => (s, acc.reverse, none)
  | f + 1, va, off, len, acc =>
    if len = 0 then (s, acc.reverse, none)
    else
      let n := min len (4096 - va % 4096)
      match s.xlate k va write a with
      | (s, .error x) => (s, acc.reverse, some (off, x))
      | (s, .ok d) => State.xlateRange s k write a f (va + n) (off + n) (len - n) (⟨off, d, n⟩ :: acc)

/-- Translate `len` bytes at `va`. -/
def State.segs (s : State) (k va len : Nat) (write : Bool) (a : Asker) : State × List Seg × Option (Nat × XErr) :=
  s.xlateRange k write a (len / 4096 + 2) va 0 len []

/-- The bytes of the device-memory runs of a range; a host run reads as no bytes here. -/
def State.segBytes (s : State) : List Seg → List Byte
  | [] => []
  | ⟨_, .hbm pa, n⟩ :: t => s.memBytes pa n ++ s.segBytes t
  | _ :: t => s.segBytes t

/-- The first poisoned unit in the device-memory runs. -/
def State.segPoison (s : State) : List Seg → Option Nat
  | [] => none
  | ⟨_, .hbm pa, n⟩ :: t => match s.poisonAt pa n with
    | some u => some u
    | none => s.segPoison t
  | _ :: t => s.segPoison t

/-- Whether some run lies in host memory. -/
def segsHost (l : List Seg) : Bool := l.any fun g => match g.dest with | .host _ => true | .hbm _ => false

/-- Write bytes to the runs of a range: device runs to HBM, host runs as host-bound writes of the instance. -/
def State.segWrite (s : State) (k : Nat) (marks : Bool) : List Seg → List Byte → State
  | [], _ => s
  | ⟨_, .hbm pa, n⟩ :: t, d => (s.devWrite pa (d.take n)).segWrite k marks t (d.drop n)
  | ⟨_, .host a, n⟩ :: t, d => (s.hostWrite k a (d.take n) marks).segWrite k marks t (d.drop n)

/-- DETAIL of a translation fault (17). -/
def xDetail (va : Nat) : XErr → Nat
  | .dmmu c l => va % 2 ^ 48 + 2 ^ 48 * c + 2 ^ 51 * l
  | .slot c l => va % 2 ^ 48 + 2 ^ 48 * c + 2 ^ 51 * l
  | .ecc pa => pa

/-- The fault code of a refused access. -/
def xCode : XErr → Nat
  | .dmmu _ _ => 0x0201
  | .slot _ _ => 0x0202
  | .ecc _ => 0x0205

/-- Count and capture a translation fault in the DMMU page and raise its cause (FAULT_EVENT, 14). -/
def State.xFault (s : State) (k va : Nat) (write : Bool) (a : Asker) (x : XErr) : State :=
  let cap (kind c l : Nat) (s : State) : State :=
    let v := k + 2 ^ 7 * kind + 2 ^ 8 * c + 2 ^ 11 * l + 2 ^ 13 * a.req +
      (if a.req < 2 then 0 else 2 ^ 16 * a.cluster) + 2 ^ 20 * b2n write
    match s.captureAt 0x1A0110 v 31 with
    | (true, s) => (s.setReg 0x1A0118 (BitVec.ofNat 32 va)).setReg 0x1A011C (BitVec.ofNat 32 (va / 2 ^ 32 % 2 ^ 16))
    | (false, s) => s
  match x with
  | .dmmu c l => (cap 0 c l (s.count 0x1A0120)).cause 0x1A0000 8
  | .slot c l => (cap 1 c l (s.count 0x1A0124)).cause 0x1A0000 9
  | .ecc _ => s

/-- Remove every cached translation of an instance (R642, R644). -/
def State.dropTlb (s : State) (k : Nat) : State :=
  { s with caches := { s.caches with tlb := s.caches.tlb.filter (·.inst ≠ k) } }

/-- Remove an instance's L1 lines on a cluster (R661). -/
def State.dropL1 (s : State) (n k : Nat) : State :=
  let s := s.count (0x80000 + 0x10000 * n + 0x8114)
  { s with caches := { s.caches with l1 := s.caches.l1.filter fun l => !decide (l.cluster = n ∧ l.inst = k) } }

/-- Remove every L1 line of a cluster (R659). -/
def State.flushL1 (s : State) (n : Nat) : State :=
  let s := s.count (0x80000 + 0x10000 * n + 0x8114)
  { s with caches := { s.caches with l1 := s.caches.l1.filter (·.cluster ≠ n) } }

end Sys2Proof.Machine
end

