-- ==== Sys2Proof/Machine/Queues.lean ====
section
/-! DEFINITION. Hardware queues: the stream position, relocation of handles, completion records, faults of a queue, and
what every command shares when it begins and completes (09, 10). -/

set_option Elab.async false
namespace Sys2Proof.Machine

/-- Where a command stands in its stream: opcode, level, word offset in its buffer, ring count (R398). -/
structure Pos where
  op : Nat
  depth : Nat
  off : Nat
  ring : W
deriving DecidableEq, Repr

/-- The command at the front of a queue: where it stands and its words. -/
structure Front where
  pos : Pos
  words : List W
deriving DecidableEq, Repr

/-- Header fields (R441). -/
def hOp (w : W) : Nat := bitsOf w.toNat 0 8
/-- LEN of a header. -/
def hLen (w : W) : Nat := bitsOf w.toNat 8 8
/-- PRED of a header. -/
def hPred (w : W) : Bool := bitOf w.toNat 16
/-- SYNC_AFTER of a header. -/
def hSync (w : W) : Bool := bitOf w.toNat 17
/-- IRQ of a header. -/
def hIrq (w : W) : Bool := bitOf w.toNat 18
/-- TIMEOUT_SEL of a header. -/
def hSel (w : W) : Nat := bitsOf w.toNat 19 3

/-- FAULT_INFO of a position (09). -/
def faultInfoOf (p : Pos) : W :=
  BitVec.ofNat 32 (p.op + 2 ^ 8 * p.depth + (if p.depth = 0 then 0 else 2 ^ 10 * (p.off % 2 ^ 18)))

/-- The hardware queue bound to a local index of an instance (R379). -/
def State.hwqOf (s : State) (k l : Nat) : Option Nat :=
  (s.queues.find? fun (_, q) => decide (q.st ≠ .free ∧ q.inst = k ∧ q.loc = l)).map (·.1)

/-- Commands of a queue that have begun and not completed. -/
def State.cmdsOf (s : State) (h : Nat) : List Cmd := s.cmds.filter (·.hwq = h)

/-- Whether a command of a queue other than an INDIRECT has begun and not completed. -/
def State.busyQ (s : State) (h : Nat) : Bool := s.cmds.any (·.hwq = h)

/-- QSTATE.BUSY (R447, log entry 31): a command of the queue has begun and not completed; an INDIRECT has until the last command of
its buffer has begun. In a queue that is not RUNNING a buffer that was left counts as ended. -/
def State.busyOf (s : State) (h : Nat) : Bool :=
  s.busyQ h || (decide ((s.queue h).st = .running) && !(s.queue h).frames.isEmpty)

/-! ### The handle table and address operands -/

/-- The HTAB entry of an index of an instance. -/
def State.htabEnt (s : State) (k i : Nat) : HtabEnt := tblGet { w0 := 0, w1 := 0 } (65536 * k + i) s.htab

/-- How a command uses an address operand (R408). -/
inductive Use
  | read | write | scanout | none
deriving DecidableEq, Repr

/-- An address operand: the index of its first word, how it is used, the length of its bounding range (R446). -/
structure Opnd where
  w : Nat
  use : Use
  range : Nat
deriving DecidableEq, Repr

/-- Relocate a handle reference (R408): the address, or the fault code. -/
def State.relocate (s : State) (k hnd off : Nat) (u : Use) (range : Nat) : Except Nat Nat :=
  let e := s.htabEnt k (hnd % 65536)
  let w0 := e.w0.toNat
  if hnd / 2 ^ 24 ≠ 0 then .error 0x0103
  else if (if (s.inst k).htab = 0 then 0 else 2 ^ (s.inst k).htab) ≤ hnd % 65536 ∨ !bitOf w0 56 ∨ bitsOf w0 48 8 ≠ hnd / 65536 % 256 then
    .error 0x0105
  else if (u = .read ∧ !bitOf w0 57) ∨ (u = .write ∧ !bitOf w0 58) ∨ (u = .scanout ∧ !bitOf w0 59) then .error 0x0102
  else if e.w1.toNat % 2 ^ 40 < off + range then .error 0x0106
  else .ok (bitsOf w0 0 48 + off)

/-- The device virtual address of an address operand: the raw address on a KERNEL queue, the relocated one on a USER
queue (R402). -/
def State.addrOf (s : State) (q : Queue) (ws : List W) (o : Opnd) : Except Nat Nat :=
  if q.user then s.relocate q.inst (natAt ws o.w) (natAt ws (o.w + 1)) o.use o.range
  else .ok (nat64At ws o.w)

/-- The first fault of a list of operands (R403 check 5). -/
def State.relocFault (s : State) (q : Queue) (ws : List W) : List Opnd → Option Nat
  | [] => none
  | o :: t => match s.addrOf q ws o with
    | .error c => some c
    | .ok _ => s.relocFault q ws t

/-- The address of an operand that has passed its relocation. -/
def State.va (s : State) (q : Queue) (ws : List W) (o : Opnd) : Nat :=
  match s.addrOf q ws o with
  | .ok a => a
  | .error _ => 0

/-! ### Completion records and queue faults -/

/-- The 32 bytes of a completion record (10). `kind` 0 REPORT, 1 INCOMPLETE, 2 FAULT. -/
def recBytes (tag : Nat) (p : Pos) (kind h code : Nat) (gtime : W64) (detail : Nat) : List Byte :=
  leBytes 4 tag ++
  leBytes 4 ((if p.depth = 0 then 0 else p.off % 2 ^ 18) + 2 ^ 18 * p.depth + 2 ^ 20 * kind + 2 ^ 24 * p.op) ++
  leBytes 4 p.ring.toNat ++ leBytes 2 h ++ leBytes 2 code ++ leBytes 8 gtime.toNat ++ leBytes 8 detail

/-- The asker of a Masthead command. -/
def askCmd : Asker := ⟨0, 0⟩
/-- The asker of a bulk mover. -/
def askBmv : Asker := ⟨1, 0⟩

/-- Write a record to a queue's FAULT_REC; none, or one that does not resolve, is counted in REC_DROPPED (R474). -/
def State.faultRecord (s : State) (h : Nat) (p : Pos) (kind code detail : Nat) : State :=
  let q := s.queue h
  if q.faultRec = 0 then s.count 0x16158
  else match s.segs q.inst q.faultRec.toNat 32 true askCmd with
    | (s, gs, none) => s.segWrite q.inst true gs (recBytes 0 p kind h code s.ck.gtime detail)
    | (s, _, some _) => s.count 0x16158

/-- Whether a command in flight only waits: it ends without effect when its queue faults (R439). A SYNC_INIT that reads its
records from host memory has not begun (R541). -/
def cmdWaits (c : Cmd) : Bool :=
  match c.work with
  | .wait | .beacon _ _ _ | .earlier _ => true
  | .operand _ _ _ => c.op = 0x85
  | _ => false

/-- Whether an operation of the hub is a wait. -/
def hubWaits : HubKind → Bool
  | .waitGe | .waitGen | .waitGeConsume => true
  | _ => false

/-- End the waiting blocking commands of a queue without effect, with their waiters in the hub (R439). -/
def State.endWaits (s : State) (h : Nat) : State :=
  { s with
    cmds := s.cmds.filter fun c => !(decide (c.hwq = h) && cmdWaits c)
    sync := { s.sync with
      waiters := s.sync.waiters.filter fun w => match w.who with | .queue h' _ => h' ≠ h | _ => true
      fifo := s.sync.fifo.filter fun o => match o.who with | .queue h' _ => !(h' == h && hubWaits o.kind) | _ => true } }

/-- A queue enters FAULTED (R398, R399, R439, R474): code and position recorded, counted and captured, waiting commands
ended, the record written, the fault vector raised. On a queue already FAULTED nothing of this happens. -/
def State.enterFaulted (s : State) (h code : Nat) (p : Pos) (kind detail : Nat) : State :=
  let q := s.queue h
  if q.st = .faulted ∨ q.st = .free then s
  else
    let s := s.setQueue h { q with st := .faulted, faultCode := BitVec.ofNat 16 code, faultInfo := faultInfoOf p, checked := false, waiting := false, ready := none }
    let s := match q.ready with
      | some i => { s with launches := tblErase i s.launches }
      | none => s
    let s := (s.count 0x11108).capture31 0x11104 (h + 2 ^ 10 * code)
    let s := (s.cause 0x11000 8).endWaits h
    let s := s.faultRecord h p kind code detail
    if q.faultEn then s.msixEvent q.inst q.faultVec else s

/-- The FCOL record of a fault of a queue (R754), marked when the queue was already FAULTED (R399). -/
def State.raiseQ (s : State) (h code detail : Nat) (was : Bool) : State :=
  let k := (s.queue h).inst
  s.raiseAs code (codeClass code).1 (codeClass code).2 (.queue k h) (some h) 0x11000 0xFF detail false false was

/-- DETAIL of command, handle, overrun, kill, timeout and host-read faults (17). -/
def cmdDetail (p : Pos) : Nat := (faultInfoOf p).toNat + 2 ^ 32 * p.ring.toNat

/-- A fault that stops a queue: the queue enters FAULTED and the FCOL gets the fault with the DETAIL given. -/
def State.queueFault (s : State) (h code : Nat) (p : Pos) (kind recDetail detail : Nat) : State :=
  let was := decide ((s.queue h).st = .faulted)
  (s.enterFaulted h code p kind recDetail).raiseQ h code detail was

/-- A command fault: CMD_FORMAT and the like (R403). Handle faults are counted in HANDLE_FAULTS (09). -/
def State.cmdFault (s : State) (h code : Nat) (p : Pos) : State :=
  let s := if code = 0x0105 then (s.countField 0x12108 0 16 1).cause 0x12000 8
    else if code = 0x0106 then (s.countField 0x12108 16 16 1).cause 0x12000 8 else s
  s.queueFault h code p 2 0 (cmdDetail p)

/-- A translation, slot or poison fault of a Masthead command's operand (R443, R643, R649). `prog` is the completion-record
DETAIL where the fault ends a COPY or FILL that has begun. -/
def State.accessFault (s : State) (h va : Nat) (write : Bool) (a : Asker) (x : XErr) (p : Pos) (kind : Nat) (prog : Option Nat) :
    State :=
  let q := s.queue h
  let s := s.xFault q.inst va write a x
  let was := decide ((s.queue h).st = .faulted)
  let s := s.enterFaulted h (xCode x) p kind (prog.getD 0)
  let dev := match x with | .ecc _ => 0x1C0000 | _ => 0x1A0000
  let inj := match x with | .ecc pa => (tblFind (pa / 32) s.flips).isSome | _ => false
  s.raiseAs (xCode x) 1 .l2 (.queue q.inst h) (some h) dev 0xFF (prog.getD (xDetail va x)) false inj was

/-! ### Host reads of a queue -/

/-- The cause code of HOST_READ_ERR. -/
def cplCode : Cpl → Nat
  | .ok => 0 | .timeout => 1 | .ur => 2 | .ca => 3 | .poisoned => 4 | .atsDenied => 5 | .bmeOff => 6

/-- Log a failed host read in the function's AER registers where PCIe defines an error (R161): 14 Completion Timeout,
20 Unsupported Request, 15 Completer Abort, 12 Poisoned TLP. -/
def State.aerRead (s : State) (k : Nat) (c : Cpl) : State :=
  let log (e : Nat) : State := s.setFn k { s.fn k with aer := (s.fn k).aer ++ [e] }
  match c with
  | .timeout => log 14 | .ur => log 20 | .ca => log 15 | .poisoned => log 12 | _ => s

/-- Capture a host-read failure (HOST_READ_ERR) and raise the page's cause. -/
def State.hostReadErr (s : State) (k h : Nat) (c : Cpl) : State :=
  match (s.aerRead k c).captureAt 0x1E011C (cplCode c + k * 8 + 2 ^ 10 * h) 31 with
  | (true, s) => s.cause 0x1E0000 10
  | (false, s) => s

/-- HOST_READ_FAIL of a queue at a position (R161). -/
def State.hostReadFault (s : State) (h : Nat) (c : Cpl) (p : Pos) (kind : Nat) (prog : Option Nat) : State :=
  let k := (s.queue h).inst
  let s := s.hostReadErr k h c
  let d := (faultInfoOf p).toNat / 8 * 8 + cplCode c + 2 ^ 32 * p.ring.toNat
  s.queueFault h 0x0109 p kind (prog.getD 0) (prog.getD d)

/-- Issue a host read of an instance, unless Bus Master Enable is 0 (the answer says so) or the link is down. -/
def State.issueRead (s : State) (k : Nat) (w : ReadFor) (a len : Nat) : State :=
  if s.pcie.linkUp then
    let s := s.atsUse k a
    { s with pcie := { s.pcie with reads := s.pcie.reads ++ [{ inst := k, what := w, addr := BitVec.ofNat 64 a, len := len }] } }
  else s

/-- Whether an instance is ACTIVE and no forced kill has struck it (R306, R320). -/
def State.live (s : State) (k : Nat) : Bool := decide ((s.inst k).st = .active) && (s.inst k).quiesce.isNone

/-- Whether a command of a queue with SYNC_AFTER runs: fetch and decode stop behind it (R418). -/
def State.barrier (s : State) (h : Nat) : Bool := s.cmds.any fun c => decide (c.hwq = h) && hSync c.hdr

/-- Issue the reads of ring entries between the fetch pointer and the latched tail, at most four entries ahead of HEAD
(R416), in runs that neither wrap, nor cross 4 KiB, nor exceed Max_Read_Request_Size (R420). -/
def State.fetchRing (h : Nat) : Nat → State → State
  | 0, s => s
  | f + 1, s =>
    let q := s.queue h
    let ahead := (q.fetchPtr - q.head).toNat
    let n := min (q.tail - q.fetchPtr).toNat (4 - ahead)
    if 4 ≤ ahead ∨ n = 0 then s
    else
      let size := 2 ^ q.log2
      let i := q.fetchPtr.toNat % size
      let a := q.base.toNat + 64 * i
      let n := min (min n (size - i)) (min ((4096 - a % 4096) / 64) (max 1 ((s.fn q.inst).mrrs / 64)))
      let s1 := s.setQueue h { q with fetchPtr := q.fetchPtr + BitVec.ofNat 32 n }
      if (s.fn q.inst).bme then State.fetchRing h f (s1.issueRead q.inst (.ring h q.fetchPtr) a (64 * n))
      else
        let bad := (List.range n).map fun j => ((q.fetchPtr + BitVec.ofNat 32 j).toNat, Cpl.bmeOff)
        State.fetchRing h f (s1.setQueue h { s1.queue h with fetchFail := q.fetchFail ++ bad })

/-- Fetch for a RUNNING queue of an ACTIVE instance (R416, R418, R128). -/
def State.fetch (s : State) (h : Nat) : State :=
  let q := s.queue h
  if q.st = .running ∧ s.live q.inst ∧ !s.barrier h ∧ s.pcie.linkUp then State.fetchRing h 4 s else s

/-- Cut a range of device virtual addresses at 4 KiB boundaries and at a largest piece: offset and length of each piece. -/
def cutRange (mx : Nat) : Nat → Nat → Nat → Nat → List (Nat × Nat)
  | 0, _, _, _ => []
  | f + 1, va, off, len =>
    if len = 0 then []
    else
      let n := min (min len mx) (4096 - va % 4096)
      (off, n) :: cutRange mx f (va + n) (off + n) (len - n)

/-- The largest host read of a function (R420). -/
def State.maxRead (s : State) (k : Nat) : Nat := max 64 (s.fn k).mrrs

/-- Enter the pages of an indirect buffer piece by piece: a piece in HBM is read at once, a piece in host memory is asked
for (R417, R420), or fails at once while Bus Master Enable is 0 (R159). Answers the frame's pieces and failures. -/
def State.fetchPieces (h k depth va : Nat) :
    List (Nat × Nat) → State → Tbl (List W) → List (Nat × Nat × Cpl) → State × Tbl (List W) × List (Nat × Nat × Cpl)
  | [], s, got, bad => (s, got, bad)
  | (o, n) :: t, s, got, bad =>
    match s.xlate k (va + o) false askCmd with
    | (s, .ok (.hbm pa)) => State.fetchPieces h k depth va t s (tblPut (o / 4) (bytesWords (n / 4) (s.memBytes pa n)) got) bad
    | (s, .ok (.host a)) =>
      if (s.fn k).bme then State.fetchPieces h k depth va t (s.issueRead k (.indirect h depth (o / 4)) a n) got bad
      else State.fetchPieces h k depth va t s got ((o / 4, n / 4, .bmeOff) :: bad)
    | (s, .error _) => State.fetchPieces h k depth va t s got bad

/-! ### The front of the stream -/

/-- A word of a buffer with host pages: arrived, failed or still awaited. -/
def frameWord (f : Frame) (i : Nat) : Except (Option Cpl) W :=
  match f.fails.find? fun (o, n, _) => decide (o ≤ i ∧ i < o + n) with
  | some (_, _, c) => .error (some c)
  | none => match f.got.find? fun (o, ws) => decide (o ≤ i ∧ i < o + ws.length) with
    | some (o, ws) => .ok (wordAt ws (i - o))
    | none => .error none

/-- `n` words of a buffer with host pages from a position on: all of them, or the index of the first that is missing. -/
def frameWords (f : Frame) : Nat → Nat → Except (Nat × Option Cpl) (List W)
  | _, 0 => .ok []
  | i, n + 1 => match frameWord f i with
    | .error c => .error (i, c)
    | .ok w => match frameWords f (i + 1) n with
      | .error e => .error e
      | .ok ws => .ok (w :: ws)

/-- What the front of a queue holds. -/
inductive FrontRes
  | none
  | fail (c : Cpl) (p : Pos)
  | refused (va : Nat) (x : XErr) (p : Pos)
  | cmd (f : Front)
deriving DecidableEq, Repr

/-- Words of an HBM-resident buffer at a position: as memory holds them now; a word that changed since the buffer was
entered is either the old or the new one (R385, R390). -/
def mixWords (ctr : Nat) (old new : List W) : List W :=
  new.mapIdx fun i w => if old.getD i w = w then w else if Config.freeBool (ctr + i) then w else old.getD i w

/-- The words of a command at an HBM frame: the header first, then as many as LEN says (R389, R643, R649). -/
def State.frameCmd (s : State) (h : Nat) (f : Frame) (p : Pos) : FrontRes :=
  let k := (s.queue h).inst
  let a := f.addr + 4 * f.pos
  let rd (n : Nat) : Except (Nat × XErr) (List W) :=
    match s.segs k a (4 * n) false askCmd with
    | (_, gs, none) => match s.segPoison gs with
      | some u => .error (a, .ecc (32 * u))
      | none => .ok (mixWords s.own.freeCtr (f.words.drop f.pos) (bytesWords n (s.segBytes gs)))
    | (_, _, some (o, x)) => .error (a + o, x)
  match rd 1 with
  | .error (v, x) => .refused v x p
  | .ok ws =>
    let hd := wordAt ws 0
    let n := min (max 1 (hLen hd)) (f.len - f.pos)
    let p := { p with op := hOp hd }
    match rd n with
    | .error (v, x) => .refused v x p
    | .ok ws => .cmd ⟨p, ws⟩

/-- The words of a command at a frame with host pages: a word that never arrives because its page is refused faults there
(R643), a failed read fails the command (R419), otherwise the command waits. -/
def State.hostFrameCmd (s : State) (h : Nat) (f : Frame) (p : Pos) : FrontRes :=
  let miss (i : Nat) (c : Option Cpl) (p : Pos) : FrontRes :=
    match c with
    | some c => .fail c p
    | none => match (s.xlate (s.queue h).inst (f.addr + 4 * i) false askCmd).2 with
      | .error x => .refused (f.addr + 4 * i) x p
      | .ok _ => .none
  match frameWords f f.pos 1 with
  | .error (i, c) => miss i c p
  | .ok ws =>
    let p := { p with op := hOp (wordAt ws 0) }
    match frameWords f f.pos (min (max 1 (hLen (wordAt ws 0))) (f.len - f.pos)) with
    | .error (i, c) => miss i c p
    | .ok ws => .cmd ⟨p, ws⟩

/-- The command at the front of a queue, if its words are there. -/
def State.front (s : State) (h : Nat) : FrontRes :=
  let q := s.queue h
  match q.frames with
  | [] =>
    let p : Pos := ⟨0, 0, 0, q.head⟩
    if q.head = q.tail then .none
    else match q.fetchFail.find? (·.1 = q.head.toNat) with
      | some (_, c) => .fail c p
      | none => match tblFind q.head.toNat q.fetched with
        | none => .none
        | some ws => .cmd ⟨{ p with op := hOp (wordAt ws 0) }, ws⟩
  | f :: rest =>
    let p : Pos := ⟨0, rest.length + 1, f.pos, q.head⟩
    if f.host then s.hostFrameCmd h f p
    else s.frameCmd h f p

/-- A queue whose front command may begin or be checked: RUNNING, its instance ACTIVE, no blocking command in flight, no
decode barrier, no ready launch, no launch that drains after its timeout (R397, R433, R416, R519). -/
def State.open_ (s : State) (h : Nat) : Bool :=
  let q := s.queue h
  decide (q.st = .running) && s.live q.inst && q.ready.isNone && !(s.launches.any fun (_, l) => decide (l.hwq = h) && l.drain) &&
    !(s.cmds.any fun c => decide (c.hwq = h) && (c.blocking || hSync c.hdr)) && !s.pw.safe && !s.pw.removing && !s.fw.swapping

/-- A queue with its innermost buffer left: the INDIRECT completes; at ring level HEAD moves past its entry. -/
def leaveFrame (q : Queue) (rest : List Frame) : Queue :=
  { q with
    frames := rest
    cmdDone := q.cmdDone + 1
    head := if rest = [] then q.head + 1 else q.head
    fetched := if rest = [] then tblErase q.head.toNat q.fetched else q.fetched }

/-- Leave the finished levels of a queue (R389, R447): a level whose last command has begun is left and its INDIRECT
completes; at ring level HEAD moves past the entry. A loop still open at the end of its buffer faults (R448). -/
def State.leave (h : Nat) : Nat → State → State
  | 0, s => s
  | n + 1, s =>
    let q := s.queue h
    match q.frames with
    | [] => s
    | f :: rest =>
      if f.pos < f.len then s
      else match q.loops with
        | l :: _ =>
          if l.level = rest.length + 1 then s.cmdFault h 0x0103 ⟨0x31, l.level, l.beginPos, q.head⟩
          else State.leave h n (s.setQueue h (leaveFrame q rest))
        | [] => State.leave h n (s.setQueue h (leaveFrame q rest))

/-- Move the stream past the front command (R384, R431): HEAD at ring level, the word position inside a buffer. -/
def State.advance (s : State) (h : Nat) (f : Front) : State :=
  let q := s.queue h
  let s := match q.frames with
    | [] => s.setQueue h { q with head := q.head + 1, fetched := tblErase q.head.toNat q.fetched, checked := false }
    | fr :: rest => s.setQueue h { q with frames := { fr with pos := fr.pos + hLen (wordAt f.words 0) } :: rest, checked := false }
  (State.leave h 3 s).fetch h

/-- Read an indirect buffer from its position to its end, as at its entry (R417). -/
def State.loadFrame (s : State) (h k depth : Nat) (f : Frame) : State × Frame :=
  match s.segs k f.addr (4 * f.len) false askCmd with
  | (s, gs, _) =>
    if segsHost gs then
      let s := { s with pcie := { s.pcie with reads := s.pcie.reads.filter fun r =>
        match r.what with | .indirect h' d _ => !(decide (h' = h) && decide (d = depth)) | _ => true } }
      let va := f.addr + 4 * f.pos
      let ps := cutRange (s.maxRead k) (f.len + 1) va (4 * f.pos) (4 * (f.len - f.pos))
      match State.fetchPieces h k depth f.addr ps s [] [] with
      | (s, got, bad) => (s, { f with host := true, got := got, fails := bad, words := [] })
    else (s, { f with host := false, words := bytesWords f.len (s.segBytes gs) })

/-- Read the buffers of a queue again from their positions, after a decode barrier ended (R418). -/
def State.refreshFrames (s : State) (h : Nat) : State :=
  let q := s.queue h
  let r := q.frames.foldr (fun f (s, l) => match s.loadFrame h q.inst (l.length + 1) f with | (s, f) => (s, f :: l)) (s, [])
  r.1.setQueue h { r.1.queue h with frames := r.2 }

/-- Count a completed command and raise its DONE_VEC (R400). -/
def State.countDone (s : State) (h : Nat) (hdr : W) : State :=
  let q := s.queue h
  let s := s.setQueue h { q with cmdDone := q.cmdDone + 1 }
  if hIrq hdr && q.doneEn then s.msixEvent q.inst q.doneVec else s

/-- A command in flight completes (R432): it leaves the queue's commands, is counted, raises its interrupt, ends its decode
barrier. -/
def State.completeOne (s : State) (c : Cmd) : State :=
  let s := ({ s with cmds := s.cmds.filter (·.id ≠ c.id) } : State).countDone c.hwq c.hdr
  let q := s.queue c.hwq
  let s := s.setQueue c.hwq { q with waiting := if c.blocking then false else q.waiting }
  if hSync c.hdr then (s.refreshFrames c.hwq).fetch c.hwq else s

/-- The position of a command in flight. -/
def cmdPos (c : Cmd) : Pos := ⟨c.op, c.depth, c.off, c.ring⟩

/-- Write the bytes of a result at a device virtual address: the state, whether part of it went to the host, and the first
refusal. -/
def State.storeAt (s : State) (k va : Nat) (d : List Byte) : State × Bool × Option (Nat × XErr) :=
  match s.segs k va d.length true askCmd with
  | (s, gs, r) => (s.segWrite k true gs d, segsHost gs, r)

/-- What a TIMESTAMP or REPORT writes (R472, R473): the words hold the header, the relocated address, TAG and VALUE. -/
def State.resultBytes (s : State) (h : Nat) (p : Pos) (ws : List W) : List Byte :=
  if p.op = 0x40 then leBytes 8 s.ck.gtime.toNat
  else recBytes (natAt ws 3) p 0 h 0 s.ck.gtime (nat64At ws 4)

/-- A TIMESTAMP or REPORT whose earlier commands have completed writes its result and completes (R436, R472, R473). -/
def State.writeResult (s : State) (c : Cmd) (ws : List W) : State :=
  let va := nat64At ws 1
  match s.storeAt (s.queue c.hwq).inst va (s.resultBytes c.hwq (cmdPos c) ws) with
  | (s, _, some (o, x)) =>
    ({ s with cmds := s.cmds.filter (·.id ≠ c.id) } : State).accessFault c.hwq (va + o) true askCmd x (cmdPos c) 2 none
  | (s, true, none) =>
    if s.pcie.held = [] then s.completeOne c
    else { s with cmds := s.cmds.map fun (d : Cmd) => if d.id = c.id then { d with work := .hostWait } else d }
  | (s, false, none) => s.completeOne c

/-- The words of a command that waits for the earlier ones of its queue. -/
def cmdEarlier (c : Cmd) : Option (List W) := match c.work with | .earlier ws => some ws | _ => none

/-- A TIMESTAMP or REPORT of a queue goes on once it is the only command in flight (R436). -/
def State.settle (s : State) (h : Nat) : State :=
  match s.cmdsOf h with
  | [c] => match cmdEarlier c with
    | some ws => s.writeResult c ws
    | none => s
  | _ => s

/-- A command completes, and a command that waited for it goes on. -/
def State.complete (s : State) (c : Cmd) : State := (s.completeOne c).settle c.hwq

/-- The command in flight with an identifier. -/
def State.cmd (s : State) (i : Nat) : Option Cmd := s.cmds.find? (·.id = i)

/-- The record of a front command that begins: its preset is read now (R423). -/
def Front.cmd (f : Front) (id h : Nat) (q : Queue) (blocking : Bool) (w : Work) : Cmd :=
  { id := id, hwq := h, op := f.pos.op, hdr := wordAt f.words 0, ring := f.pos.ring, depth := f.pos.depth, off := f.pos.off, blocking := blocking || hSync (wordAt f.words 0),
    preset := bitsOf q.presets.toNat (4 * hSel (wordAt f.words 0)) 4, work := w }

/-- The front command begins and stays in flight: answers its identifier and the state (R384, R432). -/
def State.start (s : State) (h : Nat) (f : Front) (blocking : Bool) (w : Work) : State :=
  let c := Front.cmd f s.nextId h (s.queue h) blocking w
  (({ s with cmds := s.cmds ++ [c], nextId := s.nextId + 1 } : State)).advance h f

/-- The front command begins to read its operand from host memory; HEAD stays at it until the operand is there. -/
def State.hold (s : State) (h : Nat) (f : Front) (w : Work) : State :=
  { s with cmds := s.cmds ++ [Front.cmd f s.nextId h (s.queue h) true w], nextId := s.nextId + 1 }

/-- The front command begins and completes at once, its effects already made; if host-bound writes are held by a stall it
stays in flight until they are issued (R169, R432). -/
def State.finish (s : State) (h : Nat) (f : Front) (hostWrites : Bool) : State :=
  if hostWrites && s.pcie.held != [] then s.start h f true .hostWait
  else (s.advance h f).countDone h (wordAt f.words 0)

/-- The front command of a queue if it is opcode `op`, has been checked, and may begin now. -/
def State.ready (s : State) (h op : Nat) : Option (Queue × Front) :=
  if s.open_ h ∧ (s.queue h).checked then
    match s.front h with
    | .cmd f => if f.pos.op = op then some (s.queue h, f) else none
    | _ => none
  else none

end Sys2Proof.Machine
end

