-- ==== Sys2Proof/Machine/Operands.lean ====
section
/-! DEFINITION. Operand forms of the queue commands (10): body format (R403 check 4), address operands with their bounding
ranges (R445, R446), and the checks of R403 in order. -/

set_option Elab.async false
namespace Sys2Proof.Machine

/-! ### Multi-dimensional operands (R445) -/

/-- Counts of dimensions 1 to `n`, from words `7 + step * (k - 1)`. -/
def dimCounts (ws : List W) (step n : Nat) : List Nat := (List.range n).map fun k => bitsOf (natAt ws (7 + step * k)) 0 16

/-- Strides of dimensions 1 to `n`, the word `o` words after the count. -/
def dimStrides (ws : List W) (step o n : Nat) : List Nat := (List.range n).map fun k => natAt ws (7 + step * k + o)

/-- The extent E of R445 over the dimensions (count, stride), innermost first. -/
def extent (size0 : Nat) : List (Nat × Nat) → Nat
  | [] => size0
  | ds => ds.foldl (fun e (c, st) => (c - 1) * st + e) size0

/-- Whether an operand is nested (R445). -/
def nested (size0 : Nat) : List (Nat × Nat) → Bool
  | [] => true
  | (c, st) :: t => (decide (c ≤ 1) || decide (size0 ≤ st)) && nested ((c - 1) * st + size0) t

/-- The byte offsets of the rows of an operand in index order, the innermost dimension of rows fastest (R454). -/
def rowOffsets : List (Nat × Nat) → List Nat
  | [] => [0]
  | (c, st) :: t => (rowOffsets t).flatMap fun o => (List.range c).map fun i => o + i * st

/-- The geometry of a copy or fill: bytes of a row, (count, source stride, destination stride) of each dimension. -/
structure Geo where
  size0 : Nat
  src : List (Nat × Nat)
  dst : List (Nat × Nat)
deriving DecidableEq, Repr

/-- The geometry of a COPY from its words. -/
def copyGeo (ws : List W) : Geo :=
  let n := bitsOf (natAt ws 1) 0 2
  let c := dimCounts ws 3 n
  { size0 := natAt ws 6, src := c.zip (dimStrides ws 3 1 n), dst := c.zip (dimStrides ws 3 2 n) }

/-- The geometry of a FILL from its words. -/
def fillGeo (ws : List W) : Geo :=
  let n := bitsOf (natAt ws 1) 0 2
  let c := dimCounts ws 2 n
  { size0 := natAt ws 6, src := [], dst := c.zip (dimStrides ws 2 1 n) }

/-- Planes of a SCANOUT_FLIP format (R677). -/
def planesOf (fmt : Nat) : Nat := if fmt = 2 then 3 else 1

/-! ### Check 4 of R403: the body -/

/-- The whole value below a bound; every higher bit of the word is reserved. -/
def low (w : W) (n : Nat) : Bool := decide (w.toNat < 2 ^ n)

/-- Bits that must be zero. -/
def zeros (w : W) (m : Nat) : Bool := decide (w.toNat &&& m = 0)

/-- Count words of the dimensions: 1 to 65,535, the upper half reserved. -/
def countsOk (ws : List W) (step n : Nat) : Bool :=
  (List.range n).all fun k => low (wordAt ws (7 + step * k)) 16 && decide (1 ≤ natAt ws (7 + step * k))

/-- The opcodes of R442. -/
def opKnown (op : Nat) : Bool :=
  [0x00, 0x01, 0x10, 0x11, 0x12, 0x13, 0x20, 0x21, 0x22, 0x23, 0x30, 0x31, 0x32, 0x40, 0x41, 0x42, 0x50, 0x51, 0x80, 0x81,
   0x82, 0x83, 0x84, 0x85, 0x86].contains op

/-- The tier of R401: 0 Any, 1 Kernel, 2 Global. -/
def opTier (op : Nat) : Nat := if op < 0x80 then 0 else if op = 0x82 ∨ op = 0x83 then 2 else 1

/-- Whether the body of a command is well formed (R403 check 4, R438, R442, R447, R465, R469). `len` is its LEN, `depth`
its level. -/
def bodyOk (op depth len : Nat) (ws : List W) : Bool :=
  let w (i : Nat) : W := wordAt ws i
  let n (i : Nat) : Nat := natAt ws i
  let h := w 0
  match op with
  | 0x00 => true
  | 0x01 => len == 4 && !hSync h && !hIrq h && decide (1 ≤ n 3 ∧ n 3 ≤ 262144) && decide (depth < 2)
  | 0x10 => len == 8 && zeros (w 3) 0xFF00E020 && decide (bitsOf (n 3) 9 4 < 12) && decide (1 ≤ bitsOf (n 3) 16 8) &&
      decide (1 ≤ bitsOf (n 4) 0 16 ∧ 1 ≤ bitsOf (n 4) 16 16 ∧ 1 ≤ bitsOf (n 5) 0 16) && low (w 5) 29 &&
      decide (4 ≤ bitsOf (n 5) 16 13 ∧ bitsOf (n 5) 16 13 ≤ 4096 ∧ bitsOf (n 5) 16 13 % 4 = 0)
  | 0x11 => zeros (w 3) 0xFF00E020 && decide (bitsOf (n 3) 9 4 < 12) && decide (1 ≤ bitsOf (n 3) 16 8) &&
      decide (1 ≤ bitsOf (n 4) 0 16 ∧ 1 ≤ bitsOf (n 4) 16 16 ∧ 1 ≤ bitsOf (n 5) 0 16) && low (w 5) 29 &&
      decide (bitsOf (n 5) 16 13 ≤ 40 ∧ bitsOf (n 5) 16 13 % 4 = 0 ∧ len = 6 + bitsOf (n 5) 16 13 / 4)
  | 0x12 =>
      let d := bitsOf (n 1) 0 2
      low (w 1) 11 && decide (bitsOf (n 1) 8 3 ≤ 4) &&
      (if bitOf (n 1) 3 then len == 4 && d == 0 && zeros (w 1) 0xF0
       else len == 7 + 3 * d && decide (1 ≤ n 6) && countsOk ws 3 d)
  | 0x13 =>
      let d := bitsOf (n 1) 0 2
      low (w 1) 11 && zeros (w 1) 8 && decide (bitsOf (n 1) 8 3 ≤ 4) && len == 7 + 2 * d && decide (1 ≤ n 6) && countsOk ws 2 d
  | 0x20 => len == 3 && low (w 1) 14 && decide (1 ≤ n 2)
  | 0x21 => len == 3 && zeros (w 1) 0xFFFCC000 && decide (bitsOf (n 1) 16 2 < 3) &&
      (bitsOf (n 1) 16 2 != 1 || low (w 2) 16) && (bitsOf (n 1) 16 2 != 2 || decide (1 ≤ n 2))
  | 0x22 => len == 2 && low (w 1) 14
  | 0x23 => len == 1
  | 0x30 => len == 8 && zeros (w 1) 0xFFFFFCC8 && decide (bitsOf (n 1) 0 3 < 6) && decide (bitsOf (n 1) 8 2 < 3) &&
      (decide (bitsOf (n 1) 4 2 < 2) || (low (w 2) 14 && n 3 == 0))
  | 0x31 => len == 3 && low (w 1) 1 && decide (1 ≤ n 2) && !hPred h && decide (0 < depth)
  | 0x32 => len == 1 && !hPred h && decide (0 < depth)
  | 0x40 => len == 4 && low (w 1) 1
  | 0x41 => decide (4 ≤ len)
  | 0x42 => len == 6
  | 0x50 => len == 3 && zeros (w 1) 0xFFFFFEF8
  | 0x51 => len == 11 && zeros (w 1) 0xFFF0FEFE && decide (n 8 % 256 = 0) && (decide (planesOf (bitsOf (n 1) 16 4) = 3) || (n 4 == 0 && n 5 == 0 && n 6 == 0 && n 7 == 0))
  | 0x80 => len == 6 && zeros (w 1) 0xFFFFFCC0
  | 0x81 => len == 5 && low (w 1) 16 && decide (1 ≤ n 2 ∧ n 2 ≤ 65536)
  | 0x82 => low (w 1) 30 && decide (n 1 % 4 = 0) && len == 3 + bitsOf (n 1) 26 4
  | 0x83 => len == 4 && low (w 1) 30 && decide (n 1 % 4 = 0)
  | 0x84 => len == 5 && low (w 1) 1 && (if n 1 = 0 then n 2 == 0 && n 3 == 0 && n 4 == 0 else decide (n 2 % 4096 = 0 ∧ 1 ≤ n 4))
  | 0x85 => len == 4 && zeros (w 1) 0xFFC0C000
  | 0x86 => len == 3 && low (w 1) 6
  | _ => false

/-! ### Address operands -/

/-- Active lines of a head (V_TIMING). -/
def State.headLines (s : State) (h : Nat) : Nat := bitsOf (s.reg (0x1D1000 + 0x1000 * h + 0x108)).toNat 0 13

/-- The address operands of a command with their bounding ranges (R445, R446). -/
def State.operands (s : State) (op : Nat) (ws : List W) : List Opnd :=
  let n (i : Nat) : Nat := natAt ws i
  match op with
  | 0x01 => [⟨1, .read, 4 * n 3⟩]
  | 0x10 => [⟨1, .read, 4096 * bitsOf (n 3) 16 8⟩, ⟨6, .read, bitsOf (n 5) 16 13⟩]
  | 0x11 => [⟨1, .read, 4096 * bitsOf (n 3) 16 8⟩]
  | 0x12 => if bitOf (n 1) 3 then [⟨2, .read, 64⟩]
      else let g := copyGeo ws; [⟨2, .read, extent g.size0 g.src⟩, ⟨4, .write, extent g.size0 g.dst⟩]
  | 0x13 => let g := fillGeo ws; [⟨2, .write, extent g.size0 g.dst⟩]
  | 0x30 => match bitsOf (n 1) 4 2 with | 0 => [⟨2, .read, 4⟩] | 1 => [⟨2, .read, 8⟩] | _ => []
  | 0x40 => [⟨2, .write, 8⟩]
  | 0x41 => [⟨1, .write, 4 * (hLen (wordAt ws 0) - 3)⟩]
  | 0x42 => [⟨1, .write, 32⟩]
  | 0x51 =>
      let l := s.headLines (n 1 % 2)
      ⟨2, .scanout, n 8 * l⟩ :: (if planesOf (bitsOf (n 1) 16 4) = 3 then [⟨4, .scanout, n 9 * l⟩, ⟨6, .scanout, n 9 * l⟩] else [])
  | 0x80 => if bitOf (n 1) 8 ∧ (n 2 ≠ 0 ∨ n 3 ≠ 0) then [⟨2, .none, 32⟩] else []
  | 0x81 => [⟨3, .read, 16 * n 2⟩]
  | 0x83 => [⟨2, .write, 4 * (bitsOf (n 1) 26 4 + 1)⟩]
  | 0x84 => if n 1 = 1 then [⟨2, .none, 4096 * n 4⟩] else []
  | 0x85 => [⟨2, .read, 32 * (bitsOf (n 1) 16 6 + 1)⟩]
  | _ => []

/-- The alignment a command requires of an operand (R443, R387, R461), by opcode and operand word. -/
def opndAlign (op w : Nat) (ws : List W) : Nat :=
  match op with
  | 0x01 => 64
  | 0x10 | 0x11 => if w = 1 then 4096 else 4
  | 0x12 => if bitOf (natAt ws 1) 3 then 64 else 1
  | 0x30 => if bitsOf (natAt ws 1) 4 2 = 0 then 4 else 8
  | 0x40 => 8
  | 0x41 => 4
  | 0x42 => 32
  | 0x51 => if w = 2 then 256 else 1
  | 0x80 => 32
  | 0x81 => 16
  | 0x83 => 4
  | 0x84 => 4096
  | _ => 1

/-- On a KERNEL queue bits 63:48 of every address operand are zero (R402). -/
def rawOk (ws : List W) (l : List Opnd) : Bool := l.all fun o => decide (nat64At ws o.w < 2 ^ 48)

/-- The checks of R403 in order on the front command of a queue, without relocation when it will be skipped (R404). -/
def State.checkCmd (s : State) (q : Queue) (f : Front) (skip : Bool) : Option Nat :=
  let h := wordAt f.words 0
  let len := hLen h
  if !low h 22 ∨ len = 0 ∨ (f.pos.depth = 0 ∧ 16 < len) ∨ f.words.length < len then some 0x0103
  else if !opKnown f.pos.op then some 0x0101
  else if (q.user ∧ 0 < opTier f.pos.op) ∨ (opTier f.pos.op = 2 ∧ q.inst ≠ 0) then some 0x0102
  else
    let ws := f.words.take len
    if !bodyOk f.pos.op f.pos.depth len ws then some 0x0103
    else if !q.user ∧ !rawOk ws (s.operands f.pos.op ws) then some 0x0103
    else if skip then none
    else if q.user then s.relocFault q ws (s.operands f.pos.op ws) else none

/-- The begin checks every address operand shares (R443): alignment after relocation, and a bounding range that stays below
2^48. -/
def State.rangeFault (s : State) (q : Queue) (op : Nat) (ws : List W) : Bool :=
  (s.operands op ws).any fun o =>
    s.va q ws o % opndAlign op o.w ws != 0 || decide (2 ^ 48 < s.va q ws o + o.range)

/-- Translate the first byte of an operand at begin (R443): where it lies, or the refusal. -/
def State.firstByte (s : State) (q : Queue) (va : Nat) (write : Bool) (a : Asker) : State × Except XErr XDest :=
  s.xlate q.inst va write a

end Sys2Proof.Machine
end

