-- ==== Sys2Proof/Machine/Work.lean ====
section
/-! DEFINITION. Launches and their contexts on the clusters: residency, switches, yield requests, kills and traps
(R484 to R504, R519 to R521, R587 to R593, R627). -/

set_option Elab.async false
namespace Sys2Proof.Machine

/-- The page base of a YARD_n window. -/
def yardBase (n : Nat) : Nat := 0x80000 + 0x10000 * n

/-- Whether a context holds a slot of its cluster. -/
def ctxResident (c : Ctx) : Bool :=
  match c.st with
  | .swappedOut => false
  | _ => true

/-- The resident contexts of a cluster: launch and context. -/
def State.resident (s : State) (n : Nat) : List (Nat × Ctx) :=
  s.ctxs.filterMap fun (k, c) => if k % 16 = n ∧ ctxResident c then some (k / 16, c) else none

/-- Scratchpad granules of the resident contexts of a cluster (R588). -/
def State.spUsed (s : State) (n : Nat) : Nat := ((s.resident n).map fun x => x.2.gran).sum

/-- L1 granules of a cluster (R589); staging takes one away (R592). -/
def State.l1Grans (s : State) (n : Nat) : Nat := 12 - s.spUsed n - b2n (s.cluster n).staging

/-- The band of a launch; INTERACTIVE while its reservation is exhausted (R515). -/
def State.bandOf (s : State) (i : Nat) : Nat :=
  match tblFind i s.launches with
  | some l => (match l.res with | some r => if (s.resv r).exhaust then 1 else l.band | none => l.band)
  | none => 2

/-- The next sequence number of the model's orders of waiting and running. -/
def State.tick (s : State) : State := { s with nextId := s.nextId + 1 }

/-- The better of two candidates to run: highest band, then waiting longest (R490). -/
def State.better (s : State) (a b : Nat × Ctx) : Nat × Ctx :=
  let x := s.bandOf a.1
  let y := s.bandOf b.1
  if x < y then a else if y < x then b else if a.2.since ≤ b.2.since then a else b

/-- Whether the contexts of a launch may run: its instance is ACTIVE, or it quiesces and the context drains because the mode
is DRAIN or the launch has no save area (R317, R498). -/
def State.mayRun (s : State) (i : Nat) : Bool :=
  match tblFind i s.launches with
  | none => false
  | some l => match (s.inst l.inst).st with
    | .active => s.live l.inst
    | .quiescing => l.save == 0 || (match (s.inst l.inst).quiesce with | some q => q.drain && !q.forced | none => false)
    | _ => false

/-- Whether some context of a launch still has to stop for a yield of its whole launch (R493). -/
def State.yielding (s : State) (i : Nat) : Bool :=
  s.ctxs.any fun (k, c) => k / 16 == i && c.yieldReq && (c.st == .running || c.st == .spinning)

/-- The context the Yard picks among those that can run (R490); a held one waits for its launch (R493). -/
def State.pick (s : State) (n : Nat) : Option (Nat × Ctx) :=
  ((s.resident n).filter fun x => decide (x.2.st = .ready) && !(x.2.held && s.yielding x.1) && s.mayRun x.1).foldl (fun r x => match r with | none => some x | some y => some (s.better y x)) none

/-- The instance of a launch. -/
def State.launchInst (s : State) (i : Nat) : Nat := match tblFind i s.launches with | some l => l.inst | none => 0

/-- The context of launch `i` on cluster `n`. -/
def State.ctx (s : State) (i n : Nat) : Option Ctx := tblFind (ctxKey i n) s.ctxs

/-- Whether a context waits in the hub. -/
def State.ctxWaits (s : State) (i n : Nat) : Bool :=
  s.sync.waiters.any fun w => match w.who with | .ctx i' n' _ => i' = i && n' = n | _ => false

/-- Whether a cluster borrows (16, *Lending*): enabled, not REEFED and running a context. -/
def State.borrows (s : State) (n : Nat) (c : Cclk) : Bool := !c.gated && !(s.cluster n).reefed && (s.cluster n).run.isSome

/-- The divider a cluster runs at while `r` clusters are REEFED (R719, R730 to R733). -/
def State.divider (s : State) (r n : Nat) (c : Cclk) : Nat :=
  if s.trim.clamp then 40
  else if s.trim.lending && !s.trim.throttle && s.borrows n c then min c.base (s.trim.lendTable.getD r 40)
  else c.base

/-- Set every divider for `r` REEFED clusters. -/
def State.setDividers (s : State) (r : Nat) : State :=
  { s with ck := { s.ck with cclk := s.ck.cclk.mapIdx fun n c => { c with n := s.divider r n c } } }

/-- How many clusters are REEFED. -/
def State.reefedCount (s : State) : Nat := ((List.range 16).filter fun n => (s.cluster n).reefed).length

/-- A cluster has left REEFED (R731): the borrowers are set for the new count. RECLAIM_MAX keeps the longest reclaim, whose time within
5 µs is open. -/
def State.reclaim (s : State) : State :=
  match s.drawNat 5001 with
  | (t, s) => (s.setDividers s.reefedCount).maxReg 0x7130 t

/-- Give the cluster to a context: it runs. A switch from another context is counted (R490); the first context of an empty cluster
switches from none. A REEFED cluster leaves REEFED (R561). -/
def State.runCtx (s : State) (n i : Nat) (c : Ctx) : State :=
  let s := (s.setCtx (ctxKey i n) { c with st := .running, lastRun := s.nextId, held := false, full := if c.full = 0 then 1 else c.full }).tick
  let s := if (s.cluster n).last.isSome && (s.cluster n).last != some i then (s.count (yardBase n + 0x120)).count 0x1311C else s
  let was := (s.cluster n).reefed
  let s := s.setCluster n { s.cluster n with run := some i, last := some i, reefed := false, used := true }
  if was then s.reclaim else s

/-- The Yard switches to the context that R490 picks, or the cluster has none that can run: with a parked context resident, and no
launch or swap-in waiting for it, it becomes reefed (R561). -/
def State.switchTo (s : State) (n : Nat) : State :=
  match s.pick n with
  | some (i, c) => s.runCtx n i c
  | none =>
    let waits := s.launches.any fun (_, l) => !l.dispatched && bitOf l.mask.toNat n
    let back := s.ctxs.any fun (k, c) => k % 16 == n && c.st == .swappedOut && !s.ctxWaits (k / 16) n
    let parked := s.ctxs.any fun (k, c) => k % 16 == n && c.st == .parked
    let reef := parked && !waits && !back
    let s := if reef && !(s.cluster n).reefed then s.count (yardBase n + 0x128) else s
    s.setCluster n { s.cluster n with run := none, reefed := reef }

/-- Clusters with nothing running take a context that can run by now. -/
def State.kick (s : State) : State :=
  (List.range 16).foldl (fun s n => if (s.cluster n).run.isNone && (s.pick n).isSome then s.switchTo n else s) s

/-- Ask a context to yield (R491, R492, R317). -/
def State.askYield (s : State) (i n : Nat) (c : Ctx) : State :=
  if c.yieldReq then s else s.setCtx (ctxKey i n) { c with yieldReq := true, yieldAt := s.ck.gtime }

/-- Ask the running context of a cluster to yield if the band given is higher than its own (R491). -/
def State.requestYield (s : State) (n band : Nat) : State :=
  match (s.cluster n).run with
  | some i => match s.ctx i n with
    | some c => if band < s.bandOf i then s.askYield i n c else s
    | none => s
  | none => s

/-- A context became able to run on a cluster: it runs if nothing does, ending the reefed state (R561, R731); otherwise a
lower-band context is asked to yield (R491). -/
def State.able (s : State) (n i : Nat) : State :=
  match (s.cluster n).run with
  | none => s.switchTo n
  | some _ => s.requestYield n (s.bandOf i)

/-- The owners of a cluster's twelve granules: 0 the L1, 1 staging, 4 + s the scratchpad of slot s (GRANULE_MAP). -/
def State.granMap (s : State) (n : Nat) : List Nat := tblGet (List.replicate 12 0) n s.caches.grans

/-- Replace the owners of a cluster's granules. -/
def State.setGranMap (s : State) (n : Nat) (l : List Nat) : State :=
  { s with caches := { s.caches with grans := tblSet (List.replicate 12 0) n l s.caches.grans } }

/-- Give the lowest `k` L1 granules to an owner. -/
def takeGrans (o : Nat) : Nat → List Nat → List Nat
  | 0, l => l
  | _, [] => []
  | k + 1, g :: t => if g = 0 then o :: takeGrans o k t else g :: takeGrans o (k + 1) t

/-- A context takes a slot: its granules leave the L1, which is invalidated (R589, R659). -/
def State.takeSlot (s : State) (n slot k : Nat) : State := (s.setGranMap n (takeGrans (4 + slot) k (s.granMap n))).flushL1 n

/-- A context leaves its slot: the L1 of the cluster changes size and is invalidated (R589, R659). -/
def State.leaveSlot (s : State) (n slot : Nat) : State :=
  let s := (s.setGranMap n ((s.granMap n).map fun g => if g = 4 + slot then 0 else g)).flushL1 n
  if s.ctxs.any fun (k, c) => decide (k % 16 = n ∧ c.slot ≠ slot) && ctxResident c then s
  else s.setCluster n { s.cluster n with last := none }

/-- Remove the context of a launch from a cluster with its waits. -/
def State.dropCtx (s : State) (i n : Nat) : State :=
  match s.ctx i n with
  | none => s
  | some c =>
    let s := { s with
      ctxs := tblErase (ctxKey i n) s.ctxs
      sync := { s.sync with waiters := s.sync.waiters.filter fun w => match w.who with | .ctx i' n' _ => !(i' = i && n' = n) | _ => true } }
    let s := if ctxResident c then s.leaveSlot n c.slot else s
    if (s.cluster n).run = some i then s.switchTo n else s

/-- The clusters of a mask, ascending. -/
def maskList (m : BitVec 16) : List Nat := (List.range 16).filter fun n => bitOf m.toNat n

/-- Kill a launch on every cluster of its group (the kill phase of R519, R627): its contexts end, its work is lost, its
command leaves the queue without completing. -/
def State.killLaunch (s : State) (i : Nat) : State :=
  match tblFind i s.launches with
  | none => s
  | some l =>
    let s : State := { s with sync := { s.sync with
      fifo := s.sync.fifo.filter fun o => match o.who with | .ctx j _ _ => !(j == i && hubWaits o.kind) | _ => true } }
    let s := (maskList l.mask).foldl (fun s n => s.dropCtx i n) s
    let q := s.queue l.hwq
    let s := if q.ready = some i then s.setQueue l.hwq { q with ready := none } else s
    { s with
      launches := tblErase i s.launches
      cmds := s.cmds.filter (·.id ≠ l.cmd)
      pcie := { s.pcie with reads := s.pcie.reads.filter fun r =>
        match r.what with | .const j _ => j ≠ i | _ => true } }

/-- The position of the command of a launch. -/
def State.launchPos (s : State) (l : Launch) : Pos :=
  match s.cmd l.cmd with
  | some c => cmdPos c
  | none => ⟨0x10, 0, 0, (s.queue l.hwq).head⟩

/-- A fault of a launch: it is killed on every cluster, its queue enters FAULTED with the code, and the FCOL gets the fault
of the context (R439, R627). -/
def State.launchFault (s : State) (i code detail base : Nat) : State :=
  match tblFind i s.launches with
  | none => s
  | some l =>
    let p := s.launchPos l
    let was := decide ((s.queue l.hwq).st = .faulted)
    let s := (s.killLaunch i).enterFaulted l.hwq code p 2 0
    s.raiseAs code (codeClass code).1 (codeClass code).2 (.ctx l.inst l.hwq i) (some l.hwq) base 0xFF detail false false was

/-- Record a trap in the capture registers of YARD_n, if none stands there (R627). -/
def State.trapNote (s : State) (n v pc value detail item : Nat) : State :=
  match s.captureAt (yardBase n + 0x1104) v 31 with
  | (true, s) =>
    let s := (s.setReg (yardBase n + 0x1108) (BitVec.ofNat 32 pc)).setReg (yardBase n + 0x110C) (BitVec.ofNat 32 value)
    let s := (s.setReg (yardBase n + 0x1110) (BitVec.ofNat 32 detail)).setReg (yardBase n + 0x1114) (BitVec.ofNat 32 item)
    s.cause (yardBase n) 8
  | (false, s) => s

/-- Count and capture a trap of a Yard (TRAP_INFO, R631). -/
def State.trapCapture (s : State) (i n cause detail value pc : Nat) : State :=
  match tblFind i s.launches, s.ctx i n with
  | some l, some c =>
    (s.count (yardBase n + 0x130)).trapNote n (cause + 2 ^ 8 * c.slot + 2 ^ 10 * l.inst + 2 ^ 18 * l.hwq) pc value detail c.item
  | _, _ => s

/-- YARD_TRAP of a context (R627, R628): captured, the launch killed, the queue faulted. -/
def State.yardTrap (s : State) (i n cause detail value pc : Nat) : State :=
  (s.trapCapture i n cause detail value pc).launchFault i 0x0501 (cause + 2 ^ 8 * n + 2 ^ 32 * (detail % 2 ^ 32)) (yardBase n)

/-- An engine's device-memory fault (R608): captured in the DMMU page, the launch killed. -/
def State.engineFault (s : State) (i n va : Nat) (write : Bool) (a : Asker) (x : XErr) : State :=
  match tblFind i s.launches with
  | none => s
  | some l =>
    let s := (s.count (yardBase n + 0x130)).xFault l.inst va write a x
    s.launchFault i (xCode x) (xDetail va x) (match x with | .ecc _ => 0x1C0000 | _ => 0x1A0000)

/-- A launch completes (R450): its command completes and it leaves the table. -/
def State.launchDone (s : State) (i : Nat) : State :=
  match tblFind i s.launches with
  | none => s
  | some l =>
    let s := { s with launches := tblErase i s.launches }
    match s.cmd l.cmd with
    | some c => s.complete c
    | none => s

/-- Every launch of an instance is killed, with everything else its queues have in flight (R318, R320, R521). -/
def State.killInstLaunches (s : State) (k : Nat) : State :=
  (s.launches.filter fun (_, l) => l.inst = k).foldl (fun s (i, _) => s.killLaunch i) s

end Sys2Proof.Machine
end

