-- ==== Sys2Proof/Machine/Hub.lean ====
section
/-! DEFINITION. The Rigging hub: resolution of names, atomic operations, releases, misuse, overflow and underflow (12). -/

set_option Elab.async false
namespace Sys2Proof.Machine

/-- Whether an instance's slot holds the ordinal: the device index a SYNC_ID names in the instance's view (R444, R538). -/
def State.syncIndex (s : State) (k id : Nat) : Option Nat :=
  if 2 ^ 14 ≤ id then none
  else (s.sync.blocks.find? fun (_, o) => o == (k, id / 64)).map fun x => x.1 * 64 + id % 64

/-- The SYNC_ID of a device index in its owner's view. -/
def State.syncName (s : State) (i : Nat) : Nat :=
  match tblFind (i / 64) s.sync.blocks with
  | some (_, o) => o * 64 + i % 64
  | none => 0

/-- The instance that owns a device index. -/
def State.syncOwner (s : State) (i : Nat) : Nat :=
  match tblFind (i / 64) s.sync.blocks with
  | some (k, _) => k
  | none => 0

/-- Whether an operation fits an object (R555): barriers take arrivals and generation waits, counters the rest; a counter
wait stays within CEILING and a consuming wait above zero. -/
def opFits (o : SyncObj) (kd : HubKind) (v : Nat) : Bool :=
  match kd with
  | .arrive | .waitGen => o.type == 1
  | .add | .consume => o.type == 2
  | .waitGe => o.type == 2 && decide (v ≤ o.limit)
  | .waitGeConsume => o.type == 2 && decide (1 ≤ v ∧ v ≤ o.limit)

/-- Whether a waiter fits an object's type (R541, R555). -/
def waiterFits (o : SyncObj) (w : Waiter) : Bool :=
  opFits o (match w.kind with | .ge => .waitGe | .gen => .waitGen | .geConsume => .waitGeConsume) w.value

/-- Whether a wait is satisfied (R545, R548, R549). -/
def satisfied (o : SyncObj) (kd : WaitKind) (v : Nat) : Bool :=
  match kd with
  | .ge | .geConsume => decide (v ≤ o.value)
  | .gen => let d := (o.gen - BitVec.ofNat 16 v).toNat; decide (1 ≤ d ∧ d ≤ 32767)

/-- The DETAIL of sync faults: device index and VALUE after the operation. -/
def State.syncDetail (s : State) (i : Nat) : Nat := i + 2 ^ 16 * ((s.obj i).value % 2 ^ 32)

/-- Base of an instance's SYNC_VIEW page. -/
def svBase (k : Nat) : Nat := instWin k + 0x4000

/-- Capture a sync event (SYNC_EVENT): kind 1 underflow, 2 overflow, 3 timeout, 4 forced. -/
def State.syncEvent (s : State) (i kind : Nat) : State :=
  s.capture31 0x180138 (i + 2 ^ 16 * kind + 2 ^ 20 * s.syncOwner i)

/-- Set the result a host operation reports (SV_OP_STATUS). -/
def State.svStatus (s : State) (k id r : Nat) : State := s.setReg (svBase k + 0x120) (BitVec.ofNat 32 (r + 2 ^ 16 * (id % 2 ^ 14)))

/-- Tell the issuer of an operation its result: a host in SV_OP_STATUS, a CCC in its SYNC_STATUS. -/
def State.opResult (s : State) (who : Issuer) (id r : Nat) : State :=
  match who with
  | .host k => s.svStatus k id r
  | .ctx i n none => match s.ctx i n with
    | some c => s.setCtx (ctxKey i n) { c with syncRes := r, syncId := id }
    | none => s
  | _ => s

/-- Remove an operation's command from the commands in flight, answering where it stood. -/
def State.endCmd (s : State) (c : Nat) : Option Cmd × State := (s.cmd c, { s with cmds := s.cmds.filter (·.id ≠ c) })

/-- An operation is misuse (R555): not applied; a command faults with CMD_FORMAT, a context traps, a host operation is
refused and counted. -/
def State.misuse (s : State) (who : Issuer) (id : Nat) : State :=
  match who with
  | .queue h c => match s.endCmd c with
    | (some cm, s) => s.cmdFault h 0x0103 (cmdPos cm)
    | (none, s) => s
  | .ctx i n _ => s.yardTrap i n 10 id 0 0
  | .host k => (s.countField (svBase k + 0x124) 0 16 1).svStatus k id 3
  | .force => s

/-- A STRICT overflow or underflow against its issuer, or a CADENCE one (R551 to R554, R757). -/
def State.syncFault (s : State) (i : Nat) (under : Bool) (who : Issuer) : State :=
  let o := s.obj i
  let code := if under then 0x0301 else 0x0302
  let k := s.syncOwner i
  let s := s.setObj i (if under then { o with unders := min (o.unders + 1) 0xFFFF } else { o with overs := min (o.overs + 1) 0xFFFF })
  let s := (s.count (if under then 0x180124 else 0x180128)).syncEvent i (if under then 1 else 2)
  let s := (s.cause 0x180000 (if under then 8 else 9)).cause (svBase k) 8
  let d := s.syncDetail i
  if o.cadence then s.raiseAs code 0 .l0 (.inst k) none 0x180000 0xFF d false false false
  else match who with
    | .queue h c => match s.endCmd c with
      | (some cm, s) =>
        let was := decide ((s.queue h).st = .faulted)
        let s := s.enterFaulted h code (cmdPos cm) 2 0
        s.raiseAs code 1 .l2 (.queue k h) (some h) 0x180000 0xFF d false false was
      | (none, s) => s
    | .ctx l _ _ => s.launchFault l code d 0x180000
    | .host _ =>
      (s.countField (svBase k + 0x124) 16 16 1).raiseAs code 1 .l1 (.inst k) none 0x180000 0xFF d false false false
    | .force => s

/-- A released context becomes able to run: its L1 lines are invalidated first (R661, R560, R563). -/
def State.wakeCtx (s : State) (i n : Nat) : State :=
  match s.ctx i n, tblFind i s.launches with
  | some c, some l =>
    match c.st with
    | .parked => (((s.dropL1 n l.inst).setCtx (ctxKey i n) { c with st := .ready, since := s.nextId }).tick).able n i
    | .spinning => (s.dropL1 n l.inst).setCtx (ctxKey i n) { c with st := .running }
    | .running => s.dropL1 n l.inst
    | _ => s
  | _, _ => s

/-- A hardware trace point of an area may fire (R275, R276): which of the area's points an event fires, and what the record
carries, are open, so they are free; with every bit of the area's mask clear nothing fires. A record that finds the FIFO of 64
full is discarded. Area 0 is the Masthead, 1 the Rigging hub. -/
def State.traceArea (s : State) (area inst : Nat) : State :=
  let m := s.reg (0xB140 + 4 * area)
  if m = 0 ∨ !bitOf m.toNat (Config.freeNat s.own.freeCtr % 32) then s.bumpFree
  else if s.fw.trace.length < 64 then
    let p := 32 * area + Config.freeNat s.own.freeCtr % 32
    let r : LogRec :=
      { gtime := s.ck.gtime, seq := 0, sev := 0, trace := true, source := 4, srcIdx := 0, inst := inst, code := p,
        args := (List.range 3).map fun i => Config.freeWord (s.own.freeCtr + i), readOut := false }
    (({ s with fw := { s.fw with trace := s.fw.trace ++ [r] } } : State)).bumpFree
  else (s.count 0xB110).bumpFree

/-- Release one waiter (R550): a command completes, a context goes on. -/
def State.release (s : State) (w : Waiter) : State :=
  let s := ({ s with sync := { s.sync with waiters := s.sync.waiters.erase w } } : State).traceArea 1 (s.syncOwner w.obj)
  match w.who with
  | .queue _ c => match s.cmd c with
    | some cm => s.complete cm
    | none => s
  | .ctx i n _ => s.wakeCtx i n
  | _ => s

/-- The waiters of an object, in arrival order. -/
def State.waitersOf (s : State) (i : Nat) : List Waiter := s.sync.waiters.filter (·.obj = i)

/-- Consume for the consuming waiters in order, stopping at the first that is not satisfied: the waiters released. -/
def takeConsumers : Nat → List Waiter → List Waiter × Nat
  | v, [] => ([], v)
  | v, w :: t => if w.value ≤ v then let r := takeConsumers (v - w.value) t; (w :: r.1, r.2) else ([], v)

/-- NOTIFY of an object: the SYNC_VIEW cause and capture of its owner (R539, R586). -/
def State.notify (s : State) (i : Nat) : State :=
  let k := s.syncOwner i
  (s.capture31 (svBase k + 0x128) (s.syncName i)).cause (svBase k) 9

/-- Evaluate an object's waiters after an operation (R545, R550): the state and how many were released. -/
def State.evaluate (s : State) (i : Nat) : State × Nat :=
  let o := s.obj i
  let ws := s.waitersOf i
  if o.type = 1 then
    let r := ws.filter fun w => w.kind == .gen && satisfied o .gen w.value
    (r.foldl State.release s, r.length)
  else
    let g := ws.filter fun w => w.kind == .ge && satisfied o .ge w.value
    let c := takeConsumers o.value (ws.filter (·.kind == .geConsume))
    let s := s.setObj i { o with value := c.2 }
    let s := (g ++ c.1).foldl State.release s
    (if o.notify && (g ++ c.1) != [] then s.notify i else s, (g ++ c.1).length)

/-- The last arrival of a barrier, or RELEASE (R543, R578): COUNT zero, GEN advanced, the release broadcast. -/
def State.releaseBarrier (s : State) (i : Nat) : State × Nat :=
  let o := s.obj i
  let s := (s.setObj i { o with value := 0, gen := o.gen + 1 }).count 0x180120
  let r := s.evaluate i
  (if o.notify then r.1.notify i else r.1, r.2)

/-- An operation of a command, context or host was applied: a command completes, a host operation reports OK. -/
def State.applied (s : State) (who : Issuer) (id : Nat) : State :=
  match who with
  | .queue _ c => match s.cmd c with
    | some cm => s.complete cm
    | none => s
  | w => s.opResult w id 0

/-- The object an operation applies to, if it names a held block and fits (R538, R555). -/
def State.target (s : State) (op : HubOp) : Option Nat :=
  match s.syncIndex op.inst op.id with
  | some i => if opFits (s.obj i) op.kind op.val then some i else none
  | none => none

/-- ARRIVE at the hub (R543, R544). -/
def State.hubArrive (s : State) (op : HubOp) : State :=
  match s.target op with
  | none => s.misuse op.who op.id
  | some i =>
    let o := s.obj i
    let s := if o.value + 1 = o.limit then (s.releaseBarrier i).1 else s.setObj i { o with value := o.value + 1 }
    s.applied op.who op.id

/-- SIGNAL_ADD at the hub (R546, R551). -/
def State.hubAdd (s : State) (op : HubOp) : State :=
  match s.target op with
  | none => s.misuse op.who op.id
  | some i =>
    let o := s.obj i
    if o.limit < o.value + op.val then
      if o.cadence then
        let s := (s.setObj i { o with value := o.limit }).syncFault i false op.who
        let s := (s.evaluate i).1.applied op.who op.id
        s.opResult op.who op.id 2
      else
        let s := s.syncFault i false op.who
        s.opResult op.who op.id 2
    else (((s.setObj i { o with value := o.value + op.val }).evaluate i).1).applied op.who op.id

/-- CONSUME at the hub (R547, R551). -/
def State.hubConsume (s : State) (op : HubOp) : State :=
  match s.target op with
  | none => s.misuse op.who op.id
  | some i =>
    let o := s.obj i
    if o.value < op.val then
      if o.cadence then
        let s := (s.setObj i { o with value := 0 }).syncFault i true op.who
        let s := (s.evaluate i).1.applied op.who op.id
        s.opResult op.who op.id 1
      else
        let s := s.syncFault i true op.who
        s.opResult op.who op.id 1
    else (((s.setObj i { o with value := o.value - op.val }).evaluate i).1).applied op.who op.id

/-- A context stops running with its record replaced, and its cluster switches. -/
def State.leaveRun (s : State) (i n : Nat) (c : Ctx) : State :=
  let s := s.setCtx (ctxKey i n) c
  if (s.cluster n).run = some i then (s.switchTo n).kick else s

/-- A context starts to wait (R560, R562): it spins if it asked to and is of the CADENCE band, otherwise it parks and the
cluster switches. -/
def State.parkCtx (s : State) (i n : Nat) (spin : Bool) : State :=
  match s.ctx i n with
  | none => s
  | some c =>
    if spin ∧ s.bandOf i = 0 then s.setCtx (ctxKey i n) { c with st := .spinning }
    else
      let s := if spin then s.countField 0x180134 16 16 1 else s
      s.leaveRun i n { c with st := .parked, yieldReq := false }

/-- A wait reaches the hub (R545, R548, R549, R559): released at once if satisfied, otherwise a waiter. -/
def State.hubWait (s : State) (op : HubOp) (kd : WaitKind) : State :=
  match s.target op with
  | none => s.misuse op.who op.id
  | some i =>
    let o := s.obj i
    let earlier := kd == .geConsume && (s.waitersOf i).any (·.kind == .geConsume)
    if satisfied o kd op.val && !earlier then
      let s := if kd = .geConsume then s.setObj i { o with value := o.value - op.val } else s
      let s := if o.notify && o.type == 2 then s.notify i else s
      match op.who with
      | .ctx l n _ => s.wakeCtx l n
      | w => s.applied w op.id
    else
      let s := { s with sync := { s.sync with waiters := s.sync.waiters ++ [{ who := op.who, obj := i, kind := kd, value := op.val }] } }
      match op.who with
      | .ctx l n _ => s.parkCtx l n op.spin
      | .queue h _ => s.setQueue h { s.queue h with waiting := true }
      | _ => s

/-- Put an operation into its port FIFO (R535). -/
def State.sendOp (s : State) (op : HubOp) : State := { s with sync := { s.sync with fifo := s.sync.fifo ++ [op] } }

/-- The head of a port's FIFO. -/
def State.portHead (s : State) (p : Nat) : Option HubOp := s.sync.fifo.find? (·.port = p)

/-- The hub takes the head of a port's FIFO if it is of a kind, and applies it (R535, R536). -/
def State.hubTake (s : State) (p : Nat) (kd : HubKind) (f : State → HubOp → State) : State :=
  match s.portHead p with
  | some op => if op.kind = kd then f { s with sync := { s.sync with fifo := s.sync.fifo.erase op } } op else s
  | none => s

/-- Remove the waits on an instance's objects and its operations (R332). -/
def State.dropInstSync (s : State) (k : Nat) : State :=
  { s with sync := { s.sync with
      waiters := s.sync.waiters.filter fun w => s.syncOwner w.obj ≠ k
      fifo := s.sync.fifo.filter fun o => o.inst ≠ k } }

/-! ### The rows of the hub -/

/-- HUB_ARRIVE (R543): the arrival at the head of a port's FIFO reaches the hub. -/
def execHubArrive (port : Nat) (s : State) : Host.Outcome State Fault Refusal := .next (s.hubTake port .arrive State.hubArrive)
/-- HUB_SIGNAL_ADD (R546). -/
def execHubSignalAdd (port : Nat) (s : State) : Host.Outcome State Fault Refusal := .next (s.hubTake port .add State.hubAdd)
/-- HUB_CONSUME (R547). -/
def execHubConsume (port : Nat) (s : State) : Host.Outcome State Fault Refusal := .next (s.hubTake port .consume State.hubConsume)
/-- HUB_WAIT_GE (R548). -/
def execHubWaitGe (port : Nat) (s : State) : Host.Outcome State Fault Refusal :=
  .next (s.hubTake port .waitGe fun s op => s.hubWait op .ge)
/-- HUB_WAIT_GEN (R545). -/
def execHubWaitGen (port : Nat) (s : State) : Host.Outcome State Fault Refusal :=
  .next (s.hubTake port .waitGen fun s op => s.hubWait op .gen)
/-- HUB_WAIT_GE_CONSUME (R549). -/
def execHubWaitGeConsume (port : Nat) (s : State) : Host.Outcome State Fault Refusal :=
  .next (s.hubTake port .waitGeConsume fun s op => s.hubWait op .geConsume)

/-- WAIT_WATCHDOG_EXPIRY (R566): the age of a waiter on object `i` has reached WAIT_LIMIT; every queue and context waiting on
the object at that moment gets SYNC_TIMEOUT. The age runs only while the instance is ACTIVE (R323, R565). -/
def execWaitWatchdogExpiry (i : Nat) (s : State) : Host.Outcome State Fault Refusal :=
  let k := s.syncOwner i
  let ws := s.waitersOf i
  if ws = [] ∨ (s.inst k).st ≠ .active then .next s
  else
    let d := s.syncDetail i
    let s := ((s.count 0x18012C).syncEvent i 3).cause 0x180000 10
    let s := s.cause (svBase k) 8
    .next (ws.foldl (fun s w =>
      match w.who with
      | .queue h c => match s.endCmd c with
        | (some cm, s) =>
          let was := decide ((s.queue h).st = .faulted)
          let s := { s with sync := { s.sync with waiters := s.sync.waiters.erase w } }
          let s := s.enterFaulted h 0x0303 (cmdPos cm) 2 0
          s.raiseAs 0x0303 1 .l2 (.queue k h) (some h) 0x180000 0xFF d false false was
        | (none, s) => s
      | .ctx l _ _ => s.launchFault l 0x0303 d 0x180000
      | _ => s) s)

/-- SPIN_TO_PARK (R563): the spin of a context has lasted 200 µs and becomes a park. -/
def execSpinToPark (l n : Nat) (s : State) : Host.Outcome State Fault Refusal :=
  match s.ctx l n with
  | some c =>
    if c.st = .spinning then
      .next ((s.countField 0x180134 0 16 1).leaveRun l n { c with st := .parked, yieldReq := false })
    else .next s
  | none => .next s

end Sys2Proof.Machine
end

