-- ==== Sys2Proof/Machine/Movers.lean ====
section
/-! DEFINITION. The bulk movers: how a copy or fill is planned at its begin, how it moves bytes, how it ends, and descriptor
chains (R451 to R463, R168, R474). -/

set_option Elab.async false
namespace Sys2Proof.Machine

/-- A piece of a copy within one source page: destination address, source address, bytes. -/
abbrev Piece := Nat × Nat × Nat

/-- The pieces of a copy in forward traversal order (R454). -/
def copyPieces (src dst : Nat) (g : Geo) : List Piece :=
  ((rowOffsets g.src).zip (rowOffsets g.dst)).flatMap fun (so, d) =>
    (cutRange g.size0 (g.size0 / 4096 + 2) (src + so) 0 g.size0).map fun (o, n) => (dst + d + o, src + so + o, n)

/-- Why a copy stops at an access: code, address and DETAIL. -/
abbrev Stop := Nat × Nat × Nat

/-- The refusal of an access as a stop. -/
def stopOf (va : Nat) (x : XErr) : Stop := (xCode x, va, xDetail va x)

/-- The last poisoned unit an access meets. -/
def State.poisonLast (s : State) (pa n : Nat) : Option Nat :=
  (s.poison.filter fun u => decide (pa < 32 * u + 32 ∧ 32 * u < pa + n)).getLast?

/-- The bytes of a piece read from HBM in traversal order up to the first poisoned unit, and the stop there. -/
def State.readPiece (s : State) (rev : Bool) (p : Piece) (pa : Nat) : List (Nat × Nat × Byte) × Option Stop :=
  let byte (i : Nat) : Nat × Nat × Byte := (p.1 + i, pa + i + 1, s.memByte (pa + i))
  if rev then
    match s.poisonLast pa p.2.2 with
    | none => (((List.range p.2.2).map byte).reverse, none)
    | some u =>
      let lo := 32 * u + 32 - pa
      ((((List.range p.2.2).filter fun i => decide (lo ≤ i)).map byte).reverse, some (stopOf (p.2.1 + lo) (.ecc (32 * u))))
  else
    match s.poisonAt pa p.2.2 with
    | none => ((List.range p.2.2).map byte, none)
    | some u => ((List.range (32 * u - pa)).map byte, some (stopOf (p.2.1 + (32 * u - pa)) (.ecc (32 * u))))

/-- What a copy will write: the bytes of its HBM pieces, its host pieces (destination, bytes), the stop after them. -/
structure Plan where
  todo : List (Nat × Nat × Byte)
  rows : List (Nat × Nat)
  stop : Option Stop
deriving DecidableEq, Repr

/-- Read the source of a copy piece by piece (R643, R649); host pieces are asked for (R161), within the largest read. -/
def State.gather (k id : Nat) (rev : Bool) : List Piece → State → Plan → State × Plan
  | [], s, a => (s, a)
  | p :: t, s, a =>
    match s.xlate k p.2.1 false askBmv with
    | (s, .error x) => (s, { a with stop := some (stopOf p.2.1 x) })
    | (s, .ok (.hbm pa)) =>
      match s.readPiece rev p pa with
      | (bs, none) => State.gather k id rev t s { a with todo := a.todo ++ bs }
      | (bs, some st) => (s, { a with todo := a.todo ++ bs, stop := some st })
    | (s, .ok (.host ha)) =>
      if (s.fn k).bme then
        let cs := cutRange (s.maxRead k) (p.2.2 + 1) ha 0 p.2.2
        let s := cs.foldl (fun s (o, n) => s.issueRead k (.copy id) (ha + o) n) s
        State.gather k id rev t s { a with rows := a.rows ++ cs.map fun (o, n) => (p.1 + o, n) }
      else (s, { a with stop := some (0x0109, p.2.1, 0) })

/-- The first stop met while staging the part of the pieces that lies in the footprint (R456). -/
def State.stageStop (k lo hi : Nat) : List Piece → State → State × Option Stop
  | [], s => (s, none)
  | p :: t, s =>
    let a := max lo p.2.1
    let e := min hi (p.2.1 + p.2.2)
    if e ≤ a then State.stageStop k lo hi t s
    else
      match s.xlate k a false askBmv with
      | (s, .error x) => (s, some (stopOf a x))
      | (s, .ok (.hbm pa)) =>
        match s.poisonAt pa (e - a) with
        | some u => (s, some (stopOf a (.ecc (32 * u))))
        | none => State.stageStop k lo hi t s
      | (s, .ok (.host _)) => State.stageStop k lo hi t s

/-- How the mover handles a copy (R455). -/
inductive Handling
  | forward | reversed | staged | unsafe_
deriving DecidableEq, Repr

/-- The first row of R455 that applies. `cap` is the staging capacity. -/
def handling (src dst : Nat) (g : Geo) (anyHost : Bool) (cap : Nat) : Handling :=
  let se := src + extent g.size0 g.src
  let de := dst + extent g.size0 g.dst
  if se ≤ dst ∨ de ≤ src ∨ anyHost then .forward
  else if nested g.size0 g.src && nested g.size0 g.dst && (g.src.zip g.dst).all fun (a, b) => decide (a.1 ≤ 1) || a.2 == b.2 then
    (if src < dst then .reversed else .forward)
  else if min se de - max src dst ≤ cap then .staged else .unsafe_

/-- The format checks on a copy's size and destination (R451 checks 1 to 3). -/
def geoOk (src dst : Nat) (g : Geo) : Bool :=
  decide (g.dst.foldl (fun t (c, _) => t * c) g.size0 ≤ 2 ^ 40) && nested g.size0 g.dst &&
    decide (src + extent g.size0 g.src ≤ 2 ^ 48) && decide (dst + extent g.size0 g.dst ≤ 2 ^ 48)

/-- Bytes of a copy that have not been written yet. -/
def moverLeft (m : Mover) : Nat := m.todo.length + (m.hostRows.map (·.2)).sum

/-- The mover BMV_SEL names (R452): AUTO takes the eligible mover with the fewest bytes queued, the lowest on a tie. -/
def State.chooseMover (s : State) (sel : Nat) : Nat :=
  if sel < 4 then sel
  else
    let queued (n : Nat) : Nat := ((s.movers.filter (·.bmv = n)).map moverLeft).sum
    let ok := (List.range 4).filter fun n => bitOf (s.reg 0x16400).toNat n
    ok.foldl (fun b n => if queued n < queued b then n else b) (ok.headD 0)

/-- Count a copy that was staged or reversed (BMV_n_OVERLAP). -/
def State.countHandling (s : State) (n : Nat) (h : Handling) : State :=
  match h with
  | .staged => s.countField (0x1611C + 0x10 * n) 0 16 1
  | .reversed => s.countField (0x1611C + 0x10 * n) 16 16 1
  | _ => s

/-- Add bytes to a counter in MiB; the hidden key next to it holds the bytes short of a MiB. -/
def State.countMiB (s : State) (a n : Nat) : State :=
  let t := (tblGet (0 : W) (a + 2) s.regs).toNat + n
  let s := s.countField a 0 32 (t / 2 ^ 20)
  { s with regs := tblSet 0 (a + 2) (BitVec.ofNat 32 (t % 2 ^ 20)) s.regs }

/-- Count a COPY_OVERLAP_UNSAFE and raise its cause (R457, R483). -/
def State.countUnsafe (s : State) : State := (s.count 0x16150).cause 0x16000 8

/-- The translations of the first bytes of source and destination (R451 check 4, R443). -/
def State.firstBytes (s : State) (k : Nat) (src : Option Nat) (dst : Nat) : State × Except (Nat × Bool × XErr) (Bool × Bool) :=
  let host : XDest → Bool := fun d => match d with | .host _ => true | .hbm _ => false
  let dest (s : State) (sh : Bool) : State × Except (Nat × Bool × XErr) (Bool × Bool) :=
    match s.xlate k dst true askBmv with
    | (s, .error x) => (s, .error (dst, true, x))
    | (s, .ok d) => (s, .ok (sh, host d))
  match src with
  | none => dest s false
  | some a => match s.xlate k a false askBmv with
    | (s, .error x) => (s, .error (a, false, x))
    | (s, .ok d) => dest s (host d)

/-- The plan of a copy whose checks passed: staged copies stage their footprint first (R456). -/
def State.planCopy (s : State) (k id src dst : Nat) (g : Geo) (h : Handling) : State × Plan :=
  let ps := copyPieces src dst g
  let ps := if h = .reversed then ps.reverse else ps
  let stage : State × Option Stop :=
    if h = .staged then
      s.stageStop k (max src dst) (min (src + extent g.size0 g.src) (dst + extent g.size0 g.dst)) ps
    else (s, none)
  match stage with
  | (s, some st) => (s, { todo := [], rows := [], stop := some st })
  | (s, none) => s.gather k id (h == .reversed) ps { todo := [], rows := [], stop := none }

/-- The plan of a FILL (R463): byte `i` of each row takes byte `i mod PSIZE` of the pattern. -/
def fillPlan (dst psize pattern : Nat) (g : Geo) : Plan :=
  { todo := (rowOffsets g.dst).flatMap fun o => (List.range g.size0).map fun i =>
      (dst + o + i, 0, BitVec.ofNat 8 (pattern / 2 ^ (8 * (i % psize)))),
    rows := [], stop := none }

/-! ### Moving and ending -/

/-- The completion-record DETAIL of a copy: bytes issued and chain descriptor index (R474). -/
def moverDetail (m : Mover) : Nat := m.issued % 2 ^ 40 + 2 ^ 48 * min m.index 0xFFFF

/-- Whether a copy that ends now is INCOMPLETE: part of its host-bound bytes issued (R168, R474). -/
def moverPart (m : Mover) : Bool := m.toHost && decide (0 < m.issued) && decide (0 < moverLeft m)

/-- Remove a copy from the movers with its outstanding reads. -/
def State.dropMover (s : State) (id : Nat) : State :=
  { s with
    movers := s.movers.filter (·.id ≠ id)
    pcie := { s.pcie with reads := s.pcie.reads.filter fun r => r.what ≠ .copy id } }

/-- The command of a copy. -/
def State.moverCmd (s : State) (id : Nat) : Option Cmd :=
  s.cmds.find? fun c => match c.work with | .copy i => i = id | _ => false

/-- The copy with an identifier. -/
def State.mover (s : State) (id : Nat) : Option Mover := s.movers.find? (·.id = id)

/-- Count a copy that ended INCOMPLETE and raise the cause (R483). -/
def State.countIncomplete (s : State) (m : Mover) : State :=
  if moverPart m then (s.count 0x16154).cause 0x16000 9 else s

/-- A copy ends with a fault of its queue: kind INCOMPLETE if part of its host-bound bytes was issued (R474). -/
def State.moverFault (s : State) (m : Mover) (f : State → Pos → Nat → State) : State :=
  match s.moverCmd m.id with
  | none => s.dropMover m.id
  | some c =>
    let s := (s.dropMover m.id).countIncomplete m
    let s := { s with cmds := s.cmds.filter (·.id ≠ c.id) }
    f s (cmdPos c) (if moverPart m then 1 else 2)

/-- The cause a stop of kind DMMU_FAULT, SLOT_VIOLATION or ECC_UNCORRECTED stands for. -/
def stopErr (st : Stop) : XErr :=
  if st.1 = 0x0201 then .dmmu (bitsOf st.2.2 48 3) (bitsOf st.2.2 51 2)
  else if st.1 = 0x0202 then .slot (bitsOf st.2.2 48 3) (bitsOf st.2.2 51 2) else .ecc st.2.2

/-- A copy meets the stop that follows its last byte (R643, R161, R460). -/
def State.moverStop (s : State) (m : Mover) (st : Stop) (write : Bool) : State :=
  s.moverFault m fun s p kind =>
    if st.1 = 0x0109 then s.hostReadFault m.hwq .bmeOff p kind (some (moverDetail m))
    else if st.1 = 0x0201 ∨ st.1 = 0x0202 ∨ st.1 = 0x0205 then
      s.accessFault m.hwq st.2.1 write askBmv (stopErr st) p kind (some (moverDetail m))
    else
      let s := if st.1 = 0x0105 then (s.countField 0x12108 0 16 1).cause 0x12000 8
        else if st.1 = 0x0106 then (s.countField 0x12108 16 16 1).cause 0x12000 8 else s
      s.queueFault m.hwq st.1 p kind (moverDetail m) (moverDetail m)

/-- Cut bytes in traversal order into runs of rising consecutive addresses within a page. -/
def byteRuns : List (Nat × Nat × Byte) → List (Nat × List Byte)
  | [] => []
  | (a, _, b) :: t => match byteRuns t with
    | (a', bs) :: r => if a' = a + 1 ∧ a' % 4096 ≠ 0 ∧ bs.length < 4096 then (a, b :: bs) :: r else (a, [b]) :: (a', bs) :: r
    | [] => [(a, [b])]

/-- Write one run of a copy: the bytes written, and the stop if the destination page is refused (R643). -/
def State.putRun (s : State) (m : Mover) (va : Nat) (bs : List Byte) : State × Option Stop :=
  match s.xlate m.inst va true askBmv with
  | (s, .error x) => (s, some (stopOf va x))
  | (s, .ok (.hbm pa)) => (s.devWrite pa bs, none)
  | (s, .ok (.host a)) => (s.issueWrite m.inst a bs true (m.id + 1), none)

/-- Write the runs of a copy in order; answers how many bytes were written and the first refusal. -/
def State.putRuns (m : Mover) : List (Nat × List Byte) → State → Nat → State × Nat × Option Stop
  | [], s, n => (s, n, none)
  | (a, bs) :: t, s, n =>
    match s.putRun m a bs with
    | (s, some st) => (s, n, some st)
    | (s, none) => State.putRuns m t s (n + bs.length)

/-- Bytes the posted transmit queue still takes (R164 to R167). -/
def State.txRoom (s : State) : Option Nat :=
  match s.pcie.stall with
  | .normal => none
  | .creditWait => some (if s.pcie.held = [] then 65536 - txFill s.pcie.txq else 0)
  | .linkStall => some 0

/-- A copy writes its next `n` bytes, or as many as the transmit queue takes (R164). Its own writes are no writes of
another agent to its source (R453), so it is out of the list while it writes. -/
def State.moverMove (s : State) (m : Mover) (n : Nat) : State × Mover × Option Stop :=
  let n := if m.toHost then (match s.txRoom with | some r => min n r | none => n) else n
  let s1 := { s with movers := s.movers.filter (·.id ≠ m.id) }
  match State.putRuns m (byteRuns (m.todo.take n)) s1 0 with
  | (s2, k, st) =>
    let m := { m with todo := m.todo.drop k, issued := m.issued + k }
    ((({ s2 with movers := s2.movers ++ [m] } : State)).countMiB (0x16118 + 0x10 * m.bmv) k, m, st)

/-- A copy or fill with nothing left completes (R432). -/
def State.moverDone (s : State) (m : Mover) : State :=
  match s.moverCmd m.id with
  | some c => (s.dropMover m.id).complete c
  | none => s.dropMover m.id

/-- A copy runs on: everything it can write is written; then it meets its stop, or, where `fin` says what follows its last
byte, that happens. -/
def State.moverRun (s : State) (id : Nat) (fin : State → Mover → State) : State :=
  match s.mover id with
  | none => s
  | some m =>
    match s.moverMove m m.todo.length with
    | (s, m, some st) => s.moverStop m st true
    | (s, m, none) =>
      if m.todo ≠ [] ∨ m.hostRows ≠ [] then s
      else match m.stop with
        | some st => s.moverStop m st false
        | none => fin s m

/-- A copy moves part of its bytes: `n` of them, as it had by the moment of an event. -/
def State.moverPartly (s : State) (id n : Nat) : State :=
  match s.mover id with
  | none => s
  | some m => match s.moverMove m n with
    | (s, m, some st) => s.moverStop m st true
    | (s, _, none) => s

/-- How far each copy had come when something ended it: copy and bytes, as the event says. -/
def State.movedBy (s : State) (prog : List (Nat × Nat)) : State := prog.foldl (fun s (id, n) => s.moverPartly id n) s

/-- A copy is cut off by a kill: a free number of its remaining bytes had been moved (R318, R320, R114). -/
def State.moverCut (s : State) (id : Nat) : State :=
  match s.mover id with
  | none => s
  | some m => (s.bumpFree).moverPartly id (Config.freeNat s.own.freeCtr % (m.todo.length + 1))

/-! ### Descriptor chains -/

/-- The geometry of a chain descriptor's words. -/
def chainGeo (ws : List W) : Geo :=
  let n := bitsOf (natAt ws 0) 0 2
  let c := [bitsOf (natAt ws 8) 0 16, bitsOf (natAt ws 8) 16 16, bitsOf (natAt ws 9) 0 16].take n
  { size0 := natAt ws 1, src := c.zip ([natAt ws 10, natAt ws 12, natAt ws 14].take n),
    dst := c.zip ([natAt ws 11, natAt ws 13, natAt ws 15].take n) }

/-- The format of a chain descriptor (R460): reserved bits, size and counts. -/
def chainOk (ws : List W) : Bool :=
  let g := chainGeo ws
  zeros (wordAt ws 0) 0xFFFFFF0C && decide (bitsOf (natAt ws 9) 16 16 = 0) && decide (1 ≤ g.size0) &&
    g.dst.all fun (c, _) => decide (1 ≤ c)

/-- Whether a write made since the chain began touched 64 B at an address (R461). -/
def chainTouched (m : Mover) (pa : Nat) : Bool := m.touched.any fun (a, n) => decide (a < pa + 64 ∧ pa < a + n)

/-- The sixteen words of a descriptor; free words where the descriptor was changed since the chain began (R461). -/
def State.chainWords (s : State) (m : Mover) (pa : Nat) : State × List W :=
  if chainTouched m pa then ((s.bumpFree), (List.range 16).map fun i => BitVec.ofNat 32 (Config.freeNat (s.own.freeCtr + i)))
  else (s, bytesWords 16 (s.memBytes pa 64))

/-- A chain descriptor that does not begin faults: nothing of it moved (R460, R462). -/
def State.chainFault (s : State) (m : Mover) (st : Stop) (write : Bool) : State :=
  s.moverStop { m with issued := 0, todo := [] } st write

/-- Read, check and begin the descriptor at a device virtual address (R460 to R462). -/
def State.chainBegin (s : State) (id va : Nat) : State :=
  match s.mover id with
  | none => s
  | some m =>
    let q := s.queue m.hwq
    let m := { m with issued := 0, todo := [], hostRows := [], stop := none, staged := false, reversed := false }
    if va % 64 ≠ 0 then s.chainFault m (0x0103, va, 0) false
    else match s.xlate m.inst va false askBmv with
    | (s, .error x) => s.chainFault m (stopOf va x) false
    | (s, .ok (.host _)) => s.chainFault m (0x0103, va, 0) false
    | (s, .ok (.hbm pa)) =>
      match s.poisonAt pa 64 with
      | some u => s.chainFault m (stopOf va (.ecc (32 * u))) false
      | none =>
        match s.chainWords m pa with
        | (s, ws) =>
          let g := chainGeo ws
          let os : List Opnd := [⟨2, .read, extent g.size0 g.src⟩, ⟨4, .write, extent g.size0 g.dst⟩]
          let src := s.va q ws ⟨2, .read, extent g.size0 g.src⟩
          let dst := s.va q ws ⟨4, .write, extent g.size0 g.dst⟩
          if !chainOk ws ∨ (!q.user ∧ !rawOk ws os) then s.chainFault m (0x0103, va, 0) false
          else match (if q.user then s.relocFault q ws os else none) with
          | some c => s.chainFault m (c, va, 0) false
          | none =>
            if !geoOk src dst g then s.chainFault m (0x0103, va, 0) false
            else match s.firstBytes m.inst (some src) dst with
            | (s, .error (a, w, x)) => s.chainFault m (stopOf a x) w
            | (s, .ok (sh, dh)) =>
              if sh && dh then s.chainFault m (0x0103, va, 0) false
              else
                let hd := handling src dst g (sh || dh) 262144
                if hd = .unsafe_ then s.countUnsafe.chainFault m (0x0203, va, 0) false
                else match s.planCopy m.inst id src dst g hd with
                | (s, p) =>
                  let m := { m with
                    toHost := dh, todo := p.todo, hostRows := p.rows, stop := p.stop, next := nat64At ws 6
                    staged := hd == .staged, reversed := hd == .reversed }
                  (({ s with movers := s.movers.map fun (x : Mover) => if x.id = id then m else x } : State)).countHandling m.bmv hd

/-- A chain descriptor is done: the next one starts, or the chain ends and the COPY completes (R462). NEXT is an address
operand of the queue's class. -/
def State.chainNext (s : State) (m : Mover) : State :=
  if m.next = 0 then s.moverDone m
  else
    let q := s.queue m.hwq
    let ws : List W := [0, BitVec.ofNat 32 m.next, BitVec.ofNat 32 (m.next / 2 ^ 32)]
    let m := { m with index := m.index + 1 }
    let s := { s with movers := s.movers.map fun (x : Mover) => if x.id = m.id then m else x }
    match s.addrOf q ws ⟨1, .read, 64⟩ with
    | .error c => s.chainFault m (c, 0, 0) false
    | .ok a => if !q.user ∧ 2 ^ 48 ≤ m.next then s.chainFault m (0x0103, m.next, 0) false
      else if 2 ^ 48 < a + 64 then s.chainFault m (0x0103, a, 0) false
      else s.chainBegin m.id a

/-- BMV_DESCRIPTOR_COMPLETE (R462): every write of the current descriptor of chain `id` is accepted or issued. `err` is what
the ECC checks of the reads for the next descriptor find. -/
def execBmvDescriptorComplete (id : Nat) (err : Option (Nat × Bool)) (s : State) : Host.Outcome State Fault Refusal :=
  .next (match s.mover id with
    | some m => if m.chain then (s.eccFind err false).moverRun id State.chainNext else s
    | none => s)

/-- BMV_COPY_COMPLETE (R432): every write of a copy or fill is accepted or issued, and it completes. -/
def execBmvCopyComplete (id : Nat) (s : State) : Host.Outcome State Fault Refusal :=
  .next (match s.mover id with
    | some m => if m.chain then s else s.moverRun id State.moverDone
    | none => s)

end Sys2Proof.Machine
end

