-- ==== Sys2Proof/Machine/Commands.lean ====
section
/-! DEFINITION. The queue commands (10), but for REG_WRITE and REG_READ, and the check of the front command (R403). -/

set_option Elab.async false
namespace Sys2Proof.Machine

/-- The front command of a queue, if it is opcode `op` and may begin: its handles are relocated again (R410) and the range
checks of R443 are made; then `body` runs on its queue, its position and its words. -/
def State.begin_ (s : State) (h op : Nat) (body : State → Queue → Front → List W → State) : State :=
  match s.ready h op with
  | none => s
  | some (q, f) =>
    let ws := f.words.take (hLen (wordAt f.words 0))
    match (if q.user then s.relocFault q ws (s.operands op ws) else none) with
    | some c => s.cmdFault h c f.pos
    | none => if s.rangeFault q op ws then s.cmdFault h 0x0103 f.pos else body s q f ws

/-- The relocated address of operand number `i` of a command. -/
def State.opAddr (s : State) (q : Queue) (op : Nat) (ws : List W) (i : Nat) : Nat :=
  s.va q ws ((s.operands op ws).getD i ⟨0, .none, 0⟩)

/-- A command that has begun faults: HEAD is past it (R439). -/
def State.begunFault (s : State) (h : Nat) (f : Front) (g : State → State) : State := g (s.advance h f)

/-- Write the bytes of a blocking command and complete it (R472, R479): a refused first byte is a begin check, a later one
stops the command with its earlier bytes written (R643). -/
def State.putBytesOf (s : State) (h : Nat) (q : Queue) (f : Front) (va : Nat) (d : List Byte) : State :=
  match s.storeAt q.inst va d with
  | (s, _, some (o, x)) =>
    if o = 0 then s.accessFault h va true askCmd x f.pos 2 none
    else s.begunFault h f fun s => s.accessFault h (va + o) true askCmd x f.pos 2 none
  | (s, hst, none) => s.finish h f hst

/-! ### Operands read from memory: COND, HTAB_LOAD, SYNC_INIT -/

/-- The bytes of pieces by offset, in order. -/
def joinPieces (t : Tbl (List Byte)) : List Byte := t.flatMap (·.2)

/-- Ask for the host pieces of an operand; the HBM pieces are read at once. Answers the offsets still awaited. -/
def State.askOperand (k cmd : Nat) : List Seg → State → Tbl (List Byte) → List Nat → State × Tbl (List Byte) × List Nat
  | [], s, got, need => (s, got, need)
  | ⟨o, .hbm pa, n⟩ :: t, s, got, need => State.askOperand k cmd t s (tblPut o (s.memBytes pa n) got) need
  | ⟨o, .host a, n⟩ :: t, s, got, need =>
    let cs := cutRange (s.maxRead k) (n + 1) a o n
    State.askOperand k cmd t (cs.foldl (fun s (p, m) => s.issueRead k (.operand cmd p) (a + (p - o)) m) s) got
      (need ++ cs.map (·.1))

/-- How a command that read its operand ends: the effect, or a fault code. `sync` says the fault is a begin check. -/
def State.endOperand (s : State) (h : Nat) (f : Front) (sync : Bool) (r : Except Nat State) : State :=
  match r with
  | .ok s' => s'.finish h f false
  | .error c => if sync then s.cmdFault h c f.pos else s.begunFault h f fun s => s.cmdFault h c f.pos

/-- Read an operand and make the command's effect (R443, R643, R649, R161): at once from HBM, after the host reads where part
of it lies in host memory. -/
def State.withOperand (s : State) (h : Nat) (q : Queue) (f : Front) (ws : List W) (va n : Nat) (sync : Bool)
    (eff : State → List Byte → Except Nat State) : State :=
  match s.segs q.inst va n false askCmd with
  | (s, gs, some (o, x)) =>
    if o = 0 ∨ gs = [] then s.accessFault h va false askCmd x f.pos 2 none
    else s.begunFault h f fun s => s.accessFault h (va + o) false askCmd x f.pos 2 none
  | (s, gs, none) =>
    match s.segPoison gs with
    | some u => s.begunFault h f fun s => s.accessFault h va false askCmd (.ecc (32 * u)) f.pos 2 none
    | none =>
      if !segsHost gs then s.endOperand h f sync (eff s (s.segBytes gs))
      else if !(s.fn q.inst).bme then s.begunFault h f fun s => s.hostReadFault h .bmeOff f.pos 2 none
      else
        let id := s.nextId
        let s := if sync then s.hold h f (.operand ws [] []) else s.start h f true (.operand ws [] [])
        match s.askOperand q.inst id gs [] [] with
        | (s, got, need) =>
          { s with cmds := s.cmds.map fun (c : Cmd) => if c.id = id then { c with work := .operand ws need got } else c }

/-- The comparison of COND (R468). -/
def condHolds (func v ref mask : Nat) : Bool :=
  let a := v &&& mask
  let b := ref &&& mask
  match func with
  | 0 => a == b | 1 => a != b | 2 => decide (a < b) | 3 => decide (a ≤ b) | 4 => decide (b < a) | _ => decide (b ≤ a)

/-- The predicate after COND with a value (R468). -/
def condPred (ws : List W) (v : Nat) (p : Bool) : Bool :=
  let r := condHolds (bitsOf (natAt ws 1) 0 3) v (nat64At ws 4) (nat64At ws 6)
  match bitsOf (natAt ws 1) 8 2 with
  | 0 => r | 1 => p && r | _ => p || r

/-- COND with its value: the queue predicate changes. -/
def State.condEffect (s : State) (h : Nat) (ws : List W) (v : Nat) : State :=
  let q := s.queue h
  s.setQueue h { q with pred := condPred ws v q.pred }

/-- The entries of an HTAB_LOAD. -/
def htabEnts : Nat → List Byte → List HtabEnt
  | 0, _ => []
  | n + 1, d => { w0 := BitVec.ofNat 64 (leNat (bytesAt d 0 8)), w1 := BitVec.ofNat 64 (leNat (bytesAt d 8 8)) } :: htabEnts n (d.drop 16)

/-- The check of one entry (R407). -/
def htabOk (e : HtabEnt) : Bool :=
  let a := e.w0.toNat
  let l := e.w1.toNat
  decide (bitsOf a 60 4 = 0 ∧ bitsOf l 40 24 = 0) &&
    (!bitOf a 56 || decide (bitsOf a 0 48 % 64 = 0 ∧ 1 ≤ l ∧ bitsOf a 0 48 + l ≤ 2 ^ 48))

/-- HTAB_LOAD with its entries: all are checked before any is written (R407, R478). -/
def State.htabEffect (s : State) (k : Nat) (ws : List W) (d : List Byte) : Except Nat State :=
  let es := htabEnts (natAt ws 2) d
  if es.all htabOk then
    .ok { s with htab := (es.zipIdx.foldl (fun t (e, i) =>
      tblSet { w0 := 0, w1 := 0 } (65536 * k + natAt ws 1 + i) e t) s.htab) }
  else .error 0x0103

/-- A SYNC_INIT record: its object and whether it is well formed (R541). -/
def syncRec (d : List Byte) : SyncObj × Bool :=
  let w (i : Nat) : Nat := leNat (bytesAt d (4 * i) 4)
  let cfg := w 0
  let gen := leNat (bytesAt d 16 2)
  let ty := bitsOf cfg 0 2
  let o : SyncObj :=
    { objReset with
      type := ty, cadence := bitOf cfg 4, beacon := bitsOf cfg 8 3, notify := bitOf cfg 12, limit := w 1, value := w 2
      realign := w 3, gen := BitVec.ofNat 16 gen }
  let rsv := decide (cfg &&& 0xFFFFE8EC = 0) && (bytesAt d 18 14).all (· == 0) && decide (ty < 3)
  let fit := match ty with
    | 0 => decide (w 1 = 0 ∧ w 2 = 0 ∧ w 3 = 0 ∧ gen = 0)
    | 1 => !o.cadence && decide (o.beacon = 0 ∧ 1 ≤ w 1 ∧ w 1 ≤ 4096 ∧ w 2 < w 1 ∧ w 3 = 0)
    | _ => decide (1 ≤ w 1 ∧ w 2 ≤ w 1 ∧ w 3 ≤ w 1 ∧ gen = 0)
  (o, rsv && fit)

/-- The records of a SYNC_INIT. -/
def syncRecs : Nat → List Byte → List (SyncObj × Bool)
  | 0, _ => []
  | n + 1, d => syncRec (bytesAt d 0 32) :: syncRecs n (d.drop 32)

/-- SYNC_INIT with its records (R541, R542): all objects are written in one operation, then their waiters are evaluated. -/
def State.syncEffect (s : State) (k : Nat) (ws : List W) (d : List Byte) : Except Nat State :=
  let n := bitsOf (natAt ws 1) 16 6 + 1
  match s.syncIndex k (bitsOf (natAt ws 1) 0 14) with
  | none => .error 0x0103
  | some i =>
    let rs := syncRecs n d
    if rs.all (·.2) && (rs.zipIdx.all fun (r, j) => (s.waitersOf (i + j)).all (waiterFits r.1)) then
      let s := rs.zipIdx.foldl (fun s (r, j) => s.setObj (i + j) r.1) s
      .ok ((List.range n).foldl (fun s j => (s.evaluate (i + j)).1) s)
    else .error 0x0103

/-- The effect of a command whose operand has been read. -/
def State.operandEffect (s : State) (h op k : Nat) (ws : List W) (d : List Byte) : Except Nat State :=
  match op with
  | 0x30 => .ok (s.condEffect h ws (leNat d))
  | 0x81 => s.htabEffect k ws d
  | _ => s.syncEffect k ws d

/-- A command whose last host piece arrived makes its effect and completes, or faults (R407, R478, R541). -/
def State.operandReady (s : State) (c : Cmd) (ws : List W) (d : List Byte) : State :=
  let k := (s.queue c.hwq).inst
  let s1 := { s with cmds := s.cmds.filter (·.id ≠ c.id) }
  let f : Front := ⟨cmdPos c, ws⟩
  if c.op = 0x85 then s1.endOperand c.hwq f true (s1.operandEffect c.hwq c.op k ws d)
  else match s.operandEffect c.hwq c.op k ws d with
    | .ok s' => s'.complete c
    | .error e => s1.cmdFault c.hwq e (cmdPos c)

/-- A host piece of a command's operand arrives. -/
def State.operandData (s : State) (id off : Nat) (d : List Byte) : State :=
  match s.cmd id with
  | none => s
  | some c => match c.work with
    | .operand ws need got =>
      let need := need.erase off
      let got := tblPut off d got
      if need = [] then s.operandReady c ws (joinPieces got)
      else { s with cmds := s.cmds.map fun (e : Cmd) => if e.id = id then { e with work := .operand ws need got } else e }
    | _ => s

/-- A host read of a command's operand fails (R161). -/
def State.operandFail (s : State) (id : Nat) (r : Cpl) : State :=
  match s.cmd id with
  | none => s
  | some c =>
    let s := { s with
      cmds := s.cmds.filter (·.id ≠ id)
      pcie := { s.pcie with reads := s.pcie.reads.filter fun x => match x.what with | .operand i _ => i ≠ id | _ => true } }
    s.hostReadFault c.hwq r (cmdPos c) 2 none

/-! ### The check of the front command -/

/-- RING_DATA_RETURN (R403, R404): the command at the front of queue `h` is decoded and checked in order; a failed fetch
faults the queue (R419); a command whose predicate is false is skipped (R438). `err` is what the ECC checks of the reads of an
indirect buffer find. -/
def execRingDataReturn (h : Nat) (err : Option (Nat × Bool)) (s : State) : Host.Outcome State Fault Refusal :=
  .next (
    let s := s.eccFind err false
    if !s.open_ h || (s.queue h).checked then s
    else match s.front h with
      | .none => s.fetch h
      | .fail c p => s.hostReadFault h c p 2 none
      | .refused va x p => s.accessFault h va false askCmd x p 2 none
      | .cmd f =>
        let q := s.queue h
        let skip := hPred (wordAt f.words 0) && !q.pred
        match s.checkCmd q f skip with
        | some c => s.cmdFault h c f.pos
        | none =>
          if skip then
            let s := s.advance h f
            s.setQueue h { s.queue h with cmdDone := (s.queue h).cmdDone + 1 }
          else s.setQueue h { q with checked := true })

/-! ### Stream control -/

/-- NOP (R442): completes when it begins. -/
def execNop (h : Nat) (s : State) : Host.Outcome State Fault Refusal :=
  .next (s.begin_ h 0x00 fun s _ f _ => s.finish h f false)

/-- INDIRECT (R447, R387, R388): execution enters the buffer. `err` is what the ECC checks of its reads find. -/
def execIndirect (h : Nat) (err : Option (Nat × Bool)) (s : State) : Host.Outcome State Fault Refusal :=
  .next ((s.eccFind err false).begin_ h 0x01 fun s q f ws =>
    let va := s.opAddr q 0x01 ws 0
    match s.xlate q.inst va false askCmd with
    | (s, .error x) => s.accessFault h va false askCmd x f.pos 2 none
    | (s, .ok _) =>
      let fr : Frame := { addr := va, len := natAt ws 3, host := false, words := [], got := [], fails := [], pos := 0 }
      match s.loadFrame h q.inst (q.frames.length + 1) fr with
      | (s, fr) =>
        let q := s.queue h
        let outer := match q.frames with
          | [] => []
          | o :: r => { o with pos := o.pos + 4 } :: r
        s.setQueue h { q with frames := fr :: outer, checked := false })

/-! ### Launches -/

/-- Scratchpad granules of a launch (R591). -/
def splitGran (w : Nat) : Nat :=
  if bitOf w 8 then bitsOf w 9 4
  else match bitsOf w 6 2 with | 0 => 6 | 1 => 10 | 2 => 2 | _ => 0

/-- The cluster mask of a group (CGRP_g). -/
def State.grpMask (s : State) (g : Nat) : BitVec 16 := BitVec.ofNat 16 (s.reg (0x1F0140 + 4 * g)).toNat

/-- Whether a group is defined and among an instance's rights (R297, R300, R449). -/
def State.grpOk (s : State) (k g : Nat) : Bool := s.grpMask g != 0 && bitOf (s.inst k).rights.toNat g

/-- The begin checks of a launch's save area (R496, R497): a fault code, a refusal, or the area is fine. -/
def State.saveCheck (s : State) (k sa n : Nat) : State × Option (Except Nat XErr) :=
  if sa = 0 then (s, none)
  else if sa % 65536 ≠ 0 ∨ 2 ^ 48 < sa + 48 * 2 ^ 20 * n then (s, some (.error 0x0103))
  else match s.xlate k sa true askCmd with
    | (s, .error x) => (s, some (.ok x))
    | (s, .ok (.host _)) => (s, some (.error 0x0103))
    | (s, .ok (.hbm _)) => (s, none)

/-- The launch of a LAUNCH or LAUNCH_INLINE as it becomes ready. -/
def newLaunch (q : Queue) (h g : Nat) (m : BitVec 16) (ws : List W) (image cb save : Nat) (inline : Bool) : Launch :=
  { hwq := h, cmd := 0, inst := q.inst, image := BitVec.ofNat 64 image, imageSize := bitsOf (natAt ws 3) 16 8, grp := g
    useGrp := bitOf (natAt ws 3) 4, mask := m, gran := splitGran (natAt ws 3)
    gx := bitsOf (natAt ws 4) 0 16, gy := bitsOf (natAt ws 4) 16 16, gz := bitsOf (natAt ws 5) 0 16
    cbAddr := BitVec.ofNat 64 cb, cbLen := bitsOf (natAt ws 5) 16 13
    inlineCb := if inline then some ((ws.drop 6).take (bitsOf (natAt ws 5) 16 13 / 4)) else none
    snapshot := [], snapNeed := [], snapGot := [], header := [], band := q.band, dispatched := false, drain := false
    kidx := 0, gtime := 0, view := [], res := none, tickDisp := 0
    save := BitVec.ofNat 64 save }

/-- A launch passes its begin checks and becomes ready (R449, R497): group, image, constant buffer, save area. -/
def State.readyLaunch (s : State) (h : Nat) (q : Queue) (f : Front) (ws : List W) (inline : Bool) : State :=
  let op := if inline then 0x11 else 0x10
  let g := if bitOf (natAt ws 3) 4 then bitsOf (natAt ws 3) 0 4 else q.cgrp
  let image := s.opAddr q op ws 0
  let cb := if inline then 0 else s.opAddr q op ws 1
  let sa := (q.saveNext.getD q.saveArea).toNat
  if !s.grpOk q.inst g then s.cmdFault h 0x0102 f.pos
  else match s.xlate q.inst image false askCmd with
  | (s, .error x) => s.accessFault h image false askCmd x f.pos 2 none
  | (s, .ok (.host _)) => s.cmdFault h 0x0103 f.pos
  | (s, .ok (.hbm _)) =>
    match (if inline then (s, none) else match s.xlate q.inst cb false askCmd with
      | (s, .error x) => (s, some x)
      | (s, .ok _) => (s, none) : State × Option XErr) with
    | (s, some x) => s.accessFault h cb false askCmd x f.pos 2 none
    | (s, none) =>
      match s.saveCheck q.inst sa (maskList (s.grpMask g)).length with
      | (s, some (.error c)) => s.cmdFault h c f.pos
      | (s, some (.ok x)) => s.accessFault h sa true askCmd x f.pos 2 none
      | (s, none) =>
        let id := s.nextId
        let s := s.setLaunch id { newLaunch q h g (s.grpMask g) ws image cb sa inline with gtime := s.ck.gtime }
        { s.setQueue h { s.queue h with ready := some id, saveArea := BitVec.ofNat 64 sa, saveNext := none } with nextId := id + 1 }

/-- LAUNCH (R449): the command becomes a ready launch after its begin checks; it begins at its dispatch (R450). -/
def execLaunch (h : Nat) (s : State) : Host.Outcome State Fault Refusal :=
  .next (s.begin_ h 0x10 fun s q f ws => s.readyLaunch h q f ws false)

/-- LAUNCH_INLINE (R450): as LAUNCH, with its constants in the command. -/
def execLaunchInline (h : Nat) (s : State) : Host.Outcome State Fault Refusal :=
  .next (s.begin_ h 0x11 fun s q f ws => s.readyLaunch h q f ws true)

/-! ### COPY and FILL -/

/-- Non-blocking commands of a queue that have begun and not completed (R435). -/
def State.asyncCount (s : State) (h : Nat) : Nat := (s.cmds.filter fun c => decide (c.hwq = h) && !c.blocking).length

/-- A COPY or FILL begins on a mover with its plan. -/
def State.startMover (s : State) (h : Nat) (q : Queue) (f : Front) (ws : List W) (toHost chain : Bool) (p : Plan) (hd : Handling) : State :=
  let id := s.nextId
  let n := s.chooseMover (bitsOf (natAt ws 1) 8 3)
  let m : Mover :=
    { id := id, bmv := n, inst := q.inst, hwq := h, toHost := toHost, todo := p.todo, stop := p.stop, hostRows := p.rows
      issued := 0, chain := chain, next := 0, index := 0, staged := hd == .staged, reversed := hd == .reversed, touched := [] }
  (({ s with movers := s.movers ++ [m] } : State).countHandling n hd).start h f (!bitOf (natAt ws 1) 2) (.copy id)

/-- A copy that is not a chain begins (R451, R455). -/
def State.beginCopy (s : State) (h : Nat) (q : Queue) (f : Front) (ws : List W) : State :=
  let g := copyGeo ws
  let src := s.opAddr q 0x12 ws 0
  let dst := s.opAddr q 0x12 ws 1
  if !geoOk src dst g then s.cmdFault h 0x0103 f.pos
  else match s.firstBytes q.inst (some src) dst with
  | (s, .error (a, w, x)) => s.accessFault h a w askBmv x f.pos 2 none
  | (s, .ok (sh, dh)) =>
    if sh && dh then s.cmdFault h 0x0103 f.pos
    else
      let hd := handling src dst g (sh || dh) 262144
      if hd = .unsafe_ then s.countUnsafe.queueFault h 0x0203 f.pos 2 0 0
      else match s.planCopy q.inst s.nextId src dst g hd with
        | (s, p) => s.startMover h q f ws dh false p hd

/-- A chained copy begins: only the first descriptor's address is checked (R451, R461). -/
def State.beginChain (s : State) (h : Nat) (q : Queue) (f : Front) (ws : List W) : State :=
  let va := s.opAddr q 0x12 ws 0
  match s.xlate q.inst va false askBmv with
  | (s, .error x) => s.accessFault h va false askBmv x f.pos 2 none
  | (s, .ok (.host _)) => s.cmdFault h 0x0103 f.pos
  | (s, .ok (.hbm _)) =>
    let id := s.nextId
    (s.startMover h q f ws false true { todo := [], rows := [], stop := none } .forward).chainBegin id va

/-- COPY (R451 to R457, R460): passes its begin checks and runs on a bulk mover. A fifth non-blocking command waits (R435).
`err` is what the ECC checks of its reads find. -/
def execCopy (h : Nat) (err : Option (Nat × Bool)) (s : State) : Host.Outcome State Fault Refusal :=
  .next ((s.eccFind err false).begin_ h 0x12 fun s q f ws =>
    if bitOf (natAt ws 1) 2 ∧ !hSync (wordAt ws 0) ∧ 4 ≤ s.asyncCount h then s
    else if bitOf (natAt ws 1) 3 then s.beginChain h q f ws else s.beginCopy h q f ws)

/-- FILL (R463): writes a repeated pattern, forward. -/
def execFill (h : Nat) (s : State) : Host.Outcome State Fault Refusal :=
  .next (s.begin_ h 0x13 fun s q f ws =>
    if bitOf (natAt ws 1) 2 ∧ !hSync (wordAt ws 0) ∧ 4 ≤ s.asyncCount h then s
    else
      let g := fillGeo ws
      let dst := s.opAddr q 0x13 ws 0
      if !geoOk 0 dst g then s.cmdFault h 0x0103 f.pos
      else match s.firstBytes q.inst none dst with
      | (s, .error (a, w, x)) => s.accessFault h a w askBmv x f.pos 2 none
      | (s, .ok (_, dh)) =>
        s.startMover h q f ws dh false (fillPlan dst (2 ^ bitsOf (natAt ws 1) 4 2) (nat64At ws 4) g) .forward)

/-! ### Synchronisation -/

/-- A command that sends an operation to the hub (R464, R465): a SYNC_ID whose ordinal the instance does not hold fails at
begin (R444), and so does misuse of the object (R555). -/
def State.sendCmd (s : State) (h : Nat) (q : Queue) (f : Front) (ws : List W) (kind : HubKind) (val : Nat) (w : Work) : State :=
  let id := bitsOf (natAt ws 1) 0 14
  match s.syncIndex q.inst id with
  | none => s.cmdFault h 0x0103 f.pos
  | some i =>
    let c := s.nextId
    if !opFits (s.obj i) kind val then s.cmdFault h 0x0103 f.pos
    else (s.start h f true w).sendOp { port := 0, who := .queue h c, inst := (s.queue h).inst, kind := kind, id := id, val := val, spin := false }

/-- SIGNAL (R464): sends a SIGNAL_ADD to the hub. -/
def execSignal (h : Nat) (s : State) : Host.Outcome State Fault Refusal :=
  .next (s.begin_ h 0x20 fun s q f ws => s.sendCmd h q f ws .add (natAt ws 2) .sync)

/-- WAIT (R465): parks the queue on a sync object until released. -/
def execWait (h : Nat) (s : State) : Host.Outcome State Fault Refusal :=
  .next (s.begin_ h 0x21 fun s q f ws =>
    let kd : HubKind := match bitsOf (natAt ws 1) 16 2 with | 0 => .waitGe | 1 => .waitGen | _ => .waitGeConsume
    s.sendCmd h q f ws kd (natAt ws 2) .wait)

/-- ARRIVE (R464): sends an arrival to a barrier. -/
def execArrive (h : Nat) (s : State) : Host.Outcome State Fault Refusal :=
  .next (s.begin_ h 0x22 fun s q f ws => s.sendCmd h q f ws .arrive 1 .sync)

/-- FENCE (R467): begins once every earlier command of the queue has completed, and completes in the same cycle. -/
def execFence (h : Nat) (s : State) : Host.Outcome State Fault Refusal :=
  .next (s.begin_ h 0x23 fun s _ f _ => if s.busyQ h then s else s.finish h f false)

/-! ### Flow control -/

/-- COND (R468): compares a value and combines the result into the queue predicate. `err` is what the ECC check of the read
finds. -/
def execCond (h : Nat) (err : Option (Nat × Bool)) (s : State) : Host.Outcome State Fault Refusal :=
  .next ((s.eccFind err false).begin_ h 0x30 fun s q f ws =>
    let src := bitsOf (natAt ws 1) 4 2
    if src < 2 then
      s.withOperand h q f ws (s.opAddr q 0x30 ws 0) (if src = 0 then 4 else 8) false fun s d => .ok (s.condEffect h ws (leNat d))
    else match s.syncIndex q.inst (natAt ws 2) with
      | none => s.cmdFault h 0x0103 f.pos
      | some i => (s.condEffect h ws (if src = 2 then (s.obj i).value else (s.obj i).gen.toNat)).finish h f false)

/-- LOOP_BEGIN (R469, R471): opens a loop inside an indirect buffer; a fifth open loop is CMD_FORMAT. -/
def execLoopBegin (h : Nat) (s : State) : Host.Outcome State Fault Refusal :=
  .next (s.begin_ h 0x31 fun s q f ws =>
    if 4 ≤ q.loops.length then s.cmdFault h 0x0103 f.pos
    else
      let l : Loop :=
        { isWhile := bitOf (natAt ws 1) 0, count := natAt ws 2, done := 0, body := f.pos.off + 3, level := f.pos.depth, beginPos := f.pos.off }
      (s.setQueue h { q with loops := l :: q.loops }).finish h f false)

/-- LOOP_END (R470, R471): repeats the body, or exits; with no loop open at its own level it is CMD_FORMAT. -/
def execLoopEnd (h : Nat) (s : State) : Host.Outcome State Fault Refusal :=
  .next (s.begin_ h 0x32 fun s q f _ =>
    match q.loops with
    | [] => s.cmdFault h 0x0103 f.pos
    | l :: r =>
      if l.level ≠ f.pos.depth then s.cmdFault h 0x0103 f.pos
      else if l.done + 1 < l.count ∧ (l.isWhile → q.pred) then
        let fs := match q.frames with
          | [] => []
          | fr :: t => { fr with pos := l.body } :: t
        (s.setQueue h { q with loops := { l with done := l.done + 1 } :: r, frames := fs, checked := false }).countDone h (wordAt f.words 0)
      else (s.setQueue h { q with loops := r }).finish h f false)

/-! ### Reporting -/

/-- A TIMESTAMP or REPORT begins (R436, R472, R473): the first byte of its operand resolves; it writes at once if nothing
earlier of the queue is in flight, and waits otherwise. -/
def State.beginResult (s : State) (h : Nat) (q : Queue) (f : Front) (va : Nat) (wait : Bool) (rest : List W) : State :=
  match s.xlate q.inst va true askCmd with
  | (s, .error x) => s.accessFault h va true askCmd x f.pos 2 none
  | (s, .ok _) =>
    let ws := [wordAt f.words 0, BitVec.ofNat 32 va, BitVec.ofNat 32 (va / 2 ^ 32)] ++ rest
    if wait && s.busyQ h then
      let s := s.start h f true (.earlier ws)
      s.setQueue h { s.queue h with waiting := true }
    else s.putBytesOf h q f va (s.resultBytes h f.pos ws)

/-- TIMESTAMP (R472): writes 8 B of GTIME, at begin or after every earlier command. -/
def execTimestamp (h : Nat) (s : State) : Host.Outcome State Fault Refusal :=
  .next (s.begin_ h 0x40 fun s q f ws => s.beginResult h q f (s.opAddr q 0x40 ws 0) (bitOf (natAt ws 1) 0) [])

/-- WRITE_DATA (R472): writes its data words in order. -/
def execWriteData (h : Nat) (s : State) : Host.Outcome State Fault Refusal :=
  .next (s.begin_ h 0x41 fun s q f ws => s.putBytesOf h q f (s.opAddr q 0x41 ws 0) (wordsBytes (ws.drop 3)))

/-- REPORT (R473): waits for earlier commands and writes a 32-byte completion record. -/
def execReport (h : Nat) (s : State) : Host.Outcome State Fault Refusal :=
  .next (s.begin_ h 0x42 fun s q f ws => s.beginResult h q f (s.opAddr q 0x42 ws 0) true [wordAt ws 3, wordAt ws 4, wordAt ws 5])

/-! ### Cadence and display -/

/-- Whether an ABSOLUTE BEACON_WAIT is satisfied (R475). -/
def beaconHolds (ticks tick : W) : Bool := decide ((ticks - tick).toNat < 2 ^ 31)

/-- BEACON_WAIT (R475): waits for the next tick or a tick count. -/
def execBeaconWait (h : Nat) (s : State) : Host.Outcome State Fault Refusal :=
  .next (s.begin_ h 0x50 fun s _ f ws =>
    let b := bitsOf (natAt ws 1) 0 3
    let abs := bitOf (natAt ws 1) 8
    if abs && beaconHolds (s.beacon b).ticks (wordAt ws 2) then s.finish h f false
    else
      let s := s.start h f true (.beacon b abs (wordAt ws 2))
      s.setQueue h { s.queue h with waiting := true })

/-- Base of a HEAD page. -/
def headBase (d : Nat) : Nat := 0x1D1000 + 0x1000 * d

/-- Active pixels of a line (H_TIMING). -/
def State.hActive (s : State) (d : Nat) : Nat := bitsOf (s.reg (headBase d + 0x100)).toNat 0 13

/-- Whether a format is supported in the head's current mode (R677, R678). -/
def State.formatOk (s : State) (d : Nat) (ws : List W) : Bool :=
  let fm := bitsOf (natAt ws 1) 16 4
  let a := s.hActive d
  (s.head d).enabled && decide (fm < 3) &&
    decide ((match fm with | 0 => 4 * a | 1 => 8 * a | _ => 2 * a) ≤ natAt ws 8) &&
    (fm != 2 || decide (a % 2 = 0 ∧ natAt ws 9 % 256 = 0 ∧ a ≤ natAt ws 9))

/-- Resolve the planes of a flip: the first refusal, or whether one lies outside HBM. -/
def State.planesIn (k : Nat) : List Nat → State → State × Option (Nat × Option XErr)
  | [], s => (s, none)
  | a :: t, s => match s.xlate k a false askCmd with
    | (s, .error x) => (s, some (a, some x))
    | (s, .ok (.host _)) => (s, some (a, none))
    | (s, .ok (.hbm _)) => State.planesIn k t s

/-- The HBM pages of a flip's planes, as they translate when the head accepts it. -/
def State.planePages (k len : Nat) : List Nat → State → State × List (Nat × Nat)
  | [], s => (s, [])
  | a :: t, s => match s.segs k a len false askCmd with
    | (s, gs, _) => match State.planePages k len t s with
      | (s, l) => (s, (gs.filterMap fun g => match g.dest with
        | .hbm pa => some ((a + g.off) / 4096, pa / 4096)
        | .host _ => none) ++ l)

/-- A head accepts a flip as pending (R697): a flip still pending is replaced and counted. -/
def State.acceptFlip (s : State) (d : Nat) (fr : FrameT) : State :=
  let v := s.head d
  let s := if v.pend.isSome then s.count (headBase d + 0x144) else s
  s.setHead d { v with pend := some fr }

/-- SCANOUT_FLIP (R476): gives a head a pending flip. -/
def execScanoutFlip (h : Nat) (s : State) : Host.Outcome State Fault Refusal :=
  .next (s.begin_ h 0x51 fun s q f ws =>
    let d := natAt ws 1 % 2
    let fm := bitsOf (natAt ws 1) 16 4
    let as := (s.operands 0x51 ws).map (s.va q ws)
    if (s.head d).owner ≠ some q.inst then s.cmdFault h 0x0102 f.pos
    else if !s.formatOk d ws then s.cmdFault h 0x0103 f.pos
    else match s.planesIn q.inst as with
      | (s, some (a, some x)) => s.accessFault h a false askCmd x f.pos 2 none
      | (s, some (_, none)) => s.cmdFault h 0x0103 f.pos
      | (s, none) => match State.planePages q.inst (max (natAt ws 8) (if fm = 2 then natAt ws 9 else 0) * s.headLines d) as s with
        | (s, pg) =>
          (s.acceptFlip d
            { planes := as.map (BitVec.ofNat 64), pitch0 := natAt ws 8, pitch12 := natAt ws 9, format := fm
              crcValid := bitOf (natAt ws 1) 8, crc := wordAt ws 10, hwq := h, pages := pg }).finish h f false)

/-! ### Kernel-only commands -/

/-- SET_CONTEXT (R477): sets a queue's FAULT_REC and SAVE_AREA. -/
def execSetContext (h : Nat) (s : State) : Host.Outcome State Fault Refusal :=
  .next (s.begin_ h 0x80 fun s q f ws =>
    let fr := nat64At ws 2
    match s.hwqOf q.inst (bitsOf (natAt ws 1) 0 6) with
    | none => s.cmdFault h 0x0103 f.pos
    | some t =>
      match (if bitOf (natAt ws 1) 8 ∧ fr ≠ 0 then (match s.xlate q.inst fr true askCmd with
        | (s, .error x) => (s, some x)
        | (s, .ok _) => (s, none)) else (s, none) : State × Option XErr) with
      | (s, some x) => s.accessFault h fr true askCmd x f.pos 2 none
      | (s, none) =>
        let s := s.finish h f false
        let v := s.queue t
        let v := if bitOf (natAt ws 1) 8 then { v with faultRec := BitVec.ofNat 64 fr } else v
        s.setQueue t (if bitOf (natAt ws 1) 9 then { v with saveNext := some (BitVec.ofNat 64 (nat64At ws 4)) } else v))

/-- HTAB_LOAD (R478): checks and writes HTAB entries. `err` is what the ECC checks of its reads find. -/
def execHtabLoad (h : Nat) (err : Option (Nat × Bool)) (s : State) : Host.Outcome State Fault Refusal :=
  .next ((s.eccFind err false).begin_ h 0x81 fun s q f ws =>
    let size := if (s.inst q.inst).htab = 0 then 0 else 2 ^ (s.inst q.inst).htab
    if size < natAt ws 1 + natAt ws 2 then s.cmdFault h 0x0103 f.pos
    else s.withOperand h q f ws (s.opAddr q 0x81 ws 0) (16 * natAt ws 2) false fun s d => s.htabEffect q.inst ws d)

/-- Accesses of an instance that a completed invalidation must not leave behind (R642): its host reads of translated
operands and its writes not yet issued. -/
def State.accessing (s : State) (k : Nat) : Bool :=
  (s.pcie.reads.any fun r => decide (r.inst = k) && (match r.what with | .ring _ _ => false | _ => true)) ||
    (s.pcie.held.any fun m => decide (msgInst m = k))

/-- DMMU_INVALIDATE commands whose accesses have completed complete (R642). -/
def State.settleInval (s : State) : State :=
  (s.cmds.filter fun c => match c.work with | .inval => true | _ => false).foldl (fun s c =>
    if s.accessing (s.queue c.hwq).inst then s else (s.count 0x1A0128).complete c) s

/-- DMMU_INVALIDATE (R480, R642): removes the instance's translations in its scope and waits for the accesses that used
them. -/
def execDmmuInvalidate (h : Nat) (s : State) : Host.Outcome State Fault Refusal :=
  .next (s.begin_ h 0x84 fun s q f ws =>
    let pg := nat64At ws 2 / 4096
    let out (e : TlbEnt) : Bool := decide (e.inst = q.inst) && (decide (natAt ws 1 = 0) || decide (pg ≤ e.page ∧ e.page < pg + natAt ws 4))
    let s := { s with caches := { s.caches with tlb := s.caches.tlb.filter fun e => !out e } }
    if s.accessing q.inst then s.start h f true .inval else (s.count 0x1A0128).finish h f false)

/-- SYNC_INIT (R481, R541, R542): initialises sync objects atomically. `err` is what the ECC checks of its reads find. -/
def execSyncInit (h : Nat) (err : Option (Nat × Bool)) (s : State) : Host.Outcome State Fault Refusal :=
  .next ((s.eccFind err false).begin_ h 0x85 fun s q f ws =>
    let id := bitsOf (natAt ws 1) 0 14
    let n := bitsOf (natAt ws 1) 16 6 + 1
    if (s.syncIndex q.inst id).isNone ∨ 64 < id % 64 + n then s.cmdFault h 0x0103 f.pos
    else s.withOperand h q f ws (s.opAddr q 0x85 ws 0) (32 * n) true fun s d => s.syncEffect q.inst ws d)

/-- TIMEOUT_SET (R477, R423): sets a queue's timeout presets. -/
def execTimeoutSet (h : Nat) (s : State) : Host.Outcome State Fault Refusal :=
  .next (s.begin_ h 0x86 fun s q f ws =>
    match s.hwqOf q.inst (bitsOf (natAt ws 1) 0 6) with
    | none => s.cmdFault h 0x0103 f.pos
    | some t =>
      if (List.range 8).any fun i => decide (bitsOf (natAt ws 2) (4 * i) 4 = 15) then s.cmdFault h 0x0103 f.pos
      else
        let s := s.finish h f false
        s.setQueue t { s.queue t with presets := wordAt ws 2 })

end Sys2Proof.Machine
end

