-- ==== Sys2Proof/Machine/Events.lean ====
section
/-! DEFINITION. Events in the Briane rings (R255, R267), display timing, and the offset a Beacon works with (R506). -/

set_option Elab.async false
namespace Sys2Proof.Machine

/-- Whether the response ring of a function is full. -/
def rspFull (b : Brn) : Bool := decide (4 ≤ (b.rspProd - b.rspCons).toNat)

/-- Raise an event in the rings of a function (R255, R267): only while they are OPEN; a seventeenth held event behind a full
ring is lost. -/
def State.postEvent (s : State) (k code : Nat) (payload : List Byte) : State :=
  let b := s.ringsOf k
  if b.st ≠ .opened then s
  else if rspFull b && decide (16 ≤ b.held.length) then
    (s.setRings k { b with lostFlag := true }).setReg (instWin k + 0x2120) (s.reg (instWin k + 0x2120) ||| 4)
  else s.setRings k { b with held := b.held ++ [{ code := code, payload := payload }] }

/-- RESERVATION_CHANGED of a reservation (R516). -/
def State.resvChanged (s : State) (r reason cause ticks : Nat) : State :=
  s.postEvent (s.resv r).inst 0x8003 ([BitVec.ofNat 8 r, BitVec.ofNat 8 reason, BitVec.ofNat 8 cause, 0] ++ leBytes 4 ticks)

/-- Pixels per frame of a head's timing. -/
def State.frameDots (s : State) (d : Nat) : Nat :=
  bitsOf (s.reg (headBase d + 0x100)).toNat 16 13 * bitsOf (s.reg (headBase d + 0x108)).toNat 16 13

/-- The frame period of a head in ns (R672). -/
def State.framePeriod (s : State) (d : Nat) : Nat :=
  1000000 * s.frameDots d / bitsOf (s.reg (headBase d + 0x110)).toNat 0 22

/-- The value in effect of a register with a pending LAUNCH or FRAME write (R63, R64). -/
def State.inEffect (s : State) (a : Nat) : W := match tblFind a s.effect with | some v => v | none => s.reg a

/-- Before a LAUNCH or FRAME field changes, keep the value in effect until its latch event (R63, R64, R67). -/
def State.holdEffect (s : State) (a : Nat) : State :=
  if (tblFind a s.effect).isSome then s else { s with effect := tblPut a (s.reg a) s.effect }

/-- Pending fields of a range of addresses take effect (R66). -/
def State.latchRange (s : State) (lo n : Nat) : State :=
  { s with effect := s.effect.filter fun (a, _) => !decide (lo ≤ a ∧ a < lo + n) }

/-- The offset a Beacon works with, modulo its period (R506, R532). -/
def State.bcnOffset (s : State) (b : Nat) : Nat :=
  let v := (s.inEffect (0x20400 + 4 * b)).toNat
  let o := if bitOf v 31 then bitsOf v 0 27 else (s.beacon b).cfg.offset
  if (s.beacon b).cfg.period = 0 then o else o % (s.beacon b).cfg.period

/-- The period a head-sourced Beacon has: DIVIDER frames (R505). -/
def State.headPeriod (s : State) (c : BcnCfg) : Nat := c.div * s.framePeriod (c.src - 1)

/-- A Beacon's period lies from 2 ms to 100 ms (R505). -/
def periodOk (p : Nat) : Bool := decide (2000000 ≤ p ∧ p ≤ 100000000)

/-! ### Admission of reservations (R517) -/

/-- Clusters of a group. -/
def State.grpSize (s : State) (g : Nat) : Nat := (maskList (s.grpMask g)).length

/-- A reservation's contribution as an exact fraction: numerator and denominator. -/
def resvFrac (budget period n : Nat) : Nat × Nat := (1000 * budget, period * n)

/-- The sum of fractions. -/
def sumFrac (l : List (Nat × Nat)) : Nat × Nat := l.foldl (fun (a, b) (c, d) => (a * d + c * b, b * d)) (0, 1)

/-- The exact load of a cluster under R517 with some changed Beacon periods, group masks and one more reservation. -/
def State.clusterFrac (s : State) (n : Nat) (per : Nat → Nat) (msk : Nat → BitVec 16) (more : List Resv) : Nat × Nat :=
  sumFrac (((s.resvs.map (·.2)).filter (·.valid) ++ more).filterMap fun v =>
    if bitOf (msk v.grp).toNat n then some (resvFrac v.budget (max 1 (per v.bcn)) (max 1 (maskList (msk v.grp)).length)) else none)

/-- The period of a Beacon's latest accepted configuration. -/
def State.bcnPeriod (s : State) (b : Nat) : Nat := match (s.beacon b).pend with | some c => c.period | none => (s.beacon b).cfg.period

/-- R517: every cluster's load is at most 0.9. -/
def State.admits (s : State) (per : Nat → Nat) (msk : Nat → BitVec 16) (more : List Resv) : Bool :=
  (List.range 16).all fun n => let f := s.clusterFrac n per msk more; decide (10 * f.1 ≤ 9 * f.2)

/-- The load of the most loaded cluster of a set in per mille, rounded up. -/
def State.utilMax (s : State) (m : BitVec 16) : Nat :=
  (maskList m).foldl (fun a n => let f := s.clusterFrac n s.bcnPeriod s.grpMask []; max a ((1000 * f.1 + f.2 - 1) / f.2)) 0

/-- Free a reservation: its queues are unbound, its dispatched launches go on in the INTERACTIVE band (R527). -/
def State.freeResv (s : State) (r : Nat) : State :=
  let s := s.setResv r resvReset
  { s with
    queues := s.queues.map fun (h, q) => (h, if q.res = some r then { q with res := none } else q)
    launches := s.launches.map fun (i, l) => (i, if l.res = some r then { l with res := none, band := 1 } else l) }

/-- Release reservations of a Beacon, highest index first, until R517 holds (R518). -/
def State.shedResvs (s : State) (b : Nat) : Nat → State
  | 0 => s
  | f + 1 =>
    if s.admits s.bcnPeriod s.grpMask [] then s
    else match (s.resvs.filter fun (_, v) => v.valid && v.bcn == b).getLast? with
      | some (r, _) => ((s.resvChanged r 2 0 (s.beacon b).ticks.toNat).freeResv r).shedResvs b f
      | none => s

end Sys2Proof.Machine
end

