-- ==== Sys2Proof/Machine/Sched.lean ====
section
/-! DEFINITION. Dispatch, time slices, swapping, yields and forced saves, Beacons, reservations and command timeouts (11). -/

set_option Elab.async false
namespace Sys2Proof.Machine

/-! ### Stopping and ending contexts -/

/-- No descriptor of a context waits or runs on a port. -/
def portsIdle (c : Ctx) : Bool := c.ports.all fun p => p.fifo == [] && p.next.isNone && p.run.isNone

/-- No engine runs a descriptor of a context. -/
def enginesIdle (c : Ctx) : Bool := c.ports.all fun p => p.run.isNone

/-- The record of the longest time from a yield request to its stop, in us (YIELD_GAP_MAX). -/
def State.yieldGap (s : State) (c : Ctx) : State := s.maxReg 0x1511C ((s.ck.gtime - c.yieldAt).toNat / 1000)

/-- A launch whose contexts have all ended after its timeout faults its queue (R519 step 4). -/
def State.drained (s : State) (i : Nat) : State :=
  match tblFind i s.launches with
  | none => s
  | some l =>
    if l.drain && !(s.ctxs.any fun (k, _) => k / 16 == i) then
      let p := s.launchPos l
      (s.killLaunch i).queueFault l.hwq 0x0104 p 2 0 (cmdDetail p)
    else s

/-- The context of a launch on a cluster ends (R600, R519). -/
def State.endCtx (s : State) (i n : Nat) : State := (((s.dropCtx i n).drained i)).kick

/-- A context stops in its slot (R502, R503): ready, its request met. -/
def State.stopCtx (s : State) (i n : Nat) (c : Ctx) : State :=
  ((s.yieldGap c).tick).leaveRun i n
    { c with st := .ready, since := s.nextId, yieldReq := false, atYield := false, forced := false }

/-- A context that was asked to yield stops, if it has come to the point where it can: at a yield point with every descriptor
complete (R625), or in a forced save with every engine finished (R503). In the drain of a timeout it ends instead (R519). -/
def State.tryStop (s : State) (i n : Nat) : State :=
  match s.ctx i n, tblFind i s.launches with
  | some c, some l =>
    if c.forced && enginesIdle c then s.stopCtx i n c
    else if c.atYield && c.yieldReq && portsIdle c then
      let s := s.count (yardBase n + 0x124)
      if l.drain then (s.yieldGap c).endCtx i n else s.stopCtx i n c
    else s
  | _, _ => s

/-! ### Dispatch -/

/-- The group a launch that is ready would take (R449, R522). -/
def State.readyGroup (s : State) (l : Launch) : Nat := if l.useGrp then l.grp else (s.queue l.hwq).cgrp

/-- The band and the reservation a ready launch would take (R486). -/
def State.effBand (s : State) (l : Launch) : Nat × Option Nat :=
  let q := s.queue l.hwq
  if q.band ≠ 0 then (q.band, none)
  else match q.res with
    | none => (1, none)
    | some r => if (s.resv r).grp = s.readyGroup l ∧ !(s.resv r).exhaust then (0, some r) else (1, none)

/-- The front command of a queue, whatever holds it. -/
def State.frontCmd (s : State) (h : Nat) : Option Front := match s.front h with | .cmd f => some f | _ => none

/-- Whether a launch is ready (11, *Bands and dispatch*): not dispatched, its queue RUNNING, its instance ACTIVE, and fewer
than four non-blocking commands of its queue in flight (R435). -/
def State.isReady (s : State) (l : Launch) : Bool :=
  !l.dispatched && decide ((s.queue l.hwq).st = .running) && s.live l.inst &&
    (decide (s.asyncCount l.hwq < 4) || (match s.frontCmd l.hwq with | some f => hSync (wordAt f.words 0) | none => false))

/-- Whether a slot of a cluster is free for a launch (R489, R588). -/
def State.fits (s : State) (n gran : Nat) : Bool := decide ((s.resident n).length < 4) && decide (s.spUsed n + gran ≤ 11)

/-- The clusters a ready launch needs. -/
def State.readyMask (s : State) (l : Launch) : BitVec 16 := s.grpMask (s.readyGroup l)

/-- Whether a launch of a higher band is ready and waits for a cluster that the group shares (R487). -/
def State.outranked (s : State) (l : Launch) : Bool :=
  s.launches.any fun (_, m) => s.isReady m && decide ((s.effBand m).1 < (s.effBand l).1) && decide (s.readyMask m &&& s.readyMask l ≠ 0)

/-- Whether a ready launch could be dispatched now (R487, R489, R280). -/
def State.canDispatch (s : State) (l : Launch) : Bool :=
  s.isReady l && !s.outranked l && !s.fw.swapping && !s.pw.safe && !s.pw.removing && (!s.fw.paused || decide ((s.effBand l).1 = 0)) &&
    (maskList (s.readyMask l)).all fun n => s.fits n l.gran

/-- The place of a queue in the round of its band (R488). -/
def State.turn (s : State) (band h : Nat) : Nat := (h + 1024 - s.rr.getD band 0) % 1024

/-- Whether a launch is the next of its band in round-robin order among those that can be dispatched (R488). -/
def State.nextInRound (s : State) (l : Launch) : Bool :=
  let b := (s.effBand l).1
  s.launches.all fun (_, m) => !(s.canDispatch m && decide ((s.effBand m).1 = b)) || decide (s.turn b l.hwq ≤ s.turn b m.hwq)

/-- The lowest free slot of a cluster. -/
def State.freeSlot (s : State) (n : Nat) : Nat :=
  ((List.range 4).find? fun k => (s.resident n).all fun x => x.2.slot != k).getD 0

/-- The lowest in-flight index that no other launch of the queue holds (R496). -/
def State.freeIdx (s : State) (h : Nat) : Nat :=
  ((List.range 4).find? fun k => s.launches.all fun (_, m) => !(m.dispatched && m.hwq == h && m.kidx == k)).getD 0

/-- An empty port. -/
def portReset_ : Port := { stage := List.replicate 16 0, fifo := [], next := none, run := none, chain := false, doneCount := 0 }

/-- A context as a dispatch places it (R489, R587, R593, R605): ready, nothing run, counters and scratchpad zero. -/
def newCtx (slot gran since item : Nat) : Ctx :=
  { st := .ready, slot := slot, gran := gran, item := item, ports := List.replicate 6 portReset_, levs := List.replicate 8 0, sp := [],
    sram := [], xregs := List.replicate 32 0, pc := 0, cycle := 0, instret := 0, yieldReq := false, yieldAt := 0, atYield := false,
    syncRes := 0, syncId := 0, lastRun := 0, since := since, held := false, entered := false, forced := false, full := 0, stall := none,
    ret := 0, resv := none, opLow := 0, waitLow := 0, timeHigh := 0 }

/-- The context of a launch takes a slot on each cluster of its group in one cycle, and LAUNCH fields of the Yards and of the group take
effect (R489, R63, R333). -/
def State.placeCtxs (s : State) (i gran : Nat) (m : BitVec 16) : State :=
  let s := (maskList m).zipIdx.foldl (fun s (n, p) =>
    let k := s.freeSlot n
    ((((s.takeSlot n k gran).setCtx (ctxKey i n) (newCtx k gran s.nextId p)).latchRange (yardBase n) 0x10000)).tick) s
  let s := match tblFind i s.launches with | some l => s.latchRange (0x1F0600 + 4 * s.readyGroup l) 1 | none => s
  (maskList m).foldl (fun s n => s.able n i) s

/-- Ordinals an instance holds (R597). -/
def State.ordinals (s : State) (k : Nat) : List Nat := s.sync.blocks.filterMap fun (_, o) => if o.1 = k then some o.2 else none

/-- A launch that has begun ends with a fault of its command: its work is lost and the queue faults (R439). -/
def State.launchCut (s : State) (i : Nat) (f : State → Nat → Pos → State) : State :=
  match tblFind i s.launches with
  | none => s
  | some l => let p := s.launchPos l; f (s.killLaunch i) l.hwq p

/-- Ask for the host pieces of a constant buffer; HBM pieces are read at once (R413). -/
def State.askConst (i k : Nat) : List Seg → State → Tbl (List Byte) → List Nat → State × Tbl (List Byte) × List Nat
  | [], s, got, need => (s, got, need)
  | ⟨o, .hbm pa, n⟩ :: t, s, got, need => State.askConst i k t s (tblPut o (s.memBytes pa n) got) need
  | ⟨o, .host a, n⟩ :: t, s, got, need =>
    let cs := cutRange (s.maxRead k) (n + 1) a o n
    State.askConst i k t (cs.foldl (fun s (p, m) => s.issueRead k (.const i p) (a + (p - o)) m) s) got (need ++ cs.map (·.1))

/-- The snapshot of a launch is complete once no piece is awaited (R413). -/
def State.snapDone (s : State) (i : Nat) : State :=
  match tblFind i s.launches with
  | some l => if l.snapNeed = [] ∧ l.inlineCb.isNone then s.setLaunch i { l with snapshot := bytesWords (l.cbLen / 4) (joinPieces l.snapGot), snapGot := [] } else s
  | none => s

/-- A host piece of a constant buffer arrives. -/
def State.constData (s : State) (i off : Nat) (d : List Byte) : State :=
  match tblFind i s.launches with
  | some l => (s.setLaunch i { l with snapNeed := l.snapNeed.erase off, snapGot := tblPut off d l.snapGot }).snapDone i
  | none => s

/-- A host read of a constant buffer fails (R161). -/
def State.constFail (s : State) (i : Nat) (c : Cpl) : State := s.launchCut i fun s h p => s.hostReadFault h c p 2 none

/-- Take the snapshot of a launch that has just been dispatched (R413, R450). -/
def State.takeSnapshot (s : State) (i : Nat) (l : Launch) : State :=
  match l.inlineCb with
  | some ws => s.setLaunch i { l with snapshot := ws }
  | none =>
    match s.segs l.inst l.cbAddr.toNat l.cbLen false askCmd with
    | (s, _, some (o, x)) => s.launchCut i fun s h p => s.accessFault h (l.cbAddr.toNat + o) false askCmd x p 2 none
    | (s, gs, none) => match s.segPoison gs with
      | some u => s.launchCut i fun s h p => s.accessFault h l.cbAddr.toNat false askCmd (.ecc (32 * u)) p 2 none
      | none =>
        if segsHost gs && !(s.fn l.inst).bme then s.constFail i .bmeOff
        else match State.askConst i l.inst gs s [] [] with
          | (s, got, need) => (s.setLaunch i { l with snapNeed := need, snapGot := got }).snapDone i

/-- A ready launch is withdrawn: its command has not begun and stays in the stream. -/
def State.withdraw (s : State) (i : Nat) : State :=
  match tblFind i s.launches with
  | none => s
  | some l => if l.dispatched then s else { s.setQueue l.hwq { s.queue l.hwq with ready := none } with launches := tblErase i s.launches }

/-- LAUNCH_DISPATCH (R484 to R491, R450): the Masthead dispatches ready launch `i` to every cluster of its group. `err` is what
the ECC checks of the constant buffer's reads find. -/
def execLaunchDispatch (i : Nat) (err : Option (Nat × Bool)) (s : State) : Host.Outcome State Fault Refusal :=
  .next (match tblFind i s.launches with
    | none => s
    | some l =>
      if !s.canDispatch l || !s.nextInRound l then s
      else match s.frontCmd l.hwq with
        | none => s
        | some f =>
          let s := s.eccFind err false
          let g := s.readyGroup l
          if !s.grpOk l.inst g then (s.withdraw i).cmdFault l.hwq 0x0102 f.pos
          else
            let eb := s.effBand l
            let q := s.queue l.hwq
            let m := s.grpMask g
            let id := s.nextId
            let s := s.count 0x13114
            let s := if eb.1 = 0 then s.maxReg 0x13118 (s.ck.gtime - l.gtime).toNat else s
            let s := if q.band = 0 ∧ eb.1 ≠ 0 then s.count 0x13128 else s
            let s := { s with rr := s.rr.set eb.1 (l.hwq + 1) }
            let l := { l with
              cmd := id, grp := g, mask := m, band := eb.1, res := eb.2, dispatched := true, kidx := s.freeIdx l.hwq
              gtime := s.ck.gtime, view := s.ordinals l.inst
              tickDisp := match eb.2 with | some r => (s.beacon (s.resv r).bcn).ticks | none => 0 }
            let s := (s.setQueue l.hwq { q with ready := none }).setLaunch i l
            let s := s.start l.hwq f false (.launch i)
            let s := s.traceArea 0 l.inst
            (s.placeCtxs i l.gran m).takeSnapshot i l)

/-- LAUNCH_COMPLETE (R450, R432): every Yard of the group has ended launch `i` and its sync operations are applied; its command completes. -/
def execLaunchComplete (i : Nat) (s : State) : Host.Outcome State Fault Refusal :=
  .next (match tblFind i s.launches with
    | some l => if l.dispatched && !(s.ctxs.any fun (k, _) => k / 16 == i) && !(s.sync.fifo.any fun o => match o.who with | .ctx j _ _ => j == i | _ => false) then s.launchDone i else s
    | none => s)

/-! ### Time slices -/

/-- Whether same-band work needs a cluster of a launch (R492). -/
def State.sliceWanted (s : State) (i : Nat) (l : Launch) : Bool :=
  (s.launches.any fun (_, m) => s.isReady m && decide ((s.effBand m).1 = s.bandOf i) && decide (s.readyMask m &&& l.mask ≠ 0)) ||
    (s.ctxs.any fun (k, c) => k / 16 != i && c.st == .ready && s.bandOf (k / 16) == s.bandOf i && bitOf l.mask.toNat (k % 16))

/-- SLICE_EXPIRY (R492, R493): the slice of launch `i` has passed; if same-band work needs its clusters every context of it is
asked to yield, and those that stop early wait for the whole launch. -/
def execSliceExpiry (i : Nat) (s : State) : Host.Outcome State Fault Refusal :=
  .next (match tblFind i s.launches with
    | none => s
    | some l =>
      if !(s.ctxs.any fun (k, c) => k / 16 == i && (c.st == .running || c.st == .spinning)) then s
      else
        let want := s.sliceWanted i l
        (maskList l.mask).foldl (fun s n => match s.ctx i n with
          | none => s
          | some c =>
            let c := { c with full := min 2 (c.full + 1), held := want || c.held }
            let s := s.setCtx (ctxKey i n) c
            if want && (c.st == .running || c.st == .spinning) then s.askYield i n c else s) s)

/-! ### Swapping (R494 to R498, R590) -/

/-- Where the image of a launch's context on a cluster lies (R496). -/
def imageBase (l : Launch) (n : Nat) : Nat :=
  l.save.toNat + 0xC00000 * (4 * ((maskList l.mask).filter (· < n)).length + l.kidx)

/-- Bytes of a context's image: the state and the scratchpad granules (R590). -/
def imageLen (c : Ctx) : Nat := 0x100000 + 0x100000 * c.gran

/-- The asker of a save area's pages. -/
def askSave (n : Nat) : Asker := ⟨2, n⟩

/-- Check the pages of a context's image before it moves (R497): a refused page faults the launch, a host page traps. Answers
the runs of the image when all is well. -/
def State.imageSegs (s : State) (i n : Nat) (l : Launch) (c : Ctx) (write : Bool) : State × Option (List Seg) :=
  match s.segs l.inst (imageBase l n) (imageLen c) write (askSave n) with
  | (s, _, some (o, x)) => (s.engineFault i n (imageBase l n + o) write (askSave n) x, none)
  | (s, gs, none) => if segsHost gs then (s.yardTrap i n 13 0 0 0, none) else (s, some gs)

/-- Whether a context may be a victim for a launch of a band (R494, R498). -/
def State.victim (s : State) (band : Nat) (x : Nat × Ctx) : Bool :=
  (match tblFind x.1 s.launches with | some l => l.save != 0 | none => false) && (x.2.st == .ready || x.2.st == .parked) &&
    enginesIdle x.2 && (decide (band < s.bandOf x.1) || (s.bandOf x.1 == band && x.2.full == 2))

/-- The victim R494 takes: lowest band first, then the one that ran least recently. -/
def State.pickVictim (s : State) (n band : Nat) : Option (Nat × Ctx) :=
  ((s.resident n).filter (s.victim band)).foldl (fun r x => match r with
    | none => some x
    | some y =>
      if s.bandOf y.1 < s.bandOf x.1 then some x
      else if s.bandOf x.1 < s.bandOf y.1 then some y
      else if x.2.lastRun < y.2.lastRun then some x else some y) none

/-- A context begins to leave its slot for its save area. -/
def State.swapOut (s : State) (i n : Nat) (c : Ctx) : State :=
  match tblFind i s.launches with
  | none => s
  | some l => match s.imageSegs i n l c true with
    | (s, none) => s
    | (s, some _) => (s.count 0x13120).setCtx (ctxKey i n) { c with st := .swappingOut }

/-- SWAP_OUT_START (R494): ready launch `i` finds cluster `n` full and its victim begins to swap out. A quiesce in PREEMPT mode
swaps out the saved contexts of the instance in the same way (R317): then `i` is the launch of the context itself. -/
def execSwapOutStart (i n : Nat) (s : State) : Host.Outcome State Fault Refusal :=
  .next (match tblFind i s.launches with
    | none => s
    | some l =>
      if l.dispatched then
        match s.ctx i n with
        | some c => if (s.inst l.inst).st = .quiescing ∧ !s.mayRun i ∧ (c.st = .ready ∨ c.st = .parked) ∧ enginesIdle c then s.swapOut i n c else s
        | none => s
      else if s.isReady l && bitOf (s.readyMask l).toNat n && !s.fits n l.gran && !((s.resident n).any fun x => x.2.st == .swappingOut) then
        match s.pickVictim n (s.effBand l).1 with
        | some (j, c) => s.swapOut j n c
        | none => s
      else s)

/-- The bytes of a context's image: a state part private to Fausk, whose bytes are free, and the scratchpad byte for byte. -/
def State.imageBytes (s : State) (c : Ctx) : List Byte :=
  (List.range 0x100000).map (Config.freeByte s.own.freeCtr) ++ (List.range (0x100000 * c.gran)).map fun a => tblGet 0 a c.sp

/-- SWAP_OUT_COMPLETE (R494, R590): the image of launch `i`'s context on cluster `n` is written and its slot is free. -/
def execSwapOutComplete (i n : Nat) (s : State) : Host.Outcome State Fault Refusal :=
  .next (match s.ctx i n, tblFind i s.launches with
    | some c, some l =>
      if c.st ≠ .swappingOut then s
      else match s.imageSegs i n l c true with
        | (s, none) => s
        | (s, some gs) =>
          let s := (s.segWrite l.inst false gs (s.imageBytes c)).bumpFree
          ((s.setCtx (ctxKey i n) { c with st := .swappedOut }).leaveSlot n c.slot).kick
    | _, _ => s)

/-- Whether a ready launch of a higher band waits for a cluster (R495). -/
def State.bandWaits (s : State) (n band : Nat) : Bool :=
  s.launches.any fun (_, m) => s.isReady m && decide ((s.effBand m).1 < band) && bitOf (s.readyMask m).toNat n

/-- SWAP_IN (R495, R497): the swapped-out context of launch `i` returns to a slot of cluster `n`. -/
def execSwapIn (i n : Nat) (s : State) : Host.Outcome State Fault Refusal :=
  .next (match s.ctx i n, tblFind i s.launches with
    | some c, some l =>
      if c.st ≠ .swappedOut ∨ s.ctxWaits i n ∨ !s.fits n c.gran ∨ s.bandWaits n (s.bandOf i) ∨ !s.mayRun i ∨ l.drain then s
      else match s.imageSegs i n l c false with
        | (s, none) => s
        | (s, some _) =>
          let k := s.freeSlot n
          ((s.count 0x13124).takeSlot n k c.gran).setCtx (ctxKey i n) { c with st := .swappingIn, slot := k }
    | _, _ => s)

/-- SWAP_IN_COMPLETE (R495, R590, R491): the context is resident again and can run; its scratchpad holds the image's bytes.
`err` is what the ECC checks of the image's reads find. -/
def execSwapInComplete (i n : Nat) (err : Option (Nat × Bool)) (s : State) : Host.Outcome State Fault Refusal :=
  .next (match s.ctx i n, tblFind i s.launches with
    | some c, some l =>
      if c.st ≠ .swappingIn then s
      else match (s.eccFind err false).imageSegs i n l c false with
        | (s, none) => s
        | (s, some gs) => match s.segPoison gs with
          | some u => s.engineFault i n (imageBase l n) false (askSave n) (.ecc (32 * u))
          | none =>
            let sp := putBytes 0 (((s.segBytes gs).drop 0x100000).map some) []
            ((s.setCtx (ctxKey i n) { c with st := .ready, sp := sp, since := s.nextId, full := 0 }).tick).able n i
    | _, _ => s)

/-! ### Yield limits (R503, R504) -/

/-- YIELD_LIMIT_EXPIRY (R503, R626): the context of launch `l` on cluster `n` has not reached its yield point; its CCC stops and
its engines finish their descriptors. A spin is saved as a park. -/
def execYieldLimitExpiry (l n : Nat) (s : State) : Host.Outcome State Fault Refusal :=
  .next (match s.ctx l n with
    | none => s
    | some c =>
      if !c.yieldReq ∨ c.forced then s
      else if c.st = .spinning then ((s.count 0x15114).yieldGap c).leaveRun l n { c with st := .parked, yieldReq := false }
      else if c.st = .running ∨ c.st = .ending then ((s.count 0x15114).setCtx (ctxKey l n) { c with forced := true }).tryStop l n
      else s)

/-- The engines that run a descriptor of a context, as a mask. -/
def engineMask (c : Ctx) : Nat := (c.ports.zipIdx.map fun (p, e) => if p.run.isSome then 2 ^ e else 0).sum

/-- FORCED_SAVE_OVERDUE (R504): an engine still runs 100 us into a forced save; the launch is killed with YIELD_OVERDUE. -/
def execForcedSaveOverdue (l n : Nat) (s : State) : Host.Outcome State Fault Refusal :=
  .next (match s.ctx l n with
    | none => s
    | some c =>
      if !c.forced ∨ enginesIdle c then s
      else (((s.count 0x15118).cause 0x15000 9).launchFault l 0x0502 (engineMask c + 2 ^ 8 * n) (yardBase n)).kick)

/-! ### Beacons -/

/-- The ideal time of the tick that is due now (R505, R510): none where the source gives none yet. `vb` says the tick comes
from a vertical blank of the source head. -/
def State.idealTick (s : State) (b : Nat) (vb : Bool) : Option Nat :=
  let v := s.beacon b
  let t := s.ck.gtime.toNat
  match v.cfg.src with
  | 0 => none
  | 1 | 2 =>
    if vb then (if v.cfg.div ≤ v.frames then some ((s.head (v.cfg.src - 1)).vblank.toNat + s.bcnOffset b) else none)
    else if v.lockLost then some (v.lastTick.toNat + v.cfg.period) else none
  | _ => if v.cfg.period = 0 ∨ t < s.bcnOffset b then none else some (s.bcnOffset b + (t - s.bcnOffset b) / v.cfg.period * v.cfg.period)

/-- Whether a tick may come now (R507, R525): not before its ideal time, which lies at least half a period after the last tick, or
after the Beacon left OFF. -/
def State.tickDue (s : State) (v : Beacon) (ideal : Nat) : Bool :=
  decide (ideal ≤ s.ck.gtime.toNat) &&
    (if v.ticked then decide (v.cfg.period ≤ 2 * (ideal - v.lastTick.toNat)) else decide (v.since.toNat ≤ ideal))

/-- A head-sourced Beacon that had lost lock relocks at a vertical blank that gives a period within the range (R510, R518). -/
def State.relock (s : State) (b : Nat) (vb : Bool) : State :=
  let v := s.beacon b
  if (v.cfg.src = 1 ∨ v.cfg.src = 2) ∧ vb then
    let p := s.headPeriod v.cfg
    if periodOk p then
      let s := s.setBeacon b { v with cfg := { v.cfg with period := p }, locked := true, lockLost := false }
      if p < v.cfg.period then s.shedResvs b 256 else s
    else s
  else s

/-- Record a BEACON_MISS (R516): cause 1 OVERRUN, 2 PAUSED. -/
def State.beaconMiss (s : State) (r cause ticks : Nat) : State :=
  let v := s.resv r
  let s := s.setResv r { v with misses := min (v.misses + 1) 0xFFFF }
  let s := ((s.count 0x14128).capture31 0x14124 (r + 2 ^ 8 * cause)).cause 0x14000 8
  (s.raise 0x0602 (.inst v.inst) none 0x14000 0).resvChanged r 1 cause ticks

/-- A reservation's period ends and the next starts (R509, R515, R516, R526). `old` is the tick count of the period that
ends. -/
def State.newPeriod (s : State) (r : Nat) (old new : W) (paused : Bool) : State :=
  let v := s.resv r
  let stale := s.launches.any fun (_, l) => l.dispatched && decide (l.res = some r) && decide (l.tickDisp = old)
  let live := v.started && decide ((s.inst v.inst).st = .active)
  let s := if live && stale then s.beaconMiss r 1 new.toNat else if live && paused then s.beaconMiss r 2 new.toNat else s
  s.setResv r { s.resv r with last := v.charged, charged := 0, exhaust := false, started := true }

/-- Realign a CADENCE counter at a tick (R556). -/
def State.realign (s : State) (i : Nat) : State :=
  let o := s.obj i
  let d : Int := max (-(2 ^ 31)) (min (2 ^ 31 - 1) ((o.value : Int) - o.realign))
  ((s.setObj i { o with drift := d, value := o.realign }).evaluate i).1

/-- Release the BEACON_WAITs that a tick satisfies (R475, R509): every next-tick wait, and the absolute ones reached. -/
def State.releaseBeacon (s : State) (b : Nat) : State :=
  (s.cmds.filter fun c => match c.work with
    | .beacon b' abs t => b' = b && (!abs || beaconHolds (s.beacon b).ticks t)
    | _ => false).foldl State.complete s

/-- A tick of a Beacon (R506, R508, R509, R512, R525, R533, R556). -/
def State.tickBeacon (s : State) (b ideal : Nat) : State :=
  let v := s.beacon b
  let resid : Int := (s.ck.gtime.toNat : Int) - ideal
  let a := 0x20100 + 0x20 * b
  let new := v.ticks + 1
  let s := s.setBeacon b { v with
    ticks := new, resid := resid, lastTick := s.ck.gtime, ticked := true, frames := 0, locked := v.locked || !v.lockLost
    paused := if s.fw.swapping then v.paused + 1 else v.paused }
  let s := s.maxReg (a + 0x1C) resid.natAbs
  let s := if s.fw.swapping then s.countField (a + 0x18) 24 8 1 else s.releaseBeacon b
  let s := ((s.resvs.filter fun (_, v) => v.valid && v.bcn == b).map (·.1)).foldl (fun s r => s.newPeriod r v.ticks new s.fw.swapping) s
  let s := ((s.sync.objs.filter fun (i, o) => o.type == 2 && o.cadence && o.beacon == b && (s.inst (s.syncOwner i)).st != .shadowed).map (·.1)).foldl
    State.realign s
  let w := s.beacon b
  let s := match w.pend with
    | none => s
    | some c => s.setBeacon b (if c.src = 0 then { w with cfg := c, pend := none, locked := false, lockLost := false }
        else { w with cfg := c, pend := none, locked := c.src ≠ 3 || s.ck.synced, lockLost := c.src = 3 && !s.ck.synced })
  (s.latchRange (0x20400 + 4 * b) 1).cause 0x20000 (8 + b)

/-- BEACON_TICK (R505 to R512): Beacon `b` ticks if a tick is due. `vb` says that it comes from a vertical blank of the Beacon's
head. -/
def execBeaconTick (b : Nat) (vb : Bool) (s : State) : Host.Outcome State Fault Refusal :=
  .next (match s.idealTick b vb with
    | none => s
    | some t => if s.tickDue (s.beacon b) t then (s.relock b vb).tickBeacon b t else s)

/-- A Beacon loses its lock (R510, R511, R533). -/
def State.loseLock (s : State) (b : Nat) : State :=
  let v := s.beacon b
  if v.cfg.src = 0 ∨ v.lockLost then s
  else ((s.setBeacon b { v with locked := false, lockLost := true }).countField (0x20118 + 0x20 * b) 16 8 1).cause 0x20000 (16 + b)

/-- BEACON_LOCK_LOSS (R510): the head that drives Beacon `b` has given no vertical blank for twice the frame period. -/
def execBeaconLockLoss (b : Nat) (s : State) : Host.Outcome State Fault Refusal :=
  .next (if (s.beacon b).cfg.src = 1 ∨ (s.beacon b).cfg.src = 2 then s.loseLock b else s)

/-! ### Reservations -/

/-- BUDGET_EXHAUSTED (R515): the charge of reservation `r` has reached its budget; its contexts move to INTERACTIVE and their
spins become parks. -/
def execBudgetExhausted (r : Nat) (s : State) : Host.Outcome State Fault Refusal :=
  let v := s.resv r
  .next (if !v.valid ∨ v.exhaust ∨ v.charged < v.budget then s
    else
      let s := s.setResv r { v with exhaust := true, exhausted := min (v.exhausted + 1) 0xFFFF }
      (s.ctxs.filter fun (k, c) => c.st == .spinning && (match tblFind (k / 16) s.launches with | some l => l.res == some r | none => false)).foldl
        (fun s (k, c) => (s.countField 0x180134 0 16 1).leaveRun (k / 16) (k % 16) { c with st := .parked, yieldReq := false }) s)

/-! ### Command timeouts -/

/-- Count and capture an expired timeout (R531). -/
def State.noteTimeout (s : State) (h op : Nat) : State :=
  ((s.count 0x15108).capture31 0x15110 (h + 2 ^ 11 * op)).cause 0x15000 8

/-- A launch's timeout expires: it drains (R519 steps 1 and 2). Contexts that do not run end at once; those that run are asked
to yield. -/
def State.drainLaunch (s : State) (i : Nat) : State :=
  match tblFind i s.launches with
  | none => s
  | some l =>
    let s := s.setLaunch i { l with drain := true }
    let s := (maskList l.mask).foldl (fun s n => match s.ctx i n with
      | none => s
      | some c =>
        if c.st = .running ∨ c.st = .spinning ∨ c.st = .ending then (s.askYield i n c).tryStop i n
        else s.dropCtx i n) s
    (s.drained i).kick

/-- A command without further effect ends with CMD_TIMEOUT (R482, R439). -/
def State.timeoutEnd (s : State) (c : Cmd) : State :=
  let s := { s with
    cmds := s.cmds.filter (·.id ≠ c.id)
    sync := { s.sync with
      waiters := s.sync.waiters.filter fun w => match w.who with | .queue _ i => i ≠ c.id | _ => true
      fifo := s.sync.fifo.filter fun o => match o.who with | .queue _ i => i ≠ c.id | _ => true } }
  s.queueFault c.hwq 0x0104 (cmdPos c) 2 0 (cmdDetail (cmdPos c))

/-- COMMAND_TIMEOUT_EXPIRY (R482, R423, R519): the timeout of command `id` expires. `n` bytes of a copy had moved by then. A
WAIT whose WAIT_LIMIT ends at the same moment is for WAIT_WATCHDOG_EXPIRY (R466). -/
def execCommandTimeoutExpiry (id n : Nat) (s : State) : Host.Outcome State Fault Refusal :=
  .next (match s.cmd id with
    | none => s
    | some c => match c.work with
      | .launch i => if (match tblFind i s.launches with | some l => l.drain | none => true) then s else (s.noteTimeout c.hwq c.op).drainLaunch i
      | .copy m =>
        let s := (s.noteTimeout c.hwq c.op).moverPartly m n
        (match s.mover m with
        | none => s
        | some v => s.moverFault v fun s p kind => s.queueFault c.hwq 0x0104 p kind (moverDetail v) (moverDetail v))
      | .wait | .beacon _ _ _ | .earlier _ => (s.noteTimeout c.hwq c.op).timeoutEnd c
      | .operand _ _ _ => if c.op = 0x81 then (s.noteTimeout c.hwq c.op).timeoutEnd c else s
      | _ => s)

/-- DRAIN_GRACE_EXPIRY (R519 step 3): the contexts of launch `i` that still run are killed and the queue faults. -/
def execDrainGraceExpiry (i : Nat) (s : State) : Host.Outcome State Fault Refusal :=
  .next (match tblFind i s.launches with
    | none => s
    | some l =>
      if !l.drain then s
      else
        let s := s.count 0x1510C
        let s := if tblGet 0 (capKey 0x15110) s.regs = 1 ∧ bitsOf (s.reg 0x15110).toNat 0 10 = l.hwq then
            s.setReg 0x15110 (s.reg 0x15110 ||| 0x400) else s
        (((maskList l.mask).foldl (fun s n => s.dropCtx i n) s).drained i).kick)

end Sys2Proof.Machine
end

