-- ==== Sys2Proof/Machine/Yard.lean ====
section
/-! DEFINITION. The Yard: entering a context, work items, ports and their pushes, the CCC's operations, traps, and the
completion of descriptors (13). What the CCC's program does to the rest of the device are the rows of this file; Ccc.lean runs the
program itself. -/

set_option Elab.async false
namespace Sys2Proof.Machine

/-! ### What a cluster reads and writes -/

/-- Requester codes of a cluster's units: 2 CCC, 3 TE, 4 VU, 5 CDMA; the port index of an engine gives its code. -/
def engReq (e : Nat) : Nat := if e < 4 then 3 else if e = 4 then 4 else 5

/-- A cluster's L1 may hold a copy of a line: whether the byte read is the copy or the L2's is then open where they differ
(R662); BYPASS does not look the L1 up (R664). -/
def State.l1Read (s : State) (n k hint pa i : Nat) : Byte :=
  let now := s.memByte pa
  if hint = 3 then now
  else match s.caches.l1.find? fun l => decide (l.cluster = n ∧ l.inst = k ∧ l.line = pa / 128) with
    | some l =>
      let old := l.data.getD (pa % 128) now
      if old = now then now else if (Config.freeByte s.own.freeCtr i).toNat % 2 = 0 then old else now
    | none => now

/-- Lines a read allocates in the L1: DEFAULT and KEEP do, unless the line is there already (R664, R665). -/
def State.l1Fill (s : State) (n k hint pa len : Nat) : State :=
  if hint = 1 ∨ hint = 3 ∨ len = 0 then s
  else (List.range ((pa + len - 1) / 128 - pa / 128 + 1)).foldl (fun s i =>
    let ln := pa / 128 + i
    if s.caches.l1.any fun l => decide (l.cluster = n ∧ l.inst = k ∧ l.line = ln) then s
    else { s with caches := { s.caches with l1 := { cluster := n, inst := k, line := ln, data := s.memBytes (128 * ln) 128 } :: s.caches.l1 } }) s

/-- A cluster engine's write updates the copies in its own L1 (R660), or removes them with hint BYPASS (R664). -/
def State.l1Write (s : State) (n hint pa len : Nat) : State :=
  let hit (l : L1Line) : Bool := decide (l.cluster = n ∧ 128 * l.line < pa + len ∧ pa < 128 * l.line + 128)
  if hint = 3 then { s with caches := { s.caches with l1 := s.caches.l1.filter fun l => !hit l } }
  else { s with caches := { s.caches with l1 := s.caches.l1.map fun l => if hit l then { l with data := s.memBytes (128 * l.line) 128 } else l } }

/-- Where an operand lies: in the context's local space, or at a device virtual address with a hint (ADDR64, R611). -/
inductive Place
  | sp (a : Nat)
  | dev (va hint : Nat)
deriving DecidableEq, Repr

/-- A byte of an operand further on. -/
def Place.plus : Place → Nat → Place
  | .sp a, n => .sp (a + n)
  | .dev v h, n => .dev (v + n) h

/-- Why an access of a running descriptor stops it. -/
inductive Snag
  | mem (va : Nat) (write : Bool) (x : XErr)
  | host (word : Nat)
deriving DecidableEq, Repr

/-- Bytes of the constant snapshot; past CB_LEN they read zero (R596). -/
def snapByte (l : Launch) (i : Nat) : Byte := (leBytes 4 (wordAt l.snapshot (i / 4)).toNat).getD (i % 4) 0

/-- Bytes of a context's local space: the scratchpad or the constant snapshot. -/
def localByte (c : Ctx) (l : Launch) (a : Nat) : Byte :=
  if a < 0xF00000 then tblGet 0 a c.sp else snapByte l (a - 0xF00000)

/-- The running parts of a context: its launch, cluster, engine, records. -/
structure Run where
  i : Nat
  n : Nat
  e : Nat
  l : Launch
deriving DecidableEq, Repr

/-- The asker of an engine. -/
def Run.asker (r : Run) : Asker := ⟨engReq r.e, r.n⟩

/-- Read bytes of an operand (R608, R609, R649). -/
def State.readAt (s : State) (r : Run) (word : Nat) (p : Place) (len : Nat) : State × Except Snag (List Byte) :=
  match p with
  | .sp a =>
    let c := (s.ctx r.i r.n).getD (newCtx 0 0 0 0)
    (s, .ok ((List.range len).map fun j => localByte c r.l (a + j)))
  | .dev va h =>
    match s.segs r.l.inst va len false r.asker with
    | (s, _, some (o, x)) => (s, .error (.mem (va + o) false x))
    | (s, gs, none) =>
      if segsHost gs then (s, .error (.host word))
      else match s.segPoison gs with
        | some u => (s, .error (.mem va false (.ecc (32 * u))))
        | none =>
          let bs := gs.flatMap fun g => match g.dest with
            | .hbm pa => (List.range g.len).map fun j => s.l1Read r.n r.l.inst h (pa + j) (g.off + j)
            | .host _ => []
          let s := gs.foldl (fun s g => match g.dest with
            | .hbm pa => s.l1Fill r.n r.l.inst h pa g.len
            | .host _ => s) s
          (s.bumpFree, .ok bs)

/-- Write bytes of an operand: up to the first refused page (R608, R609). -/
def State.writeAt (s : State) (r : Run) (word : Nat) (p : Place) (d : List Byte) : State × Option Snag :=
  match p with
  | .sp a => match s.ctx r.i r.n with
    | some c => (s.setCtx (ctxKey r.i r.n) { c with sp := putBytes a (d.map some) c.sp }, none)
    | none => (s, none)
  | .dev va h =>
    match s.segs r.l.inst va d.length true r.asker with
    | (s, gs, st) =>
      let host := gs.findIdx? fun g => match g.dest with | .host _ => true | .hbm _ => false
      let good := match host with | some j => gs.take j | none => gs
      let s := good.foldl (fun s g => match g.dest with
        | .hbm pa => (s.devWrite pa ((d.drop g.off).take g.len)).l1Write r.n h pa g.len
        | .host _ => s) s
      (s, match host, st with
        | some _, _ => some (.host word)
        | none, some (o, x) => some (.mem (va + o) true x)
        | none, none => none)

/-- Read rows of an operand, each at an offset. -/
def State.readRows (r : Run) (word : Nat) (p : Place) (len : Nat) :
    List Nat → State → List (List Byte) → State × Except Snag (List (List Byte))
  | [], s, acc => (s, .ok acc.reverse)
  | o :: t, s, acc => match s.readAt r word (p.plus o) len with
    | (s, .error x) => (s, .error x)
    | (s, .ok b) => State.readRows r word p len t s (b :: acc)

/-- Write rows of an operand, each at an offset, up to the first refusal. -/
def State.writeRows (r : Run) (word : Nat) (p : Place) : List (Nat × List Byte) → State → State × Option Snag
  | [], s => (s, none)
  | (o, b) :: t, s => match s.writeAt r word (p.plus o) b with
    | (s, some x) => (s, some x)
    | (s, none) => State.writeRows r word p t s

/-! ### Traps -/

/-- A trap of a descriptor: cause, TRAP_DETAIL, TRAP_VALUE (R628). -/
abbrev Trap := Nat × Nat × Nat

/-- End a running descriptor at a snag: the launch is killed (R608, R609). -/
def State.snag (s : State) (r : Run) (pc : Nat) : Snag → State
  | .mem va w x => (s.engineFault r.i r.n va w r.asker x).kick
  | .host word => (s.yardTrap r.i r.n 13 word 0 pc).kick

/-- Raise a trap of a descriptor (R607). -/
def State.trapDesc (s : State) (r : Run) (pc : Nat) (t : Trap) : State := (s.yardTrap r.i r.n t.1 t.2.1 t.2.2 pc).kick

/-! ### The CCC -/

/-- Whether the hub has still to receive a wait of a context's CCC. -/
def State.waitSent (s : State) (i n : Nat) : Bool :=
  s.sync.fifo.any fun o => decide (o.who = .ctx i n none) &&
    (o.kind == .waitGe || o.kind == .waitGen || o.kind == .waitGeConsume)

/-- The number of work items of a launch (R598). -/
def itemCount (l : Launch) : Nat := l.gx * l.gy * l.gz

/-- The context of a launch on a cluster if its CCC executes: entered, running, with items left, not at a yield point it must
stop at, not stalled on a port or a wait, not halted by its Debug Module (R215). -/
def State.ccc (s : State) (i n : Nat) : Option (Launch × Ctx) :=
  match tblFind i s.launches, s.ctx i n with
  | some l, some c =>
    if c.st = .running ∧ c.entered ∧ c.item < itemCount l ∧ !c.atYield ∧ !c.forced ∧ c.stall.isNone ∧ !s.waitSent i n ∧ !s.sec.halted.contains (3 + n) then some (l, c) else none
  | _, _ => none

/-- The runtime's return point: private to Fausk, so free, but outside the program's map (R596). -/
def retPoint (w : W) : W := 0x80000000 ||| (w &&& 0x7FFFFFFE)

/-- The registers an item starts with (R598): a0 to a3, sp and ra; the rest keep their values. -/
def startItem (l : Launch) (c : Ctx) (entry free : W) : Ctx :=
  let ra := retPoint free
  let i := c.item
  let x := i % l.gx
  let y := i / l.gx % l.gy
  let z := i / (l.gx * l.gy)
  let put (k v : Nat) (r : List W) : List W := r.set k (BitVec.ofNat 32 v)
  { c with ret := ra, pc := 0x20000000 + entry, xregs := put 13 i (put 12 z (put 11 y (put 10 x (put 2 0x10004000 (c.xregs.set 1 ra))))) }

/-- A header field by its byte offset (Yard image). -/
def hdrAt (d : List Byte) (o n : Nat) : Nat := leNat (bytesAt d o n)

/-- The four sections: the offset of each one's offset field, its start, its size in bytes, its alignment. -/
def imageSections (d : List Byte) : List (Nat × Nat × Nat × Nat) :=
  [(0x10, hdrAt d 0x10 4, hdrAt d 0x14 4, 4), (0x18, hdrAt d 0x18 4, 64 * hdrAt d 0x1C 4, 64), (0x20, hdrAt d 0x20 4, 16 * hdrAt d 0x24 4, 16),
   (0x28, hdrAt d 0x28 4, 8 * hdrAt d 0x2C 4, 8)]

/-- Whether two sections share a byte. -/
def sectOverlap (a b : Nat × Nat × Nat × Nat) : Bool :=
  decide (0 < a.2.2.1 ∧ 0 < b.2.2.1 ∧ a.2.1 < b.2.1 + b.2.2.1 ∧ b.2.1 < a.2.1 + a.2.2.1)

/-- The checks of R594 row 1 on the header, with the header offset of each; the first that fails, lowest offset first. -/
def headerFault (d : List Byte) : Option Nat :=
  let w (o : Nat) : Nat := hdrAt d o 4
  let size := 4096 * hdrAt d 6 2
  let sects := imageSections d
  let sectBad (x : Nat × Nat × Nat × Nat) : Bool :=
    decide (x.2.1 % x.2.2.2 ≠ 0) || (decide (0 < x.2.2.1) && (decide (x.2.1 < 256 ∨ size < x.2.1 + x.2.2.1) || (sects.filter (sectOverlap x)).length != 1))
  let entryOk := decide (w 0xC % 2 = 0 ∧ w 0x10 ≤ w 0xC ∧ w 0xC < w 0x10 + w 0x14)
  let checks : List (Nat × Bool) :=
    [(0, w 0 = 0x4B595244), (5, hdrAt d 5 1 = 1), (6, 1 ≤ hdrAt d 6 2 ∧ hdrAt d 6 2 ≤ 255), (8, hdrAt d 8 1 ≤ 11), (9, hdrAt d 8 1 ≤ hdrAt d 9 1 ∧ hdrAt d 9 1 ≤ 11),
     (0xA, hdrAt d 0xA 2 = 0), (0xC, entryOk), (0x10, !sectBad (sects.getD 0 (0, 0, 0, 1))), (0x18, !sectBad (sects.getD 1 (0, 0, 0, 1))),
     (0x1C, w 0x1C ≤ 32768), (0x20, !sectBad (sects.getD 2 (0, 0, 0, 1))), (0x24, w 0x24 ≤ 64), (0x28, !sectBad (sects.getD 3 (0, 0, 0, 1))),
     (0x2C, w 0x2C ≤ 65535), (0x30, 256 ≤ w 0x30 ∧ w 0x30 ≤ 16384), (0x38, (bytesAt d 0x38 200).all (· == 0))]
  (checks.find? fun x => !x.2).map (·.1)

/-- A resource table entry is well formed: reserved fields zero, CB_OFFSET a multiple of 8, ALIGN_LOG2 at most 30. -/
def resEntryOk (e : List Byte) : Bool :=
  decide (hdrAt e 0 2 % 8 = 0 ∧ hdrAt e 2 2 < 4 ∧ hdrAt e 4 1 ≤ 30 ∧ hdrAt e 5 3 = 0)

/-- The address of a resource in the constant snapshot. -/
def resAddr (l : Launch) (e : List Byte) : Nat := leNat ((List.range 8).map fun j => snapByte l (hdrAt e 0 2 + j))

/-- The check of R594 row 4 on a resource. -/
def resOk (l : Launch) (e : List Byte) : Bool :=
  decide (hdrAt e 0 2 + 8 ≤ l.cbLen ∧ resAddr l e % 2 ^ hdrAt e 4 1 = 0 ∧ resAddr l e + hdrAt e 8 8 ≤ 2 ^ 48)

/-- The checks of R594 in order: the trap of the first that fails. `d` is the header, `res` the resource table, `yld` the
yield-point map. -/
def imageFault (l : Launch) (d res yld : List Byte) : Option Trap :=
  match headerFault d with
  | some o => some (1, o, 0)
  | none =>
    let es := (List.range (hdrAt d 0x24 4)).map fun j => bytesAt res (16 * j) 16
    if !es.all resEntryOk then some (1, 0x20, 0)
    else if (List.range (hdrAt d 0x2C 4)).any fun j => decide (hdrAt yld (8 * j + 6) 2 ≠ 0) then some (1, 0x28, 0)
    else if hdrAt d 6 2 ≠ l.imageSize then some (2, hdrAt d 6 2, 0)
    else if l.gran < hdrAt d 8 1 ∨ hdrAt d 9 1 < l.gran then some (3, l.gran, 0)
    else match es.findIdx? fun e => !resOk l e with
      | some j => some (4, j, 0)
      | none => none

/-- Read bytes of the Yard image (R449), on the CCC's behalf or to fetch an instruction (`fetch`): a refused page kills the launch, a
page in host memory is an access fault. The lines read enter the L1 as reads do (R664). -/
def State.yardImage (s : State) (i n : Nat) (l : Launch) (off len : Nat) (fetch : Bool) (pc : Nat) : State × Option (List Byte) :=
  match s.segs l.inst (l.image.toNat + off) len false ⟨2, n⟩ with
  | (s, _, some (o, x)) => ((s.engineFault i n (l.image.toNat + off + o) false ⟨2, n⟩ x).kick, none)
  | (s, gs, none) =>
    if segsHost gs then ((s.yardTrap i n 5 (if fetch then 1 else 5) (0x20000000 + off) pc).kick, none)
    else match s.segPoison gs with
      | some u => ((s.engineFault i n (l.image.toNat + off) false ⟨2, n⟩ (.ecc (32 * u))).kick, none)
      | none =>
        let bs := gs.flatMap fun g => match g.dest with
          | .hbm pa => (List.range g.len).map fun b => s.l1Read n l.inst 0 (pa + b) (g.off + b)
          | .host _ => []
        let s := gs.foldl (fun s g => match g.dest with
          | .hbm pa => s.l1Fill n l.inst 0 pa g.len
          | .host _ => s) s
        (s.bumpFree, some ((List.range len).map fun j => bs.getD j 0))

/-- A read of the Yard image by the Yard itself. -/
def State.readImage (s : State) (i n : Nat) (l : Launch) (off len : Nat) : State × Option (List Byte) :=
  s.yardImage i n l off len false 0

/-- YARD_CONTEXT_ENTER (R594, R597, R598, R600, R661): the Yard checks the image of launch `i` on cluster `n` and the CCC enters
its first work item. `err` is what the ECC checks of the image's reads find. -/
def execYardContextEnter (i n : Nat) (err : Option (Nat × Bool)) (s : State) : Host.Outcome State Fault Refusal :=
  .next (match tblFind i s.launches, s.ctx i n with
    | some l, some c =>
      if c.st ≠ .running ∨ c.entered ∨ l.snapNeed ≠ [] then s
      else
        match ((s.eccFind err false).dropL1 n l.inst).readImage i n l 0 256 with
        | (s, none) => s
        | (s, some d) =>
          let ok := (headerFault d).isNone
          match (if ok then s.readImage i n l (hdrAt d 0x20 4) (16 * hdrAt d 0x24 4) else (s, some [])) with
          | (s, none) => s
          | (s, some res) =>
            match (if ok then s.readImage i n l (hdrAt d 0x28 4) (8 * hdrAt d 0x2C 4) else (s, some [])) with
            | (s, none) => s
            | (s, some yld) =>
              match imageFault l d res yld with
              | some t => (s.yardTrap i n t.1 t.2.1 t.2.2 0).kick
              | none =>
                let s := s.setLaunch i { l with header := bytesWords 64 d ++ bytesWords (4 * hdrAt d 0x24 4) res }
                let c := { c with entered := true }
                let c := if c.item < itemCount l then startItem l c (BitVec.ofNat 32 (hdrAt d 0xC 4)) (Config.freeWord s.own.freeCtr) else { c with st := .ending }
                (s.bumpFree).setCtx (ctxKey i n) c
    | _, _ => s)

/-- The entry returns with `a0` at image offset `pc` (R599, R600): a nonzero value traps, zero ends the item, which is a yield point. -/
def State.itemReturn (s : State) (i n : Nat) (a0 : W) (pc : Nat) : State :=
  match s.ccc i n with
  | none => s
  | some (l, c) =>
    if a0 ≠ 0 then (s.yardTrap i n 12 a0.toNat 0 pc).kick
    else
      let c := { c with item := c.item + (maskList l.mask).length }
      if c.item < itemCount l then
        let c := startItem l { c with atYield := c.yieldReq } (wordAt l.header 3) (Config.freeWord s.own.freeCtr)
        ((s.bumpFree).setCtx (ctxKey i n) c).tryStop i n
      else s.setCtx (ctxKey i n) { c with st := .ending }

/-- ITEM_RETURN (R599, R600): the entry of launch `i` on cluster `n` returns. -/
def execItemReturn (i n : Nat) (a0 : BitVec 32) (pc : Nat) (s : State) : Host.Outcome State Fault Refusal :=
  .next (s.itemReturn i n a0 pc)

/-- CONTEXT_END (R600): the last item has returned, every port is empty and every engine idle; the context ends. -/
def execContextEnd (i n : Nat) (s : State) : Host.Outcome State Fault Refusal :=
  .next (match tblFind i s.launches, s.ctx i n with
    | some l, some c =>
      if c.entered && decide (itemCount l ≤ c.item) && (c.st == .ending || c.st == .running) && portsIdle c then s.endCtx i n else s
    | _, _ => s)

/-! ### Ports -/

/-- A port of a context. -/
def portOf (c : Ctx) (e : Nat) : Port := c.ports.getD e portReset_

/-- Replace a port of a context. -/
def setPortOf (c : Ctx) (e : Nat) (p : Port) : Ctx := { c with ports := c.ports.set e p }

/-- CLASS and OP of a descriptor. -/
def dClass (ws : List W) : Nat := bitsOf (natAt ws 0) 0 2
/-- OP of a descriptor. -/
def dOp (ws : List W) : Nat := bitsOf (natAt ws 0) 4 4

/-- Whether a port accepts a class (R610). -/
def portTakes (e cls : Nat) : Bool := cls == 3 || (if e < 4 then cls == 0 else if e = 4 then cls == 1 else cls == 2)

/-- Whether a class lists an OP. -/
def opListed (cls op : Nat) : Bool := decide (op < (match cls with | 0 => 4 | 1 => 5 | 2 => 3 | _ => 4))

/-- A push takes a place in the port, or stalls the CCC while the port holds 32 descriptors (R601). -/
def State.enqueue (s : State) (i n e : Nat) (c : Ctx) (ws : List W) (pc : Nat) : State :=
  let p := portOf c e
  let d : Ent := { ws := ws, seq := s.nextId, pc := pc }
  if p.fifo.length < 32 then (s.setCtx (ctxKey i n) (setPortOf c e { p with fifo := p.fifo ++ [d] })).tick
  else (s.setCtx (ctxKey i n) { c with stall := some (e, d) }).tick

/-- A write of PUSH_e with the sixteen words staged by then (R601). The engine checks them when it begins them (R607). -/
def State.cccPush (s : State) (i n e : Nat) (ws : List W) (pc : Nat) : State :=
  match s.ccc i n with
  | none => s
  | some (_, c) =>
    if 6 ≤ e then s
    else
      let ws := (ws ++ List.replicate 16 0).take 16
      let c := setPortOf c e { portOf c e with stage := ws }
      s.enqueue i n e c ws pc

/-- PUSH (R601): the CCC of launch `i` on cluster `n` stages words in STAGE_e and writes PUSH_e at image offset `pc`.
`ws` are the sixteen words staged by then. -/
def execPush (i n e : Nat) (ws : List (BitVec 32)) (pc : Nat) (s : State) : Host.Outcome State Fault Refusal :=
  .next (s.cccPush i n e ws pc)

/-- The descriptor a NEXT-form value names (R610): none when it lies outside its limits. From the image table it is read
through the cluster; a refused page kills the launch. -/
def State.nextDesc (s : State) (i n : Nat) (l : Launch) (c : Ctx) (v : Nat) : State × Option (Option (List W)) :=
  let k := v % 2 ^ 15
  if bitOf v 15 then
    if 0x100000 * c.gran ≤ 64 * k then (s, some none)
    else (s, some (some (bytesWords 16 ((List.range 64).map fun j => tblGet 0 (64 * k + j) c.sp))))
  else if natAt l.header 7 ≤ k then (s, some none)
  else match s.readImage i n l (natAt l.header 6 + 64 * k) 64 with
    | (s, none) => (s, none)
    | (s, some d) => (s, some (some (bytesWords 16 d)))

/-- A write of `v` to PUSH_TABLE_e (R601, R610). -/
def State.cccPushTable (s : State) (i n e v pc : Nat) : State :=
  match s.ccc i n with
  | none => s
  | some (l, c) =>
    if 6 ≤ e then s
    else match s.nextDesc i n l c (v % 2 ^ 16) with
      | (s, none) => s
      | (s, some none) => (s.yardTrap i n 9 (v % 2 ^ 16) 0 pc).kick
      | (s, some (some ws)) =>
        if !portTakes e (dClass ws) then (s.yardTrap i n 9 (v % 2 ^ 16) 0 pc).kick
        else match s.ctx i n with
          | some c => s.enqueue i n e c ws pc
          | none => s

/-- PUSH_TABLE (R601, R610): a write of `v` to PUSH_TABLE_e at image offset `pc`. -/
def execPushTable (i n e v pc : Nat) (s : State) : Host.Outcome State Fault Refusal := .next (s.cccPushTable i n e v pc)

/-- A write of `v` to LEV_ADD_k (R605). -/
def State.cccLevAdd (s : State) (i n k v : Nat) : State :=
  match s.ccc i n with
  | none => s
  | some (_, c) => s.setCtx (ctxKey i n) { c with levs := c.levs.set k (c.levs.getD k 0 + BitVec.ofNat 16 v) }

/-- LEV_ADD (R605): a write of `v` to LEV_ADD_k adds its low 16 bits to the local event counter. -/
def execLevAdd (i n k v : Nat) (s : State) : Host.Outcome State Fault Refusal := .next (s.cccLevAdd i n k v)

/-! ### Sync operations of the CCC (R602) -/

/-- A SYNC_OP write: misuse of its form traps; otherwise the operation goes to the hub. `op` is the OP code of the row. -/
def State.cccOp (s : State) (i n op : Nat) (kind : HubKind) (word : W64) (pc : Nat) : State :=
  match s.ccc i n with
  | none => s
  | some _ =>
    let v := word.toNat
    let id := bitsOf v 0 14
    let o := bitsOf v 16 2
    let nn := bitsOf v 32 32
    if o ≠ op ∧ o ≠ 3 then s
    else if o = 3 ∨ bitsOf v 14 2 ≠ 0 ∨ bitsOf v 18 14 ≠ 0 ∨ (if op = 2 then nn ≠ 0 else nn = 0) then (s.yardTrap i n 10 id 0 pc).kick
    else s.sendOp { port := 1 + n, who := .ctx i n none, inst := s.launchInst i, kind := kind, id := id, val := if op = 2 then 1 else nn, spin := false }

/-- CCC_SYNC_OP_SIGNAL_ADD (R602): a SYNC_OP write with OP 0. A word with OP 3 traps. -/
def execCccSyncOpSignalAdd (i n : Nat) (word : BitVec 64) (pc : Nat) (s : State) : Host.Outcome State Fault Refusal :=
  .next (s.cccOp i n 0 .add word pc)
/-- CCC_SYNC_OP_CONSUME (R602): a SYNC_OP write with OP 1. -/
def execCccSyncOpConsume (i n : Nat) (word : BitVec 64) (pc : Nat) (s : State) : Host.Outcome State Fault Refusal :=
  .next (s.cccOp i n 1 .consume word pc)
/-- CCC_SYNC_OP_ARRIVE (R602): a SYNC_OP write with OP 2. -/
def execCccSyncOpArrive (i n : Nat) (word : BitVec 64) (pc : Nat) (s : State) : Host.Outcome State Fault Refusal :=
  .next (s.cccOp i n 2 .arrive word pc)

/-- A SYNC_WAIT write: the CCC stalls until the hub releases the wait (R602, R560 to R564). -/
def State.cccWait (s : State) (i n kd : Nat) (kind : HubKind) (word : W64) (pc : Nat) : State :=
  match s.ccc i n with
  | none => s
  | some _ =>
    let v := word.toNat
    let id := bitsOf v 0 14
    let k := bitsOf v 16 2
    if k ≠ kd ∧ k ≠ 3 then s
    else if k = 3 ∨ bitsOf v 14 2 ≠ 0 ∨ bitsOf v 18 2 ≠ 0 ∨ bitsOf v 21 11 ≠ 0 then (s.yardTrap i n 10 id 0 pc).kick
    else s.sendOp { port := 1 + n, who := .ctx i n none, inst := s.launchInst i, kind := kind, id := id, val := bitsOf v 32 32, spin := bitOf v 20 }

/-- CCC_SYNC_WAIT_GE (R602): a SYNC_WAIT write with KIND 0. A word with KIND 3 traps. -/
def execCccSyncWaitGe (i n : Nat) (word : BitVec 64) (pc : Nat) (s : State) : Host.Outcome State Fault Refusal :=
  .next (s.cccWait i n 0 .waitGe word pc)
/-- CCC_SYNC_WAIT_GEN (R602): a SYNC_WAIT write with KIND 1. -/
def execCccSyncWaitGen (i n : Nat) (word : BitVec 64) (pc : Nat) (s : State) : Host.Outcome State Fault Refusal :=
  .next (s.cccWait i n 1 .waitGen word pc)
/-- CCC_SYNC_WAIT_GE_CONSUME (R602): a SYNC_WAIT write with KIND 2. -/
def execCccSyncWaitGeConsume (i n : Nat) (word : BitVec 64) (pc : Nat) (s : State) : Host.Outcome State Fault Refusal :=
  .next (s.cccWait i n 2 .waitGeConsume word pc)

/-- CCC_SYNC_STATUS_READ (R602): a read of SYNC_STATUS answers once every earlier SYNC_OP of the context has been applied. -/
def execCccSyncStatusRead (i n : Nat) (s : State) : Host.Outcome State Fault Refusal :=
  .next (match s.ccc i n with
    | none => s
    | some (_, c) =>
      if s.sync.fifo.any fun o => decide (o.who = .ctx i n none) then s
      else s.answer (leBytes 4 (c.syncRes + 2 ^ 16 * (c.syncId % 2 ^ 14))) 0)

/-! ### Yield points and traps -/

/-- A write of `idx` to YIELD by the instruction at image offset `pc` (R625, R502). -/
def State.cccYield (s : State) (i n idx pc : Nat) : State :=
  match s.ccc i n with
  | none => s
  | some (l, _) =>
    match s.readImage i n l (natAt l.header 10) (8 * natAt l.header 11) with
    | (s, none) => s
    | (s, some d) =>
      if !((List.range (natAt l.header 11)).any fun j => decide (hdrAt d (8 * j) 4 = pc ∧ hdrAt d (8 * j + 4) 2 = idx)) then
        (s.yardTrap i n 11 idx 0 pc).kick
      else match s.ctx i n with
        | some c => if c.yieldReq then (s.setCtx (ctxKey i n) { c with atYield := true }).tryStop i n else s
        | none => s

/-- YIELD (R625, R502): a write of `idx` to YIELD by the instruction at image offset `pc`. -/
def execYield (i n idx pc : Nat) (s : State) : Host.Outcome State Fault Refusal := .next (s.cccYield i n idx pc)

/-- A write of `v` to the TRAP register (R627, R628). -/
def State.cccTrap (s : State) (i n v pc : Nat) : State :=
  match s.ccc i n with
  | none => s
  | some _ => (s.yardTrap i n 12 v 0 pc).kick

/-- TRAP (R627, R628): a write of `v` to the TRAP register raises USER_TRAP. -/
def execTrap (i n v pc : Nat) (s : State) : Host.Outcome State Fault Refusal := .next (s.cccTrap i n v pc)

/-- A RISC-V exception of the program (R629, R596). An access fault of the CMEM range is SP_BOUNDS. -/
def State.cccExc (s : State) (i n mcause mtval pc : Nat) : State :=
  match s.ccc i n with
  | none => s
  | some _ =>
    if (mcause = 1 ∨ mcause = 5 ∨ mcause = 7) ∧ mtval < 0x1000000 then (s.yardTrap i n 8 0 mtval pc).kick
    else (s.yardTrap i n 5 mcause mtval pc).kick

/-- CCC_EXCEPTION (R629, R596): a RISC-V exception of the program. -/
def execCccException (i n mcause mtval pc : Nat) (s : State) : Host.Outcome State Fault Refusal := .next (s.cccExc i n mcause mtval pc)

/-! ### Beginning and completing descriptors -/

/-- Page base of an engine of a cluster. -/
def engBase (n e : Nat) : Nat := yardBase n + 0x2000 + 0x1000 * e

/-- Whether an engine of a cluster runs a descriptor of some context. -/
def State.engBusy (s : State) (n e : Nat) : Bool := s.ctxs.any fun (k, c) => k % 16 == n && (portOf c e).run.isSome

/-- Whether a descriptor's wait on a local event counter is satisfied (R605). -/
def levReady (c : Ctx) (ws : List W) : Bool :=
  let w := natAt ws 0
  !bitOf w 13 || decide ((c.levs.getD (bitsOf w 14 3) 0 - BitVec.ofNat 16 (natAt ws 1)).toNat < 2 ^ 15)

/-- The descriptor a port begins next: the chain's, or the head of its queue (R603). -/
def portFront (p : Port) : Option Ent := match p.next with | some d => some d | none => p.fifo.head?

/-- A descriptor of a class that its port does not accept, or with an unlisted OP (R610). -/
def badClass (e : Nat) (ws : List W) : Bool := !portTakes e (dClass ws) || !opListed (dClass ws) (dOp ws)

/-- The descriptor that engine `e` of cluster `n` may begin for launch `i`: of the class and OP asked for, or of none that the engine
executes, its wait satisfied, the engine free, its context resident and not stopped. -/
def State.canBegin (s : State) (i n e cls op : Nat) : Option (Run × Ctx × Ent) :=
  match tblFind i s.launches, s.ctx i n with
  | some l, some c =>
    if (c.st = .running ∨ c.st = .spinning ∨ c.st = .parked ∨ c.st = .ending) ∧ !c.forced ∧ !s.engBusy n e then
      match portFront (portOf c e) with
      | some d => if (badClass e d.ws ∨ (dClass d.ws = cls ∧ dOp d.ws = op)) ∧ levReady c d.ws then some (⟨i, n, e, l⟩, c, d) else none
      | none => none
    else none
  | _, _ => none

/-- The port with its front descriptor running. -/
def beginPort (p : Port) (d : Ent) : Port :=
  match p.next with
  | some _ => { p with next := none, run := some d }
  | none => { p with fifo := p.fifo.drop 1, run := some d }

/-- A stalled push takes the place that freed (R601). -/
def unstall (c : Ctx) : Ctx :=
  match c.stall with
  | some (e, d) => if (portOf c e).fifo.length < 32 then { setPortOf c e { portOf c e with fifo := (portOf c e).fifo ++ [d] } with stall := none } else c
  | none => c

/-- Engine `e` begins a descriptor of the class and OP: `body` makes its checks and its effect. One of another class, or with an
unlisted OP, traps (R607, R610). -/
def State.beginDesc (s : State) (i n e cls op : Nat) (body : State → Run → Ctx → Ent → State) : State :=
  match s.canBegin i n e cls op with
  | none => s
  | some (r, c, d) =>
    let s := s.setCtx (ctxKey i n) (unstall (setPortOf c e (beginPort (portOf c e) d)))
    if badClass e d.ws then (s.yardTrap i n 6 0 0 d.pc).kick else body s r c d

/-- The first word of a list whose bits leave its mask; such a descriptor is DESC_FORMAT (R607). -/
def reservedWord (ws : List W) (masks : List Nat) : Option Nat :=
  (List.range 16).find? fun j => decide (natAt ws j &&& masks.getD j 0 ≠ natAt ws j)

/-- The first check of a list that fails: its trap. -/
def firstTrap (l : List (Bool × Trap)) : Option Trap := (l.find? fun x => !x.1).map (·.2)

/-- Resolve an operand (R611, R607): its place, or the trap. `len` is the bytes from its address to its last; `src` says a
source, which may lie in the constant snapshot. -/
def placeOf (r : Run) (c : Ctx) (ws : List W) (w len : Nat) (src : Bool) : Except Trap Place :=
  let v := nat64At ws w
  let a := bitsOf v 0 48
  let resN := natAt r.l.header 9
  match bitsOf v 62 2 with
  | 0 =>
    if bitsOf v 50 12 ≠ 0 then .error (6, w + 1, 0)
    else if a + len ≤ 0x100000 * c.gran ∨ (src ∧ 0xF00000 ≤ a ∧ a + len ≤ 0xF01000) then .ok (.sp a)
    else .error (8, 0, a % 2 ^ 32)
  | 1 => if bitsOf v 50 12 ≠ 0 then .error (6, w + 1, 0) else .ok (.dev a (bitsOf v 48 2))
  | 2 =>
    let k := bitsOf v 42 6
    if bitsOf v 50 12 ≠ 0 ∨ resN ≤ k then .error (6, w + 1, 0)
    else .ok (.dev ((resAddr r.l (wordsBytes ((r.l.header.drop (64 + 4 * k)).take 4)) + bitsOf v 0 42) % 2 ^ 48) (bitsOf v 48 2))
  | _ => .error (6, w + 1, 0)

/-- The first byte of an operand in device memory: refused, in host memory, or fine (R608, R609). -/
def State.firstOf (s : State) (r : Run) (word : Nat) (p : Place) (write : Bool) : State × Option Snag :=
  match p with
  | .sp _ => (s, none)
  | .dev va _ => match s.xlate r.l.inst va write r.asker with
    | (s, .error x) => (s, some (.mem va write x))
    | (s, .ok (.host _)) => (s, some (.host word))
    | (s, .ok (.hbm _)) => (s, none)

/-- The first bytes of several operands, in order: (word, place, written). -/
def State.firstAll (r : Run) : List (Nat × Place × Bool) → State → State × Option Snag
  | [], s => (s, none)
  | (w, p, wr) :: t, s => match s.firstOf r w p wr with
    | (s, some x) => (s, some x)
    | (s, none) => State.firstAll r t s

/-- Whether every operation a context sent from an engine has been applied. -/
def State.opApplied (s : State) (i n e : Nat) : Bool := !(s.sync.fifo.any fun o => decide (o.who = .ctx i n (some e)))

/-- Whether a FENCE of a context may complete (R570): no descriptor pushed before it waits or runs on an engine in its scope. -/
def fenceMet (c : Ctx) (d : Ent) : Bool :=
  c.ports.zipIdx.all fun (p, e) => !bitOf (natAt d.ws 4) e ||
    ((p.fifo ++ p.next.toList ++ p.run.toList).all fun x => decide (d.seq ≤ x.seq))

/-- CDMA staging ends with its move (R592, R669). -/
def State.endStaging (s : State) (n : Nat) : State :=
  if (s.cluster n).staging then
    ((s.setCluster n { s.cluster n with staging := false }).setGranMap n ((s.granMap n).map fun g => if g = 1 then 0 else g)).flushL1 n
  else s

/-- DESCRIPTOR_COMPLETE (R604, R603, R605, R610): the running descriptor of engine `e` is complete: DONE_COUNT and the local
event counter advance, and the descriptor its NEXT names comes next. -/
def execDescriptorComplete (i n e : Nat) (s : State) : Host.Outcome State Fault Refusal :=
  .next (match tblFind i s.launches, s.ctx i n with
    | some l, some c =>
      match (portOf c e).run with
      | none => s
      | some d =>
        if dClass d.ws = 3 ∧ (if dOp d.ws = 3 then !fenceMet (setPortOf c e { portOf c e with run := none }) d else !s.opApplied i n e) then s
        else
          let w := natAt d.ws 0
          let p := { portOf c e with run := none, doneCount := (portOf c e).doneCount + 1, chain := bitOf w 8 }
          let c := setPortOf c e p
          let c := if bitOf w 9 then { c with levs := c.levs.set (bitsOf w 10 3) (c.levs.getD (bitsOf w 10 3) 0 + 1) } else c
          let s := (s.count (engBase n e + 0x104)).setCtx (ctxKey i n) c
          let s := if e = 5 then s.endStaging n else s
          if bitOf w 8 then
            let v := bitsOf (natAt d.ws 1) 16 16
            match s.nextDesc i n l c v with
            | (s, none) => s
            | (s, some none) => (s.yardTrap i n 9 v 0 d.pc).kick
            | (s, some (some ws)) =>
              if !portTakes e (dClass ws) then (s.yardTrap i n 9 v 0 d.pc).kick
              else match s.ctx i n with
                | some c => (s.setCtx (ctxKey i n) (setPortOf c e { portOf c e with next := some { d with ws := ws } })).tryStop i n
                | none => s
          else s.tryStop i n
    | _, _ => s)

/-! ### SYNC descriptors (R624) -/

/-- An inline operation of a SYNC descriptor: its form is checked, then it goes to the hub (R569, R607, R624). -/
def State.descOp (s : State) (i n e op : Nat) (kind : HubKind) : State :=
  s.beginDesc i n e 3 op fun s r _ d =>
    let ws := d.ws
    match reservedWord ws [0x1FFF3, 0xFFFFFFFF, 0x3FFF, 0xFFFFFFFF] with
    | some w => s.trapDesc r d.pc (6, w, 0)
    | none =>
      if (if op = 0 then natAt ws 3 ≠ 0 else natAt ws 3 = 0) then s.trapDesc r d.pc (6, 3, 0)
      else s.sendOp { port := 1 + n, who := .ctx i n (some e), inst := s.launchInst i, kind := kind, id := natAt ws 2, val := if op = 0 then 1 else natAt ws 3, spin := false }

/-- DESC_ARRIVE (R624): a SYNC descriptor with OP 0 at engine `e`. -/
def execDescArrive (i n e : Nat) (s : State) : Host.Outcome State Fault Refusal := .next (s.descOp i n e 0 .arrive)
/-- DESC_SIGNAL (R624): OP 1. -/
def execDescSignal (i n e : Nat) (s : State) : Host.Outcome State Fault Refusal := .next (s.descOp i n e 1 .add)
/-- DESC_CONSUME (R624): OP 2. -/
def execDescConsume (i n e : Nat) (s : State) : Host.Outcome State Fault Refusal := .next (s.descOp i n e 2 .consume)

/-- DESC_FENCE (R570, R624): OP 3: the engine holds it until the earlier descriptors of its scope are complete. -/
def execDescFence (i n e : Nat) (s : State) : Host.Outcome State Fault Refusal :=
  .next (s.beginDesc i n e 3 3 fun s r _ d =>
    match reservedWord d.ws [0x1FFF3, 0xFFFFFFFF, 0, 0, 0x3F] with
    | some w => s.trapDesc r d.pc (6, w, 0)
    | none => s)

end Sys2Proof.Machine
end

