-- ==== Sys2Proof/Machine/Engines.lean ====
section
/-! DEFINITION. What the engines compute: TE, VU and CDMA descriptors with their checks (R607 to R623). -/

set_option Elab.async false
namespace Sys2Proof.Machine

/-! ### Elements in rows -/

/-- Bytes that `n` elements of a format take. -/
def rowBytes (f n : Nat) : Nat := (n * fmtBits f + 7) / 8

/-- The bits of element `i` of a row (R612: INT4 has the lower index in bits 3:0). -/
def elemBits (f : Nat) (b : List Byte) (i : Nat) : Nat :=
  if f = 3 then bitsOf (b.getD (i / 2) 0).toNat (4 * (i % 2)) 4
  else leNat (bytesAt (b.drop (i * (fmtBits f / 8))) 0 (fmtBits f / 8))

/-- Element `i` of a row. -/
def elemAt (f : Nat) (b : List Byte) (i : Nat) : Num := decodeNum f (elemBits f b i)

/-- Pack element bits into the bytes of a row; the spare half byte of an odd INT4 row is `free`. -/
def packRow (f : Nat) (free : Nat) : List Nat → List Byte
  | [] => []
  | x :: t =>
    if f = 3 then match t with
      | y :: u => BitVec.ofNat 8 (x % 16 + 16 * (y % 16)) :: packRow f free u
      | [] => [BitVec.ofNat 8 (x % 16 + 16 * (free % 16))]
    else leBytes (fmtBits f / 8) x ++ packRow f free t

/-- Offsets of `n` rows of a stride. -/
def rowsAt (n stride : Nat) : List Nat := (List.range n).map (· * stride)

/-- Bytes from an operand's address to the end of its last row. -/
def span (n stride len : Nat) : Nat := if n = 0 then 0 else (n - 1) * stride + len

/-- A free number for element `i` of the current draw. -/
def State.freeAt (s : State) (i : Nat) : Nat := (Config.freeElem s.own.freeCtr i).toNat

/-- Add to a counter kept in units of 2^sh; the hidden key next to it holds the rest. -/
def State.countUnits (s : State) (a sh n : Nat) : State :=
  let t := (tblGet (0 : W) (a + 2) s.regs).toNat + n
  let s := s.countField a 0 32 (t / 2 ^ sh)
  { s with regs := tblSet 0 (a + 2) (BitVec.ofNat 32 (t % 2 ^ sh)) s.regs }

/-- A device-memory fault stops a TE or VU descriptor midway (R608, R609): how much of its result it had issued is open, so a
free number of its destination rows take free bytes; then the fault. -/
def State.stopMid (s : State) (r : Run) (d : Ent) (word : Nat) (p : Place) (rows : List Nat) (len : Nat) (x : Snag) : State :=
  let k := Config.freeNat s.own.freeCtr % (rows.length + 1)
  let bs := (rows.take k).zipIdx.map fun (o, j) => (o, (List.range len).map fun b => Config.freeByte (s.own.freeCtr + 1) (2 ^ 32 * j + b))
  match State.writeRows r word p bs s.bumpFree.bumpFree with
  | (s, _) => s.snag r d.pc x

/-- Write the result of a TE or VU descriptor and count its work. -/
def State.putResult (s : State) (r : Run) (d : Ent) (word : Nat) (p : Place) (rows : List (Nat × List Byte)) (sh work : Nat) : State :=
  match State.writeRows r word p rows s with
  | (s, some x) => s.snag r d.pc x
  | (s, none) => (s.countUnits (engBase r.n r.e + 0x10C) sh work).bumpFree

/-! ### The tensor engine -/

/-- The accumulator format of a combination, with whether SPARSE is allowed (R614). -/
def teCombo (a b : Nat) : Option (Nat × Bool) :=
  if a = 0 ∧ b = 0 then some (6, true)
  else if a = 0 ∧ b = 3 then some (6, false)
  else if (a = 1 ∨ a = 2) ∧ (b = 1 ∨ b = 2) then some (7, true)
  else if a = 4 ∧ b = 4 then some (7, false)
  else if a = 5 ∧ b = 5 then some (7, false)
  else none

/-- Fields of word 2 of a TE descriptor. -/
structure TeW where
  a : Nat
  b : Nat
  out : Nat
  acc : Bool
  sparse : Bool
  sat : Bool
  relu : Bool
deriving DecidableEq, Repr

/-- Word 2. -/
def teW (ws : List W) : TeW :=
  let v := natAt ws 2
  ⟨bitsOf v 0 3, bitsOf v 4 3, bitsOf v 8 3, bitOf v 12, bitOf v 13, bitOf v 14, bitOf v 15⟩

/-- The result of an accumulation (R614, R615): integers wrap modulo 2^32, floating point as `fpSum`. -/
def accumulate (accF : Nat) (free : Nat) (l : List Num) : Num :=
  if accF = 6 then
    match Num.sum l with
    | .fin neg p q => decodeNum 6 ((if neg then 2 ^ 32 - p / q % 2 ^ 32 else p / q) % 2 ^ 32)
    | x => x
  else fpSum free l

/-- The output bits of an accumulated value (R613 to R615). -/
def teOut (t : TeW) (accF : Nat) (scale : Num) (free : Nat) (v : Num) : Nat :=
  if t.acc then encodeNum accF false free (if t.relu then v.relu else v)
  else let x := v.mul scale; viaFp32 t.out t.sat free (if t.relu then x.relu else x)

/-- The metadata row stride of a sparse B (R616). -/
def metaStride (n : Nat) : Nat := ((n + 3) / 4 + 63) / 64 * 64

/-- The row of A's columns that compressed element (r, n) multiplies (R616). -/
def sparseCol (m : List Byte) (r n : Nat) : Nat := 4 * (r / 2) + bitsOf (m.getD (n / 4) 0).toNat (2 * (n % 4)) 2

/-- MATMUL (R614 to R616): engine `e` of cluster `n` begins a MATMUL descriptor of launch `i`. `err` is what the ECC checks of
its reads find. -/
def execMatmul (i n e : Nat) (err : Option (Nat × Bool)) (s : State) : Host.Outcome State Fault Refusal :=
  .next (((s.eccFind err false)).beginDesc i n e 0 0 fun s r c d =>
    let ws := d.ws
    let t := teW ws
    let m := bitsOf (natAt ws 3) 0 16
    let nn := bitsOf (natAt ws 3) 16 16
    let k := natAt ws 4
    let combo := teCombo t.a t.b
    let accF := match combo with | some (a, _) => a | none => 7
    let kr := if t.sparse then k / 2 else k
    let aRow := rowBytes t.a k
    let bRow := rowBytes t.b nn
    let oF := if t.acc then accF else t.out
    let cRow := rowBytes oF nn
    let sa := natAt ws 11
    let sb := natAt ws 12
    let sc := natAt ws 13
    let mOff := kr * sb
    let bLen := if t.sparse then mOff + span kr (metaStride nn) ((nn + 3) / 4) else span kr sb bRow
    let bad := firstTrap [
      ((reservedWord ws [0x1FFF3, 0xFFFFFFFF, 0xF777, 0xFFFFFFFF, 0xFFFF, 0xFFFFFFFF, 0xFFFFFFFF, 0xFFFFFFFF, 0xFFFFFFFF, 0xFFFFFFFF, 0xFFFFFFFF,
        0xFFFFFFFF, 0xFFFFFFFF, 0xFFFFFFFF, 0xFFFFFFFF]).isNone, (6, (reservedWord ws [0x1FFF3, 0xFFFFFFFF, 0xF777, 0xFFFFFFFF, 0xFFFF,
        0xFFFFFFFF, 0xFFFFFFFF, 0xFFFFFFFF, 0xFFFFFFFF, 0xFFFFFFFF, 0xFFFFFFFF, 0xFFFFFFFF, 0xFFFFFFFF, 0xFFFFFFFF, 0xFFFFFFFF]).getD 0, 0)),
      (combo.isSome && t.out != 3 && (!t.acc || t.out == accF), (6, 2, 0)), (decide (1 ≤ m ∧ 1 ≤ nn), (6, 3, 0)), (decide (1 ≤ k), (6, 4, 0)),
      (!t.sparse || ((match combo with | some (_, b) => b | none => false) && decide (k % 4 = 0)), (7, 0, 0))]
    match bad with
    | some x => s.trapDesc r d.pc x
    | none =>
      match placeOf r c ws 5 (span m sa aRow) true, placeOf r c ws 7 bLen true, placeOf r c ws 9 (span m sc cRow) false with
      | .error x, _, _ => s.trapDesc r d.pc x
      | _, .error x, _ => s.trapDesc r d.pc x
      | _, _, .error x => s.trapDesc r d.pc x
      | .ok pa, .ok pb, .ok pc =>
        let rows := rowsAt m sc
        match State.firstAll r [(5, pa, false), (7, pb, false), (9, pc, true)] s with
        | (s, some x) => s.snag r d.pc x
        | (s, none) =>
          match State.readRows r 5 pa aRow (rowsAt m sa) s [] with
          | (s, .error x) => s.stopMid r d 9 pc rows cRow x
          | (s, .ok la) =>
          match State.readRows r 7 pb bRow (rowsAt kr sb) s [] with
          | (s, .error x) => s.stopMid r d 9 pc rows cRow x
          | (s, .ok lb) =>
          match (if t.sparse then State.readRows r 7 (pb.plus mOff) ((nn + 3) / 4) (rowsAt kr (metaStride nn)) s [] else (s, .ok [])) with
          | (s, .error x) => s.stopMid r d 9 pc rows cRow x
          | (s, .ok lm) =>
          match (if t.acc then State.readRows r 9 pc cRow rows s [] else (s, .ok [])) with
          | (s, .error x) => s.stopMid r d 9 pc rows cRow x
          | (s, .ok lc) =>
            let scale := decodeNum 7 (natAt ws 14)
            let el (y x : Nat) : Nat :=
              let ra := la.getD y []
              let prods := (List.range kr).map fun j =>
                let col := if t.sparse then sparseCol (lm.getD j []) j x else j
                (elemAt t.a ra col).mul (elemAt t.b (lb.getD j []) x)
              let l := if t.acc then elemAt accF (lc.getD y []) x :: prods else prods
              teOut t accF scale (s.freeAt (y * nn + x)) (accumulate accF (s.freeAt (y * nn + x)) l)
            let out := (List.range m).map fun y => (y * sc, packRow oF 0 ((List.range nn).map (el y)))
            s.putResult r d 9 pc out 20 (m * nn * k))

/-- The window fields of CONV2D, DWCONV and POOL. -/
structure Conv where
  inH : Nat
  inW : Nat
  cin : Nat
  cout : Nat
  kh : Nat
  kw : Nat
  sh : Nat
  sw : Nat
  dh : Nat
  dw : Nat
  pt : Nat
  pl : Nat
  outH : Nat
  outW : Nat
deriving DecidableEq, Repr

/-- The window fields of a descriptor. -/
def convOf (ws : List W) : Conv :=
  let v (i lo n : Nat) : Nat := bitsOf (natAt ws i) lo n
  ⟨v 3 0 16, v 3 16 16, v 4 0 16, v 4 16 16, v 5 0 4 + 1, v 5 4 4 + 1, v 5 8 3 + 1, v 5 11 3 + 1, v 5 14 3 + 1, v 5 17 3 + 1, v 5 20 4, v 5 24 4,
   v 6 0 16, v 6 16 16⟩

/-- The input element under a window position of an output element; outside the input it reads zero (R617). -/
def convIn (g : Conv) (f : Nat) (img : List (List Byte)) (oy ox ky kx ch : Nat) : Num :=
  let y := oy * g.sh + ky * g.dh
  let x := ox * g.sw + kx * g.dw
  if g.pt ≤ y ∧ y - g.pt < g.inH ∧ g.pl ≤ x ∧ x - g.pl < g.inW then elemAt f (img.getD (y - g.pt) []) ((x - g.pl) * g.cin + ch) else .zero

/-- CONV2D, DWCONV and POOL (R617): `op` is 1, 2 or 3. -/
def State.convDesc (s : State) (i n e op : Nat) : State :=
  s.beginDesc i n e 0 op fun s r c d =>
    let ws := d.ws
    let t := teW ws
    let g := convOf ws
    let pool := op == 3
    let avg := pool && bitOf (natAt ws 2) 16
    let combo := if pool then some (if fmtInt t.a then 6 else 7, false) else teCombo t.a t.b
    let accF := match combo with | some (a, _) => a | none => 7
    let oF := if t.acc then accF else t.out
    let iRow := rowBytes t.a (g.inW * g.cin)
    let oRow := rowBytes oF (g.outW * g.cout)
    let wN := if pool then 0 else if op = 2 ∧ !Config.dwDense then g.kh * g.kw * g.cin else g.kh * g.kw * g.cin * g.cout
    let wLen := rowBytes t.b wN
    let si := natAt ws 13
    let so := natAt ws 14
    let masks := [0x1FFF3, 0xFFFFFFFF, if pool then 0x1D707 else 0xD777, 0xFFFFFFFF, 0xFFFFFFFF, 0xFFFFFFF, 0xFFFFFFFF, 0xFFFFFFFF, 0xFFFFFFFF,
      if pool then 0 else 0xFFFFFFFF, if pool then 0 else 0xFFFFFFFF, 0xFFFFFFFF, 0xFFFFFFFF, 0xFFFFFFFF, 0xFFFFFFFF, 0xFFFFFFFF]
    let bad := firstTrap [((reservedWord ws masks).isNone, (6, (reservedWord ws masks).getD 0, 0)),
      (combo.isSome && t.out != 3 && (!t.acc || t.out == accF), (6, 2, 0)), (op == 1 || g.cout == g.cin, (6, 4, 0))]
    match bad with
    | some x => s.trapDesc r d.pc x
    | none =>
      match placeOf r c ws 7 (span g.inH si iRow) true, (if pool then .ok (.sp 0) else placeOf r c ws 9 wLen true : Except Trap Place),
          placeOf r c ws 11 (span g.outH so oRow) false with
      | .error x, _, _ => s.trapDesc r d.pc x
      | _, .error x, _ => s.trapDesc r d.pc x
      | _, _, .error x => s.trapDesc r d.pc x
      | .ok pi, .ok pw, .ok po =>
        let rows := rowsAt g.outH so
        match State.firstAll r ([(7, pi, false)] ++ (if pool then [] else [(9, pw, false)]) ++ [(11, po, true)]) s with
        | (s, some x) => s.snag r d.pc x
        | (s, none) =>
          match State.readRows r 7 pi iRow (rowsAt g.inH si) s [] with
          | (s, .error x) => s.stopMid r d 11 po rows oRow x
          | (s, .ok img) =>
          match (if pool then (s, .ok []) else s.readAt r 9 pw wLen) with
          | (s, .error x) => s.stopMid r d 11 po rows oRow x
          | (s, .ok wt) =>
          match (if t.acc then State.readRows r 11 po oRow rows s [] else (s, .ok [])) with
          | (s, .error x) => s.stopMid r d 11 po rows oRow x
          | (s, .ok old) =>
            let win := (List.range g.kh).flatMap fun ky => (List.range g.kw).map fun kx => (ky, kx)
            let scale := if pool && !Config.poolScale then .fin false 1 1 else decodeNum 7 (natAt ws 15)
            let el (y x co : Nat) : Nat :=
              let fr := s.freeAt ((y * g.outW + x) * g.cout + co)
              let terms : List Num :=
                if pool then win.map fun (ky, kx) => convIn g t.a img y x ky kx co
                else if op = 2 then win.map fun (ky, kx) =>
                  let wi := (ky * g.kw + kx) * g.cin + co
                  (convIn g t.a img y x ky kx co).mul (elemAt t.b wt (if Config.dwDense then wi * g.cout + co else wi))
                else win.flatMap fun (ky, kx) => (List.range g.cin).map fun ci =>
                  (convIn g t.a img y x ky kx ci).mul (elemAt t.b wt (((ky * g.kw + kx) * g.cin + ci) * g.cout + co))
              let prev := elemAt accF (old.getD y []) (x * g.cout + co)
              let v :=
                if pool then
                  let w := if avg then (accumulate accF fr terms).divNat (g.kh * g.kw) else (terms.drop 1).foldl Num.max (terms.headD .zero)
                  if t.acc then accumulate accF fr [prev, w] else w
                else accumulate accF fr (if t.acc then prev :: terms else terms)
              teOut t accF scale fr v
            let out := (List.range g.outH).map fun y =>
              (y * so, packRow oF 0 ((List.range g.outW).flatMap fun x => (List.range g.cout).map fun co => el y x co))
            s.putResult r d 11 po out 20 (g.outH * g.outW * g.cout * g.kh * g.kw * (if op = 1 then g.cin else 1))

/-- CONV2D (R617). -/
def execConv2d (i n e : Nat) (err : Option (Nat × Bool)) (s : State) : Host.Outcome State Fault Refusal :=
  .next ((s.eccFind err false).convDesc i n e 1)
/-- DWCONV (R617). -/
def execDwconv (i n e : Nat) (err : Option (Nat × Bool)) (s : State) : Host.Outcome State Fault Refusal :=
  .next ((s.eccFind err false).convDesc i n e 2)
/-- POOL (R617). -/
def execPool (i n e : Nat) (err : Option (Nat × Bool)) (s : State) : Host.Outcome State Fault Refusal :=
  .next ((s.eccFind err false).convDesc i n e 3)

/-! ### The vector unit -/

/-- The shape of a VU descriptor. -/
structure Vu where
  func : Nat
  inF : Nat
  outF : Nat
  sat : Bool
  axis : Bool
  x : Nat
  y : Nat
  z : Nat
  imm : W
  zp : Int
deriving DecidableEq, Repr

/-- The fields of a VU descriptor. -/
def vuOf (ws : List W) : Vu :=
  let v := natAt ws 2
  { func := bitsOf v 0 4, inF := bitsOf v 4 3, outF := bitsOf v 8 3, sat := bitOf v 11, axis := bitOf v 12
    x := bitsOf (natAt ws 3) 0 16, y := bitsOf (natAt ws 3) 16 16, z := bitsOf (natAt ws 4) 0 16, imm := wordAt ws 14
    zp := if bitOf (natAt ws 15) 15 then (natAt ws 15 % 2 ^ 16 : Int) - 2 ^ 16 else (natAt ws 15 % 2 ^ 16 : Int) }

/-- Words of a VU descriptor outside its reserved bits. -/
def vuMasks : List Nat :=
  [0x1FFF3, 0xFFFFFFFF, 0x1F7F, 0xFFFFFFFF, 0xFFFF, 0xFFFFFFFF, 0xFFFFFFFF, 0xFFFFFFFF, 0xFFFFFFFF, 0xFFFFFFFF, 0xFFFFFFFF, 0xFFFFFFFF, 0xFFFFFFFF,
   0xFFFFFFFF, 0xFFFFFFFF, 0xFFFF]

/-- The functions a VU OP lists. -/
def vuFuncs (op : Nat) : Nat := match op with | 0 => 15 | 1 => 6 | 2 => 1 | 3 => 4 | _ => 1

/-- Whether a function takes SRC1 (R618: a unary function requires SRC1 to be zero). -/
def vuBinary (op func : Nat) : Bool :=
  match op with
  | 0 => decide (func ≤ 5 ∨ func = 12 ∨ func = 14)
  | 1 => func == 5
  | 4 => true
  | _ => false

/-- Whether a function reads DST. -/
def vuReadsDst (op func : Nat) : Bool := op == 0 && (func == 5 || func == 14)

/-- The checks of a VU descriptor that do not name an operand (R607, R618, R619). -/
def vuBad (op : Nat) (ws : List W) : Option Trap :=
  let v := vuOf ws
  firstTrap [((reservedWord ws vuMasks).isNone, (6, (reservedWord ws vuMasks).getD 0, 0)), (decide (v.func < vuFuncs op), (6, 2, 0)),
    ((v.inF != 3 && v.outF != 3) || op == 2 || (op == 3 && v.func == 0) || (op == 1 && 4 ≤ v.func), (6, 2, 0)),
    (!(op == 1 && v.func == 4) || v.axis, (6, 2, 0)), (decide (1 ≤ v.x ∧ 1 ≤ v.y), (6, 3, 0)), (decide (1 ≤ v.z), (6, 4, 0)),
    (vuBinary op v.func || (natAt ws 7 == 0 && natAt ws 8 == 0), (6, 7, 0))]

/-- Sizes of the rows of the operands of a VU descriptor, in bytes: SRC0, SRC1, DST, and how many rows each has. -/
def vuRows (op : Nat) (v : Vu) : (Nat × Nat) × (Nat × Nat) × (Nat × Nat) :=
  let n := v.y * v.z
  let dst := (rowBytes v.outF v.x, n)
  match op, v.func with
  | 1, 4 => ((v.x, n), (0, 0), (4, 1))
  | 1, 5 => ((4, 1), (4, 1), (4, 1))
  | 1, _ => ((rowBytes v.inF v.x, n), (0, 0), (rowBytes v.outF 1, if v.axis then 1 else n))
  | 3, 1 => ((rowBytes v.inF v.x, n), (0, 0), (rowBytes v.outF v.y, v.x * v.z))
  | 3, 2 => ((rowBytes v.inF (4 * v.x), n), (0, 0), (4 * v.x, n))
  | 3, 3 => ((4 * v.x, n), (0, 0), (rowBytes v.outF (4 * v.x), n))
  | 4, _ => if Config.gatherFlat then ((rowBytes v.inF v.imm.toNat, 1), (4 * v.x, n), dst)
      else ((rowBytes v.inF v.x, (v.imm.toNat + v.x - 1) / v.x), (4 * v.x, n), dst)
  | _, _ => ((rowBytes v.inF v.x, n), (rowBytes v.inF v.x, n), dst)

/-- An input of the VU as FP32 (R618); with 16-bit formats on both sides it stays as it is. -/
def vuIn (v : Vu) (x : Num) : Num := if v.inF = v.outF ∧ (v.inF = 4 ∨ v.inF = 5) then x else roundTo 7 x

/-- The format an ELTWISE function is computed in (R618). -/
def vuFmt (v : Vu) : Nat := if v.inF = v.outF ∧ (v.inF = 4 ∨ v.inF = 5) ∧ v.func ≤ 6 then v.inF else 7

/-- The square root of a rational, close enough to round to FP32: with 2^80 steps to the unit of its scale. -/
def sqrtQ (p q : Nat) : Num := .fin false (Nat.sqrt (2 ^ 400 * p / q)) (2 ^ 200)

/-- A function with an error bound (R618): within one unit of the rounded result for RECIP and RSQRT; open for EXP, SIGMOID
and TANH, for a zero or an infinite operand and for RSQRT of a negative one. A NaN gives a NaN. -/
def vuApprox (func free : Nat) (x : Num) : Num :=
  let op := decodeFp 7 (Config.vuFunc func (encodeNum 7 false 0 x))
  match x with
  | .nan => .nan
  | .inf _ => op
  | .fin neg p q =>
    if p = 0 then op
    else if func = 8 then nearFp32 free (.fin neg q p)
    else if func = 9 ∧ !neg then nearFp32 free (sqrtQ q p)
    else op

/-- An ELTWISE function on one element: SRC0, SRC1, the old DST (R618). -/
def eltwise (v : Vu) (free : Nat) (a b old : Num) : Num :=
  let f := vuFmt v
  let imm := decodeNum 7 v.imm.toNat
  match v.func with
  | 0 => roundTo f (a.add b)
  | 1 => roundTo f (a.add b.neg)
  | 2 => roundTo f (a.mul b)
  | 3 => a.max b
  | 4 => a.min b
  | 5 => mulAdd f free a b old
  | 6 => a.relu
  | 12 => mulAdd f free a imm b
  | 13 => a.abs
  | k => vuApprox k free a

/-- A reduction of a list (R619). -/
def reduce (func free : Nat) (l : List Num) : Num :=
  match func with
  | 0 => fpSum free l
  | 1 => (l.drop 1).foldl Num.max (l.headD .zero)
  | 2 => (l.drop 1).foldl Num.min (l.headD .zero)
  | _ => fpSum free (l.map fun x => x.mul x)

/-- A channel packed into `n` steps: clamped to 0 to 1 and rounded (R620). A NaN is open. -/
def packChan (steps free : Nat) (x : Num) : Nat :=
  match x with
  | .nan => free % (steps + 1)
  | .inf neg => if neg then 0 else steps
  | .fin neg p q => if neg then 0 else min steps (roundQ (p * steps) q)

/-- The rows a VU descriptor writes, from the rows it read (R618 to R621). -/
def vuOut (op : Nat) (v : Vu) (free : Nat → Nat) (l0 l1 old : List (List Byte)) : List (List Byte) :=
  let n := v.y * v.z
  let src (r x : Nat) : Num := vuIn v (elemAt v.inF (l0.getD r []) x)
  let enc (i : Nat) (y : Num) : Nat := encodeNum v.outF v.sat (free i) y
  match op with
  | 0 => (List.range n).map fun r => packRow v.outF 0 ((List.range v.x).map fun x =>
      let i := r * v.x + x
      let b := vuIn v (elemAt v.inF (l1.getD r []) x)
      if v.func = 14 then (if Num.lt .zero b then enc i (src r x) else elemBits v.outF (old.getD r []) x)
      else enc i (eltwise v (free i) (src r x) b (vuIn v (elemAt v.outF (old.getD r []) x))))
  | 1 =>
    if v.func = 4 then [leBytes 4 (crcRun v.imm l0.flatten).toNat]
    else if v.func = 5 then
      [leBytes 4 (crcCombine (BitVec.ofNat 32 (leNat (l0.getD 0 []))) (BitVec.ofNat 32 (leNat (l1.getD 0 []))) v.imm.toNat).toNat]
    else
      let row (r : Nat) : List Num := (List.range v.x).map (src r)
      if v.axis then [packRow v.outF (free 0) [enc 0 (reduce v.func (free 0) ((List.range n).flatMap row))]]
      else (List.range n).map fun r => packRow v.outF (free r) [enc r (reduce v.func (free r) (row r))]
  | 2 => (List.range n).map fun r => packRow v.outF (free r) ((List.range v.x).map fun x =>
      enc (r * v.x + x) (mulAdd 7 (free (r * v.x + x)) (src r x) (decodeNum 7 v.imm.toNat) (Num.ofInt v.zp)))
  | 3 => match v.func with
    | 0 => (List.range n).map fun r => packRow v.outF (free r) ((List.range v.x).map fun x => viaFp32 v.outF v.sat (free (r * v.x + x)) (elemAt v.inF (l0.getD r []) x))
    | 1 => (List.range (v.x * v.z)).map fun q =>
        let p := q / v.x
        packRow v.outF 0 ((List.range v.y).map fun y => viaFp32 v.outF v.sat (free (q * v.y + y)) (elemAt v.inF (l0.getD (p * v.y + y) []) (q % v.x)))
    | 2 => (List.range n).map fun r => (List.range v.x).flatMap fun x =>
        let ch (k steps : Nat) : Nat := packChan steps (free ((r * v.x + x) * 4 + k)) (elemAt v.inF (l0.getD r []) (4 * x + k))
        leBytes 4 (ch 0 1023 + 2 ^ 10 * ch 1 1023 + 2 ^ 20 * ch 2 1023 + 2 ^ 30 * ch 3 3)
    | _ => (List.range n).map fun r => packRow v.outF 0 ((List.range v.x).flatMap fun x =>
        let w := leNat (bytesAt (l0.getD r []) (4 * x) 4)
        (List.range 4).map fun k =>
          let y : Num := if k = 3 then .fin false (bitsOf w 30 2) 3 else .fin false (bitsOf w (10 * k) 10) 1023
          viaFp32 v.outF v.sat (free ((r * v.x + x) * 4 + k)) y)
  | _ => (List.range n).map fun r => packRow v.outF 0 ((List.range v.x).map fun x =>
      let j := leNat (bytesAt (l1.getD r []) (4 * x) 4)
      if 2 ^ 31 ≤ j ∨ v.imm.toNat ≤ j then 0
      else enc (r * v.x + x) (if Config.gatherFlat then vuIn v (elemAt v.inF (l0.getD 0 []) j) else src (j / v.x) (j % v.x)))

/-- How many indexes of a GATHER lie outside SRC0 (R621). -/
def gatherOob (v : Vu) (l1 : List (List Byte)) : Nat :=
  ((List.range (v.y * v.z)).map fun r => ((List.range v.x).filter fun x =>
    let j := leNat (bytesAt (l1.getD r []) (4 * x) 4)
    decide (2 ^ 31 ≤ j ∨ v.imm.toNat ≤ j)).length).sum

/-- A VU descriptor of an OP (R607, R618 to R621). -/
def State.vuDesc (s : State) (i n e op : Nat) : State :=
  s.beginDesc i n e 1 op fun s r c d =>
    let ws := d.ws
    let v := vuOf ws
    match vuBad op ws with
    | some x => s.trapDesc r d.pc x
    | none =>
      let rr := vuRows op v
      let bin := vuBinary op v.func
      match placeOf r c ws 5 (span rr.1.2 (natAt ws 11) rr.1.1) true,
          (if bin then placeOf r c ws 7 (span rr.2.1.2 (natAt ws 12) rr.2.1.1) true else .ok (.sp 0) : Except Trap Place),
          placeOf r c ws 9 (span rr.2.2.2 (natAt ws 13) rr.2.2.1) false with
      | .error x, _, _ => s.trapDesc r d.pc x
      | _, .error x, _ => s.trapDesc r d.pc x
      | _, _, .error x => s.trapDesc r d.pc x
      | .ok p0, .ok p1, .ok pd =>
        let rows := rowsAt rr.2.2.2 (natAt ws 13)
        match State.firstAll r ([(5, p0, false)] ++ (if bin then [(7, p1, false)] else []) ++ [(9, pd, true)]) s with
        | (s, some x) => s.snag r d.pc x
        | (s, none) =>
          match State.readRows r 5 p0 rr.1.1 (rowsAt rr.1.2 (natAt ws 11)) s [] with
          | (s, .error x) => s.stopMid r d 9 pd rows rr.2.2.1 x
          | (s, .ok l0) =>
          match (if bin then State.readRows r 7 p1 rr.2.1.1 (rowsAt rr.2.1.2 (natAt ws 12)) s [] else (s, .ok [])) with
          | (s, .error x) => s.stopMid r d 9 pd rows rr.2.2.1 x
          | (s, .ok l1) =>
          match (if vuReadsDst op v.func then State.readRows r 9 pd rr.2.2.1 rows s [] else (s, .ok [])) with
          | (s, .error x) => s.stopMid r d 9 pd rows rr.2.2.1 x
          | (s, .ok old) =>
            let s := if op = 4 then s.countField (engBase n e + 0x110) 0 16 (gatherOob v l1) else s
            s.putResult r d 9 pd (rows.zip (vuOut op v s.freeAt l0 l1 old)) 10 (v.x * v.y * v.z)

/-- ELTWISE (R618): engine `e` of cluster `n` begins an ELTWISE descriptor of launch `i`. -/
def execEltwise (i n e : Nat) (err : Option (Nat × Bool)) (s : State) : Host.Outcome State Fault Refusal :=
  .next ((s.eccFind err false).vuDesc i n e 0)
/-- REDUCE (R619). -/
def execReduce (i n e : Nat) (err : Option (Nat × Bool)) (s : State) : Host.Outcome State Fault Refusal :=
  .next ((s.eccFind err false).vuDesc i n e 1)
/-- QUANT (R618). -/
def execQuant (i n e : Nat) (err : Option (Nat × Bool)) (s : State) : Host.Outcome State Fault Refusal :=
  .next ((s.eccFind err false).vuDesc i n e 2)
/-- TRANSFORM (R620). -/
def execTransform (i n e : Nat) (err : Option (Nat × Bool)) (s : State) : Host.Outcome State Fault Refusal :=
  .next ((s.eccFind err false).vuDesc i n e 3)
/-- GATHER (R621). -/
def execGather (i n e : Nat) (err : Option (Nat × Bool)) (s : State) : Host.Outcome State Fault Refusal :=
  .next ((s.eccFind err false).vuDesc i n e 4)

/-! ### The CDMA -/

/-- The geometry of a MOVE, MOVE2D or MOVE4D. -/
def moveGeo (op : Nat) (ws : List W) : Geo :=
  let k := match op with | 0 => 0 | 1 => 1 | _ => 3
  let cs := [bitsOf (natAt ws 7) 0 16, bitsOf (natAt ws 7) 16 16, bitsOf (natAt ws 8) 0 16].take k
  { size0 := natAt ws 2, src := cs.zip [natAt ws 9, natAt ws 11, natAt ws 13], dst := cs.zip [natAt ws 10, natAt ws 12, natAt ws 14] }

/-- The checks of a move's form (R622). -/
def moveBad (op : Nat) (ws : List W) : Option Trap :=
  let g := moveGeo op ws
  let z (i : Nat) : Bool := natAt ws i == 0
  let c1 := bitsOf (natAt ws 7) 0 16
  let c2 := bitsOf (natAt ws 7) 16 16
  let c3 := bitsOf (natAt ws 8) 0 16
  let masks := [0x1FFF3, 0xFFFFFFFF, 0xFFFFFFFF, 0xFFFFFFFF, 0xFFFFFFFF, 0xFFFFFFFF, 0xFFFFFFFF, 0xFFFFFFFF, 0xFFFF, 0xFFFFFFFF, 0xFFFFFFFF, 0xFFFFFFFF,
    0xFFFFFFFF, 0xFFFFFFFF, 0xFFFFFFFF]
  firstTrap [((reservedWord ws masks).isNone, (6, (reservedWord ws masks).getD 0, 0)), (!z 2, (6, 2, 0)),
    ((match op with | 0 => z 7 | 1 => decide (1 ≤ c1 ∧ c2 = 0) | _ => decide (1 ≤ c1 ∧ 1 ≤ c2)), (6, 7, 0)),
    ((match op with | 2 => decide (1 ≤ c3) | _ => z 8), (6, 8, 0)),
    (op != 0 || (z 9 && z 10), (6, 9, 0)), (op == 2 || (z 11 && z 12), (6, 11, 0)), (op == 2 || (z 13 && z 14), (6, 13, 0)),
    (decide (g.dst.foldl (fun t (c, _) => t * c) g.size0 ≤ 2 ^ 40), (6, 2, 0)), (nested g.size0 g.dst, (6, 10, 0))]

/-- The flat address of a place in its own space. -/
def placeAddr : Place → Nat
  | .sp a => a
  | .dev a _ => a

/-- Whether two places lie in one space (R623). -/
def sameSpace : Place → Place → Bool
  | .sp _, .sp _ => true
  | .dev _ _, .dev _ _ => true
  | _, _ => false

/-- Read the pieces of a move in traversal order: offsets in source and destination, bytes. Stops at the first refusal. -/
def State.moveRead (r : Run) (p : Place) : List (Nat × Nat × Nat) → State → List (Nat × List Byte) → State × List (Nat × List Byte) × Option Snag
  | [], s, acc => (s, acc.reverse, none)
  | (so, o, n) :: t, s, acc => match s.readAt r 3 (p.plus so) n with
    | (s, .error x) => (s, acc.reverse, some x)
    | (s, .ok b) => State.moveRead r p t s ((o, b) :: acc)

/-- Cut the rows of a move at 4 KiB of its source. -/
def movePieces (src : Nat) (g : Geo) : List (Nat × Nat × Nat) :=
  ((rowOffsets g.src).zip (rowOffsets g.dst)).flatMap fun (so, o) =>
    (cutRange g.size0 (g.size0 / 4096 + 2) (src + so) 0 g.size0).map fun (x, n) => (so + x, o + x, n)

/-- MOVE, MOVE2D and MOVE4D (R622, R623): `op` is 0, 1 or 2. -/
def State.moveDesc (s : State) (i n e op : Nat) : State :=
  s.beginDesc i n e 2 op fun s r c d =>
    let ws := d.ws
    let g := moveGeo op ws
    match moveBad op ws with
    | some x => s.trapDesc r d.pc x
    | none =>
      match placeOf r c ws 3 (extent g.size0 g.src) true, placeOf r c ws 5 (extent g.size0 g.dst) false with
      | .error x, _ => s.trapDesc r d.pc x
      | _, .error x => s.trapDesc r d.pc x
      | .ok ps, .ok pd =>
        match State.firstAll r [(3, ps, false), (5, pd, true)] s with
        | (s, some x) => s.snag r d.pc x
        | (s, none) =>
          let cap := if s.spUsed n ≤ 10 then 0x100000 else 0
          let hd := handling (placeAddr ps) (placeAddr pd) g (!sameSpace ps pd) cap
          if hd = .unsafe_ then (((s.count (engBase n e + 0x114)).count (yardBase n + 0x130)).launchFault i 0x0203 0 (engBase n e)).kick
          else
            let s := if hd = .staged then
                let m := s.granMap n
                let top := ((List.range 12).filter fun j => m.getD j 0 = 0).getLast?
                let s := (s.countField (engBase n e + 0x110) 0 16 1).setCluster n { s.cluster n with staging := true }
                (match top with | some j => s.setGranMap n (m.set j 1) | none => s).flushL1 n
              else if hd = .reversed then s.countField (engBase n e + 0x110) 16 16 1 else s
            let pcs := movePieces (placeAddr ps) g
            let pcs := if hd = .reversed then pcs.reverse else pcs
            match State.moveRead r ps pcs s [] with
            | (s, bs, st) =>
              match State.writeRows r 5 pd bs s, st with
              | (s, some x), _ => s.snag r d.pc x
              | (s, none), some x => s.snag r d.pc x
              | (s, none), none => s.countUnits (engBase n e + 0x10C) 10 ((bs.map fun x => x.2.length).sum)

/-- MOVE (R622): engine `e` of cluster `n` begins a MOVE descriptor of launch `i`. -/
def execMove (i n e : Nat) (err : Option (Nat × Bool)) (s : State) : Host.Outcome State Fault Refusal :=
  .next ((s.eccFind err false).moveDesc i n e 0)
/-- MOVE2D (R623). -/
def execMove2d (i n e : Nat) (err : Option (Nat × Bool)) (s : State) : Host.Outcome State Fault Refusal :=
  .next ((s.eccFind err false).moveDesc i n e 1)
/-- MOVE4D (R623). -/
def execMove4d (i n e : Nat) (err : Option (Nat × Bool)) (s : State) : Host.Outcome State Fault Refusal :=
  .next ((s.eccFind err false).moveDesc i n e 2)

end Sys2Proof.Machine
end

