-- ==== Sys2Proof/Machine/Ccc.lean ====
section
/-! DEFINITION. The CCC's own program: RV32IMAC in user mode over the CCC local map (R596 to R602, R629). The instruction set itself
is the RISC-V standard's, which the spec names and does not repeat. -/

set_option Elab.async false
namespace Sys2Proof.Machine

/-! ### Instructions -/

/-- An instruction of RV32IMAC, compressed forms expanded. Registers are numbers 0 to 31; `f` is the standard's funct3 or funct5. -/
inductive Rv
  | lui (rd : Nat) (imm : W)
  | auipc (rd : Nat) (imm : W)
  | jal (rd : Nat) (off : W)
  | jalr (rd rs : Nat) (imm : W)
  | branch (f rs1 rs2 : Nat) (off : W)
  | load (f rd rs : Nat) (imm : W)
  | store (f rs1 rs2 : Nat) (imm : W)
  | aluImm (f : Nat) (alt : Bool) (rd rs : Nat) (imm : W)
  | alu (f : Nat) (alt : Bool) (rd rs1 rs2 : Nat)
  | mulDiv (f rd rs1 rs2 : Nat)
  | lr (rd rs : Nat)
  | sc (rd rs1 rs2 : Nat)
  | amo (f rd rs1 rs2 : Nat)
  | fence
  | csr (num rd : Nat)
  | ecall
  | ebreak
deriving DecidableEq, Repr

/-- A two's-complement field of a width as a word. -/
def sxt (bits v : Nat) : W := (BitVec.ofNat bits v).signExtend 32

/-- The counters a program may read (R629): cycle, time, instret and their high halves. -/
def readableCsr (n : Nat) : Bool := [0xC00, 0xC01, 0xC02, 0xC80, 0xC81, 0xC82].contains n

/-- Decode a 32-bit instruction of the standard; none where it is illegal here (R629). -/
def decode32 (w : Nat) : Option Rv :=
  let rd := bitsOf w 7 5
  let f3 := bitsOf w 12 3
  let rs1 := bitsOf w 15 5
  let rs2 := bitsOf w 20 5
  let f7 := bitsOf w 25 7
  let immI := sxt 12 (bitsOf w 20 12)
  let immU := BitVec.ofNat 32 (2 ^ 12 * bitsOf w 12 20)
  match bitsOf w 0 7 with
  | 0x37 => some (.lui rd immU)
  | 0x17 => some (.auipc rd immU)
  | 0x6F => some (.jal rd (sxt 21 (2 ^ 20 * bitsOf w 31 1 + 2 ^ 12 * bitsOf w 12 8 + 2 ^ 11 * bitsOf w 20 1 + bitsOf w 21 10 * 2)))
  | 0x67 => if f3 = 0 then some (.jalr rd rs1 immI) else none
  | 0x63 => if f3 = 2 ∨ f3 = 3 then none
    else some (.branch f3 rs1 rs2 (sxt 13 (2 ^ 12 * bitsOf w 31 1 + 2 ^ 11 * bitsOf w 7 1 + 2 ^ 5 * bitsOf w 25 6 + bitsOf w 8 4 * 2)))
  | 0x03 => if f3 = 3 ∨ 5 < f3 then none else some (.load f3 rd rs1 immI)
  | 0x23 => if 2 < f3 then none else some (.store f3 rs1 rs2 (sxt 12 (2 ^ 5 * f7 + rd)))
  | 0x13 =>
    if f3 = 1 then (if f7 = 0 then some (.aluImm 1 false rd rs1 (BitVec.ofNat 32 rs2)) else none)
    else if f3 = 5 then (if f7 = 0 ∨ f7 = 0x20 then some (.aluImm 5 (decide (f7 = 0x20)) rd rs1 (BitVec.ofNat 32 rs2)) else none)
    else some (.aluImm f3 false rd rs1 immI)
  | 0x33 =>
    if f7 = 0 then some (.alu f3 false rd rs1 rs2)
    else if f7 = 0x20 ∧ (f3 = 0 ∨ f3 = 5) then some (.alu f3 true rd rs1 rs2)
    else if f7 = 1 then some (.mulDiv f3 rd rs1 rs2)
    else none
  | 0x0F => if f3 = 0 then some .fence else none
  | 0x73 =>
    if w = 0x73 then some .ecall
    else if w = 0x100073 then some .ebreak
    else if (f3 = 2 ∨ f3 = 3 ∨ f3 = 6 ∨ f3 = 7) ∧ rs1 = 0 ∧ readableCsr (bitsOf w 20 12) then some (.csr (bitsOf w 20 12) rd)
    else none
  | 0x2F =>
    let f5 := bitsOf w 27 5
    if f3 ≠ 2 then none
    else if f5 = 2 then (if rs2 = 0 then some (.lr rd rs1) else none)
    else if f5 = 3 then some (.sc rd rs1 rs2)
    else if [0, 1, 4, 8, 12, 16, 20, 24, 28].contains f5 then some (.amo f5 rd rs1 rs2)
    else none
  | _ => none

/-- Decode a compressed instruction of the standard (RV32C without floating point); none where it is illegal here. -/
def decode16 (h : Nat) : Option Rv :=
  let rdS := 8 + bitsOf h 2 3
  let rsS := 8 + bitsOf h 7 3
  let rd := bitsOf h 7 5
  let rs2 := bitsOf h 2 5
  let imm6 := sxt 6 (2 ^ 5 * bitsOf h 12 1 + bitsOf h 2 5)
  let lwOff := BitVec.ofNat 32 (2 ^ 3 * bitsOf h 10 3 + 2 ^ 2 * bitsOf h 6 1 + 2 ^ 6 * bitsOf h 5 1)
  let jOff := sxt 12 (2 ^ 11 * bitsOf h 12 1 + 2 ^ 4 * bitsOf h 11 1 + 2 ^ 8 * bitsOf h 9 2 + 2 ^ 10 * bitsOf h 8 1 + 2 ^ 6 * bitsOf h 7 1 +
    2 ^ 7 * bitsOf h 6 1 + bitsOf h 3 3 * 2 + 2 ^ 5 * bitsOf h 2 1)
  let bOff := sxt 9 (2 ^ 8 * bitsOf h 12 1 + 2 ^ 3 * bitsOf h 10 2 + 2 ^ 6 * bitsOf h 5 2 + bitsOf h 3 2 * 2 + 2 ^ 5 * bitsOf h 2 1)
  match bitsOf h 0 2, bitsOf h 13 3 with
  | 0, 0 =>
    let v := 2 ^ 4 * bitsOf h 11 2 + 2 ^ 6 * bitsOf h 7 4 + 2 ^ 2 * bitsOf h 6 1 + 2 ^ 3 * bitsOf h 5 1
    if v = 0 then none else some (.aluImm 0 false rdS 2 (BitVec.ofNat 32 v))
  | 0, 2 => some (.load 2 rdS rsS lwOff)
  | 0, 6 => some (.store 2 rsS rdS lwOff)
  | 1, 0 => some (.aluImm 0 false rd rd imm6)
  | 1, 1 => some (.jal 1 jOff)
  | 1, 2 => some (.aluImm 0 false rd 0 imm6)
  | 1, 3 =>
    if rd = 2 then
      let v := 2 ^ 9 * bitsOf h 12 1 + 2 ^ 4 * bitsOf h 6 1 + 2 ^ 6 * bitsOf h 5 1 + 2 ^ 7 * bitsOf h 3 2 + 2 ^ 5 * bitsOf h 2 1
      if v = 0 then none else some (.aluImm 0 false 2 2 (sxt 10 v))
    else
      let v := 2 ^ 17 * bitsOf h 12 1 + 2 ^ 12 * bitsOf h 2 5
      if v = 0 then none else some (.lui rd (sxt 18 v))
  | 1, 4 => match bitsOf h 10 2 with
    | 0 => if bitOf h 12 then none else some (.aluImm 5 false rsS rsS (BitVec.ofNat 32 rs2))
    | 1 => if bitOf h 12 then none else some (.aluImm 5 true rsS rsS (BitVec.ofNat 32 rs2))
    | 2 => some (.aluImm 7 false rsS rsS imm6)
    | _ =>
      if bitOf h 12 then none
      else match bitsOf h 5 2 with
        | 0 => some (.alu 0 true rsS rsS rdS)
        | 1 => some (.alu 4 false rsS rsS rdS)
        | 2 => some (.alu 6 false rsS rsS rdS)
        | _ => some (.alu 7 false rsS rsS rdS)
  | 1, 5 => some (.jal 0 jOff)
  | 1, 6 => some (.branch 0 rsS 0 bOff)
  | 1, 7 => some (.branch 1 rsS 0 bOff)
  | 2, 0 => if bitOf h 12 then none else some (.aluImm 1 false rd rd (BitVec.ofNat 32 rs2))
  | 2, 2 =>
    if rd = 0 then none
    else some (.load 2 rd 2 (BitVec.ofNat 32 (2 ^ 5 * bitsOf h 12 1 + 2 ^ 2 * bitsOf h 4 3 + 2 ^ 6 * bitsOf h 2 2)))
  | 2, 4 =>
    if bitOf h 12 then
      if rs2 ≠ 0 then some (.alu 0 false rd rd rs2) else if rd = 0 then some .ebreak else some (.jalr 1 rd 0)
    else if rs2 ≠ 0 then some (.alu 0 false rd 0 rs2)
    else if rd = 0 then none else some (.jalr 0 rd 0)
  | 2, 6 => some (.store 2 2 rs2 (BitVec.ofNat 32 (2 ^ 2 * bitsOf h 9 4 + 2 ^ 6 * bitsOf h 7 2)))
  | _, _ => none

/-- The integer operations of the standard by funct3; `alt` is SUB or SRA. -/
def aluOp (f : Nat) (alt : Bool) (a b : W) : W :=
  let sh := b.toNat % 32
  match f with
  | 0 => if alt then a - b else a + b
  | 1 => a <<< sh
  | 2 => if a.slt b then 1 else 0
  | 3 => if a.ult b then 1 else 0
  | 4 => a ^^^ b
  | 5 => if alt then a.sshiftRight sh else a >>> sh
  | 6 => a ||| b
  | _ => a &&& b

/-- The operations of the M extension by funct3. -/
def mulDivOp (f : Nat) (a b : W) : W :=
  let hi (x y : W64) : W := ((x * y) >>> 32).truncate 32
  match f with
  | 0 => a * b
  | 1 => hi (a.signExtend 64) (b.signExtend 64)
  | 2 => hi (a.signExtend 64) (b.zeroExtend 64)
  | 3 => hi (a.zeroExtend 64) (b.zeroExtend 64)
  | 4 => if b = 0 then BitVec.allOnes 32 else a.sdiv b
  | 5 => if b = 0 then BitVec.allOnes 32 else a / b
  | 6 => if b = 0 then a else a.srem b
  | _ => if b = 0 then a else a % b

/-- The operations of the A extension by funct5: memory word, register. -/
def amoOp (f : Nat) (m r : W) : W :=
  match f with
  | 0 => m + r
  | 1 => r
  | 4 => m ^^^ r
  | 8 => m ||| r
  | 12 => m &&& r
  | 16 => if m.slt r then m else r
  | 20 => if m.slt r then r else m
  | 24 => if m.ult r then m else r
  | _ => if m.ult r then r else m

/-- Whether a branch is taken, by funct3. -/
def taken (f : Nat) (a b : W) : Bool :=
  match f with
  | 0 => a == b
  | 1 => a != b
  | 4 => a.slt b
  | 5 => !a.slt b
  | 6 => a.ult b
  | _ => !a.ult b

/-! ### The local map (R596) -/

/-- The ranges of the local map. -/
inductive LocalRange
  | sp
  | snap
  | abi
  | sram
  | image
  | ports
deriving DecidableEq, Repr

/-- The range that holds `w` bytes at a local address; none where they lie outside every range. -/
def rangeOf (l : Launch) (c : Ctx) (a w : Nat) : Option LocalRange :=
  if a + w ≤ 0x100000 * c.gran then some .sp
  else if 0xF00000 ≤ a ∧ a + w ≤ 0xF01000 then some .snap
  else if 0xF10000 ≤ a ∧ a + w ≤ 0xF11000 then some .abi
  else if 0x10000000 ≤ a ∧ a + w ≤ 0x10004000 then some .sram
  else if 0x20000000 ≤ a ∧ a + w ≤ 0x20000000 + 4096 * l.imageSize then some .image
  else if 0x40000000 ≤ a ∧ a + w ≤ 0x40001000 then some .ports
  else none

/-- Whether a port register may be read: its word offset (port table). -/
def portReads (o : Nat) : Bool :=
  (decide (o < 0x300) && [0x44, 0x48].contains (o % 0x80)) || (decide (0x400 ≤ o ∧ o < 0x420)) || [0x510, 0x604, 0x700, 0x704].contains o

/-- Whether a port register may be written. -/
def portWrites (o : Nat) : Bool :=
  (decide (o < 0x300) && (decide (o % 0x80 ≤ 0x40) || o % 0x80 == 0x4C)) || (decide (0x420 ≤ o ∧ o < 0x440)) ||
    [0x500, 0x504, 0x508, 0x50C, 0x600, 0x710].contains o

/-- Whether an access to a range is against its rights (R596). -/
def rangeRight (g : LocalRange) (a w : Nat) (write : Bool) : Bool :=
  match g with
  | .sp | .sram => true
  | .snap | .abi | .image => !write
  | .ports =>
    let ok (o : Nat) : Bool := if write then portWrites o else portReads o
    ok (a % 0x1000 / 4 * 4) && ok ((a + w - 1) % 0x1000 / 4 * 4)

/-- A word of the ABI block (R597); none where the table names no field. -/
def abiWord (l : Launch) (c : Ctx) (n o : Nat) : Option W :=
  let m := maskList l.mask
  let half (v : W64) (k : Nat) : W := if k = 0 then v.truncate 32 else (v >>> 32).truncate 32
  if o = 0 then some (BitVec.ofNat 32 l.gx) else if o = 4 then some (BitVec.ofNat 32 l.gy) else if o = 8 then some (BitVec.ofNat 32 l.gz)
  else if o = 0xC then some (BitVec.ofNat 32 (m.idxOf n)) else if o = 0x10 then some (BitVec.ofNat 32 m.length)
  else if o = 0x14 then some (BitVec.ofNat 32 n) else if o = 0x18 then some (BitVec.ofNat 32 (l.inst + 2 ^ 16 * l.hwq))
  else if o = 0x1C then some (BitVec.ofNat 32 c.gran) else if o = 0x20 then some (BitVec.ofNat 32 l.cbLen)
  else if o = 0x28 ∨ o = 0x2C then some (half l.gtime ((o - 0x28) / 4))
  else if o = 0x30 then some (wordAt l.header 9)
  else if 0x40 ≤ o ∧ o < 0x60 then some (BitVec.ofNat 32 (bitMask 32 fun b => l.view.contains ((o - 0x40) * 8 + b)))
  else if 0x100 ≤ o ∧ o < 0x300 ∧ (o - 0x100) / 8 < natAt l.header 9 then
    let k := (o - 0x100) / 8
    some (half (BitVec.ofNat 64 (resAddr l (wordsBytes ((l.header.drop (64 + 4 * k)).take 4)))) (o % 8 / 4))
  else none

/-- What a load finds: a value, that it must wait, or that the launch was killed. -/
inductive Got
  | val (v : Nat)
  | wait
  | dead
deriving DecidableEq, Repr

/-- A port register as the CCC reads it. Only the context's own descriptors count for ENGINE_BUSY and IN_CHAIN. -/
def State.portWord (s : State) (c : Ctx) (o : Nat) : Nat :=
  let p := portOf c (o / 0x80)
  if o < 0x300 then
    if o % 0x80 = 0x44 then (32 - p.fifo.length) + 2 ^ 8 * b2n p.run.isSome + 2 ^ 9 * b2n p.chain else p.doneCount.toNat
  else if o < 0x420 then (c.levs.getD ((o - 0x400) / 4) 0).toNat
  else if o = 0x510 then c.syncRes + 2 ^ 16 * (c.syncId % 2 ^ 14)
  else if o = 0x604 then b2n c.yieldReq
  else if o = 0x700 then s.ck.gtime.toNat % 2 ^ 32
  else c.timeHigh.toNat

/-- A load of `w` bytes that its range grants. -/
def State.cccRead (s : State) (i n : Nat) (l : Launch) (c : Ctx) (g : LocalRange) (a w pc : Nat) : State × Got :=
  match g with
  | .sp => (s, .val (leNat ((List.range w).map fun j => tblGet 0 (a + j) c.sp)))
  | .snap => (s, .val (leNat ((List.range w).map fun j => snapByte l (a - 0xF00000 + j))))
  | .sram => (s, .val (leNat ((List.range w).map fun j => tblGet 0 (a - 0x10000000 + j) c.sram)))
  | .abi =>
    let o := a - 0xF10000
    (s.bumpFree, .val (bitsOf ((abiWord l c n (o / 4 * 4)).getD (Config.freeWord s.own.freeCtr)).toNat (8 * (o % 4)) (8 * w)))
  | .image => match s.yardImage i n l (a - 0x20000000) w false pc with
    | (s, some d) => (s, .val (leNat d))
    | (s, none) => (s, .dead)
  | .ports =>
    let o := a - 0x40000000
    let r := o / 4 * 4
    if r = 0x510 ∧ (s.sync.fifo.any fun x => decide (x.who = .ctx i n none)) then (s, .wait)
    else
      let v := bitsOf (s.portWord c r) (8 * (o % 4)) (8 * w)
      if r = 0x700 then (s.setCtx (ctxKey i n) { c with timeHigh := (s.ck.gtime >>> 32).truncate 32 }, .val v) else (s, .val v)

/-! ### Executing -/

/-- An instruction retires (R629): the pc moves on and instret counts it. -/
def State.retire (s : State) (i n : Nat) (next : W) : State :=
  match s.ctx i n with
  | some c => s.setCtx (ctxKey i n) { c with pc := next, instret := c.instret + 1 }
  | none => s

/-- A register of the running context is written; x0 stays zero. -/
def State.setX (s : State) (i n rd : Nat) (v : W) : State :=
  match s.ctx i n with
  | some c => if rd = 0 then s else s.setCtx (ctxKey i n) { c with xregs := c.xregs.set rd v }
  | none => s

/-- A store of `w` bytes that its range grants, by the instruction at image offset `pc`. A store of part of a port register is ignored
and counted (R55). -/
def State.cccWrite (s : State) (i n : Nat) (c : Ctx) (g : LocalRange) (a w v pc : Nat) : State :=
  match g with
  | .sp => s.setCtx (ctxKey i n) { c with sp := putBytes a ((leBytes w v).map some) c.sp }
  | .sram => s.setCtx (ctxKey i n) { c with sram := putBytes (a - 0x10000000) ((leBytes w v).map some) c.sram }
  | .ports =>
    let o := a - 0x40000000
    let e := o / 0x80
    let p := portOf c e
    let word := BitVec.ofNat 32 v
    if w ≠ 4 then s.unmapped
    else if o < 0x300 then
      if o % 0x80 < 0x40 then s.setCtx (ctxKey i n) (setPortOf c e { p with stage := ((p.stage ++ List.replicate 16 0).take 16).set (o % 0x80 / 4) word })
      else if o % 0x80 = 0x40 then s.cccPush i n e p.stage pc
      else s.cccPushTable i n e v pc
    else if o < 0x440 then s.cccLevAdd i n ((o - 0x420) / 4) v
    else if o = 0x500 then s.setCtx (ctxKey i n) { c with opLow := word }
    else if o = 0x508 then s.setCtx (ctxKey i n) { c with waitLow := word }
    else if o = 0x504 then
      let x := c.opLow.toNat
      let k := bitsOf x 16 2
      s.cccOp i n (if k = 3 then 0 else k) (if k = 1 then .consume else if k = 2 then .arrive else .add) (BitVec.ofNat 64 (x + 2 ^ 32 * v)) pc
    else if o = 0x50C then
      let x := c.waitLow.toNat
      let k := bitsOf x 16 2
      s.cccWait i n (if k = 3 then 0 else k) (if k = 1 then .waitGen else if k = 2 then .waitGeConsume else .waitGe) (BitVec.ofNat 64 (x + 2 ^ 32 * v)) pc
    else if o = 0x600 then s.cccYield i n v pc
    else s.cccTrap i n v pc
  | _ => s

/-- The result of a load by funct3: bytes and halfwords sign-extended or zero-extended. -/
def loadValue (f v : Nat) : W :=
  match f with
  | 0 => sxt 8 v
  | 1 => sxt 16 v
  | _ => BitVec.ofNat 32 v

/-- Bytes of an access by funct3. -/
def accessBytes (f : Nat) : Nat := 2 ^ (f % 4)

/-- What an instruction may read or write of a context: its registers, its pc, the pc after it. -/
structure RvAt where
  i : Nat
  n : Nat
  l : Launch
  c : Ctx
  len : Nat
deriving DecidableEq, Repr

/-- Image offset of the instruction. -/
def RvAt.pc (t : RvAt) : Nat := (t.c.pc - 0x20000000).toNat
/-- The address of the instruction after it. -/
def RvAt.npc (t : RvAt) : W := t.c.pc + BitVec.ofNat 32 t.len
/-- A register as the instruction reads it. -/
def RvAt.x (t : RvAt) (r : Nat) : W := if r = 0 then 0 else t.c.xregs.getD r 0

/-- An exception of the instruction. -/
def State.raiseCcc (s : State) (t : RvAt) (mcause mtval : Nat) : State := s.cccExc t.i t.n mcause mtval t.pc

/-- The instruction writes its result and retires. -/
def State.done (s : State) (t : RvAt) (rd : Nat) (v : W) : State := (s.setX t.i t.n rd v).retire t.i t.n t.npc

/-- A jump: the link register is written; the return point ends the item (R598, R599). -/
def State.jump (s : State) (t : RvAt) (rd : Nat) (target : W) : State :=
  let s := (s.setX t.i t.n rd t.npc).retire t.i t.n target
  if target = t.c.ret then s.itemReturn t.i t.n (if rd = 10 then t.npc else t.x 10) t.pc else s

/-- A load or the reading half of an LR, an SC or an AMO is refused: the access fault before the misalignment (R596, R629). -/
def mapFault (t : RvAt) (a w : Nat) (write atomic : Bool) : Option Nat :=
  match rangeOf t.l t.c a w with
  | none => some (if write then 7 else 5)
  | some g =>
    if !rangeRight g a w write || (atomic && !(g == .sp || g == .sram)) then some (if write then 7 else 5)
    else if a % w ≠ 0 then some (if write then 6 else 4)
    else none

/-- Execute a load. -/
def State.execLoad (s : State) (t : RvAt) (f rd : Nat) (addr : W) : State :=
  let a := addr.toNat
  let w := accessBytes f
  match mapFault t a w false false, rangeOf t.l t.c a w with
  | some m, _ => s.raiseCcc t m a
  | none, some g => match s.cccRead t.i t.n t.l t.c g a w t.pc with
    | (s, .val v) => s.done t rd (loadValue f v)
    | (s, _) => s
  | none, none => s

/-- Execute a store: the instruction retires, then its write takes effect. -/
def State.execStore (s : State) (t : RvAt) (f : Nat) (addr v : W) : State :=
  let a := addr.toNat
  let w := accessBytes f
  match mapFault t a w true false, rangeOf t.l t.c a w with
  | some m, _ => s.raiseCcc t m a
  | none, some g =>
    let s := s.retire t.i t.n t.npc
    match s.ctx t.i t.n with
    | some c => s.cccWrite t.i t.n c g a w (v.toNat % 2 ^ (8 * w)) t.pc
    | none => s
  | none, none => s

/-- A word in a range of plain storage. -/
def plainWord (c : Ctx) (g : LocalRange) (a : Nat) : W :=
  BitVec.ofNat 32 (leNat ((List.range 4).map fun j => if g = .sp then tblGet 0 (a + j) c.sp else tblGet 0 (a - 0x10000000 + j) c.sram))

/-- LR, SC and the AMOs (R596). Whether an SC succeeds that names the word reserved is open: another agent may have written it, and
the standard lets it fail anyway. -/
def State.execAtomic (s : State) (t : RvAt) (r : Rv) : State :=
  let go (rs : Nat) (write : Bool) (f : State → LocalRange → Nat → State) : State :=
    let a := (t.x rs).toNat
    match mapFault t a 4 write true, rangeOf t.l t.c a 4 with
    | some m, _ => s.raiseCcc t m a
    | none, some g => f s g a
    | none, none => s
  match r with
  | .lr rd rs => go rs false fun s g a =>
      (s.setCtx (ctxKey t.i t.n) { t.c with resv := some a }).done t rd (plainWord t.c g a)
  | .sc rd rs1 rs2 => go rs1 true fun s g a =>
      let (lost, s) := s.drawBool
      let fail := !(t.c.resv == some a) || lost
      let c := { t.c with resv := none }
      let s := s.setCtx (ctxKey t.i t.n) c
      (if fail then s else s.cccWrite t.i t.n c g a 4 (t.x rs2).toNat t.pc).done t rd (if fail then 1 else 0)
  | .amo f rd rs1 rs2 => go rs1 true fun s g a =>
      let m := plainWord t.c g a
      (s.cccWrite t.i t.n t.c g a 4 (amoOp f m (t.x rs2)).toNat t.pc).done t rd m
  | _ => s

/-- A counter the program reads (R629). -/
def State.csrWord (s : State) (c : Ctx) (num : Nat) : W :=
  let v : W64 := match num % 16 with
    | 0 => c.cycle
    | 1 => s.ck.gtime
    | _ => c.instret
  if num < 0xC80 then v.truncate 32 else (v >>> 32).truncate 32

/-- Execute an instruction. What mtval holds of an environment break is open (the standard allows zero or the pc). -/
def State.execRv (s : State) (t : RvAt) (r : Rv) : State :=
  match r with
  | .lui rd imm => s.done t rd imm
  | .auipc rd imm => s.done t rd (t.c.pc + imm)
  | .jal rd off => s.jump t rd (t.c.pc + off)
  | .jalr rd rs imm => s.jump t rd ((t.x rs + imm) &&& 0xFFFFFFFE)
  | .branch f rs1 rs2 off => if taken f (t.x rs1) (t.x rs2) then s.jump t 0 (t.c.pc + off) else s.retire t.i t.n t.npc
  | .load f rd rs imm => s.execLoad t f rd (t.x rs + imm)
  | .store f rs1 rs2 imm => s.execStore t f (t.x rs1 + imm) (t.x rs2)
  | .aluImm f alt rd rs imm => s.done t rd (aluOp f alt (t.x rs) imm)
  | .alu f alt rd rs1 rs2 => s.done t rd (aluOp f alt (t.x rs1) (t.x rs2))
  | .mulDiv f rd rs1 rs2 => s.done t rd (mulDivOp f (t.x rs1) (t.x rs2))
  | .lr .. | .sc .. | .amo .. => s.execAtomic t r
  | .fence => s.retire t.i t.n t.npc
  | .csr num rd => s.done t rd (s.csrWord t.c num)
  | .ecall => s.raiseCcc t 8 0
  | .ebreak => let (b, s) := s.drawBool; s.raiseCcc t 3 (if b then t.c.pc.toNat else 0)

/-- An illegal instruction: mtval holds its bits or zero, as the standard allows. -/
def State.illegal (s : State) (t : RvAt) (bits : Nat) : State :=
  let (b, s) := s.drawBool
  s.raiseCcc t 2 (if b then 0 else bits)

/-- Fetch a halfword of the program: none where the fetch ends the launch. -/
def State.fetchHalf (s : State) (t : RvAt) (a : Nat) : State × Option Nat :=
  if a < 0x20000000 ∨ 0x20000000 + 4096 * t.l.imageSize < a + 2 then (s.raiseCcc t 1 a, none)
  else match s.yardImage t.i t.n t.l (a - 0x20000000) 2 true t.pc with
    | (s, some d) => (s, some (leNat d))
    | (s, none) => (s, none)

/-- The CCC of cluster `n` fetches and executes one instruction of the context of launch `i`. -/
def State.runCcc (s : State) (i n : Nat) (l : Launch) (c : Ctx) : State :=
  let t : RvAt := ⟨i, n, l, c, 2⟩
  match s.fetchHalf t c.pc.toNat with
  | (s, none) => s
  | (s, some h) =>
    if h % 4 ≠ 3 then (match decode16 h with
      | some r => s.execRv t r
      | none => s.illegal t h)
    else match s.fetchHalf t (c.pc + 2).toNat with
      | (s, none) => s
      | (s, some h') => match decode32 (h + 2 ^ 16 * h') with
        | some r => s.execRv { t with len := 4 } r
        | none => s.illegal t (h + 2 ^ 16 * h')

/-- One instruction of the CCC of cluster `n`, if it executes. -/
def State.cccStep (s : State) (n : Nat) : State :=
  match (s.cluster n).run with
  | some i => match s.ccc i n with
    | some (l, c) => s.runCcc i n l c
    | none => s
  | none => s

/-- The CCCs in one FCLK cycle: when an instruction that takes more than one ends is open, so each executing CCC ends one or none. -/
def State.cccTick (s : State) : State :=
  (List.range 16).foldl (fun s n => let (b, s) := s.drawBool; if b then s.cccStep n else s) s

end Sys2Proof.Machine
end

