-- ==== Sys2Proof/Machine/Scanout.lean ====
section
/-! DEFINITION. Scanout (15): timing, vertical blank, flips, frame checks, receipts, capture, head hold, and the DisplayPort
ports. -/

set_option Elab.async false
namespace Sys2Proof.Machine

/-! ### Timing -/

/-- Whether a head's timing keeps the limits of R672. -/
def State.modeOk (s : State) (d : Nat) : Bool :=
  let b := headBase d
  let h := (s.reg (b + 0x100)).toNat
  let v := (s.reg (b + 0x108)).toNat
  let ha := bitsOf h 0 13
  let ht := bitsOf h 16 13
  let va := bitsOf v 0 13
  let vt := bitsOf v 16 13
  let p := bitsOf (s.reg (b + 0x110)).toNat 0 22
  decide (640 ≤ ha ∧ ha ≤ 7680 ∧ ha % 8 = 0) && decide (480 ≤ va ∧ va ≤ 4320) && decide (ha * va ≤ 33177600) &&
    decide (ha + 80 ≤ ht) && decide (va + 8 ≤ vt) && decide (25000 ≤ p ∧ p ≤ 2200000) &&
    decide (4166 * p ≤ 1000 * (ht * vt) ∧ 1000 * (ht * vt) ≤ 43479 * p)

/-- READ_SHARE of a head in MB/s, rounded up (R680). -/
def State.readShare (s : State) (d : Nat) : Nat :=
  let n := s.hActive d * s.headLines d * bitsOf (s.reg (headBase d + 0x110)).toNat 0 22
  let m := 100 * s.frameDots d
  (n + m - 1) / m

/-- OUT_BPC of a head. -/
def State.outBpc (s : State) (d : Nat) : Nat := if bitOf (s.reg (headBase d + 0x114)).toNat 0 then 12 else 10

/-- Whether two heads have the same timing and depth (R684). -/
def State.sameTiming (s : State) (a b : Nat) : Bool :=
  ([0x100, 0x104, 0x108, 0x10C, 0x110].all fun o => s.reg (headBase a + o) == s.reg (headBase b + o)) &&
    s.outBpc a == s.outBpc b

/-! ### The bytes of a frame -/

/-- Planes of a frame: address, pitch, bytes of a line (R677). -/
def framePlanes (a : Nat) (f : FrameT) : List (Nat × Nat × Nat) :=
  f.planes.mapIdx fun i b => (b.toNat, if i = 0 then f.pitch0 else f.pitch12,
    match f.format with | 0 => 4 * a | 1 => 8 * a | _ => if i = 0 then 2 * a else a)

/-- A byte of a frame as the head reads it: poisoned units read zero (R649); none where its page did not translate. -/
def State.frameByte (s : State) (f : FrameT) (va : Nat) : Option Byte :=
  match f.pages.find? (·.1 = va / 4096) with
  | none => none
  | some (_, p) =>
    let pa := 4096 * p + va % 4096
    some (if (s.poisonAt pa 1).isSome then 0 else s.memByte pa)

/-- The active bytes of a frame in plane order, line by line (R701). -/
def State.frameBytes (s : State) (d : Nat) (f : FrameT) : List (Option Byte) :=
  (framePlanes (s.hActive d) f).flatMap fun (b, p, w) =>
    (List.range (s.headLines d)).flatMap fun y => (List.range w).map fun x => s.frameByte f (b + y * p + x)

/-- The CRC of the refresh of a frame (R701, R702); free where the head's reads are open. -/
def State.refreshCrc (s : State) (d : Nat) (f : FrameT) : W × State :=
  let bs := s.frameBytes d f
  if (s.head d).touched || bs.any Option.isNone then s.drawWord
  else (crcRun 0 (bs.filterMap id), s)

/-- Whether the head reads some byte of a 32 B unit. -/
def State.frameReads (s : State) (d : Nat) (f : FrameT) (u : Nat) : Bool :=
  f.pages.any fun (vp, p) => p == u / 128 && (List.range 32).any fun i =>
    let va := 4096 * vp + 32 * u % 4096 + i
    (framePlanes (s.hActive d) f).any fun (b, pt, w) =>
      decide (b ≤ va) && decide ((va - b) % max 1 pt < w) && decide ((va - b) / max 1 pt < s.headLines d)

/-- The poisoned units a refresh reads are recorded against their slots' owners (R649, R755). -/
def State.framePoison (s : State) (d : Nat) (f : FrameT) : State :=
  (s.poison.filter (s.frameReads d f)).foldl (fun s u =>
    match (s.slot (32 * u / 2 ^ 28)).owner with
    | some k => s.raiseAs 0x0205 1 .l1 (.inst k) none 0x1C0000 0xFF (32 * u) false false false
    | none => s.raiseAs 0x0205 0 .l0 .device none 0x1C0000 0xFF (32 * u) true false false) s

/-! ### Receipts (R229, R230) -/

/-- The first 48 bytes of a receipt, without the flag for skipped receipts. -/
def State.receiptBytes (s : State) (d : Nat) (f : FrameT) (crc : W) (seq : W) : List Byte :=
  let v := s.head d
  leBytes 4 0x4B524350 ++ leBytes 2 1 ++
  [BitVec.ofNat 8 d, BitVec.ofNat 8 (b2n (f.crcValid && crc == f.crc) + 2 * b2n f.crcValid + 4 * b2n (s.sec.dbgScope != 0))] ++
  leBytes 8 v.frameCtr.toNat ++ leBytes 8 v.latchT.toNat ++ leBytes 4 crc.toNat ++
  leBytes 4 (if f.crcValid then f.crc.toNat else 0) ++ leBytes 8 Config.uniqueId.toNat ++ leBytes 4 seq.toNat ++
  [BitVec.ofNat 8 (v.owner.getD 0), 0, 0, 0]

/-- Count a skipped receipt (R230, R370, R706). -/
def State.skipReceipt (s : State) (d : Nat) (r : Rcpt) : State × Rcpt :=
  (s.countField (headBase d + 0x154) 16 16 1, { r with skipFlag := true, skipped := min (r.skipped + 1) 0xFFFFFFFF })

/-- A receipt falls due at the end of a refresh's check, if its frame counter is a multiple of N. -/
def State.receiptDue (s : State) (d : Nat) (f : FrameT) (crc : W) : State :=
  let v := s.head d
  match v.rcpt, v.owner with
  | some r, some k =>
    if v.hold ∨ v.frameCtr.toNat % r.n ≠ 0 then s
    else
      let put (s : State) (r : Rcpt) : State := s.setHead d { s.head d with rcpt := some r }
      if (s.inst k).st = .shadowed then
        match s.skipReceipt d r with | (s, r) => put s { r with seq := r.seq + 1 }
      else
        match (if r.due.isSome then s.skipReceipt d r else (s, r)) with
        | (s, r) => put s { r with due := some (s.receiptBytes d f crc r.seq), seq := r.seq + 1 }
  | _, _ => s

/-- RECEIPT_WRITE (R229, R706): the SEC core has signed head `d`'s due receipt and writes it to its entry. -/
def execReceiptWrite (d : Nat) (s : State) : Host.Outcome State Fault Refusal :=
  .next (match (s.head d).rcpt, (s.head d).owner with
    | some r, some k =>
      (match r.due with
      | none => s
      | some hdr =>
        if s.pw.stage ≠ .ready then s
        else
          let seq := leNat (bytesAt hdr 0x28 4)
          let hdr := hdr.set 7 (hdr.getD 7 0 ||| (if r.skipFlag then 8 else 0))
          let msg := hdr ++ (List.range 96).map (Config.signByte hdr)
          let r := { r with due := none }
          match s.segs k (r.buf.toNat + 256 * (seq % r.entries)) 144 true askCmd with
          | (s, gs, none) =>
            if segsHost gs then
              (match s.skipReceipt d r with | (s, r) => s.setHead d { s.head d with rcpt := some r })
            else
              (((s.segWrite k false gs msg).countField (headBase d + 0x154) 0 16 1).setHead d
                { s.head d with rcpt := some { r with skipFlag := false, written := min (r.written + 1) 0xFFFFFFFF } })
          | (s, _, some _) => (match s.skipReceipt d r with | (s, r) => s.setHead d { s.head d with rcpt := some r }))
    | _, _ => s)

/-! ### Capture (R707, R708) and Prism (R691 to R693) -/

/-- A 16-bit two's complement value. -/
def signed16 (w : W) : Int := if bitOf w.toNat 15 then (w.toNat % 65536 : Int) - 65536 else (w.toNat % 65536 : Int)

/-- A component clamped to magnitude 4, NaN as 0 (R691). -/
def clamp4 : Num → Num
  | .nan => .zero
  | .inf neg => .fin neg 4 1
  | .fin neg p q => if 4 * q < p then .fin neg 4 1 else .fin neg p q

/-- A value clamped to 0 to 1, as numerator and denominator. -/
def clamp01 : Num → Nat × Nat
  | .fin false p q => if q < p then (1, 1) else (p, q)
  | .inf false => (1, 1)
  | _ => (0, 1)

/-- A sample of a plane: `n` bytes at index `i` of a line. -/
def State.sample (s : State) (d : Nat) (f : FrameT) (plane y off n : Nat) : Nat :=
  match (framePlanes (s.hActive d) f)[plane]? with
  | some (b, p, _) => leNat ((List.range n).map fun i => (s.frameByte f (b + y * p + off + i)).getD 0)
  | none => 0

/-- The normalised components of a pixel (R691). -/
def State.normalise (s : State) (d : Nat) (f : FrameT) (x y : Nat) : List Num :=
  match f.format with
  | 0 => let w := s.sample d f 0 y (4 * x) 4
    [bitsOf w 0 10, bitsOf w 10 10, bitsOf w 20 10].map fun c => Num.fin false c 1023
  | 1 => [0, 2, 4].map fun o => clamp4 (decodeNum 5 (s.sample d f 0 y (8 * x + o) 2))
  | _ =>
    let j := x / 2
    let chroma (p : Nat) : Num :=
      let a := bitsOf (s.sample d f p y (2 * j) 2) 0 10
      if x % 2 = 0 ∨ s.hActive d ≤ 2 * (j + 1) then .fin false a 1023
      else .fin false (a + bitsOf (s.sample d f p y (2 * (j + 1)) 2) 0 10) 2046
    [.fin false (bitsOf (s.sample d f 0 y (2 * x) 2) 0 10) 1023, chroma 1, chroma 2]

/-- The reset value of a LUT entry (R696). -/
def lutReset (i : Nat) : BitVec 16 := BitVec.ofNat 16 ((65535 * (i % 1024) * 2 + 1023) / 2046)

/-- The key of a LUT entry: bank, colour, index. -/
def lutKey (bank col i : Nat) : Nat := 3072 * bank + 1024 * col + i

/-- A LUT entry of a head. -/
def State.lutAt (s : State) (d bank col i : Nat) : Nat :=
  (tblGet (lutReset i) (lutKey bank col i) (s.head d).lut).toNat

/-- The LUT's output for an input `p / q` (R693); a tie between two codes is open. -/
def State.lutOut (s : State) (d bank col : Nat) (e : Nat × Nat) (free : Nat) : Nat :=
  let t := 1023 * e.1
  let i := t / e.2
  let r := t % e.2
  let n := s.lutAt d bank col i * (e.2 - r) + (if r = 0 then 0 else s.lutAt d bank col (i + 1) * r)
  let k := n / e.2
  let m := 2 * (n % e.2)
  if m < e.2 then k else if e.2 < m then k + 1 else k + Config.freeNat free % 2

/-- The three 16-bit outputs of Prism for a pixel, before dither (15, Prism). -/
def State.prism (s : State) (d : Nat) (f : FrameT) (x y : Nat) : List Nat :=
  let c := s.normalise d f x y
  let bk := b2n (s.head d).bank
  let b := headBase d + 0x200 + 0x40 * bk
  (List.range 3).map fun i =>
    let sum := Num.sum ((List.range 3).map fun j =>
      let o := signed16 (s.reg (b + 4 * j))
      let m := signed16 (s.reg (b + 0xC + 4 * (3 * i + j)))
      Num.mul (Num.divNat (Num.ofInt m) 8192) (Num.add (c.getD j .zero) (Num.divNat (Num.ofInt o) 16384)))
    s.lutOut d bk i (clamp01 sum) s.own.freeCtr

/-- The bytes a capture of the current refresh takes, line by line (R707). -/
def State.captureBytes (s : State) (d : Nat) : State × List Byte :=
  match (s.head d).cur with
  | none => (s, List.replicate (6 * s.hActive d * s.headLines d) 0)
  | some f =>
    if (s.head d).touched || (s.frameBytes d f).any Option.isNone then
      match s.drawBytes (6 * s.hActive d * s.headLines d) with | (bs, s) => (s, bs)
    else (s.bumpFree, (List.range (s.headLines d)).flatMap fun y => (List.range (s.hActive d)).flatMap fun x =>
      (s.prism d f x y).flatMap (leBytes 2))

/-- CAP_ADDR, and the lines of a capture. -/
def State.capAddr (s : State) (d : Nat) : Nat := (s.reg (headBase d + 0x168)).toNat + 2 ^ 32 * (s.reg (headBase d + 0x16C)).toNat

/-- Issue the first `n` bytes of a running capture as host-bound writes of the head's owner, in line order. -/
def State.captureIssue (s : State) (d k n : Nat) : State :=
  let w := 6 * s.hActive d
  let p := (s.reg (headBase d + 0x170)).toNat
  let data := (s.head d).capData.take n
  (List.range ((n + w - 1) / max 1 w)).foldl (fun s y => s.hostWrite k (s.capAddr d + y * p) ((data.drop (y * w)).take w) true) s

/-- A capture ends with only some of its bytes issued (R708): a free prefix was. -/
def State.captureCut (s : State) (d : Nat) : State :=
  let v := s.head d
  if v.cap = 2 then
    match s.drawNat (v.capData.length + 1) with
    | (n, s) =>
      let s := match v.owner with | some k => s.captureIssue d k n | none => s
      (s.setHead d { s.head d with cap := 4, capBytes := BitVec.ofNat 64 n, capData := [] }).cause (headBase d) 14
  else s

/-- CAP_CTRL.ARM (R707, R708). -/
def State.captureArm (s : State) (d : Nat) : State :=
  let v := s.head d
  if v.cap = 1 ∨ v.cap = 2 then s
  else if v.owner.isNone ∨ !v.enabled then (s.setHead d { v with cap := 5 }).cause (headBase d) 14
  else s.setHead d { v with cap := 1, capBytes := 0 }

/-- CAPTURE_DONE (R707): every write of head `d`'s capture is issued. While a stall holds writes back it is not done; where the
owner's writes are discarded it ends INCOMPLETE (R708). -/
def execCaptureDone (d : Nat) (s : State) : Host.Outcome State Fault Refusal :=
  let v := s.head d
  .next (match v.owner with
    | some k =>
      if v.cap ≠ 2 ∨ s.pcie.stall ≠ .normal then s
      else if !(s.fn k).bme ∨ !s.pcie.linkUp then s.captureCut d
      else
        let s := s.captureIssue d k v.capData.length
        (s.setHead d { s.head d with cap := 3, capBytes := BitVec.ofNat 64 v.capData.length, capData := [] }).cause (headBase d) 14
    | none => s.captureCut d)

/-! ### Ports and routes (R682 to R690) -/

/-- Link rates in units of 10 kbit/s per lane, and the coding's payload (R685). -/
def linkRate (r : Nat) : Nat :=
  match r with | 0 => 162000 | 1 => 270000 | 2 => 540000 | 3 => 810000 | 4 => 1000000 | 5 => 1350000 | _ => 2000000

/-- Lanes of a lane code. -/
def laneCount (c : Nat) : Nat := match c with | 0 => 1 | 1 => 2 | _ => 4

/-- Whether a head's stream fits 98 % of a port's trained capacity (R685), in 10 kbit/s units times 100 and the coding's
denominator. -/
def State.streamFits (s : State) (d h : Nat) : Bool :=
  let v := s.port d
  let need := bitsOf (s.reg (headBase h + 0x110)).toNat 0 22 * 3 * s.outBpc h
  let cap := laneCount v.lanes * linkRate v.rate
  if v.rate < 4 then decide (1000 * need ≤ cap * 80 * 98) else decide (132 * need * 10 ≤ 128 * cap * 98)

/-- A route change takes effect, or is rejected (R683 to R685). On a port that is not trained there is no trained capacity
and whether the change is taken is free. -/
def State.applyRoute (s : State) (d src : Nat) : State :=
  let v := s.port d
  let r := if src = 0 then (true, s)
    else if v.trained then (s.streamFits d (src - 1), s) else s.drawBool
  let s := r.2
  if !r.1 then (s.setPort d { v with routePend := none }).cause 0x1D0000 9
  else
    let again := src ≠ 0 && v.trained && (v.route == 0 || !s.sameTiming (v.route - 1) (src - 1))
    (s.setPort d { v with route := src, routePend := none, restarting := again, video := src ≠ 0 && v.trained && !again }).cause 0x1D0000 8

/-- A PORT_ROUTE field is written (R683): the change waits for the vertical blank of the head that feeds the port. -/
def State.routeWrite (s : State) (d src : Nat) : State :=
  let v := s.port d
  if src = v.route then s.setPort d { v with routePend := none }
  else if v.route = 0 ∨ !v.powered ∨ !(s.head (v.route - 1)).scanning then s.applyRoute d src
  else s.setPort d { v with routePend := some src }

/-- The vertical blank of head `h` at the ports it feeds: route changes and committed SDP words take effect (R683, R690). -/
def State.portBlank (s : State) (h d : Nat) : State :=
  let v := s.port d
  if v.route ≠ h + 1 then s
  else
    let v := match v.sdpNext with | some l => { v with sdp := l, sdpNext := none } | none => v
    let s := (s.setPort d v).latchRange (0x1D3140 + 0x1000 * d) 4
    match v.routePend with
    | some src => s.applyRoute d src
    | none => s

/-- SDP_CTRL.COMMIT (R690): the staged words wait for the next vertical blank of the source, or take effect at once without
one (R64). -/
def State.sdpCommit (s : State) (d : Nat) : State :=
  let v := s.port d
  let ws := (List.range 9).map fun i => s.reg (0x1D3144 + 0x1000 * d + 4 * i)
  if v.route = 0 ∨ !(s.head (v.route - 1)).scanning then s.setPort d { v with sdp := ws, sdpNext := none }
  else s.setPort d { v with sdpNext := some ws }

/-- PORT_RESTART_DONE (R684): port `d` resumes video after the new Main Stream Attribute. -/
def execPortRestartDone (d : Nat) (s : State) : Host.Outcome State Fault Refusal :=
  let v := s.port d
  .next (if v.restarting then s.setPort d { v with restarting := false, video := true } else s)

/-- A DP page's ENABLE is written (R711): 1 powers the port, 0 drops its link. -/
def State.portEnable (s : State) (d : Nat) (on : Bool) : State :=
  let v := s.port d
  if on then s.setPort d { v with powered := true }
  else s.setPort d { v with powered := false, trained := false, training := false, video := false, restarting := false }

/-- DP_TRAIN.START (R687): the port trains at DP_LINK_CFG and outputs no video meanwhile. An unpowered port has no link to train. -/
def State.trainStart (s : State) (d : Nat) : State :=
  let v := s.port d
  if v.powered then s.setPort d { v with training := true, trained := false, fail := false, video := false, restarting := false } else s

/-- DP_TRAIN_DONE (R687): training on port `d` succeeds or fails. -/
def execDpTrainDone (d : Nat) (ok : Bool) (s : State) : Host.Outcome State Fault Refusal :=
  let v := s.port d
  .next (if !v.training then s
    else
      let c := (s.reg (0x1D3100 + 0x1000 * d)).toNat
      (s.setPort d { v with training := false, trained := ok, fail := !ok, rate := bitsOf c 0 3, lanes := bitsOf c 4 2,
                            video := ok && v.route != 0 }).cause (0x1D3000 + 0x1000 * d) 11)

/-- AUX_CMD.START (R688): one AUX transaction begins. -/
def State.auxStart (s : State) (d : Nat) : State :=
  let v := s.port d
  if v.powered then s.setPort d { v with aux := true } else s

/-- AUX_DONE (R688): the transaction on port `d` ends with a result (0 ACK, 1 NACK, 2 DEFER_EXHAUSTED, 3 TIMEOUT) and, for a read,
the reply bytes. -/
def execAuxDone (d result : Nat) (reply : List Byte) (s : State) : Host.Outcome State Fault Refusal :=
  let v := s.port d
  let b := 0x1D3000 + 0x1000 * d
  .next (if !v.aux then s
    else
      let n := min reply.length 16
      let s := s.setPort d { v with aux := false }
      let s := s.setReg (b + 0x114) (BitVec.ofNat 32 (result % 4 + n % 16 * 16 + 256))
      let s := if n = 0 then s else
        (List.range 4).foldl (fun s i => s.setReg (b + 0x120 + 4 * i)
          (BitVec.ofNat 32 (leNat (bytesAt (reply.take 16 ++ (wordsBytes ((List.range 4).map fun j => s.reg (b + 0x120 + 4 * j))).drop n) (4 * i) 4)))) s
      s.cause b 10)

/-- HPD_IRQ (R689): a low pulse of 0.5 ms to 1 ms on port `d`. -/
def execHpdIrq (d : Nat) (s : State) : Host.Outcome State Fault Refusal :=
  let v := s.port d
  .next (if v.hpd then (s.setPort d { v with irqs := min (v.irqs + 1) 255 }).cause (0x1D3000 + 0x1000 * d) 9 else s)

/-- HPD_LOSS (R689): HPD of port `d` has been low for 2 ms. -/
def execHpdLoss (d : Nat) (s : State) : Host.Outcome State Fault Refusal :=
  let v := s.port d
  .next (if v.hpd then
      (s.setPort d { v with hpd := false, trained := false, video := false, restarting := false }).causes (0x1D3000 + 0x1000 * d) (2 ^ 8 + 2 ^ 12)
    else s)

/-- HPD_RETURN (R689): HPD of port `d` is high again after debounce; the link stays down. -/
def execHpdReturn (d : Nat) (s : State) : Host.Outcome State Fault Refusal :=
  let v := s.port d
  .next (if v.hpd then s else (s.setPort d { v with hpd := true }).cause (0x1D3000 + 0x1000 * d) 8)

/-! ### Head hold (R120 to R124, R709) -/

/-- A hold ends (R123, R315, R676). -/
def State.holdEnd (s : State) (d : Nat) : State :=
  let v := s.head d
  if v.hold then (s.setHead d { v with hold := false }).cause (headBase d) 13 else s

/-- A head loses its owner or its instance is reset (R120, R315, R700): its pending flip is discarded, its receipts and its
capture end, and while enabled it holds its last latched frame. -/
def State.holdStart (s : State) (d : Nat) : State :=
  let s := s.captureCut d
  let v := s.head d
  let s := if v.pend.isSome then s.count (headBase d + 0x144) else s
  let go := v.enabled && v.cur.isSome && !v.hold && !v.black
  let s := s.setHead d { v with owner := none, pend := none, rcpt := none, hold := v.hold || go, cap := if v.cap = 1 then 5 else v.cap }
  if go then s.cause (headBase d) 12 else s

/-- A held head outputs black (R120, R121). -/
def State.holdBlack (s : State) (d : Nat) : State :=
  let v := s.head d
  if v.hold then (s.setHead d { v with black := true, cur := none }).holdEnd d else s

/-- HEAD_HOLD_LIMIT_EXPIRY (R120, R709): HEAD_HOLD_LIMIT has passed since head `d`'s hold began. -/
def execHeadHoldLimitExpiry (d : Nat) (s : State) : Host.Outcome State Fault Refusal := .next (s.holdBlack d)

/-! ### The vertical blank -/

/-- The refresh in progress ends: its CRC is stored and checked, and a receipt falls due (R702 to R704, R229). -/
def State.endRefresh (s : State) (d : Nat) : State :=
  let v := s.head d
  match v.cur with
  | none => s
  | some f =>
    if v.frameCtr = 0 then s
    else match s.refreshCrc d f with
      | (c, s) =>
        let s := (s.setHead d { s.head d with lastCrc := c }).framePoison d f
        let dead := match v.owner with | some k => (s.inst k).st == .shadowed | none => true
        let bad := f.crcValid && c != f.crc && !v.hold && !dead
        let s := if bad then (s.count (headBase d + 0x148)).cause (headBase d) 10 else s
        let s := if bad && !v.mismatched then
            (s.setHead d { s.head d with mismatched := true }).raiseAs 0x0601 0 .l1 (.inst (v.owner.getD 0)) (some f.hwq) (headBase d) 0xFF
              (c.toNat + 2 ^ 32 * (v.frameCtr.toNat % 2 ^ 31) + 2 ^ 63 * d) false false false
          else s
        s.receiptDue d f c

/-- The pending flip latches (R698); a new owner's flip ends a hold (R123). -/
def State.latchFlip (s : State) (d : Nat) : State :=
  let v := s.head d
  match v.pend with
  | none => s
  | some f =>
    let s := (s.holdEnd d).setHead d { (s.holdEnd d).head d with cur := some f, pend := none, mismatched := false, black := false, latchT := s.ck.gtime }
    (s.count (headBase d + 0x140)).cause (headBase d) 9

/-- Count the frame for the Beacons the head drives (R505). -/
def State.beaconFrame (s : State) (d : Nat) : State :=
  (List.range 8).foldl (fun s b => if (s.beacon b).cfg.src = d + 1 then s.setBeacon b { s.beacon b with frames := (s.beacon b).frames + 1 } else s) s

/-- A vertical blank of head `d` starts (R674, R675, R695, R698, R707). -/
def State.vblank (s : State) (d : Nat) : State :=
  if !(s.head d).scanning then s
  else
    let s := s.endRefresh d
    let v := s.head d
    let s := if v.cap = 2 ∧ v.touched then
        match s.drawBytes v.capData.length with | (bs, s) => s.setHead d { s.head d with capData := bs }
      else s
    let v := s.head d
    let s := s.setHead d { v with frameCtr := v.frameCtr + 1, vblank := s.ck.gtime, touched := false }
    let s := if v.hold ∧ bitsOf (s.reg 0x1D0108).toNat 0 14 = 0 then s.holdBlack d else s
    let s := (s.latchFlip d).latchRange (headBase d) 0x1000
    let s := s.setHead d { s.head d with
      bank := bitOf (s.reg (headBase d + 0x180)).toNat 0, dither := bitsOf (s.reg (headBase d + 0x114)).toNat 4 2 }
    let s := if (s.head d).cap = 1 then
        match s.captureBytes d with | (s, bs) => s.setHead d { s.head d with cap := 2, capData := bs }
      else s
    let s := ((s.portBlank d 0).portBlank d 1).beaconFrame d
    s.cause (headBase d) 8

/-- VBLANK_START (R674): a vertical blank of head `d` starts. `err` is what the ECC checks of the refresh's reads found. -/
def execVblankStart (d : Nat) (err : Option (Nat × Bool)) (s : State) : Host.Outcome State Fault Refusal :=
  .next (if (s.head d).scanning then (s.eccFind err false).vblank d else s)

/-- LINE_UNDERRUN (R681): the data of a line had not arrived when head `d`'s output needed it. -/
def execLineUnderrun (d : Nat) (s : State) : Host.Outcome State Fault Refusal :=
  .next (if (s.head d).scanning then (s.count (headBase d + 0x14C)).cause (headBase d) 11 else s)

/-! ### Enable, disable, Prism banks -/

/-- A write of 1 to a head's ENABLE (R673, R675, R680): the head starts with a vertical blank, or MODE_ERR is set. -/
def State.headEnable (s : State) (d : Nat) (ag : Agent) : State :=
  let v := s.head d
  if v.enabled then s
  else if !s.modeOk d then (s.setHead d { v with modeErr := true }).rsvdValue (headBase d + 8) (headBase d) 0 ag
  else (s.setHead d { v with enabled := true, scanning := true, modeErr := false, frameCtr := 0, share := s.readShare d }).vblank d

/-- A write of 0 to a head's ENABLE (R676, R510, R708). -/
def State.headDisable (s : State) (d : Nat) : State :=
  let v := s.head d
  if !v.enabled then s
  else
    let s := s.captureCut d
    let s := if v.pend.isSome then s.count (headBase d + 0x144) else s
    let s := (s.setHead d { s.head d with enabled := false, scanning := false, pend := none, share := 0
                                          cap := if v.cap = 1 then 5 else (s.head d).cap }).holdEnd d
    (List.range 8).foldl (fun s b => if (s.beacon b).cfg.src = d + 1 then s.loseLock b else s) s

/-- Whether a write goes to the Prism bank in use of an enabled head (R695, R73). -/
def State.bankBusy (s : State) (d : Nat) (bank : Bool) : Bool := (s.head d).enabled && (s.head d).bank == bank

/-- A LUT_DATA write (R695): the entry at LUT_INDEX, which AUTO_INC advances. -/
def State.lutWrite (s : State) (d : Nat) (v : W) (ag : Agent) : State :=
  let x := (s.reg (headBase d + 0x188)).toNat
  let i := bitsOf x 0 10
  if s.bankBusy d (bitOf x 12) then s.busyDrop (headBase d + 0x18C) (headBase d) 0 ag
  else
    let w := s.head d
    let s := s.setHead d { w with lut := tblSet (lutReset i) (lutKey (bitsOf x 12 1) (bitsOf x 10 2) i) (v.truncate 16) w.lut }
    if bitOf x 16 then s.setReg (headBase d + 0x188) (setField (BitVec.ofNat 32 x) 0 10 (i + 1)) else s

end Sys2Proof.Machine
end

