-- ==== Sys2Proof/Machine/Briane.lean ====
section
/-! DEFINITION. The Briane rings (06): handshake, requests and their checks, responses, events, the log, and the requests of that
chapter that touch nothing else. -/

set_option Elab.async false
namespace Sys2Proof.Machine

/-- Base of a function's BRIANE page. -/
def brnBase (k : Nat) : Nat := instWin k + 0x2000

/-! ### Opcodes (R264) -/

/-- Who may send a request. -/
inductive Sender
  | any | pf | owner
deriving DecidableEq, Repr

/-- A row of the opcode table: sender, long, the MINOR of version 1 that defines it, whether TARGET_INST names an instance. -/
structure OpInfo where
  sender : Sender
  long : Bool
  since : Nat
  target : Bool
deriving DecidableEq, Repr

/-- The opcode table (R264, R266). -/
def opInfo (op : Nat) : Option OpInfo :=
  match op with
  | 0x0001 | 0x0002 | 0x0100 | 0x0101 | 0x0102 | 0x0200 | 0x0201 | 0x0300 | 0x0401 | 0x0402 => some ⟨.any, false, 0, true⟩
  | 0x0103 | 0x0903 => some ⟨.any, false, 2, true⟩
  | 0x0800 => some ⟨.any, true, 0, true⟩
  | 0x0A02 => some ⟨.any, true, 1, true⟩
  | 0x0A00 | 0x0A01 => some ⟨.owner, false, 1, true⟩
  | 0x0202 | 0x0500 | 0x0501 | 0x0505 | 0x0507 | 0x0508 | 0x0600 | 0x0602 | 0x0603 => some ⟨.pf, false, 0, true⟩
  | 0x0509 => some ⟨.pf, false, 1, true⟩
  | 0x0503 | 0x0504 | 0x0601 | 0x0604 | 0x0605 => some ⟨.pf, true, 0, true⟩
  | 0x0502 | 0x0700 | 0x0701 | 0x0702 | 0x0704 => some ⟨.pf, true, 0, false⟩
  | 0x0400 | 0x0506 | 0x0703 | 0x0801 | 0x0900 | 0x0901 | 0x0902 => some ⟨.pf, false, 0, false⟩
  | 0x0802 => some ⟨.pf, false, 1, false⟩
  | _ => none

/-- The table row of an opcode under the selected version of a function (R262). -/
def opFor (b : Brn) (op : Nat) : Option OpInfo :=
  match opInfo op with
  | some i => if b.maj = 1 ∧ i.since ≤ b.min then some i else none
  | none => none

/-- Whether a request is long (R264). -/
def opLong (op : Nat) : Bool := match opInfo op with | some i => i.long | none => false

/-! ### Ring memory and responses (R244, R250) -/

/-- The code of R306. -/
def stCode : InstSt → Nat
  | .unassigned => 0 | .configured => 1 | .active => 2 | .quiescing => 3 | .quiesced => 4 | .shadowed => 5 | .resetting => 6
  | .faulted => 7

/-- A response entry of 64 bytes (06, message layout). -/
def rspEntry (op status flags tag detail : Nat) (payload : List Byte) : List Byte :=
  leBytes 2 op ++ leBytes 1 status ++ leBytes 1 flags ++ leBytes 4 tag ++ leBytes 4 detail ++ bytesAt payload 0 52

/-- Entries of the response ring that are free, one kept for the first response of the request being served (R251). -/
def rspRoom (b : Brn) : Bool := decide ((b.rspProd - b.rspCons).toNat + b2n b.cur.isSome < 4)

/-- Write the next response entry, advance RSP_PROD and raise RSP_AVAIL (R250). -/
def State.rspWrite (s : State) (k : Nat) (e : List Byte) : State :=
  let b := s.ringsOf k
  let a := brnBase k + 0x300 + 64 * (b.rspProd.toNat % 4)
  let s := (List.range 16).foldl (fun s i => s.setReg (a + 4 * i) (wordAt (bytesWords 16 e) i)) s
  (s.setRings k { s.ringsOf k with rspProd := b.rspProd + 1 }).cause (brnBase k) 8

/-- The first and final response of the request being served. -/
def State.respond (s : State) (k : Nat) (r : Req) (status detail : Nat) (payload : List Byte) : State :=
  let s := s.rspWrite k (rspEntry r.op status (if opLong r.op then 4 else 0) r.tag.toNat detail payload)
  s.setRings k { s.ringsOf k with cur := none }

/-- PENDING, the first response of a long request (R252). -/
def State.respondPending (s : State) (k : Nat) (r : Req) (l : Long) : State :=
  let s := s.rspWrite k (rspEntry r.op 1 0 r.tag.toNat 0 [])
  s.setRings k { s.ringsOf k with cur := none, long := some { l with req := r } }

/-- A long request with nothing accumulated yet. -/
def longNew (r : Req) : Long := { req := r, mask := [], failed := [], done := [], detail := 0, data := [], img := none, out := none }

/-- The final response of a function's long request (R253); it waits for a free entry where there is none. -/
def State.finishLong (s : State) (k : Nat) (status detail : Nat) (payload : List Byte) : State :=
  match (s.ringsOf k).long with
  | none => s
  | some l =>
    if l.out.isSome then s
    else
      let e := rspEntry l.req.op status 4 l.req.tag.toNat detail payload
      if rspRoom (s.ringsOf k) then
        let s := s.rspWrite k e
        s.setRings k { s.ringsOf k with long := none }
      else s.setRings k { s.ringsOf k with long := some { l with out := some e } }

/-- Close a function's rings (R256): every request, response and held event is discarded. -/
def State.closeRings (s : State) (k : Nat) : State :=
  let a := brnBase k + 0x200
  (({ s with regs := s.regs.filter fun (i, _) => !decide (a ≤ i ∧ i < a + 0x200) } : State)).setRings k brnReset

/-- A host writes a word of the request ring (R246, R249). -/
def State.reqRingWrite (s : State) (k i : Nat) (v : W) : State :=
  let b := s.ringsOf k
  if b.st ≠ .opened then s
  else
    let s := s.setReg (brnBase k + 0x200 + 4 * i) v
    let live := (List.range 4).filterMap fun j =>
      let c := (b.reqCons + BitVec.ofNat 8 j)
      if j < (b.reqProd - b.reqCons).toNat ∧ c.toNat % 4 = i / 16 then some c.toNat else none
    s.setRings k { b with dirty := live.foldl (fun l c => addNat c l) b.dirty }

/-- REQ_PROD (R246, R248). -/
def State.reqProdWrite (s : State) (k : Nat) (v : W) (ag : Agent) : State :=
  let b := s.ringsOf k
  let n : BitVec 8 := v.truncate 8
  if b.st ≠ .opened then s
  else if 4 < (n - b.reqCons).toNat then
    (s.setReg (brnBase k + 0x120) (s.reg (brnBase k + 0x120) ||| 2)).rsvdValue (brnBase k + 0x110) (brnBase k) 0 ag
  else s.setRings k { b with reqProd := n }

/-- RSP_CONS (R246, R250): freed entries take a final response that waits. -/
def State.rspConsWrite (s : State) (k : Nat) (v : W) : State :=
  let b := s.ringsOf k
  if b.st ≠ .opened then s
  else
    let s := s.setRings k { b with rspCons := v.truncate 8 }
    match b.long with
    | some l => (match l.out with
      | some e => if rspRoom (s.ringsOf k) then
          let s := s.rspWrite k e
          s.setRings k { s.ringsOf k with long := none }
        else s
      | none => s)
    | none => s

/-- BRIANE_EVENT_DELIVER (R255): the oldest held event of function `k` is written into its response ring. -/
def execBrianeEventDeliver (k : Nat) (s : State) : Host.Outcome State Fault Refusal :=
  let b := s.ringsOf k
  .next (match b.held with
    | e :: t =>
      if b.st = .opened ∧ rspRoom b then
        let s := s.rspWrite k (rspEntry e.code 0 (1 + 2 * b2n b.lostFlag) 0 0 e.payload)
        s.setRings k { s.ringsOf k with held := t, lostFlag := false }
      else s
    | [] => s)

/-! ### Handshake (R258 to R261) -/

/-- Fausk answers an offer (R258). -/
def State.negotiate (s : State) (k : Nat) : State :=
  let v := (s.reg (brnBase k + 0x100)).toNat
  let lo := v % 65536
  let hi := v / 65536
  let a := max lo s.fw.verMin.toNat
  let b := min hi s.fw.verMax.toNat
  let r := s.ringsOf k
  let s := if lo ≤ hi ∧ a ≤ b then s.setRings k { r with st := .opened, maj := b / 256, min := b % 256 }
    else (s.setRings k { r with st := .rejected, maj := 0, min := 0 }).cause 0xA000 9
  s.cause (brnBase k) 9

/-- VER_CTRL.HELLO (R258 to R261, R283): ignored before READY and during a reset; during a firmware swap the answer waits. -/
def State.hello (s : State) (k : Nat) (ag : Agent) : State :=
  let r := s.ringsOf k
  if r.st = .negotiating ∨ r.st = .opened then s.rsvdValue (brnBase k + 0x104) (brnBase k) 0 ag
  else if s.pw.stage ≠ .ready ∨ (s.inst k).st = .resetting ∨ (s.inst k).st = .unassigned ∨ (s.fn k).flr then s
  else
    let s := s.setRings k { r with st := .negotiating }
    if s.fw.swapping then s else s.negotiate k

/-- Functions whose handshake waited for the end of a swap are answered. -/
def State.negotiateAll (s : State) : State :=
  (List.range 128).foldl (fun s k => if (s.ringsOf k).st = .negotiating then s.negotiate k else s) s

/-! ### Requests (R251, R254, R257, R265, R266, R308) -/

/-- The sixteen words of a request entry. -/
def State.reqWords (s : State) (k i : Nat) : List W := (List.range 16).map fun j => s.reg (brnBase k + 0x200 + 64 * i + 4 * j)

/-- A request read from its 64 bytes. -/
def reqOf (bs : List Byte) : Req :=
  { op := leNat (bytesAt bs 0 2), target := leNat (bytesAt bs 2 1), tag := BitVec.ofNat 32 (leNat (bytesAt bs 4 4)),
    reserved := bs.getD 3 0, payload := bytesAt bs 8 56 }

/-- Requests a SHADOWED instance takes (R308, R371). -/
def shadowOk (op : Nat) (pl : List Byte) : Bool :=
  op == 0x0001 || op == 0x0002 || op == 0x0501 || op == 0x0503 || op == 0x0504 || op == 0x0601 || op == 0x0602 || op == 0x0603 ||
    (op == 0x0505 && pl.getD 0 0 == 1)

/-- The checks a request meets before its payload is read: reserved byte, sender, target, removal, state of the target, another
long request. Answers status and DETAIL of the first failure. -/
def State.reqCheck (s : State) (k : Nat) (i : OpInfo) (r : Req) : Option (Nat × Nat) :=
  let t := (s.inst r.target).st
  if r.reserved ≠ 0 then some (3, 0)
  else if i.sender = .pf ∧ k ≠ 0 then some (4, 0)
  else if k ≠ 0 ∧ r.target ≠ k then some (4, 0)
  else if 128 ≤ r.target then some (3, 0)
  else if i.sender = .pf ∧ !i.target ∧ r.target ≠ 0 then some (3, 0)
  else if k = 0 ∧ i.sender ≠ .pf ∧ t = .unassigned then some (4, 0)
  else if s.pw.removing ∧ (r.op / 256 = 1 ∨ r.op / 256 = 5) then some (6, 0)
  else if i.target ∧ t = .shadowed ∧ !shadowOk r.op r.payload then some (6, 5)
  else if i.sender ≠ .pf ∧ t = .resetting ∧ r.op ≠ 1 ∧ r.op ≠ 2 then some (6, 6)
  else if i.long ∧ (s.ringsOf k).long.isSome then some (7, 0)
  else none

/-- BRIANE_REQUEST_START (R251 to R254): Fausk takes the next request of function `k` and makes its first checks. An entry that
was written again after REQ_PROD covered it reads as free bytes (R249). -/
def execBrianeRequestStart (k : Nat) (s : State) : Host.Outcome State Fault Refusal :=
  let b := s.ringsOf k
  .next (if b.st ≠ .opened ∨ b.cur.isSome ∨ b.reqCons = b.reqProd ∨ !rspRoom b ∨ s.fw.swapping ∨ s.pw.safe ∨ 2 ∈ s.sec.halted ∨ s.pw.stage ≠ .ready then s
    else
      let c := b.reqCons
      let d := if c.toNat ∈ b.dirty then s.drawBytes 64 else (wordsBytes (s.reqWords k (c.toNat % 4)), s)
      let r := reqOf d.1
      let s := d.2.setRings k { b with reqCons := c + 1, cur := some r, dirty := b.dirty.filter (· ≠ c.toNat) }
      match opFor b r.op with
      | none => s
      | some i => match s.reqCheck k i r with
        | some (st, det) => s.respond k r st det []
        | none => s)

/-- Carry out the request being served by function `k`, if it has the opcode. -/
def State.onReq (s : State) (k op : Nat) (f : State → Req → State) : State :=
  match (s.ringsOf k).cur with
  | some r => if r.op = op ∧ (opFor (s.ringsOf k) op).isSome then f s r else s
  | none => s

/-- BRIANE_RESERVED_OPCODE (R262, R264): an opcode the selected version does not define. -/
def execBrianeReservedOpcode (k : Nat) (s : State) : Host.Outcome State Fault Refusal :=
  .next (match (s.ringsOf k).cur with
    | some r => if (opFor (s.ringsOf k) r.op).isNone then s.respond k r 2 0 [] else s
    | none => s)

/-- A little-endian payload field. -/
def pay (r : Req) (o n : Nat) : Nat := leNat (bytesAt r.payload o n)

/-- Whether every payload byte outside the used ranges (offset, length) is zero (R257). -/
def unusedOk (r : Req) (used : List (Nat × Nat)) : Bool :=
  (List.range 56).all fun i => (used.any fun (o, n) => decide (o ≤ i ∧ i < o + n)) || r.payload.getD i 0 == 0

/-- PING (R268). -/
def execPing (k : Nat) (s : State) : Host.Outcome State Fault Refusal :=
  .next (s.onReq k 0x0001 fun s r =>
    if unusedOk r [] then s.respond k r 0 0 (leBytes 8 s.ck.gtime.toNat) else s.respond k r 3 0 [])

/-- GET_INFO (R268, R810). -/
def execGetInfo (k : Nat) (s : State) : Host.Outcome State Fault Refusal :=
  .next (s.onReq k 0x0002 fun s r =>
    let t := r.target
    let i := s.inst t
    let b := s.ringsOf t
    if !unusedOk r [] then s.respond k r 3 0 []
    else s.respond k r 0 0 (leBytes 8 s.fw.version.toNat ++ leBytes 2 s.fw.verMin.toNat ++ leBytes 2 s.fw.verMax.toNat ++
      leBytes 2 (if b.st = .opened then b.min + 256 * b.maj else 0) ++ leBytes 1 t ++ leBytes 1 (b2n (t = 0) + 2 * stCode i.st) ++
      leBytes 1 i.maxQ ++ leBytes 1 i.htab ++ leBytes 2 i.maxSync ++ leBytes 1 i.maxRes ++ [0] ++ leBytes 2 (s.slotList t).length ++
      leBytes 2 i.rights.toNat ++ leBytes 1 (b2n ((s.head 0).owner = some t) + 2 * b2n ((s.head 1).owner = some t))))

/-! ### The log (R271 to R276) -/

/-- Append a record to the log ring of 8,192 (R271). -/
def State.logAppend (s : State) (r : LogRec) : State :=
  let l := s.fw.log ++ [{ r with seq := s.fw.logHead }]
  let s := if 8192 < l.length ∧ !((l.headD r).readOut) then s.count 0xB114 else s
  { s with fw := { s.fw with log := if 8192 < l.length then l.drop 1 else l, logHead := s.fw.logHead + 1 } }

/-- Fausk writes a log record (R272): severity and core; its event code and arguments are Fausk's own, so they are free. -/
def State.logRec (s : State) (sev source inst : Nat) : State :=
  if sev < bitsOf (s.reg 0xB100).toNat 0 3 then s
  else
    let c := s.own.freeCtr
    (s.bumpFree).logAppend
      { gtime := s.ck.gtime, seq := 0, sev := sev, trace := false, source := source, srcIdx := 0, inst := inst,
        code := Config.freeNat c % 65536, args := (List.range 3).map fun i => Config.freeWord (c + i), readOut := false }

/-- The bytes of a log record (06). -/
def logBytes (r : LogRec) : List Byte :=
  leBytes 8 r.gtime.toNat ++ leBytes 4 r.seq.toNat ++ leBytes 1 (r.sev + 128 * b2n r.trace) ++ leBytes 1 r.source ++ leBytes 1 r.srcIdx ++
  leBytes 1 r.inst ++ leBytes 2 r.code ++ leBytes 2 0 ++ bytesAt (wordsBytes r.args) 0 12

/-- How old a record is: none where it is not yet written, else how many records behind the head. -/
def State.logAge (s : State) (q : W) : Option Nat :=
  let a := (s.fw.logHead - q).toNat
  if a = 0 ∨ 2 ^ 31 ≤ a then none else some a

/-- A log record by SEQ. -/
def State.logFind (s : State) (q : W) : Option LogRec := s.fw.log.find? (·.seq = q)

/-- LOG_SEL is written (R273): the record counts as read. -/
def State.logSelect (s : State) (q : W) : State :=
  let s := s.setReg 0xB108 q
  { s with fw := { s.fw with log := s.fw.log.map fun r => if r.seq = q then { r with readOut := true } else r } }

/-- Whether no host-bound write of an instance waits to be issued. -/
def State.issuedAll (s : State) (k : Nat) : Bool := !(s.pcie.held.any fun m => msgInst m == k)

/-- LOG_FETCH (R274): copies log records to a host buffer of the instance. -/
def execLogFetch (k : Nat) (s : State) : Host.Outcome State Fault Refusal :=
  .next (s.onReq k 0x0800 fun s r =>
    let n := pay r 4 2
    let buf := pay r 8 8
    if !unusedOk r [(0, 6), (8, 12)] ∨ n = 0 ∨ 2048 < n ∨ buf % 32 ≠ 0 ∨ pay r 16 4 < 32 * n then s.respond k r 3 0 []
    else
      let first := BitVec.ofNat 32 (pay r 0 4)
      let seqs := (List.range n).map fun i => first + BitVec.ofNat 32 i
      let gone := (seqs.filter fun q => match s.logAge q with | some a => decide (s.fw.log.length < a) | none => false).length
      let recs := seqs.filterMap fun q => match s.logFind q with
        | some x => if r.target = 0 ∨ x.inst = r.target then some x else none
        | none => none
      let s := { s with fw := { s.fw with log := s.fw.log.map fun (x : LogRec) => if recs.any (fun (y : LogRec) => y.seq == x.seq) then { x with readOut := true } else x } }
      let f := match recs with | x :: _ => (x.seq, s) | [] => s.drawWord
      let s := f.2.respondPending k r { longNew r with data := leBytes 4 f.1.toNat ++ leBytes 2 recs.length ++ leBytes 2 gone }
      s.hostWrite r.target buf (recs.flatMap logBytes) true)

/-- LOG_FETCH_DONE (R274): every host-bound write of function `k`'s LOG_FETCH copy has been issued. -/
def execLogFetchDone (k : Nat) (s : State) : Host.Outcome State Fault Refusal :=
  .next (match (s.ringsOf k).long with
    | some l => if l.req.op = 0x0800 ∧ s.issuedAll l.req.target then s.finishLong k 0 0 l.data else s
    | none => s)

/-- LOG_CONFIG (R268, R292). -/
def execLogConfig (k : Nat) (s : State) : Host.Outcome State Fault Refusal :=
  .next (s.onReq k 0x0801 fun s r =>
    if !unusedOk r [(0, 1)] ∨ 4 < pay r 0 1 then s.respond k r 3 0 []
    else (s.setReg 0xB100 (BitVec.ofNat 32 (pay r 0 1))).respond k r 0 0 [])

/-- TRACE_SET (R275, R292). -/
def execTraceSet (k : Nat) (s : State) : Host.Outcome State Fault Refusal :=
  .next (s.onReq k 0x0802 fun s r =>
    if !unusedOk r [(0, 32)] then s.respond k r 3 0 []
    else ((List.range 8).foldl (fun s i => s.setReg (0xB140 + 4 * i) (BitVec.ofNat 32 (pay r (4 * i) 4))) s).respond k r 0 0 [])

end Sys2Proof.Machine
end

