-- ==== Sys2Proof/Machine/Instances.lean ====
section
/-! DEFINITION. Instances (07): life cycle, quiesce, kill, reset, slots and their scrub, cluster groups, heads and isolation. -/

set_option Elab.async false
namespace Sys2Proof.Machine

/-- CTRL of an instance entry: QUIESCE_LIMIT and AUTO_RESET. -/
def aInstCtrl (k : Nat) : Nat := 0x1F1004 + 64 * k

/-! ### State changes (R307, R309, R311) -/

/-- A buffer that a restore brought back and nothing has read yet (R358). -/
def frameBare (f : Frame) : Bool := f.words == [] && f.got == [] && f.fails == []

/-- An instance enters ACTIVE: latched tails are processed (R307), contexts that can run run, and reservations that a restore
dropped are reported (R374). -/
def State.instActive (s : State) (k : Nat) : State :=
  let drop := (s.inst k).resDropped
  let s := s.setInst k { s.inst k with resDropped := [] }
  let s := drop.foldl (fun s r => s.postEvent k 0x8003 ([BitVec.ofNat 8 r, 4, 0, 0] ++ leBytes 4 0)) s
  let s := ((s.queues.filter fun (_, q) => decide (q.inst = k) && q.st == .running).map (·.1)).foldl (fun s h =>
    (if (s.queue h).frames.any frameBare then s.refreshFrames h else s).fetch h) s
  s.kick

/-- An instance changes state for a cause (R311): event, causes, capture of the transition. -/
def State.setSt (s : State) (k : Nat) (new : InstSt) (cause : Nat) : State :=
  let i := s.inst k
  let s := s.setInst k { i with st := new, cause := cause, trans := min (i.trans + 1) 0xFFFF }
  let s := s.postEvent k 0x8002 [BitVec.ofNat 8 (stCode i.st), BitVec.ofNat 8 (stCode new), BitVec.ofNat 8 cause]
  let s := (s.causes 0x1F0000 (2 ^ 8 + if new = .faulted then 2 ^ 9 else 0)).cause (instWin k) 8
  if new = .active then s.instActive k else s

/-! ### What still runs, and the kill (R316 to R320) -/

/-- Whether a context counts as saved. `loose` says that a parked context without a save area does too (R317, R498). -/
def ctxQuiet (l : Launch) (loose : Bool) (c : Ctx) : Bool := c.st == .swappedOut || (loose && l.save == 0 && c.st == .parked)

/-- Whether every context of a launch counts as saved. -/
def State.launchQuiet (s : State) (loose : Bool) (i : Nat) (l : Launch) : Bool :=
  (s.ctxs.any fun (k, _) => k / 16 == i) && s.ctxs.all fun (k, c) => k / 16 != i || ctxQuiet l loose c

/-- The dispatched launches of an instance that still run. -/
def State.liveLaunches (s : State) (k : Nat) (loose : Bool) : List Nat :=
  s.launches.filterMap fun (i, l) => if l.inst = k ∧ l.dispatched ∧ !s.launchQuiet loose i l then some i else none

/-- The begun commands of an instance that still run. -/
def State.liveCmds (s : State) (k : Nat) (loose : Bool) : List Cmd :=
  let ls := s.liveLaunches k loose
  s.cmds.filter fun c => decide ((s.queue c.hwq).inst = k) && (match c.work with | .launch i => ls.contains i | _ => true)

/-- Whether a context or command of a quiescing instance still runs (R316, R317). -/
def State.instBusy (s : State) (k : Nat) : Bool :=
  match (s.inst k).quiesce with
  | none => false
  | some q => (q.drain && !q.killed && !q.forced && s.launches.any fun (_, l) => l.inst == k && l.dispatched) ||
      s.liveCmds k (!q.drain && !q.forced) != []

/-- The record of a killed command: kind and DETAIL. A copy that has issued part of its host-bound bytes ends INCOMPLETE (R168,
R318). -/
def State.killRecord (s : State) (c : Cmd) : Nat × Option Nat :=
  match c.work with
  | .copy id => (match s.mover id with | some m => (if moverPart m then 1 else 2, some (moverDetail m)) | none => (2, none))
  | .incomplete n x => (1, some (n % 2 ^ 40 + 2 ^ 48 * x))
  | _ => (2, none)

/-- Remove commands in flight with their waits, their reads and their copies. -/
def State.dropCmds (s : State) (dead : List Cmd) : State :=
  let ids := dead.map (·.id)
  let ms := dead.filterMap fun c => match c.work with | .copy i => some i | _ => none
  let s := ms.foldl (fun s i => match s.mover i with | some m => (s.countIncomplete m).dropMover i | none => s) s
  { s with
    cmds := s.cmds.filter fun c => !ids.contains c.id
    sync := { s.sync with
      waiters := s.sync.waiters.filter fun w => match w.who with | .queue _ c => !ids.contains c | _ => true
      fifo := s.sync.fifo.filter fun o => match o.who with | .queue _ c => !(ids.contains c && hubWaits o.kind) | _ => true }
    pcie := { s.pcie with reads := s.pcie.reads.filter fun r => match r.what with | .operand c _ => !ids.contains c | _ => true } }

/-- Drop the host-bound messages of an instance that are not yet issued (R318, R114). -/
def State.dropHeld (s : State) (k : Nat) : State :=
  { s with pcie := { s.pcie with held := s.pcie.held.filter fun m => msgInst m != k } }

/-- Stop an instance's copies where they are: a free number of the remaining bytes had moved. -/
def State.cutMovers (s : State) (k : Nat) : State := (s.movers.filter (·.inst = k)).foldl (fun s m => s.moverCut m.id) s

/-- The kill of step 4 (R318): launches and commands that still run end, and each queue with one of them enters FAULTED with
QUIESCE_KILL at the oldest. -/
def State.killWork (s : State) (k : Nat) (loose : Bool) : State :=
  let s := s.cutMovers k
  let dead := s.liveCmds k loose
  let first := s.queues.filterMap fun (h, _) => (dead.find? (·.hwq = h)).map fun c => (h, c, s.killRecord c)
  let s := (s.liveLaunches k loose).foldl (fun s i => s.killLaunch i) s
  let s := (s.dropCmds dead).dropHeld k
  (first.foldl (fun s (h, c, kind, d) =>
    s.queueFault h 0x0108 (cmdPos c) kind (d.getD 0) (d.getD (cmdDetail (cmdPos c)))) s).kick

/-- Step 3 of a quiesce in PREEMPT mode (R317): spinning contexts become parked, running ones are asked to yield; a launch
without a save area runs on (R498). -/
def State.askStop (s : State) (k : Nat) : State :=
  s.ctxs.foldl (fun s (key, _) =>
    match s.ctx (key / 16) (key % 16), tblFind (key / 16) s.launches with
    | some c, some l =>
      if l.inst ≠ k ∨ l.save = 0 ∧ c.st ≠ .spinning then s
      else if c.st = .spinning then
        (s.countField 0x180134 0 16 1).leaveRun (key / 16) (key % 16) { c with st := .parked, yieldReq := false }
      else if c.st = .running then (s.askYield (key / 16) (key % 16) c).tryStop (key / 16) (key % 16)
      else s
    | _, _ => s) s

/-! ### Fault records of an owner are acknowledged (R765) -/

/-- Acknowledge the records whose owner and queue satisfy a condition, and close their open entries. -/
def State.ackWhere (s : State) (p : Owner → Option Nat → Bool) : State :=
  { s with fcol := { s.fcol with
      ring := s.fcol.ring.map fun (r : FRec) => if p r.owner r.hwq then { r with acked := true } else r
      open_ := s.fcol.open_.filter fun e => !p e.owner e.hwq } }

/-- Whether a record is acknowledged by the reset of an instance. -/
def ownedBy (k : Nat) : Owner → Option Nat → Bool
  | .inst j, _ | .queue j _, _ | .ctx j _ _, _ => j == k
  | .agent c j, _ => (c == 1 || c == 2) && j == k
  | .device, _ => false

/-! ### What a reset clears (R314, R112) -/

/-- Registers of an address range return to their reset values, but for those a condition keeps. -/
def State.resetRange (s : State) (lo n : Nat) (keep : Nat → Bool) : State :=
  let cut (t : Tbl W) : Tbl W := t.filter fun (a, _) => !(decide (lo ≤ a ∧ a < lo + n) && !keep (a - lo))
  { s with regs := cut s.regs, expert := cut s.expert, effect := cut s.effect, lowWord := cut s.lowWord }

/-- BLK_LOCK, which no instance reset clears (R112). -/
def isLock (o : Nat) : Bool := o == 0x1C

/-- A head is taken from its owner (R315, R700): the hold begins and the loser is told. -/
def State.releaseHead (s : State) (d k : Nat) : State := (s.holdStart d).postEvent k 0x8005 [BitVec.ofNat 8 d, 0, 0xFF]

/-- Pages of frames that heads hold. -/
def State.heldPages (s : State) : List Nat :=
  s.disp.heads.flatMap fun v => if v.hold then (match v.cur with | some f => f.pages.map (·.2) | none => []) else []

/-- The contents of slots become open (R112), but for frames under head hold (R122). -/
def State.forget (s : State) (ns : List Nat) : State :=
  let keep := s.heldPages
  let n := s.own.freeCtr
  if ns = [] then s
  else s.bumpFree |> fun s => { s with
    mem := s.mem.filter fun (a, v) => !ns.contains (a / 2 ^ 28) || (keep.contains (a / 4096) && v != 0)
    vague := ns.foldl (fun t m => tblPut m (n, keep.filter fun p => p / 65536 == m) t) s.vague }

/-- Release every slot of an instance for scrub (R302); their contents are open until then (R112). -/
def State.releaseSlots (s : State) (k : Nat) : State :=
  let s := s.forget (s.slots.filterMap fun (n, v) => if v.owner = some k ∧ v.scrub = .clean then some n else none)
  { s with slots := s.slots.map fun (n, v) => (n, if v.owner = some k then { owner := none, scrub := if v.scrub = .clean then .waiting else v.scrub } else v) }

/-- Remove the sync blocks of an instance with everything in them (R577, R542). -/
def State.freeBlocks (s : State) (k : Nat) : State :=
  let s := s.dropInstSync k
  let gone := s.sync.blocks.filterMap fun (b, o) => if o.1 = k then some b else none
  { s with sync := { s.sync with
      objs := s.sync.objs.filter fun (i, _) => !gone.contains (i / 64)
      blocks := s.sync.blocks.filter fun (_, o) => o.1 != k } }

/-- Free the queues of an instance with everything of theirs that is in flight. -/
def State.freeQueues (s : State) (k : Nat) : State :=
  let s := s.cutMovers k
  let s := s.dropCmds (s.cmds.filter fun c => (s.queue c.hwq).inst = k)
  let s := s.killInstLaunches k
  { s with
    queues := s.queues.filter fun (_, q) => q.inst != k
    movers := s.movers.filter (·.inst ≠ k)
    pcie := { s.pcie with reads := s.pcie.reads.filter (·.inst ≠ k) } }

/-- The clearing of an instance in RESETTING (R314, R112): every resource goes; quotas, QUIESCE_LIMIT and AUTO_RESET stay. -/
def State.resetInst (s : State) (k : Nat) : State :=
  let s := ((s.freeQueues k).dropHeld k).freeBlocks k
  let s := { s with
    htab := s.htab.filter fun (i, _) => i / 65536 != k
    sess := s.sess.filter fun (_, v) => !(v.active && v.inst == k) }
  let s := ((s.resvs.filter fun (_, v) => v.valid && v.inst == k).map (·.1)).foldl (fun s r => s.freeResv r) s
  let s := [0, 1].foldl (fun s d => if (s.head d).owner = some k then s.releaseHead d k else s) s
  let s := ((s.releaseSlots k).dropTlb k)
  let s := { s with
    caches := { s.caches with l1 := s.caches.l1.filter (·.inst ≠ k) }
    pcie := { s.pcie with pba := s.pcie.pba.filter fun v => v / 16 != k } }
  let s := s.setInst k { s.inst k with rights := 0, quiesce := none, root := 0, resDropped := [], moved := [] }
  let s := ((s.resetRange (instWin k) 0x1000 isLock).resetRange (instWin k + 0x1000) 0x200 fun _ => false).resetRange (instWin k + 0x3000) 0x900 fun _ => false
  let s := if k = 0 then s else s.closeRings k
  (s.ackWhere (ownedBy k)).kick

/-- An instance enters RESETTING (R309, R314): `remove` says the reset ends in UNASSIGNED. -/
def State.enterReset (s : State) (k : Nat) (remove : Bool) (cause : Nat) : State :=
  let s := (s.setSt k .resetting cause).resetInst k
  s.setInst k { s.inst k with removing := remove }

/-! ### The requests that wait for an instance (R328, R338, R340) -/

/-- A set of instances as the sixteen bytes of a mask. -/
def instMask (l : List Nat) : List Byte := leBytes 16 ((l.map fun k => 2 ^ k).sum)

/-- The final response of an INST_QUIESCE whose last instance is settled. -/
def State.quiesceAnswer (s : State) (l : Long) : Nat × Nat × List Byte :=
  match l.failed with
  | [] => (0, 0, instMask l.done ++ instMask [])
  | k :: _ => (6, stCode (s.inst k).st, instMask l.done ++ instMask l.failed)

/-- An instance that a pending INST_QUIESCE waits for is quiesced, or its quiesce was overtaken. -/
def State.quiesceReport (s : State) (k : Nat) (ok : Bool) : State :=
  match (s.ringsOf 0).long with
  | none => s
  | some l =>
    if l.req.op ≠ 0x0502 ∨ !l.mask.contains k then s
    else
      let l := { l with
        mask := l.mask.filter (· != k)
        done := if ok then addNat k l.done else l.done
        failed := if ok then l.failed else addNat k l.failed }
      let s := s.setRings 0 { s.ringsOf 0 with long := some l }
      if l.mask = [] then let a := s.quiesceAnswer l; s.finishLong 0 a.1 a.2.1 a.2.2 else s

/-- An INST_RESET or INST_REMOVE that waits for an instance ends (R340). -/
def State.resetReport (s : State) (k : Nat) : State :=
  match (s.ringsOf 0).long with
  | some l => if (l.req.op = 0x0503 ∨ l.req.op = 0x0504) ∧ l.req.target = k then s.finishLong 0 0 0 [] else s
  | none => s

/-! ### Triggers (R309, R310, R324, R325) -/

/-- The wider of two ends of a quiesce. -/
def afterRank : After → Nat
  | .quiesced => 0 | .reset false => 1 | .reset true => 2

/-- A forced quiesce kills at once (R320); otherwise a PREEMPT one asks the contexts to stop. -/
def State.beginStop (s : State) (k : Nat) (q : Quiesce) : State :=
  if q.forced then (s.killWork k false).setInst k { (s.killWork k false).inst k with quiesce := some { q with killed := true } }
  else if q.drain then s
  else s.askStop k

/-- A trigger that moves an instance out of its state (R309): mode, forced form, L2 reaction, where it leads, CAUSE. -/
def State.trigger (s : State) (k : Nat) (drain forced fault : Bool) (after : After) (cause : Nat) : State :=
  let i := s.inst k
  let q : Quiesce := { drain := drain, forced := forced, killed := false, fault := fault, after := after, cause := cause }
  match i.st, i.quiesce with
  | .unassigned, _ => s
  | .resetting, _ => if after = .reset true then s.setInst k { i with removing := true } else s
  | _, some o =>
    let up := decide (afterRank o.after < afterRank after)
    let n : Quiesce := { o with
      forced := o.forced || forced, fault := o.fault || fault, after := if up then after else o.after, cause := if up then cause else o.cause }
    let s := s.setInst k { i with quiesce := some n }
    let s := if up || fault then s.quiesceReport k false else s
    if n.forced && !o.forced then s.beginStop k n else s
  | .active, none =>
    let s := if fault then s else s.setSt k .quiescing cause
    (s.setInst k { s.inst k with quiesce := some q }).beginStop k q
  | .quiesced, none =>
    if fault then (s.setInst k { i with quiesce := some q }).beginStop k q
    else (match after with | .reset r => s.enterReset k r cause | .quiesced => s)
  | _, none => match after with | .reset r => s.enterReset k r cause | .quiesced => s

/-! ### The rows of the quiesce sequence -/

/-- QUIESCE_LIMIT_EXPIRY (R316, R318): step 4 of a normal quiesce kills what still runs. -/
def execQuiesceLimitExpiry (k : Nat) (s : State) : Host.Outcome State Fault Refusal :=
  .next (match (s.inst k).quiesce with
    | some q =>
      if (s.inst k).st ≠ .quiescing ∨ q.killed ∨ !s.instBusy k then s
      else
        let s := s.killWork k (!q.drain)
        s.setInst k { s.inst k with quiesce := some { q with killed := true } }
    | none => s)

/-- Whether a host-bound write of an instance is still queued. -/
def State.queuedWrites (s : State) (k : Nat) : Bool := (s.pcie.txq ++ s.pcie.held).any fun m => msgInst m == k

/-- QUIESCE_FLUSH_DONE (R316 steps 5 and 6, R310): nothing of instance `k` runs or waits to be sent, and it enters QUIESCED; a
trigger that leads further then resets it. -/
def execQuiesceFlushDone (k : Nat) (s : State) : Host.Outcome State Fault Refusal :=
  .next (match (s.inst k).quiesce with
    | some q =>
      if (s.inst k).st ≠ .quiescing ∨ q.fault ∨ s.instBusy k ∨ s.queuedWrites k then s
      else
        let s := s.setSt k .quiesced q.cause
        let s := s.setInst k { s.inst k with quiesce := none }
        match q.after with
        | .quiesced => s.quiesceReport k true
        | .reset r => s.enterReset k r q.cause
    | none => s)

/-- FLUSH_TIMEOUT (R319): what instance `k` still has queued 10 ms after its kill is discarded; discarded writes are counted. -/
def execFlushTimeout (k : Nat) (s : State) : Host.Outcome State Fault Refusal :=
  .next (match (s.inst k).quiesce with
    | some q =>
      if !q.killed then s
      else
        let n := (s.pcie.txq.filter fun m => match m with | .write j _ _ _ _ => j == k | _ => false).length
        let s := { s with pcie := { s.pcie with txq := s.pcie.txq.filter fun m => msgInst m != k } }
        (s.dropHeld k).countField (0x1F1024 + 64 * k) 0 32 n
    | none => s)

/-- FORCED_KILL_DONE (R325, R326): the kill of an L2 reaction is complete; instance `k` enters FAULTED and, with AUTO_RESET 1 or a
reset pending, RESETTING. -/
def execForcedKillDone (k : Nat) (s : State) : Host.Outcome State Fault Refusal :=
  .next (match (s.inst k).quiesce with
    | some q =>
      if !q.fault then s
      else
        let s := s.setInst k { s.inst k with quiesce := none }
        let s := (s.setSt k .faulted 5).quiesceReport k false
        match q.after with
        | .reset r => s.enterReset k r q.cause
        | .quiesced => if bitOf (s.reg (aInstCtrl k)).toNat 16 then s.enterReset k false 5 else s
    | none => s)

/-- Quotas cleared (R314). -/
def noQuota (i : Inst) : Inst := { i with maxQ := 0, htab := 0, maxSync := 0, maxRes := 0 }

/-- INSTANCE_RESET_DONE (R309, R313, R314, R340): the reset of instance `k` ends in CONFIGURED or UNASSIGNED, INST_0's in ACTIVE. -/
def execInstanceResetDone (k : Nat) (s : State) : Host.Outcome State Fault Refusal :=
  let i := s.inst k
  .next (if i.st ≠ .resetting then s
    else
      let s := s.setInst k { (if i.removing then noQuota i else i) with removing := false }
      (s.setSt k (if k = 0 then .active else if i.removing then .unassigned else .configured) i.cause).resetReport k)

/-! ### Requests of the life cycle -/

/-- The sum of a quota over the other instances. -/
def State.otherQuota (s : State) (t : Nat) (f : Inst → Nat) : Nat :=
  ((List.range 128).map fun k => if k = t then 0 else f (s.inst k)).sum

/-- HTAB entries of an instance (R405). -/
def htabSize (n : Nat) : Nat := if n = 0 then 0 else 2 ^ n

/-- Queues an instance has. -/
def State.queuesHeld (s : State) (k : Nat) : Nat := (s.queues.filter fun (_, q) => q.st != .free && q.inst == k).length
/-- Sync blocks an instance holds. -/
def State.blocksHeld (s : State) (k : Nat) : Nat := (s.ordinals k).length
/-- Reservations an instance holds. -/
def State.resvsHeld (s : State) (k : Nat) : Nat := (s.resvs.filter fun (_, v) => v.valid && v.inst == k).length

/-- INST_CONFIGURE (R294, R312, R337, R405). -/
def execInstConfigure (k : Nat) (s : State) : Host.Outcome State Fault Refusal :=
  .next (s.onReq k 0x0500 fun s r =>
    let t := r.target
    let i := s.inst t
    let mq := pay r 0 1
    let hl := pay r 1 1
    let ms := pay r 2 2
    let mr := pay r 4 1
    let fl := pay r 5 1
    let ql := pay r 6 2
    if !unusedOk r [(0, 8)] ∨ 64 < mq ∨ (hl ≠ 0 ∧ (hl < 8 ∨ 16 < hl)) ∨ 256 < ms ∨ 64 < mr ∨ 1 < fl ∨ ql = 0 ∨ 1000 < ql then s.respond k r 3 0 []
    else if t ≠ 0 ∧ (!s.pcie.vfEn ∨ s.pcie.numVfs < t) then s.respond k r 6 (stCode i.st) []
    else if !(i.st = .unassigned ∨ i.st = .configured ∨ i.st = .quiesced ∨ (t = 0 ∧ i.st = .active)) then s.respond k r 6 (stCode i.st) []
    else if mq < s.queuesHeld t ∨ ms < s.blocksHeld t ∨ mr < s.resvsHeld t then s.respond k r 6 1 []
    else if 1024 < s.otherQuota t (·.maxQ) + mq ∨ 256 < s.otherQuota t (·.maxSync) + ms ∨ 256 < s.otherQuota t (·.maxRes) + mr ∨
        4194304 < s.otherQuota t (fun i => htabSize i.htab) + htabSize hl then s.respond k r 5 0 []
    else
      let s := s.setInst t { i with maxQ := mq, htab := hl, maxSync := ms, maxRes := mr }
      let s := s.setReg (aInstCtrl t) (BitVec.ofNat 32 (ql + 65536 * fl))
      let s := s.respond k r 0 0 []
      if i.st = .unassigned then s.setSt t .configured 0 else s)

/-- INST_ACTIVATE (R309, R327, R371). -/
def execInstActivate (k : Nat) (s : State) : Host.Outcome State Fault Refusal :=
  .next (s.onReq k 0x0501 fun s r =>
    let i := s.inst r.target
    if !unusedOk r [] then s.respond k r 3 0 []
    else if i.quiesce.isSome ∨ !(i.st = .configured ∨ i.st = .quiesced ∨ i.st = .shadowed) then s.respond k r 6 (stCode i.st) []
    else (s.respond k r 0 0 []).setSt r.target .active 0)

/-- Whether an instance counts as quiesced for INST_QUIESCE (R338). -/
def isQuiet (i : Inst) : Bool := i.quiesce.isNone && (i.st == .quiesced || i.st == .shadowed || i.st == .configured)

/-- Whether INST_QUIESCE waits for an instance. -/
def canQuiesce (i : Inst) : Bool :=
  match i.quiesce with
  | none => i.st == .active
  | some q => i.st == .quiescing && !q.fault && q.after == .quiesced

/-- INST_QUIESCE (R338, R309, R327). -/
def execInstQuiesce (k : Nat) (s : State) : Host.Outcome State Fault Refusal :=
  .next (s.onReq k 0x0502 fun s r =>
    if !unusedOk r [(0, 1), (8, 16)] ∨ 1 < pay r 0 1 then s.respond k r 3 0 []
    else
      let ks := (List.range 128).filter fun j => bitOf (pay r 8 16) j
      let wait := ks.filter fun j => canQuiesce (s.inst j)
      let l := { longNew r with
        mask := wait, done := ks.filter fun j => isQuiet (s.inst j)
        failed := ks.filter fun j => !isQuiet (s.inst j) && !canQuiesce (s.inst j) }
      if wait = [] then let a := s.quiesceAnswer l; s.respond k r a.1 a.2.1 a.2.2
      else wait.foldl (fun s j => if (s.inst j).st = .active then s.trigger j (pay r 0 1 == 1) false false .quiesced 0 else s)
        (s.respondPending k r l))

/-- INST_RESET and INST_REMOVE (R310, R340): a normal quiesce in PREEMPT mode where the instance is ACTIVE, then the reset. -/
def State.resetRequest (s : State) (k : Nat) (r : Req) (remove : Bool) : State :=
  let i := s.inst r.target
  if !unusedOk r [] then s.respond k r 3 0 []
  else if remove ∧ r.target = 0 then s.respond k r 4 0 []
  else if i.st = .unassigned then s.respond k r 6 0 []
  else (s.respondPending k r (longNew r)).trigger r.target false false false (.reset remove) 0

/-- INST_RESET (R340). -/
def execInstReset (k : Nat) (s : State) : Host.Outcome State Fault Refusal :=
  .next (s.onReq k 0x0503 fun s r => s.resetRequest k r false)
/-- INST_REMOVE (R340, R313). -/
def execInstRemove (k : Nat) (s : State) : Host.Outcome State Fault Refusal :=
  .next (s.onReq k 0x0504 fun s r => s.resetRequest k r true)

/-! ### Slots -/

/-- The first listed failure of a SLOT_ASSIGN after its format (R339, R305, R349). -/
def State.slotCheck (s : State) (t op : Nat) (l : List Nat) : Option (Nat × Nat) :=
  let st := (s.inst t).st
  let ok := if op = 0 then st == .configured || st == .active || st == .quiesced else st == .configured || st == .quiesced || st == .shadowed
  if l.any (fun n => !s.inPool n) || !decide l.Nodup then some (3, 0)
  else if !ok then some (6, stCode st)
  else if s.sess.any fun (_, v) => v.active && v.inst == t then some (6, 16)
  else if op = 0 ∧ l.any (fun n => (s.slot n).owner.isSome) then some (6, 3)
  else if op = 1 ∧ l.any (fun n => (s.slot n).owner != some t) then some (6, 3)
  else if op = 1 ∧ ([0, 1].any fun d => decide ((s.head d).owner = some t) && ((s.head d).cur.toList ++ (s.head d).pend.toList).any fun f =>
      f.pages.any fun (_, p) => l.contains (p / 65536)) then some (6, 2)
  else none

/-- Whether an assignment moves the position of a slot the instance already has (R636). -/
def State.slotsMove (s : State) (t : Nat) (l : List Nat) : Bool := (s.slotList t).any fun m => l.any fun n => decide (n < m)

/-- SLOT_ASSIGN (R301, R304, R305, R339, R349, R636). -/
def execSlotAssign (k : Nat) (s : State) : Host.Outcome State Fault Refusal :=
  .next (s.onReq k 0x0505 fun s r =>
    let t := r.target
    let op := pay r 0 1
    let n := pay r 1 1
    let l := (List.range n).map fun j => pay r (4 + 2 * j) 2
    if 1 < op ∨ n = 0 ∨ 20 < n ∨ !unusedOk r [(0, 2), (4, 2 * n)] then s.respond k r 3 0 []
    else match s.slotCheck t op l with
      | some (st, d) => s.respond k r st d []
      | none =>
        if op = 1 then
          let s := l.foldl (fun s n =>
            let v := s.slot n
            let s := s.setSlot n { owner := none, scrub := if v.scrub = .clean then .waiting else v.scrub }
            if v.scrub = .clean then s.cause (instWin t) 10 else s) s
          s.respond k r 0 0 (leBytes 4 0)
        else
          let mask := ((l.zipIdx.filter fun (n, _) => (s.slot n).scrub != .clean).map fun (_, j) => 2 ^ j).sum
          let i := s.inst t
          let s := if i.st = .active ∧ s.slotsMove t l then
              s.setInst t { i with moved := ((s.cmds.filter fun c => (s.queue c.hwq).inst = t).map (·.id)) ++
                (s.launches.filter fun (_, l) => l.inst == t && l.dispatched).map (·.1) }
            else s
          let s := l.foldl (fun s n =>
            let v := s.slot n
            let s := s.setSlot n { v with owner := some t }
            if v.scrub = .clean then s.cause (instWin t) 10 else s) s
          s.respond k r 0 0 (leBytes 4 mask))

/-- Whether a held head still reads a slot (R122, R303). -/
def State.heldSlot (s : State) (n : Nat) : Bool :=
  s.disp.heads.any fun v => v.hold && (match v.cur with | some f => f.pages.any fun (_, p) => p / 65536 == n | none => false)

/-- SLOT_SCRUB_START (R303): slot `n` begins its scrub while fewer than four do and no held frame lies in it. -/
def execSlotScrubStart (n : Nat) (s : State) : Host.Outcome State Fault Refusal :=
  let v := s.slot n
  .next (if v.scrub = .waiting ∧ (s.slots.filter fun (_, w) => w.scrub == .active).length < 4 ∧ !s.heldSlot n then
      (s.forget [n]).setSlot n { v with scrub := .active }
    else s)

/-- SLOT_SCRUB_DONE (R302, R304, R342, R343, R651): slot `n` is zero, its poison marks are gone, and it enters its owner's bitmap. -/
def execSlotScrubDone (n : Nat) (s : State) : Host.Outcome State Fault Refusal :=
  let v := s.slot n
  .next (if v.scrub ≠ .active then s
    else
      let s := { s with
        mem := s.mem.filter fun (a, _) => a / 2 ^ 28 != n
        vague := s.vague.filter fun (m, _) => m != n
        poison := s.poison.filter fun u => 32 * u / 2 ^ 28 != n
        flips := s.flips.filter fun (u, _) => 32 * u / 2 ^ 28 != n }
      let s := s.setSlot n { v with scrub := .clean }
      let s := match v.owner with
        | some k => s.cause (instWin k) 10
        | none => s
      if s.slots.all fun (_, w) => w.scrub == .clean then s.cause 0x1F0000 10 else s)

/-! ### Groups, heads, isolation -/

/-- CGRP_DEFINE (R297 to R299, R517). -/
def execCgrpDefine (k : Nat) (s : State) : Host.Outcome State Fault Refusal :=
  .next (s.onReq k 0x0506 fun s r =>
    let g := pay r 0 1
    let m : BitVec 16 := BitVec.ofNat 16 (pay r 2 2)
    if !unusedOk r [(0, 1), (2, 2)] ∨ 15 < g then s.respond k r 3 0 []
    else if m = 0 ∧ (List.range 128).any (fun j => bitOf (s.inst j).rights.toNat g) then s.respond k r 6 0 []
    else if !s.admits s.bcnPeriod (fun j => if j = g then m else s.grpMask j) [] then s.respond k r 8 0 []
    else (s.setReg (0x1F0140 + 4 * g) (BitVec.ofNat 32 m.toNat)).respond k r 0 0 [])

/-- CGRP_GRANT (R300). -/
def execCgrpGrant (k : Nat) (s : State) : Host.Outcome State Fault Refusal :=
  .next (s.onReq k 0x0507 fun s r =>
    let t := r.target
    let i := s.inst t
    let m := pay r 0 2
    let lost (g : Nat) : Bool := bitOf i.rights.toNat g && !bitOf m g
    if !unusedOk r [(0, 2)] ∨ (List.range 16).any (fun g => bitOf m g && s.grpMask g == 0) then s.respond k r 3 0 []
    else if i.st = .unassigned ∨ i.st = .resetting then s.respond k r 6 (stCode i.st) []
    else if (s.queues.any fun (_, q) => q.st != .free && q.inst == t && lost q.cgrp) || (s.resvs.any fun (_, v) => v.valid && v.inst == t && lost v.grp) then
      s.respond k r 6 0 []
    else (s.setInst t { i with rights := BitVec.ofNat 16 m }).respond k r 0 0 [])

/-- HEAD_ASSIGN (R699, R700). -/
def execHeadAssign (k : Nat) (s : State) : Host.Outcome State Fault Refusal :=
  .next (s.onReq k 0x0508 fun s r =>
    let t := r.target
    let i := s.inst t
    let d := pay r 0 1
    let op := pay r 1 1
    if !unusedOk r [(0, 2)] ∨ 1 < d ∨ 1 < op then s.respond k r 3 0 []
    else if !(i.st = .configured ∨ i.st = .active ∨ i.st = .quiesced) then s.respond k r 6 (stCode i.st) []
    else if op = 0 then
      if (s.head d).owner.isSome then s.respond k r 6 70 []
      else ((s.setHead d { s.head d with owner := some t }).respond k r 0 0 []).postEvent t 0x8005 [BitVec.ofNat 8 d, 1, BitVec.ofNat 8 t]
    else if (s.head d).owner ≠ some t then s.respond k r 6 71 []
    else (s.respond k r 0 0 []).releaseHead d t)

/-- Set an expert register while LEVEL is 1 (R46 to R48). -/
def State.setExpert (s : State) (a : Nat) (v : W) : State :=
  { (s.setReg a v) with expert := tblSet (regResetOf a) a v s.expert }

/-- LEVEL of a page's BLK_CTRL. -/
def State.levelOf (s : State) (base : Nat) : Bool := bitOf (s.reg (base + 8)).toNat 2

/-- ISOLATION_SET (R333, R335, R336). -/
def execIsolationSet (k : Nat) (s : State) : Host.Outcome State Fault Refusal :=
  .next (s.onReq k 0x0509 fun s r =>
    let kd := pay r 0 1
    let g := pay r 1 1
    let v := pay r 2 2
    if !unusedOk r [(0, 4)] ∨ 1 < kd ∨ (kd = 0 ∧ (r.target ≠ 0 ∨ 15 < g ∨ v = 0 ∨ 0xFFF < v)) ∨ (kd = 1 ∧ (g ≠ 0 ∨ 255 < v)) then s.respond k r 3 0 []
    else if !s.levelOf 0x1F0000 then s.respond k r 6 4 []
    else ((if kd = 0 then s.holdEffect (0x1F0600 + 4 * g) else s).setExpert (if kd = 0 then 0x1F0600 + 4 * g else 0x1F0400 + 4 * r.target)
        (BitVec.ofNat 32 v)).respond k r 0 0 [])

end Sys2Proof.Machine
end

