-- ==== Sys2Proof/Machine/Migration.lean ====
section
/-! DEFINITION. Live migration (08): dirty-log sessions, harvests, and Shadow images. -/

set_option Elab.async false
namespace Sys2Proof.Machine

/-! ### Dirty-log sessions (R344 to R357) -/

/-- The session of an instance: its number and record. -/
def State.sessOf (s : State) (k : Nat) : Option (Nat × Sess) := s.sess.find? fun (_, v) => v.active && v.inst == k

/-- A migration request names a VF (R355). -/
def State.onVf (s : State) (k op : Nat) (f : State → Req → State) : State :=
  s.onReq k op fun s r => if r.target = 0 then s.respond k r 4 0 [] else f s r

/-- The windows of a DIRTY_LOG_START. -/
def reqWindows (r : Req) (n : Nat) : List (W64 × Nat) :=
  (List.range n).map fun w => (BitVec.ofNat 64 (pay r (8 + 12 * w) 8), pay r (16 + 12 * w) 4)

/-- Windows keep R347: aligned bases, lengths in range, no overlap. -/
def windowsOk (l : List (W64 × Nat)) : Bool :=
  (l.all fun (b, n) => decide (b.toNat % 4096 = 0 ∧ 1 ≤ n ∧ n ≤ 262144)) &&
    l.zipIdx.all fun ((b, n), i) => l.zipIdx.all fun ((c, m), j) =>
      i == j || decide (b.toNat + 0x40000 * n ≤ c.toNat) || decide (c.toNat + 0x40000 * m ≤ b.toNat)

/-- HOST_BYTES of a session (R350). -/
def hostBytes (l : List (W64 × Nat)) : Nat := (l.map fun (_, n) => 8 * n).sum

/-- DIRTY_LOG_START (R347, R356). `fits` says that Fausk could allocate the bitmaps. -/
def execDirtyLogStart (k : Nat) (fits : Bool) (s : State) : Host.Outcome State Fault Refusal :=
  .next (s.onVf k 0x0600 fun s r =>
    let t := r.target
    let fl := pay r 0 1
    let nw := pay r 1 1
    let st := (s.inst t).st
    let ws := reqWindows r nw
    let host := bitOf fl 0
    let dev := bitOf fl 1
    if 3 < fl ∨ fl = 0 ∨ (host ∧ (nw = 0 ∨ 4 < nw)) ∨ (!host ∧ nw ≠ 0) ∨ !unusedOk r [(0, 2), (8, 12 * nw)] ∨ !windowsOk ws then s.respond k r 3 0 []
    else if st = .unassigned ∨ st = .resetting ∨ st = .shadowed ∨ st = .faulted then s.respond k r 6 (stCode st) []
    else if (s.sessOf t).isSome then s.respond k r 6 18 []
    else match (List.range 8).find? fun n => !(s.session n).active with
      | none => s.respond k r 5 0 []
      | some n =>
        if !fits then s.respond k r 5 0 []
        else
          let s := s.setSession n { sessReset with active := true, inst := t, host := host, dev := dev, wins := ws }
          s.respond k r 0 0 ([BitVec.ofNat 8 n, 0, 0, 0] ++ leBytes 4 (hostBytes ws) ++ leBytes 4 (if dev then 512 * (s.slotList t).length else 0)))

/-- The bytes of a bitmap of `n` bytes in which bit `b` says whether unit `b` is marked (R350). -/
def bitmapBytes (n : Nat) (marked : Nat → Bool) : List Byte :=
  (List.range n).map fun i => BitVec.ofNat 8 ((List.range 8).map fun j => if marked (8 * i + j) then 2 ^ j else 0).sum

/-- The host bitmaps of a session in window order. -/
def hostBitmap (v : Sess) : List Byte :=
  v.wins.zipIdx.flatMap fun ((_, n), w) => bitmapBytes (8 * n) fun u => v.spareH.contains (2 ^ 25 * w + u)

/-- The device bitmap of a session: 512 bytes for each slot in ascending order. -/
def devBitmap (v : Sess) (slots : List Nat) : List Byte :=
  slots.flatMap fun n => bitmapBytes 512 fun u => v.spareD.contains (4096 * n + u)

/-- DIRTY_HARVEST (R351, R354, R357): the sets of the kinds asked for swap, and the harvested set is copied to INST_0's buffers. -/
def execDirtyHarvest (k : Nat) (s : State) : Host.Outcome State Fault Refusal :=
  .next (s.onVf k 0x0601 fun s r =>
    let t := r.target
    let fl := pay r 0 1
    let host := bitOf fl 0
    let dev := bitOf fl 1
    if 3 < fl ∨ !unusedOk r [(0, 1), (8, 12), (0x18, 12)] then s.respond k r 3 0 []
    else match s.sessOf t with
      | none => s.respond k r 6 17 []
      | some (n, v) =>
        let hb := if v.host then hostBytes v.wins else 0
        let db := if v.dev then 512 * (s.slotList t).length else 0
        if (host ∧ pay r 0x10 4 < hb) ∨ (dev ∧ pay r 0x20 4 < db) then s.respond k r 3 0 []
        else
          let h := host && v.host
          let d := dev && v.dev
          let w := { v with
            spareH := if h then v.marksH else v.spareH, marksH := if h then v.spareH else v.marksH,
            spareD := if d then v.marksD else v.spareD, marksD := if d then v.spareD else v.marksD,
            missed := 0, harvest := s.ck.gtime }
          let s := s.setSession n w
          let data := leBytes 4 (if h then w.spareH.length else 0) ++ leBytes 4 (if d then w.spareD.length else 0) ++ leBytes 4 v.missed ++
            leBytes 4 0 ++ leBytes 8 s.ck.gtime.toNat
          let s := s.respondPending k r { longNew r with data := data }
          let s := if h then s.hostWrite 0 (pay r 8 8) (hostBitmap w) true else s
          if d then s.hostWrite 0 (pay r 0x18 8) (devBitmap w (s.slotList t)) true else s)

/-- DIRTY_HARVEST_DONE (R352, R353): the bitmaps of function `k`'s harvest are issued; the harvested set is cleared. -/
def execDirtyHarvestDone (k : Nat) (s : State) : Host.Outcome State Fault Refusal :=
  .next (match (s.ringsOf k).long with
    | some l =>
      if l.req.op = 0x0601 ∧ l.out.isNone ∧ s.issuedAll 0 then
        let s := match s.sessOf l.req.target with
          | some (n, v) => s.setSession n { v with spareH := [], spareD := [] }
          | none => s
        s.finishLong k 0 0 l.data
      else s
    | none => s)

/-- DIRTY_LOG_STOP (R354). -/
def execDirtyLogStop (k : Nat) (s : State) : Host.Outcome State Fault Refusal :=
  .next (s.onVf k 0x0602 fun s r =>
    if !unusedOk r [] then s.respond k r 3 0 []
    else match s.sessOf r.target with
      | none => s.respond k r 6 17 []
      | some (n, _) => (s.setSession n sessReset).respond k r 0 0 [])

/-! ### The Shadow image (R358 to R366) -/

/-- The clusters in the union of an instance's granted groups. -/
def State.grantedClusters (s : State) (t : Nat) : List Nat :=
  (List.range 16).filter fun n => (List.range 16).any fun g => bitOf (s.inst t).rights.toNat g && bitOf (s.grpMask g).toNat n

/-- The size of a Shadow (R362). -/
def State.shadowSize (s : State) (t : Nat) : Nat :=
  1344 + 256 * s.queuesHeld t + 2048 * s.blocksHeld t + 16 * htabSize (s.inst t).htab + 4096 * (s.grantedClusters t).length + 64 * s.resvsHeld t

/-- The highest MINOR of Shadow version 1 that the running firmware writes and restores (R365). -/
def State.shadowMinor (s : State) : Nat :=
  match bitsOf s.fw.version.toNat 48 16, bitsOf s.fw.version.toNat 32 16 with
  | 3, 0 => 0
  | 3, 1 | 3, 2 => 1
  | _, _ => Config.otherShadowMinor s.fw.version

/-- The MINOR a FORMAT field asks for, if the firmware writes it. -/
def State.shadowFormat (s : State) (f : Nat) : Option Nat :=
  if f = 0 then some s.shadowMinor else if f / 256 = 1 ∧ f % 256 ≤ s.shadowMinor then some (f % 256) else none

/-- SHADOW_SIZE (R362). -/
def execShadowSize (k : Nat) (s : State) : Host.Outcome State Fault Refusal :=
  .next (s.onVf k 0x0603 fun s r =>
    if !unusedOk r [(0, 2)] then s.respond k r 3 0 []
    else if (s.shadowFormat (pay r 0 2)).isNone then s.respond k r 11 1 []
    else s.respond k r 0 0 (leBytes 4 (s.shadowSize r.target)))

/-- A save in version 1.0 drops a changed HBM_SHARE and drift values (R364, R365). -/
def State.shadowLossy (s : State) (t minor : Nat) : Bool :=
  minor == 0 && (s.reg (0x1F0400 + 4 * t) != 0x10 || s.sync.objs.any fun (i, o) => s.syncOwner i == t && o.drift != 0)

/-- The bytes of an image: the header's fields, free bytes for the section table's order and the private sections, and the
digest. -/
def State.shadowBytes (s : State) (t minor size : Nat) (lossy : Bool) : State × List Byte :=
  let b := s.ringsOf t
  let opened := decide (b.st = .opened)
  let head := leBytes 4 0x4B534844 ++ [BitVec.ofNat 8 minor, 1, 0, 0] ++ leBytes 4 size ++ leBytes 4 (s.reg 0x104).toNat ++
    leBytes 8 Config.uniqueId.toNat ++ leBytes 8 s.fw.version.toNat ++ leBytes 8 s.ck.gtime.toNat ++
    [BitVec.ofNat 8 t, BitVec.ofNat 8 b.min, BitVec.ofNat 8 b.maj, BitVec.ofNat 8 (b2n opened + 2 * b2n lossy), 0, 0, 0, 0]
  match s.drawBytes 128 with
  | (tab, s) => match s.drawBytes (size - 320) with
    | (body, s) =>
      let m := head ++ tab ++ List.replicate 80 0 ++ body
      (s, m ++ leBytes 48 (Config.sha384 m).toNat ++ List.replicate 16 0)

/-- SHADOW_SAVE (R308, R368, R369). -/
def execShadowSave (k : Nat) (s : State) : Host.Outcome State Fault Refusal :=
  .next (s.onVf k 0x0604 fun s r =>
    let t := r.target
    let i := s.inst t
    let size := s.shadowSize t
    if !unusedOk r [(0, 2), (8, 12)] then s.respond k r 3 0 []
    else if i.st ≠ .quiesced ∨ i.quiesce.isSome then s.respond k r 6 (stCode i.st) []
    else if (s.ringsOf t).long.isSome then s.respond k r 6 19 []
    else if pay r 0x10 4 < size then s.respond k r 3 0 (leBytes 4 size)
    else match s.shadowFormat (pay r 0 2) with
      | none => s.respond k r 11 1 []
      | some m =>
        let lossy := s.shadowLossy t m
        match s.shadowBytes t m size lossy with
        | (s, d) =>
          let data := leBytes 4 size ++ [BitVec.ofNat 8 m, 1, BitVec.ofNat 8 (b2n lossy), 0] ++ leBytes 8 s.ck.gtime.toNat
          let s := s.respondPending k r { longNew r with data := data }
          (s.setSt t .shadowed 8).hostWrite 0 (pay r 8 8) d true)

/-- SHADOW_SAVE_DONE (R369): every host-bound write of function `k`'s image is issued. -/
def execShadowSaveDone (k : Nat) (s : State) : Host.Outcome State Fault Refusal :=
  .next (match (s.ringsOf k).long with
    | some l => if l.req.op = 0x0604 ∧ s.issuedAll 0 then s.finishLong k 0 0 l.data else s
    | none => s)

/-! ### Restore (R373 to R376) -/

/-- Admit the reservations of an image one by one (R373 check 11, R374): the admitted ones with their entries' positions, and the
positions that fail. -/
def State.admitList (s : State) (t : Nat) : List (Resv × Nat) → List (Resv × Nat) → List Nat → List (Resv × Nat) × List Nat
  | [], ok, bad => (ok.reverse, bad.reverse)
  | (v, j) :: l, ok, bad =>
    let v := { v with inst := t, valid := true }
    if (s.beacon v.bcn).cfg.src ≠ 0 ∧ s.admits s.bcnPeriod s.grpMask (v :: ok.map (·.1)) then s.admitList t l ((v, j) :: ok) bad
    else s.admitList t l ok (j :: bad)

/-- The checks of R373 in order: status and DETAIL of the first that fails. -/
def State.restoreCheck (s : State) (t bufLen : Nat) (req : Bool) (m : Shadow) : Option (Nat × Nat) :=
  let i := s.inst t
  let bad := (s.admitList t m.resvs.zipIdx [] []).2
  if !m.magicOk ∨ bufLen < m.size ∨ !m.reservedOk ∨ !m.tableOk ∨ !m.digestOk then some (3, 1)
  else if m.maj ≠ 1 ∨ s.shadowMinor < m.min then some (11, 1)
  else if m.ringsOpen ∧ !(s.fw.verMin.toNat ≤ 256 * m.brnMaj + m.brnMin ∧ 256 * m.brnMaj + m.brnMin ≤ s.fw.verMax.toNat) then some (11, 2)
  else if m.part ≠ s.reg 0x104 then some (11, 3)
  else if i.st ≠ .configured then some (6, stCode i.st)
  else if (s.ringsOf t).st ≠ .closed ∨ s.queuesHeld t ≠ 0 ∨ s.blocksHeld t ≠ 0 ∨ s.resvsHeld t ≠ 0 then some (6, 20)
  else if m.htab ≠ i.htab ∨ i.maxQ < m.queues.length ∨ i.maxSync < m.blocks.length ∨ i.maxRes < m.resvs.length then some (6, 21)
  else if m.slots ≠ (s.slotList t).length ∨ (s.slotList t).any (fun n => slotPending (s.slot n)) then some (6, 22)
  else if (List.range 16).any (fun g => bitOf i.rights.toNat g != m.groups.any fun (h, _) => h == g) ∨
      m.groups.any (fun (g, n) => s.grpSize g != n) then some (6, 23)
  else if 256 < s.sync.blocks.length + m.blocks.length then some (5, 2)
  else if req ∧ bad ≠ [] then some (8, bad.headD 0)
  else none

/-- The `n` lowest numbers below `hi` that are free. -/
def lowestFree (hi n : Nat) (used : Nat → Bool) : List Nat := ((List.range hi).filter fun i => !used i).take n

/-- Load the queues of an image into free hardware queues (R358, R360): fetched entries are fetched again. -/
def State.loadQueues (s : State) (t : Nat) (m : Shadow) (hw : List Nat) (res : Nat → Option Nat) : State :=
  (m.queues.zip hw).foldl (fun s (q, h) => s.setQueue h { q with
    inst := t, fetchPtr := q.head, fetched := [], fetchFail := [], checked := false, ready := none, waiting := false,
    frames := q.frames.map fun f => { f with words := [], got := [], fails := [] },
    res := match q.res with | some j => res j | none => none }) s

/-- Load the sync blocks of an image into free device blocks. -/
def State.loadBlocks (s : State) (t minor : Nat) (l : List (Nat × List SyncObj)) (bs : List Nat) : State :=
  (l.zip bs).foldl (fun s ((o, objs), b) =>
    let s := { s with sync := { s.sync with blocks := tblPut b (t, o) s.sync.blocks } }
    (objs.take 64).zipIdx.foldl (fun s (v, j) => s.setObj (b * 64 + j) (if minor = 0 then { v with drift := 0 } else v)) s) s

/-- Load the saved launches of an image with their commands, contexts and waits; they are numbered from `nextId` on. -/
def State.loadLaunches (s : State) (t : Nat) (m : Shadow) (hw : List Nat) (res : Nat → Option Nat) : State :=
  let b := s.nextId
  let n := m.launches.length
  let s := { s with nextId := b + 2 * n }
  let s := m.launches.zipIdx.foldl (fun s (l, j) => s.setLaunch (b + j) { l with
    hwq := hw.getD l.hwq 0, inst := t, cmd := b + n + j, mask := s.grpMask l.grp, dispatched := true,
    res := match l.res with | some r => res r | none => none }) s
  let s := { s with cmds := s.cmds ++ m.cmds.zipIdx.map fun ((c : Cmd), j) => { c with id := b + n + j, hwq := hw.getD c.hwq 0, work := .launch (b + j) } }
  let at_ (j p : Nat) : Nat := match m.launches[j]? with | some l => (maskList (s.grpMask l.grp)).getD p 0 | none => 0
  let s := m.ctxs.foldl (fun s (j, p, c) => s.setCtx (ctxKey (b + j) (at_ j p)) { c with st := .swappedOut, since := s.nextId }) s
  let ws : List Waiter := m.waiters.filterMap fun (j, p, id, kd, v) =>
    (s.syncIndex t id).map fun i => { who := .ctx (b + j) (at_ j p) none, obj := i, kind := kd, value := v }
  { s with sync := { s.sync with waiters := s.sync.waiters ++ ws } }

/-- Write an expert register as R47 and R48 have it: held while LEVEL is 0. -/
def State.putExpert (s : State) (base a : Nat) (v : W) : State :=
  if s.levelOf base then s.setExpert a v else { s with expert := tblSet (regResetOf a) a v s.expert }

/-- Load the registers and rings of an image: HBM_SHARE, VEC_MAP, CTRL, the MSI-X table and PBA, ring indices and entries. -/
def State.loadRegs (s : State) (t : Nat) (m : Shadow) : State :=
  let s := (s.setReg (aInstCtrl t) m.ctrl).putExpert 0x1F0000 (0x1F0400 + 4 * t) (if m.min = 0 then 0x10 else m.share)
  let s := s.setReg (instWin t + 0x120) m.vecMap
  let s := m.msix.zipIdx.foldl (fun s (v, j) => s.setReg (instWin t + 0x3000 + 4 * j) v) s
  let s := (m.ring.take 128).zipIdx.foldl (fun s (v, j) => s.setReg (brnBase t + 0x200 + 4 * j) v) s
  let s := { s with pcie := { s.pcie with pba := m.pba.foldl (fun l v => addNat (t * 16 + v % 16) l) s.pcie.pba } }
  if m.ringsOpen then
    (s.setRings t { brnReset with
      st := .opened, maj := m.brnMaj, min := m.brnMin, reqProd := m.idx.getD 0 0, reqCons := m.idx.getD 1 0, rspProd := m.idx.getD 2 0,
      rspCons := m.idx.getD 3 0, lostFlag := true }).setReg (brnBase t + 0x120) (s.reg (brnBase t + 0x120) ||| 4)
  else s.setReg (brnBase t + 0x120) (s.reg (brnBase t + 0x120) ||| 4)

/-- Load an image that passed its checks into an instance (R358, R360, R374, R375, R644). Answers the dropped entries. -/
def State.loadShadow (s : State) (t : Nat) (m : Shadow) : State × List Nat :=
  let a := s.admitList t m.resvs.zipIdx [] []
  let rs := lowestFree 256 a.1.length fun r => (s.resv r).valid
  let pairs := a.1.zip rs
  let res (j : Nat) : Option Nat := (pairs.find? fun ((_, i), _) => i == j).map (·.2)
  let hw := lowestFree 1024 m.queues.length fun h => (s.queue h).st != .free
  let bs := lowestFree 256 m.blocks.length fun b => (tblFind b s.sync.blocks).isSome
  let i := s.inst t
  let s := s.setInst t { i with maxQ := m.maxQ, maxSync := m.maxSync, maxRes := m.maxRes, root := m.root, resDropped := a.2 }
  let s := pairs.foldl (fun s ((v, _), r) => s.setResv r { resvReset with
    valid := true, inst := t, grp := v.grp, bcn := v.bcn, budget := v.budget, queues := v.queues }) s
  let s := { s with htab := m.entries.zipIdx.foldl (fun h (e, j) => tblSet { w0 := 0, w1 := 0 } (65536 * t + j) e h) s.htab }
  let s := ((s.loadQueues t m hw res).loadBlocks t m.min m.blocks bs).loadLaunches t m hw res
  ((s.dropTlb t).loadRegs t m, a.2)

/-- SHADOW_RESTORE (R373): the image at BUF is read and checked. `img` is the image the host read gave; none
where the read failed for the HOST_READ_ERR cause `cause`. -/
def execShadowRestore (k : Nat) (img : Option Shadow) (cause : Nat) (s : State) : Host.Outcome State Fault Refusal :=
  .next (s.onVf k 0x0605 fun s r =>
    if 1 < pay r 0 1 ∨ !unusedOk r [(0, 1), (8, 12)] then s.respond k r 3 0 []
    else match img with
      | none => s.respond k r 15 cause []
      | some m => match s.restoreCheck r.target (pay r 0x10 4) (pay r 0 1 == 1) m with
        | some (st, d) => s.respond k r st d []
        | none => s.respondPending k r { longNew r with img := some m })

/-- SHADOW_RESTORE_DONE (R375, R374): the image of function `k`'s restore, which still passes its checks, is in place and the
instance is SHADOWED. -/
def execShadowRestoreDone (k : Nat) (s : State) : Host.Outcome State Fault Refusal :=
  .next (match (s.ringsOf k).long with
    | some l => (match l.img with
      | some m =>
        let t := l.req.target
        (match s.restoreCheck t (pay l.req 0x10 4) (pay l.req 0 1 == 1) m with
        | some (st, d) => s.finishLong k st d []
        | none => match s.loadShadow t m with
          | (s, bad) =>
            let s := s.setRings k { s.ringsOf k with long := some { l with img := none } }
            (s.setSt t .shadowed 8).finishLong k 0 0
              (leBytes 8 ((bad.map fun j => 2 ^ j).sum) ++ leBytes 8 m.gtimeSave.toNat ++ leBytes 8 s.ck.gtime.toNat))
      | none => s)
    | none => s)

end Sys2Proof.Machine
end

