-- ==== Sys2Proof/Machine/Requests.lean ====
section
/-! DEFINITION. Briane requests for queues, sync blocks, address spaces, Beacons, reservations and receipts (09, 11, 12, 14, 15),
and the doorbell. -/

set_option Elab.async false
namespace Sys2Proof.Machine

/-- The choice of a number that Fausk makes among the free ones: the one given if it is free, else the lowest. -/
def pickFree (hi want : Nat) (used : Nat → Bool) : Option Nat :=
  if want < hi ∧ !used want then some want else (List.range hi).find? fun i => !used i

/-- Whether an instance is in one of the states in which it takes resources: CONFIGURED, ACTIVE, QUIESCED. -/
def takes (i : Inst) : Bool := i.st == .configured || i.st == .active || i.st == .quiesced

/-! ### Queues (R424 to R427, R528) -/

/-- The default presets (R422). -/
def presetsDefault : Nat := 0xEB987536

/-- Whether a presets word holds a code of 15. -/
def presetsBad (w : Nat) : Bool := (List.range 8).any fun i => bitsOf w (4 * i) 4 == 15

/-- QUEUE_CREATE (R424). `want` is the hardware queue Fausk takes. -/
def execQueueCreate (k want : Nat) (s : State) : Host.Outcome State Fault Refusal :=
  .next (s.onReq k 0x0100 fun s r =>
    let t := r.target
    let i := s.inst t
    let loc := pay r 0 1
    let band := pay r 2 1
    let g := pay r 3 1
    let lg := pay r 4 1
    let fl := pay r 5 1
    let custom := bitOf fl 1
    if 63 < loc ∨ 1 < pay r 1 1 ∨ 2 < band ∨ 15 < g ∨ lg < 6 ∨ 18 < lg ∨ 3 < fl ∨ 3 < pay r 7 1 ∨ pay r 8 8 % 4096 ≠ 0 ∨
        (custom ∧ presetsBad (pay r 0x10 4)) ∨ !unusedOk r [(0, 0x18)] then s.respond k r 3 0 []
    else if !takes i then s.respond k r 6 (stCode i.st) []
    else if (s.hwqOf t loc).isSome then s.respond k r 6 30 []
    else if !bitOf i.rights.toNat g then s.respond k r 4 0 []
    else if band = 0 ∧ i.maxRes = 0 then s.respond k r 4 0 []
    else if pay r 1 1 = 1 ∧ i.htab = 0 then s.respond k r 6 33 []
    else if i.maxQ ≤ s.queuesHeld t then s.respond k r 5 0 []
    else match pickFree 1024 want fun h => (s.queue h).st != .free with
      | none => s.respond k r 5 0 []
      | some h =>
        let c : W := BitVec.ofNat 32 (pay r 0x14 4)
        let s := s.setQueue h { queueReset with
          st := if bitOf fl 0 then .running else .stopped, base := BitVec.ofNat 64 (pay r 8 8), log2 := lg, user := pay r 1 1 == 1, band := band,
          cgrp := g, inst := t, loc := loc, doneVec := pay r 6 1 % 16, faultVec := pay r 6 1 / 16, doneEn := bitOf (pay r 7 1) 0,
          faultEn := bitOf (pay r 7 1) 1, presets := BitVec.ofNat 32 (if custom then pay r 0x10 4 else presetsDefault), head := c, tail := c,
          fetchPtr := c, pred := true }
        s.respond k r 0 0 (leBytes 2 h))

/-- Drop what a queue has fetched or asked for: ring entries, pieces of buffers, a SYNC_INIT that has not begun (R427, R541), and
its ready launch. -/
def State.dropFetched (s : State) (h : Nat) : State :=
  let s := match (s.queue h).ready with | some i => s.withdraw i | none => s
  let s := s.dropCmds (s.cmds.filter fun c => c.hwq == h && c.op == 0x85 && (match c.work with | .operand _ _ _ => true | _ => false))
  let q := s.queue h
  let s := s.setQueue h { q with fetchPtr := q.head, fetched := [], fetchFail := [], ready := none, checked := false }
  { s with pcie := { s.pcie with reads := s.pcie.reads.filter fun x => match x.what with
      | .ring j _ => j != h | .indirect j _ _ => j != h | _ => true } }

/-- The records of a queue are acknowledged (R765). -/
def State.ackQueue (s : State) (h : Nat) : State := s.ackWhere fun _ q => q == some h

/-- QUEUE_DESTROY (R425, R765). -/
def execQueueDestroy (k : Nat) (s : State) : Host.Outcome State Fault Refusal :=
  .next (s.onReq k 0x0101 fun s r =>
    if !unusedOk r [(0, 1)] ∨ 63 < pay r 0 1 then s.respond k r 3 0 []
    else match s.hwqOf r.target (pay r 0 1) with
      | none => s.respond k r 6 31 []
      | some h =>
        let q := s.queue h
        if q.st = .running then s.respond k r 6 34 []
        else if s.busyOf h then s.respond k r 6 32 []
        else
          let s := match q.res with
            | some n =>
              let v := s.resv n
              s.setResv n { v with queues := v.queues &&& ~~~(BitVec.ofNat 64 (2 ^ q.loc)) }
            | none => s
          let s := (s.dropFetched h).setQueue h queueReset
          let s := { s with lowWord := s.lowWord.filter fun (a, _) => a != instWin q.inst + 0x1000 + 8 * q.loc }
          (s.ackQueue h).respond k r 0 0 [])

/-- What QUEUE_RESTART makes of a queue (R426, R427): modes 0 RETRY, 1 SKIP, 2 DISCARD, 3 STOP. -/
def State.restart (s : State) (h mode : Nat) : Option State :=
  let q := s.queue h
  let clear (head : W) (st : QSt) : State :=
    let s := s.dropFetched h
    s.setQueue h { s.queue h with
      st := st, head := head, fetchPtr := head, frames := [], loops := [], pred := true, faultCode := 0, faultInfo := 0 }
  match mode, q.st with
  | 0, .stopped => some (s.setQueue h { q with st := .running })
  | 0, .faulted => some (clear q.head .running)
  | 1, .stopped | 1, .faulted => some (clear (if q.head = q.tail then q.head else q.head + 1) .running)
  | 2, .stopped | 2, .faulted => some (clear q.tail .running)
  | 3, .running | 3, .faulted => some (clear q.head .stopped)
  | _, _ => none

/-- QUEUE_RESTART (R426, R427, R765). -/
def execQueueRestart (k : Nat) (s : State) : Host.Outcome State Fault Refusal :=
  .next (s.onReq k 0x0102 fun s r =>
    if !unusedOk r [(0, 2)] ∨ 63 < pay r 0 1 ∨ 3 < pay r 1 1 then s.respond k r 3 0 []
    else match s.hwqOf r.target (pay r 0 1) with
      | none => s.respond k r 6 31 []
      | some h => match s.restart h (pay r 1 1) with
        | none => s.respond k r 6 35 []
        | some s =>
          let q := s.queue h
          (((s.ackQueue h).respond k r 0 0 (leBytes 4 q.head.toNat ++ leBytes 4 q.tail.toNat)).fetch h).kick)

/-- QUEUE_MODIFY (R522, R523, R528). -/
def execQueueModify (k : Nat) (s : State) : Host.Outcome State Fault Refusal :=
  .next (s.onReq k 0x0103 fun s r =>
    let fl := pay r 1 1
    let i := s.inst r.target
    if !unusedOk r [(0, 4)] ∨ 63 < pay r 0 1 ∨ fl = 0 ∨ 3 < fl ∨ 2 < pay r 2 1 ∨ 15 < pay r 3 1 then s.respond k r 3 0 []
    else match s.hwqOf r.target (pay r 0 1) with
      | none => s.respond k r 6 31 []
      | some h =>
        let q := s.queue h
        if q.res.isSome then s.respond k r 6 41 []
        else if bitOf fl 1 ∧ !bitOf i.rights.toNat (pay r 3 1) then s.respond k r 4 0 []
        else if bitOf fl 0 ∧ pay r 2 1 = 0 ∧ i.maxRes = 0 then s.respond k r 4 0 []
        else (s.setQueue h { q with
            band := if bitOf fl 0 then pay r 2 1 else q.band, cgrp := if bitOf fl 1 then pay r 3 1 else q.cgrp }).respond k r 0 0 [])

/-! ### Doorbells (R391 to R396) -/

/-- A doorbell that the page ignores is counted and captured (R394, R395, R430). -/
def State.doorbellDrop (s : State) (k loc : Nat) : State := ((s.count 0x10108).capture31 0x1010C (k + 2 ^ 8 * loc)).cause 0x10000 8

/-- The position of a queue for a fault that no command raises: its front. -/
def State.queuePos (s : State) (h : Nat) : Pos :=
  let q := s.queue h
  match q.frames with
  | [] => ⟨0, 0, 0, q.head⟩
  | f :: rest => ⟨0, rest.length + 1, f.pos, q.head⟩

/-- A tail reaches the doorbell of a local index (R393 to R396, R306). -/
def State.doorbell (s : State) (k loc : Nat) (new : W) : State :=
  let st := (s.inst k).st
  if st = .unassigned ∨ st = .resetting ∨ st = .faulted ∨ s.pw.stage = .parked then s
  else match s.hwqOf k loc with
    | none => s.doorbellDrop k loc
    | some h =>
      let q := s.queue h
      let size := 2 ^ q.log2
      if (new - q.head).toNat ≤ size ∧ (new - q.tail).toNat ≤ size then
        ((s.count 0x10104).setQueue h { q with tail := new }).fetch h
      else if q.st = .faulted then s.doorbellDrop k loc
      else s.queueFault h 0x0107 (s.queuePos h) 2 0 (cmdDetail (s.queuePos h))

/-! ### Sync blocks and objects (R575, R576, R578 to R580) -/

/-- SYNC_BLOCK_ALLOC (R575, R540). `want` is the device block Fausk takes. -/
def execSyncBlockAlloc (k want : Nat) (s : State) : Host.Outcome State Fault Refusal :=
  .next (s.onReq k 0x0200 fun s r =>
    let t := r.target
    let i := s.inst t
    let o := pay r 0 2
    let held (x : Nat) : Bool := s.sync.blocks.any fun (_, p) => p == (t, x)
    if !unusedOk r [(0, 2)] ∨ (255 < o ∧ o ≠ 0xFFFF) then s.respond k r 3 0 []
    else if !takes i then s.respond k r 6 (stCode i.st) []
    else if o ≠ 0xFFFF ∧ held o then s.respond k r 6 52 []
    else if i.maxSync ≤ s.blocksHeld t then s.respond k r 5 0 []
    else match pickFree 256 (if o = 0xFFFF then 256 else o) (fun x => if o = 0xFFFF then held x else x != o), pickFree 256 want fun b => (tblFind b s.sync.blocks).isSome with
      | some x, some b => ({ s with sync := { s.sync with blocks := tblPut b (t, x) s.sync.blocks } } : State).respond k r 0 0
          ([BitVec.ofNat 8 x, 0] ++ leBytes 2 b)
      | _, _ => s.respond k r 5 0 [])

/-- SYNC_BLOCK_FREE (R576). -/
def execSyncBlockFree (k : Nat) (s : State) : Host.Outcome State Fault Refusal :=
  .next (s.onReq k 0x0201 fun s r =>
    if !unusedOk r [(0, 1)] then s.respond k r 3 0 []
    else match s.sync.blocks.find? fun (_, p) => p == (r.target, pay r 0 1) with
      | none => s.respond k r 6 51 []
      | some (b, _) =>
        if s.sync.waiters.any fun w => w.obj / 64 == b then s.respond k r 6 50 []
        else ({ s with sync := { s.sync with
            blocks := tblErase b s.sync.blocks
            objs := s.sync.objs.filter fun (i, _) => i / 64 != b } } : State).respond k r 0 0 [])

/-- The action of a SYNC_FORCE on an object it fits (R578): the state and how many waiters it released. -/
def State.forceObj (s : State) (i act v : Nat) : State × Nat :=
  let o := { s.obj i with forced := true }
  if act = 1 then (s.setObj i o).releaseBarrier i else (s.setObj i { o with value := v }).evaluate i

/-- SYNC_FORCE (R578 to R580). -/
def execSyncForce (k : Nat) (s : State) : Host.Outcome State Fault Refusal :=
  .next (s.onReq k 0x0202 fun s r =>
    let t := r.target
    let st := (s.inst t).st
    let act := pay r 4 1
    let v := pay r 8 4
    if !unusedOk r [(0, 5), (8, 4)] ∨ 2 < act ∨ 2 ^ 14 ≤ pay r 0 4 then s.respond k r 3 0 []
    else if st = .unassigned ∨ st = .resetting ∨ st = .shadowed then s.respond k r 6 (stCode st) []
    else match s.syncIndex t (pay r 0 4) with
      | none => s.respond k r 6 51 []
      | some i =>
        let o := s.obj i
        let fit := match act with
          | 0 => o.type == 2 && decide (v ≤ o.limit)
          | 1 => o.type == 1
          | _ => o.type == 1 && decide (v < o.limit)
        if !fit then s.respond k r 3 0 []
        else match s.forceObj i act v with
          | (s, n) =>
            let s := ((s.count 0x180130).syncEvent i 4).cause 0x180000 11
            let s := (s.logRec 2 2 t).raise 0x0304 (.agent 0 0) none 0x180000 (s.syncDetail i)
            s.respond k r 0 0 (leBytes 4 o.value ++ leBytes 2 (if o.type = 1 then o.gen.toNat else 0) ++ leBytes 2 n))

/-- A 64-bit SV_OP write of a host (R573, R585, R308): its operation goes to the hub through the service port. -/
def State.svOp (s : State) (k : Nat) (word : W64) (ag : Agent) : State :=
  let v := word.toNat
  let op := bitsOf v 16 2
  let n := bitsOf v 32 32
  if (s.inst k).st = .shadowed then s
  else if op = 3 ∨ (if op = 2 then n ≠ 0 else n = 0) then s.rsvdValue (svBase k + 0x118) (svBase k) 0 ag
  else s.sendOp
    { port := 17, who := .host k, inst := k, kind := match op with | 0 => .add | 1 => .consume | _ => .arrive, id := bitsOf v 0 14
      val := if op = 2 then 1 else n, spin := false }

/-! ### Address spaces (R646) -/

/-- Whether a page-table root lies outside the slots an instance can use (R646). -/
def State.rootBad (s : State) (t root : Nat) : Bool :=
  root != 0 && (match (s.slotList t)[root / 2 ^ 28]? with | none => true | some n => slotPending (s.slot n))

/-- ASPACE_SET (R644, R646). -/
def execAspaceSet (k : Nat) (s : State) : Host.Outcome State Fault Refusal :=
  .next (s.onReq k 0x0300 fun s r =>
    let t := r.target
    let i := s.inst t
    let root := pay r 0 8
    if !unusedOk r [(0, 8)] ∨ root % 4096 ≠ 0 ∨ 2 ^ 37 ≤ root then s.respond k r 3 0 []
    else if !(i.st = .configured ∨ i.st = .quiesced) then s.respond k r 6 (stCode i.st) []
    else if s.rootBad t root then s.respond k r 6 60 []
    else ((s.setInst t { i with root := BitVec.ofNat 64 root }).dropTlb t).respond k r 0 0 [])

/-! ### Beacons and reservations (R525 to R527) -/

/-- The latest accepted configuration of a Beacon (R525). -/
def State.bcnLatest (s : State) (b : Nat) : BcnCfg := ((s.beacon b).pend).getD (s.beacon b).cfg

/-- A configuration is accepted (R525, R508): at once on a Beacon that is OFF, at its next tick otherwise. -/
def State.acceptBeacon (s : State) (b : Nat) (c : BcnCfg) : State :=
  let v := s.beacon b
  if v.cfg.src ≠ 0 then s.setBeacon b { v with pend := some c }
  else if c.src = 0 then s
  else (s.setBeacon b { v with
      cfg := c, pend := none, ticks := 0, ticked := false, since := s.ck.gtime, frames := c.div - 1
      locked := c.src ≠ 3 || s.ck.synced, lockLost := c.src = 3 && !s.ck.synced }).latchRange (0x20400 + 4 * b) 1

/-- BEACON_CONFIG (R505, R517, R525). -/
def execBeaconConfig (k : Nat) (s : State) : Host.Outcome State Fault Refusal :=
  .next (s.onReq k 0x0400 fun s r =>
    let b := pay r 0 1
    let src := pay r 1 1
    let dv := pay r 2 1
    let hd := src = 1 ∨ src = 2
    let c0 : BcnCfg := { src := src, div := dv, period := pay r 4 4, offset := pay r 8 4 }
    let old := s.bcnLatest b
    let has := s.resvs.any fun (_, v) => v.valid && v.bcn == b
    if !unusedOk r [(0, 3), (4, 8)] ∨ 7 < b ∨ 4 < src ∨ dv = 0 ∨ 8 < dv ∨ (!hd ∧ dv ≠ 1) ∨ ((hd ∨ src = 0) ∧ c0.period ≠ 0) ∨
        (2 < src ∧ !periodOk c0.period) then s.respond k r 3 0 []
    else if hd ∧ !(s.head (src - 1)).enabled then s.respond k r 6 44 []
    else
      let c := if hd then { c0 with period := s.headPeriod c0 } else c0
      if hd ∧ !periodOk c.period then s.respond k r 3 0 []
      else if has ∧ (src = 0 ∨ src ≠ old.src) then s.respond k r 6 43 []
      else if c.period ≠ old.period ∧ has ∧ !s.admits (fun j => if j = b then c.period else s.bcnPeriod j) s.grpMask [] then s.respond k r 8 0 []
      else (s.acceptBeacon b c).respond k r 0 0 (leBytes 4 c.period))

/-- The hardware queues that a mask of local indices names, or none where one is unbound. -/
def State.maskQueues (s : State) (t m : Nat) : Option (List Nat) :=
  ((List.range 64).filter fun j => bitOf m j).mapM fun j => s.hwqOf t j

/-- RESERVE (R513, R517, R526). `want` is the reservation number Fausk takes. -/
def execReserve (k want : Nat) (s : State) : Host.Outcome State Fault Refusal :=
  .next (s.onReq k 0x0401 fun s r =>
    let t := r.target
    let i := s.inst t
    let g := pay r 0 1
    let b := pay r 1 1
    let budget := pay r 4 4
    let per := s.bcnPeriod b
    let n := s.grpSize g
    let v : Resv := { resvReset with valid := true, inst := t, grp := g, bcn := b, budget := budget, queues := BitVec.ofNat 64 (pay r 8 8) }
    if !unusedOk r [(0, 2), (4, 12)] ∨ 15 < g ∨ 7 < b ∨ budget = 0 ∨ (per ≠ 0 ∧ n ≠ 0 ∧ n * per < 1000 * budget) then s.respond k r 3 0 []
    else if !takes i then s.respond k r 6 (stCode i.st) []
    else if !bitOf i.rights.toNat g then s.respond k r 4 0 []
    else if (s.beacon b).cfg.src = 0 ∨ (s.bcnLatest b).src = 0 then s.respond k r 6 45 []
    else match s.maskQueues t (pay r 8 8) with
      | none => s.respond k r 6 40 []
      | some hs =>
        if hs.any fun h => (s.queue h).band != 0 || (s.queue h).cgrp != g then s.respond k r 6 40 []
        else if hs.any fun h => (s.queue h).res.isSome then s.respond k r 6 42 []
        else if i.maxRes ≤ s.resvsHeld t then s.respond k r 5 0 []
        else if !s.admits s.bcnPeriod s.grpMask [v] then s.respond k r 8 0 []
        else match pickFree 256 want fun j => (s.resv j).valid with
          | none => s.respond k r 5 0 []
          | some j =>
            let s := hs.foldl (fun s h => s.setQueue h { s.queue h with res := some j }) (s.setResv j v)
            s.respond k r 0 0 ([BitVec.ofNat 8 j, 0] ++ leBytes 2 (s.utilMax (s.grpMask g))))

/-- RESERVE_RELEASE (R527). -/
def execReserveRelease (k : Nat) (s : State) : Host.Outcome State Fault Refusal :=
  .next (s.onReq k 0x0402 fun s r =>
    let t := r.target
    let j := pay r 0 1
    if !unusedOk r [(0, 1)] then s.respond k r 3 0 []
    else if !(s.resv j).valid ∨ (s.resv j).inst ≠ t then s.respond k r 6 46 []
    else
      let s := if k = 0 ∧ t ≠ 0 then s.resvChanged j 3 0 (s.beacon (s.resv j).bcn).ticks.toNat else s
      (s.freeResv j).respond k r 0 0 [])

/-! ### Receipts (R705, R706) -/

/-- Whether the attestation key can sign (R195, R223, R225). -/
def State.attestReady (s : State) : Bool := s.sec.attestKey && s.sec.rng == 2

/-- RECEIPT_START (R705). -/
def execReceiptStart (k : Nat) (s : State) : Host.Outcome State Fault Refusal :=
  .next (s.onReq k 0x0A00 fun s r =>
    let t := r.target
    let d := pay r 0 1
    let n := pay r 2 2
    let buf := pay r 8 8
    let e := pay r 0x10 4
    if !unusedOk r [(0, 1), (2, 2), (8, 12)] ∨ 1 < d ∨ n = 0 ∨ buf % 256 ≠ 0 ∨ 2 ^ 48 ≤ buf ∨ e = 0 ∨ 65536 < e then s.respond k r 3 0 []
    else if (s.head d).owner ≠ some t then s.respond k r 4 0 []
    else if (s.head d).rcpt.isSome then s.respond k r 6 72 []
    else match s.segs t buf (256 * e) true askCmd with
      | (s, gs, x) =>
        if x.isSome ∨ segsHost gs then s.respond k r 6 73 []
        else if !s.attestReady then s.respond k r 6 74 []
        else
          let c : Rcpt := { n := n, buf := BitVec.ofNat 64 buf, entries := e, seq := 0, due := none, skipFlag := false, written := 0, skipped := 0 }
          (s.setHead d { s.head d with rcpt := some c }).respond k r 0 0 [])

/-- RECEIPT_STOP (R706): the payload is zero where no receipts run. -/
def execReceiptStop (k : Nat) (s : State) : Host.Outcome State Fault Refusal :=
  .next (s.onReq k 0x0A01 fun s r =>
    let d := pay r 0 1
    if !unusedOk r [(0, 1)] ∨ 1 < d then s.respond k r 3 0 []
    else if (s.head d).owner ≠ some r.target then s.respond k r 4 0 []
    else
      let c := match (s.head d).rcpt with
        | some c => leBytes 4 c.written ++ leBytes 4 c.skipped ++ leBytes 4 c.seq.toNat
        | none => leBytes 12 0
      (s.setHead d { s.head d with rcpt := none }).respond k r 0 0 c)

end Sys2Proof.Machine
end

