-- ==== Sys2Proof/Machine/Resets.lean ====
section
/-! DEFINITION. Power, resets, boot and clock loss (03, 05): what each reset clears and keeps (R112), and the steps of the boot. -/

set_option Elab.async false
namespace Sys2Proof.Machine

/-! ### Parts other chapters share -/

/-- FW_STATE changes (R291). -/
def State.setFw (s : State) (st : FwSt) : State :=
  if s.fw.st = st then s else (({ s with fw := { s.fw with st := st } } : State)).cause 0xA000 8

/-- A long firmware request ends without a result: the staging area keeps only a verified image, dispatch is as before (R256, R278,
R281). -/
def State.abandonFw (s : State) : State :=
  let keep := if s.fw.st = .staging then none else s.fw.staged
  (({ s with fw := { s.fw with staged := keep, actBy := none, paused := false, swapping := false } } : State)).setFw
    (if keep.isSome then .staged else .running)

/-- Every running copy stops where it is. -/
def State.cutAll (s : State) : State := s.movers.foldl (fun s m => s.moverCut m.id) s

/-- The digest's bytes. -/
def digestBytes (d : BitVec 384) : List Byte := (leBytes 48 d.toNat).reverse

/-- Extend a measurement register (R194). -/
def State.extend (s : State) (i : Nat) (content : List Byte) : State :=
  let old := s.sec.meas.getD i 0
  { s with sec := { s.sec with meas := s.sec.meas.set i (Config.sha384 (digestBytes old ++ Config.measBytes i content)) } }

/-- OWNER_STATE (R205): 0 BLANK, 1 COMMITTED, 2 PARTIAL. -/
def ownerState (c : Sec) : Nat :=
  if c.ownerHash = 0 ∧ c.ownerMarker = 0 then 0
  else if c.ownerMarker = 0xA5C3 ∧ c.ownerCheck = Config.ownerCheckWord c.ownerHash then 1 else 2

/-! ### Cold and warm resets (R86, R103, R112, R130) -/

/-- Key slots below the running image's, which ARB_COMMIT revokes if the image says so (R209). -/
def revokeMask (c : Sec) : Nat := match c.image with | some i => if i.revokeLower then 2 ^ i.keySlot - 1 else 0 | none => 0

/-- Programming of fuses that a reset or a power loss cuts off (R234): the bits already blown stay blown; the owner key reads
PARTIAL. -/
def State.cutFuses (s : State) : State :=
  let n := s.own.freeCtr
  match s.sec.mbox with
  | some m =>
    if m.answer.isNone then s
    else if m.cmd = 0x20 ∧ s.sec.ownerStep then
      let h := s.sec.ownerHash &&& BitVec.ofNat 384 (leNat ((List.range 48).map (Config.freeByte n)))
      { s.bumpFree with sec := { s.sec with ownerHash := if h = 0 then s.sec.ownerHash else h, ownerMarker := 0, ownerStep := false } }
    else if m.cmd = 0x21 ∧ s.sec.arb < s.sec.svn then
      { s.bumpFree with sec := { s.sec with
          arb := s.sec.arb + Config.freeNat n % (s.sec.svn - s.sec.arb + 1)
          keyRevoke := s.sec.keyRevoke ||| (revokeMask s.sec &&& Config.freeNat (n + 1)) } }
    else s
  | none => s

/-- The slot that FW_PERSIST was writing holds a part of an image (R289). -/
def spoil (b1 b2 : Bool) (i : Image) : Image := { i with hashOk := b1, kenudSigOk := b2 }

/-- A write of the flash that a reset or a power loss cuts off: the slot not preferred is open, the preferred one unchanged (R189,
R289). -/
def State.cutFlash (s : State) (slotB : Bool) : State :=
  if s.fw.st ≠ .persisting then s
  else match s.sec.flash with
    | some f =>
      let c := s.own.freeCtr
      let f := if slotB then { f with slotB := spoil (Config.freeBool c) (Config.freeBool (c + 1)) f.slotB }
        else { f with slotA := spoil (Config.freeBool c) (Config.freeBool (c + 1)) f.slotA }
      { s.bumpFree.bumpFree with sec := { s.sec with flash := some f } }
    | none => s

/-- The preferred slot (R186, R189): whether it is slot B. -/
def prefersB (f : Flash) : Bool :=
  match f.bcb0.valid, f.bcb1.valid with
  | true, true => if decide (1 ≤ (f.bcb1.seq - f.bcb0.seq).toNat ∧ (f.bcb1.seq - f.bcb0.seq).toNat < 2 ^ 31) then f.bcb1.preferred else f.bcb0.preferred
  | true, false => f.bcb0.preferred
  | false, true => f.bcb1.preferred
  | false, false => false

/-- Work on the flash and the fuses is cut off. -/
def State.cutStores (s : State) : State :=
  s.cutFuses.cutFlash (match s.sec.flash with | some f => !(prefersB f) | none => false)

/-- Fuses and flash of a part, with everything else of the SEC core as after a reset. -/
def secAfter (c : Sec) : Sec :=
  { secReset with flash := c.flash, arb := c.arb, keyRevoke := c.keyRevoke, ownerHash := c.ownerHash, ownerMarker := c.ownerMarker, ownerCheck := c.ownerCheck }

/-- A cold reset (R94, R112): only the fuses, the flash and what has left on the link remain. -/
def State.cold (s : State) (rails : Bool) : State :=
  let s := s.cutStores
  { State.reset with
    pw := { powerReset with railsUp := rails }
    sec := secAfter s.sec
    pcie := { pcieReset with sent := s.pcie.sent }
    own := s.own
    nextId := s.nextId
    pending := s.pending }

/-- The registers a warm reset keeps: AON_SCRATCH_0 and AON_SCRATCH_1 (R112, R130). -/
def aonReg (a : Nat) : Bool := a == 0x2120 || a == 0x2124

/-- A warm reset (R112, R130): fault history, RESET_CAUSE, WARM_COUNT, AON_SCRATCH and the crack-loop baseline stay. -/
def State.warm (s : State) : State :=
  let s := s.cutStores
  { State.reset with
    pw := { powerReset with refclk := s.pw.refclk, last := .warm, warmCount := min (s.pw.warmCount + 1) 255 }
    sec := secAfter s.sec
    pcie := { pcieReset with sent := s.pcie.sent }
    fcol := { fcolReset with hist := s.fcol.hist }
    trim := { trimReset with crackBase := s.trim.crackBase }
    regs := s.regs.filter fun (a, _) => aonReg a
    own := s.own
    nextId := s.nextId
    pending := s.pending }

/-- COLD_POWER_UP (R88, R91, R112, R125, R131, R696, R798): the rails come up with PERST_N held; the crack loop's baseline is measured. -/
def execColdPowerUp (inOrder : Bool) (crack : W) (s : State) : Host.Outcome State Fault Refusal :=
  if inOrder then
    let s := s.cold true
    .next { s with trim := { s.trim with crackBase := crack, crackLast := crack } }
  else .fault .railsOutOfOrder

/-- VDD_AON_LOSS (R94, R119, R130). -/
def execVddAonLoss (s : State) : Host.Outcome State Fault Refusal := .next (s.cold false)

/-- INPUT_POWER_LOSS (R93, R127). -/
def execInputPowerLoss (s : State) : Host.Outcome State Fault Refusal := .next (s.cold false)

/-- A reset of the PCIe controller and the link alone, in the safe state (R118). -/
def State.linkReset (s : State) : State :=
  let s := { s with
    pcie := { pcieReset with sent := s.pcie.sent }
    pw := { s.pw with perst := true, configReady := false } }
  s.resetRange 0x1E0000 0x1000 fun _ => false

/-- PERST_N_ASSERTED (R111, R116, R118, R126, R770, R792): a low pulse of `us` microseconds. Under 10 it is ignored; from 10 up to 100
the part ends it either way. -/
def execPerstNAsserted (us : Nat) (s : State) : Host.Outcome State Fault Refusal :=
  .next (
    let act (s : State) : State := if s.pw.safe then s.linkReset else s.warm
    if !s.pw.railsUp ∨ s.pw.perst ∨ us < 10 then s
    else if 100 ≤ us then act s
    else if Config.freeBool s.own.freeCtr then act s.bumpFree else s.bumpFree)

/-! ### The boot (R107 to R111, R184 to R197) -/

/-- A byte field of the board configuration record. -/
def bField (b : List Byte) (o n : Nat) : Nat := leNat (bytesAt b o n)

/-- Whether the board configuration record is used (R190). -/
def boardUsed (b : List Byte) : Bool :=
  decide (bField b 0 4 = 0x4B424352 ∧ bField b 4 2 = 1 ∧ bField b 6 2 = 0 ∧ bField b 0x13 1 = 0) &&
    ((List.range 224).all fun i => b.getD (0x1C + i) 0 == 0) && decide (crcRun 0 (bytesAt b 0 0xFC) = BitVec.ofNat 32 (bField b 0xFC 4))

/-- A field of the record, or its default where the record is not used or the value is outside its range (R190). -/
def boardField (b : List Byte) (o n dflt : Nat) (ok : Nat → Bool) : Nat :=
  if boardUsed b ∧ ok (bField b o n) = true then bField b o n else dflt

/-- OC_LIMIT in A (R717): a record that gives none leaves 500. -/
def boardOc (b : List Byte) : Nat :=
  match boardField b 0x0C 2 500 fun v => decide (v = 0 ∨ (100 ≤ v ∧ v ≤ 600)) with
  | 0 => 500
  | n => n
/-- MGMT_MODE (R736): whether the board-management port runs I3C. -/
def boardI3c (b : List Byte) : Bool := boardField b 0x10 1 0 (fun v => decide (v < 2)) == 1
/-- PCIE_LIMIT: the highest link rate and width, 0 for no width limit. -/
def boardLimit (b : List Byte) : Nat × Nat :=
  match boardField b 0x12 1 0 fun v => decide (v % 8 < 6) && [0, 1, 2, 4, 8, 16].contains (v / 8) with
  | 0 => (5, 16)
  | v => (v % 8, if v / 8 = 0 then 16 else v / 8)
/-- GPIO_FUNC_g (R799): an unlisted code leaves the GPIO unused. -/
def boardGpio (b : List Byte) (g : Nat) : Nat := boardField b (0x14 + g) 1 0 fun v => decide (v < 5)
/-- SUBSYS_VENDOR_ID and SUBSYS_ID (R3, R190). -/
def boardSubsys (b : List Byte) : Nat × Nat := (boardField b 8 2 0x1E9C fun _ => true, boardField b 0xA 2 0 fun _ => true)
/-- VR_SETTLE in µs (R786). -/
def boardSettle (b : List Byte) : Nat := boardField b 0x0F 1 25 fun v => decide (5 ≤ v ∧ v ≤ 200)

/-- The boot fails (R110, R192). -/
def State.bootFail (s : State) (cause : Nat) : State := { s with pw := { s.pw with stage := .bootFailed, failCause := cause } }

/-- PERST_N_DEASSERTED (R89, R95, R111, R118, R190, R192, R194): the boot ROM reads the fuses and enables the PLL. `board` is the board
configuration record in flash. -/
def execPerstNDeasserted (holdMet fusesOk : Bool) (board : List Byte) (s : State) : Host.Outcome State Fault Refusal :=
  if !s.pw.railsUp ∨ !s.pw.perst then .next s
  else if s.pw.safe then .next { s with pw := { s.pw with perst := false } }
  else if !holdMet then .fault .perstHoldUnmet
  else
    let c := s.sec
    let s := { s with
      pw := { s.pw with perst := false, stage := .fusesRead, pllOn := true, bootStart := s.ck.gtime }
      sec := { c with fuseOk := fusesOk, board := bytesAt board 0 256 } }
    let s := (s.extend 0 []).extend 1 (leBytes 1 c.keyRevoke ++ leBytes 1 (ownerState c) ++ digestBytes c.ownerHash ++ leBytes 1 c.arb ++
      leBytes 1 (b2n Config.debugDisable))
    .next (if fusesOk then s else s.bootFail 9)

/-- ROOT_PLL_LOCK (R95, R101, R102, R222). -/
def execRootPllLock (s : State) : Host.Outcome State Fault Refusal :=
  .next (if !s.pw.pllOn ∨ s.pw.pllLock ∨ !s.pw.refclk ∨ s.pw.safe then s
    else { s with pw := { s.pw with pllLock := true, sclk := 1, stage := if s.pw.stage = .fusesRead then .pllLocked else s.pw.stage } })

/-- The attestation key is derived once the DRBG is seeded and the protection setup is locked (R195). -/
def State.deriveKey (s : State) : State :=
  if s.sec.rng = 2 ∧ bitOf (s.reg 0x4100).toNat 0 then { s with sec := { s.sec with attestKey := true } } else s

/-- RNG_STATUS.STATE changes (R237). -/
def State.setRng (s : State) (st : Nat) : State :=
  if s.sec.rng = st then s else (({ s with sec := { s.sec with rng := st } } : State)).cause 0x6000 9

/-- TRNG_READY (R222, R225, R237): the start-up test has passed and the DRBG is seeded. -/
def execTrngReady (s : State) : Host.Outcome State Fault Refusal :=
  .next (if !s.pw.pllLock ∨ s.sec.rng ≠ 1 then s
    else (({ s with pw := { s.pw with trngReady := true }, sec := { s.sec with drbgCount := 0, rngRerun := false } } : State).setRng 2).deriveKey)

/-- CONFIG_READY (R107, R110, R118). -/
def execConfigReady (s : State) : Host.Outcome State Fault Refusal :=
  .next (if s.pw.perst ∨ !s.pw.pllOn then s else { s with pw := { s.pw with configReady := true } })

/-- HBM_TRAINED (R192, R302): the four stacks are trained, or training failed on some of them; the boot code zero-fills HBM. -/
def execHbmTrained (okStacks : Nat) (s : State) : Host.Outcome State Fault Refusal :=
  .next (if s.pw.stage ≠ .pllLocked then s
    else if okStacks % 16 = 15 then
      { s with pw := { s.pw with stage := .hbmReady, hbmTrained := 15, selfRefresh := 0 }, mem := [], poison := [], vague := [], flips := [], slots := [] }
    else ({ s with pw := { s.pw with hbmTrained := okStacks % 16 } } : State).bootFail 8)

/-- The first failing check of an image (R191), 0 if all pass. -/
def imageCause (c : Sec) (i : Image) : Nat :=
  if !i.present then 1
  else if !i.formatOk ∨ i.fwCarve = 0 ∨ 8 < i.fwCarve ∨ i.secCarve ≠ 1 then 2
  else if !i.keyHashOk ∨ 3 < i.keySlot then 3
  else if bitOf c.keyRevoke i.keySlot then 4
  else if !i.kenudSigOk then 3
  else if (ownerState c) = 1 ∧ !(i.ownerSigned && i.ownerOk) then 5
  else if i.svn < c.arb then 6
  else if !i.hashOk then 7
  else 0

/-- An image is measured (R194). -/
def State.measureImage (s : State) (i : Image) : State := (s.extend 3 (digestBytes i.header)).extend 4 (digestBytes i.body)

/-- IMAGE_VERIFY (R110, R186, R189, R191, R193): the preferred slot, then the other. `flash` is what the flash holds, none where it does
not answer; a flash the device has seen holds what it last held. -/
def execImageVerify (flash : Option Flash) (s : State) : Host.Outcome State Fault Refusal :=
  .next (if s.pw.stage ≠ .hbmReady then s
    else
      let s := s.extend 2 s.sec.board
      match flash with
      | none => ({ s with sec := { s.sec with firstFail := 1, fallback := true } } : State).bootFail 1
      | some given =>
        let f := s.sec.flash.getD given
        let s := { s with sec := { s.sec with flash := some f } }
        let b := prefersB f
        let i1 := if b then f.slotB else f.slotA
        let i2 := if b then f.slotA else f.slotB
        let c1 := imageCause s.sec i1
        let boot (s : State) (i : Image) (b : Bool) : State :=
          { s.measureImage i with
            pw := { s.pw with stage := .imageVerified }
            sec := { (s.measureImage i).sec with image := some i, slotB := b, svn := i.svn } }
        if c1 = 0 then boot s i1 b
        else
          let s := { s with sec := { s.sec with firstFail := c1, fallback := true } }
          let s := if Config.measuresBoth then s.measureImage i1 else s
          let c2 := imageCause s.sec i2
          if c2 = 0 then boot s i2 (!b) else s.bootFail c2)

/-- Write a list of words to consecutive registers. -/
def State.setRegs (s : State) (a : Nat) : List W → State
  | [] => s
  | w :: t => (s.setReg a w).setRegs (a + 4) t

/-- The words of the CORE_WIN entries. -/
def winWords (l : List (W × W)) : List W := (l.take 16).flatMap fun (b, c) => [b, c]

/-- PROT_SETUP_LOCK (R195 to R197): carve-outs, tenant pool, ACT and core windows as the image gives them, then PROT_LOCK. The
contents of the carve-outs are Fausk's own. -/
def execProtSetupLock (s : State) : Host.Outcome State Fault Refusal :=
  .next (match s.pw.stage, s.sec.image with
    | .imageVerified, some i =>
      let fw := 383 - i.fwCarve
      let act := (List.range 64).map fun j => BitVec.ofNat 32 (if j < 48 then (i.act.getD j 0).toNat else 0)
      let s := (((s.setReg 0x4110 (BitVec.ofNat 32 (fw + 2 ^ 16 * i.fwCarve))).setReg 0x4114 (BitVec.ofNat 32 (383 + 2 ^ 16))).setReg 0x4118
        (BitVec.ofNat 32 (2 ^ 16 * (fw - 1)))).setRegs 0x4200 act
      let s := (s.setRegs 0x4300 (winWords i.windows)).setReg 0x4100 1
      let s := (s.extend 5 (wordsBytes ([s.reg 0x4110, s.reg 0x4114, s.reg 0x4118] ++ act ++ winWords i.windows))).extend 6 [0]
      let s := s.forget ((List.range i.fwCarve).map fun j => fw + j)
      ({ s with pw := { s.pw with stage := .protLocked } } : State).deriveKey
    | _, _ => s)

/-- FW_STARTING (R100, R238, R715, R717, R736, R743, R787, R799): the firmware cores run. -/
def execFwStarting (s : State) : Host.Outcome State Fault Refusal :=
  .next (match s.pw.stage, s.sec.image with
    | .protLocked, some i =>
      let s := s.setReg 0x7134 (BitVec.ofNat 32 (boardOc s.sec.board))
      { s with
        pw := { s.pw with stage := .fwStarting }
        ck := { s.ck with cclk := List.replicate 16 { cclkReset with gated := false } }
        fw := { s.fw with version := i.version, verMin := i.brnMin, verMax := i.brnMax }
        trim := { s.trim with telemetryOn := true, i3c := boardI3c s.sec.board } }
    | _, _ => s)

/-- BRIANE_READY (R261, R296): STAGE reads READY; BOOT_TIME holds the microseconds since PERST_N. -/
def execBrianeReady (s : State) : Host.Outcome State Fault Refusal :=
  .next (if s.pw.stage ≠ .fwStarting then s
    else { s with pw := { s.pw with
        stage := .ready, bootTime := BitVec.ofNat 32 (min ((s.ck.gtime - s.pw.bootStart).toNat / 1000) 0xFFFFFFFF) } })

/-! ### Clock loss (R104, R105) -/

/-- REFCLK_LOSS (R104): whether the PLL still reports lock without its reference is open. -/
def execRefclkLoss (s : State) : Host.Outcome State Fault Refusal :=
  .next (if !s.pw.railsUp ∨ !s.pw.refclk then s
    else
      let n := s.own.freeCtr
      let s := { s.bumpFree with pw := { s.pw with refclk := false, sclk := 2, pllLock := s.pw.pllLock && Config.freeBool n } }
      (s.countField 0x110C 8 8 1).raise 0x0B05 .device none 0x1000 0)

/-- PLL_UNLOCK (R105). -/
def execPllUnlock (s : State) : Host.Outcome State Fault Refusal :=
  .next (if !s.pw.refclk ∨ !s.pw.pllLock then s
    else
      let s := { s with pw := { s.pw with pllLock := false, sclk := 0 } }
      (s.countField 0x110C 0 8 1).raise 0x0B06 .device none 0x1000 0)

/-! ### Resets of every instance: L3 recovery and PF FLR (R112 to R117, R329) -/

/-- INST_0 as at Briane-ready (R296): its quotas. -/
def instZero (i : Inst) : Inst := { i with maxQ := 64, htab := 12, maxSync := 16, maxRes := 16, removing := false }

/-- One instance is reset at once by a wider reset (R112, R309, R256): INST_0 is ACTIVE after it, a VF instance UNASSIGNED. -/
def State.resetNow (s : State) (cause k : Nat) : State :=
  let s := (s.resetInst k).closeRings k
  let s := s.setInst k (if k = 0 then instZero (s.inst k) else { noQuota (s.inst k) with removing := false })
  let after : InstSt := if k = 0 then .active else .unassigned
  if (s.inst k).st = after then s else s.setSt k after cause

/-- Every instance is reset (R112, R377): groups go, the hub is empty, sessions end, records of their owners are acknowledged (R765). -/
def State.resetAll (s : State) (cause : Nat) : State :=
  let s := ((List.range 128).filter fun k => k == 0 || (s.inst k).st != .unassigned).foldl (fun s k => s.resetNow cause k) s
  let s := s.resetRange 0x1F0140 64 fun _ => false
  let s := { s with sync := { objs := [], blocks := [], waiters := [], fifo := [] }, sess := [] }
  (s.ackWhere fun o _ => o != .device).abandonFw

/-- An L3 recovery begins (R112, R114, R116, R120, R224, R287, R765): only a device that is READY can, a wider state absorbs it. -/
def State.l3Start (s : State) (cause : ResetLast) : State :=
  if s.pw.safe ∨ s.pw.stage ≠ .ready then s
  else
    let s := { s with pw := { s.pw with last := cause, stage := .l3Recovery, l3 := true, l3Count := min (s.pw.l3Count + 1) 0xFFFFFFFF, removing := false } }
    let s := s.cutAll
    let s := { s with pcie := { s.pcie with held := [] } }
    let s := ((s.holdStart 0).holdStart 1).resetAll 7
    let s := { s with sec := { s.sec with drbgCount := 0 }, fw := { s.fw with staged := none } }
    s.setFw .running

/-- L3_RECOVERY_START (R114) for one of its causes. -/
def execL3RecoveryStart (cause : ResetLast) (s : State) : Host.Outcome State Fault Refusal :=
  .next (match cause with
    | .cold | .warm => s
    | _ => s.l3Start cause)

/-- L3_RECOVERY_DONE (R113, R117, R768): narrower resets end with it. -/
def execL3RecoveryDone (s : State) : Host.Outcome State Fault Refusal :=
  .next (if !s.pw.l3 then s
    else
      let s := { s with
        pw := { s.pw with l3 := false, stage := if s.pw.stage = .l3Recovery then .ready else s.pw.stage }
        pcie := { s.pcie with fns := s.pcie.fns.map fun (k, f) => (k, { f with flr := false }) } }
      if bitOf (s.reg 0x9100).toNat 1 then (s.setReg 0x9100 (setField (s.reg 0x9100) 1 1 0)).cause 0x9000 11 else s)

/-- The Function Level Reset of the PF (R112, R115 to R117, R377). -/
def State.pfFlr (s : State) : State :=
  if s.pw.l3 then s.setFn 0 { s.fn 0 with flr := true }
  else
    let s := s.cutAll
    let s := { s with pcie := { s.pcie with
      fns := tblSet fnReset 0 { fnReset with flr := true, mps := (s.fn 0).mps } [], vfEn := false, vfMse := false, numVfs := 0, pfBar2 := 0, vfBar2 := 0, ptmEn := false, ats := [] } }
    if s.pw.safe ∨ s.pw.stage ≠ .ready then s else s.resetAll 2

/-- PF_FLR (R112, R115 to R117, R377): INST_0 and every VF instance are reset, VF Enable is cleared; Max_Payload_Size stays. -/
def execPfFlr (s : State) : Host.Outcome State Fault Refusal :=
  .next (if !s.pcie.linkUp ∨ !s.pw.configReady then s else s.pfFlr)

/-- Whether VF `k` is visible (R138). -/
def State.vfSeen (s : State) (k : Nat) : Bool := s.pcie.vfEn && decide (1 ≤ k ∧ k ≤ s.pcie.numVfs)

/-- The Function Level Reset of VF `k` (R112, R115, R139, R320). -/
def State.vfFlr (s : State) (k : Nat) : State :=
  if s.pw.l3 ∨ (s.fn 0).flr then s.setFn k { s.fn k with flr := true }
  else
    let s := s.setFn k { fnReset with flr := true }
    let s := { s with pcie := { s.pcie with ats := s.pcie.ats.filter fun (f, _) => f != k } }
    if s.pw.safe ∨ s.pw.stage ≠ .ready then s else (s.closeRings k).trigger k false true false (.reset false) 1

/-- VF_FLR (R112, R115, R117, R139, R256, R309, R320): a forced quiesce of INST_`k`, then its reset. -/
def execVfFlr (k : Nat) (s : State) : Host.Outcome State Fault Refusal :=
  .next (if !s.vfSeen k ∨ !s.pcie.linkUp then s else s.vfFlr k)

/-- FLR_DONE (R115, R139): the FLR of function `k` ends once its instance's reset has. -/
def execFlrDone (k : Nat) (s : State) : Host.Outcome State Fault Refusal :=
  let st := (s.inst k).st
  .next (if !(s.fn k).flr ∨ s.pw.l3 ∨ (k ≠ 0 ∧ (st = .quiescing ∨ st = .resetting ∨ (s.inst k).quiesce.isSome)) then s
    else s.setFn k { s.fn k with flr := false })

/-! ### The link (R128, R129, R172) -/

/-- What the loss of the link discards (R128, R112): the posted transmit queue, every host read, configuration space. -/
def State.linkDrop (s : State) : State :=
  let s := s.cutAll
  let s := { s with pcie := { pcieReset with sent := s.pcie.sent, ideFails := s.pcie.ideFails } }
  (s.countField 0x1E0104 16 8 1).cause 0x1E0000 12

/-- Link loss (R128, R172): L3 recovery with RESET_CAUSE LINK_LOSS, and the fault LINK_LOSS. -/
def State.linkLoss (s : State) : State :=
  let go := !s.pw.safe && s.pw.stage == .ready
  (s.linkDrop.l3Start .linkLoss).raiseAs 0x0402 2 (if go then .l3 else .absorbed) .device none 0x1E0000 0xFF 0 false false false

/-- LINK_DOWN (R128). -/
def execLinkDown (s : State) : Host.Outcome State Fault Refusal := .next (if s.pcie.linkUp then s.linkLoss else s)

/-- HOT_RESET (R128). -/
def execHotReset (s : State) : Host.Outcome State Fault Refusal :=
  .next (if s.pcie.linkUp then s.linkDrop.l3Start .hotReset else s)

/-- LINK_UP (R129, R135, R136): the link trains at a rate and width, within the board's limits. -/
def execLinkUp (rate width : Nat) (flit : Bool) (s : State) : Host.Outcome State Fault Refusal :=
  let lim := boardLimit s.sec.board
  .next (if s.pcie.linkUp ∨ s.pw.perst ∨ !s.pw.pllOn ∨ 5 < rate ∨ !([1, 2, 4, 8, 16].contains width) then s
    else { s with pcie := { s.pcie with linkUp := true, rate := min rate lim.1, width := min width lim.2, flit := flit } })

end Sys2Proof.Machine
end

