-- ==== Sys2Proof/Machine/Inject.lean ====
section
/-! DEFINITION. The checkers of the pages and what an injection makes of them (R43 to R46, R671, R755, R756, R774, R777). -/

set_option Elab.async false
namespace Sys2Proof.Machine

/-- What a checker guards, as far as its fault depends on it: a shared structure under parity or ECC (R756, R755), a cache that is
filled again, a unit of one context, an output buffer (R756), a scratchpad granule (R663), the FCOL's own configuration or ring
(R774), the check bits of HBM (R671), or a structure whose class the spec leaves open. -/
inductive Guard
  | shared | sharedEcc | cache | ctx | ctxEcc | output | granule | fcolCfg | fcolRing | hbm | openClass
deriving DecidableEq, Repr

/-- What checker `c` of a page guards, from the lists of the owning chapters. -/
def guardOf (pg : Pg) (c : Nat) : Guard :=
  match pg, c with
  | .mh 2, 0 => .cache
  | .mh 2, _ => .sharedEcc
  | .mh _, _ | .beacon, _ | .scan, _ => .shared
  | .rigging, 0 => .sharedEcc
  | .rigging, _ => .shared
  | .dmmu, _ => .cache
  | .l2, 2 => .shared
  | .l2, _ => .sharedEcc
  | .hbm, 0 => .hbm
  | .hbm, _ => .shared
  | .pcieCtl, 2 => .cache
  | .pcieCtl, _ => .shared
  | .head, 0 => .output
  | .head, _ => .shared
  | .dp, _ => .output
  | .seq, 0 | .ccc, 1 => .ctxEcc
  | .seq, _ | .ccc, _ => .ctx
  | .eng e, c => if e < 4 ∧ c = 1 ∨ e = 4 then .ctxEcc else .ctx
  | .cmem, 0 => .granule
  | .cmem, _ => .cache
  | .fcol, 1 => .fcolRing
  | .fcol, _ => .fcolCfg
  | _, _ => .openClass

/-- Whether a guarded structure is checked by ECC; the buffers of the PCIe controller and the Prism banks are. -/
def guardEcc (pg : Pg) (c : Nat) : Bool :=
  match guardOf pg c, pg with
  | .sharedEcc, _ | .ctxEcc, _ | .granule, _ | .fcolRing, _ | .hbm, _ => true
  | .shared, .pcieCtl => true
  | .shared, .head => true
  | _, _ => false

/-- The inverted bits of INVERT. -/
def flipCount (inv : Nat) : Nat := ((List.range 8).filter fun i => bitOf inv i).length

/-- What inverted check bits come to (R648 and the checkers' kinds): an ECC code corrects one and detects two, parity detects bit 0;
what more bits do is open. -/
def flipFind (n inv : Nat) (ecc : Bool) : Ecc :=
  if inv % 256 = 0 then .good
  else if ecc then
    match flipCount inv with
    | 1 => .corrected
    | 2 => .uncorrected
    | _ => if Config.freeBool n then .uncorrected else if Config.freeBool (n + 1) then .corrected else .good
  else if bitOf inv 0 then .uncorrected else if Config.freeBool n then .uncorrected else .good

/-- The running context of a cluster takes an uncorrectable error (R755, R608): its launch is killed and its queue faults. With no
context on the cluster the error belongs to the device. -/
def State.ctxEcc (s : State) (n base chk detail : Nat) : State :=
  match (s.cluster n).run with
  | none => s.raiseAs 0x0205 2 .l3 .device none base chk detail false true false
  | some i => match tblFind i s.launches with
    | none => s
    | some l =>
      let p := s.launchPos l
      let was := decide ((s.queue l.hwq).st = .faulted)
      let s := (s.killLaunch i).enterFaulted l.hwq 0x0205 p 2 0
      (s.raiseAs 0x0205 1 .l2 (.ctx l.inst l.hwq i) (some l.hwq) base chk detail false true was).kick

/-- ECC events of an L2 slice (SL_ECC): its counter and the page's cause. -/
def State.sliceEcc (s : State) (slice : Nat) (uncorr : Bool) : State :=
  (s.countField (0x1B0800 + 4 * slice) (if uncorr then 16 else 0) 16 1).cause 0x1B0000 8

/-- The fault of an injected error (R777): page, checker, what was found, DETAIL. -/
def State.injFault (s : State) (l : Loc) (c : Nat) (e : Ecc) (detail : Nat) : State :=
  let up (code cls : Nat) (lvl : Level) (s : State) : State := s.raiseAs code cls lvl .device none l.base c detail false true false
  let n := s.own.freeCtr
  let s := if l.pg = .l2 ∧ e ≠ .good ∧ c < 2 then s.sliceEcc (detail / 2 ^ 56) (e == .uncorrected) else s
  let s := if l.pg = .cmem ∧ c = 1 ∧ e ≠ .good then s.countField (yardBase l.unit + 0x811C) 0 16 1 else s
  match e, guardOf l.pg c with
  | .good, _ => s
  | .corrected, .cache => up 0x0204 0 .l0 s
  | .corrected, _ => up 0x0204 0 .l0 s
  | .uncorrected, .cache => up 0x0204 0 .l0 s
  | .uncorrected, .shared => up 0x0A01 2 .l3 s
  | .uncorrected, .sharedEcc | .uncorrected, .hbm => up 0x0205 2 .l3 s
  | .uncorrected, .output => up 0x0A01 0 .l1 s
  | .uncorrected, .ctx | .uncorrected, .ctxEcc => s.ctxEcc l.unit l.base c detail
  | .uncorrected, .granule => ((s.countField (yardBase l.unit + 0x811C) 16 16 1).cause (yardBase l.unit + 0x8000) 8).ctxEcc l.unit l.base c detail
  | .uncorrected, .fcolCfg | .uncorrected, .fcolRing => up 0x0B07 3 .l4 s
  | .uncorrected, .openClass =>
    if Config.freeBool n then up 0x0A01 2 .l3 s.bumpFree else up 0x0A01 0 .l1 s.bumpFree

/-- INJECT of a page. -/
def aInject (base : Nat) : Nat := base + 0x20

/-- The copy an armed injection reaches: the slice or pseudo-channel selected at the ARM write (R671). -/
def State.injCopy (s : State) (base : Nat) : Nat := (tblGet (0 : W) (aInject base + 1) s.regs).toNat

/-- An armed injection fires (R43): ARM clears, FIRED and INJECT_FIRED are set, and the check finds what the inverted bits make. -/
def State.injFire (s : State) (base detail : Nat) : State :=
  let v := (s.reg (aInject base)).toNat
  match locate base with
  | none => s
  | some l =>
    if !bitOf v 16 then s
    else
      let c := bitsOf v 0 8
      let e := flipFind s.own.freeCtr (bitsOf v 8 8) (guardEcc l.pg c)
      let s := s.bumpFree.bumpFree
      let s := (s.setReg (aInject base) (setField (setField (s.reg (aInject base)) 16 1 0) 17 1 1)).cause base 3
      s.injFault l c e detail

/-- An injection of the HBM data checker reaches the check bits of a 32 B unit that has just been written (R671): a single bit is
found by a later read, two make the unit uncorrectable. -/
def State.injUnit (s : State) (u : Nat) : State :=
  let v := (s.reg (aInject 0x1C0000)).toNat
  let e := flipFind s.own.freeCtr (bitsOf v 8 8) true
  let s := s.bumpFree.bumpFree
  let s := (s.setReg (aInject 0x1C0000) (setField (setField (s.reg (aInject 0x1C0000)) 16 1 0) 17 1 1)).cause 0x1C0000 3
  match e with
  | .good => s
  | .corrected => { s with flips := tblPut u 1 s.flips }
  | .uncorrected =>
    let s := { s with flips := tblPut u 2 s.flips }
    s.eccFind (some (u, true)) false

/-- A flipped check bit that a read of a range finds. -/
def State.flipAt (s : State) (pa n : Nat) : Option (Nat × Bool) :=
  (s.flips.find? fun (u, k) => decide (k = 1 ∧ pa < 32 * u + 32 ∧ 32 * u < pa + n)).map fun (u, _) => (u, false)

end Sys2Proof.Machine
end

