-- ==== Sys2Proof/Machine/Link.lean ====
section
/-! DEFINITION. The PCIe host link (04): configuration space, BAR 2, host reads, the host stall, ATS, PTM and IDE. -/

set_option Elab.async false
namespace Sys2Proof.Machine

/-! ### Functions -/

/-- Whether nothing but a warm or cold reset changes the device (R126). -/
def State.parked (s : State) : Bool := s.pw.stage == .parked

/-- Whether a function exists: the PF, or a visible VF (R138). -/
def State.fnSeen (s : State) (k : Nat) : Bool := k == 0 || s.vfSeen k

/-- Log an error in a function's AER registers. -/
def State.aerLog (s : State) (k e : Nat) : State := s.setFn k { s.fn k with aer := (s.fn k).aer ++ [e] }

/-- Whether memory requests to a function's BARs reach it: Memory Space Enable (of the VFs for a VF), D0 (PCIe). -/
def State.memOpen (s : State) (k : Nat) : Bool :=
  s.pcie.linkUp && s.fnSeen k && !(s.fn k).d3hot && (if k = 0 then (s.fn 0).memEn else s.pcie.vfMse)

/-! ### Commands that wait for host-bound writes -/

/-- Commands that only wait for writes to be issued complete once none of their instance's is held (R169, R432). -/
def State.settleHost (s : State) : State :=
  (s.cmds.filter fun c => match c.work with | .hostWait => true | _ => false).foldl (fun s c =>
    if s.pcie.held.any fun m => msgInst m == (s.queue c.hwq).inst then s else s.complete c) s

/-- Whether an access of a function uses a translation of a range of host pages. -/
def State.usesRange (s : State) (k pg n : Nat) : Bool :=
  let hit (a : Nat) : Bool := decide (pg ≤ a / 4096 ∧ a / 4096 < pg + n)
  (s.pcie.reads.any fun r => r.inst == k && hit r.addr.toNat) ||
    (s.pcie.held.any fun m => match m with | .write j a _ _ _ => j == k && hit a.toNat | _ => false)

/-- Invalidations whose accesses have ended are answered (R175). -/
def State.settleAts (s : State) : State :=
  s.pcie.atsInval.foldl (fun s e =>
    if s.usesRange e.1 e.2.1 e.2.2 then s
    else ({ s with pcie := { s.pcie with atsInval := s.pcie.atsInval.erase e } } : State).issueHost (.atsDone e.1)) s

/-- What the end of host accesses lets go on: held commands, invalidations of the DMMU and of ATS. -/
def State.settleLink (s : State) : State := s.settleHost.settleInval.settleAts

/-! ### Bus Master Enable (R153, R159) -/

/-- A copy to the host ends because Bus Master Enable cleared: the bytes still in the posted transmit queue were not sent (R159). -/
def State.bmeCut (s : State) (m : Mover) : State :=
  let queued := (s.pcie.txq.map fun x => match x with | .write _ _ d _ c => if c = m.id + 1 then d.length else 0 | _ => 0).sum
  let m := { m with issued := m.issued - queued }
  match s.moverCmd m.id with
  | none => s.dropMover m.id
  | some c =>
    let s := ((s.dropMover m.id).count 0x16154).cause 0x16000 9
    let s := { s with cmds := s.cmds.filter (·.id ≠ c.id) }
    s.hostReadFault m.hwq .bmeOff (cmdPos c) 1 (some (moverDetail m))

/-- Bus Master Enable of function `k` clears (R159). `prog` says how far its copies had come. -/
def State.bmeClear (s : State) (k : Nat) (prog : List (Nat × Nat)) : State :=
  if !(s.fn k).bme then s
  else
    let s := s.movedBy (prog.filter fun (id, _) => s.movers.any fun m => m.id == id && m.inst == k && m.toHost)
    let s := s.setFn k { s.fn k with bme := false }
    let s := (s.movers.filter fun m => m.inst = k ∧ m.toHost).foldl (fun s m => match s.mover m.id with | some m => s.bmeCut m | none => s) s
    let pend := (s.pcie.txq ++ s.pcie.held).filterMap fun m => match m with | .msix j v => if j = k then some v else none | _ => none
    let s := { s with pcie := { s.pcie with
      txq := s.pcie.txq.filter fun m => msgInst m != k
      held := s.pcie.held.filter fun m => msgInst m != k
      pba := pend.foldl (fun l v => addNat (k * 16 + v) l) s.pcie.pba } }
    s.settleLink

/-- BUS_MASTER_DISABLE (R159): Bus Master Enable of function `k` clears. -/
def execBusMasterDisable (k : Nat) (prog : List (Nat × Nat)) (s : State) : Host.Outcome State Fault Refusal :=
  .next (if !s.pcie.linkUp ∨ !s.fnSeen k ∨ s.parked then s else s.bmeClear k prog)

/-! ### SR-IOV, BAR sizes and power states -/

/-- VF Enable is set (R138); with NumVFs 0 it has no effect yet. -/
def State.vfEnable (s : State) : State := { s with pcie := { s.pcie with vfEn := true } }

/-- VF Enable is cleared (R309, R310): every VF instance is quiesced by force and removed. -/
def State.vfDisable (s : State) : State :=
  if !s.pcie.vfEn then s
  else
    let s := { s with pcie := { s.pcie with vfEn := false, fns := s.pcie.fns.filter fun (k, _) => k == 0, ats := s.pcie.ats.filter fun (k, _) => k == 0 } }
    if s.pw.safe ∨ s.pw.stage ≠ .ready then s
    else ((List.range 128).filter fun k => k != 0 && (s.inst k).st != .unassigned).foldl (fun s k =>
      (s.closeRings k).trigger k false true false (.reset true) 6) s

/-- A write to NumVFs (R138). -/
def State.numVfsWrite (s : State) (n : Nat) : State :=
  if 127 < n ∨ (s.pcie.vfEn ∧ s.pcie.numVfs ≠ 0) then s else { s with pcie := { s.pcie with numVfs := n } }

/-- A write to a BAR Size field (R142, R143): size code 0 is 256 MiB, 9 is 128 GiB. -/
def State.barSize (s : State) (vf : Bool) (n : Nat) : State :=
  if 9 < n then s
  else if vf then (if s.pcie.vfMse then s else { s with pcie := { s.pcie with vfBar2 := n } })
  else if (s.fn 0).memEn then s else { s with pcie := { s.pcie with pfBar2 := n } }

/-- A function enters D3hot (R140): its instance takes the forced quiesce, ending QUIESCED. -/
def State.d3Enter (s : State) (k : Nat) : State :=
  if (s.fn k).d3hot then s
  else
    let s := s.setFn k { s.fn k with d3hot := true }
    if s.pw.safe ∨ s.pw.stage ≠ .ready then s else s.trigger k false true false .quiesced 3

/-- VF_ENABLE_SET (R138). -/
def execVfEnableSet (s : State) : Host.Outcome State Fault Refusal :=
  .next (if !s.pcie.linkUp ∨ s.parked ∨ s.pcie.numVfs = 0 then s else s.vfEnable)

/-- VF_ENABLE_CLEAR (R309). -/
def execVfEnableClear (s : State) : Host.Outcome State Fault Refusal :=
  .next (if !s.pcie.linkUp ∨ s.parked then s else s.vfDisable)

/-- NUMVFS_WRITE (R138). -/
def execNumvfsWrite (n : Nat) (s : State) : Host.Outcome State Fault Refusal :=
  .next (if !s.pcie.linkUp ∨ s.parked then s else s.numVfsWrite n)

/-- BAR_SIZE_WRITE (R143): of PF BAR 2 or VF BAR 2. -/
def execBarSizeWrite (vf : Bool) (size : Nat) (s : State) : Host.Outcome State Fault Refusal :=
  .next (if !s.pcie.linkUp ∨ s.parked then s else s.barSize vf size)

/-- D3HOT_ENTRY (R140). -/
def execD3hotEntry (k : Nat) (s : State) : Host.Outcome State Fault Refusal :=
  .next (if !s.pcie.linkUp ∨ !s.fnSeen k ∨ s.parked then s else s.d3Enter k)

/-- D0_RETURN (R140): the function's instance stays as its quiesce left it. -/
def execD0Return (k : Nat) (s : State) : Host.Outcome State Fault Refusal :=
  .next (if !s.pcie.linkUp ∨ !s.fnSeen k ∨ s.parked then s else s.setFn k { s.fn k with d3hot := false })

/-! ### Configuration requests (R2, R3, R107, R135, R151) -/

/-- The code of a size of 128 B times a power of two. -/
def sizeCode (n : Nat) : Nat := Nat.log2 (n / 128)

/-- What a configuration register field of function `k` reads. -/
def State.cfgRead (s : State) (k : Nat) (r : CfgReg) : Nat :=
  let f := s.fn k
  let pf := decide (k = 0)
  let sub := boardSubsys s.sec.board
  match r with
  | .vendorId => if pf then 0x1E9C else 0xFFFF
  | .deviceId => if pf then 0x6400 else 0xFFFF
  | .classCode => 0x120000
  | .revisionId => 0x21
  | .subsysVendorId => sub.1
  | .subsysId => sub.2
  | .memSpace => if pf then b2n f.memEn else 0
  | .busMaster => b2n f.bme
  | .powerState => if f.d3hot then 3 else 0
  | .mps => sizeCode f.mps
  | .mrrs => sizeCode f.mrrs
  | .cplTimeout => f.cto.toNat
  | .initiateFlr => 0
  | .msixEnable => b2n f.msixEn
  | .msixMask => b2n f.fmask
  | .msixTableSize => 16
  | .msixTable => if pf then 0x403000 else 0x3000
  | .msixPba => if pf then 0x403800 else 0x3800
  | .atsEnable => b2n f.atsEn
  | .ptmEnable => if pf then b2n s.pcie.ptmEn else 0
  | .vfEnable => if pf then b2n s.pcie.vfEn else 0
  | .vfMse => if pf then b2n s.pcie.vfMse else 0
  | .numVfs => if pf then s.pcie.numVfs else 0
  | .totalVfs => if pf then 127 else 0
  | .vfOffset | .vfStride => if pf then 1 else 0
  | .vfDeviceId => if pf then 0x6400 else 0
  | .barSize => if pf then s.pcie.pfBar2 else 0
  | .vfBarSize => if pf then s.pcie.vfBar2 else 0
  | .maxRate => (boardLimit s.sec.board).1
  | .maxWidth => (boardLimit s.sec.board).2
  | .linkRate => s.pcie.rate
  | .linkWidth => s.pcie.width
  | .aer => (f.aer.eraseDups.map fun e => 2 ^ e).sum
  | .other => 0

/-- A write to a configuration register field of function `k`; `prog` as for Bus Master Enable. -/
def State.cfgWrite (s : State) (k : Nat) (r : CfgReg) (v : Nat) (prog : List (Nat × Nat)) : State :=
  let f := s.fn k
  let pf := decide (k = 0)
  match r with
  | .memSpace => if pf then s.setFn 0 { f with memEn := bitOf v 0 } else s
  | .busMaster => if bitOf v 0 then (s.setFn k { f with bme := true }).msixRelease k else s.bmeClear k prog
  | .powerState => if v % 4 = 3 then s.d3Enter k else if v % 4 = 0 then s.setFn k { f with d3hot := false } else s
  | .mps => s.setFn k { f with mps := 128 * 2 ^ (v % 8) }
  | .mrrs => s.setFn k { f with mrrs := 128 * 2 ^ (v % 8) }
  | .cplTimeout => s.setFn k { f with cto := BitVec.ofNat 4 v }
  | .initiateFlr => if bitOf v 0 then (if pf then s.pfFlr else s.vfFlr k) else s
  | .msixEnable => (s.setFn k { f with msixEn := bitOf v 0 }).msixRelease k
  | .msixMask => (s.setFn k { f with fmask := bitOf v 0 }).msixRelease k
  | .atsEnable =>
    let s := s.setFn k { f with atsEn := bitOf v 0 }
    if bitOf v 0 then s else { s with pcie := { s.pcie with ats := s.pcie.ats.filter fun (j, _) => j != k } }
  | .ptmEnable => if pf then { s with pcie := { s.pcie with ptmEn := bitOf v 0 } } else s
  | .vfEnable => if pf then (if bitOf v 0 then s.vfEnable else s.vfDisable) else s
  | .vfMse => if pf then { s with pcie := { s.pcie with vfMse := bitOf v 0 } } else s
  | .numVfs => if pf then s.numVfsWrite v else s
  | .barSize => if pf then s.barSize false v else s
  | .vfBarSize => if pf then s.barSize true v else s
  | .aer => s.setFn k { f with aer := f.aer.filter fun e => !bitOf v e }
  | _ => s

/-- Whether a function answers configuration requests with retry status (R107, R117, R129, R139). -/
def State.cfgRetry (s : State) (k : Nat) : Bool := !s.pw.configReady || s.pw.l3 || (s.fn 0).flr || (s.fn k).flr

/-- PCIE_CONFIG_REQUEST (R107, R135, R138, R139): a read, or a write of a value, of a register field of function `k`. The completion
status is 0 success, 1 Unsupported Request, 2 retry. -/
def execPcieConfigRequest (k : Nat) (reg : CfgReg) (write : Option Nat) (prog : List (Nat × Nat)) (s : State) : Host.Outcome State Fault Refusal :=
  .next (if !s.pcie.linkUp then s
    else if !s.pw.configReady then s.answer [] 2
    else if !s.fnSeen k then s.answer [] 1
    else if s.cfgRetry k then s.answer [] 2
    else match write with
      | none => s.answer (leBytes 4 (s.cfgRead k reg)) 0
      | some v => (if s.parked then s else s.cfgWrite k reg v prog).answer [] 0)

/-! ### BAR 2 (R144 to R150) -/

/-- The size of a function's BAR 2. -/
def State.bar2Size (s : State) (k : Nat) : Nat := 2 ^ (28 + if k = 0 then s.pcie.pfBar2 else s.pcie.vfBar2)

/-- Whether an HBM physical address lies in a carve-out once the protection setup is written (R198). -/
def State.inCarve (s : State) (pa : Nat) : Bool := s.inFwCarve (pa / 2 ^ 28) || s.inSecCarve (pa / 2 ^ 28)

/-- The HBM physical address a BAR 2 offset maps to (R144 to R146, R304); none where it maps nothing. -/
def State.bar2Map (s : State) (k off : Nat) : Option Nat :=
  if k = 0 then
    let pa := 2 ^ 28 * (s.reg 0x1E0114).toNat + off
    if 384 * 2 ^ 28 ≤ pa ∨ s.inCarve pa then none else some pa
  else match (s.slotList k)[off / 2 ^ 28]? with
    | none => none
    | some n => if slotPending (s.slot n) then none else some (2 ^ 28 * n + off % 2 ^ 28)

/-- A denied BAR 2 access is counted (R145, R146, R370). -/
def State.bar2Deny (s : State) : State := s.count 0x1E0118

/-- An uncorrectable unit that the host reads (R649, R755). -/
def State.hostPoison (s : State) (pa : Nat) : State :=
  match (s.slot (pa / 2 ^ 28)).owner, (s.slot (pa / 2 ^ 28)).scrub with
  | some k, .clean => s.raiseAs 0x0205 1 .l1 (.inst k) none 0x1C0000 0xFF pa false false false
  | some k, _ => s.raiseAs 0x0205 0 .l0 (.inst k) none 0x1C0000 0xFF pa true false false
  | none, _ => s.raiseAs 0x0205 0 .l0 .device none 0x1C0000 0xFF pa true false false

/-- A unit found uncorrectable while a partial write is merged into it (R648, R755). -/
def State.mergePoison (s : State) (pa : Nat) : State :=
  s.raiseAs 0x0205 0 .l0 (match (s.slot (pa / 2 ^ 28)).owner with | some k => .inst k | none => .device) none 0x1C0000 0xFF pa false false false

/-- An armed injection of the L2 or the HBM page fires if the access makes the check it waits for (R43, R671). -/
def State.bar2Fire (s : State) (pa : Nat) (wr checked : Bool) : State :=
  let s := if checked && bitOf (s.reg (aInject 0x1B0000)).toNat 16 && s.injCopy 0x1B0000 == hbmSlice pa then
      s.injFire 0x1B0000 (2 ^ 56 * hbmSlice pa + Config.freeNat s.own.freeCtr % 2 ^ 32) else s
  let v := (s.reg (aInject 0x1C0000)).toNat
  if checked && bitOf v 16 && s.injCopy 0x1C0000 == (hbmPlace pa).1 + 4 * (hbmPlace pa).2 then
    (if bitsOf v 0 8 = 0 then (if wr then s.injUnit (pa / 32) else s) else s.injFire 0x1C0000 pa)
  else s

/-- A read of HBM by the host: the completion carries EP where a unit is poisoned (status 3). -/
def State.bar2Read (s : State) (pa len : Nat) (err : Option (Nat × Bool)) : State :=
  let hit : Option (Nat × Bool) := match err with
    | some (u, b) => if pa < 32 * u + 32 ∧ 32 * u < pa + len then some (u, b) else none
    | none => s.flipAt pa len
  let s := s.eccFind hit false
  let d := s.memBytes pa len
  match s.poisonAt pa len with
  | some u => (s.hostPoison (32 * u)).answer d 3
  | none => s.answer d 0

/-- A write of HBM by the host with byte enables (R149, R648). -/
def State.bar2Write (s : State) (pa : Nat) (bs : List (Option Byte)) (err : Option (Nat × Bool)) : State :=
  let s := match err with
    | some (u, b) =>
      if pa < 32 * u + 32 ∧ 32 * u < pa + bs.length ∧ !coversUnit pa bs u ∧ !(u ∈ s.poison) then
        (if b then (s.eccFind (some (u, true)) false).mergePoison (32 * u) else s.eccFind (some (u, false)) false) else s
    | none => s
  (s.devWriteMask pa bs).answer [] 0

/-- BAR2_ACCESS (R108, R139, R144 to R149, R370, R648, R649, R769): a read of `len` bytes at offset `off` of function `k`'s BAR 2, or
a write of bytes with their enables. `err` is what the ECC check of the memory read finds, `checked` whether an armed injection's
checker makes a check. The completion status is 0 success, 1 Unsupported Request, 3 poisoned data. -/
def execBar2Access (k off len : Nat) (wr : Option (List (Option Byte))) (err : Option (Nat × Bool)) (checked : Bool) (s : State) :
    Host.Outcome State Fault Refusal :=
  let n := match wr with | some b => b.length | none => len
  let zero (s : State) : State := match wr with | some _ => s.answer [] 0 | none => s.answer (List.replicate len 0) 0
  .next (if !s.pcie.linkUp ∨ !s.fnSeen k ∨ n = 0 ∨ 4096 < off % 4096 + n ∨ (k = 0 ∧ s.bar2Size k < off + n) then s
    else if !s.memOpen k then (if wr.isSome then s else (s.aerLog k 20).answer [] 1)
    else if s.pw.safe ∨ s.reg 0x4100 = 0 ∨ (s.fn k).flr then zero s
    else if s.parked then (match wr with | some _ => s.answer [] 0 | none => s.bumpFree.answer (s.drawBytes len).1 0)
    else match (if s.bar2Size k < off + n then none else s.bar2Map k off) with
      | none => zero s.bar2Deny
      | some pa => match wr with
        | none => (s.bar2Read pa len err).bar2Fire pa false checked
        | some bs =>
          if k ≠ 0 ∧ (s.inst k).st = .shadowed then zero s.bar2Deny
          else (s.bar2Write pa bs err).bar2Fire pa true checked)

/-- POISONED_HOST_WRITE (R162): a poisoned write to a BAR of function `k` is discarded and logged. -/
def execPoisonedHostWrite (k : Nat) (s : State) : Host.Outcome State Fault Refusal :=
  .next (if !s.pcie.linkUp ∨ !s.fnSeen k then s else s.aerLog k 12)

/-- ATOMICOP_RECEIVED (R137): answered with Unsupported Request and logged in function `k`. -/
def execAtomicopReceived (k : Nat) (s : State) : Host.Outcome State Fault Refusal :=
  .next (if !s.pcie.linkUp ∨ !s.fnSeen k then s else (s.aerLog k 20).answer [] 1)

/-! ### Host reads (R160, R161) -/

/-- Ring entries from `count` on arrive, sixteen words each (R416). -/
def State.ringData (s : State) (h : Nat) (count : W) (d : List Byte) : State :=
  let q := s.queue h
  let n := d.length / 64
  s.setQueue h { q with fetched := (List.range n).foldl (fun t j =>
    tblPut (count + BitVec.ofNat 32 j).toNat (bytesWords 16 (bytesAt d (64 * j) 64)) t) q.fetched }

/-- A failed fetch of ring entries: their commands do not run (R419). -/
def State.ringFail (s : State) (h : Nat) (count : W) (n : Nat) (c : Cpl) : State :=
  let q := s.queue h
  s.setQueue h { q with fetchFail := q.fetchFail ++ (List.range n).map fun j => ((count + BitVec.ofNat 32 j).toNat, c) }

/-- Change the frame of a queue at a depth. -/
def State.onFrame (s : State) (h depth : Nat) (g : Frame → Frame) : State :=
  let q := s.queue h
  s.setQueue h { q with frames := q.frames.mapIdx fun i f => if q.frames.length - i = depth then g f else f }

/-- The data of read `j` of a copy arrives: its bytes are ready to be written. -/
def State.copyData (s : State) (id j : Nat) (d : List Byte) : State :=
  match s.mover id with
  | none => s
  | some m => match m.hostRows[j]? with
    | none => s
    | some (a, n) =>
      let m := { m with hostRows := m.hostRows.eraseIdx j, todo := m.todo ++ (bytesAt d 0 n).mapIdx fun i b => (a + i, 0, b) }
      { s with movers := s.movers.map fun (x : Mover) => if x.id = id then m else x }

/-- A read of a copy, or the translation it needs, fails (R161): a free part of what had arrived is written, and it stops. -/
def State.copyFail (s : State) (id : Nat) (c : Cpl) : State :=
  let s := s.moverCut id
  match s.mover id with
  | none => s
  | some m => s.moverFault m fun s p kind => s.hostReadFault m.hwq c p kind (some (moverDetail m))

/-- The number of a copy's outstanding reads before position `n`. -/
def State.readIndex (s : State) (n id : Nat) : Nat := ((s.pcie.reads.take n).filter fun r => r.what == .copy id).length

/-- An outstanding host read ends (R161). -/
def State.readEnd (s : State) (n : Nat) (res : Cpl) (data : List Byte) : State :=
  match s.pcie.reads[n]? with
  | none => s
  | some r =>
    let j := match r.what with | .copy id => s.readIndex n id | _ => 0
    let s := { s with pcie := { s.pcie with reads := s.pcie.reads.eraseIdx n } }
    let d := bytesAt data 0 r.len
    (match r.what, res with
    | .ring h c, .ok => s.ringData h c d
    | .ring h c, e => s.ringFail h c (r.len / 64) e
    | .indirect h dp o, .ok => s.onFrame h dp fun f => { f with got := tblPut o (bytesWords (r.len / 4) d) f.got }
    | .indirect h dp o, e => s.onFrame h dp fun f => { f with fails := (o, r.len / 4, e) :: f.fails }
    | .const i o, .ok => s.constData i o d
    | .const i _, e => s.constFail i e
    | .copy id, .ok => s.copyData id j d
    | .copy id, e => s.copyFail id e
    | .operand c o, .ok => s.operandData c o d
    | .operand c _, e => s.operandFail c e).settleLink

/-- HOST_READ_COMPLETION (R160, R161): the read at position `n` of those outstanding completes, or the translation request for a copy's
host destination is answered. -/
def execHostReadCompletion (who : CplOf) (res : Cpl) (data : List Byte) (s : State) : Host.Outcome State Fault Refusal :=
  .next (if !s.pcie.linkUp then s
    else match who, res with
      | _, .timeout => s
      | .read n, r => s.readEnd n r data
      | .xlate id, .atsDenied => match s.mover id with
        | some m => if m.toHost ∧ (s.fn m.inst).atsEn = true then (s.copyFail id .atsDenied).settleLink else s
        | none => s
      | .xlate _, _ => s)

/-- HOST_READ_TIMEOUT (R160, R161): the read at position `n` reaches its Completion Timeout Value. -/
def execHostReadTimeout (n : Nat) (s : State) : Host.Outcome State Fault Refusal :=
  .next (if !s.pcie.linkUp then s else s.readEnd n .timeout [])

/-! ### The host stall (R164 to R172) -/

/-- STALL_STATUS changes. -/
def State.setStall (s : State) (x : Stall) : State := { s with pcie := { s.pcie with stall := x } }

/-- CREDIT_STALL_BEGIN (R164, R165): the head posted TLP cannot be sent. `prog` says how far each copy has come by then, and `m` is
that TLP. -/
def execCreditStallBegin (prog : List (Nat × Nat)) (s : State) : Host.Outcome State Fault Refusal :=
  .next (if !s.pcie.linkUp ∨ s.pcie.stall ≠ .normal then s
    else
      let s := s.movedBy prog
      { s.setStall .creditWait with pcie := { (s.setStall .creditWait).pcie with stallStart := s.ck.gtime } })

/-- A copy that has issued some of its host-bound bytes ends INCOMPLETE (R168); its record waits for the credits (R170). -/
def State.stallCut (s : State) (m : Mover) : State :=
  match s.moverCmd m.id with
  | none => s.dropMover m.id
  | some c =>
    let s := (s.countIncomplete m).dropMover m.id
    { s with cmds := s.cmds.map fun (x : Cmd) => if x.id = c.id then { x with work := .incomplete m.issued m.index } else x }

/-- HOST_STALL_LIMIT_EXPIRY (R167, R168, R183): LINK_STALL begins. -/
def execHostStallLimitExpiry (prog : List (Nat × Nat)) (s : State) : Host.Outcome State Fault Refusal :=
  .next (if s.pcie.stall ≠ .creditWait then s
    else
      let s := (s.movedBy prog).setStall .linkStall
      let s := ((s.count 0x1E0110).cause 0x1E0000 8).raise 0x0401 .device none 0x1E0000 0
      s.movers.foldl (fun s m => if moverPart m then s.stallCut m else s) s)

/-- The record of a copy that a stall ended, and its queue's fault (R170). HOST_STALL is recorded once, at the entry. -/
def State.stallRecord (s : State) (c : Cmd) : State :=
  match c.work with
  | .incomplete n x =>
    ({ s with cmds := s.cmds.filter (·.id ≠ c.id) } : State).enterFaulted c.hwq 0x0401 (cmdPos c) 1 (n % 2 ^ 40 + 2 ^ 48 * x)
  | _ => s

/-- CREDIT_RETURN (R165, R170): a posted TLP is sent; the transmit queue drains, then the held writes are issued in order. -/
def execCreditReturn (s : State) : Host.Outcome State Fault Refusal :=
  .next (if s.pcie.stall = .normal then s
    else
      let was := s.pcie.stall
      let held := s.pcie.held
      let s := { s with pcie := { s.pcie with stall := .normal, txq := [], held := [], sent := s.pcie.sent ++ s.pcie.txq } }
      let s := held.foldl (fun s m => s.issueHost m) s
      let s := if was = .linkStall then s.cause 0x1E0000 9 else s
      (s.cmds.foldl (fun s c => s.stallRecord c) s).settleLink)

/-- STALL_LINK_LOSS (R172): the stall has lasted 100 ms. -/
def execStallLinkLoss (s : State) : Host.Outcome State Fault Refusal :=
  .next (if s.pcie.stall = .normal then s else (s.countField 0x1E0104 24 8 1).linkLoss)

/-! ### ATS, PTM, IDE -/

/-- ATS_INVALIDATE_REQUEST (R175): the translations of `n` host pages of function `k` from page `pg` on are given up. -/
def execAtsInvalidateRequest (k pg n : Nat) (s : State) : Host.Outcome State Fault Refusal :=
  .next (if !s.pcie.linkUp ∨ !s.fnSeen k ∨ !(s.fn k).atsEn then s
    else { s with pcie := { s.pcie with
      ats := s.pcie.ats.filter fun (j, a) => !(j == k && decide (pg ≤ a ∧ a < pg + n))
      atsInval := s.pcie.atsInval ++ [(k, pg, n)] } }.settleAts)

/-- PTM_OFFSET of an offset in ns, saturating. -/
def ptmOffset (e : Int) : W := BitVec.ofInt 32 (max (-0x7FFFFFFF) (min 0x7FFFFFFF e))

/-- A dialog that succeeded with offset `e` (R177, R178): a step forward, or a slew still to be made. -/
def State.ptmCorrect (s : State) (e : Int) : State :=
  let s := (s.setReg 0x3110 (ptmOffset e))
  let c := { s.ck with synced := true, failRun := 0 }
  if 1000000 < e then
    ({ s with ck := { c with gtime := c.gtime + BitVec.ofNat 64 e.toNat, offset := 0, slewing := false } } : State).countField 0x3114 16 8 1
  else { s with ck := { c with offset := e, slewing := decide (e ≠ 0) } }

/-- PTM_DIALOG (R176 to R178): a dialog ends; `ok` says it succeeded, `e` is the offset host time − GTIME in ns. -/
def execPtmDialog (ok : Bool) (e : Int) (s : State) : Host.Outcome State Fault Refusal :=
  .next (if !s.pcie.linkUp ∨ !s.pcie.ptmEn then s
    else if ok then s.ptmCorrect e
    else
      let s := s.countField 0x3114 0 16 1
      let n := min 3 (s.ck.failRun + 1)
      let lost := s.ck.synced && n == 3
      let s := { s with ck := { s.ck with
        failRun := n, synced := s.ck.synced && !lost, slewing := s.ck.slewing && n != 3, offset := if n = 3 then 0 else s.ck.offset } }
      if lost then s.countField 0x3114 24 8 1 else s)

/-- IDE_KM_KEY_SETUP (R180, R181): keys of Selective IDE stream `n` are set up over a Secured CMA/SPDM session. -/
def execIdeKmKeySetup (n : Nat) (s : State) : Host.Outcome State Fault Refusal :=
  .next (if !s.pcie.linkUp ∨ 4 ≤ n ∨ s.sec.spdm ≠ .session then s else { s with pcie := { s.pcie with ide := s.pcie.ide.set n 1 } })

/-- IDE_CHECK_FAIL (R181): a check of stream `n` fails; the TLP is discarded. -/
def execIdeCheckFail (n : Nat) (s : State) : Host.Outcome State Fault Refusal :=
  .next (if !s.pcie.linkUp ∨ s.pcie.ide.getD n 0 ≠ 1 then s
    else
      let s := { s with pcie := { s.pcie with ide := s.pcie.ide.set n 2, ideFails := min 255 (s.pcie.ideFails + 1) } }
      ((s.aerLog 0 28).cause 0x1E0000 11).raise 0x0403 .device none 0x1E0000 0)

end Sys2Proof.Machine
end

