-- ==== Sys2Proof/Machine/Secure.lean ====
section
/-! DEFINITION. The SEC core (05): the security mailbox, the random number generator, debug unlock and the SPDM responder. -/

set_option Elab.async false
namespace Sys2Proof.Machine

/-! ### The security mailbox (R231 to R234) -/

/-- The first `n` bytes of the REQ buffer. -/
def State.mboxReq (s : State) (n : Nat) : List Byte :=
  (wordsBytes ((List.range 64).map fun i => s.reg (0x6200 + 4 * i))).take n

/-- The SEC core has the answer of the mailbox command in progress: CODE and response bytes (R231). -/
def State.mboxAnswer (s : State) (code : Nat) (d : List Byte) : State :=
  match s.sec.mbox with
  | some m => { s with sec := { s.sec with mbox := some { m with answer := some (code, d) } } }
  | none => s

/-- The SEC core takes the mailbox command of a code, once. -/
def State.onMbox (s : State) (cmd : Nat) (body : State → Mbox → State) : State :=
  match s.sec.mbox with
  | some m => if m.cmd = cmd ∧ m.answer.isNone ∧ !(s.sec.halted.contains 0) then body s m else s
  | none => s

/-- Random bytes of a generate request of the DRBG (R223, R224). -/
def State.generate (s : State) (n : Nat) : List Byte × State :=
  ((List.range n).map (Config.drbgByte s.own.freeCtr),
    { s.bumpFree with sec := { s.sec with drbgCount := s.sec.drbgCount + 1 } })

/-- GET_RANDOM (R223, R232): the length of the request says how many bytes. -/
def execGetRandom (s : State) : Host.Outcome State Fault Refusal :=
  .next (s.onMbox 0x01 fun s m =>
    if m.len = 0 ∨ 256 < m.len then s.mboxAnswer 3 []
    else if s.sec.rng ≠ 2 then s.mboxAnswer 15 []
    else (s.generate m.len).2.mboxAnswer 0 (s.generate m.len).1)

/-- HASH (R232): the digest of the data under the algorithm the request names. How the request spells them is open, so they are the
row's operands. -/
def execHash (alg : Nat) (data : List Byte) (s : State) : Host.Outcome State Fault Refusal :=
  .next (s.onMbox 0x02 fun s _ =>
    if 192 < data.length then s.mboxAnswer 3 []
    else match alg with
      | 0 => s.mboxAnswer 0 (leBytes 32 (Config.sha256 data).toNat).reverse
      | 1 => s.mboxAnswer 0 (digestBytes (Config.sha384 data))
      | _ => s.bumpFree.mboxAnswer (Config.freeNat s.own.freeCtr % 256) [])

/-- The checks of the PKE's inputs in their order (R219), each whether it fails: the CODE of the first that does. -/
def pkeCheck : List Bool → Option Nat
  | [zero, range, coord, inf, curve, sig] =>
    if zero ∨ range then some 5 else if coord then some 6 else if inf then some 8 else if curve then some 7 else if sig then some 9 else none
  | _ => none

/-- PKE_TEST (R217, R219, R220, R232): `fails` says which of the input checks fail, in their order; a rejected operation writes no
output. Operation 2 needs a fresh key (R223). -/
def execPkeTest (op curve : Nat) (operands : List Byte) (fails : List Bool) (s : State) : Host.Outcome State Fault Refusal :=
  .next (s.onMbox 0x03 fun s _ =>
    if 2 < op ∨ 1 < curve then s.bumpFree.mboxAnswer (Config.freeNat s.own.freeCtr % 256) []
    else match pkeCheck fails with
      | some c => s.mboxAnswer c []
      | none =>
        if op = 2 ∧ s.sec.rng ≠ 2 then s.mboxAnswer 15 []
        else
          let n := if op = 1 then 0 else if curve = 0 then 64 else 96
          let key := if op = 2 then (s.generate 48).1 else []
          let s := if op = 2 then (s.generate 48).2 else s
          s.mboxAnswer 0 ((List.range n).map (Config.pkeByte (op * 2 + curve) (operands ++ key))))

/-- DEBUG_CHALLENGE (R212, R223): a fresh nonce. -/
def execDebugChallenge (s : State) : Host.Outcome State Fault Refusal :=
  .next (s.onMbox 0x10 fun s m =>
    if m.len ≠ 0 then s.mboxAnswer 3 []
    else if s.sec.rng ≠ 2 then s.mboxAnswer 15 []
    else
      let d := (s.generate 32).1
      let s := (s.generate 32).2
      ({ s with sec := { s.sec with nonce := some (BitVec.ofNat 256 (leNat d)) } } : State).mboxAnswer 0 d)

/-- Whether a debug unlock token names this die and its nonce, and a Kenud key that is not revoked (R212). -/
def State.tokenOk (s : State) (t : List Byte) (kenudOk ownerOk : Bool) : Bool :=
  let f (o n : Nat) : Nat := leNat (bytesAt t o n)
  decide (f 0 4 = 0x4B445554) && decide (f 8 8 = Config.uniqueId.toNat) &&
    (match s.sec.nonce with | some v => decide (f 0x10 32 = v.toNat) | none => false) &&
    decide (f 0x30 1 < 4) && !bitOf s.sec.keyRevoke (f 0x30 1) && decide (f 0x31 15 = 0) && kenudOk && (ownerState s.sec != 1 || ownerOk)

/-- DEBUG_UNLOCK (R210 to R213): the token in REQ is checked with its nonce, which serves once. `kenudOk` and `ownerOk` are the
verdicts on the signatures. -/
def execDebugUnlock (kenudOk ownerOk : Bool) (s : State) : Host.Outcome State Fault Refusal :=
  .next (s.onMbox 0x11 fun s m =>
    if Config.debugDisable then s.mboxAnswer 14 []
    else if m.len ≠ 256 then s.mboxAnswer 3 []
    else
      let t := s.mboxReq 256
      let ok := s.tokenOk t kenudOk ownerOk
      let s := { s with sec := { s.sec with nonce := none } }
      if s.sec.rng = 3 then s.bumpFree.mboxAnswer (if Config.freeBool s.own.freeCtr then 13 else 15) []
      else if !ok then s.mboxAnswer 13 []
      else
        let s := { s with sec := { s.sec with dbgScope := leNat (bytesAt t 4 4) % 8 + 8, dbgSlot := leNat (bytesAt t 0x30 1) } }
        ((s.extend 6 (bytesAt t 0 0x40)).raise 0x0902 .device none 0x6000 0).mboxAnswer 0 [])

/-- OWNER_KEY_PROGRAM (R204 to R207, R234): the hash is programmed, then the commit marker, which stands at MBOX_DONE. `ok` says the
fuses took. -/
def execOwnerKeyProgram (ok : Bool) (s : State) : Host.Outcome State Fault Refusal :=
  .next (s.onMbox 0x20 fun s m =>
    if m.len ≠ 48 then s.mboxAnswer 3 []
    else if ownerState s.sec ≠ 0 then s.mboxAnswer 11 []
    else
      let h := BitVec.ofNat 384 (leNat (s.mboxReq 48))
      if ok then ({ s with sec := { s.sec with ownerHash := h, ownerStep := true } } : State).mboxAnswer 0 []
      else
        let part := h &&& BitVec.ofNat 384 (leNat (s.drawBytes 48).1)
        ({ s.bumpFree with sec := { s.sec with ownerHash := part } } : State).mboxAnswer 12 [])

/-- ARB_COMMIT (R204, R208, R209, R234): the counter rises to the running image's SVN at MBOX_DONE. `ok` says the fuses took. -/
def execArbCommit (ok : Bool) (s : State) : Host.Outcome State Fault Refusal :=
  .next (s.onMbox 0x21 fun s m =>
    if m.len ≠ 0 then s.mboxAnswer 3 []
    else if s.sec.svn ≤ s.sec.arb then s.mboxAnswer 0 (leBytes 4 s.sec.arb)
    else if ok then s.mboxAnswer 0 (leBytes 4 s.sec.svn)
    else
      let n := s.own.freeCtr
      let c := s.sec
      ({ s.bumpFree with sec := { c with
          arb := c.arb + Config.freeNat n % (c.svn - c.arb + 1), keyRevoke := c.keyRevoke ||| (revokeMask c &&& Config.freeNat (n + 1)) } } : State).mboxAnswer 12 [])

/-- MBOX_RESERVED_CMD (R232). -/
def execMboxReservedCmd (s : State) : Host.Outcome State Fault Refusal :=
  .next (match s.sec.mbox with
    | some m => if [0x01, 0x02, 0x03, 0x10, 0x11, 0x20, 0x21].contains m.cmd ∨ m.answer.isSome ∨ s.sec.halted.contains 0 then s else s.mboxAnswer 2 []
    | none => s)

/-- Fuses that a completed command leaves programmed (R205, R208, R209). -/
def fusesDone (c : Sec) (m : Mbox) (code : Nat) : Sec :=
  if code ≠ 0 then c
  else if m.cmd = 0x20 then { c with ownerMarker := 0xA5C3, ownerCheck := Config.ownerCheckWord c.ownerHash, ownerStep := false }
  else if m.cmd = 0x21 ∧ c.arb < c.svn then { c with arb := c.svn, keyRevoke := c.keyRevoke ||| revokeMask c }
  else c

/-- Write the words of RSP. -/
def State.mboxRsp (s : State) (d : List Byte) : State :=
  (List.range ((d.length + 3) / 4)).foldl (fun s i => s.setReg (0x6300 + 4 * i) (BitVec.ofNat 32 (leNat (bytesAt d (4 * i) 4)))) s

/-- MBOX_DONE (R231, R237): RSP, CODE and the length are written, DONE sets. -/
def execMboxDone (s : State) : Host.Outcome State Fault Refusal :=
  .next (match s.sec.mbox with
    | some m => match m.answer with
      | some (code, d) =>
        let s := { s with sec := { fusesDone s.sec m code with mbox := none } }
        ((s.mboxRsp d).setReg 0x6104 (BitVec.ofNat 32 (1 + 2 ^ 8 * code + 2 ^ 16 * d.length))).cause 0x6000 8
      | none => s
    | none => s)

/-! ### The random number generator (R222 to R225, R236) -/

/-- What a read of RNG_DATA gives: random data with VALID, or zero (R236). -/
def State.rngData (s : State) (avail : Bool) : Nat × State :=
  if s.sec.rng = 2 ∧ avail = true then (leNat (s.generate 4).1 + 2 ^ 32, (s.generate 4).2) else (0, s)

/-- DRBG_RESEED (R224). -/
def execDrbgReseed (s : State) : Host.Outcome State Fault Refusal :=
  .next (if s.sec.rng = 2 ∧ 65536 ≤ s.sec.drbgCount then { s with sec := { s.sec with drbgCount := 0 } } else s)

/-- RNG_HEALTH_FAIL (R225): a health test fails; the start-up is rerun once. -/
def execRngHealthFail (s : State) : Host.Outcome State Fault Refusal :=
  .next (if s.sec.rng ≠ 1 ∧ s.sec.rng ≠ 2 then s
    else
      let again := s.sec.rngRerun
      let s := { s with sec := { s.sec with rngFails := min 255 (s.sec.rngFails + 1), rngRerun := true } }
      (s.setRng (if again then 3 else 1)).raise 0x0901 .device none 0x6000 0)

/-- NONCE_EXPIRY (R212). -/
def execNonceExpiry (s : State) : Host.Outcome State Fault Refusal := .next { s with sec := { s.sec with nonce := none } }

/-! ### The SPDM responder (R226 to R228) -/

/-- The responder answers on the PF DOE mailbox. -/
def State.doeSay (s : State) (r : SpdmRsp) : State := { s with pcie := { s.pcie with doe := [r] } }

/-- Whether the responder takes a request: the link and configuration space are up, the SEC core runs. -/
def State.doeOpen (s : State) : Bool := s.pcie.linkUp && s.pw.configReady && !s.pw.safe && !s.parked && !s.sec.halted.contains 0

/-- An SPDM request answered in a state of the connection; in others it is unexpected (SPDM 1.2). -/
def State.onSpdm (s : State) (ok : Bool) (body : State → State) : State :=
  if !s.doeOpen then s else if ok then body s else s.doeSay .unexpected

/-- Whether the algorithms are negotiated. -/
def spdmReady : SpdmSt → Bool
  | .algos | .keyed | .session => true
  | _ => false

/-- A request that needs fresh randomness or the attestation key (R195, R223). -/
def State.spdmFresh (s : State) : Bool := s.sec.rng == 2 && s.sec.attestKey

/-- A message with the attestation key's signature. -/
def signed (d : List Byte) : List Byte := d ++ (List.range 96).map (Config.signByte d)

/-- Connection state. -/
def State.setSpdm (s : State) (x : SpdmSt) : State := { s with sec := { s.sec with spdm := x } }

/-- SPDM_GET_VERSION (R226): SPDM 1.2; the connection starts anew. -/
def execSpdmGetVersion (s : State) : Host.Outcome State Fault Refusal :=
  .next (s.onSpdm true fun s => (s.setSpdm .version).doeSay (.data [0x12]))

/-- SPDM_GET_CAPABILITIES (R226). -/
def execSpdmGetCapabilities (s : State) : Host.Outcome State Fault Refusal :=
  .next (s.onSpdm (s.sec.spdm == .version) fun s => (s.setSpdm .caps).doeSay (.data []))

/-- SPDM_NEGOTIATE_ALGORITHMS (R227): ECDSA P-384, SHA-384, secp384r1, AES-256-GCM; a requester that offers none of one kind gets an
error. -/
def execSpdmNegotiateAlgorithms (offered : Bool) (s : State) : Host.Outcome State Fault Refusal :=
  .next (s.onSpdm (s.sec.spdm == .caps) fun s => if offered then (s.setSpdm .algos).doeSay (.data []) else s.doeSay .invalid)

/-- The certificate chain of slot 0 (R227). -/
def certChain (o n : Nat) : List Byte := (List.range n).map fun i => Config.certByte (o + i)

/-- SPDM_GET_DIGESTS (R227): the digest of the chain of `len` bytes in slot 0. -/
def execSpdmGetDigests (len : Nat) (s : State) : Host.Outcome State Fault Refusal :=
  .next (s.onSpdm (spdmReady s.sec.spdm) fun s => s.doeSay (.data (digestBytes (Config.sha384 (certChain 0 len)))))

/-- SPDM_GET_CERTIFICATE (R227): bytes of the chain in slot 0; no other slot is provisioned. -/
def execSpdmGetCertificate (slot off len : Nat) (s : State) : Host.Outcome State Fault Refusal :=
  .next (s.onSpdm (spdmReady s.sec.spdm) fun s => if slot = 0 then s.doeSay (.data (certChain off len)) else s.doeSay .invalid)

/-- SPDM_CHALLENGE (R223, R226, R227): signed by the attestation key. -/
def execSpdmChallenge (nonce : List Byte) (s : State) : Host.Outcome State Fault Refusal :=
  .next (s.onSpdm (spdmReady s.sec.spdm) fun s =>
    if !s.spdmFresh then s.doeSay .busy
    else (s.generate 32).2.doeSay (.data (signed (nonce ++ (s.generate 32).1))))

/-- The value of measurement index `i` (R228). -/
def State.measValue (s : State) (i : Nat) : List Byte :=
  if i = 9 then leBytes 4 (b2n (s.sec.dbgScope != 0) + 2 * b2n Config.debugDisable + 4 * ownerState s.sec + 16 * s.sec.arb)
  else digestBytes (s.sec.meas.getD (i - 1) 0)

/-- SPDM_GET_MEASUREMENTS (R194, R223, R228): of one index, or of all nine (index 0xFF), signed where asked. -/
def execSpdmGetMeasurements (idx : Nat) (sign : Bool) (nonce : List Byte) (s : State) : Host.Outcome State Fault Refusal :=
  .next (s.onSpdm (spdmReady s.sec.spdm) fun s =>
    let is := if idx = 0xFF then (List.range 9).map (· + 1) else [idx]
    if !s.spdmFresh then s.doeSay .busy
    else if is.any fun i => decide (i = 0 ∨ 9 < i) then s.doeSay .invalid
    else
      let d := is.flatMap fun i => BitVec.ofNat 8 i :: s.measValue i
      let d := d ++ nonce ++ (s.generate 32).1
      (s.generate 32).2.doeSay (.data (if sign then signed d else d)))

/-- SPDM_KEY_EXCHANGE (R219, R223, R226): `ok` is the PKE's verdict on the requester's point. -/
def execSpdmKeyExchange (ok : Bool) (s : State) : Host.Outcome State Fault Refusal :=
  .next (s.onSpdm (spdmReady s.sec.spdm) fun s =>
    if !s.spdmFresh then s.doeSay .busy
    else if !ok then s.doeSay .invalid
    else ((s.generate 48).2.setSpdm .keyed).doeSay (.data (signed (s.generate 48).1)))

/-- SPDM_FINISH (R226): `ok` says the requester's verify data holds. -/
def execSpdmFinish (ok : Bool) (s : State) : Host.Outcome State Fault Refusal :=
  .next (s.onSpdm (s.sec.spdm == .keyed) fun s => if ok then (s.setSpdm .session).doeSay (.data []) else (s.setSpdm .algos).doeSay .invalid)

/-- SPDM_KEY_UPDATE (R226). -/
def execSpdmKeyUpdate (s : State) : Host.Outcome State Fault Refusal :=
  .next (s.onSpdm (s.sec.spdm == .session) fun s => s.doeSay (.data []))

/-- SPDM_HEARTBEAT (R226). -/
def execSpdmHeartbeat (s : State) : Host.Outcome State Fault Refusal :=
  .next (s.onSpdm (s.sec.spdm == .session) fun s => s.doeSay (.data []))

/-- SPDM_END_SESSION (R226). -/
def execSpdmEndSession (s : State) : Host.Outcome State Fault Refusal :=
  .next (s.onSpdm (s.sec.spdm == .session) fun s => (s.setSpdm .algos).doeSay (.data []))

end Sys2Proof.Machine
end

