-- ==== Sys2Proof/Machine/Firmware.lean ====
section
/-! DEFINITION. Firmware staging, activation and persistence, orderly removal, the attestation quote and the core watchdogs
(03, 06). -/

set_option Elab.async false
namespace Sys2Proof.Machine

/-! ### Staging (R277 to R279) -/

/-- A failed FW_STAGE leaves the staging area empty (R278). -/
def State.dropStaged (s : State) : State := ({ s with fw := { s.fw with staged := none } } : State).setFw .running

/-- FW_STAGE (R268, R277, R278): the SEC core copies the image from INST_0's address space. `img` is the image read there; none where
the host read of it failed for the HOST_READ_ERR cause `cause`. -/
def execFwStage (k : Nat) (img : Option Image) (cause : Nat) (s : State) : Host.Outcome State Fault Refusal :=
  .next (s.onReq k 0x0700 fun s r =>
    let a := pay r 0 8
    let n := pay r 8 4
    if !unusedOk r [(0, 12)] ∨ a % 4096 ≠ 0 ∨ 2 ^ 48 ≤ a ∨ n < 1024 ∨ 3145728 < n then s.respond k r 3 0 []
    else match s.segs 0 a n false askCmd with
      | (s, gs, x) =>
        if x.isSome then s.dropStaged.respond k r 6 80 []
        else match img with
          | none => if segsHost gs then s.dropStaged.respond k r 15 cause [] else s
          | some i => ({ s.respondPending k r (longNew r) with fw := { s.fw with staged := some i } } : State).setFw .staging)

/-- Whether an image keeps the locked protection setup (R277). -/
def State.sameSetup (s : State) (i : Image) : Bool :=
  decide (bitsOf (s.reg 0x4110).toNat 16 4 = i.fwCarve) && decide (bitsOf (s.reg 0x4114).toNat 16 4 = i.secCarve) &&
    (List.range 48).all fun j => bitsOf (s.reg (0x4200 + 4 * j)).toNat 0 16 == (i.act.getD j 0).toNat

/-- Whether an image's Briane range includes the selected version of every OPEN function (R277). -/
def State.keepsVersions (s : State) (i : Image) : Bool :=
  s.brn.all fun (_, b) => b.st != .opened ||
    decide (i.brnMin.toNat ≤ 256 * b.maj + b.min ∧ 256 * b.maj + b.min ≤ i.brnMax.toNat)

/-- FW_STAGE_VERIFY_DONE (R191, R277, R278): the checks of the staged image in order. -/
def execFwStageVerifyDone (s : State) : Host.Outcome State Fault Refusal :=
  .next (match s.fw.st, s.fw.staged with
    | .staging, some i =>
      if s.sec.halted.contains 0 then s
      else
        let bad (st d : Nat) : State := s.dropStaged.finishLong 0 st d (leBytes 8 0)
        let c := imageCause s.sec i
        if c ≠ 0 then bad 9 c
        else if !s.sameSetup i then bad 10 0
        else if !s.keepsVersions i then bad 11 0
        else (s.setFw .staged).finishLong 0 0 0 (leBytes 8 i.version.toNat)
    | _, _ => s)

/-- FW_DISCARD (R279). A FW_STAGE still copying goes on. -/
def execFwDiscard (k : Nat) (s : State) : Host.Outcome State Fault Refusal :=
  .next (s.onReq k 0x0703 fun s r =>
    if !unusedOk r [] then s.respond k r 3 0 []
    else match s.fw.st with
      | .staging => s.respond k r 0 0 []
      | .staged => s.dropStaged.respond k r 0 0 []
      | _ => ({ s with fw := { s.fw with staged := none } } : State).respond k r 0 0 [])

/-! ### Activation (R280 to R287) -/

/-- FW_ACTIVATE (R280): INTERACTIVE and BATCH dispatch stops. -/
def execFwActivate (k : Nat) (s : State) : Host.Outcome State Fault Refusal :=
  .next (s.onReq k 0x0701 fun s r =>
    if !unusedOk r [] then s.respond k r 3 0 []
    else if s.fw.staged.isNone then s.respond k r 12 0 []
    else
      let s := s.respondPending k r (longNew r)
      ({ s with fw := { s.fw with paused := true, actBy := some k, actStart := s.ck.gtime } } : State).setFw .activating)

/-- Whether a launch is in flight on a Yard: dispatched, and its instance live or a context of it on a cluster. -/
def State.onYard (s : State) (i : Nat) (l : Launch) : Bool :=
  l.dispatched && (s.live l.inst || s.ctxs.any fun (key, c) => key / 16 == i && ctxResident c)

/-- Whether the activation boundary is reached (R280): no launch in flight on any Yard and no other long request pending. -/
def State.boundary (s : State) : Bool :=
  !(s.launches.any fun (i, l) => s.onYard i l) && s.brn.all fun (k, b) => b.long.isNone || s.fw.actBy == some k

/-- Replace the long request pending on a function. -/
def State.setLong (s : State) (k : Nat) (f : Long → Long) : State :=
  s.setRings k { s.ringsOf k with long := (s.ringsOf k).long.map f }

/-- FW_ACTIVATE_BOUNDARY (R280, R282, R283): the Masthead stops all dispatch and begins no new command. The request keeps the ns
waited. -/
def execFwActivateBoundary (s : State) : Host.Outcome State Fault Refusal :=
  .next (match s.fw.actBy with
    | some k =>
      if s.fw.swapping ∨ s.fw.staged.isNone ∨ !s.boundary ∨ 2 ∈ s.sec.halted then s
      else ({ s with fw := { s.fw with swapping := true } } : State).setLong k fun l => { l with detail := (s.ck.gtime - s.fw.actStart).toNat }
    | none => s)

/-- ACT_RESULT of an activation: result, boundary wait and swap time in µs. -/
def actResult (res wait swap : Nat) : W := BitVec.ofNat 32 (res + 4 * min (wait / 10) 65535 + 2 ^ 18 * min swap 1023)

/-- Beacon ticks that fell in the swap release their waits (R285). -/
def State.releasePaused (s : State) : State :=
  (List.range 8).foldl (fun s b =>
    if (s.beacon b).paused = 0 then s else (s.releaseBeacon b).setBeacon b { (s.releaseBeacon b).beacon b with paused := 0 }) s

/-- FW_ACTIVATED reaches every OPEN function (R267, R280). -/
def State.announceFw (s : State) (old new : W64) : State :=
  ((s.brn.filter fun (_, b) => b.st == .opened).map (·.1)).foldl (fun s k => s.postEvent k 0x8001 (leBytes 8 old.toNat ++ leBytes 8 new.toNat)) s

/-- FW_SWAP_COMMIT (R280, R284 to R286): the staged image runs, measurement register 7 is extended and dispatch resumes. -/
def execFwSwapCommit (s : State) : Host.Outcome State Fault Refusal :=
  .next (match s.fw.actBy, s.fw.staged with
    | some k, some i =>
      if !s.fw.swapping then s
      else
        let ns := match (s.ringsOf k).long with | some l => l.detail | none => 0
        let wait := ns / 1000
        let swap := ((s.ck.gtime - s.fw.actStart).toNat - ns) / 1000
        let old := s.fw.version
        let s := s.extend 7 (digestBytes i.header ++ digestBytes i.body)
        let s := { s with
          sec := { s.sec with image := some i, svn := i.svn }
          fw := { s.fw with version := i.version, verMin := i.brnMin, verMax := i.brnMax, staged := none, actBy := none, paused := false, swapping := false } }
        let s := ((s.setReg 0xA118 (actResult 1 wait swap)).setFw .running).releasePaused
        let s := s.finishLong k 0 0 (leBytes 8 old.toNat ++ leBytes 8 i.version.toNat ++ leBytes 4 wait ++ leBytes 4 swap)
        ((s.announceFw old i.version).negotiateAll).kick
    | _, _ => s)

/-- ACTIVATE_WINDOW_EXPIRY (R281): the request ends BUSY, dispatch resumes in all bands and the staged image stays. -/
def execActivateWindowExpiry (s : State) : Host.Outcome State Fault Refusal :=
  .next (match s.fw.actBy with
    | some k =>
      if s.fw.swapping then s
      else
        let wait := (s.ck.gtime - s.fw.actStart).toNat / 1000
        let v := leBytes 8 s.fw.version.toNat
        let s := { s with fw := { s.fw with actBy := none, paused := false } }
        let s := (s.setReg 0xA118 (actResult 2 wait 0)).setFw (if s.fw.staged.isSome then .staged else .running)
        s.finishLong k 7 0 (v ++ v ++ leBytes 4 wait ++ leBytes 4 0)
    | none => s)

/-! ### Persistence (R288, R289) -/

/-- FW_PERSIST (R288). -/
def execFwPersist (k : Nat) (s : State) : Host.Outcome State Fault Refusal :=
  .next (s.onReq k 0x0702 fun s r =>
    if !unusedOk r [(0, 1)] ∨ 1 < pay r 0 1 then s.respond k r 3 0 []
    else if pay r 0 1 = 1 ∧ s.fw.staged.isNone then s.respond k r 12 0 []
    else (s.respondPending k r (longNew r)).setFw .persisting)

/-- The flash with an image in the slot that is not preferred. -/
def putSlot (f : Flash) (i : Image) : Flash := if prefersB f then { f with slotA := i } else { f with slotB := i }

/-- The boot control block after a persist (R188, R189): the copy not in use names the other slot, one SEQ above the copy in use. -/
def switchBcb (f : Flash) : Flash :=
  let b := !prefersB f
  let use1 := match f.bcb0.valid, f.bcb1.valid with
    | true, true => decide (1 ≤ (f.bcb1.seq - f.bcb0.seq).toNat ∧ (f.bcb1.seq - f.bcb0.seq).toNat < 2 ^ 31)
    | v0, v1 => !v0 && v1
  if use1 then { f with bcb0 := { valid := true, preferred := b, seq := f.bcb1.seq + 1 } }
  else { f with bcb1 := { valid := true, preferred := b, seq := f.bcb0.seq + 1 } }

/-- FW_PERSIST_DONE (R189, R288, R795): the slot is written and read back; only an image that passes the boot checks is named in the boot
control block. `ok` says the flash took the image. -/
def execFwPersistDone (ok : Bool) (s : State) : Host.Outcome State Fault Refusal :=
  .next (match (s.ringsOf 0).long, s.sec.flash with
    | some l, some f =>
      if l.req.op ≠ 0x0702 ∨ l.out.isSome ∨ s.sec.halted.contains 0 then s
      else
        let back : FwSt := if s.fw.staged.isSome then .staged else .running
        let n := s.own.freeCtr
        let put (f : Flash) (s : State) : State := ({ s with sec := { s.sec with flash := some f } } : State).setFw back
        match (if pay l.req 0 1 = 1 then s.fw.staged else s.sec.image) with
        | none => (s.setFw back).finishLong 0 12 0 []
        | some i =>
          let i' := if ok then i else spoil (Config.freeBool n) (Config.freeBool (n + 1)) i
          let s := if ok then s else s.bumpFree.bumpFree
          if ok ∧ imageCause s.sec i = 0 then
            let g := switchBcb (putSlot f i')
            (put g s).finishLong 0 0 0 (leBytes 1 (b2n (prefersB g)) ++ leBytes 7 0 ++ leBytes 8 i.version.toNat)
          else match (put (putSlot f i') s).drawBytes 8 with
            | (d, s) => s.finishLong 0 13 0 (leBytes 1 (b2n (prefersB f)) ++ leBytes 7 0 ++ d)
    | _, _ => s)

/-! ### Orderly removal (R126, R652) -/

/-- A head outputs black. -/
def State.headBlack (s : State) (d : Nat) : State :=
  let v := s.head d
  (s.setHead d { v with black := true, cur := none, pend := none }).holdEnd d

/-- PREPARE_REMOVAL (03, *Orderly removal*): instance and queue requests are refused, doorbells ignored, and both heads output black. -/
def execPrepareRemoval (k : Nat) (s : State) : Host.Outcome State Fault Refusal :=
  .next (s.onReq k 0x0704 fun s r =>
    if !unusedOk r [] then s.respond k r 3 0 []
    else
      let s := s.respondPending k r (longNew r)
      (({ s with pw := { s.pw with removing := true } } : State).headBlack 0).headBlack 1)

/-- Every cluster's CCLK gated. -/
def gateAll (l : List Cclk) : List Cclk := l.map fun c => { c with gated := true }

/-- PREPARE_REMOVAL_DONE (03, R126, R652): host-bound writes are complete, HBM is in self-refresh, STAGE reads PARKED. -/
def execPrepareRemovalDone (s : State) : Host.Outcome State Fault Refusal :=
  .next (match (s.ringsOf 0).long with
    | some l =>
      if l.req.op ≠ 0x0704 ∨ !s.pw.removing ∨ s.pcie.txq ≠ [] ∨ s.pw.stage ≠ .ready ∨ s.pw.safe then s
      else
        let s := s.finishLong 0 0 0 []
        { s with pw := { s.pw with stage := .parked, selfRefresh := 15 }, ck := { s.ck with cclk := gateAll s.ck.cclk } }
    | none => s)

/-! ### The attestation quote (R269) -/

/-- ATTEST_QUOTE (R269). -/
def execAttestQuote (k : Nat) (s : State) : Host.Outcome State Fault Refusal :=
  .next (s.onReq k 0x0A02 fun s r =>
    let buf := pay r 0x20 8
    if !unusedOk r [(0, 0x28)] ∨ r.target ≠ k ∨ buf % 1024 ≠ 0 ∨ 2 ^ 48 ≤ buf then s.respond k r 3 0 []
    else match s.segs k buf 1024 true askCmd with
      | (s, gs, x) =>
        if x.isSome ∨ segsHost gs then s.respond k r 6 73 []
        else if !s.attestReady then s.respond k r 6 74 []
        else s.respondPending k r (longNew r))

/-- The signed part of a quote (R269). -/
def State.quoteBody (s : State) (k : Nat) (nonce : List Byte) : List Byte :=
  let b := s.ringsOf k
  leBytes 4 0x4B515554 ++ leBytes 2 1 ++ leBytes 1 k ++
    leBytes 1 (b2n (s.sec.dbgScope != 0) + 2 * b2n Config.debugDisable + 4 * ownerState s.sec) ++ leBytes 8 Config.uniqueId.toNat ++
    leBytes 8 s.fw.version.toNat ++ leBytes 8 s.ck.gtime.toNat ++ nonce ++ leBytes 1 s.sec.arb ++ leBytes 2 (256 * b.maj + b.min) ++
    leBytes 13 0 ++ s.sec.meas.flatMap digestBytes ++ leBytes 16 0

/-- ATTEST_QUOTE_SIGNED (R269): the SEC core writes function `k`'s quote to its buffer, then the final response. -/
def execAttestQuoteSigned (k : Nat) (s : State) : Host.Outcome State Fault Refusal :=
  .next (match (s.ringsOf k).long with
    | some l =>
      if l.req.op ≠ 0x0A02 ∨ l.out.isSome ∨ s.sec.halted.contains 0 then s
      else
        let m := signed (s.quoteBody k (bytesAt l.req.payload 0 32))
        match s.segs k (pay l.req 0x20 8) 576 true askCmd with
        | (s, gs, none) =>
          (if segsHost gs then s else s.segWrite k false gs m).finishLong k 0 0 (leBytes 8 576 ++ leBytes 8 s.ck.gtime.toNat)
        | (s, _, some _) => s.finishLong k 0 0 (leBytes 8 576 ++ leBytes 8 s.ck.gtime.toNat)
    | none => s)

/-! ### Firmware cores (R238, R239) -/

/-- Whether Fausk runs on the cores. -/
def State.fwOn (s : State) : Bool :=
  !s.pw.safe && (s.pw.stage == .fwStarting || s.pw.stage == .ready || s.pw.stage == .l3Recovery)

/-- SOURCE of a record that names a firmware core by its agent code (R780). -/
def coreSource (code : Nat) : W := BitVec.ofNat 32 (0x00A + 2 ^ 16 * code + 0xFF * 2 ^ 24)

/-- FW_ASSERT of a core (R203, R239, R780): `core` is 0 SEC, 1 PWR, 2 SCH. -/
def State.fwAssert (s : State) (core detail : Nat) : State :=
  s.enqueueFault
    { gtime := s.ck.gtime, code := 0x0903, cls := 2, level := .l1, owner := .device, hwq := none, source := coreSource (3 + core)
      detail := BitVec.ofNat 64 (core + detail), scrub := false, injected := false, onFaulted := false }

/-- FW_WATCHDOG_EXPIRY (R215, R239): core 0 SEC, 1 PWR or 2 SCH has not refreshed its watchdog for 10 ms. The watchdog of a halted core is
paused. -/
def execFwWatchdogExpiry (core : Nat) (s : State) : Host.Outcome State Fault Refusal :=
  .next (if 2 < core ∨ !s.fwOn ∨ core ∈ s.sec.halted then s else s.fwAssert core 0)

end Sys2Proof.Machine
end

