-- ==== Sys2Proof/Machine/Trim.lean ====
section
/-! DEFINITION. Trim, lending, telemetry, background work and board management (16, 18). -/

set_option Elab.async false
namespace Sys2Proof.Machine

/-! ### Settings (R728, R745, R746) -/

/-- Replace the Trim state. -/
def State.setTrim (s : State) (f : Trim → Trim) : State := { s with trim := f s.trim }

/-- POWER_CAP_SET (R745). -/
def execPowerCapSet (k : Nat) (s : State) : Host.Outcome State Fault Refusal :=
  .next (s.onReq k 0x0900 fun s r =>
    let w := pay r 0 2
    if !unusedOk r [(0, 2)] ∨ w < 250 ∨ 450 < w then s.respond k r 3 0 []
    else (s.setTrim fun t => { t with capW := w }).respond k r 0 0 (leBytes 2 w ++ leBytes 2 s.trim.boardW))

/-- QUIET_LIMIT_SET (R745). -/
def execQuietLimitSet (k : Nat) (s : State) : Host.Outcome State Fault Refusal :=
  .next (s.onReq k 0x0901 fun s r =>
    let w := pay r 0 2
    let f := pay r 2 1
    if !unusedOk r [(0, 3)] ∨ !(w = 0 ∨ (150 ≤ w ∧ w ≤ 450)) ∨ !(f = 0 ∨ (20 ≤ f ∧ f ≤ 100)) then s.respond k r 3 0 []
    else (s.setTrim fun t => { t with quietW := w, quietFan := f }).respond k r 0 0 [])

/-- CADENCE_FLOOR_SET (R745). -/
def execCadenceFloorSet (k : Nat) (s : State) : Host.Outcome State Fault Refusal :=
  .next (s.onReq k 0x0902 fun s r =>
    let n := pay r 0 1
    if !unusedOk r [(0, 1)] ∨ !(n = 0 ∨ (16 ≤ n ∧ n ≤ 40)) then s.respond k r 3 0 []
    else (s.setTrim fun t => { t with floorN := n }).respond k r 0 0 [])

/-- The value of sensor `i` in the published set. -/
def State.sensor (s : State) (i : Nat) : BitVec 16 := tblGet 0 i s.trim.sensors

/-- TELEM_READ (R745, R746): the sender names itself in TARGET_INST. -/
def execTelemRead (k : Nat) (s : State) : Host.Outcome State Fault Refusal :=
  .next (s.onReq k 0x0903 fun s r =>
    let a := pay r 0 1
    let n := pay r 1 1
    if !unusedOk r [(0, 2)] ∨ r.target ≠ k ∨ n = 0 ∨ 20 < n ∨ 67 < a + n then s.respond k r 3 0 []
    else if k ≠ 0 ∧ a < 64 then s.respond k r 4 0 []
    else s.respond k r 0 0 (leBytes 4 s.trim.seq.toNat ++ leBytes 8 s.trim.sampleGtime.toNat ++
      (List.range n).flatMap fun i => leBytes 2 (s.sensor (a + i)).toNat))

/-! ### Voltage (R712, R713, R786 to R789) -/

/-- V_MIN of a divider in mV (R712): 650 mV + 200 mV × (24 / N − 0.6) / 0.9, rounded up to a multiple of 5 mV. -/
def vmin (n : Nat) : Nat := (1550 * n + 16000 + 15 * n - 1) / (15 * n) * 5

/-- The voltage the clusters may count on (R713, R788, R789): a raise counts once VR_SETTLE has passed. -/
def State.vsafe (s : State) : Nat := match s.ck.settling with | some (v, _) => min v s.ck.vcore | none => s.ck.vcore

/-- The fastest divider a voltage supports. -/
def fastest (v : Nat) : Nat := ((List.range 25).find? fun i => decide (vmin (16 + i) ≤ v)).map (16 + ·) |>.getD 40

/-- Send the regulator a target towards `want`, at most 100 mV away (R788); the target stays within 650 to 850 mV (R713). While VR_SETTLE
of a command runs, only the wish is kept. -/
def State.vout (s : State) (want : Nat) : State :=
  let w := max 650 (min 850 want)
  match s.ck.settling with
  | some (v, _) => { s with ck := { s.ck with settling := some (v, w) } }
  | none =>
    if w = s.ck.vcore then s
    else
      let t := if s.ck.vcore < w then min w (s.ck.vcore + 100) else max w (s.ck.vcore - 100)
      { s with ck := { s.ck with vcore := t, settling := some (s.ck.vcore, w) } }

/-- Whether the PWR core runs its loops (R238, R283). -/
def State.pwrOn (s : State) : Bool := s.fwOn && !s.sec.halted.contains 1 && !s.fw.swapping

/-- VR_SETTLE_EXPIRY (R713, R788): the rail has settled; a larger change goes on with its next command. -/
def execVrSettleExpiry (s : State) : Host.Outcome State Fault Refusal :=
  .next (match s.ck.settling with
    | some (_, w) =>
      let s := { s with ck := { s.ck with settling := none } }
      if s.pwrOn then s.vout w else s
    | none => s)

/-- VR_TRANSACTION_FAIL (R789): the command failed three times, so the target acknowledged before it stands for the rail voltage. -/
def execVrTransactionFail (s : State) : Host.Outcome State Fault Refusal :=
  .next (if !s.pwrOn then s
    else match s.ck.settling with
      | some (v, _) => ({ s with ck := { s.ck with vcore := v, settling := none } } : State).fwAssert 1 0
      | none => s.fwAssert 1 0)

/-- VR_ALERT (R789): STATUS_WORD is read and a WARN record logged. -/
def execVrAlert (s : State) : Host.Outcome State Fault Refusal := .next (if s.pwrOn then s.logRec 2 1 0 else s)

/-! ### The fast loop (R716 to R720) -/

/-- The clusters' clock entries replaced. -/
def State.mapCclk (s : State) (f : Nat → Cclk → Cclk) : State := { s with ck := { s.ck with cclk := s.ck.cclk.mapIdx f } }

/-- A cluster's clock entry replaced. -/
def State.onCclk (s : State) (n : Nat) (f : Cclk → Cclk) : State := s.mapCclk fun i c => if i = n then f c else c

/-- Whether VDD_CORE is powered. -/
def State.corePower (s : State) : Bool := s.pw.railsUp

/-- Whether CCLK of a cluster is gated (R100, R715): not enabled, or no resident context, or REEFED. -/
def State.gatedAt (s : State) (n : Nat) : Bool :=
  (s.ck.cclk.getD n cclkReset).gated || (s.resident n).isEmpty || (s.cluster n).reefed

/-- DROOP_DETECT (R716, R718): cluster `n` is stretched; a stretch that runs already goes on as one. -/
def execDroopDetect (n : Nat) (s : State) : Host.Outcome State Fault Refusal :=
  .next (if !s.corePower ∨ 16 ≤ n ∨ (s.ck.cclk.getD n cclkReset).stretch then s
    else (s.onCclk n fun c => { c with stretch := true }).countField 0x7120 0 16 1)

/-- OVERCURRENT_DETECT (R717, R718): every ungated cluster is stretched. -/
def execOvercurrentDetect (s : State) : Host.Outcome State Fault Refusal :=
  let new := (List.range 16).filter fun n => !s.gatedAt n && !(s.ck.cclk.getD n cclkReset).stretch
  .next (if !s.corePower ∨ new = [] then s
    else (s.mapCclk fun i c => if new.contains i then { c with stretch := true } else c).countField 0x7120 16 16 1)

/-- STRETCH_END (R718): 2 µs after the causes cleared, cluster `n` is no longer stretched. -/
def execStretchEnd (n : Nat) (s : State) : Host.Outcome State Fault Refusal := .next (s.onCclk n fun c => { c with stretch := false })

/-- THERMAL_CLAMP (R719): every cluster's divider is 40. -/
def execThermalClamp (s : State) : Host.Outcome State Fault Refusal :=
  .next (if !s.corePower ∨ s.trim.clamp then s
    else
      let s := s.setTrim fun t => { t with clamp := true }
      let s := s.mapCclk fun _ c => { c with n := 40, base := 40 }
      (s.countField 0x7124 16 16 1).cause 0x7000 10)

/-- CLAMP_RELEASE (R719): the firmware loop raises the dividers again. -/
def execClampRelease (s : State) : Host.Outcome State Fault Refusal := .next (s.setTrim fun t => { t with clamp := false })

/-- THERM_TRIP (R720, R793, R794): THERM_TRIP_N is asserted and the fault raised that leads to the safe state. -/
def execThermTrip (s : State) : Host.Outcome State Fault Refusal :=
  .next (if !s.pw.railsUp then s
    else ({ s with pw := { s.pw with thermTripN := false } } : State).raise 0x0B03 .device none 0x7000 0)

/-- RAIL_FAULT (R758): a die rail has been outside its limits for 100 µs. -/
def execRailFault (s : State) : Host.Outcome State Fault Refusal :=
  .next (if !s.pw.railsUp then s else s.raise 0x0B04 .device none 0x8000 0)

/-! ### The firmware loop (R722 to R729) -/

/-- The hotspot of the published set, in 0.125 °C. -/
def State.hot (s : State) : Int := (s.sensor 65).toInt

/-- FAN_DEMAND as computed (R724), and the state: 20 % up to 60 °C, 100 % from 90 °C, the rounding between them open. -/
def State.fanDemand (s : State) (h : Int) : Nat × State :=
  if h ≤ 480 then (20, s)
  else if 720 ≤ h then (100, s)
  else
    let x := (h - 480).toNat
    if x % 3 = 0 then (20 + x / 3, s) else (20 + x / 3 + b2n (s.drawBool).1, s.bumpFree)

/-- Clusters under the floor (R725): those of groups on which an admitted reservation exists. -/
def State.underFloor (s : State) (n : Nat) : Bool :=
  s.trim.eff.floor != 0 && s.resvs.any fun (_, v) => v.valid && bitOf (s.grpMask v.grp).toNat n

/-- Active clusters (16, *The firmware loop*). -/
def State.activeAt (s : State) (n : Nat) : Bool := (s.cluster n).used || !(s.resident n).isEmpty

/-- What the throttle asks of a loop (R723): slow by a step, hold, lift by a step, or nothing. -/
inductive Throttle
  | slow | hold | lift | off
deriving DecidableEq, Repr

/-- The throttle's request at a hotspot. -/
def throttleAsks (on : Bool) (h : Int) : Throttle :=
  if 760 ≤ h then .slow else if !on then .off else if 744 ≤ h then .hold else .lift

/-- The base divider of an active cluster (R723, R724, R726): `want` is the adaptive choice within the remaining budget, `fan` whether
the quiet fan limit slows the clusters. -/
def baseOf (th : Throttle) (fan clamp : Bool) (old want : Nat) : Nat :=
  let w := max 16 (min 40 want)
  let a := match th with
    | .slow => max w (min 40 (old + 1))
    | .hold => old
    | .lift => max w (old - 1)
    | .off => w
  let a := if fan then max a (min 40 (old + 1)) else a
  if clamp then 40 else a

/-- Steps by which the throttle slows a cluster. -/
def throttled (th : Throttle) (n : Nat) : Nat :=
  match th with
  | .slow => n + 1
  | .hold => n
  | .lift => n - 1
  | .off => 0

/-- POLICY_CONFLICT on the PF (R267, R727). -/
def State.conflictEvent (s : State) (c : Conflict) (phase : Nat) : State :=
  (s.postEvent 0 0x8004 ([BitVec.ofNat 8 c.cause, BitVec.ofNat 8 phase, BitVec.ofNat 8 s.trim.eff.floor, BitVec.ofNat 8 c.worst] ++
    leBytes 2 c.mask.toNat ++ leBytes 2 0 ++ leBytes 4 (if phase = 0 then 0 else c.ms))).cause 0x7000 8

/-- A conflict ends. -/
def State.conflictEnd (s : State) : State :=
  match s.trim.conflict with
  | some c => (s.conflictEvent c 1).setTrim fun t => { t with conflict := none }
  | none => s

/-- A conflict starts: it is recorded, signalled and counted. -/
def State.conflictStart (s : State) (c : Conflict) : State :=
  let s := (s.setTrim fun t => { t with conflict := some c }).raise 0x0801 .device none 0x7000 0
  (s.conflictEvent c 0).count 0x711C

/-- The conflict of the last loop (R727): its cause, the slowest effective divider and the clusters under the floor concerned. -/
def State.conflictStep (s : State) (conf : Option (Nat × Nat × BitVec 16)) : State :=
  match conf, s.trim.conflict with
  | none, _ => s.conflictEnd
  | some (c, w, m), some old =>
    if c = old.cause then s.setTrim fun t => { t with conflict := some { old with mask := old.mask ||| m, worst := max old.worst w, ms := min (old.ms + 1) 0xFFFFFFFF } }
    else s.conflictEnd.conflictStart { cause := c, mask := m, worst := w, ms := 0 }
  | some (c, w, m), none => s.conflictStart { cause := c, mask := m, worst := w, ms := 0 }

/-- The conflict measured over the last loop counts only for clusters under the floor and the cause codes of R727. -/
def State.conflictSeen (s : State) (conf : Option (Nat × Nat × Nat)) : Option (Nat × Nat × BitVec 16) :=
  match conf with
  | some (c, w, m) =>
    let mask := BitVec.ofNat 16 (((List.range 16).filter fun n => bitOf m n && s.underFloor n).map (2 ^ ·)).sum
    if 1 ≤ c ∧ c ≤ 6 ∧ mask ≠ 0 then some (c, max 16 (min 56 w), mask) else none
  | none => none

/-- The floor holds (R725, R726): without a limit of a higher level no cluster under it is slower, and with one only once every other active
cluster runs at 40. -/
def State.holdFloor (s : State) (bases : List Nat) (limited forced : Bool) : List Nat :=
  let rest := (List.range 16).all fun n => s.underFloor n || !s.activeAt n || bases.getD n 40 == 40
  bases.mapIdx fun n b => if s.underFloor n && s.activeAt n && !forced && !(limited && rest) then min b s.trim.eff.floor else b

/-- One pass of the loop (R722 to R729) on the two power averages (in 0.125 W and in W): `want` and `table` are the adaptive choices,
`lim` which of cap, quiet and board limits bind (bits 0, 1, 2), `conf` the conflict over the last loop. -/
def State.trimPass (s : State) (p1 p10 : Nat) (want table : List Nat) (lim : Nat) (conf : Option (Nat × Nat × Nat)) : State :=
  let t := s.trim
  let s := s.setTrim fun t => { t with
    eff := t.next
    next := { cap := t.capW, board := t.boardW, quiet := t.quietW, fan := t.quietFan, floor := t.floorN }
    power1ms := min p1 65535
    power10ms := min p10 65535 }
  let h := s.hot
  let th := throttleAsks t.throttle h
  let fd := s.fanDemand h
  let s := fd.2
  let fan := s.trim.eff.fan != 0 && decide (s.trim.eff.fan < fd.1)
  let cap := bitOf lim 0
  let quiet := (bitOf lim 1 && s.trim.eff.quiet != 0) || fan
  let board := bitOf lim 2 && s.trim.eff.board != 0
  let old (n : Nat) : Cclk := s.ck.cclk.getD n cclkReset
  let raw := (List.range 16).map fun n => if s.activeAt n then baseOf th fan t.clamp (old n).base (want.getD n 40) else (old n).base
  let bases := s.holdFloor raw (cap || quiet || board) (th != .off || fan || t.clamp)
  let need := (bases.zipIdx.filter fun (_, n) => s.activeAt n).foldl (fun m (b, _) => min m b) 40
  let lend := (List.range 16).map fun r => max 16 (min (table.getD r 40) need)
  let quick := lend.foldl min need
  let ok := fastest s.vsafe
  let s := s.conflictStep (s.conflictSeen conf)
  let steps (n : Nat) : Nat := if s.activeAt n then throttled th (old n).throttled else (old n).throttled
  let left := decide (th = .slow) || (th != .off && (List.range 16).any fun n => decide (0 < steps n))
  let s := if th = .slow ∧ !t.throttle then (s.countField 0x7124 0 16 1).cause 0x7000 9 else s
  let s := s.setTrim fun t => { t with
    throttle := left, capLim := cap, quietLim := quiet, boardLim := board, lendTable := lend.map (max ok) }
  let s := s.mapCclk fun n c => { c with base := if s.activeAt n then max ok (bases.getD n 40) else c.base, throttled := steps n }
  let s := s.setDividers s.trim.lendR
  let s := s.vout (vmin (s.ck.cclk.foldl (fun m c => min m c.n) quick))
  { s with clusters := s.clusters.map fun (n, c) => (n, { c with used := false }) }

/-- TRIM_LOOP (R238, R713, R722 to R729). -/
def execTrimLoop (p1 p10 : Nat) (want table : List Nat) (lim : Nat) (conf : Option (Nat × Nat × Nat)) (s : State) :
    Host.Outcome State Fault Refusal :=
  .next (if s.pwrOn then s.trimPass p1 p10 want table lim conf else s)

/-- LENDING_WINDOW (R730 to R733): the REEFED clusters are counted and every divider set. -/
def execLendingWindow (s : State) : Host.Outcome State Fault Refusal :=
  .next (if !s.pw.railsUp ∨ s.pw.safe then s
    else
      let r := s.reefedCount
      let m := BitVec.ofNat 16 (((List.range 16).filter fun n => (s.cluster n).reefed).map (2 ^ ·)).sum
      let s := s.setTrim fun t => { t with lendReefed := m, lendR := r, lending := bitOf (s.reg 0x7400).toNat 0 }
      let s := if 0 < r then s.count 0x712C else s
      s.setDividers r)

/-! ### Telemetry (R734, R735) -/

/-- The hottest diode of a set: index and value. -/
def hottest (l : List (BitVec 16)) : Nat × BitVec 16 :=
  l.zipIdx.foldl (fun m (v, i) => if m.2.toInt < v.toInt then (i, v) else m) (0, l.headD 0)

/-- TELEMETRY_SAMPLE (R722, R724, R734, R735): the 64 sensors read `vals`; those in `held` keep their value and are marked stale. -/
def execTelemetrySample (vals : List (BitVec 16)) (held : List Nat) (s : State) : Host.Outcome State Fault Refusal :=
  .next (if !s.trim.telemetryOn ∨ !s.fwOn ∨ s.sec.halted.contains 1 then s
    else
      let v := (List.range 64).map fun i => if held.contains i then s.sensor i else vals.getD i 0
      let h := hottest (v.take 32)
      let fd := s.fanDemand h.2.toInt
      let fan := if s.trim.eff.fan = 0 then fd.1 else min fd.1 s.trim.eff.fan
      let all := v ++ [BitVec.ofNat 16 s.trim.power1ms, h.2, BitVec.ofNat 16 fan]
      fd.2.setTrim fun t => { t with
        sensors := all.zipIdx.foldl (fun l (x, i) => tblSet 0 i x l) []
        stale := (List.range 64).filter held.contains
        hotspot := h.1
        sampleGtime := s.ck.gtime
        seq := t.seq + 1 })

/-! ### Background work (R738 to R744) -/

/-- The unit and what an L2 or CMEM scrub step finds there (R658, R663): corrected errors are counted and recorded. -/
def State.scrubFind (s : State) (u : Nat) (cmem : Bool) : State :=
  if cmem then
    (s.countField (yardBase (u % 16) + 0x811C) 0 16 1).raiseAs 0x0204 0 .l0 .device none (yardBase (u % 16) + 0x8000) 0 (Config.freeNat s.own.freeCtr % 2 ^ 32)
      false false false |>.bumpFree
  else
    (s.sliceEcc (u % 32) false).raiseAs 0x0204 0 .l0 .device none 0x1B0000 0 (2 ^ 56 * (u % 32) + Config.freeNat s.own.freeCtr % 2 ^ 32) false false false
      |>.bumpFree

/-- BG_STEP_TAKE (R738, R739, R742): a step of task `t` takes its unit `u` in an idle window. The L2 scrub (`cmem` false) and the CMEM scrub
of task 3 correct the error they find, if one is found. -/
def execBgStepTake (t u : Nat) (cmem found : Bool) (s : State) : Host.Outcome State Fault Refusal :=
  .next (if t = 3 ∧ found = true ∧ s.fwOn = true then s.scrubFind u cmem else s)

/-- BG_FORCED (R740, R741, R743, R748): a step of task `t` takes unit `u` by force; `first` says that it is the task's first in this
second. -/
def execBgForced (t u : Nat) (first : Bool) (s : State) : Host.Outcome State Fault Refusal :=
  .next (if 5 < t ∨ !s.fwOn ∨ (t < 2 ∧ s.pw.selfRefresh ≠ 0) then s
    else
      let s := s.count (0x71A0 + 4 * t)
      let s := match s.captureAt 0x71C4 (t + 256 * (u % 256)) 31 with
        | (true, s) => s.cause 0x7000 11
        | (false, s) => s
      if first then s.raise 0x0802 .device none 0x7000 (t + 256 * (u % 256)) else s)

/-- The 32 B units of HBM: 96 GiB. -/
def hbmUnits : Nat := 3221225472

/-- HBM_PATROL_STEP (R648, R650): patrol scrub reads unit `u`; `err` is what its ECC check finds. -/
def execHbmPatrolStep (u : Nat) (err : Ecc) (s : State) : Host.Outcome State Fault Refusal :=
  .next (if hbmUnits ≤ u ∨ s.pw.hbmTrained ≠ 15 ∨ s.pw.selfRefresh ≠ 0 ∨ !s.fwOn then s
    else
      let e : Ecc := match tblFind u s.flips, err with | some 1, .good => .corrected | _, e => e
      let s := match e with
        | .good => s
        | .corrected => s.eccFind (some (u, false)) true
        | .uncorrected =>
          if u ∈ s.poison then s
          else
            let o : Owner := match (s.slot (u / 2 ^ 23)).owner with | some k => .inst k | none => .device
            (s.eccFind (some (u, true)) true).raiseAs 0x0205 0 .l0 o none 0x1C0000 0xFF (32 * u) true false false
      s.setTrim fun t => if hbmUnits ≤ t.patrol + 1 then { t with patrol := 0, patrolPasses := min (t.patrolPasses + 1) 0xFFFF } else { t with patrol := t.patrol + 1 })

/-- CRACK_LOOP_MEASURE (R131, R744): the resistance in 0.1 Ω, none for an open loop. -/
def execCrackLoopMeasure (res : Option W) (s : State) : Host.Outcome State Fault Refusal :=
  .next (if !s.fwOn then s
    else match res with
      | none => (s.setTrim fun t => { t with crackLast := 0xFFFFFFFF }).raise 0x0B02 .device none 0x8000 0
      | some v =>
        let b := s.trim.crackBase.toNat
        let s := s.setTrim fun t => { t with crackLast := v }
        let drift := decide (12 * b < 10 * v.toNat) && (s.trim.crackRec == 0 || decide (10 * s.trim.crackRec.toNat + b ≤ 10 * v.toNat))
        if drift then (s.setTrim fun t => { t with crackRec := v }).raise 0x0B01 .device none 0x8000 0 else s)

/-! ### Board management (R736, R737, R797, R799) -/

/-- Whether the board-management endpoint answers (R736): from FW_STARTING onward and in the safe state. -/
def State.bmcOn (s : State) : Bool :=
  s.pw.railsUp && (s.pw.safe || s.pw.stage == .fwStarting || s.pw.stage == .ready || s.pw.stage == .l3Recovery || s.pw.stage == .parked)

/-- MCTP_EID_ASSIGN (R736). -/
def execMctpEidAssign (eid : Nat) (s : State) : Host.Outcome State Fault Refusal :=
  .next (if s.bmcOn then (s.setTrim fun t => { t with eid := eid % 256, eidSet := true }).answer [] 0 else s.answer [] 1)

/-- MCTP_CONTROL_MESSAGE (R736): Get Endpoint ID answers the Endpoint ID, Get Message Type Support the two types, and the bytes of
other answers are the MCTP standard's. Status 1: the address is not acknowledged. -/
def execMctpControlMessage (cmd : Nat) (s : State) : Host.Outcome State Fault Refusal :=
  .next (if !s.bmcOn then s.answer [] 1
    else if cmd = 2 then s.answer [0, BitVec.ofNat 8 s.trim.eid] 0
    else if cmd = 5 then s.answer [0, 2, 0, 1] 0
    else s.bumpFree.answer (s.drawBytes 1).1 0)

/-- PLDM_SENSOR_READ (R737): sensor `id` reports index `id` − 1 of the last published set. Status 0x80: no such sensor. -/
def execPldmSensorRead (id : Nat) (s : State) : Host.Outcome State Fault Refusal :=
  .next (if !s.bmcOn then s.answer [] 1
    else if id = 0 ∨ 67 < id then s.answer [] 0x80
    else s.answer (leBytes 2 (s.sensor (id - 1)).toNat) 0)

/-- PLDM_EFFECTER_SET (R728, R737): effecter 1 is the board power limit; a value outside its range is refused with ERROR_INVALID_DATA. -/
def execPldmEffecterSet (id v : Nat) (s : State) : Host.Outcome State Fault Refusal :=
  .next (if !s.bmcOn then s.answer [] 1
    else if id ≠ 1 then s.answer [] 0x80
    else if v = 0 ∨ (150 ≤ v ∧ v ≤ 450) then (if s.pw.safe ∨ s.parked then s.answer [] 0 else (s.setTrim fun t => { t with boardW := v }).answer [] 0)
    else s.answer [] 2)

/-- BMC_ALERT_N is asserted (R797), the PLDM event queue aside, which no rule here fills. -/
def State.bmcAlert (s : State) : Bool := s.pw.railsUp && s.pw.safe

/-- What GPIO `g` does (R798, R799): 0 input, 1 fan output with its duty in percent, 2 a level. -/
def State.gpio (s : State) (g : Nat) : Nat × Nat :=
  let on := s.pw.safe || s.pw.stage == .fwStarting || s.pw.stage == .ready || s.pw.stage == .l3Recovery || s.pw.stage == .parked
  if !on then (0, 0)
  else match boardGpio s.sec.board g with
    | 1 => (1, if s.pw.safe then 100 else (s.sensor 66).toNat)
    | 2 => (2, b2n (s.pw.stage == .ready))
    | 3 | 4 => (2, 0)
    | _ => (0, 0)

end Sys2Proof.Machine
end

