-- ==== Sys2Proof/Machine/Collector.lean ====
section
/-! DEFINITION. The fault collector (17): records, rate threshold, escalation, reactions, the safe state and acknowledgement. -/

set_option Elab.async false
namespace Sys2Proof.Machine

/-! ### Levels and ladders (R752, R761, R762) -/

/-- The rank of a level (R762). -/
def rank : Level → Nat
  | .l0 => 0 | .l1 => 1 | .l2 => 2 | .l2inst => 3 | .l3 => 4 | .l4 => 5 | .absorbed => 6

/-- The number a record gives a level. -/
def levelCode : Level → Nat
  | .l0 => 0 | .l1 => 1 | .l2 => 2 | .l2inst => 2 | .l3 => 3 | .l4 => 4 | .absorbed => 5

/-- The higher of two reactions. -/
def maxLevel (a b : Level) : Level := if rank a < rank b then b else a

/-- The escalation owner (R761). -/
def escOwner : Owner → Owner
  | .queue k _ | .ctx k _ _ | .inst k => .inst k
  | o => o

/-- The next step of an escalation owner's ladder above a level (R762). -/
def nextStep : Owner → Level → Level
  | .agent _ _, _ => .l1
  | .device, .l0 => .l1
  | .device, .l1 => .l3
  | .device, .l2 => .l3
  | .device, .l2inst => .l3
  | .device, _ => .l4
  | _, .l0 => .l1
  | _, .l1 => .l2
  | _, _ => .l2inst

/-- The codes that escalate (the Esc column of R754). -/
def escalates (c : Nat) : Bool :=
  !([0x0108, 0x0204, 0x0304, 0x0401, 0x0402, 0x0403, 0x0601, 0x0602, 0x0801, 0x0802, 0x0901, 0x0902, 0x0B01].contains c) && decide (c < 0x0B02)

/-- Whether a fault takes part in escalation (R761, R763, R764). -/
def State.tracked (s : State) (f : FaultIn) : Bool :=
  let e := (s.reg 0x9404).toNat
  escalates f.code && !f.onFaulted &&
    (match f.cls, f.owner with
    | 0, .agent _ _ => bitOf e 0
    | 1, _ => bitOf e 1
    | 2, _ => bitOf e 2
    | _, _ => false)

/-- The open entry of a class and an escalation owner. -/
def State.openEntry (s : State) (cls : Nat) (o : Owner) : Option OpenEnt :=
  s.fcol.open_.find? fun e => decide (e.cls = cls ∧ escOwner e.owner = escOwner o)

/-- The level of INJ_CAP. -/
def capLevel : Nat → Level
  | 0 => .l0 | 1 => .l1 | 2 => .l2inst | 3 => .l3 | _ => .l4

/-! ### Records (R759, R775, R781) -/

/-- A record is written to the ring and, for classes C2 and C3, to the retained history; `ring` says the ring can be reached. -/
def State.writeRec (s : State) (r : FRec) (ring : Bool) : State :=
  let hist := if 2 ≤ r.cls then (r :: s.fcol.hist).take 16 else s.fcol.hist
  if !ring then { s with fcol := { s.fcol with hist := hist, head := s.fcol.head + 1 } }
  else
    let full := decide (256 ≤ s.fcol.ring.length)
    let lost := full && !((s.fcol.ring.headD r).acked)
    let s := if lost then s.count 0x9118 else s
    let l := if full then s.fcol.ring.drop 1 else s.fcol.ring
    let s := { s with fcol := { s.fcol with ring := l ++ [r], head := s.fcol.head + 1, hist := hist } }
    let s := s.cause 0x9000 12
    if r.esc then (s.count 0x9130).cause 0x9000 9 else s

/-- The instance a notification goes to (R776). -/
def noteInst : Owner → Option Nat
  | .inst k | .queue k _ | .ctx k _ _ => some k
  | .agent c k => if c = 1 ∨ c = 2 then some k else none
  | .device => none

/-- FAULT_NOTE and FAULT_NOTIFY of an instance (R343, R776). -/
def State.noteFault (s : State) (k code : Nat) (hwq : Option Nat) : State :=
  (s.capture31 (instWin k + 0x124) (code + 65536 * (hwq.getD 0 % 1024))).cause (instWin k) 9

/-- INSTANCE.FAULTS counts an L2 reaction and keeps its code. -/
def State.countL2 (s : State) (k code : Nat) : State :=
  s.setInst k { s.inst k with faults := min ((s.inst k).faults + 1) 0xFFFF, lastFault := BitVec.ofNat 16 code }

/-- The L1 part of a reaction (R752, R776): the PF and, at L1 and L2, the owner are notified. -/
def State.notifyRec (s : State) (r : FRec) : State :=
  let s := s.cause 0x9000 8
  match r.level, noteInst r.owner with
  | .l1, some k => s.noteFault k r.code r.hwq
  | .l2, some k | .l2inst, some k => (s.noteFault k r.code r.hwq).countL2 k r.code
  | _, _ => s

/-! ### The safe state (R106, R163, R710, R769, R770, R793) -/

/-- A head in the safe state sends black and reads nothing (R710). -/
def headSafe (v : Head) : Head := { headReset with enabled := v.enabled, scanning := v.scanning, black := true, owner := v.owner, share := v.share }

/-- The device enters the safe state (17, *The safe state*). CCLK and FCLK are gated outside the PCIe controller until a cold reset, so
what the gated blocks hold can neither act nor be read: it is at its reset values here, and HBM contents are open (R652). -/
def State.enterSafe (s : State) : State :=
  let t : State := State.reset
  let s := s.aerLog 0 22
  let u : State := { t with
    pw := { s.pw with safe := true, faultN := false, l3 := false, selfRefresh := 15, removing := false, sclk := if s.pw.refclk then 0 else 2 }
    ck := { s.ck with cclk := s.ck.cclk.map fun c => { c with gated := true, stretch := false }, settling := none }
    pcie := { s.pcie with txq := [], held := [], reads := [] }
    sec := s.sec
    fw := s.fw
    fcol := s.fcol
    disp := { heads := s.disp.heads.map headSafe, ports := s.disp.ports }
    trim := s.trim
    slots := s.slots
    insts := s.insts.map fun (k, i) => (k, { i with quiesce := none })
    regs := s.regs
    expert := s.expert
    effect := s.effect
    capture := s.capture
    lowWord := s.lowWord
    lockUsed := s.lockUsed
    own := s.own
    nextId := s.nextId
    pending := s.pending }
  u.forget (List.range 384)

/-! ### Taking a fault (R751 to R764, R768, R771 to R777) -/

/-- The reaction a record carries while recoveries or the safe state run (R771, R772), and where an L3 reaction cannot start one. -/
def State.absorb (s : State) (f : FaultIn) (lvl : Level) : Level :=
  if s.pw.safe ∨ f.level = .absorbed then .absorbed
  else if s.pw.l3 ∧ f.cls < 2 then .absorbed
  else if lvl = .l3 ∧ f.code ≠ 0x0402 ∧ (s.pw.l3 ∨ s.pw.stage ≠ .ready) then .absorbed
  else lvl

/-- An L3 reaction (R768). LINK_LOSS has begun its recovery itself. -/
def State.reactL3 (s : State) (code : Nat) : State :=
  let s := s.cause 0x9000 10
  if code = 0x0402 ∧ !s.pw.l3 then s.cause 0x9000 11
  else
    let s := s.setReg 0x9100 (setField (s.reg 0x9100) 1 1 1)
    if code = 0x0402 then s else s.l3Start .faultL3

/-- The reaction to a record (R752, R753). The queue and launch effects of L2 are the immediate effects of the fault. -/
def State.react (s : State) (r : FRec) : State :=
  match r.level with
  | .l0 | .absorbed => s
  | .l1 | .l2 => s.notifyRec r
  | .l2inst => match noteInst r.owner with
    | some k => (s.notifyRec r).trigger k false true true .quiesced 5
    | none => s.notifyRec r
  | .l3 => (s.notifyRec r).reactL3 r.code
  | .l4 => (s.notifyRec r).enterSafe

/-- The open entry of a fault is opened or updated (R761). -/
def State.putEntry (s : State) (r : FRec) (lvl : Level) : State :=
  let l := s.fcol.open_.filter fun e => !decide (e.cls = r.cls ∧ escOwner e.owner = escOwner r.owner)
  { s with fcol := { s.fcol with open_ := l ++ [{ cls := r.cls, owner := r.owner, seq := r.seq, level := lvl, hwq := r.hwq }] } }

/-- Process one fault. -/
def State.process (s : State) (f : FaultIn) : State :=
  let rated := decide (f.cls = 0 ∧ f.level = .l0)
  let n := tblGet 0 f.code s.fcol.rates + 1
  let lim := (s.reg 0x9400).toNat % 65536
  let s := if rated then { s with fcol := { s.fcol with rates := tblSet 0 f.code n s.fcol.rates } } else s
  if rated ∧ lim + 1 < n then s.count 0x911C
  else
    let rate := rated && decide (n = lim + 1)
    let row := if rate then maxLevel f.level .l1 else f.level
    let track := s.tracked f
    let step := match (if track then s.openEntry f.cls f.owner else none) with
      | some e => some (nextStep (escOwner f.owner) e.level)
      | none => none
    let esc := match step with | some l => decide (rank row < rank l) | none => false
    let full := if esc then step.getD row else row
    let cut := if f.injected ∧ rank (capLevel ((s.reg 0x9408).toNat % 8)) < rank full then capLevel ((s.reg 0x9408).toNat % 8) else full
    let lvl := s.absorb f cut
    let owner := match lvl, f.owner with
      | .l2inst, .queue k _ | .l2inst, .ctx k _ _ => .inst k
      | _, o => o
    let r : FRec := {
      gtime := f.gtime
      seq := s.fcol.head
      code := f.code
      cls := f.cls
      level := lvl
      esc := esc
      rate := rate
      injected := f.injected
      owner := owner
      hwq := f.hwq
      source := f.source
      detail := f.detail
      scrub := f.scrub
      acked := false }
    let reach := if s.pw.safe ∨ f.code = 0x0B07 then Config.freeBool s.own.freeCtr else true
    let s := if s.pw.safe ∨ f.code = 0x0B07 then s.bumpFree else s
    if s.pw.safe ∧ !reach then s else
    let s := s.writeRec r reach
    let dull := decide (lvl = .absorbed) && !decide (cut = .l3)
    let s := if track && !dull then s.putEntry r (if lvl = .absorbed then cut else lvl) else s
    s.react r

/-- The place in the input queue of the fault the FCOL takes next (R751): the highest class, and the first of it. -/
def nextFault (l : List FaultIn) : Option Nat :=
  let top := l.foldl (fun m f => max m f.cls) 0
  l.findIdx? (·.cls == top)

/-- FCOL_TAKE_FAULT (R751, R759 to R764, R768 to R777). -/
def execFcolTakeFault (s : State) : Host.Outcome State Fault Refusal :=
  .next (if !s.pw.railsUp then s
    else match nextFault s.fcol.inq with
      | none => s
      | some i => match s.fcol.inq[i]? with
        | none => s
        | some f => ({ s with fcol := { s.fcol with inq := s.fcol.inq.eraseIdx i } } : State).process f)

/-- RATE_WINDOW_EXPIRY (R760). -/
def execRateWindowExpiry (s : State) : Host.Outcome State Fault Refusal := .next { s with fcol := { s.fcol with rates := [] } }

/-- FCOL_SELF (R774): a parity error of the FCOL's configuration, or an uncorrectable error of its ring. It bypasses the input queue. -/
def execFcolSelf (s : State) : Host.Outcome State Fault Refusal :=
  .next (if !s.pw.railsUp then s
    else (s.count 0x912C).process
      { gtime := s.ck.gtime, code := 0x0B07, cls := 3, level := .l4, owner := .device, hwq := none, source := sourceOf 0x9000 0xFF, detail := 0
        scrub := false, injected := false, onFaulted := false })

/-! ### Acknowledgement and reports (R765, R779, R780) -/

/-- FR_ACK (R765): records up to a SEQ are acknowledged and their entries close; agents other than 0 are ignored. -/
def State.frAck (s : State) (v : W) (ag : Agent) : State :=
  if ag.code ≠ 0 then s
  else { s with fcol := { s.fcol with
    ring := s.fcol.ring.map fun (r : FRec) => if (v - r.seq).toNat < 2 ^ 31 then { r with acked := true } else r
    open_ := s.fcol.open_.filter fun e => !decide ((v - e.seq).toNat < 2 ^ 31) } }

/-- The codes FW_REPORT takes (R780). -/
def fwCodes : List Nat := [0x0903, 0x0801, 0x0802, 0x0304, 0x0703, 0x0902, 0x0901, 0x0B01, 0x0602]

/-- The owner a FW_REPORT names. -/
def fwOwner (v : Nat) : Owner :=
  match bitsOf v 24 3 with
  | 0 => .device
  | 1 => .inst (bitsOf v 16 7)
  | 2 => .queue (bitsOf v 16 7) 0
  | 3 => .ctx (bitsOf v 16 7) 0 0
  | _ => .agent (bitsOf v 27 3) (bitsOf v 16 7)

/-- FW_REPORT (R779, R780): a firmware core raises a fault code; other writers are ignored. -/
def State.fwReport (s : State) (v : W64) (ag : Agent) : State :=
  let x := v.toNat
  let c := bitsOf x 0 16
  if ag.code < 3 ∨ 5 < ag.code then s
  else if !fwCodes.contains c ∨ 4 < bitsOf x 24 3 ∨ bitsOf x 23 1 ≠ 0 ∨ bitsOf x 30 2 ≠ 0 then s.rsvdValue 0x9138 0x9000 0 ag
  else
    let low := if c = 0x0903 then ag.code - 3 else 0
    s.enqueueFault
      { gtime := s.ck.gtime, code := c, cls := (codeClass c).1, level := (codeClass c).2, owner := fwOwner x, hwq := none
        source := coreSource ag.code, detail := BitVec.ofNat 64 (low + 2 ^ 32 * (x / 2 ^ 32)), scrub := false, injected := false, onFaulted := false }

end Sys2Proof.Machine
end

