-- ==== Sys2Proof/Machine/Views.lean ====
section
/-! DEFINITION. What the registers that mirror other state read: for each page, the value of the register at an offset.
Registers that hold a value of their own read it from the register file. -/

set_option Elab.async false
namespace Sys2Proof.Machine

/-- A number that stops at the largest value of `n` bits. -/
def capBits (n x : Nat) : Nat := min x (2 ^ n - 1)

/-- BOOT_STATUS.STAGE (03). -/
def stageCode : Stage → Nat
  | .romStart => 0 | .fusesRead => 1 | .pllLocked => 2 | .hbmReady => 3 | .imageVerified => 4 | .protLocked => 5
  | .fwStarting => 6 | .ready => 7 | .l3Recovery => 8 | .parked => 9 | .bootFailed => 10

/-- RESET_CAUSE.LAST (03). -/
def lastCode : ResetLast → Nat
  | .cold => 0 | .warm => 1 | .hotReset => 2 | .linkLoss => 3 | .hostL3 => 4 | .faultL3 => 5

/-- QSTATE.STATE (09). -/
def qstCode : QSt → Nat
  | .free => 0 | .stopped => 1 | .running => 2 | .faulted => 3

/-- CTX_STATE_s bits 2:0 (13). -/
def ctxCode : CtxSt → Nat
  | .running => 1 | .ready => 2 | .parked => 3 | .spinning => 4 | .swappingOut => 5 | .swappingIn => 6 | .ending => 7 | .swappedOut => 0

/-- VER_STATUS.STATE (06). -/
def ringCode : RingSt → Nat
  | .closed => 0 | .negotiating => 1 | .opened => 2 | .rejected => 3

/-- FW_STATE (06). -/
def fwCode : FwSt → Nat
  | .running => 0 | .staging => 1 | .staged => 2 | .activating => 3 | .persisting => 4

/-- Whether debug is open with a scope bit (R210). -/
def State.dbgOpen (s : State) (bit : Nat) : Bool := !Config.debugDisable && bitOf s.sec.dbgScope 3 && bitOf s.sec.dbgScope bit

/-- Whether an accepted debug unlock is in force (R210). -/
def State.dbgAny (s : State) : Bool := !Config.debugDisable && bitOf s.sec.dbgScope 3

/-- The 64-bit value of a pair of register words by the word asked for. -/
def half (v : Nat) (part : Nat) : Nat := if part = 0 then v % 2 ^ 32 else v / 2 ^ 32 % 2 ^ 32

/-- The word at a byte offset of a byte string. -/
def byteWord (l : List Byte) (o : Nat) : Nat := leNat (bytesAt l o 4)

/-! ### Device pages (03 to 06, 16, 17) -/

/-- CCLK_STATE_n (03). -/
def State.cclkState (s : State) (n : Nat) : Nat :=
  let c := s.ck.cclk.getD n cclkReset
  c.n % 64 + 2 ^ 8 * b2n (s.gatedAt n) + 2 ^ 9 * b2n c.stretch + 2 ^ 16 * (c.base % 64)

/-- The CLOCK page. -/
def State.viewClock (s : State) (o : Nat) : Nat :=
  if o = 0x100 then b2n s.pw.pllLock
  else if o = 0x104 then s.pw.sclk
  else if o = 0x108 then 2 ^ 16 * b2n s.pcie.linkUp
  else if o = 0x10C then (s.reg 0x110C).toNat
  else s.cclkState ((o - 0x140) / 4)

/-- The RESET page. -/
def State.viewReset (s : State) (o : Nat) : Nat :=
  if o = 0x100 then lastCode s.pw.last + 2 ^ 8 * b2n s.pw.safe + 2 ^ 16 * capBits 8 s.pw.warmCount
  else if o = 0x104 then capBits 32 s.pw.l3Count
  else if o = 0x108 then stageCode s.pw.stage + 2 ^ 8 * (s.pw.failCause % 256) + 2 ^ 16 * b2n s.pw.configReady + 2 ^ 17 * b2n s.pw.trngReady
  else if o = 0x10C then s.pw.bootTime.toNat
  else (s.reg (0x2000 + o)).toNat

/-- The GTIMER page. -/
def State.viewGtimer (s : State) (o part : Nat) : Nat :=
  if o = 0x100 ∨ o = 0x104 then half s.ck.gtime.toNat part
  else if o = 0x10C then b2n s.ck.synced + 2 * b2n s.ck.slewing + 4 * min 3 s.ck.failRun
  else (s.reg (0x3000 + o)).toNat

/-- The FUSE page: the fuses read zero until they are loaded. -/
def State.viewFuse (s : State) (o : Nat) : Nat :=
  if !s.pw.pllOn then 0
  else if o = 0x100 then 1 + 2 * ownerState s.sec + 8 * b2n Config.debugDisable + 16 * b2n s.sec.fuseOk
  else if o = 0x104 then s.sec.arb % 128
  else if o = 0x108 then s.sec.keyRevoke % 16
  else if o < 0x200 then byteWord (leBytes 48 (Config.kenudKeyHash ((o - 0x140) / 48)).toNat) ((o - 0x140) % 48)
  else if o < 0x230 then byteWord (leBytes 48 s.sec.ownerHash.toNat) (o - 0x200)
  else s.sec.ownerMarker.toNat + 2 ^ 16 * s.sec.ownerCheck.toNat

/-- The SEC_MBOX page. -/
def State.viewMbox (s : State) (o : Nat) : Nat :=
  if o = 0x108 then s.sec.rng % 4 + 2 ^ 8 * capBits 8 s.sec.rngFails
  else if o = 0x118 then
    b2n s.sec.slotB + 2 * b2n s.sec.fallback + 2 ^ 8 * (s.sec.firstFail % 256) + 2 ^ 16 * (s.sec.svn % 128) + 2 ^ 24 * b2n s.dbgAny
  else (s.reg (0x6000 + o)).toNat

/-- The TRIM page. -/
def State.viewTrim (s : State) (o : Nat) : Nat :=
  let t := s.trim
  if o = 0x100 then
    b2n t.throttle + 2 * b2n t.clamp + 4 * b2n t.capLim + 8 * b2n t.quietLim + 16 * b2n t.boardLim + 32 * b2n t.conflict.isSome
  else if o = 0x104 then t.capW % 512 + 2 ^ 16 * (t.boardW % 512)
  else if o = 0x108 then t.quietW % 512 + 2 ^ 16 * (t.quietFan % 128)
  else if o = 0x10C then t.floorN % 64
  else if o = 0x110 then s.ck.vcore % 1024
  else if o = 0x114 then capBits 16 t.power1ms + 2 ^ 16 * capBits 16 t.power10ms
  else if o = 0x118 then (match t.conflict with | some c => c.cause % 8 + 2 ^ 16 * capBits 16 c.ms | none => 0)
  else if o = 0x128 then t.lendReefed.toNat + 2 ^ 16 * (t.lendR % 32)
  else if 0x140 ≤ o ∧ o < 0x180 then t.lendTable.getD ((o - 0x140) / 4) 40
  else (s.reg (0x7000 + o)).toNat

/-- The TELEM page. -/
def State.viewTelem (s : State) (o part : Nat) : Nat :=
  let t := s.trim
  if o = 0x100 then t.seq.toNat
  else if o = 0x108 ∨ o = 0x10C then half t.sampleGtime.toNat part
  else if o = 0x110 then t.hotspot % 32
  else if o = 0x114 then bitMask 32 fun i => t.stale.contains i
  else if o = 0x118 then bitMask 32 fun i => t.stale.contains (32 + i)
  else if o = 0x11C then t.eid % 256 + 2 ^ 8 * b2n (t.telemetryOn && t.i3c) + 2 ^ 9 * b2n (t.telemetryOn && !t.i3c) + 2 ^ 10 * b2n t.eidSet
  else if o = 0x120 then t.crackBase.toNat
  else if o = 0x124 then t.crackLast.toNat
  else (s.sensor ((o - 0x200) / 4)).toNat

/-- Whether a SEQ is still to be written, and how old a written one is: records behind the head. -/
def seqAge (head q : W) : Option Nat :=
  let a := (head - q).toNat
  if a = 0 ∨ 2 ^ 31 ≤ a then none else some a

/-- VALID, GONE or NOT_YET of a selected SEQ (R273, R759). -/
def selStatus (head q : W) (held : Bool) : Nat := if held then 1 else match seqAge head q with | some _ => 2 | none => 4

/-- OWNER_KIND and OWNER of a record (17). -/
def ownerBytes : Owner → Nat × Nat
  | .device => (0, 0)
  | .inst k => (1, k)
  | .queue k _ => (2, k)
  | .ctx k _ _ => (3, k)
  | .agent c i => (4, 256 * c + i % 128)

/-- The 32 bytes of a fault record (17). -/
def frecBytes (r : FRec) : List Byte :=
  leBytes 8 r.gtime.toNat ++ leBytes 4 r.seq.toNat ++ leBytes 2 r.code ++
  leBytes 1 (r.cls % 4 + 4 * levelCode r.level + 32 * b2n r.esc + 64 * b2n r.rate + 128 * b2n r.injected) ++
  leBytes 1 ((ownerBytes r.owner).1 + 64 * b2n r.scrub + 128 * b2n r.acked) ++ leBytes 2 (ownerBytes r.owner).2 ++
  leBytes 2 (match r.hwq with | some h => h % 1024 + 2 ^ 15 | none => 0) ++ leBytes 4 r.source.toNat ++ leBytes 8 r.detail.toNat

/-- The FCOL page. -/
def State.viewFcol (s : State) (o : Nat) : Nat :=
  let f := s.fcol
  let sel := s.reg 0x9108
  let r := f.ring.find? fun r => r.seq == sel
  if o = 0x100 then
    b2n s.pw.safe + 2 * b2n (bitOf (s.reg 0x9100).toNat 1) + 4 * b2n (f.open_.any fun e => e.owner == .device) +
      2 ^ 8 * capBits 7 (queuedFaults f.inq) + 2 ^ 16 * (f.ring.filter fun r => !r.acked).length
  else if o = 0x104 then f.head.toNat
  else if o = 0x10C then selStatus f.head sel r.isSome
  else if o = 0x144 then f.hist.length
  else if 0x180 ≤ o ∧ o < 0x1A0 then (match r with | some r => byteWord (frecBytes r) (o - 0x180) | none => 0)
  else if 0x1A0 ≤ o ∧ o < 0x1C0 then
    (match f.hist[bitsOf (s.reg 0x9140).toNat 0 4]? with | some r => byteWord (frecBytes r) (o - 0x1A0) | none => 0)
  else (s.reg (0x9000 + o)).toNat

/-- The BRIANE_PF page. -/
def State.viewBrianePf (s : State) (o part : Nat) : Nat :=
  if o = 0x100 ∨ o = 0x104 then half s.fw.version.toNat part
  else if o = 0x108 ∨ o = 0x10C then (match s.fw.staged with | some i => half i.version.toNat part | none => 0)
  else if o = 0x110 then fwCode s.fw.st
  else if 0x120 ≤ o ∧ o < 0x130 then bitMask 32 fun i => (s.ringsOf (32 * ((o - 0x120) / 4) + i)).st == .opened
  else if 0x130 ≤ o ∧ o < 0x140 then bitMask 32 fun i => (s.ringsOf (32 * ((o - 0x130) / 4) + i)).st == .rejected
  else (s.reg (0xA000 + o)).toNat

/-- The LOGTRACE page. -/
def State.viewLog (s : State) (o : Nat) : Nat :=
  let sel := s.reg 0xB108
  if o = 0x104 then s.fw.logHead.toNat
  else if o = 0x10C then selStatus s.fw.logHead sel (s.logFind sel).isSome
  else if 0x200 ≤ o then (match s.logFind sel with | some r => byteWord (logBytes r) (o - 0x200) | none => 0)
  else (s.reg (0xB000 + o)).toNat

/-! ### MASTHEAD, QDESC and BEACON (09 to 11) -/

/-- How many queues meet a test. -/
def State.countQ (s : State) (p : Nat × Queue → Bool) : Nat := (s.queues.filter p).length

/-- Whether the command at the front of a queue waits on a sync object, a Beacon or SYNC_AFTER, or is a fifth non-blocking one
(QSTATE.WAITING, R435). -/
def State.frontWaits (s : State) (h : Nat) : Bool :=
  (s.queue h).waiting || s.barrier h ||
    (match s.frontCmd h with
    | some f =>
      let op := f.pos.op
      let w := wordAt f.words 1
      decide (4 ≤ s.asyncCount h) && !hSync (wordAt f.words 0) && (op == 0x10 || op == 0x11 || ((op == 0x12 || op == 0x13) && bitOf w.toNat 2))
    | none => false)

/-- HTAB_LOC_k (09): Fausk places the tables, where is open; it reads zero before Fausk runs. -/
def State.htabLoc (s : State) (k : Nat) : Nat :=
  if s.fw.version = 0 then 0
  else (if (s.inst k).htab = 0 then 0 else Config.htabPlace k ((List.range 128).map fun j => (s.inst j).htab) % 2 ^ 14) + 2 ^ 16 * (s.inst k).htab

/-- The MASTHEAD pages. -/
def State.viewMh (s : State) (i o part : Nat) : Nat :=
  let base := 0x10000 + 0x1000 * i
  let own := (s.reg (base + o)).toNat
  match i with
  | 0 => if o = 0x100 then s.countQ (fun (_, q) => q.st == .running) + 2 ^ 16 * s.countQ (fun (h, q) => q.st != .free && s.busyOf h) else own
  | 1 =>
    if o = 0x100 then s.countQ (fun (_, q) => q.st != .free) + 2 ^ 16 * s.countQ (fun (_, q) => q.st == .faulted)
    else if 0x200 ≤ o ∧ o < 0x280 then bitMask 32 fun b => (s.queue (32 * ((o - 0x200) / 4) + b)).st == .faulted
    else if 0x280 ≤ o ∧ o < 0x300 then bitMask 32 fun b => (s.queue (32 * ((o - 0x280) / 4) + b)).st == .running
    else own
  | 2 =>
    if o = 0x100 then ((List.range 128).map fun k => if (s.inst k).htab = 0 then 0 else 2 ^ (s.inst k).htab).sum
    else if 0x200 ≤ o then s.htabLoc ((o - 0x200) / 4)
    else own
  | 3 =>
    if o = 0x110 then
      let n (b : Nat) : Nat := capBits 10 ((s.launches.filter fun (_, l) => s.isReady l && decide ((s.effBand l).1 = b)).length)
      n 0 + 2 ^ 10 * n 1 + 2 ^ 20 * n 2
    else own
  | 4 =>
    let v := s.resv (bitsOf (s.reg 0x14104).toNat 0 8)
    if o = 0x100 then (s.resvs.filter fun (_, r) => r.valid).length
    else if o = 0x104 ∨ o = 0x124 ∨ o = 0x128 then own
    else if 0x180 ≤ o then
      (let f := s.clusterFrac ((o - 0x180) / 4) s.bcnPeriod s.grpMask []
      (1000 * f.1 + f.2 - 1) / f.2)
    else if !v.valid then 0
    else if o = 0x108 then 1 + 2 * v.inst + 2 ^ 8 * v.grp + 2 ^ 12 * v.bcn
    else if o = 0x10C then v.budget
    else if o = 0x110 then v.charged
    else if o = 0x114 then v.last
    else if o = 0x118 ∨ o = 0x11C then half v.queues.toNat part
    else capBits 16 v.misses + 2 ^ 16 * capBits 16 v.exhausted
  | 6 =>
    let m (n : Nat) : Option Mover := s.movers.find? fun m => m.bmv == n
    let n := (o - 0x110) / 0x10
    if o = 0x100 then bitMask 4 fun n => (m n).isSome
    else if 0x110 ≤ o ∧ o < 0x150 ∧ o % 16 = 0 then (match m n with | some c => c.hwq + 2 ^ 31 | none => 0)
    else if 0x110 ≤ o ∧ o < 0x150 ∧ o % 16 = 4 then (match m n with | some c => capBits 32 (c.issued / 1024) | none => 0)
    else if o = 0x15C then (if s.reg 0x4100 = 1 then bitsOf (s.reg 0x4110).toNat 0 9 + 2 ^ 12 * 0x400 else 0)
    else own
  | _ => own

/-- A QDESC entry. -/
def State.viewQdesc (s : State) (h o part : Nat) : Nat :=
  let q := s.queue h
  let f := q.frames.head?
  if q.st = .free then 0
  else if o < 0x08 then half q.base.toNat part
  else if o = 0x08 then q.log2 + 2 ^ 8 * b2n q.user + 2 ^ 9 * q.band + 2 ^ 12 * q.cgrp + 2 ^ 16 * q.inst + 2 ^ 24 * q.loc
  else if o = 0x0C then q.doneVec + 2 ^ 4 * q.faultVec + 2 ^ 8 * b2n q.doneEn + 2 ^ 9 * b2n q.faultEn
  else if o = 0x10 then q.presets.toNat
  else if o = 0x14 then
    qstCode q.st + 8 * b2n (s.busyOf h) + 16 * b2n (s.frontWaits h) + 32 * b2n q.pred + 2 ^ 6 * q.loops.length + 2 ^ 9 * q.frames.length +
      2 ^ 16 * (if q.st = .faulted then q.faultCode.toNat else 0)
  else if o = 0x18 then q.head.toNat
  else if o = 0x1C then q.tail.toNat
  else if o = 0x20 then q.fetchPtr.toNat
  else if o = 0x24 then q.faultInfo.toNat
  else if o = 0x28 ∨ o = 0x2C then (match f with | some f => half f.addr part | none => 0)
  else if o = 0x30 then (match f with | some f => f.len - f.pos | none => 0)
  else if o = 0x34 then q.cmdDone.toNat
  else 0

/-- The BEACON page. -/
def State.viewBeacon (s : State) (o part : Nat) : Nat :=
  let b := s.beacon ((o - 0x100) / 0x20)
  let r := (o - 0x100) % 0x20
  if 0x200 ≤ o ∨ r = 0x18 ∨ r = 0x1C then (s.reg (0x20000 + o)).toNat
  else if r = 0 then b.cfg.src + 2 ^ 4 * (b.cfg.div - 1) + 2 ^ 8 * b2n b.locked + 2 ^ 9 * b2n b.lockLost
  else if r = 4 then b.cfg.period
  else if r = 8 then b.ticks.toNat
  else if r = 0xC then (BitVec.ofInt 32 b.resid).toNat
  else half b.lastTick.toNat part

/-! ### RIGGING and SYNC_VIEW (12) -/

/-- OBJ_VALUE, and a word of SYNC_DIRECT (R584). -/
def objValue (o : SyncObj) : Nat :=
  if o.type = 2 then o.value else if o.type = 1 then o.gen.toNat + 2 ^ 16 * (o.value % 2 ^ 12) else 0

/-- OBJ_CFG without ALLOCATED. -/
def State.objCfg (s : State) (i : Nat) : Nat :=
  let o := s.obj i
  o.type + 2 ^ 4 * b2n o.cadence + 2 ^ 8 * o.beacon + 2 ^ 12 * b2n o.notify + 2 ^ 13 * b2n o.forced + 2 ^ 16 * capBits 11 (s.waitersOf i).length

/-- The RIGGING main page. -/
def State.viewRigging (s : State) (o : Nat) : Nat :=
  let i := bitsOf (s.reg 0x180104).toNat 0 14
  let x := s.obj i
  if o = 0x100 then s.sync.blocks.length + 2 ^ 16 * capBits 11 s.sync.waiters.length
  else if o = 0x108 then s.objCfg i + 2 ^ 31 * b2n (tblFind (i / 64) s.sync.blocks).isSome
  else if o = 0x10C then objValue x
  else if o = 0x110 then x.limit
  else if o = 0x114 then x.realign
  else if o = 0x118 then (BitVec.ofInt 32 x.drift).toNat
  else if o = 0x11C then capBits 16 x.unders + 2 ^ 16 * capBits 16 x.overs
  else (s.reg (0x180000 + o)).toNat

/-- A word of the block map. -/
def State.viewBlock (s : State) (b : Nat) : Nat :=
  match tblFind b s.sync.blocks with | some (k, o) => k % 128 + 2 ^ 8 * o + 2 ^ 31 | none => 0

/-- A SYNC_VIEW page. -/
def State.viewSync (s : State) (k o : Nat) : Nat :=
  let own := (s.reg (svBase k + o)).toNat
  let x := s.syncIndex k (bitsOf (s.reg (svBase k + 0x100)).toNat 0 14)
  if 0x104 ≤ o ∧ o ≤ 0x114 then
    match x with
    | none => 0
    | some i =>
      let v := s.obj i
      let c := s.objCfg i
      if o = 0x104 then 1 + 2 * v.type + c / 16 * 16
      else if o = 0x108 then objValue v
      else if o = 0x10C then v.limit
      else if o = 0x110 then (BitVec.ofInt 32 v.drift).toNat
      else capBits 16 v.unders + 2 ^ 16 * capBits 16 v.overs
  else if o = 0x12C then (s.reg (0x180200 + 4 * k)).toNat
  else if 0x140 ≤ o ∧ o < 0x160 then bitMask 32 fun b => s.sync.blocks.any fun (_, p) => p == (k, 32 * ((o - 0x140) / 4) + b)
  else own

/-! ### YARD_n pages (13, 14) -/

/-- CTX_STATE_s of a cluster. -/
def State.ctxState (s : State) (n slot : Nat) : Nat :=
  match (s.resident n).find? fun x => x.2.slot == slot with
  | none => 0
  | some (i, c) =>
    let h := match tblFind i s.launches with | some l => l.hwq | none => 0
    ctxCode c.st + 2 ^ 4 * s.bandOf i + 2 ^ 8 * s.launchInst i + 2 ^ 16 * h + 2 ^ 28 * c.gran

/-- A SEQ page. -/
def State.viewSeq (s : State) (n o : Nat) : Nat :=
  let c := s.cluster n
  let slot := match c.run with | some i => (match s.ctx i n with | some x => x.slot | none => 0) | none => 0
  if o = 0x100 then
    (if c.reefed then 2 else if c.run.isSome then 1 else 0) + 2 ^ 4 * (s.resident n).length + 2 ^ 8 * slot + 2 ^ 12 * s.spUsed n + 2 ^ 16 * b2n c.staging
  else if 0x110 ≤ o ∧ o < 0x120 then s.ctxState n ((o - 0x110) / 4)
  else (s.reg (yardBase n + o)).toNat

/-- A CCC page: EXECUTING while a context runs and does not stand at a port, in a wait or at a yield point. -/
def State.viewCcc (s : State) (n o : Nat) : Nat :=
  if o = 0x100 then
    match (s.cluster n).run with
    | none => 0
    | some i => match s.ctx i n with
      | none => 0
      | some c =>
        let stalled := c.stall.isSome || c.st == .spinning
        b2n (c.st == .running && !stalled && !c.atYield) + 2 * b2n stalled + 4 * b2n c.atYield + 2 ^ 8 * c.slot
  else (s.reg (yardBase n + 0x1000 + o)).toNat

/-- A TE, VU or CDMA page. WAITING is set while the front descriptor waits for its local event counter. -/
def State.viewEng (s : State) (n e o : Nat) : Nat :=
  if o = 0x100 then
    let c := match (s.cluster n).run with | some i => s.ctx i n | none => none
    match c with
    | none => b2n (s.engBusy n e)
    | some c =>
      let p := portOf c e
      let wait := match portFront p with | some d => p.run.isNone && !levReady c d.ws | none => false
      b2n (s.engBusy n e) + 2 ^ 8 * min 32 p.fifo.length + 2 ^ 16 * b2n p.chain + 2 ^ 17 * b2n wait
  else (s.reg (engBase n e + o)).toNat

/-- A CMEM page. -/
def State.viewCmem (s : State) (n o : Nat) : Nat :=
  let g := s.granMap n
  let word (lo k : Nat) : Nat := ((List.range k).map fun i => 16 ^ i * (g.getD (lo + i) 0 % 16)).sum
  if o = 0x100 then s.l1Grans n + 2 ^ 8 * b2n (s.cluster n).staging
  else if o = 0x104 then word 0 8
  else if o = 0x108 then word 8 4
  else (s.reg (yardBase n + 0x8000 + o)).toNat

/-! ### DMMU, L2, HBM (14) -/

/-- The DMMU main page: a step is whole, so no walk is in progress between steps. -/
def State.viewDmmu (s : State) (o part : Nat) : Nat :=
  if o = 0x100 then 2 ^ 8 * b2n (s.cmds.any fun c => c.work == .inval)
  else if o = 0x118 then (s.reg (0x1A0118 + 4 * part)).toNat
  else (s.reg (0x1A0000 + o)).toNat

/-- The address-space entry of an instance. -/
def State.viewAspace (s : State) (k o part : Nat) : Nat :=
  if o < 8 then half (s.inst k).root.toNat part else if o = 8 then (s.slotList k).length else 0

/-- SL_ECC of the selected slice: where it is kept. -/
def State.sliceEccKey (s : State) : Nat := 0x1B0800 + 4 * bitsOf (s.reg 0x1B0100).toNat 0 5

/-- The HBM page. -/
def State.viewHbm (s : State) (o part : Nat) : Nat :=
  if o = 0x100 then s.pw.hbmTrained % 16 + 16 * (s.pw.selfRefresh % 16)
  else if o = 0x118 then 65536 * s.trim.patrol / hbmUnits % 65536 + 2 ^ 16 * capBits 16 s.trim.patrolPasses
  else if o = 0x110 then (s.reg (0x1C0110 + 4 * part)).toNat
  else (s.reg (0x1C0000 + o)).toNat

/-! ### SCANOUT (15) -/

/-- The SCANOUT main page. -/
def State.viewScan (s : State) (o : Nat) : Nat :=
  if o = 0x104 then
    (s.port 0).route + 2 ^ 4 * (s.port 1).route + 2 ^ 8 * b2n (s.port 0).restarting + 2 ^ 9 * b2n (s.port 1).restarting
  else (s.reg (0x1D0000 + o)).toNat

/-- A HEAD page. -/
def State.viewHead (s : State) (d o part : Nat) : Nat :=
  let v := s.head d
  if o = 0x118 then
    b2n v.scanning + 2 * b2n v.modeErr + 4 * b2n v.hold + 8 * b2n v.pend.isSome +
      (match v.owner with | some k => 2 ^ 8 * (k % 128) + 2 ^ 15 | none => 0)
  else if o = 0x11C then v.share
  else if o = 0x120 ∨ o = 0x124 then half v.frameCtr.toNat part
  else if o = 0x128 ∨ o = 0x12C then half v.vblank.toNat part
  else if o = 0x130 then v.lastCrc.toNat
  else if o = 0x134 then (match v.cur with | some f => f.crc.toNat | none => 0)
  else if o = 0x138 then (match v.cur with | some f => b2n f.crcValid + 2 ^ 4 * (f.format % 16) + 2 ^ 16 * (f.hwq % 1024) | none => 0)
  else if o = 0x150 then (match v.rcpt with | some r => 1 + 2 ^ 16 * capBits 16 r.n | none => 0)
  else if o = 0x160 then b2n (v.cap == 1)
  else if o = 0x164 then v.cap
  else if o = 0x168 then (s.reg (headBase d + 0x168 + 4 * part)).toNat
  else if o = 0x178 ∨ o = 0x17C then half v.capBytes.toNat part
  else if o = 0x184 then b2n v.bank
  else if o = 0x18C then
    let x := (s.reg (headBase d + 0x188)).toNat
    s.lutAt d (bitsOf x 12 1) (bitsOf x 10 2) (bitsOf x 0 10)
  else (s.reg (headBase d + o)).toNat

/-- A DP page. -/
def State.viewDp (s : State) (d o : Nat) : Nat :=
  let v := s.port d
  if o = 0x108 then b2n v.trained + 2 * b2n v.training + 4 * b2n v.fail + 2 ^ 4 * (v.rate % 8) + 2 ^ 8 * (v.lanes % 4)
  else if o = 0x10C then b2n v.hpd + 2 ^ 8 * capBits 8 v.irqs
  else (s.reg (0x1D3000 + 0x1000 * d + o)).toNat

/-! ### PCIE_CTL (04, 08) -/

/-- The PCIE_CTL page. -/
def State.viewPcie (s : State) (o part : Nat) : Nat :=
  let p := s.pcie
  let v := s.session ((o - 0x610) / 0x20)
  let r := (o - 0x610) % 0x20
  if o = 0x100 then (if p.linkUp then p.rate + 2 ^ 3 * p.width + 2 ^ 8 * b2n p.flit + 2 ^ 9 else 0)
  else if o = 0x10C then
    match p.stall with
    | .normal => 0
    | .creditWait => 1 + 2 ^ 16 * capBits 16 ((s.ck.gtime - p.stallStart).toNat / 1000000)
    | .linkStall => 2 + 2 ^ 16 * capBits 16 ((s.ck.gtime - p.stallStart).toNat / 1000000)
  else if o = 0x120 then ((List.range 4).map fun i => 4 ^ i * (p.ide.getD i 0 % 4)).sum + 2 ^ 8 * capBits 8 p.ideFails
  else if o = 0x600 then bitMask 8 fun i => (s.session i).active
  else if 0x610 ≤ o then
    if !v.active then 0
    else if r = 0 then v.inst + 2 ^ 8 + 2 ^ 9 * b2n v.host + 2 ^ 10 * b2n v.dev + 2 ^ 12 * (v.wins.length - 1)
    else if r = 4 then capBits 32 v.marksH.length
    else if r = 8 then capBits 32 v.marksD.length
    else if r = 0xC then capBits 32 v.missed
    else half v.harvest.toNat part
  else (s.reg (0x1E0000 + o)).toNat

/-! ### Instances (07) and their windows -/

/-- Slots that wait for scrub or are being scrubbed. -/
def State.scrubCount (s : State) : Nat := (s.slots.filter fun (_, v) => v.scrub != .clean).length

/-- Tenant-pool slots with no owner and no scrub outstanding. -/
def State.freeSlots (s : State) : Nat := ((List.range 384).filter fun n => s.inPool n && (s.slot n == slotFree)).length

/-- STATE of an instance (R306, R311). -/
def State.instState (s : State) (k : Nat) : Nat :=
  let i := s.inst k
  stCode i.st + 2 ^ 4 * (i.cause % 16) + 2 ^ 16 * capBits 16 i.trans

/-- The words of an instance entry that the INST page repeats, by their offset in the entry. -/
def State.instWord (s : State) (k o : Nat) : Nat :=
  let i := s.inst k
  let mine := s.slots.filter fun (_, v) => v.owner == some k
  if o = 0 then s.instState k
  else if o = 0x08 then i.maxQ + 2 ^ 8 * s.queuesHeld k
  else if o = 0x0C then i.maxSync + 2 ^ 16 * s.blocksHeld k
  else if o = 0x10 then i.htab
  else if o = 0x14 then i.maxRes + 2 ^ 8 * s.resvsHeld k + 2 ^ 16 * bitMask 2 fun d => (s.head d).owner == some k
  else if o = 0x18 then mine.length + 2 ^ 16 * (mine.filter fun (_, v) => slotPending v).length
  else if o = 0x1C then i.rights.toNat
  else if o = 0x20 then capBits 16 i.faults + 2 ^ 16 * i.lastFault.toNat
  else (s.reg (0x1F1000 + 64 * k + o)).toNat

/-- The INSTANCE main page. -/
def State.viewInstTab (s : State) (o : Nat) : Nat :=
  let cnt (p : Inst → Bool) : Nat := ((List.range 128).filter fun k => p (s.inst k)).length
  let sum (f : Inst → Nat) : Nat := ((List.range 128).map fun k => f (s.inst k)).sum
  if o = 0x100 then cnt (·.st != .unassigned) + 2 ^ 8 * cnt (·.st == .faulted) + 2 ^ 16 * s.freeSlots
  else if o = 0x104 then sum (·.maxQ) + 2 ^ 16 * sum (·.maxSync)
  else if o = 0x108 then sum (·.maxRes)
  else if 0x110 ≤ o ∧ o < 0x120 then bitMask 32 fun b => (s.inst (32 * ((o - 0x110) / 4) + b)).st == .active
  else if 0x120 ≤ o ∧ o < 0x130 then bitMask 32 fun b => (s.inst (32 * ((o - 0x120) / 4) + b)).st == .faulted
  else if o = 0x180 then s.scrubCount
  else (s.reg (0x1F0000 + o)).toNat

/-- A byte of the slot-owner array (07). -/
def State.slotByte (s : State) (n : Nat) : Nat :=
  match (s.slot n).owner with
  | some k => 2 ^ 7 + k % 128
  | none => if !s.inPool n then 0x7F else if (s.slot n).scrub = .clean then 0 else 0x7E

/-- An INST page. -/
def State.viewInst (s : State) (k o : Nat) : Nat :=
  if o = 0x100 then k % 128 + 2 ^ 7 * b2n (k == 0)
  else if o = 0x104 then s.instWord k 0
  else if o = 0x108 then s.instWord k 0x08
  else if o = 0x10C then s.instWord k 0x0C
  else if o = 0x110 then s.instWord k 0x14
  else if o = 0x114 then s.instWord k 0x18
  else if o = 0x118 then s.instWord k 0x1C
  else (s.reg (instWin k + o)).toNat

/-- A DOORBELL register (R392). -/
def State.viewDoorbell (s : State) (k q part : Nat) : Nat :=
  match s.hwqOf k q with
  | none => 0
  | some h =>
    let v := s.queue h
    if part = 0 then v.head.toNat else qstCode v.st + 2 ^ 16 * (if v.st = .faulted then v.faultCode.toNat else 0)

/-- A BRIANE page. -/
def State.viewBrn (s : State) (k o : Nat) : Nat :=
  let b := s.ringsOf k
  if o = 0x108 then
    ringCode b.st + (if b.st = .opened then 2 ^ 8 * b.min + 2 ^ 16 * b.maj else 0) + 2 ^ 24 * (if b.st = .rejected then 14 else 0)
  else if o = 0x10C then s.fw.verMin.toNat + 2 ^ 16 * s.fw.verMax.toNat
  else if o = 0x110 then b.reqProd.toNat
  else if o = 0x114 then b.reqCons.toNat
  else if o = 0x118 then b.rspProd.toNat
  else if o = 0x11C then b.rspCons.toNat
  else if o = 0x120 then b2n s.fw.swapping + bitsOf (s.reg (brnBase k + 0x120)).toNat 1 2 * 2 + 8 * b2n b.long.isSome
  else (s.reg (brnBase k + o)).toNat

/-! ### The debug region (05) -/

/-- DBG_INFO. -/
def State.viewDbg (s : State) (o : Nat) : Nat :=
  if o = 0 then
    b2n (s.dbgOpen 0) + 2 * b2n (s.dbgOpen 1) + 4 * b2n (s.dbgOpen 2) + 8 * b2n Config.debugDisable +
      2 ^ 8 * (s.sec.dbgSlot % 4) + 2 ^ 16 * b2n (s.sec.halted != [])
  else (s.reg (0x200000 + o)).toNat

/-! ### All pages -/

/-- The value a register word of a location has, without the effects of reading it. -/
def State.view (s : State) (l : Loc) (part : Nat) : Nat :=
  let o := l.off
  match l.pg with
  | .clock => s.viewClock o
  | .reset => s.viewReset o
  | .gtimer => s.viewGtimer o part
  | .fuse => s.viewFuse o
  | .secMbox => s.viewMbox o
  | .trim => s.viewTrim o
  | .telem => s.viewTelem o part
  | .fcol => s.viewFcol o
  | .brianePf => s.viewBrianePf o part
  | .logtrace => s.viewLog o
  | .mh i => s.viewMh i o part
  | .beacon => s.viewBeacon o part
  | .qdesc => s.viewQdesc l.unit o part
  | .seq => s.viewSeq l.unit o
  | .ccc => s.viewCcc l.unit o
  | .eng e => s.viewEng l.unit e o
  | .cmem => s.viewCmem l.unit o
  | .rigging => s.viewRigging o
  | .rigMap => s.viewBlock (o / 4)
  | .syncDirect => objValue (s.obj (o / 4))
  | .dmmu => s.viewDmmu o part
  | .dmmuEnt => s.viewAspace l.unit o part
  | .l2 => if o = 0x114 then (s.reg s.sliceEccKey).toNat else (s.reg (l.base + o)).toNat
  | .hbm => s.viewHbm o part
  | .scan => s.viewScan o
  | .head => s.viewHead l.unit o part
  | .dp => s.viewDp l.unit o
  | .pcieCtl => s.viewPcie o part
  | .instTab => s.viewInstTab o
  | .instEnt => s.instWord l.unit o
  | .slotOwner => ((List.range 4).map fun b => 256 ^ b * s.slotByte (o + b)).sum
  | .dbgInfo => s.viewDbg o
  | .inst => s.viewInst l.unit o
  | .doorbell => s.viewDoorbell l.unit (o / 8) part
  | .brn => s.viewBrn l.unit o
  | .pba => bitMask 16 fun v => s.pcie.pba.contains (l.unit * 16 + v)
  | .syncView => s.viewSync l.unit o
  | .global | .prot | .msix => (s.reg (l.base + o)).toNat
  | .dbgDm | .dbgPeek | .rsvd => 0

/-- The bits of a register whose value depends on timing or traffic the model does not follow, so a read gives free bits:
cache and stream counts, latencies, busy times, the time left of a timeout, which background steps are late, and the reference
clock's measured error (with the link down and PERST_N deasserted also whether a PCIe reference clock is there). -/
def State.freeBits (s : State) (l : Loc) : Nat :=
  let all := 2 ^ 32 - 1
  match l.pg, l.off with
  | .mh 0, 0x110 | .mh 2, 0x104 | .rigging, 0x13C | .l2, 0x104 | .l2, 0x108 | .l2, 0x10C | .l2, 0x120 => all
  | .clock, 0x108 => if s.pcie.linkUp then 2 ^ 16 - 1 else if s.pw.perst ∨ !s.pw.railsUp then 0 else 2 ^ 17 - 1
  | .eng _, 0x108 | .cmem, 0x10C | .cmem, 0x110 | .cmem, 0x118 => all
  | .l2, 0x110 => 2 ^ 16 - 1
  | .trim, 0x1C0 => 2 ^ 6 - 1
  | .qdesc, 0x38 => if s.cmds.any fun c => c.hwq == l.unit then 2 ^ 16 - 1 else 0
  | _, _ => 0

end Sys2Proof.Machine
end

