-- ==== Sys2Proof/Machine/Debug.lean ====
section
/-! DEFINITION. The debug region (05): the Debug Modules of the firmware cores (R215) and the HBM window (R216). The registers of a
module and the fields of its abstract commands are those of version 0.13.2 of the RISC-V debug specification, which R215 names. -/

set_option Elab.async false
namespace Sys2Proof.Machine

/-! ### Debug Modules (R215) -/

/-- The Debug Module of core `c`: 0 SEC, 1 PWR, 2 SCH, 3 + n CCC_n. -/
def State.dm (s : State) (c : Nat) : Dm := tblGet dmReset c s.sec.dms
/-- Replace a Debug Module. -/
def State.setDm (s : State) (c : Nat) (d : Dm) : State := { s with sec := { s.sec with dms := tblSet dmReset c d s.sec.dms } }
/-- Whether a core has been released from reset. -/
def State.coreOn (s : State) (c : Nat) : Bool := if c = 0 then s.pw.pllOn && !s.pw.safe else s.fwOn

/-- The context that the CCC of a cluster runs. -/
def State.cccCtx (s : State) (n : Nat) : Option (Nat × Ctx) :=
  match (s.cluster n).run with
  | some i => (s.ctx i n).map fun c => (i, c)
  | none => none

/-- Halt a core, or let it go on. -/
def State.setHalt (s : State) (c : Nat) (on : Bool) : State :=
  { s with sec := { s.sec with halted := if on then addNat c s.sec.halted else s.sec.halted.filter (· != c) } }

/-- One instruction of a halted core (R215): of a CCC its running context's next; the firmware's own cores are no state of the model. -/
def State.stepCore (s : State) (c : Nat) : State :=
  if c < 3 then s else ((s.setHalt c false).cccStep (c - 3)).setHalt c true

/-- A register of a halted core by its number: a CCC's registers are its running context's; any other register is open. -/
def State.coreReg (s : State) (c r : Nat) : W :=
  if r = 0x7B0 then BitVec.ofNat 32 (0x40000003 + 4 * b2n (s.dm c).step)
  else match (if c < 3 then none else s.cccCtx (c - 3)) with
    | some (_, x) =>
      if r = 0x1000 then 0
      else if 0x1000 < r ∧ r < 0x1020 then x.xregs.getD (r - 0x1000) 0
      else if r = 0x7B1 then x.pc
      else if r = 0xC00 then x.cycle.truncate 32
      else if r = 0xC80 then (x.cycle >>> 32).truncate 32
      else if r = 0xC02 then x.instret.truncate 32
      else if r = 0xC82 then (x.instret >>> 32).truncate 32
      else Config.freeWord s.own.freeCtr
    | none => Config.freeWord s.own.freeCtr

/-- Write a register of a halted core. What the firmware's own registers hold is no state of the model. -/
def State.setCoreReg (s : State) (c r : Nat) (v : W) : State :=
  if r = 0x7B0 then s.setDm c { s.dm c with step := bitOf v.toNat 2 }
  else match (if c < 3 then none else s.cccCtx (c - 3)) with
    | some (i, x) =>
      if 0x1000 < r ∧ r < 0x1020 then s.setCtx (ctxKey i (c - 3)) { x with xregs := x.xregs.set (r - 0x1000) v }
      else if r = 0x7B1 then s.setCtx (ctxKey i (c - 3)) { x with pc := v }
      else s
    | none => s

/-- `n` bytes of a halted core's address map (R215, R596): a CCC's scratchpad and data SRAM are its running context's; the rest is open. -/
def State.coreMem (s : State) (c a n : Nat) : W :=
  match (if c < 3 then none else s.cccCtx (c - 3)) with
  | some (_, x) =>
    let get (t : Tbl Byte) : W := BitVec.ofNat 32 (leNat ((List.range n).map fun j => tblGet 0 (a + j) t))
    if a + n ≤ 2 ^ 20 * x.gran then get x.sp
    else if 0x10000000 ≤ a ∧ a + n ≤ 0x10004000 then
      BitVec.ofNat 32 (leNat ((List.range n).map fun j => tblGet 0 (a - 0x10000000 + j) x.sram))
    else BitVec.ofNat 32 ((Config.freeWord s.own.freeCtr).toNat % 2 ^ (8 * n))
  | none => BitVec.ofNat 32 ((Config.freeWord s.own.freeCtr).toNat % 2 ^ (8 * n))

/-- Write `n` bytes of a halted core's address map; a range without the right to write raises an exception (cmderr 3). -/
def State.setCoreMem (s : State) (c a n : Nat) (v : W) : State :=
  match (if c < 3 then none else s.cccCtx (c - 3)) with
  | some (i, x) =>
    let bs := (leBytes n v.toNat).map some
    if a + n ≤ 2 ^ 20 * x.gran then s.setCtx (ctxKey i (c - 3)) { x with sp := putBytes a bs x.sp }
    else if 0x10000000 ≤ a ∧ a + n ≤ 0x10004000 then s.setCtx (ctxKey i (c - 3)) { x with sram := putBytes (a - 0x10000000) bs x.sram }
    else s.setDm c { s.dm c with cmderr := 3 }
  | none => s

/-- A command written to a module: Access Register (type 0) and Access Memory (type 2). cmderr 2 not supported, 4 not halted. -/
def State.dmCommand (s : State) (c v : Nat) : State :=
  let d := s.dm c
  let err (e : Nat) : State := s.setDm c { d with cmderr := e }
  let size := bitsOf v 20 3
  let wr := bitOf v 16
  if d.cmderr ≠ 0 then s
  else if !s.sec.halted.contains c then err 4
  else if bitsOf v 24 8 = 0 then
    if bitOf v 18 ∨ (bitOf v 17 ∧ size ≠ 2) ∨ bitOf v 19 then err 2
    else if !bitOf v 17 then s
    else if wr then s.setCoreReg c (bitsOf v 0 16) d.data0
    else s.bumpFree.setDm c { d with data0 := s.coreReg c (bitsOf v 0 16) }
  else if bitsOf v 24 8 = 2 then
    if 2 < size ∨ bitOf v 23 then err 2
    else
      let n := 2 ^ size
      let t := if wr then s.setCoreMem c d.data1.toNat n d.data0
        else s.bumpFree.setDm c { d with data0 := s.coreMem c d.data1.toNat n }
      if bitOf v 19 ∧ (t.dm c).cmderr = 0 then t.setDm c { t.dm c with data1 := d.data1 + BitVec.ofNat 32 n } else t
  else err 2

/-- A read of register `a` of the module of core `c`. -/
def State.dmRead (s : State) (c a : Nat) : Nat :=
  let d := s.dm c
  let h := s.sec.halted.contains c
  if 18 < c then 0
  else if a = 0x10 then b2n d.active
  else if !d.active then (if a = 0x11 then 0x82 else 0)
  else if a = 0x04 then d.data0.toNat
  else if a = 0x05 then d.data1.toNat
  else if a = 0x11 then
    0x82 + 0x300 * b2n h + 0xC00 * b2n (!h && s.coreOn c) + 0x3000 * b2n (!h && !s.coreOn c) + 0x30000 * b2n d.resumeAck
  else if a = 0x16 then 2 + 2 ^ 8 * d.cmderr
  else if a = 0x40 then b2n h
  else 0

/-- A write of register `a` of the module of core `c`. -/
def State.dmWrite (s : State) (c a : Nat) (w : W) : State :=
  let d := s.dm c
  let v := w.toNat
  if 18 < c then s
  else if a = 0x10 then
    if !bitOf v 0 then s.setDm c { dmReset with step := d.step }
    else if !d.active then s.setDm c { d with active := true }
    else if bitOf v 31 then (if s.coreOn c then (s.setHalt c true).setDm c { d with resumeAck := false } else s)
    else if bitOf v 30 ∧ s.sec.halted.contains c then
      (if d.step then s.stepCore c else s.setHalt c false) |> fun s => s.setDm c { d with resumeAck := true }
    else s
  else if !d.active then s
  else if a = 0x04 then s.setDm c { d with data0 := w }
  else if a = 0x05 then s.setDm c { d with data1 := w }
  else if a = 0x16 then s.setDm c { d with cmderr := if bitsOf v 8 3 = 7 then 0 else d.cmderr &&& (7 - bitsOf v 8 3) }
  else if a = 0x17 then s.dmCommand c v
  else s

/-- JTAG_DMI_ACCESS (R210, R215): a read, or a write, of DMI address 0x80 * c + a. DMI acts as BYPASS unless scope bit 1 is open, and the
modules answer only while scope bit 2 is open too. -/
def execJtagDmiAccess (addr : Nat) (wr : Option (BitVec 32)) (s : State) : Host.Outcome State Fault Refusal :=
  .next (if !s.dbgOpen 1 then s
    else if !s.dbgOpen 2 ∨ s.parked then s.answer (leBytes 4 0) 0
    else match wr with
      | some w => (s.dmWrite (addr / 128) (addr % 128) w).answer [] 0
      | none => s.answer (leBytes 4 (s.dmRead (addr / 128) (addr % 128))) 0)

/-! ### HBM_PEEK (R216) -/

/-- The HBM physical address an offset of the window reaches, or none where the access is denied. -/
def State.peekAddr (s : State) (o n : Nat) : Option Nat :=
  let pa := 2 ^ 20 * (s.reg 0x200004).toNat + o
  if 384 * 2 ^ 28 < pa + n ∨ s.inSecCarve (pa / 2 ^ 28) then none else some pa

/-- A read through the window. The bytes of a poisoned unit are open. -/
def State.peekRead (s : State) (o n : Nat) (err : Option (Nat × Bool)) : List Byte × State :=
  match s.peekAddr o n with
  | none => (List.replicate n 0, s.count 0x200008)
  | some pa =>
    let s := s.eccFind (match err with | some e => some e | none => s.flipAt pa n) false
    if (s.poisonAt pa n).isSome then s.drawBytes n else (s.memBytes pa n, s)

/-- A write through the window: it marks dirty-log granules as any writer does (R348). -/
def State.peekWrite (s : State) (o : Nat) (bs : List (Option Byte)) : State :=
  match s.peekAddr o bs.length with
  | none => s.count 0x200008
  | some pa => s.devWriteMask pa bs

end Sys2Proof.Machine
end

