-- ==== Sys2Proof/Machine/Access.lean ====
section
/-! DEFINITION. Register accesses (02): which accesses reach a page (R60, R80, R108, R126, R139, R196 to R202, R214, R306, R769), the
common header (R30 to R46), and reads (R54, R56 to R58). -/

set_option Elab.async false
namespace Sys2Proof.Machine

/-! ### The gate -/

/-- What becomes of an access before it reaches a register: it reaches its page, it completes with no effect (reads zero), no block
occupies the offset (R80), the ACT refuses it (R60), or the PCIe controller does not let it in: answered with Unsupported Request, or it
cannot be made at all. -/
inductive Gate
  | go (l : Loc)
  | quiet
  | unmapped
  | denied (l : Loc)
  | ur
  | none
deriving DecidableEq, Repr

/-- The offset of an access in the register file's numbering: agent 1 works in its own instance window (R200), every other agent in
PF BAR 0. -/
def accessAddr (ag : Agent) (o : Nat) : Option Nat :=
  if ag.code = 1 then (if o < 0x10000 ∧ 0 < ag.idx ∧ ag.idx < 128 then some (instWin ag.idx + o) else none)
  else if o < 0x4000000 ∧ ag.code < 8 then some o else none

/-- The function a host access names: the PF for agent 0, the VF for agent 1. -/
def hostFn (ag : Agent) : Nat := if ag.code = 1 then ag.idx else 0

/-- Whether the ACT grants an agent a region (R199, R200). -/
def State.actGrants (s : State) (ag : Agent) (region unit : Nat) (write : Bool) : Bool :=
  let rights := bitOf (s.reg (0x4200 + 4 * region)).toNat (2 * ag.code + b2n write)
  rights && decide (region < 48) &&
    (if ag.code = 1 then region == 47 && unit == ag.idx
     else if ag.code = 6 then !decide (22 ≤ region ∧ region ≤ 37) || region - 22 == ag.idx
     else ag.code != 7 || s.dbgAny)

/-- Whether the pages of BAR 0 that answer in the safe state hold an access (R769). -/
def safeOpen (l : Loc) (write : Bool) : Bool :=
  if write then l.pg == .fcol && (l.off == 0x108 || l.off == 0x110 || l.off == 0x140)
  else l.pg == .global || l.pg == .reset || l.pg == .fcol

/-- Whether an area of the debug region is reachable (R214). -/
def State.areaOpen (s : State) (pg : Pg) : Bool :=
  match pg with
  | .dbgInfo | .dbgPeek => s.dbgOpen 0
  | .dbgDm => s.dbgOpen 0 && s.dbgOpen 2
  | _ => true

/-- Whether an instance window lets an access in (R306, R308, R139). -/
def State.windowOpen (s : State) (l : Loc) (write : Bool) : Bool :=
  match (s.inst l.unit).st with
  | .unassigned | .resetting => false
  | .faulted => !(write && l.pg == .inst)
  | .shadowed => !(write && l.pg == .syncView)
  | _ => true

/-- The gate of an access of an agent at an offset. -/
def State.gate (s : State) (ag : Agent) (o : Nat) (write : Bool) : Gate :=
  match accessAddr ag o with
  | .none => .none
  | some a =>
    if !s.pw.railsUp ∨ s.pw.perst ∨ (ag.code < 2 ∧ !s.pcie.linkUp) then .none
    else if ag.code < 2 ∧ !s.memOpen (hostFn ag) then (if s.fnSeen (hostFn ag) then .ur else .none)
    else if s.parked ∧ write then .quiet
    else match locate a with
      | .none => if s.pw.safe then .quiet else .unmapped
      | some l =>
        if s.pw.safe then (if safeOpen l write then .go l else .quiet)
        else if ag.code < 2 ∧ (s.fn (hostFn ag)).flr ∧ ag.code = 1 then .quiet
        else if s.reg 0x4100 = 0 then
          (if ag.code = 3 ∨ (ag.code = 0 ∧ (l.pg = .global ∨ l.pg = .reset)) then .go l else .quiet)
        else if !s.actGrants ag l.region l.unit write then .denied l
        else if l.region = 47 ∧ !s.windowOpen l write then .quiet
        else if !s.areaOpen l.pg then .quiet
        else .go l

/-- A refused access is counted and captured (R202). -/
def State.actDenied (s : State) (ag : Agent) (region : Nat) (write : Bool) : State :=
  let ev := region % 64 + 64 * b2n write + 128 * ag.code + 1024 * (ag.idx % 128)
  let s := (s.count 0x4124).capture31 0x4120 ev
  if ag.code = 2 then s else s.raise 0x0703 (.agent ag.code ag.idx) none 0x4000 ev

/-! ### The common header -/

/-- The hidden flag that a soft reset of a page is in progress (R35), at an address no register has. -/
def softKey (base : Nat) : Nat := base + 9

/-- Whether a page's BLK_CTRL.ENABLE reads 1. -/
def State.blkEnabled (s : State) (l : Loc) : Bool :=
  match l.pg with
  | .head => (s.head l.unit).enabled
  | .dp => (s.port l.unit).powered
  | _ => true

/-- BLK_STATUS.BUSY (R35, R68): a soft reset in progress, or work of the block. -/
def State.blkBusy (s : State) (l : Loc) : Bool :=
  let n := l.unit
  (tblGet (0 : W) (softKey l.base) s.regs != 0) ||
    match l.pg with
    | .head => (s.head n).scanning
    | .dp => (s.port n).training || (s.port n).aux
    | .eng e => s.engBusy n e
    | .ccc => (s.cluster n).run.isSome
    | .seq => s.resident n != []
    | .cmem => (s.cluster n).staging
    | .secMbox => s.sec.mbox.isSome
    | .mh 6 => s.movers != []
    | .dmmu => s.cmds.any fun c => c.work == .inval
    | .rigging => s.sync.fifo != []
    | _ => false

/-- Whether a page is locked (R40). -/
def State.blkLocked (s : State) (l : Loc) : Bool := l.pg.hasHeader && bitOf (s.reg (l.base + 0x1C)).toNat 0

/-- The interrupt causes a page has: the four common ones and those of its chapter. -/
def Pg.causeMask : Pg → Nat
  | .pcieCtl => 0x1F0F
  | .beacon => 0xFFFF0F
  | .rigging => 0xF0F
  | .syncView | .brn | .brianePf | .secMbox | .scan | .mh 5 | .mh 6 | .dmmu => 0x30F
  | .trim => 0xF0F
  | .fcol => 0x3F0F
  | .head => 0x7F0F
  | .dp => 0x1F0F
  | .instTab | .inst => 0x70F
  | .mh 0 | .mh 1 | .mh 2 | .mh 4 | .l2 | .hbm | .cmem | .seq => 0x10F
  | _ => 0xF

/-- A register of the common header (R30). -/
def State.header (s : State) (l : Loc) : Nat :=
  let own := (s.reg (l.base + l.off)).toNat
  match l.off with
  | 0x00 => (blkId l).toNat
  | 0x04 => 0x100
  | 0x08 => b2n (s.blkEnabled l) + own / 4 % 4 * 4
  | 0x0C => b2n (s.blkBusy l) + 4 * b2n (s.blkLocked l) + own / 8 % 4 * 8
  | 0x10 | 0x14 | 0x1C | 0x20 => own
  | _ => 0

/-! ### Reads -/

/-- Whether a register lies in the expert region of a page that has one (R27, R51). -/
def Loc.expert (l : Loc) : Bool := l.pg.hasHeader && !l.pg.isInst && decide (0x400 ≤ l.off ∧ l.off < 0xC00)

/-- The key of a captured high word: the register and the reading agent (R58). -/
def wideKey (a : Nat) (ag : Agent) : Nat := 2048 * a + 128 * ag.code + ag.idx % 128

/-- Clear an RC register that has been read (R56). -/
def State.readClear (s : State) (l : Loc) : State :=
  if l.pg = .l2 ∧ l.off = 0x114 then s.clearReg s.sliceEccKey else s.clearReg (l.base + l.off)

/-- The value of a register word with its open bits filled in by free ones. -/
def State.viewFree (s : State) (l : Loc) (part : Nat) : Nat × State :=
  let v := s.view l part
  let m := s.freeBits l
  if m = 0 then (v, s)
  else ((BitVec.ofNat 32 v &&& ~~~(BitVec.ofNat 32 m) ||| (s.drawWord.1 &&& BitVec.ofNat 32 m)).toNat, s.drawWord.2)

/-- Both words of a 64-bit register as a read finds them: RNG_DATA draws (R236). -/
def State.wideValue (s : State) (l : Loc) (avail : Bool) : Nat × Nat × State :=
  if l.pg = .secMbox ∧ l.off = 0x110 then
    match s.rngData avail with | (v, s) => (half v 0, half v 1, s)
  else (s.view l 0, s.view l 1, s)

/-- A 32-bit read that has reached its page (R47, R54, R56, R58). `avail` says whether DRBG output is available within 1 µs. -/
def State.readLoc (s : State) (ag : Agent) (l : Loc) (avail : Bool) : Nat × State :=
  if l.pg = .dbgDm then (if l.off < 0x200 then s.dmRead l.unit (l.off / 4) else 0, s)
  else if l.pg = .dbgPeek then match s.peekRead l.off 4 .none with | (d, s) => (leNat d, s)
  else if l.pg.hasHeader ∧ l.off < 0x100 then (s.header l, s)
  else match l.row with
    | .none => (0, s)
    | some (r, p) =>
      if r.acc = .wo then (0, s)
      else if l.expert ∧ !s.levelOf l.base then ((l.resetVal r p).toNat, s)
      else if r.wide then
        let lo := { l with off := l.off - 4 * p }
        let k := wideKey (lo.base + lo.off) ag
        if p = 0 then match s.wideValue lo avail with
          | (a, b, s) => (a, { s with capture := tblPut k (BitVec.ofNat 32 b) s.capture })
        else match tblFind k s.capture with
          | some v => (v.toNat, { s with capture := tblErase k s.capture })
          | .none => match s.wideValue lo avail with | (_, b, s) => (b, s)
      else match s.viewFree l p with
        | (v, s) => (v, if r.acc = .rc then s.readClear l else s)

/-- The words from an offset on that a read asks for, each as its page gives it. -/
def State.readWords (s : State) (ag : Agent) (o : Nat) (avail : Bool) : Nat → List Byte × State
  | 0 => ([], s)
  | n + 1 =>
    match (match s.gate ag o false with
      | .go l => if s.parked then ((s.readLoc ag l avail).1, s) else s.readLoc ag l avail
      | _ => (0, s)) with
    | (v, s) => match s.readWords ag (o + 4) avail n with
      | (bs, s) => (leBytes 4 v ++ bs, s)

/-- A read of an agent is answered with its data (R59): 32 bits, or 64 bits as one read (R58). An access that nothing or nobody may
answer reads zero and is counted once. In PARKED a read leaves the state alone (R126). -/
def State.regRead (s : State) (ag : Agent) (o : Nat) (wide avail : Bool) : State :=
  let n := 1 + b2n wide
  match s.gate ag (o / 4 * 4) false with
  | .none => s
  | .ur => (s.aerLog (hostFn ag) 20).answer [] 1
  | .unmapped => s.unmapped.answer (List.replicate (4 * n) 0) 0
  | .denied l => (s.actDenied ag l.region false).answer (List.replicate (4 * n) 0) 0
  | .quiet => s.answer (List.replicate (4 * n) 0) 0
  | .go _ => match s.readWords ag (o / 4 * 4) avail n with
    | (bs, s) => s.answer bs 0

end Sys2Proof.Machine
end

