-- ==== Sys2Proof/Machine/Regs.lean ====
section
/-! DEFINITION. Register writes (02): the checks of a write in order (R40, R42, R47, R53, R55, R68 to R70, R73, R76), the common header
(R34 to R49), and what a write of each register does. -/

set_option Elab.async false
namespace Sys2Proof.Machine

/-! ### Reports -/

/-- The page whose status a refused write of a location sets: entries of the instance table report in its main page. -/
def Loc.page (l : Loc) : Nat := if l.pg = .instEnt then 0x1F0000 else l.base

/-- A reserved encoding (R53); the debug region has no status bits, only the capture. -/
def State.rsvdAt (s : State) (a : Nat) (l : Loc) (apply : Nat) (ag : Agent) : State :=
  if l.pg.hasHeader ∨ l.pg = .instEnt then s.rsvdValue a l.page apply ag else s.captureEvent a 3 apply ag

/-! ### Expert levels (R47 to R49) -/

/-- Whether the latch event of a LAUNCH or FRAME field can come, so that a write waits for it (R63, R64). The FRAME fields of a head and
the routes are latched with the head itself. -/
def State.latchLive (s : State) (l : Loc) (r : Row) : Bool :=
  match r.apply, l.pg with
  | .launch, _ => true
  | .frame, .beacon => (s.beacon ((l.off - 0x400) / 4)).cfg.src != 0
  | .frame, .dp => (s.port l.unit).route != 0 && (s.head ((s.port l.unit).route - 1)).scanning
  | _, _ => false

/-- A register takes a value: an expert register's stays held (R49), and a LAUNCH or FRAME field waits for its event. -/
def State.store (s : State) (l : Loc) (r : Row) (v : Nat) : State :=
  let k := l.base + l.off
  let s := if s.latchLive l r then s.holdEffect k else s
  let w := BitVec.ofNat 32 (v &&& r.mask)
  if l.expert then s.setExpert k w else s.setReg k w

/-- Whether an address lies in the expert region of a page. -/
def inExpert (base a : Nat) : Bool := decide (base + 0x400 ≤ a ∧ a < base + 0xC00)

/-- LEVEL changes from 0 to 1 (R48): every held value is applied. -/
def State.levelUp (s : State) (base : Nat) : State :=
  (s.expert.filter fun (a, _) => inExpert base a).foldl (fun s (a, v) =>
    match locate a with
    | some l => (match l.row with | some (r, _) => s.store l r v.toNat | none => s)
    | none => s) s

/-- LEVEL changes from 1 to 0 (R49): the fields return to their reset values, LAUNCH and FRAME fields at their events. -/
def State.levelDown (s : State) (base : Nat) : State :=
  let s := (s.regs.filter fun (a, _) => inExpert base a).foldl (fun s (a, _) =>
    match locate a with
    | some l => (match l.row with | some (r, _) => if s.latchLive l r then s.holdEffect a else s | none => s)
    | none => s) s
  { s with regs := s.regs.filter fun (a, _) => !inExpert base a }

/-! ### SOFT_RESET (R34 to R37) -/

/-- What a soft reset does to a block's own state. Work in flight ends as it may (R37): whether a unit loses it is free. -/
def State.softBlock (s : State) (l : Loc) (locked : Bool) : State :=
  let n := l.unit
  match l.pg with
  | .head =>
    let s := s.headDisable n
    let v := s.head n
    s.setHead n { headReset with
      owner := v.owner, lut := if locked then v.lut else [], bank := locked && v.bank, dither := if locked then v.dither else 0 }
  | .dp =>
    let s := s.portEnable n false
    let v := s.port n
    s.setPort n { portReset with route := v.route, routePend := v.routePend, hpd := v.hpd, sdp := if locked then v.sdp else [] }
  | .cmem => s.flushL1 n
  | .seq => ((s.resident n).map (·.1)).foldl (fun s i => s.dropCtx i n) s
  | .eng e =>
    (match s.cccCtx n with
    | some (i, c) => (match s.drawBool with
      | (true, s) => s.setCtx (ctxKey i n) { c with ports := c.ports.set e portReset_ }
      | (false, s) => s)
    | none => s)
  | .ccc =>
    (match s.cccCtx n with
    | some (i, c) => (match s.drawBool with
      | (true, s) => s.stepCore (3 + n)
      | (false, s) => s.setCtx (ctxKey i n) c)
    | none => s)
  | _ => s

/-- The fields of a page that a soft reset keeps (R35): BLK_LOCK, the interrupt status, and on a locked page the locked fields. -/
def softKeeps (l : Loc) (locked : Bool) (o : Nat) : Bool :=
  o == 0x1C || o == 0x10 || (locked && (o == 0x20 || o == 0x21 ||
    (match ({ l with off := o } : Loc).row with
    | some (r, _) => decide (0x100 ≤ o ∧ o < 0xC00) && !r.exempt && (r.acc == .rw || r.acc == .wo || r.acc == .w1s)
    | none => false)))

/-- A soft reset of a page (R35, R36): BUSY reads 1 until SOFT_RESET_DONE. -/
def State.softReset (s : State) (l : Loc) : State :=
  let locked := s.blkLocked l
  let ctrl := (s.reg (l.base + 8)).toNat
  let s := (s.softBlock l locked).resetRange l.base 0x1000 (softKeeps l locked)
  let s := s.setReg (l.base + 8) (BitVec.ofNat 32 (bitsOf ctrl 2 1 * 4 + (if locked then bitsOf ctrl 3 1 * 8 else 0)))
  { s with regs := tblPut (softKey l.base) 1 s.regs }

/-- SOFT_RESET_DONE (R35): the block of a page is idle again. -/
def execSoftResetDone (base : Nat) (s : State) : Host.Outcome State Fault Refusal :=
  .next { s with regs := tblErase (softKey base) s.regs }

/-! ### The common header -/

/-- BLK_CTRL (R34, R40, R45, R48, R49, R51, R68): LEVEL, TEST_MODE, ENABLE, then SOFT_RESET. `a` is the address of the write. -/
def State.ctrlWrite (s : State) (ag : Agent) (a : Nat) (l : Loc) (v : Nat) : State :=
  let b := l.base
  let was := s.levelOf b
  if s.blkLocked l then
    let s := s.lockViol a b 0 ag
    if bitOf v 1 && l.pg.softReset && was then s.softReset l else s
  else
    let up := bitOf v 2 && !l.pg.isInst
    let s := s.setReg (b + 8) (setField (s.reg (b + 8)) 2 1 (b2n up))
    let s := if up && !was then s.levelUp b else if was && !up then s.levelDown b else s
    let s := if s.blkBusy l then s.busyDrop a b 3 ag
      else
        let s := s.setReg (b + 8) (setField (s.reg (b + 8)) 3 1 (bitsOf v 3 1))
        if bitOf v 3 then s else s.setReg (aInject b) (setField (s.reg (aInject b)) 16 1 0)
    let s := match l.pg with
      | .head => if bitOf v 0 then s.headEnable l.unit ag else s.headDisable l.unit
      | .dp => s.portEnable l.unit (bitOf v 0)
      | _ => s
    if bitOf v 1 && l.pg.softReset && (was || up) then s.softReset l else s

/-- BLK_INT_ENABLE (R39). -/
def State.intEnableWrite (s : State) (l : Loc) (v : Nat) : State :=
  (s.setReg (l.base + 0x14) (BitVec.ofNat 32 (v &&& l.pg.causeMask))).intEdge l.base (s.intNow l.base)

/-- BLK_LOCK (R42): its single write; any later one is a violation (R76). -/
def State.lockWrite (s : State) (ag : Agent) (a : Nat) (l : Loc) (v : Nat) : State :=
  if s.lockUsed.contains l.base then s.lockViol a l.base 0 ag
  else { (s.setReg (l.base + 0x1C) (BitVec.ofNat 32 (v % 2))) with lockUsed := addNat l.base s.lockUsed }

/-- The copy an injection reaches: the slice SLICE_SEL names, or the pseudo-channel INJ_SEL names (R671). -/
def State.copySel (s : State) (pg : Pg) : Nat :=
  match pg with
  | .l2 => bitsOf (s.reg 0x1B0100).toNat 0 5
  | .hbm => bitsOf (s.reg 0x1C0120).toNat 0 7
  | _ => 0

/-- INJECT (R40, R43, R44, R46): FIRED and REJECTED clear on a locked page too. -/
def State.injectWrite (s : State) (ag : Agent) (a : Nat) (l : Loc) (v : Nat) : State :=
  let k := aInject l.base
  let s := s.setReg k (s.reg k &&& ~~~(BitVec.ofNat 32 (v &&& 0x60000)))
  if s.blkLocked l then s.lockViol a l.base 0 ag
  else
    let s := s.setReg k (setField (s.reg k) 0 16 v)
    if !bitOf v 16 then s
    else if !bitOf (s.reg (l.base + 8)).toNat 3 ∨ ag.code ≠ 0 ∨ l.pg.checkers ≤ v % 256 then s.setReg k (setField (s.reg k) 18 1 1)
    else { (s.setReg k (setField (s.reg k) 16 1 1)) with
      regs := tblSet 0 (k + 1) (BitVec.ofNat 32 (s.copySel l.pg)) (s.setReg k (setField (s.reg k) 16 1 1)).regs }

/-- A write of a register of the common header (R30). -/
def State.headerWrite (s : State) (ag : Agent) (a : Nat) (l : Loc) (v : Nat) : State :=
  let clear (m : Nat) : State := s.setReg (l.base + l.off) (s.reg (l.base + l.off) &&& ~~~(BitVec.ofNat 32 (v &&& m)))
  match l.off with
  | 0x08 => s.ctrlWrite ag a l v
  | 0x0C => clear 0x18
  | 0x10 => clear 0xFFFFFFFF
  | 0x14 => s.intEnableWrite l v
  | 0x18 => s.causes l.base (v &&& l.pg.causeMask)
  | 0x1C => s.lockWrite ag a l v
  | 0x20 => s.injectWrite ag a l v
  | _ => s

/-! ### Registers that the firmware cores write (R98, R485, R747) -/

/-- A Beacon's configuration as the SCH core writes it (R485). -/
def State.fwBeacon (s : State) (o v : Nat) : State :=
  let b := (o - 0x100) / 0x20
  let c := s.bcnLatest b
  if (o - 0x100) % 0x20 = 0 then s.acceptBeacon b { c with src := bitsOf v 0 4, div := bitsOf v 4 4 + 1 }
  else if (o - 0x100) % 0x20 = 4 then s.acceptBeacon b { c with period := v }
  else s

/-- A reservation entry as the SCH core writes it (R485): the one RES_SEL names. -/
def State.fwResv (s : State) (o part v : Nat) : State :=
  let r := bitsOf (s.reg 0x14104).toNat 0 8
  let e := s.resv r
  if o = 0x108 then s.setResv r { e with valid := bitOf v 0, inst := bitsOf v 1 7, grp := bitsOf v 8 4, bcn := bitsOf v 12 3 }
  else if o = 0x10C then s.setResv r { e with budget := v }
  else if o - 4 * part = 0x118 then
    s.setResv r { e with queues := BitVec.ofNat 64 (if part = 0 then v + 2 ^ 32 * (e.queues.toNat / 2 ^ 32) else e.queues.toNat % 2 ^ 32 + 2 ^ 32 * v) }
  else s

/-- A write of a register that is read-only to every agent but the core that owns it. -/
def State.ownerWrite (s : State) (ag : Agent) (l : Loc) (part v : Nat) : State :=
  let t := s.trim
  let o := l.off
  match ag.code, l.pg with
  | 4, .clock =>
    if 0x140 ≤ o then
      (let n := (o - 0x140) / 4
      { s with ck := { s.ck with cclk := s.ck.cclk.set n { s.ck.cclk.getD n cclkReset with base := bitsOf v 16 6 } } })
    else s
  | 4, .trim =>
    if o = 0x104 then { s with trim := { t with capW := bitsOf v 0 9, boardW := bitsOf v 16 9 } }
    else if o = 0x108 then { s with trim := { t with quietW := bitsOf v 0 9, quietFan := bitsOf v 16 7 } }
    else if o = 0x10C then { s with trim := { t with floorN := bitsOf v 0 6 } }
    else if o = 0x110 then { s with ck := { s.ck with vcore := bitsOf v 0 10 } }
    else if o = 0x134 then s.setReg 0x7134 (BitVec.ofNat 32 v)
    else if 0x140 ≤ o ∧ o < 0x180 then { s with trim := { t with lendTable := t.lendTable.set ((o - 0x140) / 4) (bitsOf v 0 6) } }
    else s
  | 5, .beacon => if o < 0x200 then s.fwBeacon o v else s
  | 5, .mh 4 => s.fwResv o part v
  | 5, .qdesc =>
    if o = 8 then s.setQueue l.unit { s.queue l.unit with band := bitsOf v 9 2, cgrp := bitsOf v 12 4 } else s
  | _, _ => s

/-! ### What a write of a register does -/

/-- RESET_REQ (R133). -/
def State.resetReq (s : State) (ag : Agent) (a v : Nat) : State :=
  if bitOf v 0 ∧ bitsOf v 16 16 = 0x4C33 ∧ ag.code = 0 then s.l3Start .hostL3 else s.rsvdValue a 0x2000 0 ag

/-- HEAD_CTRL: OUT_BPC is STATIC (R673), DITHER latches at the vertical blank. -/
def State.headCtrl (s : State) (ag : Agent) (a : Nat) (l : Loc) (v : Nat) : State :=
  let k := l.base + 0x114
  let d := l.unit
  let held := (s.head d).enabled || s.blkBusy l
  let s := s.setReg k (setField (if held then s.reg k else setField (s.reg k) 0 1 v) 4 2 (v / 16))
  let s := if held then s.busyDrop a l.base 4 ag else s
  if (s.head d).enabled then s else s.setHead d { s.head d with dither := bitsOf v 4 2 }

/-- A write of a register of a HEAD page (R673, R695, R707). -/
def State.headWrite (s : State) (ag : Agent) (a : Nat) (l : Loc) (r : Row) (v : Nat) : State :=
  let d := l.unit
  let o := l.off
  if o = 0x114 then s.headCtrl ag a l v
  else if o = 0x160 then (if bitOf v 0 then s.captureArm d else s)
  else if o = 0x180 then
    (let s := s.store l r v
    if (s.head d).enabled then s else s.setHead d { s.head d with bank := bitOf v 0 })
  else if o = 0x18C then s.lutWrite d (BitVec.ofNat 32 v) ag
  else if 0x200 ≤ o ∧ s.bankBusy d (decide (0x240 ≤ o)) then s.busyDrop a l.base 0 ag
  else s.store l r v

/-- A write of a register of a DP page (R687, R688, R690). -/
def State.dpWrite (s : State) (l : Loc) (r : Row) (v : Nat) : State :=
  let d := l.unit
  let k := l.base + l.off
  match l.off with
  | 0x104 => if bitOf v 0 then s.trainStart d else s
  | 0x110 => if bitOf v 31 then (s.store l r v).auxStart d else s
  | 0x114 => s.setReg k (s.reg k &&& ~~~(BitVec.ofNat 32 (v &&& 0x100)))
  | 0x140 => (s.store l r (v % 2)) |> fun s => if bitOf v 1 then s.sdpCommit d else s
  | _ => s.store l r v

/-- A write of a register of a BRIANE page (R246, R248, R250, R258). -/
def State.brnWrite (s : State) (ag : Agent) (l : Loc) (r : Row) (v : Nat) : State :=
  let k := l.unit
  let w := BitVec.ofNat 32 v
  match l.off with
  | 0x104 => if bitOf v 0 then s.hello k ag else s
  | 0x110 => s.reqProdWrite k w ag
  | 0x11C => s.rspConsWrite k w
  | 0x120 => s.setReg (l.base + 0x120) (s.reg (l.base + 0x120) &&& ~~~(w &&& 6))
  | _ => if 0x200 ≤ l.off then s.reqRingWrite k ((l.off - 0x200) / 4) w else s.store l r v

/-- A write of a register of the SEC_MBOX page (R231). -/
def State.mboxWrite (s : State) (l : Loc) (r : Row) (v : Nat) : State :=
  match l.off with
  | 0x100 => { s with sec := { s.sec with mbox := some { cmd := bitsOf v 0 8, len := bitsOf v 8 9, answer := none } } }
  | 0x104 => s.setReg 0x6104 (s.reg 0x6104 &&& ~~~(BitVec.ofNat 32 (v &&& 1)))
  | _ => s.store l r v

/-- A 32-bit register takes an accepted write. -/
def State.applyWrite (s : State) (ag : Agent) (a : Nat) (l : Loc) (r : Row) (v : Nat) : State :=
  match l.pg with
  | .reset => if l.off = 0x110 then s.resetReq ag a v else if ag.code = 0 then s.store l r v else s
  | .secMbox => s.mboxWrite l r v
  | .beacon => if ag.code = 0 ∨ ag.code = 2 ∨ ag.code = 5 then s.store l r v else s
  | .brn => s.brnWrite ag l r v
  | .logtrace => if l.off = 0x108 then s.logSelect (BitVec.ofNat 32 v) else s.store l r v
  | .fcol => if l.off = 0x110 then s.frAck (BitVec.ofNat 32 v) ag else s.store l r v
  | .scan => if l.off = 0x100 then ((s.store l r v).routeWrite 0 (bitsOf v 0 2)).routeWrite 1 (bitsOf v 4 2) else s.store l r v
  | .head => s.headWrite ag a l r v
  | .dp => s.dpWrite l r v
  | .msix => (s.store l r v) |> fun s => if l.off % 16 = 12 then s.msixRelease l.unit else s
  | _ => s.store l r v

/-- A 64-bit register takes an accepted write (R57). `l` is the location of its low word. -/
def State.applyWide (s : State) (ag : Agent) (l : Loc) (v : Nat) : State :=
  match l.pg with
  | .doorbell => if s.pw.removing then s else s.doorbell l.unit (l.off / 8) (BitVec.ofNat 32 v)
  | .syncView => s.svOp l.unit (BitVec.ofNat 64 v) ag
  | .fcol => s.fwReport (BitVec.ofNat 64 v) ag
  | _ => (s.setReg (l.base + l.off) (BitVec.ofNat 32 v)).setReg (l.base + l.off + 4) (BitVec.ofNat 32 (v / 2 ^ 32))

/-! ### The checks of a write -/

/-- The Apply code a refused write reports: of HEAD_CTRL the lowest field's. -/
def rowCode (l : Loc) (r : Row) : Nat := if l.pg = .head ∧ l.off = 0x114 then 4 else r.apply.code

/-- Whether a register is locked (R40); once PROT_LOCK is 1 every PROT register is (R196). -/
def State.rowLocked (s : State) (l : Loc) (r : Row) : Bool :=
  (l.pg == .prot && s.reg 0x4100 == 1) ||
    (s.blkLocked l && decide (0x100 ≤ l.off ∧ l.off < 0xC00) && !r.exempt && (r.acc == .rw || r.acc == .wo || r.acc == .w1s))

/-- The single write of PROT_LOCK (R76, R196). -/
def State.wosWrite (s : State) (ag : Agent) (a : Nat) (l : Loc) (v : Nat) : State :=
  if s.lockUsed.contains (l.base + l.off) ∨ s.reg (l.base + l.off) ≠ 0 then s.lockViol a l.base 0 ag
  else { (s.setReg (l.base + l.off) (BitVec.ofNat 32 (v % 2))) with lockUsed := addNat (l.base + l.off) s.lockUsed }

/-- Whether the register accepts no write now (R68, R69): IDLE while busy, STATIC while enabled or busy. -/
def State.rowHeld (s : State) (l : Loc) (r : Row) : Bool :=
  match r.apply with
  | .idle => s.blkBusy l
  | .static => s.blkEnabled l || s.blkBusy l
  | _ => l.pg == .secMbox && l.off == 0x104 && s.blkBusy l

/-- A write of a whole register at its page: `v` is its 32 or 64 bits, `l` the location of its first word. The checks run in this order:
lock, reserved encoding, level, busy. -/
def State.writeRow (s : State) (ag : Agent) (a : Nat) (l : Loc) (r : Row) (v : Nat) : State :=
  let v := if r.wide then v else v &&& r.mask
  if r.acc = .w1s ∧ v = 0 then s
  else if s.rowLocked l r then s.lockViol a l.page (rowCode l r) ag
  else if !r.wide && reservedEnc l.pg l.off v then s.rsvdAt a l (rowCode l r) ag
  else if l.expert && !s.levelOf l.base then { s with expert := tblSet (regResetOf (l.base + l.off)) (l.base + l.off) (BitVec.ofNat 32 v) s.expert }
  else if s.rowHeld l r then s.busyDrop a l.base (if l.pg = .secMbox then 3 else r.apply.code) ag
  else if r.wide then s.applyWide ag l v
  else s.applyWrite ag a l r v

/-- A 32-bit write that has reached its page. -/
def State.writeLoc (s : State) (ag : Agent) (a : Nat) (l : Loc) (v : Nat) : State :=
  if l.pg = .dbgDm then (if l.off < 0x200 then s.dmWrite l.unit (l.off / 4) (BitVec.ofNat 32 v) else s)
  else if l.pg = .dbgPeek then s.peekWrite l.off ((leBytes 4 v).map some)
  else if l.pg.hasHeader ∧ l.off < 0x100 then s.headerWrite ag a l v
  else match l.row with
    | none => s
    | some (r, p) =>
      match r.acc with
      | .ro | .rc => s.ownerWrite ag l p v
      | .wos => s.wosWrite ag a l v
      | _ =>
        if !r.wide then s.writeRow ag a l r v
        else
          let lo : Loc := { l with off := l.off - 4 * p }
          let k := lo.base + lo.off
          if p = 0 then { s with lowWord := tblPut k (BitVec.ofNat 32 v) s.lowWord }
          else s.writeRow ag (a - 4) lo r ((match tblFind k s.lowWord with | some w => w.toNat | none => (regResetOf k).toNat) + 2 ^ 32 * v)

/-- Whether a register, which a partial write would have to cover, lies at a location (R55). -/
def hasReg (l : Loc) : Bool := l.pg == .dbgDm || l.pg == .dbgPeek || (l.pg.hasHeader && decide (l.off < 0x24)) || l.row.isSome

/-- One 32-bit write of an agent, with its byte enables as four bits (R55, R60, R80). -/
def State.regWrite32 (s : State) (ag : Agent) (o v be : Nat) : State :=
  match s.gate ag o true with
  | .go l =>
    if be = 15 then s.writeLoc ag (match accessAddr ag o with | some a => a | none => o) l (v % 2 ^ 32)
    else if be = 0 ∨ !hasReg l then s
    else if l.pg = .dbgPeek then s.peekWrite l.off ((List.range 4).map fun i => if bitOf be i then some (BitVec.ofNat 8 (v / 256 ^ i)) else none)
    else s.unmapped
  | .unmapped => if be = 0 then s else s.unmapped
  | .denied l => s.actDenied ag l.region true
  | .quiet | .ur | .none => s

/-- A write of an agent: 32 bits, or 64 bits as one write (R57); `be` holds its byte enables. -/
def State.regWrite (s : State) (ag : Agent) (o : Nat) (v be : Nat) (wide : Bool) : State :=
  if !wide then s.regWrite32 ag o v (be % 16)
  else match s.gate ag o true with
    | .go l => (match l.row with
      | some (r, p) =>
        if r.wide ∧ p = 0 ∧ be % 256 = 255 ∧ (r.acc = .rw ∨ r.acc = .wo) then
          let s := { s with lowWord := tblPut (l.base + l.off) (BitVec.ofNat 32 v) s.lowWord }
          s.writeRow ag (match accessAddr ag o with | some a => a | none => o) l r (v % 2 ^ 64)
        else (s.regWrite32 ag o v (be % 16)).regWrite32 ag (o + 4) (v / 2 ^ 32) (be / 16 % 16)
      | none => (s.regWrite32 ag o v (be % 16)).regWrite32 ag (o + 4) (v / 2 ^ 32) (be / 16 % 16))
    | _ => s.regWrite32 ag o v (be % 16)

end Sys2Proof.Machine
end

