-- ==== Sys2Proof/Machine/Accesses.lean ====
section
/-! DEFINITION. The commands that are register accesses: a write or a read of an agent (R78) at an offset of PF BAR 0, or of its
instance window for agent 1. Rows that name one register are writes of that register. -/

set_option Elab.async false
namespace Sys2Proof.Machine

/-- The offset of an instance window's register as an agent names it: agent 1 in its own window, others in INST_0's. -/
def winOff (ag : Agent) (o : Nat) : Nat := if ag.code = 1 then o else 0x400000 + o

/-- A 32-bit write of an agent with every byte enabled. -/
def State.write32 (s : State) (ag : Agent) (o : Nat) (v : Nat) : Host.Outcome State Fault Refusal := .next (s.regWrite ag o v 15 false)

/-- REGISTER_WRITE (R11, R52 to R57, R60 to R70, R80): 32 bits, or 64 bits as one write, with byte enables. -/
def execRegisterWrite (ag : Agent) (o be : Nat) (v : BitVec 64) (wide : Bool) (s : State) : Host.Outcome State Fault Refusal :=
  .next (s.regWrite ag (o / 4 * 4) v.toNat be wide)

/-- RC_REGISTER_READ (R54, R56, R58): a read of a register, 32 bits or 64; an RC register is cleared. -/
def execRcRegisterRead (ag : Agent) (o : Nat) (wide avail : Bool) (s : State) : Host.Outcome State Fault Refusal := .next (s.regRead ag o wide avail)

/-- SPLIT_64BIT_READ (R58): a 32-bit read of the low word of a 64-bit register. -/
def execSplit64bitRead (ag : Agent) (o : Nat) (s : State) : Host.Outcome State Fault Refusal := .next (s.regRead ag o false true)

/-! ### The common header -/

/-- SOFT_RESET (R34 to R36): a BLK_CTRL write with SOFT_RESET set to the page at `base`. -/
def execSoftReset (ag : Agent) (base : Nat) (v : BitVec 32) (s : State) : Host.Outcome State Fault Refusal :=
  s.write32 ag (base + 8) (v ||| 2).toNat

/-- LEVEL_SET (R48). -/
def execLevelSet (ag : Agent) (base : Nat) (v : BitVec 32) (s : State) : Host.Outcome State Fault Refusal :=
  s.write32 ag (base + 8) (v ||| 4).toNat

/-- LEVEL_CLEAR (R49). -/
def execLevelClear (ag : Agent) (base : Nat) (v : BitVec 32) (s : State) : Host.Outcome State Fault Refusal :=
  s.write32 ag (base + 8) (v &&& ~~~4).toNat

/-- TEST_MODE_CLEAR (R45). -/
def execTestModeClear (ag : Agent) (base : Nat) (v : BitVec 32) (s : State) : Host.Outcome State Fault Refusal :=
  s.write32 ag (base + 8) (v &&& ~~~8).toNat

/-- BLK_INT_FORCE_WRITE (R39). -/
def execBlkIntForceWrite (ag : Agent) (base : Nat) (v : BitVec 32) (s : State) : Host.Outcome State Fault Refusal :=
  s.write32 ag (base + 0x18) v.toNat

/-- BLK_LOCK_WRITE (R42). -/
def execBlkLockWrite (ag : Agent) (base : Nat) (v : BitVec 32) (s : State) : Host.Outcome State Fault Refusal :=
  s.write32 ag (base + 0x1C) v.toNat

/-- INJECT_ARM (R43, R44, R46): an INJECT write with ARM. `check` is the DETAIL of the check the selected checker makes at once, where it
makes one. -/
def execInjectArm (ag : Agent) (base : Nat) (v : BitVec 32) (check : Option Nat) (s : State) : Host.Outcome State Fault Refusal :=
  let t := s.regWrite ag (base + 0x20) (v ||| 0x10000).toNat 15 false
  .next (match check, accessAddr ag base with
    | some d, some b => t.injFire b d
    | _, _ => t)

/-! ### Host link and debug -/

/-- MSIX_UNMASK (R153): function `k` clears the mask of vector `v` in its MSI-X table. -/
def execMsixUnmask (k v : Nat) (s : State) : Host.Outcome State Fault Refusal :=
  let ag : Agent := if k = 0 then ⟨0, 0⟩ else ⟨1, k⟩
  s.write32 ag (winOff ag (0x3000 + 16 * (v % 16) + 12)) 0

/-- RESET_REQ_L3 (R133). -/
def execResetReqL3 (ag : Agent) (v : BitVec 32) (s : State) : Host.Outcome State Fault Refusal := s.write32 ag 0x2110 v.toNat

/-- RNG_DATA_READ (R236): a 64-bit read. `avail` says whether output is available within 1 µs. -/
def execRngDataRead (ag : Agent) (avail : Bool) (s : State) : Host.Outcome State Fault Refusal := .next (s.regRead ag 0x6110 true avail)

/-- HBM_PEEK_ACCESS (R214, R216): a read of `len` bytes, or a write of bytes with their enables, at offset `o` of the window. `err` is what
the ECC check of the read finds. -/
def execHbmPeekAccess (ag : Agent) (o len : Nat) (wr : Option (List (Option Byte))) (err : Option (Nat × Bool)) (s : State) :
    Host.Outcome State Fault Refusal :=
  let n := match wr with | some b => b.length | none => len
  let zero (s : State) : State := match wr with | some _ => s.answer [] 0 | none => s.answer (List.replicate n 0) 0
  .next (if 2 ^ 20 < o + n then s
    else match s.gate ag (0x300000 + o) wr.isSome with
      | .none => s
      | .ur => if wr.isSome then s else (s.aerLog (hostFn ag) 20).answer [] 1
      | .quiet => zero s
      | .unmapped => zero s.unmapped
      | .denied l => zero (s.actDenied ag l.region wr.isSome)
      | .go _ => match wr with
        | some bs => (s.peekWrite o bs).answer [] 0
        | none => if s.parked then s.answer (s.peekRead o n none).1 0
          else match s.peekRead o n err with | (d, s) => s.answer d 0)

/-! ### Briane and the log (R248, R250, R258, R273) -/

/-- VER_HELLO (R258). -/
def execVerHello (ag : Agent) (s : State) : Host.Outcome State Fault Refusal := s.write32 ag (winOff ag 0x2104) 1

/-- REQ_PROD_WRITE (R248). -/
def execReqProdWrite (ag : Agent) (v : BitVec 32) (s : State) : Host.Outcome State Fault Refusal := s.write32 ag (winOff ag 0x2110) v.toNat

/-- RSP_CONS_WRITE (R250). -/
def execRspConsWrite (ag : Agent) (v : BitVec 32) (s : State) : Host.Outcome State Fault Refusal := s.write32 ag (winOff ag 0x211C) v.toNat

/-- LOG_SEL_WRITE (R273). -/
def execLogSelWrite (ag : Agent) (v : BitVec 32) (s : State) : Host.Outcome State Fault Refusal := s.write32 ag 0xB108 v.toNat

/-! ### Queues, sync objects, reservations -/

/-- DOORBELL (R391 to R396): a 64-bit write of a tail to the doorbell of local index `q`. -/
def execDoorbell (ag : Agent) (q : Nat) (tail : BitVec 32) (s : State) : Host.Outcome State Fault Refusal :=
  .next (s.regWrite ag (winOff ag (0x1000 + 8 * (q % 64))) tail.toNat 255 true)

/-- A 64-bit SV_OP write of the OP a row names. -/
def State.svWrite (s : State) (ag : Agent) (op : Nat) (v : BitVec 64) : Host.Outcome State Fault Refusal :=
  .next (if bitsOf v.toNat 16 2 = op then s.regWrite ag (winOff ag 0x4118) v.toNat 255 true else s)

/-- SV_OP_SIGNAL_ADD (R573, R585). -/
def execSvOpSignalAdd (ag : Agent) (v : BitVec 64) (s : State) : Host.Outcome State Fault Refusal := s.svWrite ag 0 v

/-- SV_OP_CONSUME (R573, R585). -/
def execSvOpConsume (ag : Agent) (v : BitVec 64) (s : State) : Host.Outcome State Fault Refusal := s.svWrite ag 1 v

/-- SV_OP_ARRIVE (R573, R585). -/
def execSvOpArrive (ag : Agent) (v : BitVec 64) (s : State) : Host.Outcome State Fault Refusal := s.svWrite ag 2 v

/-- SV_OP_STATUS_READ (R585): the read waits while an operation of the function is still on its way to the hub. -/
def execSvOpStatusRead (ag : Agent) (s : State) : Host.Outcome State Fault Refusal :=
  .next (if s.sync.fifo.any fun o => o.who == .host (hostFn ag) then s else s.regRead ag (winOff ag 0x4120) false true)

/-- OBJ_SEL_WRITE (R582). -/
def execObjSelWrite (ag : Agent) (v : BitVec 32) (s : State) : Host.Outcome State Fault Refusal := s.write32 ag 0x180104 v.toNat

/-- SV_SEL_WRITE (R584). -/
def execSvSelWrite (ag : Agent) (v : BitVec 32) (s : State) : Host.Outcome State Fault Refusal := s.write32 ag (winOff ag 0x4100) v.toNat

/-- RES_SEL_WRITE (R530). -/
def execResSelWrite (ag : Agent) (v : BitVec 32) (s : State) : Host.Outcome State Fault Refusal := s.write32 ag 0x14104 v.toNat

/-! ### Scanout (15) -/

/-- HEAD_ENABLE (R673): a BLK_CTRL write with ENABLE set to head `d`'s page. -/
def execHeadEnable (ag : Agent) (d : Nat) (v : BitVec 32) (s : State) : Host.Outcome State Fault Refusal :=
  s.write32 ag (headBase (d % 2) + 8) (v ||| 1).toNat

/-- HEAD_DISABLE (R676). -/
def execHeadDisable (ag : Agent) (d : Nat) (v : BitVec 32) (s : State) : Host.Outcome State Fault Refusal :=
  s.write32 ag (headBase (d % 2) + 8) (v &&& ~~~1).toNat

/-- PORT_ROUTE_WRITE (R683). -/
def execPortRouteWrite (ag : Agent) (v : BitVec 32) (s : State) : Host.Outcome State Fault Refusal := s.write32 ag 0x1D0100 v.toNat

/-- The page of port `d`. -/
def dpBase (d : Nat) : Nat := 0x1D3000 + 0x1000 * (d % 2)

/-- DP_PORT_ENABLE (R711): a BLK_CTRL write of a DP page. -/
def execDpPortEnable (ag : Agent) (d : Nat) (v : BitVec 32) (s : State) : Host.Outcome State Fault Refusal := s.write32 ag (dpBase d + 8) v.toNat

/-- DP_TRAIN_START (R687). -/
def execDpTrainStart (ag : Agent) (d : Nat) (s : State) : Host.Outcome State Fault Refusal := s.write32 ag (dpBase d + 0x104) 1

/-- AUX_CMD_START (R688). -/
def execAuxCmdStart (ag : Agent) (d : Nat) (v : BitVec 32) (s : State) : Host.Outcome State Fault Refusal :=
  s.write32 ag (dpBase d + 0x110) (v ||| 0x80000000).toNat

/-- SDP_COMMIT (R690). -/
def execSdpCommit (ag : Agent) (d : Nat) (v : BitVec 32) (s : State) : Host.Outcome State Fault Refusal :=
  s.write32 ag (dpBase d + 0x140) (v ||| 2).toNat

/-- LUT_DATA_WRITE (R695). -/
def execLutDataWrite (ag : Agent) (d : Nat) (v : BitVec 32) (s : State) : Host.Outcome State Fault Refusal :=
  s.write32 ag (headBase (d % 2) + 0x18C) v.toNat

/-- CAPTURE_ARM (R707). -/
def execCaptureArm (ag : Agent) (d : Nat) (s : State) : Host.Outcome State Fault Refusal := s.write32 ag (headBase (d % 2) + 0x160) 1

/-! ### The fault collector and the memory system (R671, R759, R765, R775, R780) -/

/-- FR_ACK (R765). -/
def execFrAck (ag : Agent) (v : BitVec 32) (s : State) : Host.Outcome State Fault Refusal := s.write32 ag 0x9110 v.toNat

/-- FW_REPORT (R780). -/
def execFwReport (ag : Agent) (v : BitVec 64) (s : State) : Host.Outcome State Fault Refusal := .next (s.regWrite ag 0x9138 v.toNat 255 true)

/-- FR_SEL_WRITE (R759). -/
def execFrSelWrite (ag : Agent) (v : BitVec 32) (s : State) : Host.Outcome State Fault Refusal := s.write32 ag 0x9108 v.toNat

/-- HIST_SEL_WRITE (R775). -/
def execHistSelWrite (ag : Agent) (v : BitVec 32) (s : State) : Host.Outcome State Fault Refusal := s.write32 ag 0x9140 v.toNat

/-- SLICE_SEL_WRITE (R671). -/
def execSliceSelWrite (ag : Agent) (v : BitVec 32) (s : State) : Host.Outcome State Fault Refusal := s.write32 ag 0x1B0100 v.toNat

/-! ### Register access from queues (R479) -/

/-- The agent of REG_WRITE and REG_READ. -/
def regAgent : Agent := ⟨2, 0⟩

/-- The first of `n` registers from an offset on that the ACT refuses. -/
def State.regRefused (s : State) (o n : Nat) (write : Bool) : Option Loc :=
  (List.range n).findSome? fun i => match s.gate regAgent (o + 4 * i) write with | .denied l => some l | _ => none

/-- REG_WRITE (R202, R479): every register of the command is checked before one is written. -/
def execRegWrite (h : Nat) (s : State) : Host.Outcome State Fault Refusal :=
  .next (s.begin_ h 0x82 fun s _ f ws =>
    let o := bitsOf (natAt ws 1) 0 26
    let n := bitsOf (natAt ws 1) 26 4 + 1
    match s.regRefused o n true with
    | some l => (s.actDenied regAgent l.region true).cmdFault h 0x0102 f.pos
    | none =>
      let s := (List.range n).foldl (fun s i => s.regWrite regAgent (o + 4 * i) (natAt ws (2 + i)) 15 false) (s.advance h f)
      s.countDone h (wordAt f.words 0))

/-- REG_READ (R202, R479): the address is checked, then the registers are read and their values written. -/
def execRegRead (h : Nat) (avail : Bool) (s : State) : Host.Outcome State Fault Refusal :=
  .next (s.begin_ h 0x83 fun s q f ws =>
    let o := bitsOf (natAt ws 1) 0 26
    let n := bitsOf (natAt ws 1) 26 4 + 1
    let va := s.opAddr q 0x83 ws 0
    match s.regRefused o n false with
    | some l => (s.actDenied regAgent l.region false).cmdFault h 0x0102 f.pos
    | none => match s.segs q.inst va (4 * n) true askCmd with
      | (s, _, some (0, x)) => s.accessFault h va true askCmd x f.pos 2 none
      | (s, _, _) =>
        match (List.range n).foldl (fun (p : List Byte × State) i =>
            let t := p.2.regRead regAgent (o + 4 * i) false avail
            (p.1 ++ bytesAt t.own.readData 0 4, t)) ([], s) with
        | (d, t) => ({ t with own := { t.own with readData := s.own.readData, cpl := s.own.cpl } } : State).putBytesOf h q f va d)

end Sys2Proof.Machine
end

