-- ==== Sys2Proof/Machine/Clock.lean ====
section
/-! DEFINITION. The device's clock: what one nanosecond does of itself. A step on an empty queue is one nanosecond; everything that needs
more than time to happen is a command. -/

set_option Elab.async false
namespace Sys2Proof.Machine

/-- GTIME goes on by one nanosecond (R103, R177): a slew adds a second one, or leaves one out, once in 1,000. -/
def advanceClock (c : Clocks) : Clocks :=
  let due := c.slewing && decide (999 ≤ c.phase)
  let step : Nat := if !due then 1 else if 0 < c.offset then 2 else 0
  let off : Int := if !due then c.offset else if 0 < c.offset then c.offset - 1 else c.offset + 1
  { c with gtime := c.gtime + BitVec.ofNat 64 step, phase := if 999 ≤ c.phase then 0 else c.phase + 1, offset := off, slewing := c.slewing && decide (off ≠ 0) }

/-- Whether a context charges its reservation this microsecond (R514, R321). -/
def State.charges (s : State) (n : Nat) (c : Ctx) : Bool :=
  c.st == .running || c.st == .spinning || (c.st == .parked && (s.cluster n).run.isNone)

/-- The clusters that charge a reservation this microsecond. -/
def State.chargeOf (s : State) (r : Nat) (v : Resv) : Nat :=
  if (s.inst v.inst).st ≠ .active then 0
  else ((maskList (s.grpMask v.grp)).filter fun n => s.ctxs.any fun (k, c) =>
    k % 16 == n && s.charges n c && (match tblFind (k / 16) s.launches with | some l => l.res == some r && s.bandOf (k / 16) == 0 | none => false)).length

/-- A microsecond passes: reservations are charged (R514), and a reefed cluster counts it (R631). -/
def State.microsecond (s : State) : State :=
  let s := { s with resvs := s.resvs.map fun (r, v) => (r, if v.valid then { v with charged := v.charged + s.chargeOf r v } else v) }
  (List.range 16).foldl (fun s n => if (s.cluster n).reefed then s.count (yardBase n + 0x12C) else s) s

/-- The oldest hardware trace record goes from the FIFO into the log (R276). -/
def State.drainTrace (s : State) : State :=
  match s.fw.trace with
  | r :: t => (({ s with fw := { s.fw with trace := t } } : State)).logAppend r
  | [] => s

/-- The pages with an armed injection that any check of theirs may fire. -/
def State.armedPages (s : State) : List Nat :=
  s.regs.filterMap fun (a, v) =>
    if a % 0x1000 = 0x20 ∧ bitOf v.toNat 16 then
      match locate (a - 0x20) with
      | some l => if l.pg.hasHeader && !(l.pg == .hbm && bitsOf v.toNat 0 8 == 0) then some (a - 0x20) else none
      | none => none
    else none

/-- A check that an armed injection waits for may happen at any moment (R43): which, and what it reports, is open. -/
def State.fireArmed (s : State) : State :=
  match s.armedPages with
  | [] => s
  | l =>
    let b := l.getD (Config.freeNat s.own.freeCtr % l.length) 0
    if Config.freeBool s.own.freeCtr then s.bumpFree.injFire b (Config.freeWord64 (s.own.freeCtr + 1)).toNat else s.bumpFree

/-- What a context's counters do in one FCLK cycle (R629): the running ones count it. -/
def State.countCycles (s : State) : State :=
  { s with ctxs := s.ctxs.map fun (k, c) => (k, if (s.cluster (k % 16)).run = some (k / 16) then { c with cycle := c.cycle + 1 } else c) }

/-- One nanosecond of a device that is powered and not held in reset; in PARKED nothing changes (R126). -/
def State.clockTick (s : State) : State :=
  if !s.pw.railsUp ∨ s.pw.perst ∨ s.parked then s
  else
    let us := s.ck.gtime.toNat / 1000
    let s := { s with ck := advanceClock s.ck }
    let s := s.countCycles
    let s := if s.ck.gtime.toNat / 1000 ≠ us then s.microsecond else s
    s.drainTrace.cccTick.fireArmed

end Sys2Proof.Machine
end

