-- ==== Sys2Proof/Machine/Dispatch.lean ====
section
/-! DEFINITION. The dispatch: one arm per command, each a direct call of its meaning. -/
namespace Sys2Proof.Machine

/-- The effect of a command on everything but the queue. -/
def exec (i : Instr) (s : State) : Host.Outcome State Fault Refusal :=
  match i with
  | .coldPowerUp inOrder crack => Sys2Proof.Machine.execColdPowerUp inOrder crack s
  | .vddAonLoss => Sys2Proof.Machine.execVddAonLoss s
  | .inputPowerLoss => Sys2Proof.Machine.execInputPowerLoss s
  | .perstNAsserted us => Sys2Proof.Machine.execPerstNAsserted us s
  | .perstNDeasserted holdMet fusesOk board => Sys2Proof.Machine.execPerstNDeasserted holdMet fusesOk board s
  | .rootPllLock => Sys2Proof.Machine.execRootPllLock s
  | .trngReady => Sys2Proof.Machine.execTrngReady s
  | .configReady => Sys2Proof.Machine.execConfigReady s
  | .pcieConfigRequest k reg write prog => Sys2Proof.Machine.execPcieConfigRequest k reg write prog s
  | .hbmTrained okStacks => Sys2Proof.Machine.execHbmTrained okStacks s
  | .imageVerify flash => Sys2Proof.Machine.execImageVerify flash s
  | .protSetupLock => Sys2Proof.Machine.execProtSetupLock s
  | .fwStarting => Sys2Proof.Machine.execFwStarting s
  | .brianeReady => Sys2Proof.Machine.execBrianeReady s
  | .refclkLoss => Sys2Proof.Machine.execRefclkLoss s
  | .pllUnlock => Sys2Proof.Machine.execPllUnlock s
  | .linkDown => Sys2Proof.Machine.execLinkDown s
  | .hotReset => Sys2Proof.Machine.execHotReset s
  | .linkUp rate width flit => Sys2Proof.Machine.execLinkUp rate width flit s
  | .l3RecoveryStart cause => Sys2Proof.Machine.execL3RecoveryStart cause s
  | .l3RecoveryDone => Sys2Proof.Machine.execL3RecoveryDone s
  | .resetReqL3 ag v => Sys2Proof.Machine.execResetReqL3 ag v s
  | .pfFlr => Sys2Proof.Machine.execPfFlr s
  | .vfFlr k => Sys2Proof.Machine.execVfFlr k s
  | .flrDone k => Sys2Proof.Machine.execFlrDone k s
  | .softReset ag base v => Sys2Proof.Machine.execSoftReset ag base v s
  | .softResetDone base => Sys2Proof.Machine.execSoftResetDone base s
  | .levelSet ag base v => Sys2Proof.Machine.execLevelSet ag base v s
  | .levelClear ag base v => Sys2Proof.Machine.execLevelClear ag base v s
  | .testModeClear ag base v => Sys2Proof.Machine.execTestModeClear ag base v s
  | .blkIntForceWrite ag base v => Sys2Proof.Machine.execBlkIntForceWrite ag base v s
  | .blkLockWrite ag base v => Sys2Proof.Machine.execBlkLockWrite ag base v s
  | .injectArm ag base v check => Sys2Proof.Machine.execInjectArm ag base v check s
  | .registerWrite ag o be v wide => Sys2Proof.Machine.execRegisterWrite ag o be v wide s
  | .rcRegisterRead ag o wide avail => Sys2Proof.Machine.execRcRegisterRead ag o wide avail s
  | .split64bitRead ag o => Sys2Proof.Machine.execSplit64bitRead ag o s
  | .vfEnableSet => Sys2Proof.Machine.execVfEnableSet s
  | .vfEnableClear => Sys2Proof.Machine.execVfEnableClear s
  | .numvfsWrite n => Sys2Proof.Machine.execNumvfsWrite n s
  | .barSizeWrite vf size => Sys2Proof.Machine.execBarSizeWrite vf size s
  | .bar2Access k off len wr err checked => Sys2Proof.Machine.execBar2Access k off len wr err checked s
  | .poisonedHostWrite k => Sys2Proof.Machine.execPoisonedHostWrite k s
  | .atomicopReceived k => Sys2Proof.Machine.execAtomicopReceived k s
  | .d3hotEntry k => Sys2Proof.Machine.execD3hotEntry k s
  | .d0Return k => Sys2Proof.Machine.execD0Return k s
  | .busMasterDisable k prog => Sys2Proof.Machine.execBusMasterDisable k prog s
  | .msixUnmask k v => Sys2Proof.Machine.execMsixUnmask k v s
  | .hostReadCompletion who res data => Sys2Proof.Machine.execHostReadCompletion who res data s
  | .hostReadTimeout n => Sys2Proof.Machine.execHostReadTimeout n s
  | .creditStallBegin prog => Sys2Proof.Machine.execCreditStallBegin prog s
  | .hostStallLimitExpiry prog => Sys2Proof.Machine.execHostStallLimitExpiry prog s
  | .creditReturn => Sys2Proof.Machine.execCreditReturn s
  | .stallLinkLoss => Sys2Proof.Machine.execStallLinkLoss s
  | .atsInvalidateRequest k pg n => Sys2Proof.Machine.execAtsInvalidateRequest k pg n s
  | .ptmDialog ok e => Sys2Proof.Machine.execPtmDialog ok e s
  | .ideKmKeySetup n => Sys2Proof.Machine.execIdeKmKeySetup n s
  | .ideCheckFail n => Sys2Proof.Machine.execIdeCheckFail n s
  | .spdmGetVersion => Sys2Proof.Machine.execSpdmGetVersion s
  | .spdmGetCapabilities => Sys2Proof.Machine.execSpdmGetCapabilities s
  | .spdmNegotiateAlgorithms offered => Sys2Proof.Machine.execSpdmNegotiateAlgorithms offered s
  | .spdmGetDigests len => Sys2Proof.Machine.execSpdmGetDigests len s
  | .spdmGetCertificate slot off len => Sys2Proof.Machine.execSpdmGetCertificate slot off len s
  | .spdmChallenge nonce => Sys2Proof.Machine.execSpdmChallenge nonce s
  | .spdmGetMeasurements idx sign nonce => Sys2Proof.Machine.execSpdmGetMeasurements idx sign nonce s
  | .spdmKeyExchange ok => Sys2Proof.Machine.execSpdmKeyExchange ok s
  | .spdmFinish ok => Sys2Proof.Machine.execSpdmFinish ok s
  | .spdmKeyUpdate => Sys2Proof.Machine.execSpdmKeyUpdate s
  | .spdmHeartbeat => Sys2Proof.Machine.execSpdmHeartbeat s
  | .spdmEndSession => Sys2Proof.Machine.execSpdmEndSession s
  | .getRandom => Sys2Proof.Machine.execGetRandom s
  | .hash alg data => Sys2Proof.Machine.execHash alg data s
  | .pkeTest op curve operands fails => Sys2Proof.Machine.execPkeTest op curve operands fails s
  | .debugChallenge => Sys2Proof.Machine.execDebugChallenge s
  | .debugUnlock kenudOk ownerOk => Sys2Proof.Machine.execDebugUnlock kenudOk ownerOk s
  | .ownerKeyProgram ok => Sys2Proof.Machine.execOwnerKeyProgram ok s
  | .arbCommit ok => Sys2Proof.Machine.execArbCommit ok s
  | .mboxReservedCmd => Sys2Proof.Machine.execMboxReservedCmd s
  | .rngDataRead ag avail => Sys2Proof.Machine.execRngDataRead ag avail s
  | .drbgReseed => Sys2Proof.Machine.execDrbgReseed s
  | .rngHealthFail => Sys2Proof.Machine.execRngHealthFail s
  | .nonceExpiry => Sys2Proof.Machine.execNonceExpiry s
  | .hbmPeekAccess ag o len wr err => Sys2Proof.Machine.execHbmPeekAccess ag o len wr err s
  | .jtagDmiAccess addr wr => Sys2Proof.Machine.execJtagDmiAccess addr wr s
  | .receiptWrite d => Sys2Proof.Machine.execReceiptWrite d s
  | .fwWatchdogExpiry core => Sys2Proof.Machine.execFwWatchdogExpiry core s
  | .verHello ag => Sys2Proof.Machine.execVerHello ag s
  | .reqProdWrite ag v => Sys2Proof.Machine.execReqProdWrite ag v s
  | .rspConsWrite ag v => Sys2Proof.Machine.execRspConsWrite ag v s
  | .brianeRequestStart k => Sys2Proof.Machine.execBrianeRequestStart k s
  | .brianeEventDeliver k => Sys2Proof.Machine.execBrianeEventDeliver k s
  | .brianeReservedOpcode k => Sys2Proof.Machine.execBrianeReservedOpcode k s
  | .ping k => Sys2Proof.Machine.execPing k s
  | .getInfo k => Sys2Proof.Machine.execGetInfo k s
  | .queueCreate k want => Sys2Proof.Machine.execQueueCreate k want s
  | .queueDestroy k => Sys2Proof.Machine.execQueueDestroy k s
  | .queueRestart k => Sys2Proof.Machine.execQueueRestart k s
  | .queueModify k => Sys2Proof.Machine.execQueueModify k s
  | .syncBlockAlloc k want => Sys2Proof.Machine.execSyncBlockAlloc k want s
  | .syncBlockFree k => Sys2Proof.Machine.execSyncBlockFree k s
  | .syncForce k => Sys2Proof.Machine.execSyncForce k s
  | .aspaceSet k => Sys2Proof.Machine.execAspaceSet k s
  | .beaconConfig k => Sys2Proof.Machine.execBeaconConfig k s
  | .reserve k want => Sys2Proof.Machine.execReserve k want s
  | .reserveRelease k => Sys2Proof.Machine.execReserveRelease k s
  | .instConfigure k => Sys2Proof.Machine.execInstConfigure k s
  | .instActivate k => Sys2Proof.Machine.execInstActivate k s
  | .instQuiesce k => Sys2Proof.Machine.execInstQuiesce k s
  | .instReset k => Sys2Proof.Machine.execInstReset k s
  | .instRemove k => Sys2Proof.Machine.execInstRemove k s
  | .slotAssign k => Sys2Proof.Machine.execSlotAssign k s
  | .cgrpDefine k => Sys2Proof.Machine.execCgrpDefine k s
  | .cgrpGrant k => Sys2Proof.Machine.execCgrpGrant k s
  | .headAssign k => Sys2Proof.Machine.execHeadAssign k s
  | .isolationSet k => Sys2Proof.Machine.execIsolationSet k s
  | .dirtyLogStart k fits => Sys2Proof.Machine.execDirtyLogStart k fits s
  | .dirtyHarvest k => Sys2Proof.Machine.execDirtyHarvest k s
  | .dirtyHarvestDone k => Sys2Proof.Machine.execDirtyHarvestDone k s
  | .dirtyLogStop k => Sys2Proof.Machine.execDirtyLogStop k s
  | .shadowSize k => Sys2Proof.Machine.execShadowSize k s
  | .shadowSave k => Sys2Proof.Machine.execShadowSave k s
  | .shadowSaveDone k => Sys2Proof.Machine.execShadowSaveDone k s
  | .shadowRestore k img cause => Sys2Proof.Machine.execShadowRestore k img cause s
  | .shadowRestoreDone k => Sys2Proof.Machine.execShadowRestoreDone k s
  | .fwStage k img cause => Sys2Proof.Machine.execFwStage k img cause s
  | .fwStageVerifyDone => Sys2Proof.Machine.execFwStageVerifyDone s
  | .fwActivate k => Sys2Proof.Machine.execFwActivate k s
  | .fwActivateBoundary => Sys2Proof.Machine.execFwActivateBoundary s
  | .fwSwapCommit => Sys2Proof.Machine.execFwSwapCommit s
  | .activateWindowExpiry => Sys2Proof.Machine.execActivateWindowExpiry s
  | .fwPersist k => Sys2Proof.Machine.execFwPersist k s
  | .fwPersistDone ok => Sys2Proof.Machine.execFwPersistDone ok s
  | .fwDiscard k => Sys2Proof.Machine.execFwDiscard k s
  | .prepareRemoval k => Sys2Proof.Machine.execPrepareRemoval k s
  | .logFetch k => Sys2Proof.Machine.execLogFetch k s
  | .logConfig k => Sys2Proof.Machine.execLogConfig k s
  | .traceSet k => Sys2Proof.Machine.execTraceSet k s
  | .powerCapSet k => Sys2Proof.Machine.execPowerCapSet k s
  | .quietLimitSet k => Sys2Proof.Machine.execQuietLimitSet k s
  | .cadenceFloorSet k => Sys2Proof.Machine.execCadenceFloorSet k s
  | .telemRead k => Sys2Proof.Machine.execTelemRead k s
  | .receiptStart k => Sys2Proof.Machine.execReceiptStart k s
  | .receiptStop k => Sys2Proof.Machine.execReceiptStop k s
  | .attestQuote k => Sys2Proof.Machine.execAttestQuote k s
  | .attestQuoteSigned k => Sys2Proof.Machine.execAttestQuoteSigned k s
  | .logSelWrite ag v => Sys2Proof.Machine.execLogSelWrite ag v s
  | .quiesceLimitExpiry k => Sys2Proof.Machine.execQuiesceLimitExpiry k s
  | .quiesceFlushDone k => Sys2Proof.Machine.execQuiesceFlushDone k s
  | .flushTimeout k => Sys2Proof.Machine.execFlushTimeout k s
  | .instanceResetDone k => Sys2Proof.Machine.execInstanceResetDone k s
  | .slotScrubStart n => Sys2Proof.Machine.execSlotScrubStart n s
  | .slotScrubDone n => Sys2Proof.Machine.execSlotScrubDone n s
  | .doorbell ag q tail => Sys2Proof.Machine.execDoorbell ag q tail s
  | .ringDataReturn h err => Sys2Proof.Machine.execRingDataReturn h err s
  | .nop h => Sys2Proof.Machine.execNop h s
  | .indirect h err => Sys2Proof.Machine.execIndirect h err s
  | .launch h => Sys2Proof.Machine.execLaunch h s
  | .launchInline h => Sys2Proof.Machine.execLaunchInline h s
  | .copy h err => Sys2Proof.Machine.execCopy h err s
  | .bmvDescriptorComplete id err => Sys2Proof.Machine.execBmvDescriptorComplete id err s
  | .bmvCopyComplete id => Sys2Proof.Machine.execBmvCopyComplete id s
  | .fill h => Sys2Proof.Machine.execFill h s
  | .signal h => Sys2Proof.Machine.execSignal h s
  | .wait h => Sys2Proof.Machine.execWait h s
  | .arrive h => Sys2Proof.Machine.execArrive h s
  | .fence h => Sys2Proof.Machine.execFence h s
  | .cond h err => Sys2Proof.Machine.execCond h err s
  | .loopBegin h => Sys2Proof.Machine.execLoopBegin h s
  | .loopEnd h => Sys2Proof.Machine.execLoopEnd h s
  | .timestamp h => Sys2Proof.Machine.execTimestamp h s
  | .writeData h => Sys2Proof.Machine.execWriteData h s
  | .report h => Sys2Proof.Machine.execReport h s
  | .beaconWait h => Sys2Proof.Machine.execBeaconWait h s
  | .scanoutFlip h => Sys2Proof.Machine.execScanoutFlip h s
  | .setContext h => Sys2Proof.Machine.execSetContext h s
  | .htabLoad h err => Sys2Proof.Machine.execHtabLoad h err s
  | .regWrite h => Sys2Proof.Machine.execRegWrite h s
  | .regRead h avail => Sys2Proof.Machine.execRegRead h avail s
  | .dmmuInvalidate h => Sys2Proof.Machine.execDmmuInvalidate h s
  | .syncInit h err => Sys2Proof.Machine.execSyncInit h err s
  | .timeoutSet h => Sys2Proof.Machine.execTimeoutSet h s
  | .commandTimeoutExpiry id n => Sys2Proof.Machine.execCommandTimeoutExpiry id n s
  | .drainGraceExpiry l => Sys2Proof.Machine.execDrainGraceExpiry l s
  | .launchDispatch l err => Sys2Proof.Machine.execLaunchDispatch l err s
  | .launchComplete l => Sys2Proof.Machine.execLaunchComplete l s
  | .sliceExpiry l => Sys2Proof.Machine.execSliceExpiry l s
  | .swapOutStart l n => Sys2Proof.Machine.execSwapOutStart l n s
  | .swapOutComplete l n => Sys2Proof.Machine.execSwapOutComplete l n s
  | .swapIn l n => Sys2Proof.Machine.execSwapIn l n s
  | .swapInComplete l n err => Sys2Proof.Machine.execSwapInComplete l n err s
  | .yieldLimitExpiry l n => Sys2Proof.Machine.execYieldLimitExpiry l n s
  | .forcedSaveOverdue l n => Sys2Proof.Machine.execForcedSaveOverdue l n s
  | .beaconTick b vb => Sys2Proof.Machine.execBeaconTick b vb s
  | .beaconLockLoss b => Sys2Proof.Machine.execBeaconLockLoss b s
  | .budgetExhausted r => Sys2Proof.Machine.execBudgetExhausted r s
  | .hubArrive port => Sys2Proof.Machine.execHubArrive port s
  | .hubSignalAdd port => Sys2Proof.Machine.execHubSignalAdd port s
  | .hubConsume port => Sys2Proof.Machine.execHubConsume port s
  | .hubWaitGe port => Sys2Proof.Machine.execHubWaitGe port s
  | .hubWaitGen port => Sys2Proof.Machine.execHubWaitGen port s
  | .hubWaitGeConsume port => Sys2Proof.Machine.execHubWaitGeConsume port s
  | .waitWatchdogExpiry l => Sys2Proof.Machine.execWaitWatchdogExpiry l s
  | .spinToPark l n => Sys2Proof.Machine.execSpinToPark l n s
  | .svOpSignalAdd ag v => Sys2Proof.Machine.execSvOpSignalAdd ag v s
  | .svOpConsume ag v => Sys2Proof.Machine.execSvOpConsume ag v s
  | .svOpArrive ag v => Sys2Proof.Machine.execSvOpArrive ag v s
  | .svOpStatusRead ag => Sys2Proof.Machine.execSvOpStatusRead ag s
  | .objSelWrite ag v => Sys2Proof.Machine.execObjSelWrite ag v s
  | .svSelWrite ag v => Sys2Proof.Machine.execSvSelWrite ag v s
  | .resSelWrite ag v => Sys2Proof.Machine.execResSelWrite ag v s
  | .yardContextEnter l n err => Sys2Proof.Machine.execYardContextEnter l n err s
  | .itemReturn l n a0 pc => Sys2Proof.Machine.execItemReturn l n a0 pc s
  | .contextEnd l n => Sys2Proof.Machine.execContextEnd l n s
  | .push l n e ws pc => Sys2Proof.Machine.execPush l n e ws pc s
  | .pushTable l n e v pc => Sys2Proof.Machine.execPushTable l n e v pc s
  | .levAdd l n k v => Sys2Proof.Machine.execLevAdd l n k v s
  | .cccSyncOpSignalAdd l n word pc => Sys2Proof.Machine.execCccSyncOpSignalAdd l n word pc s
  | .cccSyncOpConsume l n word pc => Sys2Proof.Machine.execCccSyncOpConsume l n word pc s
  | .cccSyncOpArrive l n word pc => Sys2Proof.Machine.execCccSyncOpArrive l n word pc s
  | .cccSyncWaitGe l n word pc => Sys2Proof.Machine.execCccSyncWaitGe l n word pc s
  | .cccSyncWaitGen l n word pc => Sys2Proof.Machine.execCccSyncWaitGen l n word pc s
  | .cccSyncWaitGeConsume l n word pc => Sys2Proof.Machine.execCccSyncWaitGeConsume l n word pc s
  | .cccSyncStatusRead l n => Sys2Proof.Machine.execCccSyncStatusRead l n s
  | .yield l n idx pc => Sys2Proof.Machine.execYield l n idx pc s
  | .trap l n v pc => Sys2Proof.Machine.execTrap l n v pc s
  | .cccException l n mcause mtval pc => Sys2Proof.Machine.execCccException l n mcause mtval pc s
  | .matmul l n e err => Sys2Proof.Machine.execMatmul l n e err s
  | .conv2d l n e err => Sys2Proof.Machine.execConv2d l n e err s
  | .dwconv l n e err => Sys2Proof.Machine.execDwconv l n e err s
  | .pool l n e err => Sys2Proof.Machine.execPool l n e err s
  | .eltwise l n e err => Sys2Proof.Machine.execEltwise l n e err s
  | .reduce l n e err => Sys2Proof.Machine.execReduce l n e err s
  | .quant l n e err => Sys2Proof.Machine.execQuant l n e err s
  | .transform l n e err => Sys2Proof.Machine.execTransform l n e err s
  | .gather l n e err => Sys2Proof.Machine.execGather l n e err s
  | .move l n e err => Sys2Proof.Machine.execMove l n e err s
  | .move2d l n e err => Sys2Proof.Machine.execMove2d l n e err s
  | .move4d l n e err => Sys2Proof.Machine.execMove4d l n e err s
  | .descArrive l n e => Sys2Proof.Machine.execDescArrive l n e s
  | .descSignal l n e => Sys2Proof.Machine.execDescSignal l n e s
  | .descConsume l n e => Sys2Proof.Machine.execDescConsume l n e s
  | .descFence l n e => Sys2Proof.Machine.execDescFence l n e s
  | .descriptorComplete l n e => Sys2Proof.Machine.execDescriptorComplete l n e s
  | .vblankStart d err => Sys2Proof.Machine.execVblankStart d err s
  | .lineUnderrun d => Sys2Proof.Machine.execLineUnderrun d s
  | .headEnable ag d v => Sys2Proof.Machine.execHeadEnable ag d v s
  | .headDisable ag d v => Sys2Proof.Machine.execHeadDisable ag d v s
  | .headHoldLimitExpiry d => Sys2Proof.Machine.execHeadHoldLimitExpiry d s
  | .portRouteWrite ag v => Sys2Proof.Machine.execPortRouteWrite ag v s
  | .portRestartDone d => Sys2Proof.Machine.execPortRestartDone d s
  | .dpPortEnable ag d v => Sys2Proof.Machine.execDpPortEnable ag d v s
  | .dpTrainStart ag d => Sys2Proof.Machine.execDpTrainStart ag d s
  | .dpTrainDone d ok => Sys2Proof.Machine.execDpTrainDone d ok s
  | .auxCmdStart ag d v => Sys2Proof.Machine.execAuxCmdStart ag d v s
  | .auxDone d result reply => Sys2Proof.Machine.execAuxDone d result reply s
  | .hpdIrq d => Sys2Proof.Machine.execHpdIrq d s
  | .hpdLoss d => Sys2Proof.Machine.execHpdLoss d s
  | .hpdReturn d => Sys2Proof.Machine.execHpdReturn d s
  | .sdpCommit ag d v => Sys2Proof.Machine.execSdpCommit ag d v s
  | .lutDataWrite ag d v => Sys2Proof.Machine.execLutDataWrite ag d v s
  | .captureArm ag d => Sys2Proof.Machine.execCaptureArm ag d s
  | .captureDone d => Sys2Proof.Machine.execCaptureDone d s
  | .trimLoop p1 p10 want table lim conf => Sys2Proof.Machine.execTrimLoop p1 p10 want table lim conf s
  | .vrSettleExpiry => Sys2Proof.Machine.execVrSettleExpiry s
  | .vrTransactionFail => Sys2Proof.Machine.execVrTransactionFail s
  | .vrAlert => Sys2Proof.Machine.execVrAlert s
  | .droopDetect n => Sys2Proof.Machine.execDroopDetect n s
  | .overcurrentDetect => Sys2Proof.Machine.execOvercurrentDetect s
  | .stretchEnd n => Sys2Proof.Machine.execStretchEnd n s
  | .thermalClamp => Sys2Proof.Machine.execThermalClamp s
  | .clampRelease => Sys2Proof.Machine.execClampRelease s
  | .thermTrip => Sys2Proof.Machine.execThermTrip s
  | .lendingWindow => Sys2Proof.Machine.execLendingWindow s
  | .telemetrySample vals held => Sys2Proof.Machine.execTelemetrySample vals held s
  | .bgStepTake t u cmem found => Sys2Proof.Machine.execBgStepTake t u cmem found s
  | .bgForced t u first => Sys2Proof.Machine.execBgForced t u first s
  | .hbmPatrolStep u err => Sys2Proof.Machine.execHbmPatrolStep u err s
  | .crackLoopMeasure res => Sys2Proof.Machine.execCrackLoopMeasure res s
  | .railFault => Sys2Proof.Machine.execRailFault s
  | .mctpEidAssign eid => Sys2Proof.Machine.execMctpEidAssign eid s
  | .mctpControlMessage cmd => Sys2Proof.Machine.execMctpControlMessage cmd s
  | .pldmSensorRead id => Sys2Proof.Machine.execPldmSensorRead id s
  | .pldmEffecterSet id v => Sys2Proof.Machine.execPldmEffecterSet id v s
  | .fcolTakeFault => Sys2Proof.Machine.execFcolTakeFault s
  | .rateWindowExpiry => Sys2Proof.Machine.execRateWindowExpiry s
  | .fcolSelf => Sys2Proof.Machine.execFcolSelf s
  | .frAck ag v => Sys2Proof.Machine.execFrAck ag v s
  | .fwReport ag v => Sys2Proof.Machine.execFwReport ag v s
  | .frSelWrite ag v => Sys2Proof.Machine.execFrSelWrite ag v s
  | .histSelWrite ag v => Sys2Proof.Machine.execHistSelWrite ag v s
  | .sliceSelWrite ag v => Sys2Proof.Machine.execSliceSelWrite ag v s
  | .logFetchDone k => Sys2Proof.Machine.execLogFetchDone k s
  | .prepareRemovalDone => Sys2Proof.Machine.execPrepareRemovalDone s
  | .mboxDone => Sys2Proof.Machine.execMboxDone s
  | .forcedKillDone k => Sys2Proof.Machine.execForcedKillDone k s

end Sys2Proof.Machine
end

