-- ==== Sys2Proof/Safety.lean ====
section
/-! DEFINITION. What a sound state is: device memory in its canonical form, and the fixed numbers of the device's parts. -/

set_option Elab.async false
namespace Sys2Proof.Machine

/-- Device memory is in canonical form: addresses strictly rising, and a byte listed as zero only where what an unlisted
address reads as is free. -/
def Memory.wf (s : State) : Bool :=
  tblWf s.mem && s.mem.all fun (a, b) => b != 0 || (s.vagueAt a).isSome

end Sys2Proof.Machine
end

