-- ==== Sys2Proof/Certificates/Slice0/Obligations.lean ====
section
/-! DEFINITION. The statements of this model, for the provers, and the words they are stated in. -/

set_option Elab.async false

open Sys2Proof Sys2Proof.Machine

namespace Sys2Proof.Claims

/-- Every byte of device memory reads as before. -/
def SameMem (s t : State) : Prop := ∀ a, t.memByte a = s.memByte a

/-- The commands of the work on the device: Briane's requests but for those of firmware, power and removal, the life of the instances,
queue commands but for REG_WRITE and REG_READ, scheduling, sync operations, Yard programs and engines, and scanout. -/
def isWork (c : Instr) : Bool :=
  match c with
  | .receiptWrite .. | .brianeRequestStart .. | .brianeEventDeliver .. | .brianeReservedOpcode .. | .ping .. | .getInfo ..
  | .queueCreate .. | .queueDestroy .. | .queueRestart .. | .queueModify .. | .syncBlockAlloc .. | .syncBlockFree ..
  | .syncForce .. | .aspaceSet .. | .beaconConfig .. | .reserve .. | .reserveRelease .. | .instConfigure .. | .instActivate ..
  | .instQuiesce .. | .instReset .. | .instRemove .. | .slotAssign .. | .cgrpDefine .. | .cgrpGrant .. | .headAssign ..
  | .isolationSet .. | .dirtyLogStart .. | .dirtyHarvest .. | .dirtyHarvestDone .. | .dirtyLogStop .. | .shadowSize ..
  | .shadowSave .. | .shadowSaveDone .. | .shadowRestore .. | .shadowRestoreDone .. | .logFetch .. | .logConfig ..
  | .traceSet .. | .receiptStart .. | .receiptStop .. | .quiesceLimitExpiry .. | .quiesceFlushDone .. | .flushTimeout ..
  | .instanceResetDone .. | .slotScrubStart .. | .slotScrubDone .. | .ringDataReturn .. | .nop .. | .indirect .. | .launch ..
  | .launchInline .. | .copy .. | .bmvDescriptorComplete .. | .bmvCopyComplete .. | .fill .. | .signal .. | .wait ..
  | .arrive .. | .fence .. | .cond .. | .loopBegin .. | .loopEnd .. | .timestamp .. | .writeData .. | .report ..
  | .beaconWait .. | .scanoutFlip .. | .setContext .. | .htabLoad .. | .dmmuInvalidate .. | .syncInit .. | .timeoutSet ..
  | .commandTimeoutExpiry .. | .drainGraceExpiry .. | .launchDispatch .. | .launchComplete .. | .sliceExpiry ..
  | .swapOutStart .. | .swapOutComplete .. | .swapIn .. | .swapInComplete .. | .yieldLimitExpiry .. | .forcedSaveOverdue ..
  | .beaconTick .. | .beaconLockLoss .. | .budgetExhausted .. | .hubArrive .. | .hubSignalAdd .. | .hubConsume ..
  | .hubWaitGe .. | .hubWaitGen .. | .hubWaitGeConsume .. | .waitWatchdogExpiry .. | .spinToPark .. | .yardContextEnter ..
  | .itemReturn .. | .contextEnd .. | .push .. | .pushTable .. | .levAdd .. | .cccSyncOpSignalAdd .. | .cccSyncOpConsume ..
  | .cccSyncOpArrive .. | .cccSyncWaitGe .. | .cccSyncWaitGen .. | .cccSyncWaitGeConsume .. | .cccSyncStatusRead .. | .yield ..
  | .trap .. | .cccException .. | .matmul .. | .conv2d .. | .dwconv .. | .pool .. | .eltwise .. | .reduce .. | .quant ..
  | .transform .. | .gather .. | .move .. | .move2d .. | .move4d .. | .descArrive .. | .descSignal .. | .descConsume ..
  | .descFence .. | .descriptorComplete .. | .vblankStart .. | .lineUnderrun .. | .headHoldLimitExpiry .. | .portRestartDone ..
  | .dpTrainDone .. | .auxDone .. | .hpdIrq .. | .hpdLoss .. | .hpdReturn .. | .captureDone .. | .logFetchDone ..
  | .forcedKillDone .. => true
  | _ => false

/-- The state a loss of power or a power-up leaves (R94, R112): every field at its reset value but the fuses and the flash, what has left
on the link, and the crack-loop baseline that a power-up measures. -/
def isCold (s t : State) (rails : Bool) (crack : W) : Prop :=
  t = { State.reset with
        pw := { powerReset with railsUp := rails }, sec := secAfter t.sec, pcie := { pcieReset with sent := s.pcie.sent }
        trim := { trimReset with crackBase := crack, crackLast := crack }, own := t.own, nextId := s.nextId, pending := s.pending } ∧
  s.sec.arb ≤ t.sec.arb ∧ (s.fw.st ≠ .persisting → t.sec.flash = s.sec.flash)

/-- A page's location whose register takes a plain write: a 32-bit RW field that nothing holds back. -/
def plainRow (s : State) (l : Loc) (r : Row) (v : Nat) : Prop :=
  l.row = some (r, 0) ∧ r.acc = .rw ∧ r.wide = false ∧ s.rowLocked l r = false ∧ reservedEnc l.pg l.off (v &&& r.mask) = false ∧
  l.expert = false ∧ s.rowHeld l r = false ∧ s.latchLive l r = false ∧
  l.pg ∉ [.reset, .secMbox, .beacon, .brn, .logtrace, .fcol, .scan, .head, .dp, .msix, .dbgDm, .dbgPeek] ∧
  ¬ (l.pg.hasHeader = true ∧ l.off < 0x100)

/-- Function `k`'s request being served is `r`, of an opcode its version defines. -/
def serving (s : State) (k op : Nat) (r : Req) : Prop :=
  (s.ringsOf k).cur = some r ∧ r.op = op ∧ (opFor (s.ringsOf k) op).isSome = true

/-- Fausk can take function `k`'s next request (R251, R283): its ring is open and holds one, no other is served and a response fits. -/
def canTake (s : State) (k : Nat) : Prop :=
  (s.ringsOf k).st = .opened ∧ (s.ringsOf k).cur = none ∧ (s.ringsOf k).reqCons ≠ (s.ringsOf k).reqProd ∧ rspRoom (s.ringsOf k) = true ∧
  s.fw.swapping = false ∧ s.pw.safe = false ∧ 2 ∉ s.sec.halted ∧ s.pw.stage = .ready ∧ (s.ringsOf k).reqCons.toNat ∉ (s.ringsOf k).dirty

/-- The rings after function `k`'s next request was taken. -/
def taken (s : State) (k : Nat) (r : Req) : State :=
  s.setRings k { s.ringsOf k with
    reqCons := (s.ringsOf k).reqCons + 1, cur := some r, dirty := (s.ringsOf k).dirty.filter (· ≠ (s.ringsOf k).reqCons.toNat) }

/-- The words of a command. -/
def cmdWords (f : Front) : List W := f.words.take (hLen (wordAt f.words 0))

/-- The front command of queue `h` is `f`, of opcode `op`: it was checked, the queue may begin it, and its handles and ranges pass again. -/
def mayBegin (s : State) (h op : Nat) (q : Queue) (f : Front) : Prop :=
  s.ready h op = some (q, f) ∧ (q.user = true → s.relocFault q (cmdWords f) (s.operands op (cmdWords f)) = none) ∧
  s.rangeFault q op (cmdWords f) = false

/-- A 32-bit write of `v` passes the checks of its page: `l` and `r` are its register, `x` the bits of its fields. -/
def reachesRow (s : State) (ag : Agent) (o v : Nat) (l : Loc) (r : Row) (x : Nat) : Prop :=
  s.gate ag o true = .go l ∧ l.row = some (r, 0) ∧ r.wide = false ∧ (r.acc = .rw ∨ r.acc = .wo ∨ r.acc = .w1s) ∧ s.rowLocked l r = false ∧
  s.rowHeld l r = false ∧ l.expert = false ∧ reservedEnc l.pg l.off x = false ∧ x = v % 2 ^ 32 &&& r.mask ∧
  ¬ (l.pg.hasHeader = true ∧ l.off < 0x100)

/-- A BLK_CTRL write of `v` to an unlocked page that resets nothing and keeps its LEVEL. -/
def plainCtrl (s : State) (ag : Agent) (o : Nat) (v : W) (l : Loc) : Prop :=
  s.gate ag o true = .go l ∧ l.off = 8 ∧ l.pg.hasHeader = true ∧ l.pg.isInst = false ∧ s.blkLocked l = false ∧ bitOf v.toNat 1 = false ∧
  bitOf v.toNat 2 = s.levelOf l.base

end Sys2Proof.Claims

open Sys2Proof.Claims

/-! ### The block: its queue, its idle step, its stops, reset -/

/-- A step takes the oldest waiting command and runs it with the queue's rest (ch. 95; log entry 7). -/
def Obligations.StepRunsTheOldestCommand : Prop :=
  ∀ (c : Instr) (q : List Instr) (s : State), s.pending = c :: q → step s = exec c { s with pending := q }

/-- A step on an empty queue is one nanosecond (the model's choice, log entry 7): nothing changes without power, in reset or in PARKED
(R126); otherwise GTIME goes on by 1 ns while no correction slews it (R103), here on a device with no running program, no armed
injection and no trace record waiting, whose microsecond does not end. -/
def Obligations.IdleStepIsOneNanosecond : Prop :=
  (∀ s : State, s.pending = [] → (s.pw.railsUp = false ∨ s.pw.perst = true ∨ s.pw.stage = .parked) → step s = .next s) ∧
  (∀ s : State, s.pending = [] → s.pw.railsUp = true → s.pw.perst = false → s.parked = false → s.ck.slewing = false → (∀ n, (s.cluster n).run = none) →
    s.fw.trace = [] → s.armedPages = [] → (s.ck.gtime + 1).toNat / 1000 = s.ck.gtime.toNat / 1000 →
    ∃ ck n, step s = .next { s with ck := ck, own := { s.own with freeCtr := n } } ∧ ck.gtime = s.ck.gtime + 1 ∧ ck.cclk = s.ck.cclk ∧ ck.vcore = s.ck.vcore)

/-- The state after reset: PERST_N held, GTIME zero (R103), SCLK from SYS_REFCLK (R102), every CCLK gated (R100), nothing booted, every
register of the register file at the reset value its table gives, every queue FREE, every instance unassigned but INST_0, device memory in its
canonical form. -/
def Obligations.ResetStateHoldsTheResetValues : Prop :=
  State.reset.pw.perst = true ∧ State.reset.pw.stage = .romStart ∧ State.reset.pw.last = .cold ∧ State.reset.ck.gtime = 0 ∧
  State.reset.pw.sclk = 0 ∧ (∀ c ∈ State.reset.ck.cclk, c.gated = true) ∧ State.reset.ck.cclk.length = 16 ∧
  State.reset.pending = [] ∧
  (∀ a l r p, locate a = some l → l.row = some (r, p) → State.reset.reg a = l.resetVal r p) ∧
  (∀ h, (State.reset.queue h).st = .free) ∧ (∀ k, (State.reset.inst k).st = if k = 0 then .active else .unassigned) ∧
  (∀ i, i < 8 → State.reset.sec.meas.getD i 1 = 0) ∧ Memory.wf State.reset = true

/-- Every step keeps device memory in its canonical form: addresses strictly rising, no entry that an unlisted address would read as. -/
def Obligations.StepKeepsMemoryCanonical : Prop :=
  ∀ s t : State, Memory.wf s = true → step s = .next t → Memory.wf t = true

/-- No step clears a blown fuse (R204, R208): the anti-rollback counter never falls, and a revoked key slot stays revoked. -/
def Obligations.StepNeverUnblowsAFuse : Prop :=
  ∀ s t : State, step s = .next t →
    s.sec.arb ≤ t.sec.arb ∧ ∀ i, s.sec.keyRevoke.testBit i = true → t.sec.keyRevoke.testBit i = true

/-- A command leaves the commands behind it alone, and no free value is drawn twice: the number of values drawn never falls (the model's
own counter, log entry 1). -/
def Obligations.CommandsLeaveTheQueueAlone : Prop :=
  ∀ (c : Instr) (s t : State), exec c s = .next t → t.pending = s.pending ∧ s.own.freeCtr ≤ t.own.freeCtr

/-- No command is refused, and only two stop: a power-up out of order (R91) and a PERST_N released before its hold time while the rails
are up (R89). -/
def Obligations.OnlyTwoCommandsStop : Prop :=
  ∀ (c : Instr) (s : State), (∃ t, exec c s = .next t) ∨
    (∃ crack, c = .coldPowerUp false crack ∧ exec c s = .fault .railsOutOfOrder) ∨
    (∃ fusesOk board, c = .perstNDeasserted false fusesOk board ∧ s.pw.railsUp = true ∧ s.pw.perst = true ∧ s.pw.safe = false ∧
      exec c s = .fault .perstHoldUnmet)

/-- An accepted write of bytes to device memory is read back where its enables are set, and every other byte reads as before (R349,
R149); a 32-byte unit covered whole loses its poison (R649), no other does. -/
def Obligations.MemoryReadsBackWhatWasWritten : Prop :=
  ∀ (s : State) (pa : Nat) (bs : List (Option Byte)), Memory.wf s = true →
    (∀ i b, bs.getD i none = some b → (s.devWriteMask pa bs).memByte (pa + i) = b) ∧
    (∀ a, coversAt pa bs a = false → (s.devWriteMask pa bs).memByte a = s.memByte a) ∧
    (∀ u, u ∈ (s.devWriteMask pa bs).poison ↔ u ∈ s.poison ∧ coversUnit pa bs u = false)

/-- Only a cold reset leaves the safe state (R119): whatever step is taken in it, it stays, unless the command taken is a loss of power or
a power-up. -/
def Obligations.SafeStateIsLeftOnlyByAColdReset : Prop :=
  ∀ s t : State, s.pw.safe = true → step s = .next t →
    t.pw.safe = true ∨ (∃ q, s.pending = .vddAonLoss :: q ∨ s.pending = .inputPowerLoss :: q ∨ ∃ crack, s.pending = .coldPowerUp true crack :: q)

/-- Work on the device reaches neither its power and reset state, nor GTIME and the core voltage, nor the SEC core's state, nor the trim and
telemetry state, nor the link and VF Enable: no request of the life cycle, no command of a queue but REG_WRITE and REG_READ, no sync operation, no Yard program and no
engine changes them (07, 10, 12, 13; derived). -/
def Obligations.WorkLeavesPowerTimeSecurityAndTrimAlone : Prop :=
  ∀ (c : Instr) (s t : State), isWork c = true → exec c s = .next t →
    t.pw = s.pw ∧ t.ck.gtime = s.ck.gtime ∧ t.ck.vcore = s.ck.vcore ∧ t.sec = s.sec ∧ t.trim = s.trim ∧
    t.pcie.linkUp = s.pcie.linkUp ∧ t.pcie.vfEn = s.pcie.vfEn ∧ t.pcie.numVfs = s.pcie.numVfs

/-! ### Power, resets, boot, clocks (03, 05) -/

/-- VDD_AON falling (R94), input power lost (R93) and a power-up in order (R88, R125, R131) are cold resets; after a power-up out of order
the state is not specified, so the model stops (R91). -/
def Obligations.PowerLossAndPowerUpAreColdResets : Prop :=
  (∀ s, ∃ t, exec .vddAonLoss s = .next t ∧ isCold s t false 0) ∧
  (∀ s, ∃ t, exec .inputPowerLoss s = .next t ∧ isCold s t false 0) ∧
  (∀ crack s, ∃ t, exec (.coldPowerUp true crack) s = .next t ∧ isCold s t true crack) ∧
  (∀ crack s, exec (.coldPowerUp false crack) s = .fault .railsOutOfOrder)

/-- PERST_N (R89, R111, R112, R118): low for at least 100 us it is a warm reset, in the safe state a reset of the PCIe controller alone; a
pulse under 10 us is ignored and one between may end either way. Its release starts the boot with the fuses read, or fails the boot on bad
fuses; before the hold time of R89 the boot's behaviour is not specified and the model stops. -/
def Obligations.PerstResetsByItsPulseLength : Prop :=
  (∀ us s, 100 ≤ us → s.pw.railsUp = true → s.pw.perst = false → s.pw.safe = false → ∃ t, exec (.perstNAsserted us) s = .next t ∧
    t = { State.reset with
          pw := { powerReset with refclk := s.pw.refclk, last := .warm, warmCount := min (s.pw.warmCount + 1) 255 }
          sec := secAfter t.sec, pcie := { pcieReset with sent := s.pcie.sent }, fcol := { fcolReset with hist := s.fcol.hist }
          trim := { trimReset with crackBase := s.trim.crackBase }, regs := s.regs.filter fun (a, _) => a == 0x2120 || a == 0x2124
          own := t.own, nextId := s.nextId, pending := s.pending } ∧ s.sec.arb ≤ t.sec.arb) ∧
  (∀ us s, 100 ≤ us → s.pw.railsUp = true → s.pw.perst = false → s.pw.safe = true → ∃ t, exec (.perstNAsserted us) s = .next t ∧
    t.pw = { s.pw with perst := true, configReady := false } ∧ t.pcie = { pcieReset with sent := s.pcie.sent } ∧ t.fcol = s.fcol ∧
    t.sec = s.sec ∧ t.fw = s.fw ∧ t.insts = s.insts ∧ t.queues = s.queues ∧ t.disp = s.disp ∧ t.trim = s.trim ∧ SameMem s t ∧
    ∀ a, a < 0x1E0000 ∨ 0x1E1000 ≤ a → tblFind a t.regs = tblFind a s.regs) ∧
  (∀ us s, us < 10 → exec (.perstNAsserted us) s = .next s) ∧
  (∀ us s, 10 ≤ us → us < 100 → s.pw.railsUp = true → s.pw.perst = false → s.pw.safe = false →
    exec (.perstNAsserted us) s = .next s.bumpFree ∨ exec (.perstNAsserted us) s = .next s.bumpFree.warm) ∧
  (∀ fusesOk board s, s.pw.railsUp = true → s.pw.perst = true → s.pw.safe = false → ∃ t,
    exec (.perstNDeasserted true fusesOk board) s = .next t ∧
    t = { s with
          pw := { s.pw with
            perst := false, stage := if fusesOk then .fusesRead else .bootFailed, failCause := if fusesOk then s.pw.failCause else 9
            pllOn := true, bootStart := s.ck.gtime }
          sec := { s.sec with fuseOk := fusesOk, board := bytesAt board 0 256, meas := t.sec.meas } }) ∧
  (∀ holdMet fusesOk board s, s.pw.railsUp = true → s.pw.perst = true → s.pw.safe = true →
    exec (.perstNDeasserted holdMet fusesOk board) s = .next { s with pw := { s.pw with perst := false } }) ∧
  (∀ fusesOk board s, s.pw.railsUp = true → s.pw.perst = true → s.pw.safe = false →
    exec (.perstNDeasserted false fusesOk board) s = .fault .perstHoldUnmet)

/-- The boot goes through its stages in order (R95, R101, R102, R107, R110, R192, R195 to R197, R222, R302): the PLL's lock brings SCLK to
it, the generator's start-up test makes it ready, configuration space answers, HBM is trained and zero, an image that passes its checks
is chosen (the preferred slot first), the protection setup is written and locked, the firmware starts, Briane is ready. -/
def Obligations.BootStagesAdvanceInOrder : Prop :=
  (∀ s, s.pw.pllOn = true → s.pw.pllLock = false → s.pw.refclk = true → s.pw.safe = false → exec .rootPllLock s = .next { s with
    pw := { s.pw with pllLock := true, sclk := 1, stage := if s.pw.stage = .fusesRead then .pllLocked else s.pw.stage } }) ∧
  (∀ s, s.pw.pllLock = true → s.sec.rng = 1 → ∃ t, exec .trngReady s = .next t ∧ t.pw = { s.pw with trngReady := true } ∧
    t.sec = { s.sec with rng := 2, drbgCount := 0, rngRerun := false, attestKey := s.sec.attestKey || bitOf (t.reg 0x4100).toNat 0 } ∧
    bitOf (t.reg 0x6010).toNat 9 = true ∧ SameMem s t) ∧
  (∀ s, s.pw.perst = false → s.pw.pllOn = true → exec .configReady s = .next { s with pw := { s.pw with configReady := true } }) ∧
  (∀ n s, s.pw.stage = .pllLocked → exec (.hbmTrained n) s = .next (if n % 16 = 15 then
      { s with
        pw := { s.pw with stage := .hbmReady, hbmTrained := 15, selfRefresh := 0 }, mem := [], poison := [], vague := [], flips := []
        slots := [] }
    else { s with pw := { s.pw with stage := .bootFailed, failCause := 8, hbmTrained := n % 16 } })) ∧
  (∀ given s, s.pw.stage = .hbmReady → ∃ t f i b, exec (.imageVerify (some given)) s = .next t ∧ f = s.sec.flash.getD given ∧
    (b = true ↔ prefersB f = true) ∧ i = (if b then f.slotB else f.slotA) ∧ (imageCause s.sec i = 0 → t = { s with
      pw := { s.pw with stage := .imageVerified }
      sec := { s.sec with meas := t.sec.meas, flash := some f, image := some i, slotB := b, svn := i.svn } })) ∧
  (∀ s, s.pw.stage = .hbmReady → ∃ t, exec (.imageVerify none) s = .next t ∧ t = { s with
    pw := { s.pw with stage := .bootFailed, failCause := 1 }
    sec := { s.sec with meas := t.sec.meas, firstFail := 1, fallback := true } }) ∧
  (∀ i s, s.pw.stage = .imageVerified → s.sec.image = some i → ∃ t, exec .protSetupLock s = .next t ∧
    t.pw = { s.pw with stage := .protLocked } ∧ t.reg 0x4100 = 1 ∧ t.reg 0x4114 = 0x1017F ∧ (s.sec.rng = 2 → t.sec.attestKey = true) ∧
    t.queues = s.queues ∧ t.insts = s.insts ∧ t.ck = s.ck) ∧
  (∀ i s, s.pw.stage = .protLocked → s.sec.image = some i → ∃ t, exec .fwStarting s = .next t ∧
    t.pw = { s.pw with stage := .fwStarting } ∧ t.ck = { s.ck with cclk := List.replicate 16 { cclkReset with gated := false } } ∧
    t.fw = { s.fw with version := i.version, verMin := i.brnMin, verMax := i.brnMax } ∧ t.sec = s.sec ∧ SameMem s t) ∧
  (∀ s, s.pw.stage = .fwStarting → exec .brianeReady s = .next { s with pw := { s.pw with
    stage := .ready, bootTime := BitVec.ofNat 32 (min ((s.ck.gtime - s.pw.bootStart).toNat / 1000) 0xFFFFFFFF) } })

/-- A lost reference or an unlocked PLL moves SCLK to the internal oscillator or to SYS_REFCLK and raises a device-fatal fault (R104, R105);
the lock bit after a lost reference is free. -/
def Obligations.ClockLossSwitchesSclkAndRaisesAFault : Prop :=
  (∀ s, s.pw.railsUp = true → s.pw.refclk = true → ∃ t lock, exec .refclkLoss s = .next t ∧
    t.pw = { s.pw with refclk := false, sclk := 2, pllLock := s.pw.pllLock && lock } ∧
    (∃ f ∈ t.fcol.inq, f.code = 0x0B05 ∧ f.cls = 3 ∧ f.level = .l4) ∧ t.sec = s.sec ∧ t.ck = s.ck ∧ SameMem s t) ∧
  (∀ s, s.pw.refclk = true → s.pw.pllLock = true → ∃ t, exec .pllUnlock s = .next t ∧ t.pw = { s.pw with pllLock := false, sclk := 0 } ∧
    (∃ f ∈ t.fcol.inq, f.code = 0x0B06 ∧ f.cls = 3 ∧ f.level = .l4) ∧ t.sec = s.sec ∧ t.ck = s.ck ∧ SameMem s t)

/-- The link (R128, R129, R135): its loss and a Hot Reset start L3 recovery with their cause and clear VF Enable; its training takes the rate and width within the board's limits. -/
def Obligations.LinkEventsResetTheLinkSide : Prop :=
  (∀ s, s.pcie.linkUp = true → s.pw.safe = false → s.pw.stage = .ready → ∃ t, exec .linkDown s = .next t ∧ t.pcie.linkUp = false ∧
    t.pcie.vfEn = false ∧ t.pw.stage = .l3Recovery ∧ t.pw.last = .linkLoss ∧ t.sec.arb = s.sec.arb ∧
    t.ck.gtime = s.ck.gtime) ∧
  (∀ s, s.pcie.linkUp = true → s.pw.safe = false → s.pw.stage = .ready → ∃ t, exec .hotReset s = .next t ∧ t.pcie.linkUp = false ∧
    t.pcie.vfEn = false ∧ t.pw.stage = .l3Recovery ∧ t.pw.last = .hotReset ∧ t.sec.arb = s.sec.arb ∧
    t.ck.gtime = s.ck.gtime) ∧
  (∀ rate width flit s, s.pcie.linkUp = false → s.pw.perst = false → s.pw.pllOn = true → rate ≤ 5 → width ∈ [1, 2, 4, 8, 16] →
    exec (.linkUp rate width flit) s = .next { s with pcie := { s.pcie with
      linkUp := true, rate := min rate (boardLimit s.sec.board).1, width := min width (boardLimit s.sec.board).2, flit := flit } })

/-- The wider resets of a READY device (R112 to R117, R133): an L3 recovery, asked for by a cause or by a write of RESET_REQ with its key, and
its end; the FLR of the PF clears VF Enable and ends every session and sync object;
a VF's is one while the PF's or a recovery runs; FLR_DONE ends one. -/
def Obligations.RecoveryAndFunctionResets : Prop :=
  (∀ cause s, cause ≠ .cold → cause ≠ .warm → s.pw.safe = false → s.pw.stage = .ready → ∃ t, exec (.l3RecoveryStart cause) s = .next t ∧
    t.pw = { s.pw with
      last := cause, stage := .l3Recovery, l3 := true, l3Count := min (s.pw.l3Count + 1) 0xFFFFFFFF, removing := false } ∧
    t.sec = { s.sec with drbgCount := 0 } ∧ t.trim = s.trim ∧ t.ck.gtime = s.ck.gtime ∧ t.fw.staged = none ∧ t.sess = [] ∧
    t.sync.objs = [] ∧ t.sync.waiters = []) ∧
  (∀ s v, s.pw.safe = false → s.pw.stage = .ready → bitOf v.toNat 0 = true → bitsOf v.toNat 16 16 = 0x4C33 →
    (∃ l, locate 0x2110 = some l ∧ s.gate ⟨0, 0⟩ 0x2110 true = .go l ∧ s.blkLocked l = false) → ∃ t,
    exec (.resetReqL3 ⟨0, 0⟩ v) s = .next t ∧ t.pw.stage = .l3Recovery ∧ t.pw.last = .hostL3 ∧ t.sec = { s.sec with drbgCount := 0 }) ∧
  (∀ s, s.pw.l3 = true → ∃ t, exec .l3RecoveryDone s = .next t ∧
    t.pw = { s.pw with l3 := false, stage := if s.pw.stage = .l3Recovery then .ready else s.pw.stage } ∧
    (∀ k f, (k, f) ∈ t.pcie.fns → f.flr = false) ∧ t.sec = s.sec ∧ t.trim = s.trim ∧ SameMem s t) ∧
  (∀ s, s.pcie.linkUp = true → s.pw.configReady = true → s.pw.l3 = false → s.pw.safe = false → s.pw.stage = .ready → ∃ t,
    exec .pfFlr s = .next t ∧ t.pcie.vfEn = false ∧ t.pcie.numVfs = 0 ∧ t.sess = [] ∧ t.sync.objs = [] ∧ t.pw = s.pw ∧ t.sec = s.sec ∧ t.trim = s.trim) ∧
  (∀ k s, s.vfSeen k = true → s.pcie.linkUp = true → ∃ t, exec (.vfFlr k) s = .next t ∧ t.pw = s.pw ∧
    t.sec = s.sec ∧ t.trim = s.trim) ∧
  (∀ k s, (s.fn k).flr = true → s.pw.l3 = false →
    (k = 0 ∨ (s.inst k).st ≠ .quiescing ∧ (s.inst k).st ≠ .resetting ∧ (s.inst k).quiesce = none) →
    exec (.flrDone k) s = .next (s.setFn k { s.fn k with flr := false }))

/-! ### The host link: configuration space, virtual functions, BAR 2, host reads, the stall (04) -/

/-- Configuration requests (R107, R129, R135, R138, R139): retry until configuration space is ready and while a reset of the function or of
the device runs, Unsupported Request from a function that does not exist; else a read answers the field and changes nothing else, and a
write of Completion Timeout, of Max_Payload_Size or of PTM Enable sets that field of the function alone. -/
def Obligations.ConfigurationRequestsAnswerByReadiness : Prop :=
  (∀ k reg w prog s, s.pcie.linkUp = true → s.pw.configReady = false → exec (.pcieConfigRequest k reg w prog) s = .next (s.answer [] 2)) ∧
  (∀ k reg w prog s, s.pcie.linkUp = true → s.pw.configReady = true → k ≠ 0 → s.vfSeen k = false →
    exec (.pcieConfigRequest k reg w prog) s = .next (s.answer [] 1)) ∧
  (∀ k reg w prog s, s.pcie.linkUp = true → s.pw.configReady = true → (k = 0 ∨ s.vfSeen k = true) →
    (s.pw.l3 = true ∨ (s.fn 0).flr = true ∨ (s.fn k).flr = true) → exec (.pcieConfigRequest k reg w prog) s = .next (s.answer [] 2)) ∧
  (∀ k prog s, s.pcie.linkUp = true → s.pw.configReady = true → (k = 0 ∨ s.vfSeen k = true) → s.pw.l3 = false → (s.fn 0).flr = false →
    (s.fn k).flr = false →
    exec (.pcieConfigRequest k .classCode none prog) s = .next (s.answer [0x00, 0x00, 0x12, 0x00] 0) ∧
    exec (.pcieConfigRequest k .vendorId none prog) s = .next (s.answer (if k = 0 then [0x9C, 0x1E, 0, 0] else [0xFF, 0xFF, 0, 0]) 0) ∧
    exec (.pcieConfigRequest k .busMaster none prog) s = .next (s.answer [BitVec.ofNat 8 (b2n (s.fn k).bme), 0, 0, 0] 0) ∧
    (s.pw.stage ≠ .parked →
      (∀ v, exec (.pcieConfigRequest k .cplTimeout (some v) prog) s = .next ((s.setFn k { s.fn k with cto := BitVec.ofNat 4 v }).answer [] 0)) ∧
      (∀ v, exec (.pcieConfigRequest k .mps (some v) prog) s = .next ((s.setFn k { s.fn k with mps := 128 * 2 ^ (v % 8) }).answer [] 0)) ∧
      (∀ v, exec (.pcieConfigRequest 0 .ptmEnable (some v) prog) s =
        .next (State.answer { s with pcie := { s.pcie with ptmEn := v % 2 == 1 } } [] 0))))

/-- SR-IOV (R138): VF Enable with NumVFs from 1 to 127 makes VF 1 to VF NumVFs visible, and their configuration spaces answer without retry;
NumVFs takes a write of 0 to 127 while VF Enable is 0 or NumVFs reads 0, ignores a write above 127 and a write while VF Enable is 1 and
NumVFs nonzero; with NumVFs 0, VF Enable has no effect until a later legal write. -/
def Obligations.VirtualFunctionsAppearByNumVfs : Prop :=
  (∀ s, s.pcie.linkUp = true → s.pw.stage ≠ .parked → 1 ≤ s.pcie.numVfs → s.pcie.numVfs ≤ 127 → ∃ t, exec .vfEnableSet s = .next t ∧
    t = { s with pcie := { s.pcie with vfEn := true } } ∧ (∀ k, t.vfSeen k = true ↔ 1 ≤ k ∧ k ≤ s.pcie.numVfs) ∧
    (s.pw.configReady = true → s.pw.l3 = false → (s.fn 0).flr = false → ∀ k, 1 ≤ k → k ≤ s.pcie.numVfs → (s.fn k).flr = false → ∀ reg prog,
      ∃ d, exec (.pcieConfigRequest k reg none prog) t = .next (t.answer d 0))) ∧
  (∀ n s, s.pcie.linkUp = true → s.pw.stage ≠ .parked → n ≤ 127 → (s.pcie.vfEn = false ∨ s.pcie.numVfs = 0) →
    exec (.numvfsWrite n) s = .next { s with pcie := { s.pcie with numVfs := n } }) ∧
  (∀ n (s : State), 127 < n → exec (.numvfsWrite n) s = .next s) ∧
  (∀ n (s : State), s.pcie.vfEn = true → s.pcie.numVfs ≠ 0 → exec (.numvfsWrite n) s = .next s) ∧
  (∀ k (s : State), s.pcie.vfEn = true → s.pcie.numVfs = 0 → s.vfSeen k = false) ∧
  (∀ n s, s.pcie.linkUp = true → s.pw.stage ≠ .parked → s.pcie.vfEn = true → s.pcie.numVfs = 0 → 1 ≤ n → n ≤ 127 →
    ∃ t, exec (.numvfsWrite n) s = .next t ∧ ∀ k, t.vfSeen k = true ↔ 1 ≤ k ∧ k ≤ n)

/-- BAR Size fields (R143): a write takes effect only while Memory Space Enable is 0, of the PF for PF BAR 2 and of the VFs for VF BAR 2; else
it is ignored and the size stays. -/
def Obligations.BarSizeIsWrittenOnlyWhileMemorySpaceIsOff : Prop :=
  (∀ n s, s.pcie.linkUp = true → s.pw.stage ≠ .parked → n ≤ 9 → (s.fn 0).memEn = false →
    exec (.barSizeWrite false n) s = .next { s with pcie := { s.pcie with pfBar2 := n } }) ∧
  (∀ n s, s.pcie.linkUp = true → s.pw.stage ≠ .parked → n ≤ 9 → s.pcie.vfMse = false →
    exec (.barSizeWrite true n) s = .next { s with pcie := { s.pcie with vfBar2 := n } }) ∧
  (∀ n s, (s.fn 0).memEn = true → exec (.barSizeWrite false n) s = .next s) ∧
  (∀ n s, s.pcie.vfMse = true → exec (.barSizeWrite true n) s = .next s)

/-- Function state (R140, R153, R159, R309): VF Enable cleared makes every VF invisible and drops its configuration space; D3hot and D0 set the power
state; a function whose Bus Master Enable clears has no write or message left in the transmit queue or held, each message of its vectors
that was there becoming a pending bit; unmasking a vector clears its mask word. -/
def Obligations.FunctionsEnterAndLeaveTheirStates : Prop :=
  (∀ s, s.pcie.linkUp = true → s.pw.stage ≠ .parked → s.pcie.vfEn = true → ∃ t, exec .vfEnableClear s = .next t ∧ t.pcie.vfEn = false ∧
    (∀ k, t.vfSeen k = false) ∧ t.pw = s.pw ∧ t.sec = s.sec ∧ t.trim = s.trim) ∧
  (∀ k s, s.pcie.linkUp = true → (k = 0 ∨ s.vfSeen k = true) → s.pw.stage ≠ .parked → (s.fn k).d3hot = false → ∃ t,
    exec (.d3hotEntry k) s = .next t ∧ t.pw = s.pw ∧ t.sec = s.sec ∧ t.pcie.linkUp = true ∧
    t = (if s.pw.safe = true ∨ s.pw.stage ≠ .ready then s.setFn k { s.fn k with d3hot := true }
      else (s.setFn k { s.fn k with d3hot := true }).trigger k false true false .quiesced 3)) ∧
  (∀ k s, s.pcie.linkUp = true → (k = 0 ∨ s.vfSeen k = true) → s.pw.stage ≠ .parked →
    exec (.d0Return k) s = .next (s.setFn k { s.fn k with d3hot := false })) ∧
  (∀ k prog s, s.pcie.linkUp = true → (k = 0 ∨ s.vfSeen k = true) → s.pw.stage ≠ .parked → (s.fn k).bme = true →
    (∀ m ∈ s.movers, m.inst = k → m.toHost = false) → s.pcie.atsInval = [] → (∀ c ∈ s.cmds, c.work ≠ .inval ∧ c.work ≠ .hostWait) → ∃ t, exec (.busMasterDisable k prog) s = .next t ∧ t.pw = s.pw ∧ t.sec = s.sec ∧
    (∀ m ∈ t.pcie.txq ++ t.pcie.held, msgInst m ≠ k) ∧ (∀ m ∈ s.pcie.txq, msgInst m ≠ k → m ∈ t.pcie.txq) ∧
    (∀ v, HostMsg.msix k v ∈ s.pcie.txq ++ s.pcie.held → k * 16 + v ∈ t.pcie.pba))

/-- BAR 2 (R144 to R146, R149): a read or write of the PF reaches device memory at BAR2_WIN_BASE times 256 MiB plus its offset, at or above
96 GiB or in a carve-out it answers zero or is ignored, and is counted; a VF's offsets map its slots in ascending order, a slot that is
pending and what lies beyond the list map nothing. -/
def Obligations.Bar2ReachesDeviceMemory : Prop :=
  (∀ k off len s, 0 < len → off % 4096 + len ≤ 4096 → off + len ≤ s.bar2Size k → s.memOpen k = true → s.pw.safe = false → s.reg 0x4100 ≠ 0 →
    (s.fn k).flr = false → s.pw.stage ≠ .parked →
    (∀ pa, s.bar2Map k off = some pa → s.poisonAt pa len = none → s.flipAt pa len = none →
      exec (.bar2Access k off len none none false) s = .next (s.answer (s.memBytes pa len) 0)) ∧
    (s.bar2Map k off = none → exec (.bar2Access k off len none none false) s = .next ((s.count 0x1E0118).answer (List.replicate len 0) 0)) ∧
    (∀ bs : List (Option Byte), bs.length = len → ∀ pa, s.bar2Map k off = some pa → (k = 0 ∨ (s.inst k).st ≠ .shadowed) →
      exec (.bar2Access k off len (some bs) none false) s = .next ((s.devWriteMask pa bs).answer [] 0)) ∧
    (∀ bs : List (Option Byte), bs.length = len → (s.bar2Map k off = none ∨ (k ≠ 0 ∧ (s.inst k).st = .shadowed)) →
      exec (.bar2Access k off len (some bs) none false) s = .next ((s.count 0x1E0118).answer [] 0))) ∧
  (∀ off (s : State), s.bar2Map 0 off = if 2 ^ 28 * (s.reg 0x1E0114).toNat + off < 384 * 2 ^ 28 ∧ s.inCarve (2 ^ 28 * (s.reg 0x1E0114).toNat + off) = false
    then some (2 ^ 28 * (s.reg 0x1E0114).toNat + off) else none) ∧
  (∀ k i o n (s : State), k ≠ 0 → o < 2 ^ 28 → (s.slotList k)[i]? = some n → slotPending (s.slot n) = false →
    s.bar2Map k (i * 2 ^ 28 + o) = some (2 ^ 28 * n + o)) ∧
  (∀ k i o n (s : State), k ≠ 0 → o < 2 ^ 28 → (s.slotList k)[i]? = some n → slotPending (s.slot n) = true → s.bar2Map k (i * 2 ^ 28 + o) = none) ∧
  (∀ k off (s : State), k ≠ 0 → (s.slotList k).length ≤ off / 2 ^ 28 → s.bar2Map k off = none)

/-- Requests the device does not serve (R137, R162): a poisoned write to a BAR is discarded and logged as Poisoned TLP Received in the
receiving function's AER registers, and changes nothing else; an AtomicOp is answered with Unsupported Request and logged there. -/
def Obligations.BadHostRequestsAreLoggedInAer : Prop :=
  (∀ k s, s.pcie.linkUp = true → (k = 0 ∨ s.vfSeen k = true) →
    exec (.poisonedHostWrite k) s = .next (s.setFn k { s.fn k with aer := (s.fn k).aer ++ [12] })) ∧
  (∀ k s, s.pcie.linkUp = true → (k = 0 ∨ s.vfSeen k = true) →
    exec (.atomicopReceived k) s = .next ((s.setFn k { s.fn k with aer := (s.fn k).aer ++ [20] }).answer [] 1))

/-- Host reads (R160, R161): the completion of an indirect buffer's read gives its words to the frame that waits, and its failure or its
timeout is noted there with its cause; of a ring's read, the entries become the queue's fetched ones. -/
def Obligations.HostReadsReachWhatWaitsForThem : Prop :=
  (∀ n h dp o len data s r, s.pcie.linkUp = true → s.pcie.reads[n]? = some r → r.what = .indirect h dp o → r.len = len → ∃ t,
    exec (.hostReadCompletion (.read n) .ok data) s = .next t ∧
    t = (({ s with pcie := { s.pcie with reads := s.pcie.reads.eraseIdx n } } : State).onFrame h dp fun f =>
      { f with got := tblPut o (bytesWords (len / 4) (bytesAt data 0 len)) f.got }).settleLink) ∧
  (∀ n h dp o e data s r, s.pcie.linkUp = true → s.pcie.reads[n]? = some r → r.what = .indirect h dp o → e ≠ .ok → e ≠ .timeout → ∃ t,
    exec (.hostReadCompletion (.read n) e data) s = .next t ∧
    t = (({ s with pcie := { s.pcie with reads := s.pcie.reads.eraseIdx n } } : State).onFrame h dp fun f =>
      { f with fails := (o, r.len / 4, e) :: f.fails }).settleLink) ∧
  (∀ n h dp o s r, s.pcie.linkUp = true → s.pcie.reads[n]? = some r → r.what = .indirect h dp o → ∃ t,
    exec (.hostReadTimeout n) s = .next t ∧
    t = (({ s with pcie := { s.pcie with reads := s.pcie.reads.eraseIdx n } } : State).onFrame h dp fun f =>
      { f with fails := (o, r.len / 4, .timeout) :: f.fails }).settleLink) ∧
  (∀ n h c data s r, s.pcie.linkUp = true → s.pcie.reads[n]? = some r → r.what = .ring h c → ∃ t,
    exec (.hostReadCompletion (.read n) .ok data) s = .next t ∧
    t = (({ s with pcie := { s.pcie with reads := s.pcie.reads.eraseIdx n } } : State).ringData h c (bytesAt data 0 r.len)).settleLink)

/-- The host stall (R164, R165, R167, R170, R172): a stall begins, after its limit LINK_STALL stops every host-bound write and raises HOST_STALL,
credits bring the transmit queue out in order before the held writes, and a stall of 100 ms is a link loss. -/
def Obligations.HostStallGoesThroughItsStates : Prop :=
  (∀ s, s.pcie.linkUp = true → s.pcie.stall = .normal →
    exec (.creditStallBegin []) s = .next { s with pcie := { s.pcie with stall := .creditWait, stallStart := s.ck.gtime } }) ∧
  (∀ prog s, s.pcie.linkUp = true → s.pcie.stall = .normal → ∃ t, exec (.creditStallBegin prog) s = .next t ∧ t.pcie.stall = .creditWait ∧
    t.pw = s.pw ∧ t.sec = s.sec ∧ t.pcie.stallStart = s.ck.gtime) ∧
  (∀ s, s.pcie.stall = .creditWait → s.fcol.inq.length < 48 → ∃ t, exec (.hostStallLimitExpiry []) s = .next t ∧ t.pcie.stall = .linkStall ∧
    t.pcie.txq = s.pcie.txq ∧ t.pw = s.pw ∧ (∃ f ∈ t.fcol.inq, f.code = 0x0401 ∧ f.gtime = s.ck.gtime) ∧ SameMem s t) ∧
  (∀ m (s : State), s.pcie.linkUp = true → (s.fn (msgInst m)).bme = true → s.pw.safe = false → s.pcie.stall = .linkStall →
    s.issueHost m = { s with pcie := { s.pcie with held := s.pcie.held ++ [m] } }) ∧
  (∀ s, s.pcie.stall ≠ .normal → s.pcie.linkUp = true → s.pw.safe = false → (∀ m ∈ s.pcie.held, (s.fn (msgInst m)).bme = true) → s.cmds = [] →
    s.pcie.atsInval = [] → ∃ t l, exec .creditReturn s = .next t ∧ t.pcie.stall = .normal ∧ t.pcie.txq = [] ∧
    t.pcie.sent = s.pcie.sent ++ s.pcie.txq ++ s.pcie.held ++ l ∧ (s.pcie.stall = .creditWait → l = []) ∧ t.pw = s.pw ∧ t.fcol = s.fcol ∧ SameMem s t) ∧
  (∀ s, s.pcie.stall ≠ .normal → s.pw.safe = false → s.pw.stage = .ready → ∃ t, exec .stallLinkLoss s = .next t ∧ t.pcie.linkUp = false ∧
    t.pw.stage = .l3Recovery ∧ t.pw.last = .linkLoss)

/-- ATS, PTM and IDE (R175 to R178, R180, R181): an invalidation gives up the translations it names and no other; a failed PTM dialog, not the
third in a row, is counted and leaves GTIME alone; the keys of a stream are set up over an SPDM session; a failed check of an IDE stream
stops that stream and raises a fault. -/
def Obligations.AtsPtmAndIde : Prop :=
  (∀ k pg n s, s.pcie.linkUp = true → (k = 0 ∨ s.vfSeen k = true) → (s.fn k).atsEn = true → ∃ t, exec (.atsInvalidateRequest k pg n) s = .next t ∧
    (∀ a, pg ≤ a → a < pg + n → (k, a) ∉ t.pcie.ats) ∧ (∀ e ∈ s.pcie.ats, (e.1 ≠ k ∨ e.2 < pg ∨ pg + n ≤ e.2) → e ∈ t.pcie.ats) ∧
    t.pw = s.pw ∧ t.sec = s.sec ∧ SameMem s t) ∧
  (∀ e s, s.pcie.linkUp = true → s.pcie.ptmEn = true → ∃ t, exec (.ptmDialog true e) s = .next t ∧ t.ck.failRun = 0 ∧ t.ck.cclk = s.ck.cclk ∧ t.ck.synced = true ∧
    t.ck.gtime = (if 1000000 < e then s.ck.gtime + BitVec.ofNat 64 e.toNat else s.ck.gtime) ∧ t.ck.offset = (if 1000000 < e then 0 else e) ∧
    t.ck.slewing = (if 1000000 < e then false else decide (e ≠ 0)) ∧ t.pw = s.pw ∧ t.sec = s.sec ∧ SameMem s t) ∧
  (∀ e s, s.pcie.linkUp = true → s.pcie.ptmEn = true → s.ck.failRun < 2 → exec (.ptmDialog false e) s =
    .next { (s.countField 0x3114 0 16 1) with ck := { s.ck with failRun := s.ck.failRun + 1 } }) ∧
  (∀ n s, s.pcie.linkUp = true → n < 4 → s.sec.spdm = .session →
    exec (.ideKmKeySetup n) s = .next { s with pcie := { s.pcie with ide := s.pcie.ide.set n 1 } }) ∧
  (∀ n s, s.pcie.linkUp = true → s.pcie.ide[n]? = some 1 → s.fcol.inq.length < 48 → ∃ t, exec (.ideCheckFail n) s = .next t ∧ t.pcie.ide = s.pcie.ide.set n 2 ∧
    (t.fn 0).aer = (s.fn 0).aer ++ [28] ∧ (∃ f ∈ t.fcol.inq, f.code = 0x0403) ∧ t.pw = s.pw ∧ t.sec = s.sec ∧ SameMem s t)

/-! ### Security (05) -/

/-- The SPDM responder (R226 to R228): each request is answered where the connection is ready for it and moves the connection as SPDM 1.2
orders it, one that comes out of order gets an error, and only requests that need fresh randomness wait for the generator (R223). Measurements
1 to 8 are the registers 0 to 7 and measurement 9 is the raw status value. What reaches nothing else of the device stays. -/
def Obligations.SpdmResponderFollowsItsConnection : Prop :=
  ∀ s : State, s.pcie.linkUp = true → s.pw.configReady = true → s.pw.safe = false → s.pw.stage ≠ .parked → 0 ∉ s.sec.halted →
    (exec .spdmGetVersion s = .next ((s.setSpdm .version).doeSay (.data [0x12]))) ∧
    (s.sec.spdm = .version → exec .spdmGetCapabilities s = .next ((s.setSpdm .caps).doeSay (.data []))) ∧
    (s.sec.spdm ≠ .version → exec .spdmGetCapabilities s = .next (s.doeSay .unexpected)) ∧
    (s.sec.spdm = .caps → exec (.spdmNegotiateAlgorithms true) s = .next ((s.setSpdm .algos).doeSay (.data [])) ∧
      exec (.spdmNegotiateAlgorithms false) s = .next (s.doeSay .invalid)) ∧
    ((s.sec.spdm = .algos ∨ s.sec.spdm = .keyed ∨ s.sec.spdm = .session) →
      (∀ len, exec (.spdmGetDigests len) s = .next (s.doeSay (.data (digestBytes (Config.sha384 (certChain 0 len)))))) ∧
      (∀ off len, exec (.spdmGetCertificate 0 off len) s = .next (s.doeSay (.data (certChain off len)))) ∧
      (∀ slot off len, slot ≠ 0 → exec (.spdmGetCertificate slot off len) s = .next (s.doeSay .invalid)) ∧
      (s.spdmFresh = false → (∀ nonce, exec (.spdmChallenge nonce) s = .next (s.doeSay .busy)) ∧
        (∀ idx sign nonce, exec (.spdmGetMeasurements idx sign nonce) s = .next (s.doeSay .busy)) ∧
        (∀ ok, exec (.spdmKeyExchange ok) s = .next (s.doeSay .busy))) ∧
      (s.spdmFresh = true → (∀ nonce, exec (.spdmChallenge nonce) s = .next ((s.generate 32).2.doeSay (.data (signed (nonce ++ (s.generate 32).1))))) ∧
        (∀ i nonce, 1 ≤ i → i ≤ 8 → exec (.spdmGetMeasurements i false nonce) s = .next ((s.generate 32).2.doeSay
          (.data (BitVec.ofNat 8 i :: digestBytes (s.sec.meas.getD (i - 1) 0) ++ nonce ++ (s.generate 32).1)))) ∧
        (∀ nonce, exec (.spdmGetMeasurements 9 true nonce) s = .next ((s.generate 32).2.doeSay (.data (signed (9 :: leBytes 4
          (b2n (s.sec.dbgScope != 0) + 2 * b2n Config.debugDisable + 4 * ownerState s.sec + 16 * s.sec.arb) ++ nonce ++ (s.generate 32).1))))) ∧
        exec (.spdmKeyExchange true) s = .next (((s.generate 48).2.setSpdm .keyed).doeSay (.data (signed (s.generate 48).1))))) ∧
    (s.sec.spdm = .keyed → exec (.spdmFinish true) s = .next ((s.setSpdm .session).doeSay (.data [])) ∧
      exec (.spdmFinish false) s = .next ((s.setSpdm .algos).doeSay .invalid)) ∧
    (s.sec.spdm = .session → exec .spdmKeyUpdate s = .next (s.doeSay (.data [])) ∧ exec .spdmHeartbeat s = .next (s.doeSay (.data [])) ∧
      exec .spdmEndSession s = .next ((s.setSpdm .algos).doeSay (.data [])))

/-- The security mailbox (R212, R223, R231 to R233): the SEC core answers a command with its code and its response, and MBOX_DONE writes them to
the registers and sets DONE; a wrong length is BAD_LEN, a code R232 does not list is BAD_CMD, a generator that is not ready is
RNG_NOT_READY; a nonce is remembered for one unlock, and it expires. -/
def Obligations.SecurityMailboxAnswersItsCommands : Prop :=
  (∀ (s : State) len, s.sec.mbox = some ⟨0x01, len, none⟩ → 0 ∉ s.sec.halted →
    ((len = 0 ∨ 256 < len) → exec .getRandom s = .next (s.mboxAnswer 3 [])) ∧
    (1 ≤ len → len ≤ 256 → s.sec.rng ≠ 2 → exec .getRandom s = .next (s.mboxAnswer 15 [])) ∧
    (1 ≤ len → len ≤ 256 → s.sec.rng = 2 → exec .getRandom s = .next ((s.generate len).2.mboxAnswer 0 (s.generate len).1))) ∧
  (∀ (s : State) len, s.sec.mbox = some ⟨0x02, len, none⟩ → 0 ∉ s.sec.halted → ∀ data : List Byte,
    (192 < data.length → ∀ alg, exec (.hash alg data) s = .next (s.mboxAnswer 3 [])) ∧
    (data.length ≤ 192 → exec (.hash 0 data) s = .next (s.mboxAnswer 0 (leBytes 32 (Config.sha256 data).toNat).reverse) ∧
      exec (.hash 1 data) s = .next (s.mboxAnswer 0 (digestBytes (Config.sha384 data))))) ∧
  (∀ (s : State) len op curve operands, s.sec.mbox = some ⟨0x03, len, none⟩ → 0 ∉ s.sec.halted → op ≤ 2 → curve ≤ 1 →
    (∀ zero range coord inf ncurve sig, (zero = true ∨ range = true) →
      exec (.pkeTest op curve operands [zero, range, coord, inf, ncurve, sig]) s = .next (s.mboxAnswer 5 [])) ∧
    (∀ inf ncurve sig, exec (.pkeTest op curve operands [false, false, true, inf, ncurve, sig]) s = .next (s.mboxAnswer 6 [])) ∧
    (∀ ncurve sig, exec (.pkeTest op curve operands [false, false, false, true, ncurve, sig]) s = .next (s.mboxAnswer 8 [])) ∧
    (∀ sig, exec (.pkeTest op curve operands [false, false, false, false, true, sig]) s = .next (s.mboxAnswer 7 [])) ∧
    (exec (.pkeTest op curve operands [false, false, false, false, false, true]) s = .next (s.mboxAnswer 9 [])) ∧
    (op ≠ 2 → exec (.pkeTest op curve operands (List.replicate 6 false)) s = .next (s.mboxAnswer 0
      ((List.range (if op = 1 then 0 else if curve = 0 then 64 else 96)).map (Config.pkeByte (op * 2 + curve) operands))))) ∧
  (∀ s : State, s.sec.mbox = some ⟨0x10, 0, none⟩ → 0 ∉ s.sec.halted → s.sec.rng = 2 → ∃ t, exec .debugChallenge s = .next t ∧
    t = { s with
      sec := { s.sec with
        nonce := some (BitVec.ofNat 256 (leNat (s.generate 32).1)), drbgCount := s.sec.drbgCount + 1, mbox := some ⟨0x10, 0, some (0, (s.generate 32).1)⟩ }
      own := s.bumpFree.own }) ∧
  (∀ s : State, exec .nonceExpiry s = .next { s with sec := { s.sec with nonce := none } }) ∧
  (∀ (s : State) code len, s.sec.mbox = some ⟨code, len, none⟩ → 0 ∉ s.sec.halted → code ∉ [0x01, 0x02, 0x03, 0x10, 0x11, 0x20, 0x21] →
    exec .mboxReservedCmd s = .next (s.mboxAnswer 2 [])) ∧
  (∀ (s : State) cmd len code d, s.sec.mbox = some ⟨cmd, len, some (code, d)⟩ → d.length ≤ 256 → cmd ≠ 0x20 → cmd ≠ 0x21 → ∃ t,
    exec .mboxDone s = .next t ∧ t.sec = { s.sec with mbox := none } ∧ t.reg 0x6104 = BitVec.ofNat 32 (1 + 2 ^ 8 * code + 2 ^ 16 * d.length) ∧
    (∀ i, 4 * i < d.length → t.reg (0x6300 + 4 * i) = BitVec.ofNat 32 (leNat (bytesAt d (4 * i) 4))) ∧ bitOf (t.reg 0x6010).toNat 8 = true ∧
    t.pw = s.pw ∧ SameMem s t)

/-- The fuses (R205, R206, R208, R209): a second OWNER_KEY_PROGRAM is refused with FUSE_ALREADY_SET, the first programs the hash, and
its commit marker at MBOX_DONE makes OWNER_STATE read COMMITTED; an ARB_COMMIT while the SVN is at or below the counter changes nothing and
answers OK, one above it raises the counter at MBOX_DONE to the running image's SVN and nothing else does so. -/
def Obligations.FuseCommandsProgramOnce : Prop :=
  (∀ (s : State) ok, s.sec.mbox = some ⟨0x20, 48, none⟩ → 0 ∉ s.sec.halted → ownerState s.sec ≠ 0 →
    exec (.ownerKeyProgram ok) s = .next (s.mboxAnswer 11 [])) ∧
  (∀ s : State, s.sec.mbox = some ⟨0x20, 48, none⟩ → 0 ∉ s.sec.halted → ownerState s.sec = 0 → ∃ t u, exec (.ownerKeyProgram true) s = .next t ∧
    t = { s with sec := { s.sec with
      ownerHash := BitVec.ofNat 384 (leNat (s.mboxReq 48)), ownerStep := true, mbox := some ⟨0x20, 48, some (0, [])⟩ } } ∧
    exec .mboxDone t = .next u ∧ ownerState u.sec = 1 ∧ u.sec.ownerHash = t.sec.ownerHash) ∧
  (∀ (s : State) ok, s.sec.mbox = some ⟨0x21, 0, none⟩ → 0 ∉ s.sec.halted → s.sec.svn ≤ s.sec.arb → ∃ t u, exec (.arbCommit ok) s = .next t ∧
    t = s.mboxAnswer 0 (leBytes 4 s.sec.arb) ∧ exec .mboxDone t = .next u ∧ u.sec.arb = s.sec.arb ∧ u.sec.keyRevoke = s.sec.keyRevoke ∧
    bitsOf (u.reg 0x6104).toNat 8 8 = 0) ∧
  (∀ s : State, s.sec.mbox = some ⟨0x21, 0, none⟩ → 0 ∉ s.sec.halted → s.sec.arb < s.sec.svn → ∃ t u, exec (.arbCommit true) s = .next t ∧
    t.sec.arb = s.sec.arb ∧ exec .mboxDone t = .next u ∧ u.sec.arb = s.sec.svn ∧ u.sec.keyRevoke = s.sec.keyRevoke ||| revokeMask s.sec) ∧
  (∀ s : State, s.sec.mbox = some ⟨0x21, 0, none⟩ → 0 ∉ s.sec.halted → s.sec.arb < s.sec.svn → ∃ t, exec (.arbCommit false) s = .next t ∧
    s.sec.arb ≤ t.sec.arb ∧ t.sec.arb ≤ s.sec.svn ∧ t.sec.mbox = some ⟨0x21, 0, some (12, [])⟩)

/-- The random number generator (R223 to R225, R236): a read of RNG_DATA gives VALID output only while the state is READY and output is
available, else zero; the generator reseeds after 65,536 requests; a failed health test raises RNG_FAIL and reruns the start-up once, a second
one leaves FAILED. -/
def Obligations.RandomNumberGeneratorStopsOnFailure : Prop :=
  (∀ s : State, s.sec.rng = 2 → 65536 ≤ s.sec.drbgCount → exec .drbgReseed s = .next { s with sec := { s.sec with drbgCount := 0 } }) ∧
  (∀ s : State, (s.sec.rng = 1 ∨ s.sec.rng = 2) → s.fcol.inq.length < 48 → ∃ t, exec .rngHealthFail s = .next t ∧
    t.sec = { s.sec with rng := if s.sec.rngRerun then 3 else 1, rngFails := min 255 (s.sec.rngFails + 1), rngRerun := true } ∧
    (∃ f ∈ t.fcol.inq, f.code = 0x0901 ∧ f.gtime = s.ck.gtime) ∧ t.pw = s.pw ∧ SameMem s t) ∧
  (∀ s l ag avail, s.gate ag 0x6110 false = .go l → s.gate ag 0x6114 false = .go { l with off := 0x114 } → l.off = 0x110 → l.pg = .secMbox → s.pw.stage ≠ .parked →
    (s.sec.rng ≠ 2 ∨ avail = false) → ∃ t, exec (.rngDataRead ag avail) s = .next t ∧ t.own.readData = List.replicate 8 0 ∧ t.own.cpl = 0 ∧ t.sec = s.sec) ∧
  (∀ s l ag, s.gate ag 0x6110 false = .go l → s.gate ag 0x6114 false = .go { l with off := 0x114 } → l.off = 0x110 → l.pg = .secMbox → s.pw.stage ≠ .parked →
    s.sec.rng = 2 → ∃ t, exec (.rngDataRead ag true) s = .next t ∧ t.own.readData = leBytes 4 (leNat (s.generate 4).1) ++ [1, 0, 0, 0] ∧
    t.sec = { s.sec with drbgCount := s.sec.drbgCount + 1 })

/-- Debug access (R210 to R216): a token is refused once DEBUG_DISABLE is blown, and a wrong one uses up its nonce; an accepted one opens its
scopes. The HBM window reads and writes device memory at its base; where it is closed it reads zero and ignores writes. JTAG acts as BYPASS until
its scope is open. -/
def Obligations.DebugOpensOnlyByAnAcceptedToken : Prop :=
  (∀ (s : State) m k o, s.sec.mbox = some m → m.cmd = 0x11 → m.answer = none → 0 ∉ s.sec.halted → Config.debugDisable = true →
    exec (.debugUnlock k o) s = .next (s.mboxAnswer 14 [])) ∧
  (∀ (s : State) k o, s.sec.mbox = some ⟨0x11, 256, none⟩ → 0 ∉ s.sec.halted → Config.debugDisable = false → s.sec.rng ≠ 3 →
    s.tokenOk (s.mboxReq 256) k o = false → exec (.debugUnlock k o) s =
      .next { s with sec := { s.sec with nonce := none, mbox := some ⟨0x11, 256, some (13, [])⟩ } }) ∧
  (∀ (s : State) k o, s.sec.mbox = some ⟨0x11, 256, none⟩ → 0 ∉ s.sec.halted → Config.debugDisable = false → s.sec.rng ≠ 3 →
    s.fcol.inq.length < 48 → s.tokenOk (s.mboxReq 256) k o = true → ∃ t, exec (.debugUnlock k o) s = .next t ∧ t.sec.nonce = none ∧
      t.sec.dbgScope = leNat (bytesAt (s.mboxReq 256) 4 4) % 8 + 8 ∧ t.sec.mbox = some ⟨0x11, 256, some (0, [])⟩ ∧
      (∃ f ∈ t.fcol.inq, f.code = 0x0902) ∧ t.sec.arb = s.sec.arb ∧ t.pw = s.pw ∧ SameMem s t) ∧
  (∀ s l ag off len pa, off + len ≤ 2 ^ 20 → s.gate ag (0x300000 + off) false = .go l → s.pw.stage ≠ .parked → s.peekAddr off len = some pa →
    s.poisonAt pa len = none → s.flipAt pa len = none → exec (.hbmPeekAccess ag off len none none) s = .next (s.answer (s.memBytes pa len) 0)) ∧
  (∀ s l ag off pa (bs : List (Option Byte)), off + bs.length ≤ 2 ^ 20 → s.gate ag (0x300000 + off) true = .go l → s.peekAddr off bs.length = some pa →
    exec (.hbmPeekAccess ag off bs.length (some bs) none) s = .next ((s.devWriteMask pa bs).answer [] 0)) ∧
  (∀ s ag off len, off + len ≤ 2 ^ 20 → s.gate ag (0x300000 + off) false = .quiet →
    exec (.hbmPeekAccess ag off len none none) s = .next (s.answer (List.replicate len 0) 0)) ∧
  (∀ s addr wr, s.dbgOpen 1 = false → exec (.jtagDmiAccess addr wr) s = .next s) ∧
  (∀ s c w, s.dbgOpen 1 = true → s.dbgOpen 2 = true → s.pw.stage ≠ .parked → c ≤ 18 → (s.dm c).active = true →
    exec (.jtagDmiAccess (128 * c + 4) (some w)) s = .next ((s.setDm c { s.dm c with data0 := w }).answer [] 0) ∧
    exec (.jtagDmiAccess (128 * c + 4) none) s = .next (s.answer (leBytes 4 (s.dm c).data0.toNat) 0))

/-! ### Registers (02) -/

/-- Register writes (R40, R55, R60, R80, R202, R769): an accepted one stores the register's field bits and nothing else changes; one to a
locked register only reports the violation; one of part of a register is ignored and counted, as is one where no register page lies; one the
ACT refuses is recorded; one to a closed page does nothing. -/
def Obligations.RegisterWritesAreCheckedThenStored : Prop :=
  (∀ ag a v s l r, a % 4 = 0 → s.gate ag a true = .go l → plainRow s l r (v.toNat % 2 ^ 32) →
    exec (.registerWrite ag a 15 v false) s = .next (s.setReg (l.base + l.off) (BitVec.ofNat 32 (v.toNat &&& r.mask)))) ∧
  (∀ ag a v s l r, a % 4 = 0 → s.gate ag a true = .go l → l.row = some (r, 0) → r.acc = .rw → r.wide = false → s.rowLocked l r = true →
    l.pg ≠ .dbgDm → l.pg ≠ .dbgPeek → ¬ (l.pg.hasHeader = true ∧ l.off < 0x100) → ∃ b,
    exec (.registerWrite ag a 15 v false) s = .next (s.lockViol b l.page (rowCode l r) ag) ∧ accessAddr ag a = some b) ∧
  (∀ ag a be v s l, a % 4 = 0 → s.gate ag a true = .go l → 0 < be → be < 15 → hasReg l = true → l.pg ≠ .dbgPeek →
    exec (.registerWrite ag a be v false) s = .next (s.count 0x128)) ∧
  (∀ ag a be v s, a % 4 = 0 → s.gate ag a true = .unmapped → 0 < be → be ≤ 15 → exec (.registerWrite ag a be v false) s = .next (s.count 0x128)) ∧
  (∀ ag a v s l, a % 4 = 0 → s.gate ag a true = .denied l → exec (.registerWrite ag a 15 v false) s = .next (s.actDenied ag l.region true)) ∧
  (∀ ag a be v wide s, a % 4 = 0 → s.gate ag a true = .quiet → exec (.registerWrite ag a be v wide) s = .next s)

/-- Register reads (R54, R56, R58, R59): a read answers the register's value and changes nothing, but a read of an RC register clears it; where
nothing answers it reads zero and is counted; a read of the low word of a 64-bit register captures the high word, which the same agent's
next read of it answers. -/
def Obligations.RegisterReadsAnswerTheirRegister : Prop :=
  (∀ ag a av s l r, a % 4 = 0 → s.gate ag a false = .go l → l.row = some (r, 0) → r.wide = false → (r.acc = .ro ∨ r.acc = .rw ∨ r.acc = .w1c) → l.expert = false →
    l.pg ≠ .dbgDm → l.pg ≠ .dbgPeek → ¬ (l.pg.hasHeader = true ∧ l.off < 0x100) → s.freeBits l = 0 →
    exec (.rcRegisterRead ag a false av) s = .next (s.answer (leBytes 4 (s.view l 0)) 0)) ∧
  (∀ ag a av s l r, a % 4 = 0 → s.gate ag a false = .go l → l.row = some (r, 0) → r.wide = false → r.acc = .rc → l.expert = false → l.pg ≠ .l2 →
    l.pg ≠ .dbgDm → l.pg ≠ .dbgPeek → ¬ (l.pg.hasHeader = true ∧ l.off < 0x100) → s.freeBits l = 0 → s.pw.stage ≠ .parked → ∃ t,
    exec (.rcRegisterRead ag a false av) s = .next t ∧ t = (s.clearReg (l.base + l.off)).answer (leBytes 4 (s.view l 0)) 0 ∧
    t.reg (l.base + l.off) = regResetOf (l.base + l.off)) ∧
  (∀ ag a wide av s, a % 4 = 0 → s.gate ag a false = .unmapped →
    exec (.rcRegisterRead ag a wide av) s = .next ((s.count 0x128).answer (List.replicate (if wide then 8 else 4) 0) 0)) ∧
  (∀ ag a wide av s l, a % 4 = 0 → s.gate ag a false = .denied l →
    exec (.rcRegisterRead ag a wide av) s = .next ((s.actDenied ag l.region false).answer (List.replicate (if wide then 8 else 4) 0) 0)) ∧
  (∀ ag a s l r, a % 4 = 0 → s.gate ag a false = .go l → s.gate ag (a + 4) false = .go { l with off := l.off + 4 } → l.row = some (r, 0) → r.wide = true →
    (r.acc = .ro ∨ r.acc = .rw) → l.expert = false → l.pg ≠ .dbgDm → l.pg ≠ .dbgPeek → l.pg ≠ .secMbox → ¬ (l.pg.hasHeader = true ∧ l.off < 0x100) →
    ({ l with off := l.off + 4 } : Loc).row = some (r, 1) → ({ l with off := l.off + 4 } : Loc).expert = false →
    s.pw.stage ≠ .parked → ∃ t u, exec (.split64bitRead ag a) s = .next t ∧
    t.own.readData = leBytes 4 (s.view l 0) ∧ t.regs = s.regs ∧ exec (.split64bitRead ag (a + 4)) t = .next u ∧
    u.own.readData = leBytes 4 (s.view l 1) ∧ u.regs = s.regs)

/-- The common header (R35, R39, R42 to R45, R48, R49): a soft reset returns the page's registers to reset and reads busy until it is done; LEVEL
applies a held expert value and its clearing returns the expert region to reset; TEST_MODE cleared disarms an injection; a forced interrupt
sets the causes the page has; BLK_LOCK takes one write; INJECT arms only in TEST_MODE, for agent 0 and a checker the page has. -/
def Obligations.HeaderRegistersControlTheirPage : Prop :=
  (∀ ag base v s l, s.gate ag (base + 8) true = .go l → l.off = 8 → l.pg.hasHeader = true → l.pg.softReset = true → s.blkLocked l = false →
    s.levelOf l.base = true → (l.pg = .head → bitOf v.toNat 0 = (s.head l.unit).enabled) → ∃ t, exec (.softReset ag base v) s = .next t ∧
    (∀ o, 0x24 ≤ o → o < 0x1000 → t.reg (l.base + o) = regResetOf (l.base + o)) ∧ t.blkBusy l = true) ∧
  (∀ base s, ∃ t, exec (.softResetDone base) s = .next t ∧ tblFind (softKey base) t.regs = none ∧ (∀ a, a ≠ softKey base → t.reg a = s.reg a) ∧
    SameMem s t) ∧
  (∀ ag base v s l, s.gate ag (base + 8) true = .go l → l.off = 8 → l.pg.hasHeader = true → l.pg.isInst = false → s.blkLocked l = false →
    bitOf v.toNat 1 = false → (l.pg = .head → bitOf v.toNat 0 = (s.head l.unit).enabled) → s.blkBusy l = false →
    s.expert = [] → ∃ t, exec (.levelSet ag base v) s = .next t ∧ t.levelOf l.base = true) ∧
  (∀ ag base v s l a l' r w, s.gate ag (base + 8) true = .go l → l.off = 8 → l.pg.hasHeader = true → l.pg.isInst = false → s.blkLocked l = false →
    bitOf v.toNat 1 = false → (l.pg = .head → bitOf v.toNat 0 = (s.head l.unit).enabled) → s.levelOf l.base = false → s.blkBusy l = false →
    s.expert = [(a, w)] → inExpert l.base a = true → locate a = some l' → l'.base + l'.off = a → l'.row = some (r, 0) → s.latchLive l' r = false →
    ∃ t, exec (.levelSet ag base v) s = .next t ∧ t.reg a = w &&& BitVec.ofNat 32 r.mask) ∧
  (∀ ag base v s l, s.gate ag (base + 8) true = .go l → l.off = 8 → l.pg.hasHeader = true → s.blkLocked l = false →
    bitOf v.toNat 1 = false → (l.pg = .head → bitOf v.toNat 0 = (s.head l.unit).enabled) → s.levelOf l.base = true → s.blkBusy l = false →
    ∃ t, exec (.levelClear ag base v) s = .next t ∧ t.levelOf l.base = false ∧
    ∀ a, l.base + 0x400 ≤ a → a < l.base + 0xC00 → t.reg a = regResetOf a) ∧
  (∀ ag base v s l, s.gate ag (base + 8) true = .go l → l.off = 8 → l.pg.hasHeader = true → s.blkLocked l = false →
    bitOf v.toNat 1 = false → bitOf v.toNat 2 = s.levelOf l.base → l.pg.isInst = false →
    (l.pg = .head → bitOf v.toNat 0 = (s.head l.unit).enabled) → s.blkBusy l = false →
    ∃ t, exec (.testModeClear ag base v) s = .next t ∧ bitOf (t.reg (l.base + 8)).toNat 3 = false ∧
    bitOf (t.reg (l.base + 0x20)).toNat 16 = false) ∧
  (∀ ag base v s l, s.gate ag (base + 0x18) true = .go l → l.off = 0x18 → l.pg.hasHeader = true →
    exec (.blkIntForceWrite ag base v) s = .next (s.causes l.base (v.toNat &&& l.pg.causeMask))) ∧
  (∀ ag base v s l, s.gate ag (base + 0x1C) true = .go l → l.off = 0x1C → l.pg.hasHeader = true → l.base ∉ s.lockUsed →
    exec (.blkLockWrite ag base v) s =
      .next { (s.setReg (l.base + 0x1C) (BitVec.ofNat 32 (v.toNat % 2))) with lockUsed := addNat l.base s.lockUsed }) ∧
  (∀ ag base v s l b, s.gate ag (base + 0x1C) true = .go l → l.off = 0x1C → l.pg.hasHeader = true → l.base ∈ s.lockUsed →
    accessAddr ag (base + 0x1C) = some b → exec (.blkLockWrite ag base v) s = .next (s.lockViol b l.base 0 ag)) ∧
  (∀ ag base v s l, s.gate ag (base + 0x20) true = .go l → l.off = 0x20 → l.pg.hasHeader = true → s.blkLocked l = false →
    (bitOf (s.reg (l.base + 8)).toNat 3 = true → ag.code = 0 → v.toNat % 256 < l.pg.checkers → ∃ t, exec (.injectArm ag base v none) s = .next t ∧
      bitOf (t.reg (l.base + 0x20)).toNat 16 = true ∧ (t.reg (l.base + 0x20)).toNat % 2 ^ 16 = v.toNat % 2 ^ 16) ∧
    (bitOf (s.reg (l.base + 8)).toNat 3 = false ∨ ag.code ≠ 0 ∨ l.pg.checkers ≤ v.toNat % 256 → ∃ t, exec (.injectArm ag base v none) s = .next t ∧
      bitOf (t.reg (l.base + 0x20)).toNat 18 = true ∧ bitOf (t.reg (l.base + 0x20)).toNat 16 = bitOf (s.reg (l.base + 0x20)).toNat 16))

/-- Select registers (R273, R530, R582, R584, R671, R759, R775): a write to one stores the number it selects and changes nothing else; LOG_SEL
marks the record it names as read. -/
def Obligations.SelectRegistersNameAnEntry : Prop :=
  (∀ ag v s l, s.gate ag 0xB108 true = .go l → s.blkLocked l = false → exec (.logSelWrite ag v) s =
    .next { (s.setReg 0xB108 v) with fw := { s.fw with log := s.fw.log.map fun r => if r.seq = v then { r with readOut := true } else r } }) ∧
  (∀ ag v s l, s.gate ag 0x180104 true = .go l → exec (.objSelWrite ag v) s = .next (s.setReg 0x180104 (v &&& 0x3FFF))) ∧
  (∀ ag v s l, s.gate ag (winOff ag 0x4100) true = .go l → l.pg = .syncView → l.off = 0x100 → s.blkLocked l = false →
    exec (.svSelWrite ag v) s = .next (s.setReg (l.base + 0x100) (v &&& 0x3FFF))) ∧
  (∀ ag v s l, s.gate ag 0x14104 true = .go l → exec (.resSelWrite ag v) s = .next (s.setReg 0x14104 (v &&& 0xFF))) ∧
  (∀ ag v s l, s.gate ag 0x9108 true = .go l → exec (.frSelWrite ag v) s = .next (s.setReg 0x9108 v)) ∧
  (∀ ag v s l, s.gate ag 0x9140 true = .go l → exec (.histSelWrite ag v) s = .next (s.setReg 0x9140 (v &&& 0xF))) ∧
  (∀ ag v s l, s.gate ag 0x1B0100 true = .go l → exec (.sliceSelWrite ag v) s = .next (s.setReg 0x1B0100 (v &&& 0x1F))) ∧
  (∀ k v s l, s.gate (if k = 0 then ⟨0, 0⟩ else ⟨1, k⟩) (winOff (if k = 0 then ⟨0, 0⟩ else ⟨1, k⟩) (0x3000 + 16 * (v % 16) + 12)) true = .go l →
    l.pg = .msix → l.off = 16 * (v % 16) + 12 → exec (.msixUnmask k v) s = .next ((s.setReg (l.base + l.off) 0).msixRelease l.unit))

/-! ### Briane requests (06) -/

/-- Rings (R248, R250, R251, R254, R255, R258, R262, R264): Fausk takes the entry at REQ_CONS and answers it at once where a check fails (a nonzero
reserved byte, a VF's request for the PF or for another instance among them) or its opcode is not defined; REQ_PROD moves on by at most the
ring's four entries; RSP_CONS frees entries; the oldest held event follows into the response ring; an offer that overlaps the firmware's versions
opens the rings at the highest common one, another is rejected. -/
def Obligations.BrianeRingsTakeAndAnswerRequests : Prop :=
  (∀ s k r, canTake s k → r = reqOf (wordsBytes (s.reqWords k ((s.ringsOf k).reqCons.toNat % 4))) →
    (∀ i, opFor (s.ringsOf k) r.op = some i → s.reqCheck k i r = none → exec (.brianeRequestStart k) s = .next (taken s k r)) ∧
    (∀ i st det, opFor (s.ringsOf k) r.op = some i → s.reqCheck k i r = some (st, det) →
      exec (.brianeRequestStart k) s = .next ((taken s k r).respond k r st det [])) ∧
    (opFor (s.ringsOf k) r.op = none → ∃ t, exec (.brianeRequestStart k) s = .next t ∧ t = taken s k r ∧
      exec (.brianeReservedOpcode k) t = .next (t.respond k r 2 0 []))) ∧
  (∀ s k i r, r.reserved ≠ 0 → State.reqCheck s k i r = some (3, 0)) ∧
  (∀ s k i r, r.reserved = 0 → k ≠ 0 → (i.sender = .pf ∨ r.target ≠ k) → State.reqCheck s k i r = some (4, 0)) ∧
  (∀ s k e q, (s.ringsOf k).st = .opened → rspRoom (s.ringsOf k) = true → (s.ringsOf k).held = e :: q → ∃ t, exec (.brianeEventDeliver k) s = .next t ∧
    t.ringsOf k = { s.ringsOf k with rspProd := (s.ringsOf k).rspProd + 1, held := q, lostFlag := false } ∧ t.insts = s.insts ∧ t.queues = s.queues ∧ SameMem s t) ∧
  (∀ s ag v l, s.gate ag (winOff ag 0x2110) true = .go l → l.pg = .brn → l.off = 0x110 → s.blkLocked l = false → (s.ringsOf l.unit).st = .opened →
    ((v.truncate 8 : BitVec 8) - (s.ringsOf l.unit).reqCons).toNat ≤ 4 →
    exec (.reqProdWrite ag v) s = .next (s.setRings l.unit { s.ringsOf l.unit with reqProd := v.truncate 8 })) ∧
  (∀ s ag v l, s.gate ag (winOff ag 0x211C) true = .go l → l.pg = .brn → l.off = 0x11C → s.blkLocked l = false → (s.ringsOf l.unit).st = .opened →
    (s.ringsOf l.unit).long = none → exec (.rspConsWrite ag v) s = .next (s.setRings l.unit { s.ringsOf l.unit with rspCons := v.truncate 8 })) ∧
  (∀ s ag l, s.gate ag (winOff ag 0x2104) true = .go l → l.pg = .brn → l.off = 0x104 → s.blkLocked l = false → (s.ringsOf l.unit).st ≠ .opened →
    (s.ringsOf l.unit).st ≠ .negotiating → s.pw.stage = .ready → (s.inst l.unit).st ≠ .resetting → (s.inst l.unit).st ≠ .unassigned →
    (s.fn l.unit).flr = false → s.fw.swapping = false → ∃ t, exec (.verHello ag) s = .next t ∧ t.insts = s.insts ∧ SameMem s t ∧
    let lo := (s.reg (brnBase l.unit + 0x100)).toNat % 65536
    let hi := (s.reg (brnBase l.unit + 0x100)).toNat / 65536
    let b := min hi s.fw.verMax.toNat
    if lo ≤ hi ∧ max lo s.fw.verMin.toNat ≤ b then t.ringsOf l.unit = { s.ringsOf l.unit with st := .opened, maj := b / 256, min := b % 256 }
    else t.ringsOf l.unit = { s.ringsOf l.unit with st := .rejected, maj := 0, min := 0 })

/-- A response (R250, R252): its 64 bytes stand in the response ring's entry at RSP_PROD, which moves on by one, the request is served no more and
RSP_AVAIL is set; a long request's first response is PENDING. Instances, queues, memory, power and security state stay. -/
def Obligations.ResponsesFillTheRingInOrder : Prop :=
  (∀ s k r st det pl, k < 128 → let t := State.respond s k r st det pl
    t.ringsOf k = { s.ringsOf k with rspProd := (s.ringsOf k).rspProd + 1, cur := none } ∧
    (∀ i, i < 16 → t.reg (brnBase k + 0x300 + 64 * ((s.ringsOf k).rspProd.toNat % 4) + 4 * i) =
      wordAt (bytesWords 16 (rspEntry r.op st (if opLong r.op then 4 else 0) r.tag.toNat det pl)) i) ∧
    bitOf (t.reg (brnBase k + 0x10)).toNat 8 = true ∧ t.insts = s.insts ∧ t.queues = s.queues ∧ t.mem = s.mem ∧ t.pw = s.pw ∧ t.sec = s.sec) ∧
  (∀ s k r l, k < 128 → let t := State.respondPending s k r l
    t.ringsOf k = { s.ringsOf k with rspProd := (s.ringsOf k).rspProd + 1, cur := none, long := some { l with req := r } } ∧
    t.insts = s.insts ∧ t.queues = s.queues ∧ t.mem = s.mem ∧ t.pw = s.pw) ∧
  (∀ op st fl tag det (pl : List Byte), op < 65536 → st < 256 → fl < 256 → tag < 2 ^ 32 → det < 2 ^ 32 →
    (rspEntry op st fl tag det pl).length = 64 ∧ leNat (bytesAt (rspEntry op st fl tag det pl) 0 2) = op ∧
    leNat (bytesAt (rspEntry op st fl tag det pl) 2 1) = st ∧ leNat (bytesAt (rspEntry op st fl tag det pl) 4 4) = tag ∧
    leNat (bytesAt (rspEntry op st fl tag det pl) 8 4) = det)

/-- Queue requests (R424 to R427, R522, R528): QUEUE_CREATE gives a free hardware queue its settings, stopped or running, at its START_COUNT;
it is refused for a local index in use, a group the instance has no rights to and a full quota; QUEUE_DESTROY frees a queue that neither runs nor is busy;
QUEUE_RESTART brings it back in the mode asked for; QUEUE_MODIFY changes band and group of a queue that no reservation holds. -/
def Obligations.QueueRequestsChangeTheirQueue : Prop :=
  (∀ s k want r h, serving s k 0x0100 r → unusedOk r [(0, 0x18)] = true → pay r 0 1 < 64 → pay r 1 1 = 0 → 1 ≤ pay r 2 1 → pay r 2 1 ≤ 2 →
    pay r 3 1 < 16 → 6 ≤ pay r 4 1 → pay r 4 1 ≤ 18 → pay r 5 1 ≤ 1 → pay r 7 1 ≤ 3 → pay r 8 8 % 4096 = 0 → takes (s.inst r.target) = true →
    s.hwqOf r.target (pay r 0 1) = none → bitOf (s.inst r.target).rights.toNat (pay r 3 1) = true → s.queuesHeld r.target < (s.inst r.target).maxQ →
    pickFree 1024 want (fun j => (s.queue j).st != .free) = some h → exec (.queueCreate k want) s = .next ((s.setQueue h { queueReset with
      st := if pay r 5 1 = 1 then .running else .stopped, base := BitVec.ofNat 64 (pay r 8 8), log2 := pay r 4 1, user := false, band := pay r 2 1
      cgrp := pay r 3 1, inst := r.target, loc := pay r 0 1, doneVec := pay r 6 1 % 16, faultVec := pay r 6 1 / 16
      doneEn := bitOf (pay r 7 1) 0, faultEn := bitOf (pay r 7 1) 1, presets := BitVec.ofNat 32 presetsDefault
      head := BitVec.ofNat 32 (pay r 0x14 4), tail := BitVec.ofNat 32 (pay r 0x14 4), fetchPtr := BitVec.ofNat 32 (pay r 0x14 4), pred := true }).respond
        k r 0 0 (leBytes 2 h))) ∧
  (∀ s k want r, serving s k 0x0100 r → unusedOk r [(0, 0x18)] = true → pay r 0 1 < 64 → pay r 1 1 ≤ 1 → pay r 2 1 ≤ 2 →
    pay r 3 1 < 16 → 6 ≤ pay r 4 1 → pay r 4 1 ≤ 18 → pay r 5 1 ≤ 1 → pay r 7 1 ≤ 3 → pay r 8 8 % 4096 = 0 → takes (s.inst r.target) = true →
    (s.hwqOf r.target (pay r 0 1) ≠ none → exec (.queueCreate k want) s = .next (s.respond k r 6 30 [])) ∧
    (s.hwqOf r.target (pay r 0 1) = none → bitOf (s.inst r.target).rights.toNat (pay r 3 1) = false →
      exec (.queueCreate k want) s = .next (s.respond k r 4 0 []))) ∧
  (∀ s k r h, serving s k 0x0101 r → unusedOk r [(0, 1)] = true → pay r 0 1 < 64 → s.hwqOf r.target (pay r 0 1) = some h →
    ((s.queue h).st = .running → exec (.queueDestroy k) s = .next (s.respond k r 6 34 [])) ∧
    ((s.queue h).st ≠ .running → s.busyOf h = false → (s.queue h).res = none → ∃ t, ∃ u : State, exec (.queueDestroy k) s = .next t ∧ t = u.respond k r 0 0 [] ∧
      u.queue h = queueReset)) ∧
  (∀ s k r h, serving s k 0x0102 r → unusedOk r [(0, 2)] = true → pay r 0 1 < 64 → pay r 1 1 ≤ 3 → s.hwqOf r.target (pay r 0 1) = some h →
    (∀ t, s.restart h (pay r 1 1) = some t → exec (.queueRestart k) s = .next ((((t.ackQueue h).respond k r 0 0
      (leBytes 4 (t.queue h).head.toNat ++ leBytes 4 (t.queue h).tail.toNat)).fetch h).kick)) ∧
    (s.restart h (pay r 1 1) = none → exec (.queueRestart k) s = .next (s.respond k r 6 35 []))) ∧
  (∀ (s : State) h, (s.queue h).st = .faulted → ∃ a b c d, s.restart h 0 = some a ∧ (a.queue h).st = .running ∧ (a.queue h).head = (s.queue h).head ∧
    s.restart h 1 = some b ∧ (b.queue h).head = (if (s.queue h).head = (s.queue h).tail then (s.queue h).head else (s.queue h).head + 1) ∧
    s.restart h 2 = some c ∧ (c.queue h).st = .running ∧ (c.queue h).head = (s.queue h).tail ∧ s.restart h 3 = some d ∧ (d.queue h).st = .stopped) ∧
  (∀ s k r h, serving s k 0x0103 r → unusedOk r [(0, 4)] = true → pay r 0 1 < 64 → pay r 1 1 = 3 → pay r 2 1 ≤ 2 → pay r 3 1 < 16 →
    s.hwqOf r.target (pay r 0 1) = some h →
    ((s.queue h).res ≠ none → exec (.queueModify k) s = .next (s.respond k r 6 41 [])) ∧
    ((s.queue h).res = none → bitOf (s.inst r.target).rights.toNat (pay r 3 1) = true → (pay r 2 1 ≠ 0 ∨ (s.inst r.target).maxRes ≠ 0) →
      exec (.queueModify k) s = .next ((s.setQueue h { s.queue h with band := pay r 2 1, cgrp := pay r 3 1 }).respond k r 0 0 [])))

/-- Sync blocks, SYNC_FORCE and address spaces (R575, R576, R578, R644, R646). -/
def Obligations.SyncAndAddressSpaceRequests : Prop :=
  (∀ s k want r b, serving s k 0x0200 r → unusedOk r [(0, 2)] = true → pay r 0 2 ≤ 255 → takes (s.inst r.target) = true →
    (∀ j p, (j, p) ∈ s.sync.blocks → p ≠ (r.target, pay r 0 2)) → s.blocksHeld r.target < (s.inst r.target).maxSync →
    pickFree 256 want (fun j => (tblFind j s.sync.blocks).isSome) = some b → exec (.syncBlockAlloc k want) s =
      .next (({ s with sync := { s.sync with blocks := tblPut b (r.target, pay r 0 2) s.sync.blocks } } : State).respond k r 0 0
        ([BitVec.ofNat 8 (pay r 0 2), 0] ++ leBytes 2 b))) ∧
  (∀ s k r b, serving s k 0x0201 r → unusedOk r [(0, 1)] = true →
    s.sync.blocks.find? (fun e => e.2 == (r.target, pay r 0 1)) = some (b, (r.target, pay r 0 1)) →
    ((∃ w ∈ s.sync.waiters, w.obj / 64 = b) → exec (.syncBlockFree k) s = .next (s.respond k r 6 50 [])) ∧
    ((∀ w ∈ s.sync.waiters, w.obj / 64 ≠ b) → exec (.syncBlockFree k) s = .next (({ s with sync := { s.sync with
      blocks := tblErase b s.sync.blocks, objs := s.sync.objs.filter fun e => e.1 / 64 != b } } : State).respond k r 0 0 []))) ∧
  (∀ s k r i, serving s k 0x0202 r → unusedOk r [(0, 5), (8, 4)] = true → pay r 4 1 = 0 → pay r 0 4 < 2 ^ 14 → (s.inst r.target).st = .active →
    s.syncIndex r.target (pay r 0 4) = some i → (s.obj i).type = 2 → pay r 8 4 ≤ (s.obj i).limit → (∀ w ∈ s.sync.waiters, w.obj ≠ i) → ∃ t, ∃ u : State,
    exec (.syncForce k) s = .next t ∧ t = u.respond k r 0 0 (leBytes 4 (s.obj i).value ++ leBytes 2 0 ++ leBytes 2 0) ∧
    (u.obj i).value = pay r 8 4 ∧ (u.obj i).forced = true ∧ (∀ j, j ≠ i → u.obj j = s.obj j)) ∧
  (∀ s k r, serving s k 0x0300 r → unusedOk r [(0, 8)] = true → pay r 0 8 % 4096 = 0 → pay r 0 8 < 2 ^ 37 →
    ((s.inst r.target).st = .configured ∨ (s.inst r.target).st = .quiesced) →
    (s.rootBad r.target (pay r 0 8) = true → exec (.aspaceSet k) s = .next (s.respond k r 6 60 [])) ∧
    (s.rootBad r.target (pay r 0 8) = false → exec (.aspaceSet k) s =
      .next (((s.setInst r.target { s.inst r.target with root := BitVec.ofNat 64 (pay r 0 8) }).dropTlb r.target).respond k r 0 0 [])))

/-- Beacons, reservations and receipts (R505, R508, R513, R525 to R527, R705, R706): a configuration is accepted at once on a Beacon that is off and
at its next tick otherwise; a reservation that admission control takes binds its queues, and its release frees them; receipts start on a head of the
instance and stop with what was written. -/
def Obligations.BeaconReservationAndReceiptRequests : Prop :=
  (∀ s k r, serving s k 0x0400 r → unusedOk r [(0, 3), (4, 8)] = true → pay r 0 1 ≤ 7 → (pay r 1 1 = 3 ∨ pay r 1 1 = 4) → pay r 2 1 = 1 →
    periodOk (pay r 4 4) = true → (∀ j v, (j, v) ∈ s.resvs → v.valid = true → v.bcn ≠ pay r 0 1) → exec (.beaconConfig k) s =
      .next ((s.acceptBeacon (pay r 0 1) { src := pay r 1 1, div := 1, period := pay r 4 4, offset := pay r 8 4 }).respond k r 0 0 (leBytes 4 (pay r 4 4)))) ∧
  (∀ (s : State) b c, (s.beacon b).cfg.src ≠ 0 → s.acceptBeacon b c = s.setBeacon b { s.beacon b with pend := some c }) ∧
  (∀ (s : State) b c, (s.beacon b).cfg.src = 0 → c.src = 4 → let v := (s.acceptBeacon b c).beacon b
    v.cfg = c ∧ v.ticks = 0 ∧ v.pend = none ∧ v.locked = true ∧ v.since = s.ck.gtime) ∧
  (∀ s k want r hs j, serving s k 0x0401 r → unusedOk r [(0, 2), (4, 12)] = true → pay r 0 1 < 16 → pay r 1 1 < 8 → pay r 4 4 ≠ 0 →
    1000 * pay r 4 4 ≤ s.grpSize (pay r 0 1) * s.bcnPeriod (pay r 1 1) → takes (s.inst r.target) = true →
    bitOf (s.inst r.target).rights.toNat (pay r 0 1) = true → (s.beacon (pay r 1 1)).cfg.src ≠ 0 → (s.bcnLatest (pay r 1 1)).src ≠ 0 →
    s.maskQueues r.target (pay r 8 8) = some hs → (∀ h ∈ hs, (s.queue h).band = 0 ∧ (s.queue h).cgrp = pay r 0 1 ∧ (s.queue h).res = none) →
    s.resvsHeld r.target < (s.inst r.target).maxRes → pickFree 256 want (fun j => (s.resv j).valid) = some j →
    let v : Resv := { resvReset with
      valid := true, inst := r.target, grp := pay r 0 1, bcn := pay r 1 1, budget := pay r 4 4, queues := BitVec.ofNat 64 (pay r 8 8) }
    (s.admits s.bcnPeriod s.grpMask [v] = false → exec (.reserve k want) s = .next (s.respond k r 8 0 [])) ∧
    (s.admits s.bcnPeriod s.grpMask [v] = true → ∃ t, ∃ u : State, exec (.reserve k want) s = .next t ∧
      t = u.respond k r 0 0 ([BitVec.ofNat 8 j, 0] ++ leBytes 2 (u.utilMax (u.grpMask (pay r 0 1)))) ∧ u.resv j = v ∧
      (∀ h ∈ hs, (u.queue h).res = some j) ∧ (∀ h, h ∉ hs → u.queue h = s.queue h) ∧ (∀ i, i ≠ j → u.resv i = s.resv i))) ∧
  (∀ s k r, serving s k 0x0402 r → unusedOk r [(0, 1)] = true →
    ((s.resv (pay r 0 1)).valid = false ∨ (s.resv (pay r 0 1)).inst ≠ r.target → exec (.reserveRelease k) s = .next (s.respond k r 6 46 [])) ∧
    ((s.resv (pay r 0 1)).valid = true → (s.resv (pay r 0 1)).inst = r.target → (k ≠ 0 ∨ r.target = 0) →
      exec (.reserveRelease k) s = .next ((s.freeResv (pay r 0 1)).respond k r 0 0 []))) ∧
  (∀ (s : State) j, (s.freeResv j).resv j = resvReset ∧ (∀ i, i ≠ j → (s.freeResv j).resv i = s.resv i)) ∧
  (∀ s k r gs u, serving s k 0x0A00 r → unusedOk r [(0, 1), (2, 2), (8, 12)] = true → pay r 0 1 ≤ 1 → pay r 2 2 ≠ 0 → pay r 8 8 % 256 = 0 →
    pay r 8 8 < 2 ^ 48 → pay r 0x10 4 ≠ 0 → pay r 0x10 4 ≤ 65536 → (s.head (pay r 0 1)).owner = some r.target → (s.head (pay r 0 1)).rcpt = none →
    s.segs r.target (pay r 8 8) (256 * pay r 0x10 4) true askCmd = (u, gs, none) → segsHost gs = false → u.attestReady = true →
    exec (.receiptStart k) s = .next ((u.setHead (pay r 0 1) { u.head (pay r 0 1) with rcpt := some {
      n := pay r 2 2, buf := BitVec.ofNat 64 (pay r 8 8), entries := pay r 0x10 4, seq := 0, due := none, skipFlag := false, written := 0, skipped := 0 } }).respond
      k r 0 0 [])) ∧
  (∀ s k r, serving s k 0x0A01 r → unusedOk r [(0, 1)] = true → pay r 0 1 ≤ 1 →
    ((s.head (pay r 0 1)).owner ≠ some r.target → exec (.receiptStop k) s = .next (s.respond k r 4 0 [])) ∧
    ((s.head (pay r 0 1)).owner = some r.target → ∀ c, (s.head (pay r 0 1)).rcpt = some c → exec (.receiptStop k) s =
      .next ((s.setHead (pay r 0 1) { s.head (pay r 0 1) with rcpt := none }).respond k r 0 0
        (leBytes 4 c.written ++ leBytes 4 c.skipped ++ leBytes 4 c.seq.toNat))))

/-! ### Instances (07) -/

/-- The life cycle's requests (R294 to R300, R309, R310, R333 to R340, R699, R700): INST_CONFIGURE sets the quotas of a function that may have an
instance; INST_ACTIVATE makes a ready one ACTIVE; a DRAIN quiesce of an ACTIVE one makes it QUIESCING and leaves its work to end; reset and removal
are refused for an instance that is not assigned; slots, groups, rights, heads and isolation change as asked. -/
def Obligations.InstanceRequestsDriveTheLifeCycle : Prop :=
  (∀ s k r, serving s k 0x0500 r → unusedOk r [(0, 8)] = true → pay r 0 1 ≤ 64 → (pay r 1 1 = 0 ∨ 8 ≤ pay r 1 1 ∧ pay r 1 1 ≤ 16) → pay r 2 2 ≤ 256 →
    pay r 4 1 ≤ 64 → pay r 5 1 ≤ 1 → 1 ≤ pay r 6 2 → pay r 6 2 ≤ 1000 →
    (r.target ≠ 0 → (s.pcie.vfEn = false ∨ s.pcie.numVfs < r.target) → exec (.instConfigure k) s = .next (s.respond k r 6 (stCode (s.inst r.target).st) [])) ∧
    ((r.target = 0 ∨ s.pcie.vfEn = true ∧ r.target ≤ s.pcie.numVfs) →
      ((s.inst r.target).st = .unassigned ∨ (s.inst r.target).st = .configured ∨ (s.inst r.target).st = .quiesced ∨
        r.target = 0 ∧ (s.inst 0).st = .active) → s.queuesHeld r.target ≤ pay r 0 1 → s.blocksHeld r.target ≤ pay r 2 2 → s.resvsHeld r.target ≤ pay r 4 1 →
      s.otherQuota r.target (·.maxQ) + pay r 0 1 ≤ 1024 → s.otherQuota r.target (·.maxSync) + pay r 2 2 ≤ 256 →
      s.otherQuota r.target (·.maxRes) + pay r 4 1 ≤ 256 → s.otherQuota r.target (fun i => htabSize i.htab) + htabSize (pay r 1 1) ≤ 4194304 →
      let u := ((s.setInst r.target { s.inst r.target with maxQ := pay r 0 1, htab := pay r 1 1, maxSync := pay r 2 2, maxRes := pay r 4 1 }).setReg
        (aInstCtrl r.target) (BitVec.ofNat 32 (pay r 6 2 + 65536 * pay r 5 1))).respond k r 0 0 []
      exec (.instConfigure k) s = .next (if (s.inst r.target).st = .unassigned then u.setSt r.target .configured 0 else u))) ∧
  (∀ s k r, serving s k 0x0501 r → unusedOk r [] = true →
    ((s.inst r.target).quiesce = none → ((s.inst r.target).st = .configured ∨ (s.inst r.target).st = .quiesced ∨ (s.inst r.target).st = .shadowed) →
      exec (.instActivate k) s = .next ((s.respond k r 0 0 []).setSt r.target .active 0)) ∧
    ((s.inst r.target).st ≠ .configured → (s.inst r.target).st ≠ .quiesced → (s.inst r.target).st ≠ .shadowed →
      exec (.instActivate k) s = .next (s.respond k r 6 (stCode (s.inst r.target).st) []))) ∧
  (∀ s k r j, serving s k 0x0502 r → unusedOk r [(0, 1), (8, 16)] = true → pay r 0 1 = 1 → j < 128 → pay r 8 16 = 2 ^ j →
    (s.inst j).st = .active → (s.inst j).quiesce = none → k < 128 → ∃ t, exec (.instQuiesce k) s = .next t ∧ (t.inst j).st = .quiescing ∧
    (t.inst j).quiesce = some { drain := true, forced := false, killed := false, fault := false, after := .quiesced, cause := 0 } ∧
    (∀ i, i ≠ j → t.inst i = s.inst i) ∧ t.queues = s.queues ∧ t.cmds = s.cmds ∧ t.ctxs = s.ctxs ∧ (t.ringsOf k).cur = none) ∧
  (∀ s k r, serving s k 0x0503 r → unusedOk r [] = true →
    ((s.inst r.target).st = .unassigned → exec (.instReset k) s = .next (s.respond k r 6 0 [])) ∧
    ((s.inst r.target).st ≠ .unassigned → exec (.instReset k) s =
      .next ((s.respondPending k r (longNew r)).trigger r.target false false false (.reset false) 0))) ∧
  (∀ s k r, serving s k 0x0504 r → unusedOk r [] = true → (r.target = 0 → exec (.instRemove k) s = .next (s.respond k r 4 0 [])) ∧
    (r.target ≠ 0 → (s.inst r.target).st ≠ .unassigned → exec (.instRemove k) s =
      .next ((s.respondPending k r (longNew r)).trigger r.target false false false (.reset true) 0))) ∧
  (∀ s k r n, serving s k 0x0505 r → unusedOk r [(0, 2), (4, 2)] = true → pay r 0 1 = 0 → pay r 1 1 = 1 → pay r 4 2 = n →
    (∀ st d, s.slotCheck r.target 0 [n] = some (st, d) → exec (.slotAssign k) s = .next (s.respond k r st d [])) ∧
    (s.slotCheck r.target 0 [n] = none → (s.inst r.target).st ≠ .active → ∃ t, ∃ u : State, exec (.slotAssign k) s = .next t ∧
      t = u.respond k r 0 0 (leBytes 4 (if (s.slot n).scrub = .clean then 0 else 1)) ∧ u.slot n = { s.slot n with owner := some r.target } ∧
      (∀ m, m ≠ n → u.slot m = s.slot m))) ∧
  (∀ s k r n, serving s k 0x0505 r → unusedOk r [(0, 2), (4, 2)] = true → pay r 0 1 = 1 → pay r 1 1 = 1 → pay r 4 2 = n →
    s.slotCheck r.target 1 [n] = none → ∃ t, ∃ u : State, exec (.slotAssign k) s = .next t ∧ t = u.respond k r 0 0 (leBytes 4 0) ∧
    (u.slot n).owner = none ∧ (u.slot n).scrub ≠ .clean ∧ (∀ m, m ≠ n → u.slot m = s.slot m)) ∧
  (∀ s k r, serving s k 0x0506 r → unusedOk r [(0, 1), (2, 2)] = true → pay r 0 1 ≤ 15 → BitVec.ofNat 16 (pay r 2 2) ≠ 0 →
    (s.admits s.bcnPeriod (fun j => if j = pay r 0 1 then BitVec.ofNat 16 (pay r 2 2) else s.grpMask j) [] = false →
      exec (.cgrpDefine k) s = .next (s.respond k r 8 0 [])) ∧
    (s.admits s.bcnPeriod (fun j => if j = pay r 0 1 then BitVec.ofNat 16 (pay r 2 2) else s.grpMask j) [] = true → exec (.cgrpDefine k) s =
      .next ((s.setReg (0x1F0140 + 4 * pay r 0 1) (BitVec.ofNat 32 (BitVec.ofNat 16 (pay r 2 2)).toNat)).respond k r 0 0 []))) ∧
  (∀ s k r, serving s k 0x0507 r → unusedOk r [(0, 2)] = true → (∀ g, g < 16 → bitOf (pay r 0 2) g = true → s.grpMask g ≠ 0) →
    (s.inst r.target).st ≠ .unassigned → (s.inst r.target).st ≠ .resetting →
    (∀ h q, (h, q) ∈ s.queues → q.st = .free ∨ q.inst ≠ r.target ∨ bitOf (pay r 0 2) q.cgrp = true) →
    (∀ j v, (j, v) ∈ s.resvs → v.valid = false ∨ v.inst ≠ r.target ∨ bitOf (pay r 0 2) v.grp = true) → exec (.cgrpGrant k) s =
      .next ((s.setInst r.target { s.inst r.target with rights := BitVec.ofNat 16 (pay r 0 2) }).respond k r 0 0 [])) ∧
  (∀ s k r, serving s k 0x0508 r → unusedOk r [(0, 2)] = true → pay r 0 1 ≤ 1 →
    ((s.inst r.target).st = .configured ∨ (s.inst r.target).st = .active ∨ (s.inst r.target).st = .quiesced) →
    (pay r 1 1 = 0 → (s.head (pay r 0 1)).owner = none → exec (.headAssign k) s =
      .next (((s.setHead (pay r 0 1) { s.head (pay r 0 1) with owner := some r.target }).respond k r 0 0 []).postEvent r.target 0x8005
        [BitVec.ofNat 8 (pay r 0 1), 1, BitVec.ofNat 8 r.target])) ∧
    (pay r 1 1 = 0 → (s.head (pay r 0 1)).owner ≠ none → exec (.headAssign k) s = .next (s.respond k r 6 70 [])) ∧
    (pay r 1 1 = 1 → (s.head (pay r 0 1)).owner ≠ some r.target → exec (.headAssign k) s = .next (s.respond k r 6 71 [])) ∧
    (pay r 1 1 = 1 → (s.head (pay r 0 1)).owner = some r.target → exec (.headAssign k) s =
      .next ((s.respond k r 0 0 []).releaseHead (pay r 0 1) r.target))) ∧
  (∀ s k r, serving s k 0x0509 r → unusedOk r [(0, 4)] = true → pay r 0 1 = 1 → pay r 1 1 = 0 → pay r 2 2 ≤ 255 →
    (s.levelOf 0x1F0000 = false → exec (.isolationSet k) s = .next (s.respond k r 6 4 [])) ∧
    (s.levelOf 0x1F0000 = true → exec (.isolationSet k) s =
      .next ((s.setExpert (0x1F0400 + 4 * r.target) (BitVec.ofNat 32 (pay r 2 2))).respond k r 0 0 [])))

/-- The rows of the quiesce sequence (R303, R304, R309, R313, R316 to R319, R325, R326): the limit's kill, the end of a quiesce, the flush's time
limit, the end of a reset in CONFIGURED, UNASSIGNED or (INST_0) ACTIVE, a forced kill's FAULTED state, and the scrub that makes a slot zero. -/
def Obligations.InstanceEventsEndWhatTheyWaitFor : Prop :=
  (∀ s k q, (s.inst k).quiesce = some q → (s.inst k).st = .quiescing → q.killed = false → s.instBusy k = true → ∃ t, ∃ u : State,
    exec (.quiesceLimitExpiry k) s = .next t ∧ u = s.killWork k (!q.drain) ∧ t = u.setInst k { u.inst k with quiesce := some { q with killed := true } }) ∧
  (∀ s k q, (s.inst k).quiesce = some q → (s.inst k).st = .quiescing → q.fault = false → q.after = .quiesced → s.instBusy k = false →
    s.queuedWrites k = false → (s.ringsOf 0).long = none → ∃ t, exec (.quiesceFlushDone k) s = .next t ∧ (t.inst k).st = .quiesced ∧
    (t.inst k).quiesce = none ∧ (∀ i, i ≠ k → t.inst i = s.inst i) ∧ t.queues = s.queues ∧ t.slots = s.slots ∧ SameMem s t) ∧
  (∀ s k q, (s.inst k).quiesce = some q → q.killed = true → ∃ t, ∃ u : State, exec (.flushTimeout k) s = .next t ∧
    u = ({ s with pcie := { s.pcie with txq := s.pcie.txq.filter fun m => msgInst m != k } } : State).dropHeld k ∧
    t = u.countField (0x1F1024 + 64 * k) 0 32
      (s.pcie.txq.filter fun m => match m with | .write j _ _ _ _ => j == k | _ => false).length) ∧
  (∀ s k, (s.inst k).st = .resetting → exec (.instanceResetDone k) s = .next ((
      (s.setInst k { (if (s.inst k).removing then noQuota (s.inst k) else s.inst k) with removing := false }).setSt k
        (if k = 0 then .active else if (s.inst k).removing then .unassigned else .configured) (s.inst k).cause).resetReport k)) ∧
  (∀ (s : State) k x c, x ≠ .active → ((s.setSt k x c).inst k).st = x ∧ ((s.setSt k x c).inst k).quiesce = (s.inst k).quiesce ∧
    ((s.setSt k x c).inst k).trans = min ((s.inst k).trans + 1) 0xFFFF ∧ (∀ i, i ≠ k → (s.setSt k x c).inst i = s.inst i) ∧ (s.setSt k x c).queues = s.queues) ∧
  (∀ s k q, (s.inst k).quiesce = some q → q.fault = true → q.after = .quiesced → bitOf (s.reg (aInstCtrl k)).toNat 16 = false → (s.ringsOf 0).long = none →
    ∃ t, exec (.forcedKillDone k) s = .next t ∧ (t.inst k).st = .faulted ∧ (t.inst k).quiesce = none ∧ (∀ i, i ≠ k → t.inst i = s.inst i) ∧
    t.queues = s.queues) ∧
  (∀ s n, (s.slot n).scrub = .waiting → (s.slots.filter fun e => e.2.scrub == .active).length < 4 → s.heldSlot n = false →
    ∃ t, exec (.slotScrubStart n) s = .next t ∧ t.slot n = { s.slot n with scrub := .active } ∧ (∀ m, m ≠ n → t.slot m = s.slot m) ∧
    ∀ a, a / 2 ^ 28 ≠ n → t.memByte a = s.memByte a) ∧
  (∀ s n, (s.slot n).scrub = .active → ∃ t, exec (.slotScrubDone n) s = .next t ∧ t.slot n = { s.slot n with scrub := .clean } ∧
    (∀ m, m ≠ n → t.slot m = s.slot m) ∧ (∀ a, a / 2 ^ 28 = n → t.memByte a = 0) ∧ (∀ a, a / 2 ^ 28 ≠ n → t.memByte a = s.memByte a) ∧
    (∀ u ∈ t.poison, 32 * u / 2 ^ 28 ≠ n))

/-- Dirty-page logging (R347, R351 to R354, R356): a start opens the first free session with its kinds and windows; a harvest swaps the sets of the
kinds asked for and clears the count of missed pages; its end clears the harvested set; a stop frees the session; the PF is refused. -/
def Obligations.DirtyLoggingSwapsItsSets : Prop :=
  (∀ s k r n, serving s k 0x0600 r → r.target ≠ 0 → pay r 0 1 = 2 → pay r 1 1 = 0 → unusedOk r [(0, 2), (8, 12 * pay r 1 1)] = true → (s.inst r.target).st = .active →
    s.sessOf r.target = none → (List.range 8).find? (fun j => !(s.session j).active) = some n →
    (exec (.dirtyLogStart k false) s = .next (s.respond k r 5 0 [])) ∧
    (∃ t, ∃ u : State, exec (.dirtyLogStart k true) s = .next t ∧
      t = u.respond k r 0 0 ([BitVec.ofNat 8 n, 0, 0, 0] ++ leBytes 4 0 ++ leBytes 4 (512 * (s.slotList r.target).length)) ∧
      u = s.setSession n { sessReset with active := true, inst := r.target, host := false, dev := true, wins := [] })) ∧
  (∀ s k r fits, serving s k 0x0600 r → r.target = 0 → exec (.dirtyLogStart k fits) s = .next (s.respond k r 4 0 [])) ∧
  (∀ s k r n v, serving s k 0x0601 r → r.target ≠ 0 → pay r 0 1 = 2 → unusedOk r [(0, 1), (8, 12), (0x18, 12)] = true → s.sessOf r.target = some (n, v) →
    v.dev = true → 512 * (s.slotList r.target).length ≤ pay r 0x20 4 → ∃ t, ∃ u : State, exec (.dirtyHarvest k) s = .next t ∧
    u.session n = { v with spareD := v.marksD, marksD := v.spareD, missed := 0, harvest := s.ck.gtime } ∧ (∀ j, j ≠ n → u.session j = s.session j) ∧
    t = (u.respondPending k r { longNew r with
      data := leBytes 4 0 ++ leBytes 4 v.marksD.length ++ leBytes 4 v.missed ++ leBytes 4 0 ++ leBytes 8 s.ck.gtime.toNat }).hostWrite 0 (pay r 0x18 8)
        (devBitmap { v with spareD := v.marksD, marksD := v.spareD, missed := 0, harvest := s.ck.gtime } (s.slotList r.target)) true) ∧
  (∀ s k l n v, (s.ringsOf k).long = some l → l.req.op = 0x0601 → l.out = none → s.issuedAll 0 = true → s.sessOf l.req.target = some (n, v) → ∃ t, ∃ u : State,
    exec (.dirtyHarvestDone k) s = .next t ∧ u = s.setSession n { v with spareH := [], spareD := [] } ∧ t = u.finishLong k 0 0 l.data) ∧
  (∀ s k r n v, serving s k 0x0602 r → r.target ≠ 0 → unusedOk r [] = true →
    (s.sessOf r.target = none → exec (.dirtyLogStop k) s = .next (s.respond k r 6 17 [])) ∧
    (s.sessOf r.target = some (n, v) → exec (.dirtyLogStop k) s = .next ((s.setSession n sessReset).respond k r 0 0 [])))

/-- Shadow images (R362, R368, R369, R373 to R375): the size is answered for a format the firmware writes; a save needs a QUIESCED instance and a
buffer of that size, and leaves it SHADOWED; a restore checks its image twice and leaves the instance SHADOWED with it. -/
def Obligations.ShadowSaveAndRestore : Prop :=
  (∀ s k r, serving s k 0x0603 r → r.target ≠ 0 → unusedOk r [(0, 2)] = true →
    (s.shadowFormat (pay r 0 2) = none → exec (.shadowSize k) s = .next (s.respond k r 11 1 [])) ∧
    (∀ m, s.shadowFormat (pay r 0 2) = some m → exec (.shadowSize k) s = .next (s.respond k r 0 0 (leBytes 4 (s.shadowSize r.target))))) ∧
  (∀ s k r, serving s k 0x0604 r → r.target ≠ 0 → unusedOk r [(0, 2), (8, 12)] = true →
    ((s.inst r.target).st ≠ .quiesced → exec (.shadowSave k) s = .next (s.respond k r 6 (stCode (s.inst r.target).st) [])) ∧
    ((s.inst r.target).st = .quiesced → (s.inst r.target).quiesce = none → (s.ringsOf r.target).long = none → pay r 0x10 4 < s.shadowSize r.target →
      exec (.shadowSave k) s = .next (s.respond k r 3 0 (leBytes 4 (s.shadowSize r.target)))) ∧
    ((s.inst r.target).st = .quiesced → (s.inst r.target).quiesce = none → (s.ringsOf r.target).long = none → s.shadowSize r.target ≤ pay r 0x10 4 →
      ∀ m, s.shadowFormat (pay r 0 2) = some m → ∃ t, ∃ u : State, exec (.shadowSave k) s = .next t ∧
      u = (s.shadowBytes r.target m (s.shadowSize r.target) (s.shadowLossy r.target m)).1 ∧
      t = ((u.respondPending k r { longNew r with
        data := leBytes 4 (s.shadowSize r.target) ++ [BitVec.ofNat 8 m, 1, BitVec.ofNat 8 (b2n (s.shadowLossy r.target m)), 0] ++ leBytes 8 u.ck.gtime.toNat }).setSt
          r.target .shadowed 8).hostWrite 0 (pay r 8 8) (s.shadowBytes r.target m (s.shadowSize r.target) (s.shadowLossy r.target m)).2 true)) ∧
  (∀ s k l, (s.ringsOf k).long = some l → l.req.op = 0x0604 → s.issuedAll 0 = true → exec (.shadowSaveDone k) s = .next (s.finishLong k 0 0 l.data)) ∧
  (∀ s k r m cause, serving s k 0x0605 r → r.target ≠ 0 → pay r 0 1 ≤ 1 → unusedOk r [(0, 1), (8, 12)] = true →
    (exec (.shadowRestore k none cause) s = .next (s.respond k r 15 cause [])) ∧
    (∀ st d, s.restoreCheck r.target (pay r 0x10 4) (pay r 0 1 == 1) m = some (st, d) → exec (.shadowRestore k (some m) cause) s = .next (s.respond k r st d [])) ∧
    (s.restoreCheck r.target (pay r 0x10 4) (pay r 0 1 == 1) m = none →
      exec (.shadowRestore k (some m) cause) s = .next (s.respondPending k r { longNew r with img := some m }))) ∧
  (∀ s k l m, (s.ringsOf k).long = some l → l.img = some m → s.restoreCheck l.req.target (pay l.req 0x10 4) (pay l.req 0 1 == 1) m = none → ∃ t, ∃ u : State,
    exec (.shadowRestoreDone k) s = .next t ∧ u = (s.loadShadow l.req.target m).1 ∧
    t = ((u.setRings k { u.ringsOf k with long := some { l with img := none } }).setSt l.req.target .shadowed 8).finishLong k 0 0
      (leBytes 8 (((s.loadShadow l.req.target m).2.map fun j => 2 ^ j).sum) ++ leBytes 8 m.gtimeSave.toNat ++ leBytes 8
        ((u.setRings k { u.ringsOf k with long := some { l with img := none } }).ck.gtime).toNat))

/-- Firmware (R277 to R288): an image staged and verified waits; activation pauses dispatch, holds it at a boundary and then runs the staged image, or
ends BUSY when its window is over and leaves the image staged; persistence puts the image into the other slot and names it in the boot control block;
a discard drops a staged image. -/
def Obligations.FirmwareUpdateGoesThroughItsStages : Prop :=
  (∀ s k r i cause u gs, serving s k 0x0700 r → unusedOk r [(0, 12)] = true → pay r 0 8 % 4096 = 0 → pay r 0 8 < 2 ^ 48 → 1024 ≤ pay r 8 4 →
    pay r 8 4 ≤ 3145728 → s.segs 0 (pay r 0 8) (pay r 8 4) false askCmd = (u, gs, none) → exec (.fwStage k (some i) cause) s =
      .next (({ u.respondPending k r (longNew r) with fw := { u.fw with staged := some i } } : State).setFw .staging)) ∧
  (∀ s k r img cause u gs x, serving s k 0x0700 r → unusedOk r [(0, 12)] = true → pay r 0 8 % 4096 = 0 → pay r 0 8 < 2 ^ 48 → 1024 ≤ pay r 8 4 →
    pay r 8 4 ≤ 3145728 → s.segs 0 (pay r 0 8) (pay r 8 4) false askCmd = (u, gs, some x) →
    exec (.fwStage k img cause) s = .next (u.dropStaged.respond k r 6 80 [])) ∧
  (∀ s i, s.fw.st = .staging → s.fw.staged = some i → 0 ∉ s.sec.halted →
    (imageCause s.sec i ≠ 0 → exec .fwStageVerifyDone s = .next (s.dropStaged.finishLong 0 9 (imageCause s.sec i) (leBytes 8 0))) ∧
    (imageCause s.sec i = 0 → s.sameSetup i = false → exec .fwStageVerifyDone s = .next (s.dropStaged.finishLong 0 10 0 (leBytes 8 0))) ∧
    (imageCause s.sec i = 0 → s.sameSetup i = true → s.keepsVersions i = false →
      exec .fwStageVerifyDone s = .next (s.dropStaged.finishLong 0 11 0 (leBytes 8 0))) ∧
    (imageCause s.sec i = 0 → s.sameSetup i = true → s.keepsVersions i = true →
      exec .fwStageVerifyDone s = .next ((s.setFw .staged).finishLong 0 0 0 (leBytes 8 i.version.toNat)))) ∧
  (∀ s k r, serving s k 0x0701 r → unusedOk r [] = true → (s.fw.staged = none → exec (.fwActivate k) s = .next (s.respond k r 12 0 [])) ∧
    (s.fw.staged ≠ none → ∃ t, exec (.fwActivate k) s = .next t ∧ t.fw.paused = true ∧ t.fw.actBy = some k ∧ t.fw.actStart = s.ck.gtime ∧
      t.fw.st = .activating ∧ t.fw.staged = s.fw.staged ∧ t.pw = s.pw ∧ t.sec = s.sec ∧ SameMem s t)) ∧
  (∀ s k, s.fw.actBy = some k → s.fw.swapping = false → s.fw.staged ≠ none → s.boundary = true → 2 ∉ s.sec.halted → ∃ t,
    exec .fwActivateBoundary s = .next t ∧ t.fw = { s.fw with swapping := true } ∧ t.queues = s.queues ∧ SameMem s t) ∧
  (∀ s k i, s.fw.actBy = some k → s.fw.staged = some i → s.fw.swapping = true → ∃ t, exec .fwSwapCommit s = .next t ∧ t.sec.image = some i ∧
    t.sec.svn = i.svn ∧ t.sec.arb = s.sec.arb ∧ t.pw = s.pw) ∧
  (∀ s k, s.fw.actBy = some k → s.fw.swapping = false → s.fw.staged ≠ none → ∃ t, exec .activateWindowExpiry s = .next t ∧ t.fw.actBy = none ∧
    t.fw.paused = false ∧ t.fw.st = .staged ∧ t.fw.staged = s.fw.staged ∧ t.pw = s.pw ∧ t.sec = s.sec) ∧
  (∀ s k r, serving s k 0x0702 r → unusedOk r [(0, 1)] = true → pay r 0 1 = 0 →
    exec (.fwPersist k) s = .next ((s.respondPending k r (longNew r)).setFw .persisting)) ∧
  (∀ s l f i, (s.ringsOf 0).long = some l → s.sec.flash = some f → l.req.op = 0x0702 → l.out = none → 0 ∉ s.sec.halted → pay l.req 0 1 = 0 →
    s.sec.image = some i → imageCause s.sec i = 0 → ∃ t, exec (.fwPersistDone true) s = .next t ∧
    t.sec = { s.sec with flash := some (switchBcb (putSlot f i)) } ∧ t.pw = s.pw) ∧
  (∀ s k r, serving s k 0x0703 r → unusedOk r [] = true → (s.fw.st = .staged → exec (.fwDiscard k) s = .next (s.dropStaged.respond k r 0 0 [])) ∧
    (s.fw.st = .staging → exec (.fwDiscard k) s = .next (s.respond k r 0 0 [])))

/-- Requests that read or set values (R268, R269, R274, R745, R746, 03 Orderly removal): PING answers GTIME; limits outside their ranges are BAD_FORMAT; telemetry answers the
sensors asked for; a log record is fetched to the instance's buffer; a quote is signed into its buffer; removal stops requests and blacks the heads. -/
def Obligations.ValueRequestsAnswerWhatTheyName : Prop :=
  (∀ s k r, serving s k 0x0001 r → unusedOk r [] = true → exec (.ping k) s = .next (s.respond k r 0 0 (leBytes 8 s.ck.gtime.toNat))) ∧
  (∀ s k r, serving s k 0x0002 r → unusedOk r [] = true → ∃ pl, exec (.getInfo k) s = .next (s.respond k r 0 0 pl) ∧
    bytesAt pl 0 8 = leBytes 8 s.fw.version.toNat ∧ bytesAt pl 8 4 = leBytes 2 s.fw.verMin.toNat ++ leBytes 2 s.fw.verMax.toNat ∧
    bytesAt pl 14 1 = leBytes 1 r.target ∧ bytesAt pl 16 1 = leBytes 1 (s.inst r.target).maxQ) ∧
  (∀ s k r, serving s k 0x0801 r → unusedOk r [(0, 1)] = true → (pay r 0 1 ≤ 4 → exec (.logConfig k) s =
      .next ((s.setReg 0xB100 (BitVec.ofNat 32 (pay r 0 1))).respond k r 0 0 [])) ∧
    (4 < pay r 0 1 → exec (.logConfig k) s = .next (s.respond k r 3 0 []))) ∧
  (∀ s k r, serving s k 0x0802 r → unusedOk r [(0, 32)] = true → ∃ t, ∃ u : State, exec (.traceSet k) s = .next t ∧ t = u.respond k r 0 0 [] ∧
    (∀ i, i < 8 → u.reg (0xB140 + 4 * i) = BitVec.ofNat 32 (pay r (4 * i) 4)) ∧ u.pw = s.pw ∧ u.queues = s.queues) ∧
  (∀ s k r, serving s k 0x0800 r → unusedOk r [(0, 6), (8, 12)] = true → pay r 4 2 = 1 → pay r 8 8 % 32 = 0 → 32 ≤ pay r 16 4 →
    ∀ x, s.logFind (BitVec.ofNat 32 (pay r 0 4)) = some x → (r.target = 0 ∨ x.inst = r.target) → ∃ t, ∃ u : State, exec (.logFetch k) s = .next t ∧
    t = u.hostWrite r.target (pay r 8 8) (logBytes x) true ∧ (u.ringsOf k).cur = none ∧ u.insts = s.insts ∧ u.queues = s.queues) ∧
  (∀ s k l, (s.ringsOf k).long = some l → l.req.op = 0x0800 → s.issuedAll l.req.target = true → exec (.logFetchDone k) s = .next (s.finishLong k 0 0 l.data)) ∧
  (∀ s k r, serving s k 0x0900 r → unusedOk r [(0, 2)] = true → (250 ≤ pay r 0 2 → pay r 0 2 ≤ 450 → exec (.powerCapSet k) s =
      .next (({ s with trim := { s.trim with capW := pay r 0 2 } } : State).respond k r 0 0 (leBytes 2 (pay r 0 2) ++ leBytes 2 s.trim.boardW))) ∧
    (pay r 0 2 < 250 ∨ 450 < pay r 0 2 → exec (.powerCapSet k) s = .next (s.respond k r 3 0 []))) ∧
  (∀ s k r, serving s k 0x0901 r → unusedOk r [(0, 3)] = true → (pay r 0 2 = 0 ∨ 150 ≤ pay r 0 2 ∧ pay r 0 2 ≤ 450) →
    (pay r 2 1 = 0 ∨ 20 ≤ pay r 2 1 ∧ pay r 2 1 ≤ 100) → exec (.quietLimitSet k) s =
      .next (({ s with trim := { s.trim with quietW := pay r 0 2, quietFan := pay r 2 1 } } : State).respond k r 0 0 [])) ∧
  (∀ s k r, serving s k 0x0902 r → unusedOk r [(0, 1)] = true → (pay r 0 1 = 0 ∨ 16 ≤ pay r 0 1 ∧ pay r 0 1 ≤ 40) → exec (.cadenceFloorSet k) s =
      .next (({ s with trim := { s.trim with floorN := pay r 0 1 } } : State).respond k r 0 0 [])) ∧
  (∀ s k r, serving s k 0x0903 r → unusedOk r [(0, 2)] = true → r.target = k → 1 ≤ pay r 1 1 → pay r 1 1 ≤ 20 → pay r 0 1 + pay r 1 1 ≤ 67 →
    (k = 0 ∨ 64 ≤ pay r 0 1 → exec (.telemRead k) s = .next (s.respond k r 0 0 (leBytes 4 s.trim.seq.toNat ++ leBytes 8 s.trim.sampleGtime.toNat ++
      (List.range (pay r 1 1)).flatMap fun i => leBytes 2 (s.sensor (pay r 0 1 + i)).toNat))) ∧
    (k ≠ 0 → pay r 0 1 < 64 → exec (.telemRead k) s = .next (s.respond k r 4 0 []))) ∧
  (∀ s k r u gs, serving s k 0x0A02 r → unusedOk r [(0, 0x28)] = true → r.target = k → pay r 0x20 8 % 1024 = 0 → pay r 0x20 8 < 2 ^ 48 →
    s.segs k (pay r 0x20 8) 1024 true askCmd = (u, gs, none) → segsHost gs = false → u.attestReady = true →
    exec (.attestQuote k) s = .next (u.respondPending k r (longNew r))) ∧
  (∀ s k l u gs, (s.ringsOf k).long = some l → l.req.op = 0x0A02 → l.out = none → 0 ∉ s.sec.halted →
    s.segs k (pay l.req 0x20 8) 576 true askCmd = (u, gs, none) → segsHost gs = false → exec (.attestQuoteSigned k) s =
      .next ((u.segWrite k false gs (signed (s.quoteBody k (bytesAt l.req.payload 0 32)))).finishLong k 0 0
        (leBytes 8 576 ++ leBytes 8 u.ck.gtime.toNat))) ∧
  (∀ s k r, serving s k 0x0704 r → unusedOk r [] = true → ∃ t, exec (.prepareRemoval k) s = .next t ∧ t.pw = { s.pw with removing := true } ∧ SameMem s t) ∧
  (∀ s l, (s.ringsOf 0).long = some l → l.req.op = 0x0704 → s.pw.removing = true → s.pcie.txq = [] → s.pw.stage = .ready → s.pw.safe = false → ∃ t,
    exec .prepareRemovalDone s = .next t ∧ t.pw = { s.pw with stage := .parked, selfRefresh := 15 } ∧ (∀ c ∈ t.ck.cclk, c.gated = true) ∧ SameMem s t)

/-! ### Queue commands (09, 10) -/

/-- Doorbells and decode (R391 to R396, R403, R404, R419, R430, R438): a tail within the ring is latched and counted and starts the fetch; one outside it
stops the queue with 0x0107 and is not latched; one for an index no queue is bound to is dropped. The front command of an open queue is checked once; a
check that fails stops the queue at it; a command whose predicate is false is skipped and counts as completed; a failed fetch stops it. -/
def Obligations.DoorbellsAndDecodeFeedTheQueue : Prop :=
  (∀ ag i tail s l r h, s.gate ag (winOff ag (0x1000 + 8 * (i % 64))) true = .go l → l.pg = .doorbell → l.off = 8 * (i % 64) → l.row = some (r, 0) →
  r.wide = true → r.acc = .rw → s.rowLocked l r = false → s.rowHeld l r = false → l.expert = false → s.pw.removing = false → s.pw.stage ≠ .parked →
  (s.inst l.unit).st ∉ [.unassigned, .resetting, .faulted] →
  (s.hwqOf l.unit (i % 64) = some h → (tail - (s.queue h).head).toNat ≤ 2 ^ (s.queue h).log2 → (tail - (s.queue h).tail).toNat ≤ 2 ^ (s.queue h).log2 →
    ∃ t, exec (.doorbell ag i tail) s = .next t ∧ (t.queue h).tail = tail ∧ (t.queue h).head = (s.queue h).head ∧
    (∀ j, j ≠ h → t.queue j = s.queue j) ∧ t.insts = s.insts ∧ t.sync = s.sync ∧ SameMem s t) ∧
  (s.hwqOf l.unit (i % 64) = some h → ((s.queue h).st = .running ∨ (s.queue h).st = .stopped) →
    (2 ^ (s.queue h).log2 < (tail - (s.queue h).head).toNat ∨ 2 ^ (s.queue h).log2 < (tail - (s.queue h).tail).toNat) →
    ∃ t, exec (.doorbell ag i tail) s = .next t ∧ (t.queue h).st = .faulted ∧ (t.queue h).faultCode = 0x0107 ∧ (t.queue h).tail = (s.queue h).tail) ∧
  (s.hwqOf l.unit (i % 64) = none → ∃ t, ∃ u : State, exec (.doorbell ag i tail) s = .next t ∧ t = u.doorbellDrop l.unit (i % 64) ∧ u.regs = s.regs ∧
    t.queues = s.queues ∧ SameMem s t)) ∧
  (∀ h err s u, u = s.eccFind err false → u.open_ h = true → (u.queue h).checked = false →
  (u.front h = .none → exec (.ringDataReturn h err) s = .next (u.fetch h)) ∧
  (∀ c p, u.front h = .fail c p → exec (.ringDataReturn h err) s = .next (u.hostReadFault h c p 2 none)) ∧
  (∀ va x p, u.front h = .refused va x p → exec (.ringDataReturn h err) s = .next (u.accessFault h va false askCmd x p 2 none)) ∧
  (∀ f, u.front h = .cmd f →
    (∀ c, u.checkCmd (u.queue h) f (hPred (wordAt f.words 0) && !(u.queue h).pred) = some c →
      exec (.ringDataReturn h err) s = .next (u.cmdFault h c f.pos)) ∧
    (u.checkCmd (u.queue h) f false = none → (hPred (wordAt f.words 0) = false ∨ (u.queue h).pred = true) →
      exec (.ringDataReturn h err) s = .next (u.setQueue h { u.queue h with checked := true })) ∧
    (u.checkCmd (u.queue h) f true = none → hPred (wordAt f.words 0) = true → (u.queue h).pred = false → (u.queue h).frames = [] →
      ∃ t, exec (.ringDataReturn h err) s = .next t ∧ (t.queue h).head = (u.queue h).head + 1 ∧ (t.queue h).cmdDone = (u.queue h).cmdDone + 1 ∧
      (t.queue h).checked = false ∧ (∀ j, j ≠ h → t.queue j = u.queue j) ∧ t.cmds = u.cmds ∧ SameMem s t)))

/-- Stream commands (R384, R432, R442, R447, R467 to R471): NOP completes at once, a FENCE once the queue's earlier commands have; completing
moves a ring past its command and counts it; INDIRECT enters its buffer; COND sets the queue's predicate; loops open, repeat and close. -/
def Obligations.StreamCommandsMoveTheQueueOn : Prop :=
  (∀ s h f, (s.queue h).frames = [] → ((s.finish h f false).queue h).head = (s.queue h).head + 1 ∧
    ((s.finish h f false).queue h).cmdDone = (s.queue h).cmdDone + 1 ∧ ((s.finish h f false).queue h).checked = false ∧
    ((s.finish h f false).queue h).tail = (s.queue h).tail ∧ (∀ j, j ≠ h → (s.finish h f false).queue j = s.queue j) ∧
    (s.finish h f false).cmds = s.cmds ∧ (s.finish h f false).insts = s.insts ∧ (s.finish h f false).sync = s.sync ∧ SameMem s (s.finish h f false)) ∧
  (∀ s h q f, mayBegin s h 0x00 q f → exec (.nop h) s = .next (s.finish h f false)) ∧
  (∀ s h q f, mayBegin s h 0x23 q f → (s.busyQ h = true → exec (.fence h) s = .next s) ∧
    (s.busyQ h = false → exec (.fence h) s = .next (s.finish h f false))) ∧
  (∀ s h err q f u v p, u = s.eccFind err false → mayBegin u h 0x01 q f → u.xlate q.inst (u.opAddr q 0x01 (cmdWords f) 0) false askCmd = (v, .ok p) →
    ∃ t fr, exec (.indirect h err) s = .next t ∧ fr.addr = u.opAddr q 0x01 (cmdWords f) 0 ∧ fr.len = natAt (cmdWords f) 3 ∧ fr.pos = 0 ∧
    (t.queue h).frames = fr :: (match q.frames with | [] => [] | o :: rest => { o with pos := o.pos + 4 } :: rest) ∧ (t.queue h).checked = false ∧
    (t.queue h).head = q.head ∧ (∀ j, j ≠ h → t.queue j = s.queue j) ∧ SameMem s t) ∧
  (∀ s h err q f u, u = s.eccFind err false → mayBegin u h 0x30 q f →
    (bitsOf (natAt (cmdWords f) 1) 4 2 < 2 → exec (.cond h err) s = .next (u.withOperand h q f (cmdWords f) (u.opAddr q 0x30 (cmdWords f) 0)
      (if bitsOf (natAt (cmdWords f) 1) 4 2 = 0 then 4 else 8) false fun s d => .ok (s.condEffect h (cmdWords f) (leNat d)))) ∧
    (2 ≤ bitsOf (natAt (cmdWords f) 1) 4 2 → u.syncIndex q.inst (natAt (cmdWords f) 2) = none → exec (.cond h err) s = .next (u.cmdFault h 0x0103 f.pos)) ∧
    (∀ i, bitsOf (natAt (cmdWords f) 1) 4 2 = 2 → u.syncIndex q.inst (natAt (cmdWords f) 2) = some i →
      exec (.cond h err) s = .next ((u.condEffect h (cmdWords f) (u.obj i).value).finish h f false)) ∧
    (∀ i, bitsOf (natAt (cmdWords f) 1) 4 2 = 3 → u.syncIndex q.inst (natAt (cmdWords f) 2) = some i →
      exec (.cond h err) s = .next ((u.condEffect h (cmdWords f) (u.obj i).gen.toNat).finish h f false))) ∧
  (∀ s h q f, mayBegin s h 0x31 q f → (4 ≤ q.loops.length → exec (.loopBegin h) s = .next (s.cmdFault h 0x0103 f.pos)) ∧
    (q.loops.length < 4 → exec (.loopBegin h) s = .next ((s.setQueue h { q with loops :=
      { isWhile := bitOf (natAt (cmdWords f) 1) 0, count := natAt (cmdWords f) 2, done := 0, body := f.pos.off + 3, level := f.pos.depth
        beginPos := f.pos.off } :: q.loops }).finish h f false))) ∧
  (∀ s h q f, mayBegin s h 0x32 q f → (q.loops = [] → exec (.loopEnd h) s = .next (s.cmdFault h 0x0103 f.pos)) ∧
    (∀ l rest, q.loops = l :: rest → (l.level ≠ f.pos.depth → exec (.loopEnd h) s = .next (s.cmdFault h 0x0103 f.pos)) ∧
      (l.level = f.pos.depth → (l.count ≤ l.done + 1 ∨ l.isWhile = true ∧ q.pred = false) →
        exec (.loopEnd h) s = .next ((s.setQueue h { q with loops := rest }).finish h f false)) ∧
      (∀ fr fs, l.level = f.pos.depth → l.done + 1 < l.count → (l.isWhile = true → q.pred = true) → q.frames = fr :: fs → ∃ t,
        exec (.loopEnd h) s = .next t ∧ (t.queue h).loops = { l with done := l.done + 1 } :: rest ∧ (t.queue h).frames = { fr with pos := l.body } :: fs ∧
        (t.queue h).cmdDone = q.cmdDone + 1 ∧ SameMem s t)))

/-- Reports, Beacon waits and flips (R436, R472, R473, R475, R476): TIMESTAMP and REPORT write their record once its address translates, waiting for
earlier commands where they must; WRITE_DATA writes its words; BEACON_WAIT waits for its tick; SCANOUT_FLIP gives its head the frame. -/
def Obligations.ReportsBeaconWaitsAndFlips : Prop :=
  (∀ s h q f v p, mayBegin s h 0x40 q f → s.xlate q.inst (s.opAddr q 0x40 (cmdWords f) 0) true askCmd = (v, .ok p) →
    ((bitOf (natAt (cmdWords f) 1) 0 = false ∨ v.busyQ h = false) → exec (.timestamp h) s =
      .next (v.putBytesOf h q f (s.opAddr q 0x40 (cmdWords f) 0) (leBytes 8 v.ck.gtime.toNat))) ∧
    (bitOf (natAt (cmdWords f) 1) 0 = true → v.busyQ h = true → q.frames = [] → ∃ t, exec (.timestamp h) s = .next t ∧ (t.queue h).waiting = true ∧
      (t.queue h).cmdDone = q.cmdDone ∧ SameMem s t)) ∧
  (∀ s h q f v p, mayBegin s h 0x42 q f → s.xlate q.inst (s.opAddr q 0x42 (cmdWords f) 0) true askCmd = (v, .ok p) →
    (v.busyQ h = false → exec (.report h) s = .next (v.putBytesOf h q f (s.opAddr q 0x42 (cmdWords f) 0)
      (recBytes (natAt (cmdWords f) 3) f.pos 0 h 0 v.ck.gtime (nat64At (cmdWords f) 4)))) ∧
    (v.busyQ h = true → q.frames = [] → ∃ t, exec (.report h) s = .next t ∧ (t.queue h).waiting = true ∧ (t.queue h).cmdDone = q.cmdDone ∧ SameMem s t)) ∧
  (∀ s h q f v hst, mayBegin s h 0x41 q f →
    s.storeAt q.inst (s.opAddr q 0x41 (cmdWords f) 0) (wordsBytes ((cmdWords f).drop 3)) = (v, hst, none) →
    exec (.writeData h) s = .next (v.finish h f hst)) ∧
  (∀ s h q f, mayBegin s h 0x50 q f →
    (bitOf (natAt (cmdWords f) 1) 8 = true → (s.beacon (bitsOf (natAt (cmdWords f) 1) 0 3)).ticks = wordAt (cmdWords f) 2 →
      exec (.beaconWait h) s = .next (s.finish h f false)) ∧
    ((bitOf (natAt (cmdWords f) 1) 8 = false ∨ beaconHolds (s.beacon (bitsOf (natAt (cmdWords f) 1) 0 3)).ticks (wordAt (cmdWords f) 2) = false) →
      q.frames = [] → ∃ t, exec (.beaconWait h) s = .next t ∧ (t.queue h).waiting = true ∧ (t.queue h).head = q.head + 1 ∧
      (∃ c ∈ t.cmds, c.id = s.nextId ∧ c.hwq = h ∧ c.blocking = true ∧
        c.work = .beacon (bitsOf (natAt (cmdWords f) 1) 0 3) (bitOf (natAt (cmdWords f) 1) 8) (wordAt (cmdWords f) 2)) ∧ SameMem s t)) ∧
  (∀ s h q f, mayBegin s h 0x51 q f →
    ((s.head (natAt (cmdWords f) 1 % 2)).owner ≠ some q.inst → exec (.scanoutFlip h) s = .next (s.cmdFault h 0x0102 f.pos)) ∧
    ((s.head (natAt (cmdWords f) 1 % 2)).owner = some q.inst → s.formatOk (natAt (cmdWords f) 1 % 2) (cmdWords f) = false →
      exec (.scanoutFlip h) s = .next (s.cmdFault h 0x0103 f.pos)) ∧
    (∀ v, (s.head (natAt (cmdWords f) 1 % 2)).owner = some q.inst → s.formatOk (natAt (cmdWords f) 1 % 2) (cmdWords f) = true →
      State.planesIn q.inst ((s.operands 0x51 (cmdWords f)).map (s.va q (cmdWords f))) s = (v, none) → ∃ u fr, 
      exec (.scanoutFlip h) s = .next ((State.acceptFlip u (natAt (cmdWords f) 1 % 2) fr).finish h f false) ∧ fr.hwq = h ∧
      fr.planes = ((s.operands 0x51 (cmdWords f)).map (s.va q (cmdWords f))).map (BitVec.ofNat 64) ∧ fr.pitch0 = natAt (cmdWords f) 8 ∧
      fr.pitch12 = natAt (cmdWords f) 9 ∧ fr.format = bitsOf (natAt (cmdWords f) 1) 16 4 ∧ fr.crcValid = bitOf (natAt (cmdWords f) 1) 8 ∧
      fr.crc = wordAt (cmdWords f) 10))

/-- Kernel commands (R407, R423, R477 to R481, R541): SET_CONTEXT and TIMEOUT_SET set the queue they name, and stop their own where it names
none; HTAB_LOAD stores all its entries or none; REG_WRITE and REG_READ check every register first; DMMU_INVALIDATE drops the translations of its
scope; SYNC_INIT writes all its objects or none. -/
def Obligations.KernelCommandsSetWhatTheyName : Prop :=
  (∀ s h q f, mayBegin s h 0x80 q f →
    (s.hwqOf q.inst (bitsOf (natAt (cmdWords f) 1) 0 6) = none → exec (.setContext h) s = .next (s.cmdFault h 0x0103 f.pos)) ∧
    (∀ j, s.hwqOf q.inst (bitsOf (natAt (cmdWords f) 1) 0 6) = some j → (bitOf (natAt (cmdWords f) 1) 8 = false ∨ nat64At (cmdWords f) 2 = 0) →
      ∃ t, exec (.setContext h) s = .next t ∧
      (bitOf (natAt (cmdWords f) 1) 8 = true → (t.queue j).faultRec = 0) ∧
      (bitOf (natAt (cmdWords f) 1) 9 = true → (t.queue j).saveNext = some (BitVec.ofNat 64 (nat64At (cmdWords f) 4))) ∧
      (bitOf (natAt (cmdWords f) 1) 9 = false → (t.queue j).saveNext = (s.queue j).saveNext)) ∧
    (∀ j v p, s.hwqOf q.inst (bitsOf (natAt (cmdWords f) 1) 0 6) = some j → bitOf (natAt (cmdWords f) 1) 8 = true → nat64At (cmdWords f) 2 ≠ 0 →
      s.xlate q.inst (nat64At (cmdWords f) 2) true askCmd = (v, .ok p) → ∃ t, exec (.setContext h) s = .next t ∧
      (t.queue j).faultRec = BitVec.ofNat 64 (nat64At (cmdWords f) 2) ∧
      (bitOf (natAt (cmdWords f) 1) 9 = true → (t.queue j).saveNext = some (BitVec.ofNat 64 (nat64At (cmdWords f) 4))))) ∧
  (∀ s h err q f u, u = s.eccFind err false → mayBegin u h 0x81 q f →
    ((if (u.inst q.inst).htab = 0 then 0 else 2 ^ (u.inst q.inst).htab) < natAt (cmdWords f) 1 + natAt (cmdWords f) 2 →
      exec (.htabLoad h err) s = .next (u.cmdFault h 0x0103 f.pos)) ∧
    (natAt (cmdWords f) 1 + natAt (cmdWords f) 2 ≤ (if (u.inst q.inst).htab = 0 then 0 else 2 ^ (u.inst q.inst).htab) →
      exec (.htabLoad h err) s = .next (u.withOperand h q f (cmdWords f) (u.opAddr q 0x81 (cmdWords f) 0) (16 * natAt (cmdWords f) 2) false
        fun s d => s.htabEffect q.inst (cmdWords f) d))) ∧
  (∀ s k ws d t, State.htabEffect s k ws d = .ok t → (htabEnts (natAt ws 2) d).all htabOk = true ∧ t = { s with htab := t.htab } ∧
    (∀ i e, (htabEnts (natAt ws 2) d)[i]? = some e → tblGet { w0 := 0, w1 := 0 } (65536 * k + natAt ws 1 + i) t.htab = e) ∧
    (∀ j, (j < 65536 * k + natAt ws 1 ∨ 65536 * k + natAt ws 1 + natAt ws 2 ≤ j) →
      tblGet { w0 := 0, w1 := 0 } j t.htab = tblGet { w0 := 0, w1 := 0 } j s.htab)) ∧
  (∀ s h q f, mayBegin s h 0x82 q f →
    (∀ l, s.regRefused (bitsOf (natAt (cmdWords f) 1) 0 26) (bitsOf (natAt (cmdWords f) 1) 26 4 + 1) true = some l →
      exec (.regWrite h) s = .next ((s.actDenied regAgent l.region true).cmdFault h 0x0102 f.pos)) ∧
    (bitsOf (natAt (cmdWords f) 1) 26 4 = 0 → s.regRefused (bitsOf (natAt (cmdWords f) 1) 0 26) 1 true = none →
      exec (.regWrite h) s = .next (((s.advance h f).regWrite regAgent (bitsOf (natAt (cmdWords f) 1) 0 26) (natAt (cmdWords f) 2) 15 false).countDone h
        (wordAt f.words 0))) ∧
    (s.regRefused (bitsOf (natAt (cmdWords f) 1) 0 26) (bitsOf (natAt (cmdWords f) 1) 26 4 + 1) true = none →
      exec (.regWrite h) s = .next (((List.range (bitsOf (natAt (cmdWords f) 1) 26 4 + 1)).foldl (fun s i =>
        s.regWrite regAgent (bitsOf (natAt (cmdWords f) 1) 0 26 + 4 * i) (natAt (cmdWords f) (2 + i)) 15 false) (s.advance h f)).countDone h
        (wordAt f.words 0)))) ∧
  (∀ s h avail q f, mayBegin s h 0x83 q f →
    (∀ l, s.regRefused (bitsOf (natAt (cmdWords f) 1) 0 26) (bitsOf (natAt (cmdWords f) 1) 26 4 + 1) false = some l →
      exec (.regRead h avail) s = .next ((s.actDenied regAgent l.region false).cmdFault h 0x0102 f.pos)) ∧
    (∀ v gs, bitsOf (natAt (cmdWords f) 1) 26 4 = 0 → s.regRefused (bitsOf (natAt (cmdWords f) 1) 0 26) 1 false = none →
      s.segs q.inst (s.opAddr q 0x83 (cmdWords f) 0) 4 true askCmd = (v, gs, none) → ∃ u : State,
      u = v.regRead regAgent (bitsOf (natAt (cmdWords f) 1) 0 26) false avail ∧
      exec (.regRead h avail) s = .next (({ u with own := { u.own with readData := v.own.readData, cpl := v.own.cpl } } : State).putBytesOf h q f
        (s.opAddr q 0x83 (cmdWords f) 0) (bytesAt u.own.readData 0 4)))) ∧
  (∀ s h q f, mayBegin s h 0x84 q f → ∃ u : State, u = { s with caches := { s.caches with tlb := u.caches.tlb } } ∧
    (∀ e, e ∈ u.caches.tlb ↔ e ∈ s.caches.tlb ∧ ¬ (e.inst = q.inst ∧ (natAt (cmdWords f) 1 = 0 ∨
      nat64At (cmdWords f) 2 / 4096 ≤ e.page ∧ e.page < nat64At (cmdWords f) 2 / 4096 + natAt (cmdWords f) 4))) ∧
    (s.accessing q.inst = false → exec (.dmmuInvalidate h) s = .next ((u.count 0x1A0128).finish h f false)) ∧
    (s.accessing q.inst = true → exec (.dmmuInvalidate h) s = .next (u.start h f true .inval))) ∧
  (∀ s h err q f u, u = s.eccFind err false → mayBegin u h 0x85 q f →
    ((u.syncIndex q.inst (bitsOf (natAt (cmdWords f) 1) 0 14) = none ∨
        64 < bitsOf (natAt (cmdWords f) 1) 0 14 % 64 + (bitsOf (natAt (cmdWords f) 1) 16 6 + 1)) →
      exec (.syncInit h err) s = .next (u.cmdFault h 0x0103 f.pos)) ∧
    (u.syncIndex q.inst (bitsOf (natAt (cmdWords f) 1) 0 14) ≠ none →
      bitsOf (natAt (cmdWords f) 1) 0 14 % 64 + (bitsOf (natAt (cmdWords f) 1) 16 6 + 1) ≤ 64 →
      exec (.syncInit h err) s = .next (u.withOperand h q f (cmdWords f) (u.opAddr q 0x85 (cmdWords f) 0)
        (32 * (bitsOf (natAt (cmdWords f) 1) 16 6 + 1)) true fun s d => s.syncEffect q.inst (cmdWords f) d))) ∧
  (∀ s h q f, mayBegin s h 0x86 q f →
    (s.hwqOf q.inst (bitsOf (natAt (cmdWords f) 1) 0 6) = none → exec (.timeoutSet h) s = .next (s.cmdFault h 0x0103 f.pos)) ∧
    ((∃ i, i < 8 ∧ bitsOf (natAt (cmdWords f) 2) (4 * i) 4 = 15) → exec (.timeoutSet h) s = .next (s.cmdFault h 0x0103 f.pos)) ∧
    (∀ j, s.hwqOf q.inst (bitsOf (natAt (cmdWords f) 1) 0 6) = some j → (∀ i, i < 8 → bitsOf (natAt (cmdWords f) 2) (4 * i) 4 ≠ 15) → ∃ t,
      exec (.timeoutSet h) s = .next t ∧ (t.queue j).presets = wordAt (cmdWords f) 2 ∧ t.insts = (s.finish h f false).insts ∧
      ∀ i, i ≠ j → t.queue i = (s.finish h f false).queue i)) ∧
  (∀ s h q f ws va n sync eff u gs, State.segs s q.inst va n false askCmd = (u, gs, none) → u.segPoison gs = none → segsHost gs = false →
    (∀ t, eff u (u.segBytes gs) = .ok t → s.withOperand h q f ws va n sync eff = t.finish h f false) ∧
    (∀ c, eff u (u.segBytes gs) = .error c → sync = true → s.withOperand h q f ws va n sync eff = u.cmdFault h c f.pos))

/-- Launches, copies and operations on sync objects (R432, R435, R449 to R457, R460 to R465, R543, R555): a launch that passes its begin checks becomes its queue's ready launch;
COPY and FILL pass their checks and run on a mover until it is done; SIGNAL, WAIT and ARRIVE send their operation to the hub. -/
def Obligations.WorkCommandsStartTheirWork : Prop :=
  (∀ s h q f g im sa v p w, mayBegin s h 0x11 q f → g = (if bitOf (natAt (cmdWords f) 3) 4 then bitsOf (natAt (cmdWords f) 3) 0 4 else q.cgrp) →
    im = s.opAddr q 0x11 (cmdWords f) 0 → sa = (q.saveNext.getD q.saveArea).toNat → s.grpOk q.inst g = true →
    s.xlate q.inst im false askCmd = (v, .ok (.hbm p)) → v.saveCheck q.inst sa (maskList (v.grpMask g)).length = (w, none) →
    ∃ t, exec (.launchInline h) s = .next t ∧ (t.queue h).ready = some w.nextId ∧ (t.queue h).head = q.head ∧
    tblFind w.nextId t.launches = some { newLaunch q h g (w.grpMask g) (cmdWords f) im 0 sa true with gtime := w.ck.gtime }) ∧
  (∀ s h q f g im cb sa v p w d x, mayBegin s h 0x10 q f → g = (if bitOf (natAt (cmdWords f) 3) 4 then bitsOf (natAt (cmdWords f) 3) 0 4 else q.cgrp) →
    im = s.opAddr q 0x10 (cmdWords f) 0 → cb = s.opAddr q 0x10 (cmdWords f) 1 → sa = (q.saveNext.getD q.saveArea).toNat → s.grpOk q.inst g = true →
    s.xlate q.inst im false askCmd = (v, .ok (.hbm p)) → v.xlate q.inst cb false askCmd = (x, .ok d) →
    x.saveCheck q.inst sa (maskList (x.grpMask g)).length = (w, none) →
    ∃ t, exec (.launch h) s = .next t ∧ (t.queue h).ready = some w.nextId ∧ (t.queue h).head = q.head ∧
    tblFind w.nextId t.launches = some { newLaunch q h g (w.grpMask g) (cmdWords f) im cb sa false with gtime := w.ck.gtime }) ∧
  (∀ s h q f, (mayBegin s h 0x10 q f → s.grpOk q.inst (if bitOf (natAt (cmdWords f) 3) 4 then bitsOf (natAt (cmdWords f) 3) 0 4 else q.cgrp) = false →
    exec (.launch h) s = .next (s.cmdFault h 0x0102 f.pos))) ∧
  (∀ s h err q f u src dst g, u = s.eccFind err false → mayBegin u h 0x12 q f → src = u.opAddr q 0x12 (cmdWords f) 0 → dst = u.opAddr q 0x12 (cmdWords f) 1 →
    g = copyGeo (cmdWords f) →
    (bitOf (natAt (cmdWords f) 1) 2 = true → hSync (wordAt (cmdWords f) 0) = false → 4 ≤ u.asyncCount h → exec (.copy h err) s = .next u) ∧
    ((bitOf (natAt (cmdWords f) 1) 2 = false ∨ hSync (wordAt (cmdWords f) 0) = true ∨ u.asyncCount h < 4) →
      (bitOf (natAt (cmdWords f) 1) 3 = true → exec (.copy h err) s = .next (u.beginChain h q f (cmdWords f))) ∧
      (bitOf (natAt (cmdWords f) 1) 3 = false → geoOk src dst g = false → exec (.copy h err) s = .next (u.cmdFault h 0x0103 f.pos)) ∧
      (∀ v sh dh, bitOf (natAt (cmdWords f) 1) 3 = false → geoOk src dst g = true → u.firstBytes q.inst (some src) dst = (v, .ok (sh, dh)) →
        (sh = true → dh = true → exec (.copy h err) s = .next (v.cmdFault h 0x0103 f.pos)) ∧
        ((sh && dh) = false → handling src dst g (sh || dh) 262144 = .unsafe_ →
          exec (.copy h err) s = .next (v.countUnsafe.queueFault h 0x0203 f.pos 2 0 0)) ∧
        (∀ w p, (sh && dh) = false → handling src dst g (sh || dh) 262144 ≠ .unsafe_ →
          v.planCopy q.inst v.nextId src dst g (handling src dst g (sh || dh) 262144) = (w, p) →
          exec (.copy h err) s = .next (w.startMover h q f (cmdWords f) dh false p (handling src dst g (sh || dh) 262144)))))) ∧
  (∀ s h q f v sh dh, mayBegin s h 0x13 q f → (bitOf (natAt (cmdWords f) 1) 2 = false ∨ hSync (wordAt (cmdWords f) 0) = true ∨ s.asyncCount h < 4) →
    geoOk 0 (s.opAddr q 0x13 (cmdWords f) 0) (fillGeo (cmdWords f)) = true → s.firstBytes q.inst none (s.opAddr q 0x13 (cmdWords f) 0) = (v, .ok (sh, dh)) →
    exec (.fill h) s = .next (v.startMover h q f (cmdWords f) dh false (fillPlan (s.opAddr q 0x13 (cmdWords f) 0)
      (2 ^ bitsOf (natAt (cmdWords f) 1) 4 2) (nat64At (cmdWords f) 4) (fillGeo (cmdWords f))) .forward)) ∧
  (∀ s id m, s.mover id = some m → m.chain = false → (∃ v n, s.moverMove m m.todo.length = (v, n, none) ∧ n.todo = [] ∧ n.hostRows = [] ∧ n.stop = none ∧
    exec (.bmvCopyComplete id) s = .next (v.moverDone n)) ∨ (∃ v n x, s.moverMove m m.todo.length = (v, n, some x) ∧
    exec (.bmvCopyComplete id) s = .next (v.moverStop n x true)) ∨ (∃ v n, s.moverMove m m.todo.length = (v, n, none) ∧
    (n.todo ≠ [] ∨ n.hostRows ≠ []) ∧ exec (.bmvCopyComplete id) s = .next v) ∨ (∃ v n x, s.moverMove m m.todo.length = (v, n, none) ∧
    n.todo = [] ∧ n.hostRows = [] ∧ n.stop = some x ∧ exec (.bmvCopyComplete id) s = .next (v.moverStop n x false))) ∧
  (∀ s id err u m v n, s.mover id = some m → m.chain = true → u = s.eccFind err false → u.mover id = some m →
    u.moverMove m m.todo.length = (v, n, none) → n.todo = [] → n.hostRows = [] → n.stop = none →
    (n.next = 0 → exec (.bmvDescriptorComplete id err) s = .next (v.moverDone n)) ∧
    (n.next ≠ 0 → exec (.bmvDescriptorComplete id err) s = .next (v.chainNext n))) ∧
  (∀ s h q f op kd val wk c, (op, kd, val, wk, c) ∈ [(0x20, HubKind.add, natAt (cmdWords f) 2, Work.sync, Instr.signal h),
      (0x22, .arrive, 1, .sync, .arrive h), (0x21, (match bitsOf (natAt (cmdWords f) 1) 16 2 with | 0 => .waitGe | 1 => .waitGen | _ => .waitGeConsume),
        natAt (cmdWords f) 2, .wait, .wait h)] → mayBegin s h op q f →
    (s.syncIndex q.inst (bitsOf (natAt (cmdWords f) 1) 0 14) = none → exec c s = .next (s.cmdFault h 0x0103 f.pos)) ∧
    (∀ i, s.syncIndex q.inst (bitsOf (natAt (cmdWords f) 1) 0 14) = some i →
      (opFits (s.obj i) kd val = false → exec c s = .next (s.cmdFault h 0x0103 f.pos)) ∧
      (opFits (s.obj i) kd val = true → q.frames = [] → ∃ t, exec c s = .next t ∧ t.sync.fifo = s.sync.fifo ++
        [{ port := 0, who := .queue h s.nextId, inst := q.inst, kind := kd, id := bitsOf (natAt (cmdWords f) 1) 0 14, val := val, spin := false }] ∧
        (t.queue h).head = q.head + 1 ∧ (∃ x ∈ t.cmds, x.id = s.nextId ∧ x.hwq = h ∧ x.blocking = true ∧ x.work = wk) ∧ t.sync.objs = s.sync.objs ∧
        SameMem s t)))

/-! ### Scheduling (10 and 11) -/

/-- Timeouts, dispatch and slices (R432, R449, R450, R482, R484 to R493, R519): an expired timeout ends a waiting command, drains a launch or stops a
copy; a ready launch whose group still fits takes its clusters; a launch that has ended completes; a slice counts and, where others wait, asks to yield. -/
def Obligations.LaunchesAreDispatchedAndTimedOut : Prop :=
  (∀ s id n c, s.cmd id = some c →
    (∀ i l, c.work = .launch i → tblFind i s.launches = some l → (l.drain = false →
      exec (.commandTimeoutExpiry id n) s = .next ((s.noteTimeout c.hwq c.op).drainLaunch i)) ∧ (l.drain = true → exec (.commandTimeoutExpiry id n) s = .next s)) ∧
    ((c.work = .wait ∨ (∃ b a v, c.work = .beacon b a v) ∨ (∃ ws, c.work = .earlier ws)) → ∃ t, exec (.commandTimeoutExpiry id n) s = .next t ∧
      t = (s.noteTimeout c.hwq c.op).timeoutEnd c ∧ ((s.queue c.hwq).st = .running → (t.queue c.hwq).st = .faulted ∧ (t.queue c.hwq).faultCode = 0x0104)) ∧
    (∀ m u v, c.work = .copy m → u = (s.noteTimeout c.hwq c.op).moverPartly m n → u.mover m = some v → exec (.commandTimeoutExpiry id n) s =
      .next (u.moverFault v fun s p kind => s.queueFault c.hwq 0x0104 p kind (moverDetail v) (moverDetail v)))) ∧
  (∀ s i l, tblFind i s.launches = some l → (l.drain = false → exec (.drainGraceExpiry i) s = .next s) ∧ (l.drain = true → ∃ u : State, u = { s with regs := u.regs } ∧
    exec (.drainGraceExpiry i) s = .next (((maskList l.mask).foldl (fun s n => s.dropCtx i n) u).drained i).kick)) ∧
  (∀ s i err l f u, tblFind i s.launches = some l → s.canDispatch l = true → s.nextInRound l = true → s.frontCmd l.hwq = some f → u = s.eccFind err false →
    (u.grpOk l.inst (u.readyGroup l) = false → exec (.launchDispatch i err) s = .next ((u.withdraw i).cmdFault l.hwq 0x0102 f.pos)) ∧
    (u.grpOk l.inst (u.readyGroup l) = true → ∃ v m, exec (.launchDispatch i err) s =
      .next ((State.placeCtxs v i l.gran (u.grpMask (u.readyGroup l))).takeSnapshot i m) ∧ m.dispatched = true ∧ m.hwq = l.hwq ∧ m.grp = u.readyGroup l ∧
      m.mask = u.grpMask (u.readyGroup l) ∧ m.band = (u.effBand l).1 ∧ m.res = (u.effBand l).2 ∧ m.gtime = u.ck.gtime ∧ m.cmd = u.nextId)) ∧
  (∀ s i err l, tblFind i s.launches = some l → (s.canDispatch l = false ∨ s.nextInRound l = false) → exec (.launchDispatch i err) s = .next s) ∧
  (∀ s i l, tblFind i s.launches = some l → l.dispatched = true → (∀ x ∈ s.ctxs, x.1 / 16 ≠ i) → s.sync.fifo = [] → ∃ t,
    exec (.launchComplete i) s = .next t ∧ tblFind i t.launches = none ∧
    (∀ c, s.cmd l.cmd = some c → t = ({ s with launches := tblErase i s.launches } : State).complete c)) ∧
  (∀ s i l, tblFind i s.launches = some l → (∃ x ∈ s.ctxs, x.1 / 16 = i ∧ (x.2.st = .running ∨ x.2.st = .spinning)) →
    (s.sliceWanted i l = false → ∃ t, exec (.sliceExpiry i) s = .next t ∧ (∀ n c, n ∈ maskList l.mask → s.ctx i n = some c →
      t.ctx i n = some { c with full := min 2 (c.full + 1) }) ∧ (∀ k, (∀ n ∈ maskList l.mask, k ≠ ctxKey i n) → tblFind k t.ctxs = tblFind k s.ctxs) ∧
      t.queues = s.queues ∧ SameMem s t) ∧
    (∀ n c, s.sliceWanted i l = true → maskList l.mask = [n] → s.ctx i n = some c → (c.st = .running ∨ c.st = .spinning) →
      exec (.sliceExpiry i) s = .next ((s.setCtx (ctxKey i n) { c with full := min 2 (c.full + 1), held := true }).askYield i n
        { c with full := min 2 (c.full + 1), held := true })))

/-- Swapping and stopping contexts (R317, R494 to R498, R503, R504, R563, R590): a context's image is checked, written to its save area and its slot freed, and read back into a
slot; past its yield limit a context is saved by force and one that spins becomes a park; an engine that runs too long into a forced save kills the launch. -/
def Obligations.ContextsSwapAndStop : Prop :=
  (∀ s i n l, tblFind i s.launches = some l →
    (∀ c u gs, l.dispatched = true → s.ctx i n = some c → (s.inst l.inst).st = .quiescing → s.mayRun i = false → (c.st = .ready ∨ c.st = .parked) →
      enginesIdle c = true → s.imageSegs i n l c true = (u, some gs) → exec (.swapOutStart i n) s =
        .next ((u.count 0x13120).setCtx (ctxKey i n) { c with st := .swappingOut })) ∧
    (∀ j c, l.dispatched = false → s.isReady l = true → bitOf (s.readyMask l).toNat n = true → s.fits n l.gran = false →
      (∀ x ∈ s.resident n, x.2.st ≠ .swappingOut) → s.pickVictim n (s.effBand l).1 = some (j, c) → exec (.swapOutStart i n) s = .next (s.swapOut j n c)) ∧
    (∀ c u gs, s.ctx i n = some c → c.st = .swappingOut → s.imageSegs i n l c true = (u, some gs) → exec (.swapOutComplete i n) s =
      .next ((((u.segWrite l.inst false gs (u.imageBytes c)).bumpFree.setCtx (ctxKey i n) { c with st := .swappedOut }).leaveSlot n c.slot).kick)) ∧
    (∀ c u gs, s.ctx i n = some c → c.st = .swappedOut → s.ctxWaits i n = false → s.fits n c.gran = true → s.bandWaits n (s.bandOf i) = false →
      s.mayRun i = true → l.drain = false → s.imageSegs i n l c false = (u, some gs) → ∃ t, exec (.swapIn i n) s = .next t ∧
      t.ctx i n = some { c with st := .swappingIn, slot := u.freeSlot n } ∧ t.queues = s.queues ∧ SameMem s t) ∧
    (∀ err c u gs, s.ctx i n = some c → c.st = .swappingIn → (s.eccFind err false).imageSegs i n l c false = (u, some gs) → u.segPoison gs = none → ∃ d : Ctx,
      exec (.swapInComplete i n err) s = .next ((u.setCtx (ctxKey i n) d).tick.able n i) ∧ d.st = .ready ∧ d.slot = c.slot ∧ d.ports = c.ports ∧
      d.sp = putBytes 0 (((u.segBytes gs).drop 0x100000).map some) [] ∧ d.xregs = c.xregs ∧ d.full = 0)) ∧
  (∀ s i n c, s.ctx i n = some c →
    (c.yieldReq = true → c.forced = false → (c.st = .running ∨ c.st = .ending) → exec (.yieldLimitExpiry i n) s =
      .next (((s.count 0x15114).setCtx (ctxKey i n) { c with forced := true }).tryStop i n)) ∧
    (c.yieldReq = true → c.forced = false → c.st = .spinning → exec (.yieldLimitExpiry i n) s =
      .next (((s.count 0x15114).yieldGap c).leaveRun i n { c with st := .parked, yieldReq := false })) ∧
    ((c.yieldReq = false ∨ c.forced = true) → exec (.yieldLimitExpiry i n) s = .next s) ∧
    (c.forced = true → enginesIdle c = false → exec (.forcedSaveOverdue i n) s =
      .next ((((s.count 0x15118).cause 0x15000 9).launchFault i 0x0502 (engineMask c + 2 ^ 8 * n) (yardBase n)).kick)) ∧
    ((c.forced = false ∨ enginesIdle c = true) → exec (.forcedSaveOverdue i n) s = .next s) ∧
    (c.st = .spinning → ∃ u : State, u = { s with regs := u.regs } ∧
      exec (.spinToPark i n) s = .next (u.leaveRun i n { c with st := .parked, yieldReq := false })) ∧
    (c.st ≠ .spinning → exec (.spinToPark i n) s = .next s))

/-- Beacons and reservations (R505 to R512, R515): a Beacon ticks when a tick is due and not before; one whose head gives no vertical blank loses its
lock; a reservation that has used its budget is marked exhausted once and its spins become parks. -/
def Obligations.BeaconsTickAndBudgetsExhaust : Prop :=
  (∀ s b vb, (s.idealTick b vb = none → exec (.beaconTick b vb) s = .next s) ∧
    (∀ x, s.idealTick b vb = some x → (s.tickDue (s.beacon b) x = false → exec (.beaconTick b vb) s = .next s) ∧
      (s.tickDue (s.beacon b) x = true → exec (.beaconTick b vb) s = .next ((s.relock b vb).tickBeacon b x)))) ∧
  (∀ (s : State) b x, (s.beacon b).cfg.src = 3 → s.idealTick b false = some x → x ≤ s.ck.gtime.toNat ∧ s.bcnOffset b ≤ x ∧
    (x - s.bcnOffset b) % (s.beacon b).cfg.period = 0 ∧ s.ck.gtime.toNat < x + (s.beacon b).cfg.period) ∧
  (∀ (s : State) b x, (s.beacon b).ticked = true → s.tickDue (s.beacon b) x = true → x ≤ s.ck.gtime.toNat ∧
    (s.beacon b).cfg.period ≤ 2 * (x - (s.beacon b).lastTick.toNat)) ∧
  (∀ s b, ((s.beacon b).cfg.src = 1 ∨ (s.beacon b).cfg.src = 2) → (s.beacon b).lockLost = false → ∃ t, exec (.beaconLockLoss b) s = .next t ∧
    t.beacon b = { s.beacon b with locked := false, lockLost := true } ∧ (∀ j, j ≠ b → t.beacon j = s.beacon j) ∧ t.resvs = s.resvs ∧ SameMem s t) ∧
  (∀ s b, ((s.beacon b).cfg.src ∉ [1, 2] ∨ (s.beacon b).lockLost = true) → exec (.beaconLockLoss b) s = .next s) ∧
  (∀ s r, (s.resv r).valid = true → (s.resv r).exhaust = false → (s.resv r).budget ≤ (s.resv r).charged → ∃ u : State,
    u = s.setResv r { s.resv r with exhaust := true, exhausted := min ((s.resv r).exhausted + 1) 0xFFFF } ∧ u.resv r =
      { s.resv r with exhaust := true, exhausted := min ((s.resv r).exhausted + 1) 0xFFFF } ∧
    exec (.budgetExhausted r) s = .next ((u.ctxs.filter fun (k, c) =>
      c.st == .spinning && (match tblFind (k / 16) u.launches with | some l => l.res == some r | none => false)).foldl
        (fun s (k, c) => (s.countField 0x180134 0 16 1).leaveRun (k / 16) (k % 16) { c with st := .parked, yieldReq := false }) u)) ∧
  (∀ s r, ((s.resv r).valid = false ∨ (s.resv r).exhaust = true ∨ (s.resv r).charged < (s.resv r).budget) → exec (.budgetExhausted r) s = .next s)

/-! ### Sync objects (12) -/

/-- The hub (R535, R543 to R551, R555, R566): it takes the oldest operation of a port, in order; adds, consumes and arrivals change their object's value
and release the waiters it satisfies; a wait that is not satisfied is kept; misuse is refused; past the limit of a wait its waiters fault. -/
def Obligations.HubAppliesTheOldestOperation : Prop :=
  (∀ s p kd c, (kd, c) ∈ [(HubKind.arrive, Instr.hubArrive p), (.add, .hubSignalAdd p), (.consume, .hubConsume p), (.waitGe, .hubWaitGe p),
      (.waitGen, .hubWaitGen p), (.waitGeConsume, .hubWaitGeConsume p)] →
    (s.portHead p = none → exec c s = .next s) ∧ (∀ op, s.portHead p = some op → op.kind ≠ kd → exec c s = .next s) ∧
    (∀ op u, s.portHead p = some op → op.kind = kd → u = { s with sync := { s.sync with fifo := s.sync.fifo.erase op } } → u.target op = none →
      exec c s = .next (u.misuse op.who op.id))) ∧
  (∀ s p op u i, s.portHead p = some op → u = { s with sync := { s.sync with fifo := s.sync.fifo.erase op } } → u.target op = some i →
    (op.kind = .arrive → (u.obj i).value + 1 < (u.obj i).limit →
      exec (.hubArrive p) s = .next ((u.setObj i { u.obj i with value := (u.obj i).value + 1 }).applied op.who op.id)) ∧
    (op.kind = .arrive → (u.obj i).value + 1 = (u.obj i).limit → exec (.hubArrive p) s = .next ((u.releaseBarrier i).1.applied op.who op.id)) ∧
    (op.kind = .add → (u.obj i).value + op.val ≤ (u.obj i).limit → exec (.hubSignalAdd p) s =
      .next (((u.setObj i { u.obj i with value := (u.obj i).value + op.val }).evaluate i).1.applied op.who op.id)) ∧
    (op.kind = .add → (u.obj i).limit < (u.obj i).value + op.val → (u.obj i).cadence = false →
      exec (.hubSignalAdd p) s = .next ((u.syncFault i false op.who).opResult op.who op.id 2)) ∧
    (op.kind = .consume → op.val ≤ (u.obj i).value → exec (.hubConsume p) s =
      .next (((u.setObj i { u.obj i with value := (u.obj i).value - op.val }).evaluate i).1.applied op.who op.id)) ∧
    (op.kind = .consume → (u.obj i).value < op.val → (u.obj i).cadence = false →
      exec (.hubConsume p) s = .next ((u.syncFault i true op.who).opResult op.who op.id 1))) ∧
  (∀ s p op u i kd wk c now, (kd, wk, c) ∈ [(HubKind.waitGe, WaitKind.ge, Instr.hubWaitGe p), (.waitGen, .gen, .hubWaitGen p),
      (.waitGeConsume, .geConsume, .hubWaitGeConsume p)] → s.portHead p = some op → op.kind = kd →
    u = { s with sync := { s.sync with fifo := s.sync.fifo.erase op } } → u.target op = some i →
    now = (satisfied (u.obj i) wk op.val && !(wk == .geConsume && (u.waitersOf i).any (·.kind == .geConsume))) →
    (now = true → ∃ v : State, v = (if wk = .geConsume then u.setObj i { u.obj i with value := (u.obj i).value - op.val } else u) ∧
      (∀ l n e, op.who = .ctx l n e → exec c s =
        .next ((if (u.obj i).notify && (u.obj i).type == 2 then v.notify i else v).wakeCtx l n)) ∧
      (∀ h x, op.who = .queue h x → exec c s =
        .next ((if (u.obj i).notify && (u.obj i).type == 2 then v.notify i else v).applied op.who op.id))) ∧
    (now = false → ∃ v : State, v = { u with sync := { u.sync with waiters := u.sync.waiters ++ [⟨op.who, i, wk, op.val⟩] } } ∧
      (∀ l n e, op.who = .ctx l n e → exec c s = .next (v.parkCtx l n op.spin)) ∧
      (∀ h x, op.who = .queue h x → exec c s = .next (v.setQueue h { v.queue h with waiting := true })))) ∧
  (∀ (s : State) i o, s.obj i = o → s.waitersOf i = [] → o.type ≠ 1 → ((s.evaluate i).1.obj i) = o ∧ (s.evaluate i).2 = 0) ∧
  (∀ s i, (s.waitersOf i = [] ∨ (s.inst (s.syncOwner i)).st ≠ .active) → exec (.waitWatchdogExpiry i) s = .next s) ∧
  (∀ s i w l n b, s.waitersOf i = [w] → w.who = .ctx l n b → (s.inst (s.syncOwner i)).st = .active → ∃ u : State,
    u.launches = s.launches ∧ u.queues = s.queues ∧ u.ctxs = s.ctxs ∧ exec (.waitWatchdogExpiry i) s = .next (u.launchFault l 0x0303 (s.syncDetail i) 0x180000)) ∧
  (∀ s i w h c cm, s.waitersOf i = [w] → w.who = .queue h c → s.cmd c = some cm → (s.queue h).st = .running → (s.inst (s.syncOwner i)).st = .active → ∃ t,
    exec (.waitWatchdogExpiry i) s = .next t ∧ (t.queue h).st = .faulted ∧ (t.queue h).faultCode = 0x0303)

/-- Operations on sync objects from the host and from programs (R306, R308, R573, R585, R602): a well-formed word sends its operation to the hub through its own port; one
that is not is refused (host) or traps (program); a status read waits for the operations before it. -/
def Obligations.HostAndProgramsReachTheHub : Prop :=
  (∀ ag v s l r op kd c, (op, kd, c) ∈ [(0, HubKind.add, Instr.svOpSignalAdd ag v), (1, .consume, .svOpConsume ag v), (2, .arrive, .svOpArrive ag v)] →
    s.gate ag (winOff ag 0x4118) true = .go l → l.pg = .syncView → l.off = 0x118 → l.row = some (r, 0) → r.wide = true → (r.acc = .rw ∨ r.acc = .wo) →
    s.rowLocked l r = false → s.rowHeld l r = false → l.expert = false → (s.inst l.unit).st ≠ .shadowed → bitsOf v.toNat 16 2 = op →
    ((if op = 2 then bitsOf v.toNat 32 32 = 0 else bitsOf v.toNat 32 32 ≠ 0) → ∃ t, exec c s = .next t ∧ t.sync.fifo = s.sync.fifo ++
      [{ port := 17, who := .host l.unit, inst := l.unit, kind := kd, id := bitsOf v.toNat 0 14, val := if op = 2 then 1 else bitsOf v.toNat 32 32
         spin := false }] ∧ t.sync.objs = s.sync.objs ∧ t.queues = s.queues ∧ SameMem s t) ∧
    ((if op = 2 then bitsOf v.toNat 32 32 ≠ 0 else bitsOf v.toNat 32 32 = 0) → ∃ u : State, u = { s with lowWord := u.lowWord } ∧
      exec c s = .next (u.rsvdValue (svBase l.unit + 0x118) (svBase l.unit) 0 ag))) ∧
  (∀ ag s, ((∃ o ∈ s.sync.fifo, o.who = .host (hostFn ag)) → exec (.svOpStatusRead ag) s = .next s) ∧
    ((∀ o ∈ s.sync.fifo, o.who ≠ .host (hostFn ag)) → exec (.svOpStatusRead ag) s = .next (s.regRead ag (winOff ag 0x4120) false true))) ∧
  (∀ s i n word pc l x op kd c, s.ccc i n = some (l, x) → (op, kd, c) ∈ [(0, HubKind.add, Instr.cccSyncOpSignalAdd i n word pc),
      (1, .consume, .cccSyncOpConsume i n word pc), (2, .arrive, .cccSyncOpArrive i n word pc)] →
    (bitsOf word.toNat 16 2 = op → bitsOf word.toNat 14 2 = 0 → bitsOf word.toNat 18 14 = 0 →
      (if op = 2 then bitsOf word.toNat 32 32 = 0 else bitsOf word.toNat 32 32 ≠ 0) → ∃ t, exec c s = .next t ∧ t.sync.fifo = s.sync.fifo ++
      [{ port := 1 + n, who := .ctx i n none, inst := s.launchInst i, kind := kd, id := bitsOf word.toNat 0 14
         val := if op = 2 then 1 else bitsOf word.toNat 32 32, spin := false }] ∧ t.ctxs = s.ctxs ∧ SameMem s t) ∧
    (bitsOf word.toNat 16 2 = op → (bitsOf word.toNat 14 2 ≠ 0 ∨ bitsOf word.toNat 18 14 ≠ 0 ∨
      (if op = 2 then bitsOf word.toNat 32 32 ≠ 0 else bitsOf word.toNat 32 32 = 0)) →
      exec c s = .next (s.yardTrap i n 10 (bitsOf word.toNat 0 14) 0 pc).kick)) ∧
  (∀ s i n word pc l x kd kind c, s.ccc i n = some (l, x) → (kd, kind, c) ∈ [(0, HubKind.waitGe, Instr.cccSyncWaitGe i n word pc),
      (1, .waitGen, .cccSyncWaitGen i n word pc), (2, .waitGeConsume, .cccSyncWaitGeConsume i n word pc)] →
    (bitsOf word.toNat 16 2 = kd → bitsOf word.toNat 14 2 = 0 → bitsOf word.toNat 18 2 = 0 → bitsOf word.toNat 21 11 = 0 → ∃ t, exec c s = .next t ∧
      t.sync.fifo = s.sync.fifo ++ [{ port := 1 + n, who := .ctx i n none, inst := s.launchInst i, kind := kind, id := bitsOf word.toNat 0 14
                                      val := bitsOf word.toNat 32 32, spin := bitOf word.toNat 20 }] ∧ t.ctxs = s.ctxs ∧ SameMem s t) ∧
    (bitsOf word.toNat 16 2 = kd → (bitsOf word.toNat 14 2 ≠ 0 ∨ bitsOf word.toNat 18 2 ≠ 0 ∨ bitsOf word.toNat 21 11 ≠ 0) →
      exec c s = .next (s.yardTrap i n 10 (bitsOf word.toNat 0 14) 0 pc).kick)) ∧
  (∀ s i n l x, s.ccc i n = some (l, x) →
    ((∃ o ∈ s.sync.fifo, o.who = .ctx i n none) → exec (.cccSyncStatusRead i n) s = .next s) ∧
    ((∀ o ∈ s.sync.fifo, o.who ≠ .ctx i n none) → exec (.cccSyncStatusRead i n) s = .next (s.answer (leBytes 4 (x.syncRes + 2 ^ 16 * (x.syncId % 2 ^ 14))) 0)))

/-! ### The Yards and their engines (13) -/

/-- Programs on the Yards (R594, R597 to R605, R610, R625 to R629): a context enters once its image passes its checks; items follow one another; pushes, local events, yields,
traps and exceptions have their effect; engines begin descriptors in order, send their operations and count what they complete. -/
def Obligations.YardProgramsRunTheirItems : Prop :=
  (∀ s i n l c err u d, tblFind i s.launches = some l → s.ctx i n = some c → c.st = .running → c.entered = false → l.snapNeed = [] →
    ((s.eccFind err false).dropL1 n l.inst).readImage i n l 0 256 = (u, some d) →
    (∀ o, headerFault d = some o → exec (.yardContextEnter i n err) s = .next (u.yardTrap i n 1 o 0 0).kick) ∧
    (∀ v res w yld, headerFault d = none → u.readImage i n l (hdrAt d 0x20 4) (16 * hdrAt d 0x24 4) = (v, some res) →
      v.readImage i n l (hdrAt d 0x28 4) (8 * hdrAt d 0x2C 4) = (w, some yld) →
      (∀ x, imageFault l d res yld = some x → exec (.yardContextEnter i n err) s = .next (w.yardTrap i n x.1 x.2.1 x.2.2 0).kick) ∧
      (imageFault l d res yld = none → ∃ t, ∃ x : Ctx, exec (.yardContextEnter i n err) s = .next t ∧ t.ctx i n = some x ∧ x.entered = true ∧
        (c.item < itemCount l → x.st = .running ∧ x.pc = 0x20000000 + BitVec.ofNat 32 (hdrAt d 0xC 4)) ∧ (itemCount l ≤ c.item → x.st = .ending) ∧
        t.queues = w.queues ∧ SameMem w t))) ∧
  (∀ s i n l c, s.ccc i n = some (l, c) →
    (∀ a0 pc, a0 ≠ 0 → exec (.itemReturn i n a0 pc) s = .next (s.yardTrap i n 12 a0.toNat 0 pc).kick) ∧
    (∀ pc, c.item + (maskList l.mask).length < itemCount l → ∃ x : Ctx, exec (.itemReturn i n 0 pc) s =
      .next ((s.bumpFree.setCtx (ctxKey i n) x).tryStop i n) ∧ x.item = c.item + (maskList l.mask).length ∧ x.atYield = c.yieldReq ∧ x.st = .running ∧
      x.ports = c.ports ∧ x.sp = c.sp) ∧
    (∀ pc, itemCount l ≤ c.item + (maskList l.mask).length → exec (.itemReturn i n 0 pc) s =
      .next (s.setCtx (ctxKey i n) { c with item := c.item + (maskList l.mask).length, st := .ending })) ∧
    (∀ e ws pc, e < 6 → e < c.ports.length → (portOf c e).fifo.length < 32 → ∃ t, ∃ x : Ctx, exec (.push i n e ws pc) s = .next t ∧ t.ctx i n = some x ∧
      (portOf x e).fifo = (portOf c e).fifo ++ [{ ws := (ws ++ List.replicate 16 0).take 16, seq := s.nextId, pc := pc }] ∧
      (portOf x e).stage = (ws ++ List.replicate 16 0).take 16 ∧ (∀ j, j ≠ e → portOf x j = portOf c j) ∧ x.stall = c.stall ∧ SameMem s t) ∧
    (∀ e ws pc, e < 6 → e < c.ports.length → 32 ≤ (portOf c e).fifo.length → ∃ t, ∃ x : Ctx, exec (.push i n e ws pc) s = .next t ∧ t.ctx i n = some x ∧
      x.stall = some (e, { ws := (ws ++ List.replicate 16 0).take 16, seq := s.nextId, pc := pc }) ∧ (portOf x e).fifo = (portOf c e).fifo) ∧
    (∀ e v pc, e < 6 → (∀ u, s.nextDesc i n l c (v % 2 ^ 16) = (u, some none) → exec (.pushTable i n e v pc) s =
        .next (u.yardTrap i n 9 (v % 2 ^ 16) 0 pc).kick) ∧
      (∀ u ws x, s.nextDesc i n l c (v % 2 ^ 16) = (u, some (some ws)) → portTakes e (dClass ws) = true → u.ctx i n = some x →
        exec (.pushTable i n e v pc) s = .next (u.enqueue i n e x ws pc))) ∧
    (∀ k v, exec (.levAdd i n k v) s = .next (s.setCtx (ctxKey i n) { c with levs := c.levs.set k (c.levs.getD k 0 + BitVec.ofNat 16 v) })) ∧
    (∀ idx pc u d, s.readImage i n l (natAt l.header 10) (8 * natAt l.header 11) = (u, some d) →
      ((∀ j, j < natAt l.header 11 → ¬ (hdrAt d (8 * j) 4 = pc ∧ hdrAt d (8 * j + 4) 2 = idx)) → exec (.yield i n idx pc) s =
        .next (u.yardTrap i n 11 idx 0 pc).kick) ∧
      (∀ j x, j < natAt l.header 11 → hdrAt d (8 * j) 4 = pc → hdrAt d (8 * j + 4) 2 = idx → u.ctx i n = some x →
        (x.yieldReq = true → exec (.yield i n idx pc) s = .next ((u.setCtx (ctxKey i n) { x with atYield := true }).tryStop i n)) ∧
        (x.yieldReq = false → exec (.yield i n idx pc) s = .next u))) ∧
    (∀ v pc, exec (.trap i n v pc) s = .next (s.yardTrap i n 12 v 0 pc).kick) ∧
    (∀ mcause mtval pc, (mcause = 1 ∨ mcause = 5 ∨ mcause = 7) → mtval < 0x1000000 →
      exec (.cccException i n mcause mtval pc) s = .next (s.yardTrap i n 8 0 mtval pc).kick) ∧
    (∀ mcause mtval pc, (mcause ∉ [1, 5, 7] ∨ 0x1000000 ≤ mtval) →
      exec (.cccException i n mcause mtval pc) s = .next (s.yardTrap i n 5 mcause mtval pc).kick)) ∧
  (∀ s i n l c, tblFind i s.launches = some l → s.ctx i n = some c → c.entered = true → itemCount l ≤ c.item → (c.st = .ending ∨ c.st = .running) →
    portsIdle c = true → exec (.contextEnd i n) s = .next (s.endCtx i n)) ∧
  (∀ s i n e op kd cm r c d u, (op, kd, cm) ∈ [(0, HubKind.arrive, Instr.descArrive i n e), (1, .add, .descSignal i n e), (2, .consume, .descConsume i n e)] →
    s.canBegin i n e 3 op = some (r, c, d) → badClass e d.ws = false → u = s.setCtx (ctxKey i n) (unstall (setPortOf c e (beginPort (portOf c e) d))) →
    (∀ w, reservedWord d.ws [0x1FFF3, 0xFFFFFFFF, 0x3FFF, 0xFFFFFFFF] = some w → exec cm s = .next (u.trapDesc r d.pc (6, w, 0))) ∧
    (reservedWord d.ws [0x1FFF3, 0xFFFFFFFF, 0x3FFF, 0xFFFFFFFF] = none → (if op = 0 then natAt d.ws 3 = 0 else natAt d.ws 3 ≠ 0) → ∃ t,
      exec cm s = .next t ∧ t.sync.fifo = s.sync.fifo ++ [{ port := 1 + n, who := .ctx i n (some e), inst := u.launchInst i, kind := kd, id := natAt d.ws 2
                                                            val := if op = 0 then 1 else natAt d.ws 3, spin := false }] ∧ t.ctxs = u.ctxs ∧ SameMem s t)) ∧
  (∀ s i n e r c d, s.canBegin i n e 3 3 = some (r, c, d) → badClass e d.ws = false → reservedWord d.ws [0x1FFF3, 0xFFFFFFFF, 0, 0, 0x3F] = none →
    exec (.descFence i n e) s = .next (s.setCtx (ctxKey i n) (unstall (setPortOf c e (beginPort (portOf c e) d))))) ∧
  (∀ s i n e l c d, tblFind i s.launches = some l → s.ctx i n = some c → (portOf c e).run = some d → e < c.ports.length →
    (dClass d.ws = 3 → dOp d.ws ≠ 3 → s.opApplied i n e = false → exec (.descriptorComplete i n e) s = .next s) ∧
    (dClass d.ws = 3 → dOp d.ws = 3 → fenceMet (setPortOf c e { portOf c e with run := none }) d = false → exec (.descriptorComplete i n e) s = .next s) ∧
    (dClass d.ws ≠ 3 → bitOf (natAt d.ws 0) 8 = false → ∃ u : State, ∃ x : Ctx, exec (.descriptorComplete i n e) s = .next (u.tryStop i n) ∧
      u.ctx i n = some x ∧ (portOf x e).run = none ∧ (portOf x e).doneCount = (portOf c e).doneCount + 1 ∧ (portOf x e).chain = false ∧
      (∀ j, j ≠ e → portOf x j = portOf c j) ∧ (bitOf (natAt d.ws 0) 9 = false → x.levs = c.levs) ∧
      (bitOf (natAt d.ws 0) 9 = true → x.levs = c.levs.set (bitsOf (natAt d.ws 0) 10 3) (c.levs.getD (bitsOf (natAt d.ws 0) 10 3) 0 + 1))))

/-- Engine descriptors (R607 to R623): one an engine may not take traps; a dense MATMUL writes its products; the convolution forms write one row for each line of their
output; vector operations write the rows of their function; moves copy their pieces, and an overlap that cannot be handled stops the launch. -/
def Obligations.EnginesWriteTheResultsOfTheirDescriptors : Prop :=
  (∀ s u i n e err cls op cm r c d, u = s.eccFind err false → (cls, op, cm) ∈ [(0, 0, Instr.matmul i n e err), (0, 1, .conv2d i n e err), (0, 2, .dwconv i n e err),
      (0, 3, .pool i n e err), (1, 0, .eltwise i n e err), (1, 1, .reduce i n e err), (1, 2, .quant i n e err), (1, 3, .transform i n e err),
      (1, 4, .gather i n e err), (2, 0, .move i n e err), (2, 1, .move2d i n e err), (2, 2, .move4d i n e err)] →
    (u.canBegin i n e cls op = none → exec cm s = .next u) ∧
    (u.canBegin i n e cls op = some (r, c, d) → badClass e d.ws = true →
      exec cm s = .next ((u.setCtx (ctxKey i n) (unstall (setPortOf c e (beginPort (portOf c e) d)))).yardTrap i n 6 0 0 d.pc).kick)) ∧
  (∀ s u0 u i n e err r c d t m nn k af sp pa pb pc v w x la lb, u0 = s.eccFind err false → u0.canBegin i n e 0 0 = some (r, c, d) → badClass e d.ws = false →
    u = u0.setCtx (ctxKey i n) (unstall (setPortOf c e (beginPort (portOf c e) d))) →
    reservedWord d.ws [0x1FFF3, 0xFFFFFFFF, 0xF777, 0xFFFFFFFF, 0xFFFF, 0xFFFFFFFF, 0xFFFFFFFF, 0xFFFFFFFF, 0xFFFFFFFF, 0xFFFFFFFF, 0xFFFFFFFF,
      0xFFFFFFFF, 0xFFFFFFFF, 0xFFFFFFFF, 0xFFFFFFFF] = none → t = teW d.ws → t.acc = false → t.sparse = false → t.out ≠ 3 → teCombo t.a t.b = some (af, sp) →
    m = bitsOf (natAt d.ws 3) 0 16 → nn = bitsOf (natAt d.ws 3) 16 16 → k = natAt d.ws 4 → 1 ≤ m → 1 ≤ nn → 1 ≤ k →
    placeOf r c d.ws 5 (span m (natAt d.ws 11) (rowBytes t.a k)) true = .ok pa →
    placeOf r c d.ws 7 (span k (natAt d.ws 12) (rowBytes t.b nn)) true = .ok pb →
    placeOf r c d.ws 9 (span m (natAt d.ws 13) (rowBytes t.out nn)) false = .ok pc →
    State.firstAll r [(5, pa, false), (7, pb, false), (9, pc, true)] u = (v, none) →
    State.readRows r 5 pa (rowBytes t.a k) (rowsAt m (natAt d.ws 11)) v [] = (w, .ok la) →
    State.readRows r 7 pb (rowBytes t.b nn) (rowsAt k (natAt d.ws 12)) w [] = (x, .ok lb) →
    exec (.matmul i n e err) s = .next (x.putResult r d 9 pc ((List.range m).map fun y => (y * natAt d.ws 13, packRow t.out 0 ((List.range nn).map fun j =>
      teOut t af (decodeNum 7 (natAt d.ws 14)) (x.freeAt (y * nn + j)) (accumulate af (x.freeAt (y * nn + j)) ((List.range k).map fun q =>
        (elemAt t.a (la.getD y []) q).mul (elemAt t.b (lb.getD q []) j)))))) 20 (m * nn * k))) ∧
  (∀ s u0 u i n e err op cm r c d t g oF pi pw po v w x img wt wLen, u0 = s.eccFind err false →
    (op, cm) ∈ [(1, Instr.conv2d i n e err), (2, .dwconv i n e err)] → u0.canBegin i n e 0 op = some (r, c, d) → badClass e d.ws = false →
    u = u0.setCtx (ctxKey i n) (unstall (setPortOf c e (beginPort (portOf c e) d))) →
    reservedWord d.ws [0x1FFF3, 0xFFFFFFFF, 0xD777, 0xFFFFFFFF, 0xFFFFFFFF, 0xFFFFFFF, 0xFFFFFFFF, 0xFFFFFFFF, 0xFFFFFFFF, 0xFFFFFFFF, 0xFFFFFFFF,
      0xFFFFFFFF, 0xFFFFFFFF, 0xFFFFFFFF, 0xFFFFFFFF, 0xFFFFFFFF] = none → t = teW d.ws → t.acc = false → t.out ≠ 3 → (teCombo t.a t.b).isSome = true →
    g = convOf d.ws → (op = 1 ∨ g.cout = g.cin) → oF = t.out →
    wLen = rowBytes t.b (if op = 2 ∧ Config.dwDense = false then g.kh * g.kw * g.cin else g.kh * g.kw * g.cin * g.cout) →
    placeOf r c d.ws 7 (span g.inH (natAt d.ws 13) (rowBytes t.a (g.inW * g.cin))) true = .ok pi → placeOf r c d.ws 9 wLen true = .ok pw →
    placeOf r c d.ws 11 (span g.outH (natAt d.ws 14) (rowBytes oF (g.outW * g.cout))) false = .ok po →
    State.firstAll r [(7, pi, false), (9, pw, false), (11, po, true)] u = (v, none) →
    State.readRows r 7 pi (rowBytes t.a (g.inW * g.cin)) (rowsAt g.inH (natAt d.ws 13)) v [] = (w, .ok img) → w.readAt r 9 pw wLen = (x, .ok wt) →
    ∃ out : List (Nat × List Byte), exec cm s =
      .next (x.putResult r d 11 po out 20 (g.outH * g.outW * g.cout * g.kh * g.kw * (if op = 1 then g.cin else 1))) ∧
    out.map Prod.fst = (List.range g.outH).map (· * natAt d.ws 14)) ∧
  (∀ s u0 u i n e err r c d t g pi po v w img, u0 = s.eccFind err false → u0.canBegin i n e 0 3 = some (r, c, d) → badClass e d.ws = false →
    u = u0.setCtx (ctxKey i n) (unstall (setPortOf c e (beginPort (portOf c e) d))) →
    reservedWord d.ws [0x1FFF3, 0xFFFFFFFF, 0x1D707, 0xFFFFFFFF, 0xFFFFFFFF, 0xFFFFFFF, 0xFFFFFFFF, 0xFFFFFFFF, 0xFFFFFFFF, 0, 0, 0xFFFFFFFF, 0xFFFFFFFF,
      0xFFFFFFFF, 0xFFFFFFFF, 0xFFFFFFFF] = none → t = teW d.ws → t.acc = false → t.out ≠ 3 → g = convOf d.ws → g.cout = g.cin →
    placeOf r c d.ws 7 (span g.inH (natAt d.ws 13) (rowBytes t.a (g.inW * g.cin))) true = .ok pi →
    placeOf r c d.ws 11 (span g.outH (natAt d.ws 14) (rowBytes t.out (g.outW * g.cout))) false = .ok po →
    State.firstAll r [(7, pi, false), (11, po, true)] u = (v, none) →
    State.readRows r 7 pi (rowBytes t.a (g.inW * g.cin)) (rowsAt g.inH (natAt d.ws 13)) v [] = (w, .ok img) →
    ∃ out : List (Nat × List Byte), exec (.pool i n e err) s = .next (w.putResult r d 11 po out 20 (g.outH * g.outW * g.cout * g.kh * g.kw)) ∧
    out.map Prod.fst = (List.range g.outH).map (· * natAt d.ws 14)) ∧
  (∀ s u0 u i n e err op cm r c d f rr bin p0 p1 pd v w x y l0 l1 old, u0 = s.eccFind err false →
    (op, cm) ∈ [(0, Instr.eltwise i n e err), (1, .reduce i n e err), (2, .quant i n e err), (3, .transform i n e err), (4, .gather i n e err)] →
    u0.canBegin i n e 1 op = some (r, c, d) → badClass e d.ws = false → u = u0.setCtx (ctxKey i n) (unstall (setPortOf c e (beginPort (portOf c e) d))) →
    vuBad op d.ws = none → f = vuOf d.ws → rr = vuRows op f → bin = vuBinary op f.func →
    placeOf r c d.ws 5 (span rr.1.2 (natAt d.ws 11) rr.1.1) true = .ok p0 →
    (bin = true → placeOf r c d.ws 7 (span rr.2.1.2 (natAt d.ws 12) rr.2.1.1) true = .ok p1) →
    placeOf r c d.ws 9 (span rr.2.2.2 (natAt d.ws 13) rr.2.2.1) false = .ok pd →
    State.firstAll r ([(5, p0, false)] ++ (if bin then [(7, p1, false)] else []) ++ [(9, pd, true)]) u = (v, none) →
    State.readRows r 5 p0 rr.1.1 (rowsAt rr.1.2 (natAt d.ws 11)) v [] = (w, .ok l0) →
    (if bin then State.readRows r 7 p1 rr.2.1.1 (rowsAt rr.2.1.2 (natAt d.ws 12)) w [] else (w, .ok [])) = (x, .ok l1) →
    (if vuReadsDst op f.func then State.readRows r 9 pd rr.2.2.1 (rowsAt rr.2.2.2 (natAt d.ws 13)) x [] else (x, .ok [])) = (y, .ok old) →
    ∃ z : State, (op ≠ 4 → z = y) ∧ z.own = y.own ∧ exec cm s =
      .next (z.putResult r d 9 pd ((rowsAt rr.2.2.2 (natAt d.ws 13)).zip (vuOut op f z.freeAt l0 l1 old)) 10 (f.x * f.y * f.z))) ∧
  (∀ s u0 u i n e err op cm r c d g ps pd v hd, u0 = s.eccFind err false → (op, cm) ∈ [(0, Instr.move i n e err), (1, .move2d i n e err), (2, .move4d i n e err)] →
    u0.canBegin i n e 2 op = some (r, c, d) → badClass e d.ws = false → u = u0.setCtx (ctxKey i n) (unstall (setPortOf c e (beginPort (portOf c e) d))) →
    moveBad op d.ws = none → g = moveGeo op d.ws → placeOf r c d.ws 3 (extent g.size0 g.src) true = .ok ps →
    placeOf r c d.ws 5 (extent g.size0 g.dst) false = .ok pd → State.firstAll r [(3, ps, false), (5, pd, true)] u = (v, none) →
    hd = handling (placeAddr ps) (placeAddr pd) g (!sameSpace ps pd) (if v.spUsed n ≤ 10 then 0x100000 else 0) →
    (hd = .unsafe_ → exec cm s = .next (((v.count (engBase n e + 0x114)).count (yardBase n + 0x130)).launchFault i 0x0203 0 (engBase n e)).kick) ∧
    (∀ w x bs, hd = .forward → State.moveRead r ps (movePieces (placeAddr ps) g) v [] = (w, bs, none) → State.writeRows r 5 pd bs w = (x, none) →
      exec cm s = .next (x.countUnits (engBase n e + 0x10C) 10 ((bs.map fun x => x.2.length).sum))) ∧
    (∀ w x bs, hd = .reversed → State.moveRead r ps (movePieces (placeAddr ps) g).reverse (v.countField (engBase n e + 0x110) 16 16 1) [] = (w, bs, none) →
      State.writeRows r 5 pd bs w = (x, none) → exec cm s = .next (x.countUnits (engBase n e + 0x10C) 10 ((bs.map fun x => x.2.length).sum))))

/-! ### Display (15) -/

/-- Heads, ports and capture (R229, R230, R673 to R690, R695 to R698, R706 to R711): enabling starts a head whose mode is legal and disabling stops it; routes, training, AUX
and SDP go through their steps; Prism entries are written where the bank is not in use; captures run from arming to completion. -/
def Obligations.HeadsAndPortsGoThroughTheirSteps : Prop :=
  (∀ ag d v s l, plainCtrl s ag (headBase (d % 2) + 8) (v ||| 1) l → l.pg = .head → s.blkBusy l = false → ∃ u : State, u = { s with regs := u.regs } ∧
    exec (.headEnable ag d v) s = .next (u.headEnable l.unit ag)) ∧
  (∀ (s : State) d ag, d < s.disp.heads.length → ((s.head d).enabled = true → s.headEnable d ag = s) ∧
    ((s.head d).enabled = false → s.modeOk d = false → ((s.headEnable d ag).head d).modeErr = true ∧ ((s.headEnable d ag).head d).enabled = false) ∧
    ((s.head d).enabled = false → s.modeOk d = true → ∃ u : State, u.head d = { s.head d with
        enabled := true, scanning := true, modeErr := false, frameCtr := 0, share := s.readShare d } ∧ s.headEnable d ag = u.vblank d)) ∧
  (∀ ag d v s l, plainCtrl s ag (headBase (d % 2) + 8) (v &&& ~~~1) l → l.pg = .head → ∃ u : State, (∀ j, u.head j = s.head j) ∧ u.queues = s.queues ∧
    exec (.headDisable ag d v) s = .next (u.headDisable l.unit)) ∧
  (∀ (s : State) d, (s.head d).enabled = true → (s.head d).cap ≠ 2 → ((s.headDisable d).head d).enabled = false ∧ ((s.headDisable d).head d).scanning = false ∧
    ((s.headDisable d).head d).pend = none ∧ ((s.headDisable d).head d).cap = (if (s.head d).cap = 1 then 5 else (s.head d).cap) ∧
    ((s.headDisable d).head d).hold = false) ∧
  (∀ ag d v s l, plainCtrl s ag (dpBase d + 8) v l → l.pg = .dp → l.unit < s.disp.ports.length → ∃ t, exec (.dpPortEnable ag d v) s = .next t ∧ (bitOf v.toNat 0 = true →
      t.port l.unit = { s.port l.unit with powered := true }) ∧ (bitOf v.toNat 0 = false → t.port l.unit =
      { s.port l.unit with powered := false, trained := false, training := false, video := false, restarting := false })) ∧
  (∀ ag v s l r x, reachesRow s ag 0x1D0100 v.toNat l r x → l.pg = .scan → l.off = 0x100 → r.acc = .rw →
    exec (.portRouteWrite ag v) s = .next (((s.store l r x).routeWrite 0 (bitsOf x 0 2)).routeWrite 1 (bitsOf x 4 2))) ∧
  (∀ (s : State) d src, (src = (s.port d).route → (s.routeWrite d src).port d = { s.port d with routePend := none }) ∧
    (src ≠ (s.port d).route → (s.port d).route ≠ 0 → (s.port d).powered = true → (s.head ((s.port d).route - 1)).scanning = true →
      s.routeWrite d src = s.setPort d { s.port d with routePend := some src })) ∧
  (∀ ag d s l r, reachesRow s ag (dpBase d + 0x104) 1 l r 1 → l.pg = .dp → l.off = 0x104 → r.acc = .wo →
    ((s.port l.unit).powered = true → exec (.dpTrainStart ag d) s = .next (s.setPort l.unit { s.port l.unit with
      training := true, trained := false, fail := false, video := false, restarting := false })) ∧
    ((s.port l.unit).powered = false → exec (.dpTrainStart ag d) s = .next s)) ∧
  (∀ d ok s, ((s.port d).training = true → ∃ t, exec (.dpTrainDone d ok) s = .next t ∧ (t.port d).training = false ∧ (t.port d).trained = ok ∧
      (t.port d).fail = !ok ∧ (t.port d).video = (ok && (s.port d).route != 0) ∧ (∀ j, j ≠ d → t.port j = s.port j)) ∧
    ((s.port d).training = false → exec (.dpTrainDone d ok) s = .next s)) ∧
  (∀ ag d v s l r x, reachesRow s ag (dpBase d + 0x110) (v ||| 0x80000000).toNat l r x → l.pg = .dp → l.off = 0x110 → r.acc = .wo → bitOf x 31 = true →
    exec (.auxCmdStart ag d v) s = .next ((s.store l r x).auxStart l.unit)) ∧
  (∀ d res reply s, ((s.port d).aux = true → ∃ t, exec (.auxDone d res reply) s = .next t ∧ (t.port d).aux = false ∧ (∀ j, j ≠ d → t.port j = s.port j) ∧
      t.disp.heads = s.disp.heads ∧ SameMem s t) ∧ ((s.port d).aux = false → exec (.auxDone d res reply) s = .next s)) ∧
  (∀ d s, d < s.disp.ports.length → ((s.port d).hpd = true → (∃ t, exec (.hpdIrq d) s = .next t ∧ t.port d = { s.port d with irqs := min ((s.port d).irqs + 1) 255 }) ∧
      (∃ t, exec (.hpdLoss d) s = .next t ∧ t.port d = { s.port d with hpd := false, trained := false, video := false, restarting := false }) ∧
      exec (.hpdReturn d) s = .next s) ∧
    ((s.port d).hpd = false → exec (.hpdIrq d) s = .next s ∧ exec (.hpdLoss d) s = .next s ∧
      ∃ t, exec (.hpdReturn d) s = .next t ∧ t.port d = { s.port d with hpd := true })) ∧
  (∀ d s, ((s.port d).restarting = true → exec (.portRestartDone d) s = .next (s.setPort d { s.port d with restarting := false, video := true })) ∧
    ((s.port d).restarting = false → exec (.portRestartDone d) s = .next s)) ∧
  (∀ ag d v s l r x, reachesRow s ag (dpBase d + 0x140) (v ||| 2).toNat l r x → l.pg = .dp → l.off = 0x140 → r.acc = .rw → bitOf x 1 = true →
    exec (.sdpCommit ag d v) s = .next ((s.store l r (x % 2)).sdpCommit l.unit)) ∧
  (∀ ag d v s l r x, reachesRow s ag (headBase (d % 2) + 0x18C) v.toNat l r x → l.pg = .head → l.off = 0x18C → r.acc = .rw →
    exec (.lutDataWrite ag d v) s = .next (s.lutWrite l.unit (BitVec.ofNat 32 x) ag)) ∧
  (∀ (s : State) d v ag, s.bankBusy d (bitOf (s.reg (headBase d + 0x188)).toNat 12) = false →
    tblGet (lutReset (bitsOf (s.reg (headBase d + 0x188)).toNat 0 10)) (lutKey (bitsOf (s.reg (headBase d + 0x188)).toNat 12 1)
      (bitsOf (s.reg (headBase d + 0x188)).toNat 10 2) (bitsOf (s.reg (headBase d + 0x188)).toNat 0 10)) ((s.lutWrite d v ag).head d).lut = v.truncate 16) ∧
  (∀ ag d s l r, reachesRow s ag (headBase (d % 2) + 0x160) 1 l r 1 → l.pg = .head → l.off = 0x160 → r.acc = .w1s → l.unit < s.disp.heads.length → ∃ t, exec (.captureArm ag d) s = .next t ∧
    (((s.head l.unit).cap = 1 ∨ (s.head l.unit).cap = 2) → t = s) ∧
    ((s.head l.unit).cap ∉ [1, 2] → (s.head l.unit).owner ≠ none → (s.head l.unit).enabled = true →
      t = s.setHead l.unit { s.head l.unit with cap := 1, capBytes := 0 }) ∧
    ((s.head l.unit).cap ∉ [1, 2] → ((s.head l.unit).owner = none ∨ (s.head l.unit).enabled = false) → (t.head l.unit).cap = 5)) ∧
  (∀ d s k, (s.head d).owner = some k → ((s.head d).cap = 2 → s.pcie.stall = .normal → (s.fn k).bme = true → s.pcie.linkUp = true → ∃ t,
      exec (.captureDone d) s = .next t ∧ (t.head d).cap = 3 ∧ (t.head d).capBytes = BitVec.ofNat 64 (s.head d).capData.length ∧ (t.head d).capData = []) ∧
    ((s.head d).cap ≠ 2 → exec (.captureDone d) s = .next s)) ∧
  (∀ d err s, ((s.head d).scanning = true → exec (.vblankStart d err) s = .next ((s.eccFind err false).vblank d)) ∧
    ((s.head d).scanning = false → exec (.vblankStart d err) s = .next s)) ∧
  (∀ d s, ((s.head d).scanning = true → exec (.lineUnderrun d) s = .next ((s.count (headBase d + 0x14C)).cause (headBase d) 11)) ∧
    ((s.head d).scanning = false → exec (.lineUnderrun d) s = .next s)) ∧
  (∀ d s, ((s.head d).hold = true → ∃ t, exec (.headHoldLimitExpiry d) s = .next t ∧ t.head d = { s.head d with hold := false, black := true, cur := none }) ∧
    ((s.head d).hold = false → exec (.headHoldLimitExpiry d) s = .next s)) ∧
  (∀ d s r k hdr, (s.head d).rcpt = some r → (s.head d).owner = some k → r.due = some hdr → s.pw.stage = .ready →
    (∀ u gs msg, s.segs k (r.buf.toNat + 256 * (leNat (bytesAt hdr 0x28 4) % r.entries)) 144 true askCmd = (u, gs, none) → segsHost gs = false →
      msg = hdr.set 7 (hdr.getD 7 0 ||| (if r.skipFlag then 8 else 0)) → exec (.receiptWrite d) s =
      .next (((u.segWrite k false gs (msg ++ (List.range 96).map (Config.signByte msg))).countField (headBase d + 0x154) 0 16 1).setHead d
        { (u.segWrite k false gs (msg ++ (List.range 96).map (Config.signByte msg))).head d with
          rcpt := some { r with due := none, skipFlag := false, written := min (r.written + 1) 0xFFFFFFFF } })) ∧
    (∀ u gs x, s.segs k (r.buf.toNat + 256 * (leNat (bytesAt hdr 0x28 4) % r.entries)) 144 true askCmd = (u, gs, some x) → ∃ t,
      exec (.receiptWrite d) s = .next t ∧ (t.head d).rcpt = some { r with due := none, skipFlag := true, skipped := min (r.skipped + 1) 0xFFFFFFFF }))

/-! ### Power, clocks and temperature (16) -/

/-- Trim, telemetry and background work (R648, R650, R713 to R735, R738 to R744, R758, R788, R789, R793): the fast loop stretches and the clamp slows clusters; the trim loop takes its limits one loop
after they are set; the regulator settles in steps; published sensors are the sampled ones; crack and trip faults are raised. -/
def Obligations.TrimLoopsKeepTheirLimits : Prop :=
  (∀ n s, n < 16 → s.ck.cclk.length = 16 → s.pw.railsUp = true → (s.ck.cclk.getD n cclkReset).stretch = false → ∃ t, exec (.droopDetect n) s = .next t ∧
    t.ck.cclk.getD n cclkReset = { s.ck.cclk.getD n cclkReset with stretch := true } ∧
    (∀ j, j ≠ n → t.ck.cclk.getD j cclkReset = s.ck.cclk.getD j cclkReset) ∧ t.trim = s.trim ∧ t.pw = s.pw) ∧
  (∀ n s, (s.pw.railsUp = false ∨ (s.ck.cclk.getD n cclkReset).stretch = true) → exec (.droopDetect n) s = .next s) ∧
  (∀ s j, j < 16 → s.ck.cclk.length = 16 → s.pw.railsUp = true → s.gatedAt j = false → (s.ck.cclk.getD j cclkReset).stretch = false → ∃ t,
    exec .overcurrentDetect s = .next t ∧ (t.ck.cclk.getD j cclkReset).stretch = true ∧ (∀ n, s.gatedAt n = true →
      t.ck.cclk.getD n cclkReset = s.ck.cclk.getD n cclkReset) ∧ t.trim = s.trim) ∧
  (∀ n s, n < s.ck.cclk.length → ∃ t, exec (.stretchEnd n) s = .next t ∧
    t.ck.cclk.getD n cclkReset = { s.ck.cclk.getD n cclkReset with stretch := false } ∧
    (∀ j, j ≠ n → t.ck.cclk.getD j cclkReset = s.ck.cclk.getD j cclkReset)) ∧
  (∀ s, s.pw.railsUp = true → s.trim.clamp = false → ∃ t, exec .thermalClamp s = .next t ∧ t.trim = { s.trim with clamp := true } ∧
    t.ck.cclk = s.ck.cclk.map fun c => { c with n := 40, base := 40 }) ∧
  (∀ s, ∃ t, exec .clampRelease s = .next t ∧ t = { s with trim := { s.trim with clamp := false } }) ∧
  (∀ s, s.pw.railsUp = true → ∃ u : State, u = { s with pw := { s.pw with thermTripN := false } } ∧
    exec .thermTrip s = .next (u.raise 0x0B03 .device none 0x7000 0)) ∧
  (∀ s, s.pw.railsUp = true → exec .railFault s = .next (s.raise 0x0B04 .device none 0x8000 0)) ∧
  (∀ s, s.pw.railsUp = false → exec .railFault s = .next s ∧ exec .thermTrip s = .next s ∧ exec .thermalClamp s = .next s) ∧
  (∀ s, s.pw.railsUp = true → s.pw.safe = false → ∃ t, exec .lendingWindow s = .next t ∧ t.trim.lendR = s.reefedCount ∧
    t.trim.lending = bitOf (s.reg 0x7400).toNat 0 ∧ (∃ u : State, t = u.setDividers s.reefedCount ∧ u.ck = s.ck)) ∧
  (∀ p1 p10 want table lim conf s, (s.pwrOn = false → exec (.trimLoop p1 p10 want table lim conf) s = .next s) ∧
    (s.pwrOn = true → ∃ t, exec (.trimLoop p1 p10 want table lim conf) s = .next t ∧ t.trim.eff = s.trim.next ∧
      t.trim.next = { cap := s.trim.capW, board := s.trim.boardW, quiet := s.trim.quietW, fan := s.trim.quietFan, floor := s.trim.floorN } ∧
      t.trim.capLim = bitOf lim 0 ∧ t.trim.capW = s.trim.capW ∧ t.trim.boardW = s.trim.boardW ∧ SameMem s t)) ∧
  (∀ s v w, s.ck.settling = some (v, w) → (s.pwrOn = false → exec .vrSettleExpiry s = .next { s with ck := { s.ck with settling := none } }) ∧
    (s.pwrOn = true → ∃ t, exec .vrSettleExpiry s = .next t ∧ ((max 650 (min 850 w) = s.ck.vcore → t.ck.settling = none ∧ t.ck.vcore = s.ck.vcore) ∧
      (s.ck.vcore < max 650 (min 850 w) → t.ck.vcore = min (max 650 (min 850 w)) (s.ck.vcore + 100)) ∧
      (max 650 (min 850 w) < s.ck.vcore → t.ck.vcore = max (max 650 (min 850 w)) (s.ck.vcore - 100))))) ∧
  (∀ s, s.ck.settling = none → exec .vrSettleExpiry s = .next s) ∧
  (∀ s, s.pwrOn = true → (∀ v w, s.ck.settling = some (v, w) → ∃ u : State, u = { s with ck := { s.ck with vcore := v, settling := none } } ∧
      exec .vrTransactionFail s = .next (u.fwAssert 1 0)) ∧ (s.ck.settling = none → exec .vrTransactionFail s = .next (s.fwAssert 1 0)) ∧
    exec .vrAlert s = .next (s.logRec 2 1 0)) ∧
  (∀ vals held s, s.trim.telemetryOn = true → s.fwOn = true → 1 ∉ s.sec.halted → ∃ t, exec (.telemetrySample vals held) s = .next t ∧
    (∀ i, i < 64 → i ∉ held → t.sensor i = vals.getD i 0) ∧ (∀ i, i < 64 → i ∈ held → t.sensor i = s.sensor i) ∧ t.trim.seq = s.trim.seq + 1 ∧
    t.trim.sampleGtime = s.ck.gtime ∧ (∀ i, i ∈ t.trim.stale ↔ i < 64 ∧ i ∈ held) ∧ SameMem s t) ∧
  (∀ vals held s, (s.trim.telemetryOn = false ∨ s.fwOn = false ∨ 1 ∈ s.sec.halted) → exec (.telemetrySample vals held) s = .next s) ∧
  (∀ i u cmem found s, (i = 3 → found = true → s.fwOn = true → exec (.bgStepTake i u cmem found) s = .next (s.scrubFind u cmem)) ∧
    ((i ≠ 3 ∨ found = false ∨ s.fwOn = false) → exec (.bgStepTake i u cmem found) s = .next s)) ∧
  (∀ i u first s, i ≤ 5 → s.fwOn = true → (2 ≤ i ∨ s.pw.selfRefresh = 0) → ∃ v : State, v = (s.count (0x71A0 + 4 * i)) ∧
    (∀ w, v.captureAt 0x71C4 (i + 256 * (u % 256)) 31 = (true, w) → exec (.bgForced i u first) s =
      .next (if first then (w.cause 0x7000 11).raise 0x0802 .device none 0x7000 (i + 256 * (u % 256)) else w.cause 0x7000 11)) ∧
    (∀ w, v.captureAt 0x71C4 (i + 256 * (u % 256)) 31 = (false, w) → exec (.bgForced i u first) s =
      .next (if first then w.raise 0x0802 .device none 0x7000 (i + 256 * (u % 256)) else w))) ∧
  (∀ u s, u < hbmUnits → s.pw.hbmTrained = 15 → s.pw.selfRefresh = 0 → s.fwOn = true → tblFind u s.flips = none → ∃ t,
    exec (.hbmPatrolStep u .good) s = .next t ∧ t = { s with trim := t.trim } ∧
    (s.trim.patrol + 1 < hbmUnits → t.trim = { s.trim with patrol := s.trim.patrol + 1 }) ∧
    (hbmUnits ≤ s.trim.patrol + 1 → t.trim = { s.trim with patrol := 0, patrolPasses := min (s.trim.patrolPasses + 1) 0xFFFF })) ∧
  (∀ u s, u < hbmUnits → s.pw.hbmTrained = 15 → s.pw.selfRefresh = 0 → s.fwOn = true → tblFind u s.flips = none → u ∉ s.poison → ∃ t,
    exec (.hbmPatrolStep u .uncorrected) s = .next t ∧ (∀ x, x ∈ t.poison ↔ x = u ∨ x ∈ s.poison) ∧ SameMem s t) ∧
  (∀ s, s.fwOn = true → (∃ u : State, u = { s with trim := { s.trim with crackLast := 0xFFFFFFFF } } ∧
      exec (.crackLoopMeasure none) s = .next (u.raise 0x0B02 .device none 0x8000 0)) ∧
    (∀ v, 10 * v.toNat ≤ 12 * s.trim.crackBase.toNat → exec (.crackLoopMeasure (some v)) s = .next { s with trim := { s.trim with crackLast := v } }) ∧
    (∀ v, 12 * s.trim.crackBase.toNat < 10 * v.toNat → s.trim.crackRec = 0 → ∃ u : State, u = { s with trim := { s.trim with crackLast := v, crackRec := v } } ∧
      exec (.crackLoopMeasure (some v)) s = .next (u.raise 0x0B01 .device none 0x8000 0)))

/-! ### Faults, firmware cores and board management (06, 16, 17) -/

/-- The fault collector and board management (R215, R239, R736, R737, R751, R760, R765, R774, R779, R780): it takes the oldest fault of the highest class; acknowledging closes what it covers;
a firmware core's report or lapsed watchdog becomes a fault; the endpoint answers its address, its sensors and the board limit. -/
def Obligations.CollectorAndBoardManagementAnswer : Prop :=
  (∀ s, s.pw.railsUp = true → s.fcol.inq = [] → exec .fcolTakeFault s = .next s) ∧
  (∀ s i f, s.pw.railsUp = true → nextFault s.fcol.inq = some i → s.fcol.inq[i]? = some f → ∃ u : State,
    u = { s with fcol := { s.fcol with inq := s.fcol.inq.eraseIdx i } } ∧ exec .fcolTakeFault s = .next (u.process f) ∧
    (∀ g ∈ s.fcol.inq, g.cls ≤ f.cls) ∧ (∀ j g, j < i → s.fcol.inq[j]? = some g → g.cls < f.cls)) ∧
  (∀ s, exec .rateWindowExpiry s = .next { s with fcol := { s.fcol with rates := [] } }) ∧
  (∀ s, s.pw.railsUp = true → ∃ f : FaultIn, exec .fcolSelf s = .next ((s.count 0x912C).process f) ∧ f.code = 0x0B07 ∧ f.cls = 3 ∧ f.level = .l4 ∧
    f.owner = .device ∧ f.gtime = s.ck.gtime) ∧
  (∀ ag v s l r, reachesRow s ag 0x9110 v.toNat l r v.toNat → l.pg = .fcol → l.off = 0x110 → r.acc = .wo →
    (ag.code = 0 → ∃ t, exec (.frAck ag v) s = .next t ∧ t = { s with fcol := t.fcol } ∧
      (∀ (i : Nat) (x : FRec), s.fcol.ring[i]? = some x → ∃ y : FRec, t.fcol.ring[i]? = some y ∧ y.seq = x.seq ∧ y.code = x.code ∧
        y.acked = (x.acked || decide ((v - x.seq).toNat < 2 ^ 31))) ∧
      (∀ e : OpenEnt, e ∈ t.fcol.open_ ↔ e ∈ s.fcol.open_ ∧ 2 ^ 31 ≤ (v - e.seq).toNat)) ∧
    (ag.code ≠ 0 → exec (.frAck ag v) s = .next s)) ∧
  (∀ ag v s l r, s.gate ag 0x9138 true = .go l → l.pg = .fcol → l.off = 0x138 → l.row = some (r, 0) → r.wide = true → (r.acc = .rw ∨ r.acc = .wo) →
    s.rowLocked l r = false → s.rowHeld l r = false → l.expert = false → ∃ u : State, u = { s with lowWord := u.lowWord } ∧
    (ag.code ∉ [3, 4, 5] → exec (.fwReport ag v) s = .next u) ∧
    (ag.code ∈ [3, 4, 5] → bitsOf v.toNat 0 16 ∈ fwCodes → bitsOf v.toNat 24 3 ≤ 4 → bitsOf v.toNat 23 1 = 0 → bitsOf v.toNat 30 2 = 0 → ∃ f : FaultIn,
      exec (.fwReport ag v) s = .next (u.enqueueFault f) ∧ f.code = bitsOf v.toNat 0 16 ∧ f.cls = (codeClass (bitsOf v.toNat 0 16)).1 ∧
      f.owner = fwOwner v.toNat ∧ f.source = coreSource ag.code) ∧
    (ag.code ∈ [3, 4, 5] → (bitsOf v.toNat 0 16 ∉ fwCodes ∨ 4 < bitsOf v.toNat 24 3 ∨ bitsOf v.toNat 23 1 ≠ 0 ∨ bitsOf v.toNat 30 2 ≠ 0) →
      exec (.fwReport ag v) s = .next (u.rsvdValue 0x9138 0x9000 0 ag))) ∧
  (∀ s core, core ≤ 2 → s.fwOn = true → (core ∉ s.sec.halted → exec (.fwWatchdogExpiry core) s = .next (s.fwAssert core 0)) ∧
    (core ∈ s.sec.halted → exec (.fwWatchdogExpiry core) s = .next s)) ∧
  (∀ (s : State) (f : FaultIn), f.cls = 2 → queuedFaults s.fcol.inq < 64 → (s.enqueueFault f).fcol.inq = s.fcol.inq ++ [f]) ∧
  (∀ s, s.bmcOn = true →
    (∀ eid, ∃ t, exec (.mctpEidAssign eid) s = .next t ∧ t.trim = { s.trim with eid := eid % 256, eidSet := true } ∧ t.own.cpl = 0) ∧
    (exec (.mctpControlMessage 2) s = .next (s.answer [0, BitVec.ofNat 8 s.trim.eid] 0)) ∧
    (∀ i, 1 ≤ i → i ≤ 67 → exec (.pldmSensorRead i) s = .next (s.answer (leBytes 2 (s.sensor (i - 1)).toNat) 0)) ∧
    (∀ i, (i = 0 ∨ 67 < i) → ∃ t, exec (.pldmSensorRead i) s = .next t ∧ t = { s with own := t.own }) ∧
    (∀ v, (v = 0 ∨ 150 ≤ v ∧ v ≤ 450) → s.pw.safe = false → s.parked = false → ∃ t, exec (.pldmEffecterSet 1 v) s = .next t ∧
      t.trim = { s.trim with boardW := v } ∧ t.pw = s.pw ∧ SameMem s t) ∧
    (∀ v, v ≠ 0 → (v < 150 ∨ 450 < v) → ∃ t, exec (.pldmEffecterSet 1 v) s = .next t ∧ t = { s with own := t.own })) ∧
  (∀ s eid cmd i v, s.bmcOn = false → (exec (.mctpEidAssign eid) s = .next (s.answer [] 1)) ∧ (exec (.mctpControlMessage cmd) s = .next (s.answer [] 1)) ∧
    (exec (.pldmSensorRead i) s = .next (s.answer [] 1)) ∧ (exec (.pldmEffecterSet i v) s = .next (s.answer [] 1)))
end

