-- ==== Sys2Proof/Laws/Keeps.lean ====
section
/-! SUPPORT. What every operation of the model keeps: the relation, and how it passes through the shapes definitions have. -/

set_option Elab.async false
namespace Sys2Proof.Machine

/-- The fused state only grows: the anti-rollback counter and the set of revoked key slots (R206, R207). -/
structure SecLe (a b : Sec) : Prop where
  arb : a.arb ≤ b.arb
  revoke : a.keyRevoke ||| b.keyRevoke = b.keyRevoke

/-- What an operation that leads from `s` to `t` keeps: the queue of waiting commands as it is, device memory canonical, the fused
counters no lower, the count of the free values drawn no lower, and a device in the safe state in the safe state. -/
structure Keeps (s t : State) : Prop where
  pend : t.pending = s.pending
  wf : Memory.wf s = true → Memory.wf t = true
  sec : SecLe s.sec t.sec
  free : s.own.freeCtr ≤ t.own.freeCtr
  safe : s.pw.safe = true → t.pw.safe = true

theorem SecLe.refl (a : Sec) : SecLe a a := ⟨Nat.le_refl _, Nat.or_self _⟩

theorem SecLe.same {a b : Sec} (h : b.arb = a.arb) (k : b.keyRevoke = a.keyRevoke) : SecLe a b :=
  ⟨Nat.le_of_eq h.symm, by rw [k]; exact Nat.or_self _⟩

theorem SecLe.trans {a b c : Sec} (h : SecLe a b) (k : SecLe b c) : SecLe a c := by
  refine ⟨Nat.le_trans h.arb k.arb, ?_⟩
  rw [← k.revoke, ← Nat.or_assoc, h.revoke]

theorem Keeps.refl (s : State) : Keeps s s := ⟨rfl, id, SecLe.refl _, Nat.le_refl _, id⟩

theorem Keeps.trans {s t u : State} (h : Keeps s t) (k : Keeps t u) : Keeps s u :=
  ⟨k.pend.trans h.pend, fun w => k.wf (h.wf w), h.sec.trans k.sec, Nat.le_trans h.free k.free, fun w => k.safe (h.safe w)⟩

/-- The last operation of a chain first, as its text reads from the outside. -/
theorem Keeps.of {s t u : State} (k : Keeps t u) (h : Keeps s t) : Keeps s u := h.trans k

/-- A record update that leaves memory and the queue alone. -/
theorem Keeps.mk' {s s1 : State} (h : Keeps s s1) {pw ck pcie sec fw fcol brn insts slots queues cmds movers launches ctxs rr
    clusters beacons resvs sync sess disp trim caches htab poison flips regs expert effect lowWord capture lockUsed own
    nextId} (hs : SecLe s1.sec sec) (ho : s1.own.freeCtr ≤ own.freeCtr)
    (hf : s1.pw.safe = true → pw.safe = true := by exact fun w => w) :
    Keeps s { pw := pw, ck := ck, pcie := pcie, sec := sec, fw := fw, fcol := fcol, brn := brn, insts := insts,
              slots := slots, queues := queues, cmds := cmds, movers := movers, launches := launches, ctxs := ctxs,
              rr := rr, clusters := clusters, beacons := beacons, resvs := resvs, sync := sync, sess := sess, disp := disp,
              trim := trim, caches := caches, htab := htab, mem := s1.mem, poison := poison, vague := s1.vague,
              flips := flips, regs := regs, expert := expert, effect := effect, lowWord := lowWord, capture := capture,
              lockUsed := lockUsed, own := own, nextId := nextId, pending := s1.pending } :=
  Keeps.trans h ⟨rfl, id, hs, ho, hf⟩

/-- A state with no memory listed. -/
theorem Keeps.fresh {s s1 t : State} (h : Keeps s s1) (hm : t.mem = []) (hp : t.pending = s1.pending) (hs : SecLe s1.sec t.sec)
    (ho : s1.own.freeCtr ≤ t.own.freeCtr) (hf : s1.pw.safe = true → t.pw.safe = true) : Keeps s t :=
  Keeps.trans h ⟨hp, fun _ => by unfold Memory.wf; rw [hm]; rfl, hs, ho, hf⟩

theorem Keeps.ite {s a b : State} {c : Prop} [Decidable c] (h : c → Keeps s a) (k : ¬c → Keeps s b) :
    Keeps s (if c then a else b) := by
  split
  · exact h ‹_›
  · exact k ‹_›

theorem Keeps.ite_fst {α : Type} {s : State} {a b : State × α} {c : Prop} [Decidable c] (h : c → Keeps s a.1)
    (k : ¬c → Keeps s b.1) : Keeps s (if c then a else b).1 := by
  split
  · exact h ‹_›
  · exact k ‹_›

theorem Keeps.ite_snd {α : Type} {s : State} {a b : α × State} {c : Prop} [Decidable c] (h : c → Keeps s a.2)
    (k : ¬c → Keeps s b.2) : Keeps s (if c then a else b).2 := by
  split
  · exact h ‹_›
  · exact k ‹_›

theorem Keeps.ite_thd {α β : Type} {s : State} {a b : α × β × State} {c : Prop} [Decidable c] (h : c → Keeps s a.2.2)
    (k : ¬c → Keeps s b.2.2) : Keeps s (if c then a else b).2.2 := by
  split
  · exact h ‹_›
  · exact k ‹_›

theorem Keeps.mk_thd {α β : Type} {s a : State} {b : α} {c : β} (h : Keeps s a) : Keeps s (b, c, a).2.2 := h

theorem Keeps.mk_fst {α : Type} {s a : State} {b : α} (h : Keeps s a) : Keeps s (a, b).1 := h

theorem Keeps.mk_snd {α : Type} {s a : State} {b : α} (h : Keeps s a) : Keeps s (b, a).2 := h

/-- A middle state is named once. -/
theorem Keeps.cut {s b t : State} (h : Keeps s b) (k : Keeps s b → Keeps s t) : Keeps s t := k h

theorem Keeps.fst {α : Type} {s t : State} {p : State × α} {a : α} (h : Keeps s p.1) (e : p = (t, a)) : Keeps s t := by
  subst e; exact h

theorem Keeps.snd {α : Type} {s t : State} {p : α × State} {a : α} (h : Keeps s p.2) (e : p = (a, t)) : Keeps s t := by
  subst e; exact h

theorem Keeps.thd {α β : Type} {s t : State} {p : α × β × State} {a : α} {b : β} (h : Keeps s p.2.2) (e : p = (a, b, t)) :
    Keeps s t := by
  subst e; exact h

theorem Keeps.foldl {α : Type} {f : State → α → State} {l : List α} {s t : State} (h : ∀ a x, Keeps a (f a x))
    (k : Keeps s t) : Keeps s (l.foldl f t) := by
  induction l generalizing t with
  | nil => exact k
  | cons x l ih => exact ih (k.trans (h t x))

theorem Keeps.foldl_fst {α β : Type} {f : State × β → α → State × β} {l : List α} {s : State} {p : State × β}
    (h : ∀ a x, Keeps a.1 (f a x).1) (k : Keeps s p.1) : Keeps s (l.foldl f p).1 := by
  induction l generalizing p with
  | nil => exact k
  | cons x l ih => exact ih (k.trans (h p x))

theorem Keeps.foldl_snd {α β : Type} {f : β × State → α → β × State} {l : List α} {s : State} {p : β × State}
    (h : ∀ a x, Keeps a.2 (f a x).2) (k : Keeps s p.2) : Keeps s (l.foldl f p).2 := by
  induction l generalizing p with
  | nil => exact k
  | cons x l ih => exact ih (k.trans (h p x))

theorem Keeps.foldr_fst {α β : Type} {f : α → State × β → State × β} {l : List α} {s : State} {p : State × β}
    (h : ∀ x a, Keeps a.1 (f x a).1) (k : Keeps s p.1) : Keeps s (l.foldr f p).1 := by
  induction l with
  | nil => exact k
  | cons x l ih => exact ih.trans (h x _)

/-- Whatever next state a command answers, it keeps. -/
def Kept (s : State) (o : Host.Outcome State Fault Refusal) : Prop := ∀ t, o = .next t → Keeps s t

theorem Kept.next {s t : State} (h : Keeps s t) : Kept s (.next t) := by
  intro u hu
  injection hu with hu
  exact hu ▸ h

theorem Kept.fault (s : State) (r : Fault) : Kept s (.fault r) := by
  intro u hu
  cases hu

theorem Kept.ite {s : State} {a b : Host.Outcome State Fault Refusal} {c : Prop} [Decidable c] (h : c → Kept s a)
    (k : ¬c → Kept s b) : Kept s (if c then a else b) := by
  split
  · exact h ‹_›
  · exact k ‹_›

end Sys2Proof.Machine
end

