-- ==== Sys2Proof/Laws/KeepsOps.lean ====
section
/-! SUPPORT. What the operations and commands of Machine/Ops.lean keep: one lemma for each. -/

set_option Elab.async false
namespace Sys2Proof.Machine

theorem State.setInst_keeps (s : State) (k : Nat) (i : Inst) : Keeps s (State.setInst s k i) := by
  unfold State.setInst
  exact Keeps.mk' (Keeps.refl _) (.refl _) le_rfl

theorem State.setSlot_keeps (s : State) (n : Nat) (v : Slot) : Keeps s (State.setSlot s n v) := by
  unfold State.setSlot
  exact Keeps.mk' (Keeps.refl _) (.refl _) le_rfl

theorem State.setQueue_keeps (s : State) (h : Nat) (q : Queue) : Keeps s (State.setQueue s h q) := by
  unfold State.setQueue
  exact Keeps.mk' (Keeps.refl _) (.refl _) le_rfl

theorem State.setRings_keeps (s : State) (k : Nat) (b : Brn) : Keeps s (State.setRings s k b) := by
  unfold State.setRings
  exact Keeps.mk' (Keeps.refl _) (.refl _) le_rfl

theorem State.setCluster_keeps (s : State) (n : Nat) (c : Cluster) : Keeps s (State.setCluster s n c) := by
  unfold State.setCluster
  exact Keeps.mk' (Keeps.refl _) (.refl _) le_rfl

theorem State.setBeacon_keeps (s : State) (b : Nat) (v : Beacon) : Keeps s (State.setBeacon s b v) := by
  unfold State.setBeacon
  exact Keeps.mk' (Keeps.refl _) (.refl _) le_rfl

theorem State.setResv_keeps (s : State) (r : Nat) (v : Resv) : Keeps s (State.setResv s r v) := by
  unfold State.setResv
  exact Keeps.mk' (Keeps.refl _) (.refl _) le_rfl

theorem State.setObj_keeps (s : State) (i : Nat) (o : SyncObj) : Keeps s (State.setObj s i o) := by
  unfold State.setObj
  exact Keeps.mk' (Keeps.refl _) (.refl _) le_rfl

theorem State.setSession_keeps (s : State) (n : Nat) (v : Sess) : Keeps s (State.setSession s n v) := by
  unfold State.setSession
  exact Keeps.mk' (Keeps.refl _) (.refl _) le_rfl

theorem State.setFn_keeps (s : State) (k : Nat) (f : FnCfg) : Keeps s (State.setFn s k f) := by
  unfold State.setFn
  exact Keeps.mk' (Keeps.refl _) (.refl _) le_rfl

theorem State.setLaunch_keeps (s : State) (i : Nat) (l : Launch) : Keeps s (State.setLaunch s i l) := by
  unfold State.setLaunch
  exact Keeps.mk' (Keeps.refl _) (.refl _) le_rfl

theorem State.setCtx_keeps (s : State) (k : Nat) (c : Ctx) : Keeps s (State.setCtx s k c) := by
  unfold State.setCtx
  exact Keeps.mk' (Keeps.refl _) (.refl _) le_rfl

theorem State.setHead_keeps (s : State) (h : Nat) (v : Head) : Keeps s (State.setHead s h v) := by
  unfold State.setHead
  exact Keeps.mk' (Keeps.refl _) (.refl _) le_rfl

theorem State.setPort_keeps (s : State) (d : Nat) (v : DpPort) : Keeps s (State.setPort s d v) := by
  unfold State.setPort
  exact Keeps.mk' (Keeps.refl _) (.refl _) le_rfl

theorem State.bumpFree_keeps (s : State) : Keeps s (State.bumpFree s) := by
  unfold State.bumpFree
  exact Keeps.mk' (Keeps.refl _) (SecLe.refl _) (Nat.le_succ _)

theorem State.drawWord_keeps (s : State) : Keeps s (State.drawWord s).2 := by
  unfold State.drawWord
  refine Keeps.mk_snd ?_
  exact State.bumpFree_keeps ..

theorem State.drawWord64_keeps (s : State) : Keeps s (State.drawWord64 s).2 := by
  unfold State.drawWord64
  refine Keeps.mk_snd ?_
  exact State.bumpFree_keeps ..

theorem State.drawNat_keeps (s : State) (n : Nat) : Keeps s (State.drawNat s n).2 := by
  unfold State.drawNat
  refine Keeps.mk_snd ?_
  exact State.bumpFree_keeps ..

theorem State.drawBool_keeps (s : State) : Keeps s (State.drawBool s).2 := by
  unfold State.drawBool
  refine Keeps.mk_snd ?_
  exact State.bumpFree_keeps ..

theorem State.drawBytes_keeps (s : State) (n : Nat) : Keeps s (State.drawBytes s n).2 := by
  unfold State.drawBytes
  refine Keeps.mk_snd ?_
  exact State.bumpFree_keeps ..

theorem State.setReg_keeps (s : State) (a : Nat) (v : W) : Keeps s (State.setReg s a v) := by
  unfold State.setReg
  exact Keeps.mk' (Keeps.refl _) (.refl _) le_rfl

theorem State.countField_keeps (s : State) (a : Nat) (lo : Nat) (n : Nat) (k : Nat) : Keeps s (State.countField s a lo n k) := by
  unfold State.countField
  exact State.setReg_keeps ..

theorem State.count_keeps (s : State) (a : Nat) : Keeps s (State.count s a) := by
  unfold State.count
  exact State.countField_keeps ..

theorem State.maxReg_keeps (s : State) (a : Nat) (v : Nat) : Keeps s (State.maxReg s a v) := by
  unfold State.maxReg
  exact State.setReg_keeps ..

theorem State.captureAt_keeps (s : State) (a : Nat) (v : Nat) (ovr : Nat) : Keeps s (State.captureAt s a v ovr).2 := by
  unfold State.captureAt
  refine Keeps.ite_snd (fun _ => ?_) (fun _ => ?_)
  · refine Keeps.mk_snd ?_
    extract_lets +onlyGivenNames z1
    refine Keeps.cut (b := z1) ?_ ?_
    · unfold z1
      exact State.setReg_keeps ..
    · intro hz1
      exact Keeps.mk' ‹_› (.refl _) le_rfl
  · refine Keeps.mk_snd ?_
    exact State.setReg_keeps ..

theorem State.capture31_keeps (s : State) (a : Nat) (v : Nat) : Keeps s (State.capture31 s a v) := by
  unfold State.capture31
  exact State.captureAt_keeps ..

theorem State.clearReg_keeps (s : State) (a : Nat) : Keeps s (State.clearReg s a) := by
  unfold State.clearReg
  extract_lets +onlyGivenNames z1
  refine Keeps.cut (b := z1) ?_ ?_
  · unfold z1
    exact State.setReg_keeps ..
  · intro hz1
    exact Keeps.mk' ‹_› (.refl _) le_rfl

theorem State.markMsg_keeps (s : State) (m : HostMsg) : Keeps s (State.markMsg s m) := by
  unfold State.markMsg
  split
  · exact Keeps.mk' (Keeps.refl _) (.refl _) le_rfl
  · exact Keeps.refl _

theorem State.atsUse_keeps (s : State) (k : Nat) (a : Nat) : Keeps s (State.atsUse s k a) := by
  unfold State.atsUse
  refine Keeps.ite (fun _ => ?_) (fun _ => ?_)
  · exact Keeps.refl _
  · extract_lets +onlyGivenNames z1
    clear_value z1
    extract_lets +onlyGivenNames z2
    refine Keeps.cut (b := z2) ?_ ?_
    · unfold z2
      exact State.bumpFree_keeps ..
    · intro hz2
      exact Keeps.mk' ‹_› (.refl _) le_rfl

theorem State.atsMsg_keeps (s : State) (m : HostMsg) : Keeps s (State.atsMsg s m) := by
  unfold State.atsMsg
  split
  · exact State.atsUse_keeps ..
  · exact Keeps.refl _

theorem State.issueHost_keeps (s : State) (m : HostMsg) : Keeps s (State.issueHost s m) := by
  unfold State.issueHost
  refine Keeps.ite (fun _ => ?_) (fun _ => ?_)
  · exact Keeps.refl _
  · split
    · exact Keeps.mk' (Keeps.refl _) (.refl _) le_rfl
    · refine Keeps.ite (fun _ => ?_) (fun _ => ?_)
      · refine (State.markMsg_keeps ..).of ?_
        refine (State.atsMsg_keeps ..).of ?_
        exact Keeps.mk' (Keeps.refl _) (.refl _) le_rfl
      · exact Keeps.mk' (Keeps.refl _) (.refl _) le_rfl
    · refine (State.markMsg_keeps ..).of ?_
      refine (State.atsMsg_keeps ..).of ?_
      exact Keeps.mk' (Keeps.refl _) (.refl _) le_rfl

theorem State.issueWrite_keeps (s : State) (k : Nat) (a : Nat) (d : List Byte) (marks : Bool) (copy : Nat) : Keeps s (State.issueWrite s k a d marks copy) := by
  unfold State.issueWrite
  refine Keeps.foldl (fun _ _ => ?_) ?_
  · dsimp -zeta -zetaHave only
    exact State.issueHost_keeps ..
  · exact Keeps.refl _

theorem State.hostWrite_keeps (s : State) (k : Nat) (a : Nat) (d : List Byte) (marks : Bool) : Keeps s (State.hostWrite s k a d marks) := by
  unfold State.hostWrite
  exact State.issueWrite_keeps ..

theorem State.msixEvent_keeps (s : State) (k : Nat) (v : Nat) : Keeps s (State.msixEvent s k v) := by
  unfold State.msixEvent
  refine Keeps.ite (fun _ => ?_) (fun _ => ?_)
  · exact Keeps.mk' (Keeps.refl _) (.refl _) le_rfl
  · exact State.issueHost_keeps ..

theorem State.msixRelease_keeps (s : State) (k : Nat) : Keeps s (State.msixRelease s k) := by
  unfold State.msixRelease
  refine Keeps.foldl (fun _ _ => ?_) ?_
  · refine Keeps.ite (fun _ => ?_) (fun _ => ?_)
    · refine (State.issueHost_keeps ..).of ?_
      exact Keeps.mk' (Keeps.refl _) (.refl _) le_rfl
    · exact Keeps.refl _
  · exact Keeps.refl _

theorem State.intEdge_keeps (s : State) (base : Nat) (before : Nat) : Keeps s (State.intEdge s base before) := by
  unfold State.intEdge
  extract_lets +onlyGivenNames z1
  clear_value z1
  refine Keeps.ite (fun _ => ?_) (fun _ => ?_)
  · exact Keeps.refl _
  · split
    · exact State.msixEvent_keeps ..
    · exact Keeps.refl _

theorem State.causes_keeps (s : State) (base : Nat) (bits : Nat) : Keeps s (State.causes s base bits) := by
  unfold State.causes
  refine (State.intEdge_keeps ..).of ?_
  exact State.setReg_keeps ..

theorem State.cause_keeps (s : State) (base : Nat) (bit : Nat) : Keeps s (State.cause s base bit) := by
  unfold State.cause
  exact State.causes_keeps ..

theorem State.dropFault_keeps (s : State) : Keeps s (State.dropFault s) := by
  unfold State.dropFault
  refine (State.cause_keeps ..).of ?_
  exact State.count_keeps ..

theorem State.enqueueFault_keeps (s : State) (f : FaultIn) : Keeps s (State.enqueueFault s f) := by
  unfold State.enqueueFault
  extract_lets +onlyGivenNames z1
  refine Keeps.cut (b := z1) ?_ ?_
  · unfold z1
    exact State.count_keeps ..
  · intro hz1
    extract_lets +onlyGivenNames z2
    clear_value z2
    extract_lets +onlyGivenNames z3
    refine Keeps.ite (fun _ => ?_) (fun _ => ?_)
    · unfold z3
      exact Keeps.mk' ‹_› (.refl _) le_rfl
    · refine Keeps.ite (fun _ => ?_) (fun _ => ?_)
      · refine Keeps.ite (fun _ => ?_) (fun _ => ?_)
        · unfold z3
          exact Keeps.mk' ‹_› (.refl _) le_rfl
        · exact (State.dropFault_keeps ..).of ‹_›
      · refine Keeps.ite (fun _ => ?_) (fun _ => ?_)
        · unfold z3
          exact Keeps.mk' ‹_› (.refl _) le_rfl
        · refine Keeps.ite (fun _ => ?_) (fun _ => ?_)
          · unfold z3
            refine Keeps.mk' ?_ (.refl _) le_rfl
            exact (State.count_keeps ..).of ‹_›
          · unfold z3
            refine Keeps.mk' ?_ (.refl _) le_rfl
            exact (State.dropFault_keeps ..).of ‹_›

theorem State.raiseAs_keeps (s : State) (code : Nat) (cls : Nat) (lvl : Level) (o : Owner) (hwq : Option Nat) (base : Nat) (chk : Nat) (detail : Nat) (scrub : Bool) (injected : Bool) (onFaulted : Bool) : Keeps s (State.raiseAs s code cls lvl o hwq base chk detail scrub injected onFaulted) := by
  unfold State.raiseAs
  exact State.enqueueFault_keeps ..

theorem State.raise_keeps (s : State) (code : Nat) (o : Owner) (hwq : Option Nat) (base : Nat) (detail : Nat) : Keeps s (State.raise s code o hwq base detail) := by
  unfold State.raise
  exact State.raiseAs_keeps ..

theorem State.captureEvent_keeps (s : State) (a : Nat) (kind : Nat) (apply : Nat) (ag : Agent) : Keeps s (State.captureEvent s a kind apply ag) := by
  unfold State.captureEvent
  refine Keeps.ite (fun _ => ?_) (fun _ => ?_)
  · refine (State.setReg_keeps ..).of ?_
    exact State.setReg_keeps ..
  · exact State.setReg_keeps ..

theorem State.lockViol_keeps (s : State) (a : Nat) (base : Nat) (apply : Nat) (ag : Agent) : Keeps s (State.lockViol s a base apply ag) := by
  unfold State.lockViol
  extract_lets +onlyGivenNames z1
  refine Keeps.cut (b := z1) ?_ ?_
  · unfold z1
    exact State.setReg_keeps ..
  · intro hz1
    extract_lets +onlyGivenNames z2
    refine Keeps.cut (b := z2) ?_ ?_
    · unfold z2
      refine (State.captureEvent_keeps ..).of ?_
      exact (State.cause_keeps ..).of ‹_›
    · intro hz2
      exact (State.raise_keeps ..).of ‹_›

theorem State.busyDrop_keeps (s : State) (a : Nat) (base : Nat) (apply : Nat) (ag : Agent) : Keeps s (State.busyDrop s a base apply ag) := by
  unfold State.busyDrop
  extract_lets +onlyGivenNames z1
  refine Keeps.cut (b := z1) ?_ ?_
  · unfold z1
    exact State.setReg_keeps ..
  · intro hz1
    extract_lets +onlyGivenNames z2
    refine Keeps.cut (b := z2) ?_ ?_
    · unfold z2
      refine (State.captureEvent_keeps ..).of ?_
      exact (State.cause_keeps ..).of ‹_›
    · intro hz2
      exact (State.raise_keeps ..).of ‹_›

theorem State.rsvdValue_keeps (s : State) (a : Nat) (base : Nat) (apply : Nat) (ag : Agent) : Keeps s (State.rsvdValue s a base apply ag) := by
  unfold State.rsvdValue
  refine (State.captureEvent_keeps ..).of ?_
  exact State.cause_keeps ..

theorem State.unmapped_keeps (s : State) : Keeps s (State.unmapped s) := by
  unfold State.unmapped
  exact State.count_keeps ..

theorem State.answer_keeps (s : State) (d : List Byte) (cpl : Nat) : Keeps s (State.answer s d cpl) := by
  unfold State.answer
  exact Keeps.mk' (Keeps.refl _) (.refl _) le_rfl

end Sys2Proof.Machine
end

