-- ==== Sys2Proof/Laws/Memory.lean ====
section
/-! SUPPORT. Tables keep their canonical order under every operation, device memory keeps its canonical form under a write, and
a read after a write. -/

set_option Elab.async false
namespace Sys2Proof.Machine

theorem tblRising_mono {β : Type} {t : Tbl β} {a b : Nat} (h : a ≤ b) (k : tblRising b t = true) : tblRising a t = true := by
  cases t with
  | nil => rfl
  | cons e t =>
    simp only [tblRising, Bool.and_eq_true, decide_eq_true_eq] at k ⊢
    exact ⟨by omega, k.2⟩

theorem tblPut_rising {β : Type} (k : Nat) (v : β) (t : Tbl β) (lo : Nat) (h : lo ≤ k) (w : tblRising lo t = true) :
    tblRising lo (tblPut k v t) = true := by
  induction t generalizing lo with
  | nil => simp [tblPut, tblRising, h]
  | cons e t ih =>
    obtain ⟨k', v'⟩ := e
    simp only [tblRising, Bool.and_eq_true, decide_eq_true_eq] at w
    unfold tblPut
    split
    · simp only [tblRising, Bool.and_eq_true, decide_eq_true_eq]
      exact ⟨h, by omega, w.2⟩
    · split
      · rename_i hk
        subst hk
        simp only [tblRising, Bool.and_eq_true, decide_eq_true_eq]
        exact ⟨h, w.2⟩
      · simp only [tblRising, Bool.and_eq_true, decide_eq_true_eq]
        exact ⟨w.1, ih _ (by omega) w.2⟩

theorem tblErase_rising {β : Type} (k : Nat) (t : Tbl β) (lo : Nat) (w : tblRising lo t = true) :
    tblRising lo (tblErase k t) = true := by
  induction t generalizing lo with
  | nil => rfl
  | cons e t ih =>
    obtain ⟨k', v'⟩ := e
    simp only [tblRising, Bool.and_eq_true, decide_eq_true_eq] at w
    unfold tblErase
    split
    · exact tblRising_mono (by omega) (ih _ w.2)
    · simp only [tblRising, Bool.and_eq_true, decide_eq_true_eq]
      exact ⟨w.1, ih _ w.2⟩

theorem tblFilter_rising {β : Type} (p : Nat × β → Bool) (t : Tbl β) (lo : Nat) (w : tblRising lo t = true) :
    tblRising lo (t.filter p) = true := by
  induction t generalizing lo with
  | nil => rfl
  | cons e t ih =>
    obtain ⟨k', v'⟩ := e
    simp only [tblRising, Bool.and_eq_true, decide_eq_true_eq] at w
    rw [List.filter_cons]
    split
    · simp only [tblRising, Bool.and_eq_true, decide_eq_true_eq]
      exact ⟨w.1, ih _ w.2⟩
    · exact tblRising_mono (by omega) (ih _ w.2)

theorem tblSet_rising {β : Type} [DecidableEq β] (d : β) (k : Nat) (v : β) (t : Tbl β) (w : tblWf t = true) :
    tblWf (tblSet d k v t) = true := by
  unfold tblSet
  split
  · exact tblErase_rising k t 0 w
  · exact tblPut_rising k v t 0 (Nat.zero_le _) w

theorem mem_of_mem_tblPut {β : Type} {k : Nat} {v : β} {t : Tbl β} {e : Nat × β} (h : e ∈ tblPut k v t) : e = (k, v) ∨ e ∈ t := by
  induction t with
  | nil => simpa [tblPut] using h
  | cons f t ih =>
    obtain ⟨k', v'⟩ := f
    unfold tblPut at h
    split at h
    · simpa using h
    · split at h
      · rename_i hk
        subst hk
        rcases List.mem_cons.1 h with h | h
        · exact .inl h
        · exact .inr (List.mem_cons_of_mem _ h)
      · rcases List.mem_cons.1 h with h | h
        · exact .inr (h ▸ List.mem_cons_self)
        · rcases ih h with h | h
          · exact .inl h
          · exact .inr (List.mem_cons_of_mem _ h)

theorem mem_of_mem_tblErase {β : Type} {k : Nat} {t : Tbl β} {e : Nat × β} (h : e ∈ tblErase k t) : e ∈ t := by
  induction t with
  | nil => simp [tblErase] at h
  | cons f t ih =>
    obtain ⟨k', v'⟩ := f
    unfold tblErase at h
    split at h
    · exact List.mem_cons_of_mem _ (ih h)
    · rcases List.mem_cons.1 h with h | h
      · exact h ▸ List.mem_cons_self
      · exact List.mem_cons_of_mem _ (ih h)

/-- A key is found where it was put, every other key as before. -/
theorem tblFind_tblPut {β : Type} (k j : Nat) (v : β) (t : Tbl β) :
    tblFind j (tblPut k v t) = if j = k then some v else tblFind j t := by
  induction t with
  | nil => simp [tblPut, tblFind, eq_comm]
  | cons e t ih =>
    obtain ⟨k', v'⟩ := e
    unfold tblPut
    split
    · simp [tblFind, eq_comm]
    · split
      · rename_i hk
        subst hk
        by_cases h : j = k
        · simp [tblFind, h]
        · simp [tblFind, h, Ne.symm h]
      · rename_i h1 h2
        by_cases h : k' = j
        · subst h
          simp [tblFind, Ne.symm h2]
        · simp [tblFind, h, ih]

/-- Many keys put one after the other. -/
theorem tblFind_foldl_tblPut {β : Type} (k : Nat) (g : Nat → β) (ns : List Nat) (t : Tbl β) :
    tblFind k (ns.foldl (fun t m => tblPut m (g m) t) t) = if k ∈ ns then some (g k) else tblFind k t := by
  induction ns generalizing t with
  | nil => simp
  | cons n ns ih =>
    simp only [List.foldl_cons, ih, tblFind_tblPut, List.mem_cons]
    by_cases h : k ∈ ns
    · simp [h]
    · by_cases hn : k = n
      · subst hn; simp [h]
      · simp [h, hn]

/-- Another key than the one whose entries are dropped. -/
theorem tblFind_filter_ne {β : Type} {k n : Nat} (h : k ≠ n) (t : Tbl β) : tblFind k (t.filter fun e => e.1 != n) = tblFind k t := by
  induction t with
  | nil => rfl
  | cons e t ih =>
    obtain ⟨k', v⟩ := e
    rw [List.filter_cons]
    by_cases hk : k' = n
    · subst hk
      have : ¬k' = k := fun e => h e.symm
      simpa [tblFind, this] using ih
    · by_cases h2 : k' = k
      · simp [hk, h2, tblFind, h]
      · simp [hk, h2, tblFind, ih]

/-- An erased key is found no more, every other key as before. -/
theorem tblFind_tblErase {β : Type} (k j : Nat) (t : Tbl β) : tblFind j (tblErase k t) = if j = k then none else tblFind j t := by
  induction t with
  | nil => simp [tblErase, tblFind]
  | cons e t ih =>
    obtain ⟨k', v'⟩ := e
    unfold tblErase
    split
    · rename_i hk
      subst hk
      rw [ih]
      by_cases h : j = k'
      · simp [h]
      · simp [tblFind, h, Ne.symm h]
    · rename_i hk
      by_cases h : k' = j
      · subst h
        simp [tblFind, hk]
      · simp [tblFind, h, ih]

/-- An entry written is read back, every other entry as before. -/
theorem tblGet_tblSet {β : Type} [DecidableEq β] (d : β) (k j : Nat) (v : β) (t : Tbl β) :
    tblGet d j (tblSet d k v t) = if j = k then v else tblGet d j t := by
  unfold tblGet tblSet
  split
  · rename_i h
    rw [tblFind_tblErase]; split
    · exact h.symm
    · rfl
  · rw [tblFind_tblPut]; split <;> rfl

/-- Memory in canonical form, with `f` saying where an unlisted byte reads as a free value. -/
def memWf (f : Nat → Bool) (t : Tbl Byte) : Prop := tblWf t = true ∧ ∀ e ∈ t, e.2 ≠ 0 ∨ f e.1 = true

theorem memory_wf_iff (s : State) : Memory.wf s = true ↔ memWf (fun a => (s.vagueAt a).isSome) s.mem := by
  unfold Memory.wf memWf
  simp only [Bool.and_eq_true, List.all_eq_true, Bool.or_eq_true, bne_iff_ne, Prod.forall, ne_eq]

theorem memWf_put {f : Nat → Bool} {t : Tbl Byte} (a : Nat) (v : Byte) (h : v ≠ 0 ∨ f a = true) (w : memWf f t) :
    memWf f (tblPut a v t) := by
  refine ⟨tblPut_rising a v t 0 (Nat.zero_le _) w.1, fun e he => ?_⟩
  rcases mem_of_mem_tblPut he with h' | h'
  · subst h'; exact h
  · exact w.2 e h'

theorem memWf_erase {f : Nat → Bool} {t : Tbl Byte} (a : Nat) (w : memWf f t) : memWf f (tblErase a t) :=
  ⟨tblErase_rising a t 0 w.1, fun e he => w.2 e (mem_of_mem_tblErase he)⟩

/-- A byte written keeps the canonical form. -/
theorem memWf_step {f : Nat → Bool} {t : Tbl Byte} (a : Nat) (v : Byte) (w : memWf f t) :
    memWf f (if f a then tblPut a v t else tblSet 0 a v t) := by
  unfold tblSet
  split
  · exact memWf_put a v (.inr ‹_›) w
  · split
    · exact memWf_erase a w
    · exact memWf_put a v (.inl ‹_›) w

/-- What a byte written makes of a read. -/
theorem step_read {f : Nat → Bool} {t : Tbl Byte} (a : Nat) (v : Byte) (w : memWf f t) (j : Nat) (d : Byte)
    (hd : f j = false → d = 0) :
    (tblFind j (if f a then tblPut a v t else tblSet 0 a v t)).getD d = if j = a then v else (tblFind j t).getD d := by
  unfold tblSet
  split
  · rw [tblFind_tblPut]; split <;> rfl
  · rename_i h
    split
    · rename_i hv
      rw [tblFind_tblErase]
      split
      · rename_i hj
        subst hj
        rw [hv]
        exact hd (by simpa using h)
      · rfl
    · rw [tblFind_tblPut]; split <;> rfl

/-- A write keeps the canonical form. -/
theorem putMem_wf (f : Nat → Bool) (a : Nat) (bs : List (Option Byte)) (t : Tbl Byte) (w : memWf f t) :
    memWf f (putMem f a bs t) := by
  induction bs generalizing a t with
  | nil => exact w
  | cons b bs ih =>
    unfold putMem
    apply ih
    cases b with
    | none => exact w
    | some v => exact memWf_step a v w

/-- What a listed byte reads as after a write: the byte written where the write covers the address and carries one, the old
byte elsewhere. -/
theorem putMem_read (f : Nat → Bool) (a : Nat) (bs : List (Option Byte)) (t : Tbl Byte) (w : memWf f t) (j : Nat) (d : Byte)
    (hd : f j = false → d = 0) :
    (tblFind j (putMem f a bs t)).getD d =
      if a ≤ j then (match bs.getD (j - a) none with | some v => v | none => (tblFind j t).getD d)
      else (tblFind j t).getD d := by
  induction bs generalizing a t with
  | nil => simp [putMem]
  | cons b bs ih =>
    unfold putMem
    cases b with
    | none =>
      rw [ih (a + 1) t w]
      rcases Nat.lt_trichotomy a j with h | h | h
      · have e : j - a = (j - (a + 1)) + 1 := by omega
        have h1 : a ≤ j := by omega
        have h2 : a + 1 ≤ j := by omega
        simp [e, h1, h2]
      · subst h; simp
      · have h1 : ¬a ≤ j := by omega
        have h2 : ¬a + 1 ≤ j := by omega
        simp [h1, h2]
    | some v =>
      rw [ih (a + 1) _ (memWf_step a v w), step_read a v w j d hd]
      rcases Nat.lt_trichotomy a j with h | h | h
      · have e : j - a = (j - (a + 1)) + 1 := by omega
        have h1 : a ≤ j := by omega
        have h2 : a + 1 ≤ j := by omega
        have h3 : j ≠ a := by omega
        simp [e, h1, h2, h3]
      · subst h; simp
      · have h1 : ¬a ≤ j := by omega
        have h2 : ¬a + 1 ≤ j := by omega
        have h3 : j ≠ a := by omega
        simp [h1, h2, h3]

end Sys2Proof.Machine
end

