-- ==== Sys2Proof/Laws/KeepsMem.lean ====
section
/-! SUPPORT. What the operations and commands of Machine/Mem.lean keep: one lemma for each. -/

set_option Elab.async false
namespace Sys2Proof.Machine

theorem State.markGrans_keeps (s : State) (g : Nat) (n : Nat) : Keeps s (State.markGrans s g n) := by
  unfold State.markGrans
  refine Keeps.foldl (fun _ _ => ?_) ?_
  · exact Keeps.mk' (Keeps.refl _) (.refl _) le_rfl
  · exact Keeps.refl _

theorem State.touchHeads_keeps (s : State) (pa : Nat) (n : Nat) : Keeps s (State.touchHeads s pa n) := by
  unfold State.touchHeads
  refine Keeps.ite (fun _ => ?_) (fun _ => ?_)
  · exact Keeps.mk' (Keeps.refl _) (.refl _) le_rfl
  · exact Keeps.refl _

theorem State.devWriteMask_keeps (s : State) (pa : Nat) (bs : List (Option Byte)) : Keeps s (State.devWriteMask s pa bs) := by
  unfold State.devWriteMask
  refine Keeps.ite (fun _ => Keeps.refl _) (fun _ => ?_)
  extract_lets mark hit mem poison z1 z2 z3
  have h1 : Keeps s z1 :=
    ⟨rfl, fun w => (memory_wf_iff z1).2 (putMem_wf _ pa bs s.mem ((memory_wf_iff s).1 w)), SecLe.refl _, Nat.le_refl _, id⟩
  clear_value z1
  have h2 : Keeps s z2 := by
    unfold z2
    refine Keeps.ite (fun _ => ?_) (fun _ => h1)
    exact Keeps.mk' h1 (.refl _) le_rfl
  clear_value z2
  have h3 : Keeps s z3 := by
    unfold z3
    refine Keeps.ite (fun _ => ?_) (fun _ => h2)
    refine (State.bumpFree_keeps ..).of ?_
    exact Keeps.mk' h2 (.refl _) le_rfl
  clear_value z3
  exact (h3.trans (State.markGrans_keeps ..)).trans (State.touchHeads_keeps ..)

theorem State.devWrite_keeps (s : State) (pa : Nat) (bs : List Byte) : Keeps s (State.devWrite s pa bs) := by
  unfold State.devWrite
  exact State.devWriteMask_keeps ..

theorem State.eccEvent_keeps (s : State) (pa : Nat) (uncorr : Bool) (patrol : Bool) : Keeps s (State.eccEvent s pa uncorr patrol) := by
  unfold State.eccEvent
  extract_lets +onlyGivenNames z1
  clear_value z1
  extract_lets +onlyGivenNames z2
  clear_value z2
  split
  · refine (State.setReg_keeps ..).of ?_
    refine (State.setReg_keeps ..).of ?_
    refine (Keeps.snd (State.captureAt_keeps ..) (by assumption)).of ?_
    exact Keeps.refl _
  · refine (Keeps.snd (State.captureAt_keeps ..) (by assumption)).of ?_
    exact Keeps.refl _

theorem State.eccFind_keeps (s : State) (e : EccFind) (patrol : Bool) : Keeps s (State.eccFind s e patrol) := by
  unfold State.eccFind
  split
  · exact Keeps.refl _
  · refine Keeps.ite (fun _ => ?_) (fun _ => ?_)
    · exact Keeps.refl _
    · extract_lets +onlyGivenNames z1
      refine Keeps.cut (b := z1) ?_ ?_
      · unfold z1
        refine (State.eccEvent_keeps ..).of ?_
        exact State.count_keeps ..
      · intro hz1
        extract_lets +onlyGivenNames z2
        refine Keeps.cut (b := z2) ?_ ?_
        · unfold z2
          exact (State.raiseAs_keeps ..).of ‹_›
        · intro hz2
          exact Keeps.mk' ‹_› (.refl _) le_rfl
  · refine Keeps.ite (fun _ => ?_) (fun _ => ?_)
    · exact Keeps.refl _
    · extract_lets +onlyGivenNames z1
      refine Keeps.cut (b := z1) ?_ ?_
      · unfold z1
        exact Keeps.mk' (Keeps.refl _) (.refl _) le_rfl
      · intro hz1
        extract_lets +onlyGivenNames z2
        refine Keeps.cut (b := z2) ?_ ?_
        · unfold z2
          refine (State.eccEvent_keeps ..).of ?_
          exact (State.count_keeps ..).of ‹_›
        · intro hz2
          exact (State.cause_keeps ..).of ‹_›

theorem State.xlatePage_keeps (s : State) (k : Nat) (va : Nat) (write : Bool) (a : Asker) : Keeps s (State.xlatePage s k va write a).1 := by
  unfold State.xlatePage
  extract_lets +onlyGivenNames z1
  clear_value z1
  extract_lets +onlyGivenNames z2
  clear_value z2
  extract_lets +onlyGivenNames z3
  split
  · unfold z3
    extract_lets +onlyGivenNames z4
    refine Keeps.cut (b := z4) ?_ ?_
    · unfold z4
      refine (State.count_keeps ..).of ?_
      exact State.count_keeps ..
    · intro hz4
      split
      · extract_lets +onlyGivenNames z5
        clear_value z5
        refine Keeps.mk_fst ?_
        exact Keeps.mk' ‹_› (.refl _) le_rfl
      · refine Keeps.mk_fst ?_
        assumption
  · extract_lets +onlyGivenNames z4
    clear_value z4
    extract_lets +onlyGivenNames z5
    clear_value z5
    refine Keeps.ite_fst (fun _ => ?_) (fun _ => ?_)
    · refine Keeps.mk_fst ?_
      exact Keeps.refl _
    · refine Keeps.ite_fst (fun _ => ?_) (fun _ => ?_)
      · refine Keeps.mk_fst ?_
        exact State.bumpFree_keeps ..
      · unfold z3
        extract_lets +onlyGivenNames z6
        refine Keeps.cut (b := z6) ?_ ?_
        · unfold z6
          refine (State.count_keeps ..).of ?_
          refine (State.count_keeps ..).of ?_
          exact State.bumpFree_keeps ..
        · intro hz6
          split
          · extract_lets +onlyGivenNames z7
            clear_value z7
            refine Keeps.mk_fst ?_
            exact Keeps.mk' ‹_› (.refl _) le_rfl
          · refine Keeps.mk_fst ?_
            assumption

theorem State.xlate_keeps (s : State) (k : Nat) (va : Nat) (write : Bool) (a : Asker) : Keeps s (State.xlate s k va write a).1 := by
  unfold State.xlate
  split
  · refine Keeps.mk_fst ?_
    refine (Keeps.fst (State.xlatePage_keeps ..) (by assumption)).of ?_
    exact Keeps.refl _
  · refine Keeps.ite_fst (fun _ => ?_) (fun _ => ?_)
    · refine Keeps.mk_fst ?_
      refine (Keeps.fst (State.xlatePage_keeps ..) (by assumption)).of ?_
      exact Keeps.refl _
    · split
      · refine Keeps.mk_fst ?_
        refine (Keeps.fst (State.xlatePage_keeps ..) (by assumption)).of ?_
        exact Keeps.refl _
      · refine Keeps.mk_fst ?_
        refine (Keeps.fst (State.xlatePage_keeps ..) (by assumption)).of ?_
        exact Keeps.refl _

theorem State.xlateRange_keeps (s : State) (k : Nat) (write : Bool) (a : Asker) (f va off len : Nat) (acc : List Seg) :
    Keeps s (State.xlateRange s k write a f va off len acc).1 := by
  induction f generalizing s va off len acc with
  | zero => exact Keeps.refl _
  | succ f ih =>
    unfold State.xlateRange
    refine Keeps.ite_fst (fun _ => ?_) (fun _ => ?_)
    · refine Keeps.mk_fst ?_
      exact Keeps.refl _
    · extract_lets +onlyGivenNames z1
      clear_value z1
      split
      · refine Keeps.mk_fst ?_
        refine (Keeps.fst (State.xlate_keeps ..) (by assumption)).of ?_
        exact Keeps.refl _
      · refine (ih ..).of ?_
        refine (Keeps.fst (State.xlate_keeps ..) (by assumption)).of ?_
        exact Keeps.refl _


theorem State.segs_keeps (s : State) (k : Nat) (va : Nat) (len : Nat) (write : Bool) (a : Asker) : Keeps s (State.segs s k va len write a).1 := by
  unfold State.segs
  exact State.xlateRange_keeps ..

theorem State.segWrite_keeps (s : State) (k : Nat) (marks : Bool) (l : List Seg) (bs : List Byte) :
    Keeps s (State.segWrite s k marks l bs) := by
  induction l generalizing s bs with
  | nil => exact Keeps.refl _
  | cons g l ih =>
    obtain ⟨o, d, n⟩ := g
    cases d with
    | hbm pa =>
      unfold State.segWrite
      refine (ih ..).of ?_
      exact State.devWrite_keeps ..
    | host a =>
      unfold State.segWrite
      refine (ih ..).of ?_
      exact State.hostWrite_keeps ..


theorem State.xFault_keeps (s : State) (k : Nat) (va : Nat) (write : Bool) (a : Asker) (x : XErr) : Keeps s (State.xFault s k va write a x) := by
  unfold State.xFault
  extract_lets +onlyGivenNames z1
  split
  · refine (State.cause_keeps ..).of ?_
    unfold z1
    extract_lets +onlyGivenNames z2
    clear_value z2
    split
    · refine (State.setReg_keeps ..).of ?_
      refine (State.setReg_keeps ..).of ?_
      refine (Keeps.snd (State.captureAt_keeps ..) (by assumption)).of ?_
      exact State.count_keeps ..
    · refine (Keeps.snd (State.captureAt_keeps ..) (by assumption)).of ?_
      exact State.count_keeps ..
  · refine (State.cause_keeps ..).of ?_
    unfold z1
    extract_lets +onlyGivenNames z2
    clear_value z2
    split
    · refine (State.setReg_keeps ..).of ?_
      refine (State.setReg_keeps ..).of ?_
      refine (Keeps.snd (State.captureAt_keeps ..) (by assumption)).of ?_
      exact State.count_keeps ..
    · refine (Keeps.snd (State.captureAt_keeps ..) (by assumption)).of ?_
      exact State.count_keeps ..
  · exact Keeps.refl _

theorem State.dropTlb_keeps (s : State) (k : Nat) : Keeps s (State.dropTlb s k) := by
  unfold State.dropTlb
  exact Keeps.mk' (Keeps.refl _) (.refl _) le_rfl

theorem State.dropL1_keeps (s : State) (n : Nat) (k : Nat) : Keeps s (State.dropL1 s n k) := by
  unfold State.dropL1
  extract_lets +onlyGivenNames z1
  refine Keeps.cut (b := z1) ?_ ?_
  · unfold z1
    exact State.count_keeps ..
  · intro hz1
    exact Keeps.mk' ‹_› (.refl _) le_rfl

theorem State.flushL1_keeps (s : State) (n : Nat) : Keeps s (State.flushL1 s n) := by
  unfold State.flushL1
  extract_lets +onlyGivenNames z1
  refine Keeps.cut (b := z1) ?_ ?_
  · unfold z1
    exact State.count_keeps ..
  · intro hz1
    exact Keeps.mk' ‹_› (.refl _) le_rfl

end Sys2Proof.Machine
end

