-- ==== Sys2Proof/Laws/KeepsQueues.lean ====
section
/-! SUPPORT. What the operations and commands of Machine/Queues.lean keep: one lemma for each. -/

set_option Elab.async false
namespace Sys2Proof.Machine

theorem State.faultRecord_keeps (s : State) (h : Nat) (p : Pos) (kind : Nat) (code : Nat) (detail : Nat) : Keeps s (State.faultRecord s h p kind code detail) := by
  unfold State.faultRecord
  extract_lets +onlyGivenNames z1
  clear_value z1
  refine Keeps.ite (fun _ => ?_) (fun _ => ?_)
  · exact State.count_keeps ..
  · split
    · refine (State.segWrite_keeps ..).of ?_
      refine (Keeps.fst (State.segs_keeps ..) (by assumption)).of ?_
      exact Keeps.refl _
    · refine (State.count_keeps ..).of ?_
      refine (Keeps.fst (State.segs_keeps ..) (by assumption)).of ?_
      exact Keeps.refl _

theorem State.endWaits_keeps (s : State) (h : Nat) : Keeps s (State.endWaits s h) := by
  unfold State.endWaits
  exact Keeps.mk' (Keeps.refl _) (.refl _) le_rfl

theorem State.enterFaulted_keeps (s : State) (h : Nat) (code : Nat) (p : Pos) (kind : Nat) (detail : Nat) : Keeps s (State.enterFaulted s h code p kind detail) := by
  unfold State.enterFaulted
  extract_lets +onlyGivenNames z1
  clear_value z1
  refine Keeps.ite (fun _ => ?_) (fun _ => ?_)
  · exact Keeps.refl _
  · extract_lets +onlyGivenNames z2
    refine Keeps.cut (b := z2) ?_ ?_
    · unfold z2
      exact State.setQueue_keeps ..
    · intro hz2
      extract_lets +onlyGivenNames z3
      refine Keeps.cut (b := z3) ?_ ?_
      · unfold z3
        split
        · exact Keeps.mk' ‹_› (.refl _) le_rfl
        · assumption
      · intro hz3
        extract_lets +onlyGivenNames z4
        refine Keeps.cut (b := z4) ?_ ?_
        · unfold z4
          refine (State.capture31_keeps ..).of ?_
          exact (State.count_keeps ..).of ‹_›
        · intro hz4
          extract_lets +onlyGivenNames z5
          refine Keeps.cut (b := z5) ?_ ?_
          · unfold z5
            refine (State.endWaits_keeps ..).of ?_
            exact (State.cause_keeps ..).of ‹_›
          · intro hz5
            extract_lets +onlyGivenNames z6
            refine Keeps.cut (b := z6) ?_ ?_
            · unfold z6
              exact (State.faultRecord_keeps ..).of ‹_›
            · intro hz6
              refine Keeps.ite (fun _ => ?_) (fun _ => ?_)
              · exact (State.msixEvent_keeps ..).of ‹_›
              · assumption

theorem State.raiseQ_keeps (s : State) (h : Nat) (code : Nat) (detail : Nat) (was : Bool) : Keeps s (State.raiseQ s h code detail was) := by
  unfold State.raiseQ
  extract_lets +onlyGivenNames z1
  clear_value z1
  exact State.raiseAs_keeps ..

theorem State.queueFault_keeps (s : State) (h : Nat) (code : Nat) (p : Pos) (kind : Nat) (recDetail : Nat) (detail : Nat) : Keeps s (State.queueFault s h code p kind recDetail detail) := by
  unfold State.queueFault
  extract_lets +onlyGivenNames z1
  clear_value z1
  refine (State.raiseQ_keeps ..).of ?_
  exact State.enterFaulted_keeps ..

theorem State.cmdFault_keeps (s : State) (h : Nat) (code : Nat) (p : Pos) : Keeps s (State.cmdFault s h code p) := by
  unfold State.cmdFault
  extract_lets +onlyGivenNames z1
  refine Keeps.cut (b := z1) ?_ ?_
  · unfold z1
    refine Keeps.ite (fun _ => ?_) (fun _ => ?_)
    · refine (State.cause_keeps ..).of ?_
      exact State.countField_keeps ..
    · refine Keeps.ite (fun _ => ?_) (fun _ => ?_)
      · refine (State.cause_keeps ..).of ?_
        exact State.countField_keeps ..
      · exact Keeps.refl _
  · intro hz1
    exact (State.queueFault_keeps ..).of ‹_›

theorem State.accessFault_keeps (s : State) (h : Nat) (va : Nat) (write : Bool) (a : Asker) (x : XErr) (p : Pos) (kind : Nat) (prog : Option Nat) : Keeps s (State.accessFault s h va write a x p kind prog) := by
  unfold State.accessFault
  extract_lets +onlyGivenNames z1
  clear_value z1
  extract_lets +onlyGivenNames z2
  refine Keeps.cut (b := z2) ?_ ?_
  · unfold z2
    exact State.xFault_keeps ..
  · intro hz2
    extract_lets +onlyGivenNames z3
    clear_value z3
    extract_lets +onlyGivenNames z4
    refine Keeps.cut (b := z4) ?_ ?_
    · unfold z4
      exact (State.enterFaulted_keeps ..).of ‹_›
    · intro hz4
      extract_lets +onlyGivenNames z5
      clear_value z5
      extract_lets +onlyGivenNames z6
      clear_value z6
      exact (State.raiseAs_keeps ..).of ‹_›

theorem State.aerRead_keeps (s : State) (k : Nat) (c : Cpl) : Keeps s (State.aerRead s k c) := by
  unfold State.aerRead
  extract_lets +onlyGivenNames z1
  clear_value z1
  extract_lets +onlyGivenNames z2
  split
  · unfold z2
    exact State.setFn_keeps ..
  · unfold z2
    exact State.setFn_keeps ..
  · unfold z2
    exact State.setFn_keeps ..
  · unfold z2
    exact State.setFn_keeps ..
  · exact Keeps.refl _

theorem State.hostReadErr_keeps (s : State) (k : Nat) (h : Nat) (c : Cpl) : Keeps s (State.hostReadErr s k h c) := by
  unfold State.hostReadErr
  split
  · refine (State.cause_keeps ..).of ?_
    refine (Keeps.snd (State.captureAt_keeps ..) (by assumption)).of ?_
    exact State.aerRead_keeps ..
  · refine (Keeps.snd (State.captureAt_keeps ..) (by assumption)).of ?_
    exact State.aerRead_keeps ..

theorem State.hostReadFault_keeps (s : State) (h : Nat) (c : Cpl) (p : Pos) (kind : Nat) (prog : Option Nat) : Keeps s (State.hostReadFault s h c p kind prog) := by
  unfold State.hostReadFault
  extract_lets +onlyGivenNames z1
  clear_value z1
  extract_lets +onlyGivenNames z2
  refine Keeps.cut (b := z2) ?_ ?_
  · unfold z2
    exact State.hostReadErr_keeps ..
  · intro hz2
    extract_lets +onlyGivenNames z3
    clear_value z3
    exact (State.queueFault_keeps ..).of ‹_›

theorem State.issueRead_keeps (s : State) (k : Nat) (w : ReadFor) (a : Nat) (len : Nat) : Keeps s (State.issueRead s k w a len) := by
  unfold State.issueRead
  refine Keeps.ite (fun _ => ?_) (fun _ => ?_)
  · extract_lets +onlyGivenNames z1
    refine Keeps.cut (b := z1) ?_ ?_
    · unfold z1
      exact State.atsUse_keeps ..
    · intro hz1
      exact Keeps.mk' ‹_› (.refl _) le_rfl
  · exact Keeps.refl _

theorem State.fetchRing_keeps (h n : Nat) (s : State) :
    Keeps s (State.fetchRing h n s) := by
  induction n generalizing s with
  | zero => exact Keeps.refl _
  | succ n ih =>
    unfold State.fetchRing
    extract_lets +onlyGivenNames z1
    clear_value z1
    extract_lets +onlyGivenNames z2
    clear_value z2
    extract_lets +onlyGivenNames z3
    clear_value z3
    refine Keeps.ite (fun _ => ?_) (fun _ => ?_)
    · exact Keeps.refl _
    · extract_lets +onlyGivenNames z4
      clear_value z4
      extract_lets +onlyGivenNames z5
      clear_value z5
      extract_lets +onlyGivenNames z6
      clear_value z6
      extract_lets +onlyGivenNames z7
      clear_value z7
      extract_lets +onlyGivenNames z8
      refine Keeps.cut (b := z8) ?_ ?_
      · unfold z8
        exact State.setQueue_keeps ..
      · intro hz8
        refine Keeps.ite (fun _ => ?_) (fun _ => ?_)
        · refine (ih ..).of ?_
          exact (State.issueRead_keeps ..).of ‹_›
        · extract_lets +onlyGivenNames z9
          clear_value z9
          refine (ih ..).of ?_
          exact (State.setQueue_keeps ..).of ‹_›


theorem State.fetch_keeps (s : State) (h : Nat) : Keeps s (State.fetch s h) := by
  unfold State.fetch
  extract_lets +onlyGivenNames z1
  clear_value z1
  refine Keeps.ite (fun _ => ?_) (fun _ => ?_)
  · exact State.fetchRing_keeps ..
  · exact Keeps.refl _

theorem State.fetchPieces_keeps (h k depth va : Nat) (l : List (Nat × Nat)) (s : State) (got : Tbl (List W)) (bad : List (Nat × Nat × Cpl)) :
    Keeps s (State.fetchPieces h k depth va l s got bad).1 := by
  induction l generalizing s got bad with
  | nil => exact Keeps.refl _
  | cons p l ih =>
    obtain ⟨o, m⟩ := p
    unfold State.fetchPieces
    split
    · refine (ih ..).of ?_
      refine (Keeps.fst (State.xlate_keeps ..) (by assumption)).of ?_
      exact Keeps.refl _
    · refine Keeps.ite_fst (fun _ => ?_) (fun _ => ?_)
      · refine (ih ..).of ?_
        refine (State.issueRead_keeps ..).of ?_
        refine (Keeps.fst (State.xlate_keeps ..) (by assumption)).of ?_
        exact Keeps.refl _
      · refine (ih ..).of ?_
        refine (Keeps.fst (State.xlate_keeps ..) (by assumption)).of ?_
        exact Keeps.refl _
    · refine (ih ..).of ?_
      refine (Keeps.fst (State.xlate_keeps ..) (by assumption)).of ?_
      exact Keeps.refl _


theorem State.leave_keeps (h n : Nat) (s : State) :
    Keeps s (State.leave h n s) := by
  induction n generalizing s with
  | zero => exact Keeps.refl _
  | succ n ih =>
    unfold State.leave
    extract_lets +onlyGivenNames z1
    clear_value z1
    split
    · exact Keeps.refl _
    · refine Keeps.ite (fun _ => ?_) (fun _ => ?_)
      · exact Keeps.refl _
      · split
        · refine Keeps.ite (fun _ => ?_) (fun _ => ?_)
          · exact State.cmdFault_keeps ..
          · refine (ih ..).of ?_
            exact State.setQueue_keeps ..
        · refine (ih ..).of ?_
          exact State.setQueue_keeps ..


theorem State.advance_keeps (s : State) (h : Nat) (f : Front) : Keeps s (State.advance s h f) := by
  unfold State.advance
  extract_lets +onlyGivenNames z1
  clear_value z1
  extract_lets +onlyGivenNames z2
  refine Keeps.cut (b := z2) ?_ ?_
  · unfold z2
    split
    · exact State.setQueue_keeps ..
    · exact State.setQueue_keeps ..
  · intro hz2
    refine (State.fetch_keeps ..).of ?_
    exact (State.leave_keeps ..).of ‹_›

theorem State.loadFrame_keeps (s : State) (h : Nat) (k : Nat) (depth : Nat) (f : Frame) : Keeps s (State.loadFrame s h k depth f).1 := by
  unfold State.loadFrame
  dsimp -zeta -zetaHave only
  refine Keeps.ite_fst (fun _ => ?_) (fun _ => ?_)
  · extract_lets +onlyGivenNames z1
    clear_value z1
    extract_lets +onlyGivenNames z2
    refine Keeps.cut (b := z2) ?_ ?_
    · unfold z2
      refine Keeps.mk' ?_ (.refl _) le_rfl
      exact State.segs_keeps ..
    · intro hz2
      extract_lets +onlyGivenNames z3
      clear_value z3
      extract_lets +onlyGivenNames z4
      clear_value z4
      refine Keeps.mk_fst ?_
      exact (State.fetchPieces_keeps ..).of ‹_›
  · refine Keeps.mk_fst ?_
    exact State.segs_keeps ..

theorem State.refreshFrames_keeps (s : State) (h : Nat) : Keeps s (State.refreshFrames s h) := by
  unfold State.refreshFrames
  extract_lets +onlyGivenNames z1
  clear_value z1
  extract_lets +onlyGivenNames z2
  refine Keeps.cut (b := z2.1) ?_ ?_
  · unfold z2
    refine Keeps.foldr_fst (fun _ _ => ?_) ?_
    · dsimp -zeta -zetaHave only
      exact State.loadFrame_keeps ..
    · refine Keeps.mk_fst ?_
      exact Keeps.refl _
  · intro hz2
    exact (State.setQueue_keeps ..).of ‹_›

theorem State.countDone_keeps (s : State) (h : Nat) (hdr : W) : Keeps s (State.countDone s h hdr) := by
  unfold State.countDone
  extract_lets +onlyGivenNames z1
  clear_value z1
  extract_lets +onlyGivenNames z2
  refine Keeps.cut (b := z2) ?_ ?_
  · unfold z2
    exact State.setQueue_keeps ..
  · intro hz2
    refine Keeps.ite (fun _ => ?_) (fun _ => ?_)
    · exact (State.msixEvent_keeps ..).of ‹_›
    · assumption

theorem State.completeOne_keeps (s : State) (c : Cmd) : Keeps s (State.completeOne s c) := by
  unfold State.completeOne
  extract_lets +onlyGivenNames z1
  refine Keeps.cut (b := z1) ?_ ?_
  · unfold z1
    refine (State.countDone_keeps ..).of ?_
    exact Keeps.mk' (Keeps.refl _) (.refl _) le_rfl
  · intro hz1
    extract_lets +onlyGivenNames z2
    clear_value z2
    extract_lets +onlyGivenNames z3
    refine Keeps.cut (b := z3) ?_ ?_
    · unfold z3
      exact (State.setQueue_keeps ..).of ‹_›
    · intro hz3
      refine Keeps.ite (fun _ => ?_) (fun _ => ?_)
      · refine (State.fetch_keeps ..).of ?_
        exact (State.refreshFrames_keeps ..).of ‹_›
      · assumption

theorem State.storeAt_keeps (s : State) (k : Nat) (va : Nat) (d : List Byte) : Keeps s (State.storeAt s k va d).1 := by
  unfold State.storeAt
  dsimp -zeta -zetaHave only
  refine (State.segWrite_keeps ..).of ?_
  exact State.segs_keeps ..

theorem State.writeResult_keeps (s : State) (c : Cmd) (ws : List W) : Keeps s (State.writeResult s c ws) := by
  unfold State.writeResult
  extract_lets +onlyGivenNames z1
  clear_value z1
  split
  · refine (State.accessFault_keeps ..).of ?_
    refine Keeps.mk' ?_ (.refl _) le_rfl
    refine (Keeps.fst (State.storeAt_keeps ..) (by assumption)).of ?_
    exact Keeps.refl _
  · refine Keeps.ite (fun _ => ?_) (fun _ => ?_)
    · refine (State.completeOne_keeps ..).of ?_
      refine (Keeps.fst (State.storeAt_keeps ..) (by assumption)).of ?_
      exact Keeps.refl _
    · refine Keeps.mk' ?_ (.refl _) le_rfl
      refine (Keeps.fst (State.storeAt_keeps ..) (by assumption)).of ?_
      exact Keeps.refl _
  · refine (State.completeOne_keeps ..).of ?_
    refine (Keeps.fst (State.storeAt_keeps ..) (by assumption)).of ?_
    exact Keeps.refl _

theorem State.settle_keeps (s : State) (h : Nat) : Keeps s (State.settle s h) := by
  unfold State.settle
  split
  · split
    · exact State.writeResult_keeps ..
    · exact Keeps.refl _
  · exact Keeps.refl _

theorem State.complete_keeps (s : State) (c : Cmd) : Keeps s (State.complete s c) := by
  unfold State.complete
  refine (State.settle_keeps ..).of ?_
  exact State.completeOne_keeps ..

theorem State.start_keeps (s : State) (h : Nat) (f : Front) (blocking : Bool) (w : Work) : Keeps s (State.start s h f blocking w) := by
  unfold State.start
  extract_lets +onlyGivenNames z1
  clear_value z1
  refine (State.advance_keeps ..).of ?_
  exact Keeps.mk' (Keeps.refl _) (.refl _) le_rfl

theorem State.hold_keeps (s : State) (h : Nat) (f : Front) (w : Work) : Keeps s (State.hold s h f w) := by
  unfold State.hold
  exact Keeps.mk' (Keeps.refl _) (.refl _) le_rfl

theorem State.finish_keeps (s : State) (h : Nat) (f : Front) (hostWrites : Bool) : Keeps s (State.finish s h f hostWrites) := by
  unfold State.finish
  refine Keeps.ite (fun _ => ?_) (fun _ => ?_)
  · exact State.start_keeps ..
  · refine (State.countDone_keeps ..).of ?_
    exact State.advance_keeps ..

end Sys2Proof.Machine
end

