-- ==== Sys2Proof/Laws/KeepsOperands.lean ====
section
/-! SUPPORT. What the operations and commands of Machine/Operands.lean keep: one lemma for each. -/

set_option Elab.async false
namespace Sys2Proof.Machine

theorem State.firstByte_keeps (s : State) (q : Queue) (va : Nat) (write : Bool) (a : Asker) : Keeps s (State.firstByte s q va write a).1 := by
  unfold State.firstByte
  exact State.xlate_keeps ..

end Sys2Proof.Machine
end

