-- ==== Sys2Proof/Laws/KeepsWork.lean ====
section
/-! SUPPORT. What the operations and commands of Machine/Work.lean keep: one lemma for each. -/

set_option Elab.async false
namespace Sys2Proof.Machine

theorem State.tick_keeps (s : State) : Keeps s (State.tick s) := by
  unfold State.tick
  exact Keeps.mk' (Keeps.refl _) (.refl _) le_rfl

theorem State.setDividers_keeps (s : State) (r : Nat) : Keeps s (State.setDividers s r) := by
  unfold State.setDividers
  exact Keeps.mk' (Keeps.refl _) (.refl _) le_rfl

theorem State.reclaim_keeps (s : State) : Keeps s (State.reclaim s) := by
  unfold State.reclaim
  dsimp -zeta -zetaHave only
  refine (State.maxReg_keeps ..).of ?_
  refine (State.setDividers_keeps ..).of ?_
  exact State.drawNat_keeps ..

theorem State.runCtx_keeps (s : State) (n : Nat) (i : Nat) (c : Ctx) : Keeps s (State.runCtx s n i c) := by
  unfold State.runCtx
  extract_lets +onlyGivenNames z1
  refine Keeps.cut (b := z1) ?_ ?_
  · unfold z1
    refine (State.tick_keeps ..).of ?_
    exact State.setCtx_keeps ..
  · intro hz1
    extract_lets +onlyGivenNames z2
    refine Keeps.cut (b := z2) ?_ ?_
    · unfold z2
      refine Keeps.ite (fun _ => ?_) (fun _ => ?_)
      · refine (State.count_keeps ..).of ?_
        exact (State.count_keeps ..).of ‹_›
      · assumption
    · intro hz2
      extract_lets +onlyGivenNames z3
      clear_value z3
      extract_lets +onlyGivenNames z4
      clear_value z4
      extract_lets +onlyGivenNames z5
      refine Keeps.cut (b := z5) ?_ ?_
      · unfold z5
        exact (State.setCluster_keeps ..).of ‹_›
      · intro hz5
        refine Keeps.ite (fun _ => ?_) (fun _ => ?_)
        · exact (State.reclaim_keeps ..).of ‹_›
        · assumption

theorem State.switchTo_keeps (s : State) (n : Nat) : Keeps s (State.switchTo s n) := by
  unfold State.switchTo
  split
  · exact State.runCtx_keeps ..
  · extract_lets +onlyGivenNames z1
    clear_value z1
    extract_lets +onlyGivenNames z2
    clear_value z2
    extract_lets +onlyGivenNames z3
    clear_value z3
    extract_lets +onlyGivenNames z4
    clear_value z4
    extract_lets +onlyGivenNames z5
    refine Keeps.cut (b := z5) ?_ ?_
    · unfold z5
      refine Keeps.ite (fun _ => ?_) (fun _ => ?_)
      · exact State.count_keeps ..
      · exact Keeps.refl _
    · intro hz5
      exact (State.setCluster_keeps ..).of ‹_›

theorem State.kick_keeps (s : State) : Keeps s (State.kick s) := by
  unfold State.kick
  refine Keeps.foldl (fun _ _ => ?_) ?_
  · refine Keeps.ite (fun _ => ?_) (fun _ => ?_)
    · exact State.switchTo_keeps ..
    · exact Keeps.refl _
  · exact Keeps.refl _

theorem State.askYield_keeps (s : State) (i : Nat) (n : Nat) (c : Ctx) : Keeps s (State.askYield s i n c) := by
  unfold State.askYield
  refine Keeps.ite (fun _ => ?_) (fun _ => ?_)
  · exact Keeps.refl _
  · exact State.setCtx_keeps ..

theorem State.requestYield_keeps (s : State) (n : Nat) (band : Nat) : Keeps s (State.requestYield s n band) := by
  unfold State.requestYield
  split
  · split
    · refine Keeps.ite (fun _ => ?_) (fun _ => ?_)
      · exact State.askYield_keeps ..
      · exact Keeps.refl _
    · exact Keeps.refl _
  · exact Keeps.refl _

theorem State.able_keeps (s : State) (n : Nat) (i : Nat) : Keeps s (State.able s n i) := by
  unfold State.able
  split
  · exact State.switchTo_keeps ..
  · exact State.requestYield_keeps ..

theorem State.setGranMap_keeps (s : State) (n : Nat) (l : List Nat) : Keeps s (State.setGranMap s n l) := by
  unfold State.setGranMap
  exact Keeps.mk' (Keeps.refl _) (.refl _) le_rfl

theorem State.takeSlot_keeps (s : State) (n : Nat) (slot : Nat) (k : Nat) : Keeps s (State.takeSlot s n slot k) := by
  unfold State.takeSlot
  refine (State.flushL1_keeps ..).of ?_
  exact State.setGranMap_keeps ..

theorem State.leaveSlot_keeps (s : State) (n : Nat) (slot : Nat) : Keeps s (State.leaveSlot s n slot) := by
  unfold State.leaveSlot
  extract_lets +onlyGivenNames z1
  refine Keeps.cut (b := z1) ?_ ?_
  · unfold z1
    refine (State.flushL1_keeps ..).of ?_
    exact State.setGranMap_keeps ..
  · intro hz1
    refine Keeps.ite (fun _ => ?_) (fun _ => ?_)
    · assumption
    · exact (State.setCluster_keeps ..).of ‹_›

theorem State.dropCtx_keeps (s : State) (i : Nat) (n : Nat) : Keeps s (State.dropCtx s i n) := by
  unfold State.dropCtx
  split
  · exact Keeps.refl _
  · extract_lets +onlyGivenNames z1
    extract_lets +onlyGivenNames z2
    refine Keeps.cut (b := z2) ?_ ?_
    · unfold z2
      exact Keeps.mk' (Keeps.refl _) (.refl _) le_rfl
    · intro hz2
      extract_lets +onlyGivenNames z3
      refine Keeps.cut (b := z3) ?_ ?_
      · unfold z3
        refine Keeps.ite (fun _ => ?_) (fun _ => ?_)
        · exact (State.leaveSlot_keeps ..).of ‹_›
        · assumption
      · intro hz3
        refine Keeps.ite (fun _ => ?_) (fun _ => ?_)
        · exact (State.switchTo_keeps ..).of ‹_›
        · assumption

theorem State.killLaunch_keeps (s : State) (i : Nat) : Keeps s (State.killLaunch s i) := by
  unfold State.killLaunch
  split
  · exact Keeps.refl _
  · extract_lets +onlyGivenNames z1
    clear_value z1
    extract_lets +onlyGivenNames z2
    refine Keeps.cut (b := z2) ?_ ?_
    · unfold z2
      exact Keeps.mk' (Keeps.refl _) (.refl _) le_rfl
    · intro hz2
      extract_lets +onlyGivenNames z3
      refine Keeps.cut (b := z3) ?_ ?_
      · unfold z3
        refine Keeps.foldl (fun _ _ => ?_) ?_
        · exact State.dropCtx_keeps ..
        · assumption
      · intro hz3
        extract_lets +onlyGivenNames z4
        clear_value z4
        extract_lets +onlyGivenNames z5
        refine Keeps.cut (b := z5) ?_ ?_
        · unfold z5
          refine Keeps.ite (fun _ => ?_) (fun _ => ?_)
          · exact (State.setQueue_keeps ..).of ‹_›
          · assumption
        · intro hz5
          exact Keeps.mk' ‹_› (.refl _) le_rfl

theorem State.launchFault_keeps (s : State) (i : Nat) (code : Nat) (detail : Nat) (base : Nat) : Keeps s (State.launchFault s i code detail base) := by
  unfold State.launchFault
  split
  · exact Keeps.refl _
  · extract_lets +onlyGivenNames z1
    clear_value z1
    extract_lets +onlyGivenNames z2
    clear_value z2
    extract_lets +onlyGivenNames z3
    refine Keeps.cut (b := z3) ?_ ?_
    · unfold z3
      refine (State.enterFaulted_keeps ..).of ?_
      exact State.killLaunch_keeps ..
    · intro hz3
      exact (State.raiseAs_keeps ..).of ‹_›

theorem State.trapNote_keeps (s : State) (n : Nat) (v : Nat) (pc : Nat) (value : Nat) (detail : Nat) (item : Nat) : Keeps s (State.trapNote s n v pc value detail item) := by
  unfold State.trapNote
  split
  · extract_lets +onlyGivenNames z1
    refine Keeps.cut (b := z1) ?_ ?_
    · unfold z1
      refine (State.setReg_keeps ..).of ?_
      refine (State.setReg_keeps ..).of ?_
      refine (Keeps.snd (State.captureAt_keeps ..) (by assumption)).of ?_
      exact Keeps.refl _
    · intro hz1
      extract_lets +onlyGivenNames z2
      refine Keeps.cut (b := z2) ?_ ?_
      · unfold z2
        refine (State.setReg_keeps ..).of ?_
        exact (State.setReg_keeps ..).of ‹_›
      · intro hz2
        exact (State.cause_keeps ..).of ‹_›
  · refine (Keeps.snd (State.captureAt_keeps ..) (by assumption)).of ?_
    exact Keeps.refl _

theorem State.trapCapture_keeps (s : State) (i : Nat) (n : Nat) (cause : Nat) (detail : Nat) (value : Nat) (pc : Nat) : Keeps s (State.trapCapture s i n cause detail value pc) := by
  unfold State.trapCapture
  cases (tblFind i s.launches)
  · dsimp -zeta -zetaHave only
    exact Keeps.refl _
  · cases (s.ctx i n)
    · dsimp -zeta -zetaHave only
      exact Keeps.refl _
    · dsimp -zeta -zetaHave only
      refine (State.trapNote_keeps ..).of ?_
      exact State.count_keeps ..

theorem State.yardTrap_keeps (s : State) (i : Nat) (n : Nat) (cause : Nat) (detail : Nat) (value : Nat) (pc : Nat) : Keeps s (State.yardTrap s i n cause detail value pc) := by
  unfold State.yardTrap
  refine (State.launchFault_keeps ..).of ?_
  exact State.trapCapture_keeps ..

theorem State.engineFault_keeps (s : State) (i : Nat) (n : Nat) (va : Nat) (write : Bool) (a : Asker) (x : XErr) : Keeps s (State.engineFault s i n va write a x) := by
  unfold State.engineFault
  split
  · exact Keeps.refl _
  · extract_lets +onlyGivenNames z1
    refine Keeps.cut (b := z1) ?_ ?_
    · unfold z1
      refine (State.xFault_keeps ..).of ?_
      exact State.count_keeps ..
    · intro hz1
      exact (State.launchFault_keeps ..).of ‹_›

theorem State.launchDone_keeps (s : State) (i : Nat) : Keeps s (State.launchDone s i) := by
  unfold State.launchDone
  split
  · exact Keeps.refl _
  · extract_lets +onlyGivenNames z1
    refine Keeps.cut (b := z1) ?_ ?_
    · unfold z1
      exact Keeps.mk' (Keeps.refl _) (.refl _) le_rfl
    · intro hz1
      split
      · exact (State.complete_keeps ..).of ‹_›
      · assumption

theorem State.killInstLaunches_keeps (s : State) (k : Nat) : Keeps s (State.killInstLaunches s k) := by
  unfold State.killInstLaunches
  refine Keeps.foldl (fun _ _ => ?_) ?_
  · dsimp -zeta -zetaHave only
    exact State.killLaunch_keeps ..
  · exact Keeps.refl _

end Sys2Proof.Machine
end

