-- ==== Sys2Proof/Laws/KeepsHub.lean ====
section
/-! SUPPORT. What the operations and commands of Machine/Hub.lean keep: one lemma for each. -/

set_option Elab.async false
namespace Sys2Proof.Machine

theorem State.syncEvent_keeps (s : State) (i : Nat) (kind : Nat) : Keeps s (State.syncEvent s i kind) := by
  unfold State.syncEvent
  exact State.capture31_keeps ..

theorem State.svStatus_keeps (s : State) (k : Nat) (id : Nat) (r : Nat) : Keeps s (State.svStatus s k id r) := by
  unfold State.svStatus
  exact State.setReg_keeps ..

theorem State.opResult_keeps (s : State) (who : Issuer) (id : Nat) (r : Nat) : Keeps s (State.opResult s who id r) := by
  unfold State.opResult
  split
  · exact State.svStatus_keeps ..
  · split
    · exact State.setCtx_keeps ..
    · exact Keeps.refl _
  · exact Keeps.refl _

theorem State.endCmd_keeps (s : State) (c : Nat) : Keeps s (State.endCmd s c).2 := by
  unfold State.endCmd
  refine Keeps.mk_snd ?_
  exact Keeps.mk' (Keeps.refl _) (.refl _) le_rfl

theorem State.misuse_keeps (s : State) (who : Issuer) (id : Nat) : Keeps s (State.misuse s who id) := by
  unfold State.misuse
  split
  · split
    · refine (State.cmdFault_keeps ..).of ?_
      refine (Keeps.snd (State.endCmd_keeps ..) (by assumption)).of ?_
      exact Keeps.refl _
    · refine (Keeps.snd (State.endCmd_keeps ..) (by assumption)).of ?_
      exact Keeps.refl _
  · exact State.yardTrap_keeps ..
  · refine (State.svStatus_keeps ..).of ?_
    exact State.countField_keeps ..
  · exact Keeps.refl _

theorem State.syncFault_keeps (s : State) (i : Nat) (under : Bool) (who : Issuer) : Keeps s (State.syncFault s i under who) := by
  unfold State.syncFault
  extract_lets +onlyGivenNames z1
  clear_value z1
  extract_lets +onlyGivenNames z2
  clear_value z2
  extract_lets +onlyGivenNames z3
  clear_value z3
  extract_lets +onlyGivenNames z4
  refine Keeps.cut (b := z4) ?_ ?_
  · unfold z4
    exact State.setObj_keeps ..
  · intro hz4
    extract_lets +onlyGivenNames z5
    refine Keeps.cut (b := z5) ?_ ?_
    · unfold z5
      refine (State.syncEvent_keeps ..).of ?_
      exact (State.count_keeps ..).of ‹_›
    · intro hz5
      extract_lets +onlyGivenNames z6
      refine Keeps.cut (b := z6) ?_ ?_
      · unfold z6
        refine (State.cause_keeps ..).of ?_
        exact (State.cause_keeps ..).of ‹_›
      · intro hz6
        extract_lets +onlyGivenNames z7
        clear_value z7
        refine Keeps.ite (fun _ => ?_) (fun _ => ?_)
        · exact (State.raiseAs_keeps ..).of ‹_›
        · split
          · split
            · extract_lets +onlyGivenNames z8
              clear_value z8
              extract_lets +onlyGivenNames z9
              refine Keeps.cut (b := z9) ?_ ?_
              · unfold z9
                refine (State.enterFaulted_keeps ..).of ?_
                exact (Keeps.snd (State.endCmd_keeps ..) (by assumption)).of ‹_›
              · intro hz9
                exact (State.raiseAs_keeps ..).of ‹_›
            · exact (Keeps.snd (State.endCmd_keeps ..) (by assumption)).of ‹_›
          · exact (State.launchFault_keeps ..).of ‹_›
          · refine (State.raiseAs_keeps ..).of ?_
            exact (State.countField_keeps ..).of ‹_›
          · assumption

theorem State.wakeCtx_keeps (s : State) (i : Nat) (n : Nat) : Keeps s (State.wakeCtx s i n) := by
  unfold State.wakeCtx
  cases (s.ctx i n)
  · dsimp -zeta -zetaHave only
    exact Keeps.refl _
  · cases (tblFind i s.launches)
    · dsimp -zeta -zetaHave only
      exact Keeps.refl _
    · dsimp -zeta -zetaHave only
      split
      · refine (State.able_keeps ..).of ?_
        refine (State.tick_keeps ..).of ?_
        refine (State.setCtx_keeps ..).of ?_
        exact State.dropL1_keeps ..
      · refine (State.setCtx_keeps ..).of ?_
        exact State.dropL1_keeps ..
      · exact State.dropL1_keeps ..
      · exact Keeps.refl _

theorem State.traceArea_keeps (s : State) (area : Nat) (inst : Nat) : Keeps s (State.traceArea s area inst) := by
  unfold State.traceArea
  extract_lets +onlyGivenNames z1
  clear_value z1
  refine Keeps.ite (fun _ => ?_) (fun _ => ?_)
  · exact State.bumpFree_keeps ..
  · refine Keeps.ite (fun _ => ?_) (fun _ => ?_)
    · extract_lets +onlyGivenNames z2
      clear_value z2
      extract_lets +onlyGivenNames z3
      clear_value z3
      refine (State.bumpFree_keeps ..).of ?_
      exact Keeps.mk' (Keeps.refl _) (.refl _) le_rfl
    · refine (State.bumpFree_keeps ..).of ?_
      exact State.count_keeps ..

theorem State.release_keeps (s : State) (w : Waiter) : Keeps s (State.release s w) := by
  unfold State.release
  extract_lets +onlyGivenNames z1
  clear_value z1
  extract_lets +onlyGivenNames z2
  refine Keeps.cut (b := z2) ?_ ?_
  · unfold z2
    refine (State.traceArea_keeps ..).of ?_
    exact Keeps.mk' (Keeps.refl _) (.refl _) le_rfl
  · intro hz2
    split
    · split
      · exact (State.complete_keeps ..).of ‹_›
      · assumption
    · exact (State.wakeCtx_keeps ..).of ‹_›
    · assumption

theorem State.notify_keeps (s : State) (i : Nat) : Keeps s (State.notify s i) := by
  unfold State.notify
  extract_lets +onlyGivenNames z1
  clear_value z1
  refine (State.cause_keeps ..).of ?_
  exact State.capture31_keeps ..

theorem State.evaluate_keeps (s : State) (i : Nat) : Keeps s (State.evaluate s i).1 := by
  unfold State.evaluate
  extract_lets +onlyGivenNames z1
  clear_value z1
  extract_lets +onlyGivenNames z2
  clear_value z2
  refine Keeps.ite_fst (fun _ => ?_) (fun _ => ?_)
  · extract_lets +onlyGivenNames z3
    clear_value z3
    refine Keeps.mk_fst ?_
    refine Keeps.foldl (fun _ _ => ?_) ?_
    · exact State.release_keeps ..
    · exact Keeps.refl _
  · extract_lets +onlyGivenNames z3
    clear_value z3
    extract_lets +onlyGivenNames z4
    clear_value z4
    extract_lets +onlyGivenNames z5
    refine Keeps.cut (b := z5) ?_ ?_
    · unfold z5
      exact State.setObj_keeps ..
    · intro hz5
      extract_lets +onlyGivenNames z6
      refine Keeps.cut (b := z6) ?_ ?_
      · unfold z6
        refine Keeps.foldl (fun _ _ => ?_) ?_
        · exact State.release_keeps ..
        · assumption
      · intro hz6
        refine Keeps.mk_fst ?_
        refine Keeps.ite (fun _ => ?_) (fun _ => ?_)
        · exact (State.notify_keeps ..).of ‹_›
        · assumption

theorem State.releaseBarrier_keeps (s : State) (i : Nat) : Keeps s (State.releaseBarrier s i).1 := by
  unfold State.releaseBarrier
  extract_lets +onlyGivenNames z1
  clear_value z1
  extract_lets +onlyGivenNames z2
  refine Keeps.cut (b := z2) ?_ ?_
  · unfold z2
    refine (State.count_keeps ..).of ?_
    exact State.setObj_keeps ..
  · intro hz2
    extract_lets +onlyGivenNames z3
    refine Keeps.cut (b := z3.1) ?_ ?_
    · unfold z3
      exact (State.evaluate_keeps ..).of ‹_›
    · intro hz3
      refine Keeps.mk_fst ?_
      refine Keeps.ite (fun _ => ?_) (fun _ => ?_)
      · exact (State.notify_keeps ..).of ‹_›
      · assumption

theorem State.applied_keeps (s : State) (who : Issuer) (id : Nat) : Keeps s (State.applied s who id) := by
  unfold State.applied
  split
  · split
    · exact State.complete_keeps ..
    · exact Keeps.refl _
  · exact State.opResult_keeps ..

theorem State.hubArrive_keeps (s : State) (op : HubOp) : Keeps s (State.hubArrive s op) := by
  unfold State.hubArrive
  split
  · exact State.misuse_keeps ..
  · extract_lets +onlyGivenNames z1
    clear_value z1
    extract_lets +onlyGivenNames z2
    refine Keeps.cut (b := z2) ?_ ?_
    · unfold z2
      refine Keeps.ite (fun _ => ?_) (fun _ => ?_)
      · exact State.releaseBarrier_keeps ..
      · exact State.setObj_keeps ..
    · intro hz2
      exact (State.applied_keeps ..).of ‹_›

theorem State.hubAdd_keeps (s : State) (op : HubOp) : Keeps s (State.hubAdd s op) := by
  unfold State.hubAdd
  split
  · exact State.misuse_keeps ..
  · extract_lets +onlyGivenNames z1
    clear_value z1
    refine Keeps.ite (fun _ => ?_) (fun _ => ?_)
    · refine Keeps.ite (fun _ => ?_) (fun _ => ?_)
      · extract_lets +onlyGivenNames z2
        refine Keeps.cut (b := z2) ?_ ?_
        · unfold z2
          refine (State.syncFault_keeps ..).of ?_
          exact State.setObj_keeps ..
        · intro hz2
          extract_lets +onlyGivenNames z3
          refine Keeps.cut (b := z3) ?_ ?_
          · unfold z3
            refine (State.applied_keeps ..).of ?_
            exact (State.evaluate_keeps ..).of ‹_›
          · intro hz3
            exact (State.opResult_keeps ..).of ‹_›
      · extract_lets +onlyGivenNames z2
        refine Keeps.cut (b := z2) ?_ ?_
        · unfold z2
          exact State.syncFault_keeps ..
        · intro hz2
          exact (State.opResult_keeps ..).of ‹_›
    · refine (State.applied_keeps ..).of ?_
      refine (State.evaluate_keeps ..).of ?_
      exact State.setObj_keeps ..

theorem State.hubConsume_keeps (s : State) (op : HubOp) : Keeps s (State.hubConsume s op) := by
  unfold State.hubConsume
  split
  · exact State.misuse_keeps ..
  · extract_lets +onlyGivenNames z1
    clear_value z1
    refine Keeps.ite (fun _ => ?_) (fun _ => ?_)
    · refine Keeps.ite (fun _ => ?_) (fun _ => ?_)
      · extract_lets +onlyGivenNames z2
        refine Keeps.cut (b := z2) ?_ ?_
        · unfold z2
          refine (State.syncFault_keeps ..).of ?_
          exact State.setObj_keeps ..
        · intro hz2
          extract_lets +onlyGivenNames z3
          refine Keeps.cut (b := z3) ?_ ?_
          · unfold z3
            refine (State.applied_keeps ..).of ?_
            exact (State.evaluate_keeps ..).of ‹_›
          · intro hz3
            exact (State.opResult_keeps ..).of ‹_›
      · extract_lets +onlyGivenNames z2
        refine Keeps.cut (b := z2) ?_ ?_
        · unfold z2
          exact State.syncFault_keeps ..
        · intro hz2
          exact (State.opResult_keeps ..).of ‹_›
    · refine (State.applied_keeps ..).of ?_
      refine (State.evaluate_keeps ..).of ?_
      exact State.setObj_keeps ..

theorem State.leaveRun_keeps (s : State) (i : Nat) (n : Nat) (c : Ctx) : Keeps s (State.leaveRun s i n c) := by
  unfold State.leaveRun
  extract_lets +onlyGivenNames z1
  refine Keeps.cut (b := z1) ?_ ?_
  · unfold z1
    exact State.setCtx_keeps ..
  · intro hz1
    refine Keeps.ite (fun _ => ?_) (fun _ => ?_)
    · refine (State.kick_keeps ..).of ?_
      exact (State.switchTo_keeps ..).of ‹_›
    · assumption

theorem State.parkCtx_keeps (s : State) (i : Nat) (n : Nat) (spin : Bool) : Keeps s (State.parkCtx s i n spin) := by
  unfold State.parkCtx
  split
  · exact Keeps.refl _
  · refine Keeps.ite (fun _ => ?_) (fun _ => ?_)
    · exact State.setCtx_keeps ..
    · extract_lets +onlyGivenNames z1
      refine Keeps.cut (b := z1) ?_ ?_
      · unfold z1
        refine Keeps.ite (fun _ => ?_) (fun _ => ?_)
        · exact State.countField_keeps ..
        · exact Keeps.refl _
      · intro hz1
        exact (State.leaveRun_keeps ..).of ‹_›

theorem State.hubWait_keeps (s : State) (op : HubOp) (kd : WaitKind) : Keeps s (State.hubWait s op kd) := by
  unfold State.hubWait
  split
  · exact State.misuse_keeps ..
  · extract_lets +onlyGivenNames z1
    clear_value z1
    extract_lets +onlyGivenNames z2
    clear_value z2
    refine Keeps.ite (fun _ => ?_) (fun _ => ?_)
    · extract_lets +onlyGivenNames z3
      refine Keeps.cut (b := z3) ?_ ?_
      · unfold z3
        refine Keeps.ite (fun _ => ?_) (fun _ => ?_)
        · exact State.setObj_keeps ..
        · exact Keeps.refl _
      · intro hz3
        extract_lets +onlyGivenNames z4
        refine Keeps.cut (b := z4) ?_ ?_
        · unfold z4
          refine Keeps.ite (fun _ => ?_) (fun _ => ?_)
          · exact (State.notify_keeps ..).of ‹_›
          · assumption
        · intro hz4
          split
          · exact (State.wakeCtx_keeps ..).of ‹_›
          · exact (State.applied_keeps ..).of ‹_›
    · extract_lets +onlyGivenNames z3
      clear_value z3
      extract_lets +onlyGivenNames z4
      refine Keeps.cut (b := z4) ?_ ?_
      · unfold z4
        exact Keeps.mk' (Keeps.refl _) (.refl _) le_rfl
      · intro hz4
        split
        · exact (State.parkCtx_keeps ..).of ‹_›
        · exact (State.setQueue_keeps ..).of ‹_›
        · assumption

theorem State.sendOp_keeps (s : State) (op : HubOp) : Keeps s (State.sendOp s op) := by
  unfold State.sendOp
  exact Keeps.mk' (Keeps.refl _) (.refl _) le_rfl

theorem State.hubTake_keeps (s : State) (p : Nat) (kd : HubKind) (f : State → HubOp → State) (h_f : ∀ (x0 : State) (x1 : HubOp), Keeps x0 (f x0 x1)) : Keeps s (State.hubTake s p kd f) := by
  unfold State.hubTake
  split
  · refine Keeps.ite (fun _ => ?_) (fun _ => ?_)
    · refine (h_f _ _).of ?_
      exact Keeps.mk' (Keeps.refl _) (.refl _) le_rfl
    · exact Keeps.refl _
  · exact Keeps.refl _

theorem State.dropInstSync_keeps (s : State) (k : Nat) : Keeps s (State.dropInstSync s k) := by
  unfold State.dropInstSync
  exact Keeps.mk' (Keeps.refl _) (.refl _) le_rfl

theorem execHubArrive_keeps (port : Nat) (s : State) : Kept s (execHubArrive port s) := by
  unfold execHubArrive
  refine Kept.next ?_
  refine Keeps.trans ?_ (State.hubTake_keeps (h_f := ?_) ..)
  · exact Keeps.refl _
  · intro _
    intro _
    exact State.hubArrive_keeps ..

theorem execHubSignalAdd_keeps (port : Nat) (s : State) : Kept s (execHubSignalAdd port s) := by
  unfold execHubSignalAdd
  refine Kept.next ?_
  refine Keeps.trans ?_ (State.hubTake_keeps (h_f := ?_) ..)
  · exact Keeps.refl _
  · intro _
    intro _
    exact State.hubAdd_keeps ..

theorem execHubConsume_keeps (port : Nat) (s : State) : Kept s (execHubConsume port s) := by
  unfold execHubConsume
  refine Kept.next ?_
  refine Keeps.trans ?_ (State.hubTake_keeps (h_f := ?_) ..)
  · exact Keeps.refl _
  · intro _
    intro _
    exact State.hubConsume_keeps ..

theorem execHubWaitGe_keeps (port : Nat) (s : State) : Kept s (execHubWaitGe port s) := by
  unfold execHubWaitGe
  refine Kept.next ?_
  refine Keeps.trans ?_ (State.hubTake_keeps (h_f := ?_) ..)
  · exact Keeps.refl _
  · intro _
    intro _
    exact State.hubWait_keeps ..

theorem execHubWaitGen_keeps (port : Nat) (s : State) : Kept s (execHubWaitGen port s) := by
  unfold execHubWaitGen
  refine Kept.next ?_
  refine Keeps.trans ?_ (State.hubTake_keeps (h_f := ?_) ..)
  · exact Keeps.refl _
  · intro _
    intro _
    exact State.hubWait_keeps ..

theorem execHubWaitGeConsume_keeps (port : Nat) (s : State) : Kept s (execHubWaitGeConsume port s) := by
  unfold execHubWaitGeConsume
  refine Kept.next ?_
  refine Keeps.trans ?_ (State.hubTake_keeps (h_f := ?_) ..)
  · exact Keeps.refl _
  · intro _
    intro _
    exact State.hubWait_keeps ..

theorem execWaitWatchdogExpiry_keeps (i : Nat) (s : State) : Kept s (execWaitWatchdogExpiry i s) := by
  unfold execWaitWatchdogExpiry
  extract_lets +onlyGivenNames z1
  clear_value z1
  extract_lets +onlyGivenNames z2
  clear_value z2
  refine Kept.ite (fun _ => ?_) (fun _ => ?_)
  · refine Kept.next ?_
    exact Keeps.refl _
  · extract_lets +onlyGivenNames z3
    clear_value z3
    extract_lets +onlyGivenNames z4
    suffices hz4 : Keeps s z4 from ?_
    · extract_lets +onlyGivenNames z5
      suffices hz5 : Keeps s z5 from ?_
      · refine Kept.next ?_
        refine Keeps.foldl (fun _ _ => ?_) ?_
        · split
          · split
            · extract_lets +onlyGivenNames z6
              clear_value z6
              extract_lets +onlyGivenNames z7
              clear_value z7
              extract_lets +onlyGivenNames z8
              refine Keeps.cut (b := z8) ?_ ?_
              · unfold z8
                refine Keeps.mk' ?_ (.refl _) le_rfl
                refine (Keeps.snd (State.endCmd_keeps ..) (by assumption)).of ?_
                exact Keeps.refl _
              · intro hz8
                extract_lets +onlyGivenNames z9
                refine Keeps.cut (b := z9) ?_ ?_
                · unfold z9
                  exact (State.enterFaulted_keeps ..).of ‹_›
                · intro hz9
                  exact (State.raiseAs_keeps ..).of ‹_›
            · refine (Keeps.snd (State.endCmd_keeps ..) (by assumption)).of ?_
              exact Keeps.refl _
          · exact State.launchFault_keeps ..
          · exact Keeps.refl _
        · assumption
      · unfold z5
        exact (State.cause_keeps ..).of ‹_›
    · unfold z4
      refine (State.cause_keeps ..).of ?_
      refine (State.syncEvent_keeps ..).of ?_
      exact State.count_keeps ..

theorem execSpinToPark_keeps (l : Nat) (n : Nat) (s : State) : Kept s (execSpinToPark l n s) := by
  unfold execSpinToPark
  split
  · refine Kept.ite (fun _ => ?_) (fun _ => ?_)
    · refine Kept.next ?_
      refine (State.leaveRun_keeps ..).of ?_
      exact State.countField_keeps ..
    · refine Kept.next ?_
      exact Keeps.refl _
  · refine Kept.next ?_
    exact Keeps.refl _

end Sys2Proof.Machine
end

