-- ==== Sys2Proof/Laws/KeepsMovers.lean ====
section
/-! SUPPORT. What the operations and commands of Machine/Movers.lean keep: one lemma for each. -/

set_option Elab.async false
namespace Sys2Proof.Machine

theorem State.gather_keeps (k id : Nat) (rev : Bool) (l : List Piece) (s : State) (a : Plan) :
    Keeps s (State.gather k id rev l s a).1 := by
  induction l generalizing s a with
  | nil => exact Keeps.refl _
  | cons p l ih =>
    unfold State.gather
    split
    · refine Keeps.mk_fst ?_
      refine (Keeps.fst (State.xlate_keeps ..) (by assumption)).of ?_
      exact Keeps.refl _
    · split
      · refine (ih ..).of ?_
        refine (Keeps.fst (State.xlate_keeps ..) (by assumption)).of ?_
        exact Keeps.refl _
      · refine Keeps.mk_fst ?_
        refine (Keeps.fst (State.xlate_keeps ..) (by assumption)).of ?_
        exact Keeps.refl _
    · refine Keeps.ite_fst (fun _ => ?_) (fun _ => ?_)
      · extract_lets +onlyGivenNames z1
        clear_value z1
        extract_lets +onlyGivenNames z2
        refine Keeps.cut (b := z2) ?_ ?_
        · unfold z2
          refine Keeps.foldl (fun _ _ => ?_) ?_
          · dsimp -zeta -zetaHave only
            exact State.issueRead_keeps ..
          · refine (Keeps.fst (State.xlate_keeps ..) (by assumption)).of ?_
            exact Keeps.refl _
        · intro hz2
          exact (ih ..).of ‹_›
      · refine Keeps.mk_fst ?_
        refine (Keeps.fst (State.xlate_keeps ..) (by assumption)).of ?_
        exact Keeps.refl _


theorem State.stageStop_keeps (k lo hi : Nat) (l : List Piece) (s : State) :
    Keeps s (State.stageStop k lo hi l s).1 := by
  induction l generalizing s with
  | nil => exact Keeps.refl _
  | cons p l ih =>
    unfold State.stageStop
    extract_lets +onlyGivenNames z1
    clear_value z1
    extract_lets +onlyGivenNames z2
    clear_value z2
    refine Keeps.ite_fst (fun _ => ?_) (fun _ => ?_)
    · exact ih ..
    · split
      · refine Keeps.mk_fst ?_
        refine (Keeps.fst (State.xlate_keeps ..) (by assumption)).of ?_
        exact Keeps.refl _
      · split
        · refine Keeps.mk_fst ?_
          refine (Keeps.fst (State.xlate_keeps ..) (by assumption)).of ?_
          exact Keeps.refl _
        · refine (ih ..).of ?_
          refine (Keeps.fst (State.xlate_keeps ..) (by assumption)).of ?_
          exact Keeps.refl _
      · refine (ih ..).of ?_
        refine (Keeps.fst (State.xlate_keeps ..) (by assumption)).of ?_
        exact Keeps.refl _


theorem State.countHandling_keeps (s : State) (n : Nat) (h : Handling) : Keeps s (State.countHandling s n h) := by
  unfold State.countHandling
  split
  · exact State.countField_keeps ..
  · exact State.countField_keeps ..
  · exact Keeps.refl _

theorem State.countMiB_keeps (s : State) (a : Nat) (n : Nat) : Keeps s (State.countMiB s a n) := by
  unfold State.countMiB
  extract_lets +onlyGivenNames z1
  clear_value z1
  extract_lets +onlyGivenNames z2
  refine Keeps.cut (b := z2) ?_ ?_
  · unfold z2
    exact State.countField_keeps ..
  · intro hz2
    exact Keeps.mk' ‹_› (.refl _) le_rfl

theorem State.countUnsafe_keeps (s : State) : Keeps s (State.countUnsafe s) := by
  unfold State.countUnsafe
  refine (State.cause_keeps ..).of ?_
  exact State.count_keeps ..

theorem State.firstBytes_keeps (s : State) (k : Nat) (src : Option Nat) (dst : Nat) : Keeps s (State.firstBytes s k src dst).1 := by
  unfold State.firstBytes
  extract_lets +onlyGivenNames z1
  clear_value z1
  extract_lets +onlyGivenNames z2
  split
  · unfold z2
    split
    · refine Keeps.mk_fst ?_
      refine (Keeps.fst (State.xlate_keeps ..) (by assumption)).of ?_
      exact Keeps.refl _
    · refine Keeps.mk_fst ?_
      refine (Keeps.fst (State.xlate_keeps ..) (by assumption)).of ?_
      exact Keeps.refl _
  · split
    · refine Keeps.mk_fst ?_
      refine (Keeps.fst (State.xlate_keeps ..) (by assumption)).of ?_
      exact Keeps.refl _
    · unfold z2
      split
      · refine Keeps.mk_fst ?_
        refine (Keeps.fst (State.xlate_keeps ..) (by assumption)).of ?_
        refine (Keeps.fst (State.xlate_keeps ..) (by assumption)).of ?_
        exact Keeps.refl _
      · refine Keeps.mk_fst ?_
        refine (Keeps.fst (State.xlate_keeps ..) (by assumption)).of ?_
        refine (Keeps.fst (State.xlate_keeps ..) (by assumption)).of ?_
        exact Keeps.refl _

theorem State.planCopy_keeps (s : State) (k : Nat) (id : Nat) (src : Nat) (dst : Nat) (g : Geo) (h : Handling) : Keeps s (State.planCopy s k id src dst g h).1 := by
  unfold State.planCopy
  extract_lets +onlyGivenNames z1
  clear_value z1
  extract_lets +onlyGivenNames z2
  clear_value z2
  extract_lets +onlyGivenNames z3
  refine Keeps.cut (b := z3.1) ?_ ?_
  · unfold z3
    refine Keeps.ite_fst (fun _ => ?_) (fun _ => ?_)
    · exact State.stageStop_keeps ..
    · refine Keeps.mk_fst ?_
      exact Keeps.refl _
  · intro hz3
    clear_value z3
    split
    · refine Keeps.mk_fst ?_
      assumption
    · exact (State.gather_keeps ..).of ‹_›

theorem State.dropMover_keeps (s : State) (id : Nat) : Keeps s (State.dropMover s id) := by
  unfold State.dropMover
  exact Keeps.mk' (Keeps.refl _) (.refl _) le_rfl

theorem State.countIncomplete_keeps (s : State) (m : Mover) : Keeps s (State.countIncomplete s m) := by
  unfold State.countIncomplete
  refine Keeps.ite (fun _ => ?_) (fun _ => ?_)
  · refine (State.cause_keeps ..).of ?_
    exact State.count_keeps ..
  · exact Keeps.refl _

theorem State.moverFault_keeps (s : State) (m : Mover) (f : State → Pos → Nat → State) (h_f : ∀ (x0 : State) (x1 : Pos) (x2 : Nat), Keeps x0 (f x0 x1 x2)) : Keeps s (State.moverFault s m f) := by
  unfold State.moverFault
  split
  · exact State.dropMover_keeps ..
  · extract_lets +onlyGivenNames z1
    refine Keeps.cut (b := z1) ?_ ?_
    · unfold z1
      refine (State.countIncomplete_keeps ..).of ?_
      exact State.dropMover_keeps ..
    · intro hz1
      extract_lets +onlyGivenNames z2
      refine Keeps.cut (b := z2) ?_ ?_
      · unfold z2
        exact Keeps.mk' ‹_› (.refl _) le_rfl
      · intro hz2
        exact (h_f _ _ _).of ‹_›

theorem State.moverStop_keeps (s : State) (m : Mover) (st : Stop) (write : Bool) : Keeps s (State.moverStop s m st write) := by
  unfold State.moverStop
  refine Keeps.trans ?_ (State.moverFault_keeps (h_f := ?_) ..)
  · exact Keeps.refl _
  · intro _
    intro _
    intro _
    refine Keeps.ite (fun _ => ?_) (fun _ => ?_)
    · exact State.hostReadFault_keeps ..
    · refine Keeps.ite (fun _ => ?_) (fun _ => ?_)
      · exact State.accessFault_keeps ..
      · extract_lets +onlyGivenNames z1
        refine Keeps.cut (b := z1) ?_ ?_
        · unfold z1
          refine Keeps.ite (fun _ => ?_) (fun _ => ?_)
          · refine (State.cause_keeps ..).of ?_
            exact State.countField_keeps ..
          · refine Keeps.ite (fun _ => ?_) (fun _ => ?_)
            · refine (State.cause_keeps ..).of ?_
              exact State.countField_keeps ..
            · exact Keeps.refl _
        · intro hz1
          exact (State.queueFault_keeps ..).of ‹_›

theorem State.putRun_keeps (s : State) (m : Mover) (va : Nat) (bs : List Byte) : Keeps s (State.putRun s m va bs).1 := by
  unfold State.putRun
  split
  · refine Keeps.mk_fst ?_
    refine (Keeps.fst (State.xlate_keeps ..) (by assumption)).of ?_
    exact Keeps.refl _
  · refine Keeps.mk_fst ?_
    refine (State.devWrite_keeps ..).of ?_
    refine (Keeps.fst (State.xlate_keeps ..) (by assumption)).of ?_
    exact Keeps.refl _
  · refine Keeps.mk_fst ?_
    refine (State.issueWrite_keeps ..).of ?_
    refine (Keeps.fst (State.xlate_keeps ..) (by assumption)).of ?_
    exact Keeps.refl _

theorem State.putRuns_keeps (m : Mover) (l : List (Nat × List Byte)) (s : State) (n : Nat) :
    Keeps s (State.putRuns m l s n).1 := by
  induction l generalizing s n with
  | nil => exact Keeps.refl _
  | cons p l ih =>
    obtain ⟨a, bs⟩ := p
    unfold State.putRuns
    split
    · refine Keeps.mk_fst ?_
      refine (Keeps.fst (State.putRun_keeps ..) (by assumption)).of ?_
      exact Keeps.refl _
    · refine (ih ..).of ?_
      refine (Keeps.fst (State.putRun_keeps ..) (by assumption)).of ?_
      exact Keeps.refl _


theorem State.moverMove_keeps (s : State) (m : Mover) (n : Nat) : Keeps s (State.moverMove s m n).1 := by
  unfold State.moverMove
  extract_lets +onlyGivenNames z1
  clear_value z1
  extract_lets +onlyGivenNames z2
  refine Keeps.cut (b := z2) ?_ ?_
  · unfold z2
    exact Keeps.mk' (Keeps.refl _) (.refl _) le_rfl
  · intro hz2
    dsimp -zeta -zetaHave only
    extract_lets +onlyGivenNames z3
    clear_value z3
    refine Keeps.mk_fst ?_
    refine (State.countMiB_keeps ..).of ?_
    refine Keeps.mk' ?_ (.refl _) le_rfl
    exact (State.putRuns_keeps ..).of ‹_›

theorem State.moverDone_keeps (s : State) (m : Mover) : Keeps s (State.moverDone s m) := by
  unfold State.moverDone
  split
  · refine (State.complete_keeps ..).of ?_
    exact State.dropMover_keeps ..
  · exact State.dropMover_keeps ..

theorem State.moverRun_keeps (s : State) (id : Nat) (fin : State → Mover → State) (h_fin : ∀ (x0 : State) (x1 : Mover), Keeps x0 (fin x0 x1)) : Keeps s (State.moverRun s id fin) := by
  unfold State.moverRun
  split
  · exact Keeps.refl _
  · split
    · refine (State.moverStop_keeps ..).of ?_
      refine (Keeps.fst (State.moverMove_keeps ..) (by assumption)).of ?_
      exact Keeps.refl _
    · refine Keeps.ite (fun _ => ?_) (fun _ => ?_)
      · refine (Keeps.fst (State.moverMove_keeps ..) (by assumption)).of ?_
        exact Keeps.refl _
      · split
        · refine (State.moverStop_keeps ..).of ?_
          refine (Keeps.fst (State.moverMove_keeps ..) (by assumption)).of ?_
          exact Keeps.refl _
        · refine (h_fin _ _).of ?_
          refine (Keeps.fst (State.moverMove_keeps ..) (by assumption)).of ?_
          exact Keeps.refl _

theorem State.moverPartly_keeps (s : State) (id : Nat) (n : Nat) : Keeps s (State.moverPartly s id n) := by
  unfold State.moverPartly
  split
  · exact Keeps.refl _
  · split
    · refine (State.moverStop_keeps ..).of ?_
      refine (Keeps.fst (State.moverMove_keeps ..) (by assumption)).of ?_
      exact Keeps.refl _
    · refine (Keeps.fst (State.moverMove_keeps ..) (by assumption)).of ?_
      exact Keeps.refl _

theorem State.movedBy_keeps (s : State) (prog : List (Nat × Nat)) : Keeps s (State.movedBy s prog) := by
  unfold State.movedBy
  refine Keeps.foldl (fun _ _ => ?_) ?_
  · dsimp -zeta -zetaHave only
    exact State.moverPartly_keeps ..
  · exact Keeps.refl _

theorem State.moverCut_keeps (s : State) (id : Nat) : Keeps s (State.moverCut s id) := by
  unfold State.moverCut
  split
  · exact Keeps.refl _
  · refine (State.moverPartly_keeps ..).of ?_
    exact State.bumpFree_keeps ..

theorem State.chainWords_keeps (s : State) (m : Mover) (pa : Nat) : Keeps s (State.chainWords s m pa).1 := by
  unfold State.chainWords
  refine Keeps.ite_fst (fun _ => ?_) (fun _ => ?_)
  · refine Keeps.mk_fst ?_
    exact State.bumpFree_keeps ..
  · refine Keeps.mk_fst ?_
    exact Keeps.refl _

theorem State.chainFault_keeps (s : State) (m : Mover) (st : Stop) (write : Bool) : Keeps s (State.chainFault s m st write) := by
  unfold State.chainFault
  exact State.moverStop_keeps ..

theorem State.chainBegin_keeps (s : State) (id : Nat) (va : Nat) : Keeps s (State.chainBegin s id va) := by
  unfold State.chainBegin
  split
  · exact Keeps.refl _
  · extract_lets +onlyGivenNames z1
    clear_value z1
    extract_lets +onlyGivenNames z2
    clear_value z2
    refine Keeps.ite (fun _ => ?_) (fun _ => ?_)
    · exact State.chainFault_keeps ..
    · split
      · refine (State.chainFault_keeps ..).of ?_
        refine (Keeps.fst (State.xlate_keeps ..) (by assumption)).of ?_
        exact Keeps.refl _
      · refine (State.chainFault_keeps ..).of ?_
        refine (Keeps.fst (State.xlate_keeps ..) (by assumption)).of ?_
        exact Keeps.refl _
      · split
        · refine (State.chainFault_keeps ..).of ?_
          refine (Keeps.fst (State.xlate_keeps ..) (by assumption)).of ?_
          exact Keeps.refl _
        · dsimp -zeta -zetaHave only
          extract_lets +onlyGivenNames z3
          clear_value z3
          extract_lets +onlyGivenNames z4
          clear_value z4
          extract_lets +onlyGivenNames z5
          clear_value z5
          extract_lets +onlyGivenNames z6
          clear_value z6
          refine Keeps.ite (fun _ => ?_) (fun _ => ?_)
          · refine (State.chainFault_keeps ..).of ?_
            refine (State.chainWords_keeps ..).of ?_
            refine (Keeps.fst (State.xlate_keeps ..) (by assumption)).of ?_
            exact Keeps.refl _
          · split
            · refine (State.chainFault_keeps ..).of ?_
              refine (State.chainWords_keeps ..).of ?_
              refine (Keeps.fst (State.xlate_keeps ..) (by assumption)).of ?_
              exact Keeps.refl _
            · refine Keeps.ite (fun _ => ?_) (fun _ => ?_)
              · refine (State.chainFault_keeps ..).of ?_
                refine (State.chainWords_keeps ..).of ?_
                refine (Keeps.fst (State.xlate_keeps ..) (by assumption)).of ?_
                exact Keeps.refl _
              · split
                · refine (State.chainFault_keeps ..).of ?_
                  refine (Keeps.fst (State.firstBytes_keeps ..) (by assumption)).of ?_
                  refine (State.chainWords_keeps ..).of ?_
                  refine (Keeps.fst (State.xlate_keeps ..) (by assumption)).of ?_
                  exact Keeps.refl _
                · refine Keeps.ite (fun _ => ?_) (fun _ => ?_)
                  · refine (State.chainFault_keeps ..).of ?_
                    refine (Keeps.fst (State.firstBytes_keeps ..) (by assumption)).of ?_
                    refine (State.chainWords_keeps ..).of ?_
                    refine (Keeps.fst (State.xlate_keeps ..) (by assumption)).of ?_
                    exact Keeps.refl _
                  · extract_lets +onlyGivenNames z7
                    clear_value z7
                    refine Keeps.ite (fun _ => ?_) (fun _ => ?_)
                    · refine (State.chainFault_keeps ..).of ?_
                      refine (State.countUnsafe_keeps ..).of ?_
                      refine (Keeps.fst (State.firstBytes_keeps ..) (by assumption)).of ?_
                      refine (State.chainWords_keeps ..).of ?_
                      refine (Keeps.fst (State.xlate_keeps ..) (by assumption)).of ?_
                      exact Keeps.refl _
                    · extract_lets +onlyGivenNames z8
                      clear_value z8
                      refine (State.countHandling_keeps ..).of ?_
                      refine Keeps.mk' ?_ (.refl _) le_rfl
                      refine (State.planCopy_keeps ..).of ?_
                      refine (Keeps.fst (State.firstBytes_keeps ..) (by assumption)).of ?_
                      refine (State.chainWords_keeps ..).of ?_
                      refine (Keeps.fst (State.xlate_keeps ..) (by assumption)).of ?_
                      exact Keeps.refl _

theorem State.chainNext_keeps (s : State) (m : Mover) : Keeps s (State.chainNext s m) := by
  unfold State.chainNext
  refine Keeps.ite (fun _ => ?_) (fun _ => ?_)
  · exact State.moverDone_keeps ..
  · extract_lets +onlyGivenNames z1
    clear_value z1
    extract_lets +onlyGivenNames z2
    clear_value z2
    extract_lets +onlyGivenNames z3
    clear_value z3
    extract_lets +onlyGivenNames z4
    refine Keeps.cut (b := z4) ?_ ?_
    · unfold z4
      exact Keeps.mk' (Keeps.refl _) (.refl _) le_rfl
    · intro hz4
      split
      · exact (State.chainFault_keeps ..).of ‹_›
      · refine Keeps.ite (fun _ => ?_) (fun _ => ?_)
        · exact (State.chainFault_keeps ..).of ‹_›
        · refine Keeps.ite (fun _ => ?_) (fun _ => ?_)
          · exact (State.chainFault_keeps ..).of ‹_›
          · exact (State.chainBegin_keeps ..).of ‹_›

theorem execBmvDescriptorComplete_keeps (id : Nat) (err : Option (Nat × Bool)) (s : State) : Kept s (execBmvDescriptorComplete id err s) := by
  unfold execBmvDescriptorComplete
  refine Kept.next ?_
  split
  · refine Keeps.ite (fun _ => ?_) (fun _ => ?_)
    · refine Keeps.trans ?_ (State.moverRun_keeps (h_fin := ?_) ..)
      · exact State.eccFind_keeps ..
      · intro _
        intro _
        exact State.chainNext_keeps ..
    · exact Keeps.refl _
  · exact Keeps.refl _

theorem execBmvCopyComplete_keeps (id : Nat) (s : State) : Kept s (execBmvCopyComplete id s) := by
  unfold execBmvCopyComplete
  refine Kept.next ?_
  split
  · refine Keeps.ite (fun _ => ?_) (fun _ => ?_)
    · exact Keeps.refl _
    · refine Keeps.trans ?_ (State.moverRun_keeps (h_fin := ?_) ..)
      · exact Keeps.refl _
      · intro _
        intro _
        exact State.moverDone_keeps ..
  · exact Keeps.refl _

end Sys2Proof.Machine
end

