-- ==== Sys2Proof/Laws/KeepsCommands.lean ====
section
/-! SUPPORT. What the operations and commands of Machine/Commands.lean keep: one lemma for each. -/

set_option Elab.async false
namespace Sys2Proof.Machine

theorem State.begin__keeps (s : State) (h : Nat) (op : Nat) (body : State → Queue → Front → List W → State) (h_body : ∀ (x0 : State) (x1 : Queue) (x2 : Front) (x3 : List W), Keeps x0 (body x0 x1 x2 x3)) : Keeps s (State.begin_ s h op body) := by
  unfold State.begin_
  split
  · exact Keeps.refl _
  · extract_lets +onlyGivenNames z1
    clear_value z1
    split
    · exact State.cmdFault_keeps ..
    · refine Keeps.ite (fun _ => ?_) (fun _ => ?_)
      · exact State.cmdFault_keeps ..
      · exact h_body _ _ _ _

theorem State.begunFault_keeps (s : State) (h : Nat) (f : Front) (g : State → State) (h_g : ∀ (x0 : State), Keeps x0 (g x0)) : Keeps s (State.begunFault s h f g) := by
  unfold State.begunFault
  refine (h_g _).of ?_
  exact State.advance_keeps ..

theorem State.putBytesOf_keeps (s : State) (h : Nat) (q : Queue) (f : Front) (va : Nat) (d : List Byte) : Keeps s (State.putBytesOf s h q f va d) := by
  unfold State.putBytesOf
  split
  · refine Keeps.ite (fun _ => ?_) (fun _ => ?_)
    · refine (State.accessFault_keeps ..).of ?_
      refine (Keeps.fst (State.storeAt_keeps ..) (by assumption)).of ?_
      exact Keeps.refl _
    · refine Keeps.trans ?_ (State.begunFault_keeps (h_g := ?_) ..)
      · refine (Keeps.fst (State.storeAt_keeps ..) (by assumption)).of ?_
        exact Keeps.refl _
      · intro _
        exact State.accessFault_keeps ..
  · refine (State.finish_keeps ..).of ?_
    refine (Keeps.fst (State.storeAt_keeps ..) (by assumption)).of ?_
    exact Keeps.refl _

theorem State.askOperand_keeps (k cmd : Nat) (l : List Seg) (s : State) (got : Tbl (List Byte)) (need : List Nat) :
    Keeps s (State.askOperand k cmd l s got need).1 := by
  induction l generalizing s got need with
  | nil => exact Keeps.refl _
  | cons p l ih =>
    obtain ⟨o, d, m⟩ := p
    cases d with
    | hbm pa =>
      unfold State.askOperand
      exact ih ..
    | host a =>
      unfold State.askOperand
      extract_lets +onlyGivenNames z1
      clear_value z1
      refine (ih ..).of ?_
      refine Keeps.foldl (fun _ _ => ?_) ?_
      · dsimp -zeta -zetaHave only
        exact State.issueRead_keeps ..
      · exact Keeps.refl _


theorem State.endOperand_keeps (s : State) (h : Nat) (f : Front) (sync : Bool) (r : Except Nat State)
    (h_r : ∀ t, r = .ok t → Keeps s t) : Keeps s (State.endOperand s h f sync r) := by
  unfold State.endOperand
  split
  · exact (h_r _ rfl).trans (State.finish_keeps ..)
  · refine Keeps.ite (fun _ => State.cmdFault_keeps ..) (fun _ => ?_)
    exact State.begunFault_keeps s _ _ _ fun s => State.cmdFault_keeps ..


theorem State.withOperand_keeps (s : State) (h : Nat) (q : Queue) (f : Front) (ws : List W) (va : Nat) (n : Nat) (sync : Bool) (eff : State → List Byte → Except Nat State) (h_eff : ∀ (x0 : State) (x1 : List Byte), ∀ t, (eff x0 x1) = .ok t → Keeps x0 t) : Keeps s (State.withOperand s h q f ws va n sync eff) := by
  unfold State.withOperand
  split
  · refine Keeps.ite (fun _ => ?_) (fun _ => ?_)
    · refine (State.accessFault_keeps ..).of ?_
      refine (Keeps.fst (State.segs_keeps ..) (by assumption)).of ?_
      exact Keeps.refl _
    · refine Keeps.trans ?_ (State.begunFault_keeps (h_g := ?_) ..)
      · refine (Keeps.fst (State.segs_keeps ..) (by assumption)).of ?_
        exact Keeps.refl _
      · intro _
        exact State.accessFault_keeps ..
  · split
    · refine Keeps.trans ?_ (State.begunFault_keeps (h_g := ?_) ..)
      · refine (Keeps.fst (State.segs_keeps ..) (by assumption)).of ?_
        exact Keeps.refl _
      · intro _
        exact State.accessFault_keeps ..
    · refine Keeps.ite (fun _ => ?_) (fun _ => ?_)
      · refine Keeps.trans ?_ (State.endOperand_keeps (h_r := ?_) ..)
        · refine (Keeps.fst (State.segs_keeps ..) (by assumption)).of ?_
          exact Keeps.refl _
        · intro _
          intro ht
          refine (h_eff _ _ _ (by assumption)).of ?_
          exact Keeps.refl _
      · refine Keeps.ite (fun _ => ?_) (fun _ => ?_)
        · refine Keeps.trans ?_ (State.begunFault_keeps (h_g := ?_) ..)
          · refine (Keeps.fst (State.segs_keeps ..) (by assumption)).of ?_
            exact Keeps.refl _
          · intro _
            exact State.hostReadFault_keeps ..
        · extract_lets +onlyGivenNames z1
          clear_value z1
          extract_lets +onlyGivenNames z2
          refine Keeps.cut (b := z2) ?_ ?_
          · unfold z2
            refine Keeps.ite (fun _ => ?_) (fun _ => ?_)
            · refine (State.hold_keeps ..).of ?_
              refine (Keeps.fst (State.segs_keeps ..) (by assumption)).of ?_
              exact Keeps.refl _
            · refine (State.start_keeps ..).of ?_
              refine (Keeps.fst (State.segs_keeps ..) (by assumption)).of ?_
              exact Keeps.refl _
          · intro hz2
            dsimp -zeta -zetaHave only
            refine Keeps.mk' ?_ (.refl _) le_rfl
            exact (State.askOperand_keeps ..).of ‹_›

theorem State.condEffect_keeps (s : State) (h : Nat) (ws : List W) (v : Nat) : Keeps s (State.condEffect s h ws v) := by
  unfold State.condEffect
  extract_lets +onlyGivenNames z1
  clear_value z1
  exact State.setQueue_keeps ..

theorem State.htabEffect_keeps (s : State) (k : Nat) (ws : List W) (d : List Byte) (t : State) (ht : (State.htabEffect s k ws d) = .ok t) : Keeps s t := by
  unfold State.htabEffect at ht
  extract_lets +onlyGivenNames z1 at ht
  split at ht
  · cases ht
    exact Keeps.mk' (Keeps.refl _) (.refl _) le_rfl
  · cases ht

theorem State.syncEffect_keeps (s : State) (k : Nat) (ws : List W) (d : List Byte) (t : State) (ht : (State.syncEffect s k ws d) = .ok t) : Keeps s t := by
  unfold State.syncEffect at ht
  extract_lets +onlyGivenNames z1 at ht
  split at ht
  · cases ht
  · extract_lets +onlyGivenNames z1 at ht
    split at ht
    · extract_lets +onlyGivenNames z1 at ht
      cases ht
      refine Keeps.foldl (fun _ _ => ?_) ?_
      · exact State.evaluate_keeps ..
      · unfold z1
        refine Keeps.foldl (fun _ _ => ?_) ?_
        · dsimp -zeta -zetaHave only
          exact State.setObj_keeps ..
        · exact Keeps.refl _
    · cases ht

theorem State.operandEffect_keeps (s : State) (h : Nat) (op : Nat) (k : Nat) (ws : List W) (d : List Byte) (t : State) (ht : (State.operandEffect s h op k ws d) = .ok t) : Keeps s t := by
  unfold State.operandEffect at ht
  split at ht
  · cases ht
    exact State.condEffect_keeps ..
  · exact State.htabEffect_keeps (ht := by assumption) ..
  · exact State.syncEffect_keeps (ht := by assumption) ..

theorem State.operandReady_keeps (s : State) (c : Cmd) (ws : List W) (d : List Byte) : Keeps s (State.operandReady s c ws d) := by
  unfold State.operandReady
  extract_lets +onlyGivenNames z1
  clear_value z1
  extract_lets +onlyGivenNames z2
  refine Keeps.cut (b := z2) ?_ ?_
  · unfold z2
    exact Keeps.mk' (Keeps.refl _) (.refl _) le_rfl
  · intro hz2
    extract_lets +onlyGivenNames z3
    clear_value z3
    refine Keeps.ite (fun _ => ?_) (fun _ => ?_)
    · refine Keeps.trans ?_ (State.endOperand_keeps (h_r := ?_) ..)
      · assumption
      · intro _
        intro ht
        exact State.operandEffect_keeps (ht := by assumption) ..
    · split
      · refine (State.complete_keeps ..).of ?_
        exact State.operandEffect_keeps (ht := by assumption) ..
      · exact (State.cmdFault_keeps ..).of ‹_›

theorem State.operandData_keeps (s : State) (id : Nat) (off : Nat) (d : List Byte) : Keeps s (State.operandData s id off d) := by
  unfold State.operandData
  split
  · exact Keeps.refl _
  · split
    · extract_lets +onlyGivenNames z1
      clear_value z1
      extract_lets +onlyGivenNames z2
      clear_value z2
      refine Keeps.ite (fun _ => ?_) (fun _ => ?_)
      · exact State.operandReady_keeps ..
      · exact Keeps.mk' (Keeps.refl _) (.refl _) le_rfl
    · exact Keeps.refl _

theorem State.operandFail_keeps (s : State) (id : Nat) (r : Cpl) : Keeps s (State.operandFail s id r) := by
  unfold State.operandFail
  split
  · exact Keeps.refl _
  · extract_lets +onlyGivenNames z1
    clear_value z1
    extract_lets +onlyGivenNames z2
    refine Keeps.cut (b := z2) ?_ ?_
    · unfold z2
      exact Keeps.mk' (Keeps.refl _) (.refl _) le_rfl
    · intro hz2
      exact (State.hostReadFault_keeps ..).of ‹_›

theorem execRingDataReturn_keeps (h : Nat) (err : Option (Nat × Bool)) (s : State) : Kept s (execRingDataReturn h err s) := by
  unfold execRingDataReturn
  refine Kept.next ?_
  extract_lets +onlyGivenNames z1
  refine Keeps.cut (b := z1) ?_ ?_
  · unfold z1
    exact State.eccFind_keeps ..
  · intro hz1
    refine Keeps.ite (fun _ => ?_) (fun _ => ?_)
    · assumption
    · split
      · exact (State.fetch_keeps ..).of ‹_›
      · exact (State.hostReadFault_keeps ..).of ‹_›
      · exact (State.accessFault_keeps ..).of ‹_›
      · extract_lets +onlyGivenNames z2
        clear_value z2
        extract_lets +onlyGivenNames z3
        clear_value z3
        split
        · exact (State.cmdFault_keeps ..).of ‹_›
        · refine Keeps.ite (fun _ => ?_) (fun _ => ?_)
          · extract_lets +onlyGivenNames z4
            refine Keeps.cut (b := z4) ?_ ?_
            · unfold z4
              exact (State.advance_keeps ..).of ‹_›
            · intro hz4
              exact (State.setQueue_keeps ..).of ‹_›
          · exact (State.setQueue_keeps ..).of ‹_›

theorem execNop_keeps (h : Nat) (s : State) : Kept s (execNop h s) := by
  unfold execNop
  refine Kept.next ?_
  refine Keeps.trans ?_ (State.begin__keeps (h_body := ?_) ..)
  · exact Keeps.refl _
  · intro _
    intro _
    intro _
    intro _
    exact State.finish_keeps ..

theorem execIndirect_keeps (h : Nat) (err : Option (Nat × Bool)) (s : State) : Kept s (execIndirect h err s) := by
  unfold execIndirect
  refine Kept.next ?_
  refine Keeps.trans ?_ (State.begin__keeps (h_body := ?_) ..)
  · exact State.eccFind_keeps ..
  · intro _
    intro _
    intro _
    intro _
    extract_lets +onlyGivenNames z1
    clear_value z1
    split
    · refine (State.accessFault_keeps ..).of ?_
      refine (Keeps.fst (State.xlate_keeps ..) (by assumption)).of ?_
      exact Keeps.refl _
    · extract_lets +onlyGivenNames z2
      clear_value z2
      dsimp -zeta -zetaHave only
      extract_lets +onlyGivenNames z3
      clear_value z3
      extract_lets +onlyGivenNames z4
      clear_value z4
      refine (State.setQueue_keeps ..).of ?_
      refine (State.loadFrame_keeps ..).of ?_
      refine (Keeps.fst (State.xlate_keeps ..) (by assumption)).of ?_
      exact Keeps.refl _

theorem State.saveCheck_keeps (s : State) (k : Nat) (sa : Nat) (n : Nat) : Keeps s (State.saveCheck s k sa n).1 := by
  unfold State.saveCheck
  refine Keeps.ite_fst (fun _ => ?_) (fun _ => ?_)
  · refine Keeps.mk_fst ?_
    exact Keeps.refl _
  · refine Keeps.ite_fst (fun _ => ?_) (fun _ => ?_)
    · refine Keeps.mk_fst ?_
      exact Keeps.refl _
    · split
      · refine Keeps.mk_fst ?_
        refine (Keeps.fst (State.xlate_keeps ..) (by assumption)).of ?_
        exact Keeps.refl _
      · refine Keeps.mk_fst ?_
        refine (Keeps.fst (State.xlate_keeps ..) (by assumption)).of ?_
        exact Keeps.refl _
      · refine Keeps.mk_fst ?_
        refine (Keeps.fst (State.xlate_keeps ..) (by assumption)).of ?_
        exact Keeps.refl _

theorem State.readyLaunch_keeps (s : State) (h : Nat) (q : Queue) (f : Front) (ws : List W) (inline : Bool) : Keeps s (State.readyLaunch s h q f ws inline) := by
  unfold State.readyLaunch
  extract_lets +onlyGivenNames z1
  clear_value z1
  extract_lets +onlyGivenNames z2
  clear_value z2
  extract_lets +onlyGivenNames z3
  clear_value z3
  extract_lets +onlyGivenNames z4
  clear_value z4
  extract_lets +onlyGivenNames z5
  clear_value z5
  refine Keeps.ite (fun _ => ?_) (fun _ => ?_)
  · exact State.cmdFault_keeps ..
  · split
    · refine (State.accessFault_keeps ..).of ?_
      refine (Keeps.fst (State.xlate_keeps ..) (by assumption)).of ?_
      exact Keeps.refl _
    · refine (State.cmdFault_keeps ..).of ?_
      refine (Keeps.fst (State.xlate_keeps ..) (by assumption)).of ?_
      exact Keeps.refl _
    · split
      · refine (State.accessFault_keeps ..).of ?_
        refine Keeps.fst (?_ : Keeps _ _) (by assumption)
        refine Keeps.ite_fst (fun _ => ?_) (fun _ => ?_)
        · refine Keeps.mk_fst ?_
          refine (Keeps.fst (State.xlate_keeps ..) (by assumption)).of ?_
          exact Keeps.refl _
        · split
          · refine Keeps.mk_fst ?_
            refine (Keeps.fst (State.xlate_keeps ..) (by assumption)).of ?_
            refine (Keeps.fst (State.xlate_keeps ..) (by assumption)).of ?_
            exact Keeps.refl _
          · refine Keeps.mk_fst ?_
            refine (Keeps.fst (State.xlate_keeps ..) (by assumption)).of ?_
            refine (Keeps.fst (State.xlate_keeps ..) (by assumption)).of ?_
            exact Keeps.refl _
      · split
        · refine (State.cmdFault_keeps ..).of ?_
          refine (Keeps.fst (State.saveCheck_keeps ..) (by assumption)).of ?_
          refine Keeps.fst (?_ : Keeps _ _) (by assumption)
          refine Keeps.ite_fst (fun _ => ?_) (fun _ => ?_)
          · refine Keeps.mk_fst ?_
            refine (Keeps.fst (State.xlate_keeps ..) (by assumption)).of ?_
            exact Keeps.refl _
          · split
            · refine Keeps.mk_fst ?_
              refine (Keeps.fst (State.xlate_keeps ..) (by assumption)).of ?_
              refine (Keeps.fst (State.xlate_keeps ..) (by assumption)).of ?_
              exact Keeps.refl _
            · refine Keeps.mk_fst ?_
              refine (Keeps.fst (State.xlate_keeps ..) (by assumption)).of ?_
              refine (Keeps.fst (State.xlate_keeps ..) (by assumption)).of ?_
              exact Keeps.refl _
        · refine (State.accessFault_keeps ..).of ?_
          refine (Keeps.fst (State.saveCheck_keeps ..) (by assumption)).of ?_
          refine Keeps.fst (?_ : Keeps _ _) (by assumption)
          refine Keeps.ite_fst (fun _ => ?_) (fun _ => ?_)
          · refine Keeps.mk_fst ?_
            refine (Keeps.fst (State.xlate_keeps ..) (by assumption)).of ?_
            exact Keeps.refl _
          · split
            · refine Keeps.mk_fst ?_
              refine (Keeps.fst (State.xlate_keeps ..) (by assumption)).of ?_
              refine (Keeps.fst (State.xlate_keeps ..) (by assumption)).of ?_
              exact Keeps.refl _
            · refine Keeps.mk_fst ?_
              refine (Keeps.fst (State.xlate_keeps ..) (by assumption)).of ?_
              refine (Keeps.fst (State.xlate_keeps ..) (by assumption)).of ?_
              exact Keeps.refl _
        · extract_lets +onlyGivenNames z6
          clear_value z6
          extract_lets +onlyGivenNames z7
          clear_value z7
          extract_lets +onlyGivenNames z8
          refine Keeps.cut (b := z8) ?_ ?_
          · unfold z8
            refine (State.setLaunch_keeps ..).of ?_
            refine (Keeps.fst (State.saveCheck_keeps ..) (by assumption)).of ?_
            refine Keeps.fst (?_ : Keeps _ _) (by assumption)
            refine Keeps.ite_fst (fun _ => ?_) (fun _ => ?_)
            · refine Keeps.mk_fst ?_
              refine (Keeps.fst (State.xlate_keeps ..) (by assumption)).of ?_
              exact Keeps.refl _
            · split
              · refine Keeps.mk_fst ?_
                refine (Keeps.fst (State.xlate_keeps ..) (by assumption)).of ?_
                refine (Keeps.fst (State.xlate_keeps ..) (by assumption)).of ?_
                exact Keeps.refl _
              · refine Keeps.mk_fst ?_
                refine (Keeps.fst (State.xlate_keeps ..) (by assumption)).of ?_
                refine (Keeps.fst (State.xlate_keeps ..) (by assumption)).of ?_
                exact Keeps.refl _
          · intro hz8
            extract_lets +onlyGivenNames z9
            clear_value z9
            extract_lets +onlyGivenNames z10
            refine Keeps.cut (b := z10) ?_ ?_
            · unfold z10
              exact (State.setQueue_keeps ..).of ‹_›
            · intro hz10
              exact Keeps.mk' ‹_› (.refl _) le_rfl

theorem execLaunch_keeps (h : Nat) (s : State) : Kept s (execLaunch h s) := by
  unfold execLaunch
  refine Kept.next ?_
  refine Keeps.trans ?_ (State.begin__keeps (h_body := ?_) ..)
  · exact Keeps.refl _
  · intro _
    intro _
    intro _
    intro _
    exact State.readyLaunch_keeps ..

theorem execLaunchInline_keeps (h : Nat) (s : State) : Kept s (execLaunchInline h s) := by
  unfold execLaunchInline
  refine Kept.next ?_
  refine Keeps.trans ?_ (State.begin__keeps (h_body := ?_) ..)
  · exact Keeps.refl _
  · intro _
    intro _
    intro _
    intro _
    exact State.readyLaunch_keeps ..

theorem State.startMover_keeps (s : State) (h : Nat) (q : Queue) (f : Front) (ws : List W) (toHost : Bool) (chain : Bool) (p : Plan) (hd : Handling) : Keeps s (State.startMover s h q f ws toHost chain p hd) := by
  unfold State.startMover
  extract_lets +onlyGivenNames z1
  clear_value z1
  extract_lets +onlyGivenNames z2
  clear_value z2
  extract_lets +onlyGivenNames z3
  clear_value z3
  refine (State.start_keeps ..).of ?_
  refine (State.countHandling_keeps ..).of ?_
  exact Keeps.mk' (Keeps.refl _) (.refl _) le_rfl

theorem State.beginCopy_keeps (s : State) (h : Nat) (q : Queue) (f : Front) (ws : List W) : Keeps s (State.beginCopy s h q f ws) := by
  unfold State.beginCopy
  extract_lets +onlyGivenNames z1
  clear_value z1
  extract_lets +onlyGivenNames z2
  clear_value z2
  extract_lets +onlyGivenNames z3
  clear_value z3
  refine Keeps.ite (fun _ => ?_) (fun _ => ?_)
  · exact State.cmdFault_keeps ..
  · split
    · refine (State.accessFault_keeps ..).of ?_
      refine (Keeps.fst (State.firstBytes_keeps ..) (by assumption)).of ?_
      exact Keeps.refl _
    · refine Keeps.ite (fun _ => ?_) (fun _ => ?_)
      · refine (State.cmdFault_keeps ..).of ?_
        refine (Keeps.fst (State.firstBytes_keeps ..) (by assumption)).of ?_
        exact Keeps.refl _
      · extract_lets +onlyGivenNames z4
        clear_value z4
        refine Keeps.ite (fun _ => ?_) (fun _ => ?_)
        · refine (State.queueFault_keeps ..).of ?_
          refine (State.countUnsafe_keeps ..).of ?_
          refine (Keeps.fst (State.firstBytes_keeps ..) (by assumption)).of ?_
          exact Keeps.refl _
        · dsimp -zeta -zetaHave only
          refine (State.startMover_keeps ..).of ?_
          refine (State.planCopy_keeps ..).of ?_
          refine (Keeps.fst (State.firstBytes_keeps ..) (by assumption)).of ?_
          exact Keeps.refl _

theorem State.beginChain_keeps (s : State) (h : Nat) (q : Queue) (f : Front) (ws : List W) : Keeps s (State.beginChain s h q f ws) := by
  unfold State.beginChain
  extract_lets +onlyGivenNames z1
  clear_value z1
  split
  · refine (State.accessFault_keeps ..).of ?_
    refine (Keeps.fst (State.xlate_keeps ..) (by assumption)).of ?_
    exact Keeps.refl _
  · refine (State.cmdFault_keeps ..).of ?_
    refine (Keeps.fst (State.xlate_keeps ..) (by assumption)).of ?_
    exact Keeps.refl _
  · extract_lets +onlyGivenNames z2
    clear_value z2
    refine (State.chainBegin_keeps ..).of ?_
    refine (State.startMover_keeps ..).of ?_
    refine (Keeps.fst (State.xlate_keeps ..) (by assumption)).of ?_
    exact Keeps.refl _

theorem execCopy_keeps (h : Nat) (err : Option (Nat × Bool)) (s : State) : Kept s (execCopy h err s) := by
  unfold execCopy
  refine Kept.next ?_
  refine Keeps.trans ?_ (State.begin__keeps (h_body := ?_) ..)
  · exact State.eccFind_keeps ..
  · intro _
    intro _
    intro _
    intro _
    refine Keeps.ite (fun _ => ?_) (fun _ => ?_)
    · exact Keeps.refl _
    · refine Keeps.ite (fun _ => ?_) (fun _ => ?_)
      · exact State.beginChain_keeps ..
      · exact State.beginCopy_keeps ..

theorem execFill_keeps (h : Nat) (s : State) : Kept s (execFill h s) := by
  unfold execFill
  refine Kept.next ?_
  refine Keeps.trans ?_ (State.begin__keeps (h_body := ?_) ..)
  · exact Keeps.refl _
  · intro _
    intro _
    intro _
    intro _
    refine Keeps.ite (fun _ => ?_) (fun _ => ?_)
    · exact Keeps.refl _
    · extract_lets +onlyGivenNames z1
      clear_value z1
      extract_lets +onlyGivenNames z2
      clear_value z2
      refine Keeps.ite (fun _ => ?_) (fun _ => ?_)
      · exact State.cmdFault_keeps ..
      · split
        · refine (State.accessFault_keeps ..).of ?_
          refine (Keeps.fst (State.firstBytes_keeps ..) (by assumption)).of ?_
          exact Keeps.refl _
        · refine (State.startMover_keeps ..).of ?_
          refine (Keeps.fst (State.firstBytes_keeps ..) (by assumption)).of ?_
          exact Keeps.refl _

theorem State.sendCmd_keeps (s : State) (h : Nat) (q : Queue) (f : Front) (ws : List W) (kind : HubKind) (val : Nat) (w : Work) : Keeps s (State.sendCmd s h q f ws kind val w) := by
  unfold State.sendCmd
  extract_lets +onlyGivenNames z1
  clear_value z1
  split
  · exact State.cmdFault_keeps ..
  · extract_lets +onlyGivenNames z2
    clear_value z2
    refine Keeps.ite (fun _ => ?_) (fun _ => ?_)
    · exact State.cmdFault_keeps ..
    · refine (State.sendOp_keeps ..).of ?_
      exact State.start_keeps ..

theorem execSignal_keeps (h : Nat) (s : State) : Kept s (execSignal h s) := by
  unfold execSignal
  refine Kept.next ?_
  refine Keeps.trans ?_ (State.begin__keeps (h_body := ?_) ..)
  · exact Keeps.refl _
  · intro _
    intro _
    intro _
    intro _
    exact State.sendCmd_keeps ..

theorem execWait_keeps (h : Nat) (s : State) : Kept s (execWait h s) := by
  unfold execWait
  refine Kept.next ?_
  refine Keeps.trans ?_ (State.begin__keeps (h_body := ?_) ..)
  · exact Keeps.refl _
  · intro _
    intro _
    intro _
    intro _
    extract_lets +onlyGivenNames z1
    clear_value z1
    exact State.sendCmd_keeps ..

theorem execArrive_keeps (h : Nat) (s : State) : Kept s (execArrive h s) := by
  unfold execArrive
  refine Kept.next ?_
  refine Keeps.trans ?_ (State.begin__keeps (h_body := ?_) ..)
  · exact Keeps.refl _
  · intro _
    intro _
    intro _
    intro _
    exact State.sendCmd_keeps ..

theorem execFence_keeps (h : Nat) (s : State) : Kept s (execFence h s) := by
  unfold execFence
  refine Kept.next ?_
  refine Keeps.trans ?_ (State.begin__keeps (h_body := ?_) ..)
  · exact Keeps.refl _
  · intro _
    intro _
    intro _
    intro _
    refine Keeps.ite (fun _ => ?_) (fun _ => ?_)
    · exact Keeps.refl _
    · exact State.finish_keeps ..

theorem execCond_keeps (h : Nat) (err : Option (Nat × Bool)) (s : State) : Kept s (execCond h err s) := by
  unfold execCond
  refine Kept.next ?_
  refine Keeps.trans ?_ (State.begin__keeps (h_body := ?_) ..)
  · exact State.eccFind_keeps ..
  · intro _
    intro _
    intro _
    intro _
    extract_lets +onlyGivenNames z1
    clear_value z1
    refine Keeps.ite (fun _ => ?_) (fun _ => ?_)
    · refine Keeps.trans ?_ (State.withOperand_keeps (h_eff := ?_) ..)
      · exact Keeps.refl _
      · intro _
        intro _
        intro _
        intro ht
        cases ht
        exact State.condEffect_keeps ..
    · split
      · exact State.cmdFault_keeps ..
      · refine (State.finish_keeps ..).of ?_
        exact State.condEffect_keeps ..

theorem execLoopBegin_keeps (h : Nat) (s : State) : Kept s (execLoopBegin h s) := by
  unfold execLoopBegin
  refine Kept.next ?_
  refine Keeps.trans ?_ (State.begin__keeps (h_body := ?_) ..)
  · exact Keeps.refl _
  · intro _
    intro _
    intro _
    intro _
    refine Keeps.ite (fun _ => ?_) (fun _ => ?_)
    · exact State.cmdFault_keeps ..
    · extract_lets +onlyGivenNames z1
      clear_value z1
      refine (State.finish_keeps ..).of ?_
      exact State.setQueue_keeps ..

theorem execLoopEnd_keeps (h : Nat) (s : State) : Kept s (execLoopEnd h s) := by
  unfold execLoopEnd
  refine Kept.next ?_
  refine Keeps.trans ?_ (State.begin__keeps (h_body := ?_) ..)
  · exact Keeps.refl _
  · intro _
    intro _
    intro _
    intro _
    split
    · exact State.cmdFault_keeps ..
    · refine Keeps.ite (fun _ => ?_) (fun _ => ?_)
      · exact State.cmdFault_keeps ..
      · refine Keeps.ite (fun _ => ?_) (fun _ => ?_)
        · extract_lets +onlyGivenNames z1
          clear_value z1
          refine (State.countDone_keeps ..).of ?_
          exact State.setQueue_keeps ..
        · refine (State.finish_keeps ..).of ?_
          exact State.setQueue_keeps ..

theorem State.beginResult_keeps (s : State) (h : Nat) (q : Queue) (f : Front) (va : Nat) (wait : Bool) (rest : List W) : Keeps s (State.beginResult s h q f va wait rest) := by
  unfold State.beginResult
  split
  · refine (State.accessFault_keeps ..).of ?_
    refine (Keeps.fst (State.xlate_keeps ..) (by assumption)).of ?_
    exact Keeps.refl _
  · extract_lets +onlyGivenNames z1
    clear_value z1
    refine Keeps.ite (fun _ => ?_) (fun _ => ?_)
    · extract_lets +onlyGivenNames z2
      refine Keeps.cut (b := z2) ?_ ?_
      · unfold z2
        refine (State.start_keeps ..).of ?_
        refine (Keeps.fst (State.xlate_keeps ..) (by assumption)).of ?_
        exact Keeps.refl _
      · intro hz2
        exact (State.setQueue_keeps ..).of ‹_›
    · refine (State.putBytesOf_keeps ..).of ?_
      refine (Keeps.fst (State.xlate_keeps ..) (by assumption)).of ?_
      exact Keeps.refl _

theorem execTimestamp_keeps (h : Nat) (s : State) : Kept s (execTimestamp h s) := by
  unfold execTimestamp
  refine Kept.next ?_
  refine Keeps.trans ?_ (State.begin__keeps (h_body := ?_) ..)
  · exact Keeps.refl _
  · intro _
    intro _
    intro _
    intro _
    exact State.beginResult_keeps ..

theorem execWriteData_keeps (h : Nat) (s : State) : Kept s (execWriteData h s) := by
  unfold execWriteData
  refine Kept.next ?_
  refine Keeps.trans ?_ (State.begin__keeps (h_body := ?_) ..)
  · exact Keeps.refl _
  · intro _
    intro _
    intro _
    intro _
    exact State.putBytesOf_keeps ..

theorem execReport_keeps (h : Nat) (s : State) : Kept s (execReport h s) := by
  unfold execReport
  refine Kept.next ?_
  refine Keeps.trans ?_ (State.begin__keeps (h_body := ?_) ..)
  · exact Keeps.refl _
  · intro _
    intro _
    intro _
    intro _
    exact State.beginResult_keeps ..

theorem execBeaconWait_keeps (h : Nat) (s : State) : Kept s (execBeaconWait h s) := by
  unfold execBeaconWait
  refine Kept.next ?_
  refine Keeps.trans ?_ (State.begin__keeps (h_body := ?_) ..)
  · exact Keeps.refl _
  · intro _
    intro _
    intro _
    intro _
    extract_lets +onlyGivenNames z1
    clear_value z1
    extract_lets +onlyGivenNames z2
    clear_value z2
    refine Keeps.ite (fun _ => ?_) (fun _ => ?_)
    · exact State.finish_keeps ..
    · extract_lets +onlyGivenNames z3
      refine Keeps.cut (b := z3) ?_ ?_
      · unfold z3
        exact State.start_keeps ..
      · intro hz3
        exact (State.setQueue_keeps ..).of ‹_›

theorem State.planesIn_keeps (k : Nat) (l : List Nat) (s : State) :
    Keeps s (State.planesIn k l s).1 := by
  induction l generalizing s with
  | nil => exact Keeps.refl _
  | cons p l ih =>
    unfold State.planesIn
    split
    · refine Keeps.mk_fst ?_
      refine (Keeps.fst (State.xlate_keeps ..) (by assumption)).of ?_
      exact Keeps.refl _
    · refine Keeps.mk_fst ?_
      refine (Keeps.fst (State.xlate_keeps ..) (by assumption)).of ?_
      exact Keeps.refl _
    · refine (ih ..).of ?_
      refine (Keeps.fst (State.xlate_keeps ..) (by assumption)).of ?_
      exact Keeps.refl _


theorem State.planePages_keeps (k len : Nat) (l : List Nat) (s : State) :
    Keeps s (State.planePages k len l s).1 := by
  induction l generalizing s with
  | nil => exact Keeps.refl _
  | cons p l ih =>
    unfold State.planePages
    dsimp -zeta -zetaHave only
    refine (ih ..).of ?_
    exact State.segs_keeps ..


theorem State.acceptFlip_keeps (s : State) (d : Nat) (fr : FrameT) : Keeps s (State.acceptFlip s d fr) := by
  unfold State.acceptFlip
  extract_lets +onlyGivenNames z1
  clear_value z1
  extract_lets +onlyGivenNames z2
  refine Keeps.cut (b := z2) ?_ ?_
  · unfold z2
    refine Keeps.ite (fun _ => ?_) (fun _ => ?_)
    · exact State.count_keeps ..
    · exact Keeps.refl _
  · intro hz2
    exact (State.setHead_keeps ..).of ‹_›

theorem execScanoutFlip_keeps (h : Nat) (s : State) : Kept s (execScanoutFlip h s) := by
  unfold execScanoutFlip
  refine Kept.next ?_
  refine Keeps.trans ?_ (State.begin__keeps (h_body := ?_) ..)
  · exact Keeps.refl _
  · intro _
    intro _
    intro _
    intro _
    extract_lets +onlyGivenNames z1
    clear_value z1
    extract_lets +onlyGivenNames z2
    clear_value z2
    extract_lets +onlyGivenNames z3
    clear_value z3
    refine Keeps.ite (fun _ => ?_) (fun _ => ?_)
    · exact State.cmdFault_keeps ..
    · refine Keeps.ite (fun _ => ?_) (fun _ => ?_)
      · exact State.cmdFault_keeps ..
      · split
        · refine (State.accessFault_keeps ..).of ?_
          refine (Keeps.fst (State.planesIn_keeps ..) (by assumption)).of ?_
          exact Keeps.refl _
        · refine (State.cmdFault_keeps ..).of ?_
          refine (Keeps.fst (State.planesIn_keeps ..) (by assumption)).of ?_
          exact Keeps.refl _
        · dsimp -zeta -zetaHave only
          refine (State.finish_keeps ..).of ?_
          refine (State.acceptFlip_keeps ..).of ?_
          refine (State.planePages_keeps ..).of ?_
          refine (Keeps.fst (State.planesIn_keeps ..) (by assumption)).of ?_
          exact Keeps.refl _

theorem execSetContext_keeps (h : Nat) (s : State) : Kept s (execSetContext h s) := by
  unfold execSetContext
  refine Kept.next ?_
  refine Keeps.trans ?_ (State.begin__keeps (h_body := ?_) ..)
  · exact Keeps.refl _
  · intro _
    intro _
    intro _
    intro _
    extract_lets +onlyGivenNames z1
    clear_value z1
    split
    · exact State.cmdFault_keeps ..
    · split
      · refine (State.accessFault_keeps ..).of ?_
        refine Keeps.fst (?_ : Keeps _ _) (by assumption)
        refine Keeps.ite_fst (fun _ => ?_) (fun _ => ?_)
        · split
          · refine Keeps.mk_fst ?_
            refine (Keeps.fst (State.xlate_keeps ..) (by assumption)).of ?_
            exact Keeps.refl _
          · refine Keeps.mk_fst ?_
            refine (Keeps.fst (State.xlate_keeps ..) (by assumption)).of ?_
            exact Keeps.refl _
        · refine Keeps.mk_fst ?_
          exact Keeps.refl _
      · extract_lets +onlyGivenNames z2
        refine Keeps.cut (b := z2) ?_ ?_
        · unfold z2
          refine (State.finish_keeps ..).of ?_
          refine Keeps.fst (?_ : Keeps _ _) (by assumption)
          refine Keeps.ite_fst (fun _ => ?_) (fun _ => ?_)
          · split
            · refine Keeps.mk_fst ?_
              refine (Keeps.fst (State.xlate_keeps ..) (by assumption)).of ?_
              exact Keeps.refl _
            · refine Keeps.mk_fst ?_
              refine (Keeps.fst (State.xlate_keeps ..) (by assumption)).of ?_
              exact Keeps.refl _
          · refine Keeps.mk_fst ?_
            exact Keeps.refl _
        · intro hz2
          extract_lets +onlyGivenNames z3
          clear_value z3
          extract_lets +onlyGivenNames z4
          clear_value z4
          exact (State.setQueue_keeps ..).of ‹_›

theorem execHtabLoad_keeps (h : Nat) (err : Option (Nat × Bool)) (s : State) : Kept s (execHtabLoad h err s) := by
  unfold execHtabLoad
  refine Kept.next ?_
  refine Keeps.trans ?_ (State.begin__keeps (h_body := ?_) ..)
  · exact State.eccFind_keeps ..
  · intro _
    intro _
    intro _
    intro _
    extract_lets +onlyGivenNames z1
    clear_value z1
    refine Keeps.ite (fun _ => ?_) (fun _ => ?_)
    · exact State.cmdFault_keeps ..
    · refine Keeps.trans ?_ (State.withOperand_keeps (h_eff := ?_) ..)
      · exact Keeps.refl _
      · intro _
        intro _
        intro _
        intro ht
        exact State.htabEffect_keeps (ht := by assumption) ..

theorem State.settleInval_keeps (s : State) : Keeps s (State.settleInval s) := by
  unfold State.settleInval
  refine Keeps.foldl (fun _ _ => ?_) ?_
  · refine Keeps.ite (fun _ => ?_) (fun _ => ?_)
    · exact Keeps.refl _
    · refine (State.complete_keeps ..).of ?_
      exact State.count_keeps ..
  · exact Keeps.refl _

theorem execDmmuInvalidate_keeps (h : Nat) (s : State) : Kept s (execDmmuInvalidate h s) := by
  unfold execDmmuInvalidate
  refine Kept.next ?_
  refine Keeps.trans ?_ (State.begin__keeps (h_body := ?_) ..)
  · exact Keeps.refl _
  · intro _
    intro _
    intro _
    intro _
    extract_lets +onlyGivenNames z1
    clear_value z1
    extract_lets +onlyGivenNames z2
    clear_value z2
    extract_lets +onlyGivenNames z3
    clear_value z3
    extract_lets +onlyGivenNames z4
    refine Keeps.cut (b := z4) ?_ ?_
    · unfold z4
      exact Keeps.mk' (Keeps.refl _) (.refl _) le_rfl
    · intro hz4
      refine Keeps.ite (fun _ => ?_) (fun _ => ?_)
      · exact (State.start_keeps ..).of ‹_›
      · refine (State.finish_keeps ..).of ?_
        exact (State.count_keeps ..).of ‹_›

theorem execSyncInit_keeps (h : Nat) (err : Option (Nat × Bool)) (s : State) : Kept s (execSyncInit h err s) := by
  unfold execSyncInit
  refine Kept.next ?_
  refine Keeps.trans ?_ (State.begin__keeps (h_body := ?_) ..)
  · exact State.eccFind_keeps ..
  · intro _
    intro _
    intro _
    intro _
    extract_lets +onlyGivenNames z1
    clear_value z1
    extract_lets +onlyGivenNames z2
    clear_value z2
    refine Keeps.ite (fun _ => ?_) (fun _ => ?_)
    · exact State.cmdFault_keeps ..
    · refine Keeps.trans ?_ (State.withOperand_keeps (h_eff := ?_) ..)
      · exact Keeps.refl _
      · intro _
        intro _
        intro _
        intro ht
        exact State.syncEffect_keeps (ht := by assumption) ..

theorem execTimeoutSet_keeps (h : Nat) (s : State) : Kept s (execTimeoutSet h s) := by
  unfold execTimeoutSet
  refine Kept.next ?_
  refine Keeps.trans ?_ (State.begin__keeps (h_body := ?_) ..)
  · exact Keeps.refl _
  · intro _
    intro _
    intro _
    intro _
    split
    · exact State.cmdFault_keeps ..
    · refine Keeps.ite (fun _ => ?_) (fun _ => ?_)
      · exact State.cmdFault_keeps ..
      · extract_lets +onlyGivenNames z1
        refine Keeps.cut (b := z1) ?_ ?_
        · unfold z1
          exact State.finish_keeps ..
        · intro hz1
          exact (State.setQueue_keeps ..).of ‹_›

end Sys2Proof.Machine
end

