-- ==== Sys2Proof/Laws/KeepsEvents.lean ====
section
/-! SUPPORT. What the operations and commands of Machine/Events.lean keep: one lemma for each. -/

set_option Elab.async false
namespace Sys2Proof.Machine

theorem State.postEvent_keeps (s : State) (k : Nat) (code : Nat) (payload : List Byte) : Keeps s (State.postEvent s k code payload) := by
  unfold State.postEvent
  extract_lets +onlyGivenNames z1
  clear_value z1
  refine Keeps.ite (fun _ => ?_) (fun _ => ?_)
  · exact Keeps.refl _
  · refine Keeps.ite (fun _ => ?_) (fun _ => ?_)
    · refine (State.setReg_keeps ..).of ?_
      exact State.setRings_keeps ..
    · exact State.setRings_keeps ..

theorem State.resvChanged_keeps (s : State) (r : Nat) (reason : Nat) (cause : Nat) (ticks : Nat) : Keeps s (State.resvChanged s r reason cause ticks) := by
  unfold State.resvChanged
  exact State.postEvent_keeps ..

theorem State.holdEffect_keeps (s : State) (a : Nat) : Keeps s (State.holdEffect s a) := by
  unfold State.holdEffect
  refine Keeps.ite (fun _ => ?_) (fun _ => ?_)
  · exact Keeps.refl _
  · exact Keeps.mk' (Keeps.refl _) (.refl _) le_rfl

theorem State.latchRange_keeps (s : State) (lo : Nat) (n : Nat) : Keeps s (State.latchRange s lo n) := by
  unfold State.latchRange
  exact Keeps.mk' (Keeps.refl _) (.refl _) le_rfl

theorem State.freeResv_keeps (s : State) (r : Nat) : Keeps s (State.freeResv s r) := by
  unfold State.freeResv
  extract_lets +onlyGivenNames z1
  refine Keeps.cut (b := z1) ?_ ?_
  · unfold z1
    exact State.setResv_keeps ..
  · intro hz1
    exact Keeps.mk' ‹_› (.refl _) le_rfl

theorem State.shedResvs_keeps (s : State) (b n : Nat) :
    Keeps s (State.shedResvs s b n) := by
  induction n generalizing s with
  | zero => exact Keeps.refl _
  | succ n ih =>
    unfold State.shedResvs
    refine Keeps.ite (fun _ => ?_) (fun _ => ?_)
    · exact Keeps.refl _
    · split
      · refine (ih ..).of ?_
        refine (State.freeResv_keeps ..).of ?_
        exact State.resvChanged_keeps ..
      · exact Keeps.refl _


end Sys2Proof.Machine
end

