-- ==== Sys2Proof/Laws/KeepsSched.lean ====
section
/-! SUPPORT. What the operations and commands of Machine/Sched.lean keep: one lemma for each. -/

set_option Elab.async false
namespace Sys2Proof.Machine

theorem State.yieldGap_keeps (s : State) (c : Ctx) : Keeps s (State.yieldGap s c) := by
  unfold State.yieldGap
  exact State.maxReg_keeps ..

theorem State.drained_keeps (s : State) (i : Nat) : Keeps s (State.drained s i) := by
  unfold State.drained
  split
  · exact Keeps.refl _
  · refine Keeps.ite (fun _ => ?_) (fun _ => ?_)
    · extract_lets +onlyGivenNames z1
      clear_value z1
      refine (State.queueFault_keeps ..).of ?_
      exact State.killLaunch_keeps ..
    · exact Keeps.refl _

theorem State.endCtx_keeps (s : State) (i : Nat) (n : Nat) : Keeps s (State.endCtx s i n) := by
  unfold State.endCtx
  refine (State.kick_keeps ..).of ?_
  refine (State.drained_keeps ..).of ?_
  exact State.dropCtx_keeps ..

theorem State.stopCtx_keeps (s : State) (i : Nat) (n : Nat) (c : Ctx) : Keeps s (State.stopCtx s i n c) := by
  unfold State.stopCtx
  refine (State.leaveRun_keeps ..).of ?_
  refine (State.tick_keeps ..).of ?_
  exact State.yieldGap_keeps ..

theorem State.tryStop_keeps (s : State) (i : Nat) (n : Nat) : Keeps s (State.tryStop s i n) := by
  unfold State.tryStop
  cases (s.ctx i n)
  · dsimp -zeta -zetaHave only
    exact Keeps.refl _
  · cases (tblFind i s.launches)
    · dsimp -zeta -zetaHave only
      exact Keeps.refl _
    · dsimp -zeta -zetaHave only
      refine Keeps.ite (fun _ => ?_) (fun _ => ?_)
      · exact State.stopCtx_keeps ..
      · refine Keeps.ite (fun _ => ?_) (fun _ => ?_)
        · extract_lets +onlyGivenNames z1
          refine Keeps.cut (b := z1) ?_ ?_
          · unfold z1
            exact State.count_keeps ..
          · intro hz1
            refine Keeps.ite (fun _ => ?_) (fun _ => ?_)
            · refine (State.endCtx_keeps ..).of ?_
              exact (State.yieldGap_keeps ..).of ‹_›
            · exact (State.stopCtx_keeps ..).of ‹_›
        · exact Keeps.refl _

theorem State.placeCtxs_keeps (s : State) (i : Nat) (gran : Nat) (m : BitVec 16) : Keeps s (State.placeCtxs s i gran m) := by
  unfold State.placeCtxs
  extract_lets +onlyGivenNames z1
  refine Keeps.cut (b := z1) ?_ ?_
  · unfold z1
    refine Keeps.foldl (fun _ _ => ?_) ?_
    · dsimp -zeta -zetaHave only
      extract_lets +onlyGivenNames z2
      clear_value z2
      refine (State.tick_keeps ..).of ?_
      refine (State.latchRange_keeps ..).of ?_
      refine (State.setCtx_keeps ..).of ?_
      exact State.takeSlot_keeps ..
    · exact Keeps.refl _
  · intro hz1
    extract_lets +onlyGivenNames z2
    refine Keeps.cut (b := z2) ?_ ?_
    · unfold z2
      split
      · exact (State.latchRange_keeps ..).of ‹_›
      · assumption
    · intro hz2
      refine Keeps.foldl (fun _ _ => ?_) ?_
      · exact State.able_keeps ..
      · assumption

theorem State.launchCut_keeps (s : State) (i : Nat) (f : State → Nat → Pos → State) (h_f : ∀ (x0 : State) (x1 : Nat) (x2 : Pos), Keeps x0 (f x0 x1 x2)) : Keeps s (State.launchCut s i f) := by
  unfold State.launchCut
  split
  · exact Keeps.refl _
  · extract_lets +onlyGivenNames z1
    clear_value z1
    refine (h_f _ _ _).of ?_
    exact State.killLaunch_keeps ..

theorem State.askConst_keeps (i k : Nat) (l : List Seg) (s : State) (got : Tbl (List Byte)) (need : List Nat) :
    Keeps s (State.askConst i k l s got need).1 := by
  induction l generalizing s got need with
  | nil => exact Keeps.refl _
  | cons p l ih =>
    obtain ⟨o, d, m⟩ := p
    cases d with
    | hbm pa =>
      unfold State.askConst
      exact ih ..
    | host a =>
      unfold State.askConst
      extract_lets +onlyGivenNames z1
      clear_value z1
      refine (ih ..).of ?_
      refine Keeps.foldl (fun _ _ => ?_) ?_
      · dsimp -zeta -zetaHave only
        exact State.issueRead_keeps ..
      · exact Keeps.refl _


theorem State.snapDone_keeps (s : State) (i : Nat) : Keeps s (State.snapDone s i) := by
  unfold State.snapDone
  split
  · refine Keeps.ite (fun _ => ?_) (fun _ => ?_)
    · exact State.setLaunch_keeps ..
    · exact Keeps.refl _
  · exact Keeps.refl _

theorem State.constData_keeps (s : State) (i : Nat) (off : Nat) (d : List Byte) : Keeps s (State.constData s i off d) := by
  unfold State.constData
  split
  · refine (State.snapDone_keeps ..).of ?_
    exact State.setLaunch_keeps ..
  · exact Keeps.refl _

theorem State.constFail_keeps (s : State) (i : Nat) (c : Cpl) : Keeps s (State.constFail s i c) := by
  unfold State.constFail
  refine Keeps.trans ?_ (State.launchCut_keeps (h_f := ?_) ..)
  · exact Keeps.refl _
  · intro _
    intro _
    intro _
    exact State.hostReadFault_keeps ..

theorem State.takeSnapshot_keeps (s : State) (i : Nat) (l : Launch) : Keeps s (State.takeSnapshot s i l) := by
  unfold State.takeSnapshot
  split
  · exact State.setLaunch_keeps ..
  · split
    · refine Keeps.trans ?_ (State.launchCut_keeps (h_f := ?_) ..)
      · refine (Keeps.fst (State.segs_keeps ..) (by assumption)).of ?_
        exact Keeps.refl _
      · intro _
        intro _
        intro _
        exact State.accessFault_keeps ..
    · split
      · refine Keeps.trans ?_ (State.launchCut_keeps (h_f := ?_) ..)
        · refine (Keeps.fst (State.segs_keeps ..) (by assumption)).of ?_
          exact Keeps.refl _
        · intro _
          intro _
          intro _
          exact State.accessFault_keeps ..
      · refine Keeps.ite (fun _ => ?_) (fun _ => ?_)
        · refine (State.constFail_keeps ..).of ?_
          refine (Keeps.fst (State.segs_keeps ..) (by assumption)).of ?_
          exact Keeps.refl _
        · dsimp -zeta -zetaHave only
          refine (State.snapDone_keeps ..).of ?_
          refine (State.setLaunch_keeps ..).of ?_
          refine (State.askConst_keeps ..).of ?_
          refine (Keeps.fst (State.segs_keeps ..) (by assumption)).of ?_
          exact Keeps.refl _

theorem State.withdraw_keeps (s : State) (i : Nat) : Keeps s (State.withdraw s i) := by
  unfold State.withdraw
  split
  · exact Keeps.refl _
  · refine Keeps.ite (fun _ => ?_) (fun _ => ?_)
    · exact Keeps.refl _
    · extract_lets +onlyGivenNames z1
      clear_value z1
      extract_lets +onlyGivenNames z2
      refine Keeps.cut (b := z2) ?_ ?_
      · unfold z2
        exact State.setQueue_keeps ..
      · intro hz2
        exact Keeps.mk' ‹_› (.refl _) le_rfl

theorem execLaunchDispatch_keeps (i : Nat) (err : Option (Nat × Bool)) (s : State) : Kept s (execLaunchDispatch i err s) := by
  unfold execLaunchDispatch
  refine Kept.next ?_
  split
  · exact Keeps.refl _
  · refine Keeps.ite (fun _ => ?_) (fun _ => ?_)
    · exact Keeps.refl _
    · split
      · exact Keeps.refl _
      · extract_lets +onlyGivenNames z1
        refine Keeps.cut (b := z1) ?_ ?_
        · unfold z1
          exact State.eccFind_keeps ..
        · intro hz1
          extract_lets +onlyGivenNames z2
          clear_value z2
          refine Keeps.ite (fun _ => ?_) (fun _ => ?_)
          · refine (State.cmdFault_keeps ..).of ?_
            exact (State.withdraw_keeps ..).of ‹_›
          · extract_lets +onlyGivenNames z3
            clear_value z3
            extract_lets +onlyGivenNames z4
            clear_value z4
            extract_lets +onlyGivenNames z5
            clear_value z5
            extract_lets +onlyGivenNames z6
            clear_value z6
            extract_lets +onlyGivenNames z7
            refine Keeps.cut (b := z7) ?_ ?_
            · unfold z7
              exact (State.count_keeps ..).of ‹_›
            · intro hz7
              extract_lets +onlyGivenNames z8
              refine Keeps.cut (b := z8) ?_ ?_
              · unfold z8
                refine Keeps.ite (fun _ => ?_) (fun _ => ?_)
                · exact (State.maxReg_keeps ..).of ‹_›
                · assumption
              · intro hz8
                extract_lets +onlyGivenNames z9
                refine Keeps.cut (b := z9) ?_ ?_
                · unfold z9
                  refine Keeps.ite (fun _ => ?_) (fun _ => ?_)
                  · exact (State.count_keeps ..).of ‹_›
                  · assumption
                · intro hz9
                  extract_lets +onlyGivenNames z10
                  refine Keeps.cut (b := z10) ?_ ?_
                  · unfold z10
                    exact Keeps.mk' ‹_› (.refl _) le_rfl
                  · intro hz10
                    extract_lets +onlyGivenNames z11
                    clear_value z11
                    extract_lets +onlyGivenNames z12
                    refine Keeps.cut (b := z12) ?_ ?_
                    · unfold z12
                      refine (State.setLaunch_keeps ..).of ?_
                      exact (State.setQueue_keeps ..).of ‹_›
                    · intro hz12
                      extract_lets +onlyGivenNames z13
                      refine Keeps.cut (b := z13) ?_ ?_
                      · unfold z13
                        exact (State.start_keeps ..).of ‹_›
                      · intro hz13
                        extract_lets +onlyGivenNames z14
                        refine Keeps.cut (b := z14) ?_ ?_
                        · unfold z14
                          exact (State.traceArea_keeps ..).of ‹_›
                        · intro hz14
                          refine (State.takeSnapshot_keeps ..).of ?_
                          exact (State.placeCtxs_keeps ..).of ‹_›

theorem execLaunchComplete_keeps (i : Nat) (s : State) : Kept s (execLaunchComplete i s) := by
  unfold execLaunchComplete
  refine Kept.next ?_
  split
  · refine Keeps.ite (fun _ => ?_) (fun _ => ?_)
    · exact State.launchDone_keeps ..
    · exact Keeps.refl _
  · exact Keeps.refl _

theorem execSliceExpiry_keeps (i : Nat) (s : State) : Kept s (execSliceExpiry i s) := by
  unfold execSliceExpiry
  refine Kept.next ?_
  split
  · exact Keeps.refl _
  · refine Keeps.ite (fun _ => ?_) (fun _ => ?_)
    · exact Keeps.refl _
    · extract_lets +onlyGivenNames z1
      clear_value z1
      refine Keeps.foldl (fun _ _ => ?_) ?_
      · split
        · exact Keeps.refl _
        · extract_lets +onlyGivenNames z2
          clear_value z2
          extract_lets +onlyGivenNames z3
          refine Keeps.cut (b := z3) ?_ ?_
          · unfold z3
            exact State.setCtx_keeps ..
          · intro hz3
            refine Keeps.ite (fun _ => ?_) (fun _ => ?_)
            · exact (State.askYield_keeps ..).of ‹_›
            · assumption
      · exact Keeps.refl _

theorem State.imageSegs_keeps (s : State) (i : Nat) (n : Nat) (l : Launch) (c : Ctx) (write : Bool) : Keeps s (State.imageSegs s i n l c write).1 := by
  unfold State.imageSegs
  split
  · refine Keeps.mk_fst ?_
    refine (State.engineFault_keeps ..).of ?_
    refine (Keeps.fst (State.segs_keeps ..) (by assumption)).of ?_
    exact Keeps.refl _
  · refine Keeps.ite_fst (fun _ => ?_) (fun _ => ?_)
    · refine Keeps.mk_fst ?_
      refine (State.yardTrap_keeps ..).of ?_
      refine (Keeps.fst (State.segs_keeps ..) (by assumption)).of ?_
      exact Keeps.refl _
    · refine Keeps.mk_fst ?_
      refine (Keeps.fst (State.segs_keeps ..) (by assumption)).of ?_
      exact Keeps.refl _

theorem State.swapOut_keeps (s : State) (i : Nat) (n : Nat) (c : Ctx) : Keeps s (State.swapOut s i n c) := by
  unfold State.swapOut
  split
  · exact Keeps.refl _
  · split
    · refine (Keeps.fst (State.imageSegs_keeps ..) (by assumption)).of ?_
      exact Keeps.refl _
    · refine (State.setCtx_keeps ..).of ?_
      refine (State.count_keeps ..).of ?_
      refine (Keeps.fst (State.imageSegs_keeps ..) (by assumption)).of ?_
      exact Keeps.refl _

theorem execSwapOutStart_keeps (i : Nat) (n : Nat) (s : State) : Kept s (execSwapOutStart i n s) := by
  unfold execSwapOutStart
  refine Kept.next ?_
  split
  · exact Keeps.refl _
  · refine Keeps.ite (fun _ => ?_) (fun _ => ?_)
    · split
      · refine Keeps.ite (fun _ => ?_) (fun _ => ?_)
        · exact State.swapOut_keeps ..
        · exact Keeps.refl _
      · exact Keeps.refl _
    · refine Keeps.ite (fun _ => ?_) (fun _ => ?_)
      · split
        · exact State.swapOut_keeps ..
        · exact Keeps.refl _
      · exact Keeps.refl _

theorem execSwapOutComplete_keeps (i : Nat) (n : Nat) (s : State) : Kept s (execSwapOutComplete i n s) := by
  unfold execSwapOutComplete
  refine Kept.next ?_
  cases (s.ctx i n)
  · dsimp -zeta -zetaHave only
    exact Keeps.refl _
  · cases (tblFind i s.launches)
    · dsimp -zeta -zetaHave only
      exact Keeps.refl _
    · dsimp -zeta -zetaHave only
      refine Keeps.ite (fun _ => ?_) (fun _ => ?_)
      · exact Keeps.refl _
      · split
        · refine (Keeps.fst (State.imageSegs_keeps ..) (by assumption)).of ?_
          exact Keeps.refl _
        · extract_lets +onlyGivenNames z1
          refine Keeps.cut (b := z1) ?_ ?_
          · unfold z1
            refine (State.bumpFree_keeps ..).of ?_
            refine (State.segWrite_keeps ..).of ?_
            refine (Keeps.fst (State.imageSegs_keeps ..) (by assumption)).of ?_
            exact Keeps.refl _
          · intro hz1
            refine (State.kick_keeps ..).of ?_
            refine (State.leaveSlot_keeps ..).of ?_
            exact (State.setCtx_keeps ..).of ‹_›

theorem execSwapIn_keeps (i : Nat) (n : Nat) (s : State) : Kept s (execSwapIn i n s) := by
  unfold execSwapIn
  refine Kept.next ?_
  cases (s.ctx i n)
  · dsimp -zeta -zetaHave only
    exact Keeps.refl _
  · cases (tblFind i s.launches)
    · dsimp -zeta -zetaHave only
      exact Keeps.refl _
    · dsimp -zeta -zetaHave only
      refine Keeps.ite (fun _ => ?_) (fun _ => ?_)
      · exact Keeps.refl _
      · split
        · refine (Keeps.fst (State.imageSegs_keeps ..) (by assumption)).of ?_
          exact Keeps.refl _
        · extract_lets +onlyGivenNames z1
          clear_value z1
          refine (State.setCtx_keeps ..).of ?_
          refine (State.takeSlot_keeps ..).of ?_
          refine (State.count_keeps ..).of ?_
          refine (Keeps.fst (State.imageSegs_keeps ..) (by assumption)).of ?_
          exact Keeps.refl _

theorem execSwapInComplete_keeps (i : Nat) (n : Nat) (err : Option (Nat × Bool)) (s : State) : Kept s (execSwapInComplete i n err s) := by
  unfold execSwapInComplete
  refine Kept.next ?_
  cases (s.ctx i n)
  · dsimp -zeta -zetaHave only
    exact Keeps.refl _
  · cases (tblFind i s.launches)
    · dsimp -zeta -zetaHave only
      exact Keeps.refl _
    · dsimp -zeta -zetaHave only
      refine Keeps.ite (fun _ => ?_) (fun _ => ?_)
      · exact Keeps.refl _
      · split
        · refine (Keeps.fst (State.imageSegs_keeps ..) (by assumption)).of ?_
          exact State.eccFind_keeps ..
        · split
          · refine (State.engineFault_keeps ..).of ?_
            refine (Keeps.fst (State.imageSegs_keeps ..) (by assumption)).of ?_
            exact State.eccFind_keeps ..
          · extract_lets +onlyGivenNames z1
            clear_value z1
            refine (State.able_keeps ..).of ?_
            refine (State.tick_keeps ..).of ?_
            refine (State.setCtx_keeps ..).of ?_
            refine (Keeps.fst (State.imageSegs_keeps ..) (by assumption)).of ?_
            exact State.eccFind_keeps ..

theorem execYieldLimitExpiry_keeps (l : Nat) (n : Nat) (s : State) : Kept s (execYieldLimitExpiry l n s) := by
  unfold execYieldLimitExpiry
  refine Kept.next ?_
  split
  · exact Keeps.refl _
  · refine Keeps.ite (fun _ => ?_) (fun _ => ?_)
    · exact Keeps.refl _
    · refine Keeps.ite (fun _ => ?_) (fun _ => ?_)
      · refine (State.leaveRun_keeps ..).of ?_
        refine (State.yieldGap_keeps ..).of ?_
        exact State.count_keeps ..
      · refine Keeps.ite (fun _ => ?_) (fun _ => ?_)
        · refine (State.tryStop_keeps ..).of ?_
          refine (State.setCtx_keeps ..).of ?_
          exact State.count_keeps ..
        · exact Keeps.refl _

theorem execForcedSaveOverdue_keeps (l : Nat) (n : Nat) (s : State) : Kept s (execForcedSaveOverdue l n s) := by
  unfold execForcedSaveOverdue
  refine Kept.next ?_
  split
  · exact Keeps.refl _
  · refine Keeps.ite (fun _ => ?_) (fun _ => ?_)
    · exact Keeps.refl _
    · refine (State.kick_keeps ..).of ?_
      refine (State.launchFault_keeps ..).of ?_
      refine (State.cause_keeps ..).of ?_
      exact State.count_keeps ..

theorem State.relock_keeps (s : State) (b : Nat) (vb : Bool) : Keeps s (State.relock s b vb) := by
  unfold State.relock
  extract_lets +onlyGivenNames z1
  clear_value z1
  refine Keeps.ite (fun _ => ?_) (fun _ => ?_)
  · extract_lets +onlyGivenNames z2
    clear_value z2
    refine Keeps.ite (fun _ => ?_) (fun _ => ?_)
    · extract_lets +onlyGivenNames z3
      clear_value z3
      extract_lets +onlyGivenNames z4
      refine Keeps.cut (b := z4) ?_ ?_
      · unfold z4
        exact State.setBeacon_keeps ..
      · intro hz4
        refine Keeps.ite (fun _ => ?_) (fun _ => ?_)
        · exact (State.shedResvs_keeps ..).of ‹_›
        · assumption
    · exact Keeps.refl _
  · exact Keeps.refl _

theorem State.beaconMiss_keeps (s : State) (r : Nat) (cause : Nat) (ticks : Nat) : Keeps s (State.beaconMiss s r cause ticks) := by
  unfold State.beaconMiss
  extract_lets +onlyGivenNames z1
  clear_value z1
  extract_lets +onlyGivenNames z2
  refine Keeps.cut (b := z2) ?_ ?_
  · unfold z2
    exact State.setResv_keeps ..
  · intro hz2
    extract_lets +onlyGivenNames z3
    refine Keeps.cut (b := z3) ?_ ?_
    · unfold z3
      refine (State.cause_keeps ..).of ?_
      refine (State.capture31_keeps ..).of ?_
      exact (State.count_keeps ..).of ‹_›
    · intro hz3
      refine (State.resvChanged_keeps ..).of ?_
      exact (State.raise_keeps ..).of ‹_›

theorem State.newPeriod_keeps (s : State) (r : Nat) (old : W) (new : W) (paused : Bool) : Keeps s (State.newPeriod s r old new paused) := by
  unfold State.newPeriod
  extract_lets +onlyGivenNames z1
  clear_value z1
  extract_lets +onlyGivenNames z2
  clear_value z2
  extract_lets +onlyGivenNames z3
  clear_value z3
  extract_lets +onlyGivenNames z4
  refine Keeps.cut (b := z4) ?_ ?_
  · unfold z4
    refine Keeps.ite (fun _ => ?_) (fun _ => ?_)
    · exact State.beaconMiss_keeps ..
    · refine Keeps.ite (fun _ => ?_) (fun _ => ?_)
      · exact State.beaconMiss_keeps ..
      · exact Keeps.refl _
  · intro hz4
    exact (State.setResv_keeps ..).of ‹_›

theorem State.realign_keeps (s : State) (i : Nat) : Keeps s (State.realign s i) := by
  unfold State.realign
  extract_lets +onlyGivenNames z1
  clear_value z1
  extract_lets +onlyGivenNames z2
  clear_value z2
  refine (State.evaluate_keeps ..).of ?_
  exact State.setObj_keeps ..

theorem State.releaseBeacon_keeps (s : State) (b : Nat) : Keeps s (State.releaseBeacon s b) := by
  unfold State.releaseBeacon
  refine Keeps.foldl (fun _ _ => ?_) ?_
  · exact State.complete_keeps ..
  · exact Keeps.refl _

theorem State.tickBeacon_keeps (s : State) (b : Nat) (ideal : Nat) : Keeps s (State.tickBeacon s b ideal) := by
  unfold State.tickBeacon
  extract_lets +onlyGivenNames z1
  clear_value z1
  extract_lets +onlyGivenNames z2
  clear_value z2
  extract_lets +onlyGivenNames z3
  clear_value z3
  extract_lets +onlyGivenNames z4
  clear_value z4
  extract_lets +onlyGivenNames z5
  refine Keeps.cut (b := z5) ?_ ?_
  · unfold z5
    exact State.setBeacon_keeps ..
  · intro hz5
    extract_lets +onlyGivenNames z6
    refine Keeps.cut (b := z6) ?_ ?_
    · unfold z6
      exact (State.maxReg_keeps ..).of ‹_›
    · intro hz6
      extract_lets +onlyGivenNames z7
      refine Keeps.cut (b := z7) ?_ ?_
      · unfold z7
        refine Keeps.ite (fun _ => ?_) (fun _ => ?_)
        · exact (State.countField_keeps ..).of ‹_›
        · exact (State.releaseBeacon_keeps ..).of ‹_›
      · intro hz7
        extract_lets +onlyGivenNames z8
        refine Keeps.cut (b := z8) ?_ ?_
        · unfold z8
          refine Keeps.foldl (fun _ _ => ?_) ?_
          · exact State.newPeriod_keeps ..
          · assumption
        · intro hz8
          extract_lets +onlyGivenNames z9
          refine Keeps.cut (b := z9) ?_ ?_
          · unfold z9
            refine Keeps.foldl (fun _ _ => ?_) ?_
            · exact State.realign_keeps ..
            · assumption
          · intro hz9
            extract_lets +onlyGivenNames z10
            clear_value z10
            extract_lets +onlyGivenNames z11
            refine Keeps.cut (b := z11) ?_ ?_
            · unfold z11
              split
              · assumption
              · exact (State.setBeacon_keeps ..).of ‹_›
            · intro hz11
              refine (State.cause_keeps ..).of ?_
              exact (State.latchRange_keeps ..).of ‹_›

theorem execBeaconTick_keeps (b : Nat) (vb : Bool) (s : State) : Kept s (execBeaconTick b vb s) := by
  unfold execBeaconTick
  refine Kept.next ?_
  split
  · exact Keeps.refl _
  · refine Keeps.ite (fun _ => ?_) (fun _ => ?_)
    · refine (State.tickBeacon_keeps ..).of ?_
      exact State.relock_keeps ..
    · exact Keeps.refl _

theorem State.loseLock_keeps (s : State) (b : Nat) : Keeps s (State.loseLock s b) := by
  unfold State.loseLock
  extract_lets +onlyGivenNames z1
  clear_value z1
  refine Keeps.ite (fun _ => ?_) (fun _ => ?_)
  · exact Keeps.refl _
  · refine (State.cause_keeps ..).of ?_
    refine (State.countField_keeps ..).of ?_
    exact State.setBeacon_keeps ..

theorem execBeaconLockLoss_keeps (b : Nat) (s : State) : Kept s (execBeaconLockLoss b s) := by
  unfold execBeaconLockLoss
  refine Kept.next ?_
  refine Keeps.ite (fun _ => ?_) (fun _ => ?_)
  · exact State.loseLock_keeps ..
  · exact Keeps.refl _

theorem execBudgetExhausted_keeps (r : Nat) (s : State) : Kept s (execBudgetExhausted r s) := by
  unfold execBudgetExhausted
  extract_lets +onlyGivenNames z1
  clear_value z1
  refine Kept.next ?_
  refine Keeps.ite (fun _ => ?_) (fun _ => ?_)
  · exact Keeps.refl _
  · extract_lets +onlyGivenNames z2
    refine Keeps.cut (b := z2) ?_ ?_
    · unfold z2
      exact State.setResv_keeps ..
    · intro hz2
      refine Keeps.foldl (fun _ _ => ?_) ?_
      · dsimp -zeta -zetaHave only
        refine (State.leaveRun_keeps ..).of ?_
        exact State.countField_keeps ..
      · assumption

theorem State.noteTimeout_keeps (s : State) (h : Nat) (op : Nat) : Keeps s (State.noteTimeout s h op) := by
  unfold State.noteTimeout
  refine (State.cause_keeps ..).of ?_
  refine (State.capture31_keeps ..).of ?_
  exact State.count_keeps ..

theorem State.drainLaunch_keeps (s : State) (i : Nat) : Keeps s (State.drainLaunch s i) := by
  unfold State.drainLaunch
  split
  · exact Keeps.refl _
  · extract_lets +onlyGivenNames z1
    refine Keeps.cut (b := z1) ?_ ?_
    · unfold z1
      exact State.setLaunch_keeps ..
    · intro hz1
      extract_lets +onlyGivenNames z2
      refine Keeps.cut (b := z2) ?_ ?_
      · unfold z2
        refine Keeps.foldl (fun _ _ => ?_) ?_
        · split
          · exact Keeps.refl _
          · refine Keeps.ite (fun _ => ?_) (fun _ => ?_)
            · refine (State.tryStop_keeps ..).of ?_
              exact State.askYield_keeps ..
            · exact State.dropCtx_keeps ..
        · assumption
      · intro hz2
        refine (State.kick_keeps ..).of ?_
        exact (State.drained_keeps ..).of ‹_›

theorem State.timeoutEnd_keeps (s : State) (c : Cmd) : Keeps s (State.timeoutEnd s c) := by
  unfold State.timeoutEnd
  extract_lets +onlyGivenNames z1
  clear_value z1
  extract_lets +onlyGivenNames z2
  refine Keeps.cut (b := z2) ?_ ?_
  · unfold z2
    exact Keeps.mk' (Keeps.refl _) (.refl _) le_rfl
  · intro hz2
    exact (State.queueFault_keeps ..).of ‹_›

theorem execCommandTimeoutExpiry_keeps (id : Nat) (n : Nat) (s : State) : Kept s (execCommandTimeoutExpiry id n s) := by
  unfold execCommandTimeoutExpiry
  refine Kept.next ?_
  split
  · exact Keeps.refl _
  · split
    · refine Keeps.ite (fun _ => ?_) (fun _ => ?_)
      · exact Keeps.refl _
      · refine (State.drainLaunch_keeps ..).of ?_
        exact State.noteTimeout_keeps ..
    · extract_lets +onlyGivenNames z1
      refine Keeps.cut (b := z1) ?_ ?_
      · unfold z1
        refine (State.moverPartly_keeps ..).of ?_
        exact State.noteTimeout_keeps ..
      · intro hz1
        split
        · assumption
        · refine Keeps.trans ?_ (State.moverFault_keeps (h_f := ?_) ..)
          · assumption
          · intro _
            intro _
            intro _
            exact State.queueFault_keeps ..
    · refine (State.timeoutEnd_keeps ..).of ?_
      exact State.noteTimeout_keeps ..
    · refine (State.timeoutEnd_keeps ..).of ?_
      exact State.noteTimeout_keeps ..
    · refine (State.timeoutEnd_keeps ..).of ?_
      exact State.noteTimeout_keeps ..
    · refine Keeps.ite (fun _ => ?_) (fun _ => ?_)
      · refine (State.timeoutEnd_keeps ..).of ?_
        exact State.noteTimeout_keeps ..
      · exact Keeps.refl _
    · exact Keeps.refl _

theorem execDrainGraceExpiry_keeps (i : Nat) (s : State) : Kept s (execDrainGraceExpiry i s) := by
  unfold execDrainGraceExpiry
  refine Kept.next ?_
  split
  · exact Keeps.refl _
  · refine Keeps.ite (fun _ => ?_) (fun _ => ?_)
    · exact Keeps.refl _
    · extract_lets +onlyGivenNames z1
      refine Keeps.cut (b := z1) ?_ ?_
      · unfold z1
        exact State.count_keeps ..
      · intro hz1
        extract_lets +onlyGivenNames z2
        refine Keeps.cut (b := z2) ?_ ?_
        · unfold z2
          refine Keeps.ite (fun _ => ?_) (fun _ => ?_)
          · exact (State.setReg_keeps ..).of ‹_›
          · assumption
        · intro hz2
          refine (State.kick_keeps ..).of ?_
          refine (State.drained_keeps ..).of ?_
          refine Keeps.foldl (fun _ _ => ?_) ?_
          · exact State.dropCtx_keeps ..
          · assumption

end Sys2Proof.Machine
end

