-- ==== Sys2Proof/Laws/KeepsYard.lean ====
section
/-! SUPPORT. What the operations and commands of Machine/Yard.lean keep: one lemma for each. -/

set_option Elab.async false
namespace Sys2Proof.Machine

theorem State.l1Fill_keeps (s : State) (n : Nat) (k : Nat) (hint : Nat) (pa : Nat) (len : Nat) : Keeps s (State.l1Fill s n k hint pa len) := by
  unfold State.l1Fill
  refine Keeps.ite (fun _ => ?_) (fun _ => ?_)
  · exact Keeps.refl _
  · refine Keeps.foldl (fun _ _ => ?_) ?_
    · extract_lets +onlyGivenNames z1
      clear_value z1
      refine Keeps.ite (fun _ => ?_) (fun _ => ?_)
      · exact Keeps.refl _
      · exact Keeps.mk' (Keeps.refl _) (.refl _) le_rfl
    · exact Keeps.refl _

theorem State.l1Write_keeps (s : State) (n : Nat) (hint : Nat) (pa : Nat) (len : Nat) : Keeps s (State.l1Write s n hint pa len) := by
  unfold State.l1Write
  extract_lets +onlyGivenNames z1
  clear_value z1
  refine Keeps.ite (fun _ => ?_) (fun _ => ?_)
  · exact Keeps.mk' (Keeps.refl _) (.refl _) le_rfl
  · exact Keeps.mk' (Keeps.refl _) (.refl _) le_rfl

theorem State.readAt_keeps (s : State) (r : Run) (word : Nat) (p : Place) (len : Nat) : Keeps s (State.readAt s r word p len).1 := by
  unfold State.readAt
  split
  · extract_lets +onlyGivenNames z1
    clear_value z1
    refine Keeps.mk_fst ?_
    exact Keeps.refl _
  · split
    · refine Keeps.mk_fst ?_
      refine (Keeps.fst (State.segs_keeps ..) (by assumption)).of ?_
      exact Keeps.refl _
    · refine Keeps.ite_fst (fun _ => ?_) (fun _ => ?_)
      · refine Keeps.mk_fst ?_
        refine (Keeps.fst (State.segs_keeps ..) (by assumption)).of ?_
        exact Keeps.refl _
      · split
        · refine Keeps.mk_fst ?_
          refine (Keeps.fst (State.segs_keeps ..) (by assumption)).of ?_
          exact Keeps.refl _
        · extract_lets +onlyGivenNames z1
          clear_value z1
          extract_lets +onlyGivenNames z2
          refine Keeps.cut (b := z2) ?_ ?_
          · unfold z2
            refine Keeps.foldl (fun _ _ => ?_) ?_
            · split
              · exact State.l1Fill_keeps ..
              · exact Keeps.refl _
            · refine (Keeps.fst (State.segs_keeps ..) (by assumption)).of ?_
              exact Keeps.refl _
          · intro hz2
            refine Keeps.mk_fst ?_
            exact (State.bumpFree_keeps ..).of ‹_›

theorem State.writeAt_keeps (s : State) (r : Run) (word : Nat) (p : Place) (d : List Byte) : Keeps s (State.writeAt s r word p d).1 := by
  unfold State.writeAt
  split
  · split
    · refine Keeps.mk_fst ?_
      exact State.setCtx_keeps ..
    · refine Keeps.mk_fst ?_
      exact Keeps.refl _
  · dsimp -zeta -zetaHave only
    extract_lets +onlyGivenNames z1
    clear_value z1
    extract_lets +onlyGivenNames z2
    clear_value z2
    extract_lets +onlyGivenNames z3
    refine Keeps.cut (b := z3) ?_ ?_
    · unfold z3
      refine Keeps.foldl (fun _ _ => ?_) ?_
      · split
        · refine (State.l1Write_keeps ..).of ?_
          exact State.devWrite_keeps ..
        · exact Keeps.refl _
      · exact State.segs_keeps ..
    · intro hz3
      refine Keeps.mk_fst ?_
      assumption

theorem State.readRows_keeps (r : Run) (word : Nat) (p0 : Place) (len : Nat) (l : List Nat) (s : State) (acc : List (List Byte)) :
    Keeps s (State.readRows r word p0 len l s acc).1 := by
  induction l generalizing s acc with
  | nil => exact Keeps.refl _
  | cons p l ih =>
    unfold State.readRows
    split
    · refine Keeps.mk_fst ?_
      refine (Keeps.fst (State.readAt_keeps ..) (by assumption)).of ?_
      exact Keeps.refl _
    · refine (ih ..).of ?_
      refine (Keeps.fst (State.readAt_keeps ..) (by assumption)).of ?_
      exact Keeps.refl _


theorem State.writeRows_keeps (r : Run) (word : Nat) (p0 : Place) (l : List (Nat × List Byte)) (s : State) :
    Keeps s (State.writeRows r word p0 l s).1 := by
  induction l generalizing s with
  | nil => exact Keeps.refl _
  | cons p l ih =>
    obtain ⟨o, b⟩ := p
    unfold State.writeRows
    split
    · refine Keeps.mk_fst ?_
      refine (Keeps.fst (State.writeAt_keeps ..) (by assumption)).of ?_
      exact Keeps.refl _
    · refine (ih ..).of ?_
      refine (Keeps.fst (State.writeAt_keeps ..) (by assumption)).of ?_
      exact Keeps.refl _


theorem State.snag_keeps (s : State) (r : Run) (pc : Nat) (a1 : Snag) : Keeps s (State.snag s r pc a1) := by
  unfold State.snag
  split
  · refine (State.kick_keeps ..).of ?_
    exact State.engineFault_keeps ..
  · refine (State.kick_keeps ..).of ?_
    exact State.yardTrap_keeps ..

theorem State.trapDesc_keeps (s : State) (r : Run) (pc : Nat) (t : Trap) : Keeps s (State.trapDesc s r pc t) := by
  unfold State.trapDesc
  refine (State.kick_keeps ..).of ?_
  exact State.yardTrap_keeps ..

theorem State.yardImage_keeps (s : State) (i : Nat) (n : Nat) (l : Launch) (off : Nat) (len : Nat) (fetch : Bool) (pc : Nat) : Keeps s (State.yardImage s i n l off len fetch pc).1 := by
  unfold State.yardImage
  split
  · refine Keeps.mk_fst ?_
    refine (State.kick_keeps ..).of ?_
    refine (State.engineFault_keeps ..).of ?_
    refine (Keeps.fst (State.segs_keeps ..) (by assumption)).of ?_
    exact Keeps.refl _
  · refine Keeps.ite_fst (fun _ => ?_) (fun _ => ?_)
    · refine Keeps.mk_fst ?_
      refine (State.kick_keeps ..).of ?_
      refine (State.yardTrap_keeps ..).of ?_
      refine (Keeps.fst (State.segs_keeps ..) (by assumption)).of ?_
      exact Keeps.refl _
    · split
      · refine Keeps.mk_fst ?_
        refine (State.kick_keeps ..).of ?_
        refine (State.engineFault_keeps ..).of ?_
        refine (Keeps.fst (State.segs_keeps ..) (by assumption)).of ?_
        exact Keeps.refl _
      · extract_lets +onlyGivenNames z1
        clear_value z1
        extract_lets +onlyGivenNames z2
        refine Keeps.cut (b := z2) ?_ ?_
        · unfold z2
          refine Keeps.foldl (fun _ _ => ?_) ?_
          · split
            · exact State.l1Fill_keeps ..
            · exact Keeps.refl _
          · refine (Keeps.fst (State.segs_keeps ..) (by assumption)).of ?_
            exact Keeps.refl _
        · intro hz2
          refine Keeps.mk_fst ?_
          exact (State.bumpFree_keeps ..).of ‹_›

theorem State.readImage_keeps (s : State) (i : Nat) (n : Nat) (l : Launch) (off : Nat) (len : Nat) : Keeps s (State.readImage s i n l off len).1 := by
  unfold State.readImage
  exact State.yardImage_keeps ..

theorem execYardContextEnter_keeps (i : Nat) (n : Nat) (err : Option (Nat × Bool)) (s : State) : Kept s (execYardContextEnter i n err s) := by
  unfold execYardContextEnter
  refine Kept.next ?_
  cases (tblFind i s.launches)
  · dsimp -zeta -zetaHave only
    exact Keeps.refl _
  · cases (s.ctx i n)
    · dsimp -zeta -zetaHave only
      exact Keeps.refl _
    · dsimp -zeta -zetaHave only
      refine Keeps.ite (fun _ => ?_) (fun _ => ?_)
      · exact Keeps.refl _
      · split
        · refine (Keeps.fst (State.readImage_keeps ..) (by assumption)).of ?_
          refine (State.dropL1_keeps ..).of ?_
          exact State.eccFind_keeps ..
        · extract_lets +onlyGivenNames z1
          clear_value z1
          split
          · refine Keeps.fst (?_ : Keeps _ _) (by assumption)
            refine Keeps.ite_fst (fun _ => ?_) (fun _ => ?_)
            · refine (State.readImage_keeps ..).of ?_
              refine (Keeps.fst (State.readImage_keeps ..) (by assumption)).of ?_
              refine (State.dropL1_keeps ..).of ?_
              exact State.eccFind_keeps ..
            · refine Keeps.mk_fst ?_
              refine (Keeps.fst (State.readImage_keeps ..) (by assumption)).of ?_
              refine (State.dropL1_keeps ..).of ?_
              exact State.eccFind_keeps ..
          · split
            · refine Keeps.fst (?_ : Keeps _ _) (by assumption)
              refine Keeps.ite_fst (fun _ => ?_) (fun _ => ?_)
              · refine (State.readImage_keeps ..).of ?_
                refine Keeps.fst (?_ : Keeps _ _) (by assumption)
                refine Keeps.ite_fst (fun _ => ?_) (fun _ => ?_)
                · refine (State.readImage_keeps ..).of ?_
                  refine (Keeps.fst (State.readImage_keeps ..) (by assumption)).of ?_
                  refine (State.dropL1_keeps ..).of ?_
                  exact State.eccFind_keeps ..
                · refine Keeps.mk_fst ?_
                  refine (Keeps.fst (State.readImage_keeps ..) (by assumption)).of ?_
                  refine (State.dropL1_keeps ..).of ?_
                  exact State.eccFind_keeps ..
              · refine Keeps.mk_fst ?_
                refine Keeps.fst (?_ : Keeps _ _) (by assumption)
                refine Keeps.ite_fst (fun _ => ?_) (fun _ => ?_)
                · refine (State.readImage_keeps ..).of ?_
                  refine (Keeps.fst (State.readImage_keeps ..) (by assumption)).of ?_
                  refine (State.dropL1_keeps ..).of ?_
                  exact State.eccFind_keeps ..
                · refine Keeps.mk_fst ?_
                  refine (Keeps.fst (State.readImage_keeps ..) (by assumption)).of ?_
                  refine (State.dropL1_keeps ..).of ?_
                  exact State.eccFind_keeps ..
            · split
              · refine (State.kick_keeps ..).of ?_
                refine (State.yardTrap_keeps ..).of ?_
                refine Keeps.fst (?_ : Keeps _ _) (by assumption)
                refine Keeps.ite_fst (fun _ => ?_) (fun _ => ?_)
                · refine (State.readImage_keeps ..).of ?_
                  refine Keeps.fst (?_ : Keeps _ _) (by assumption)
                  refine Keeps.ite_fst (fun _ => ?_) (fun _ => ?_)
                  · refine (State.readImage_keeps ..).of ?_
                    refine (Keeps.fst (State.readImage_keeps ..) (by assumption)).of ?_
                    refine (State.dropL1_keeps ..).of ?_
                    exact State.eccFind_keeps ..
                  · refine Keeps.mk_fst ?_
                    refine (Keeps.fst (State.readImage_keeps ..) (by assumption)).of ?_
                    refine (State.dropL1_keeps ..).of ?_
                    exact State.eccFind_keeps ..
                · refine Keeps.mk_fst ?_
                  refine Keeps.fst (?_ : Keeps _ _) (by assumption)
                  refine Keeps.ite_fst (fun _ => ?_) (fun _ => ?_)
                  · refine (State.readImage_keeps ..).of ?_
                    refine (Keeps.fst (State.readImage_keeps ..) (by assumption)).of ?_
                    refine (State.dropL1_keeps ..).of ?_
                    exact State.eccFind_keeps ..
                  · refine Keeps.mk_fst ?_
                    refine (Keeps.fst (State.readImage_keeps ..) (by assumption)).of ?_
                    refine (State.dropL1_keeps ..).of ?_
                    exact State.eccFind_keeps ..
              · extract_lets +onlyGivenNames z2
                refine Keeps.cut (b := z2) ?_ ?_
                · unfold z2
                  refine (State.setLaunch_keeps ..).of ?_
                  refine Keeps.fst (?_ : Keeps _ _) (by assumption)
                  refine Keeps.ite_fst (fun _ => ?_) (fun _ => ?_)
                  · refine (State.readImage_keeps ..).of ?_
                    refine Keeps.fst (?_ : Keeps _ _) (by assumption)
                    refine Keeps.ite_fst (fun _ => ?_) (fun _ => ?_)
                    · refine (State.readImage_keeps ..).of ?_
                      refine (Keeps.fst (State.readImage_keeps ..) (by assumption)).of ?_
                      refine (State.dropL1_keeps ..).of ?_
                      exact State.eccFind_keeps ..
                    · refine Keeps.mk_fst ?_
                      refine (Keeps.fst (State.readImage_keeps ..) (by assumption)).of ?_
                      refine (State.dropL1_keeps ..).of ?_
                      exact State.eccFind_keeps ..
                  · refine Keeps.mk_fst ?_
                    refine Keeps.fst (?_ : Keeps _ _) (by assumption)
                    refine Keeps.ite_fst (fun _ => ?_) (fun _ => ?_)
                    · refine (State.readImage_keeps ..).of ?_
                      refine (Keeps.fst (State.readImage_keeps ..) (by assumption)).of ?_
                      refine (State.dropL1_keeps ..).of ?_
                      exact State.eccFind_keeps ..
                    · refine Keeps.mk_fst ?_
                      refine (Keeps.fst (State.readImage_keeps ..) (by assumption)).of ?_
                      refine (State.dropL1_keeps ..).of ?_
                      exact State.eccFind_keeps ..
                · intro hz2
                  extract_lets +onlyGivenNames z3
                  clear_value z3
                  extract_lets +onlyGivenNames z4
                  clear_value z4
                  refine (State.setCtx_keeps ..).of ?_
                  exact (State.bumpFree_keeps ..).of ‹_›

theorem State.itemReturn_keeps (s : State) (i : Nat) (n : Nat) (a0 : W) (pc : Nat) : Keeps s (State.itemReturn s i n a0 pc) := by
  unfold State.itemReturn
  split
  · exact Keeps.refl _
  · refine Keeps.ite (fun _ => ?_) (fun _ => ?_)
    · refine (State.kick_keeps ..).of ?_
      exact State.yardTrap_keeps ..
    · extract_lets +onlyGivenNames z1
      clear_value z1
      refine Keeps.ite (fun _ => ?_) (fun _ => ?_)
      · extract_lets +onlyGivenNames z2
        clear_value z2
        refine (State.tryStop_keeps ..).of ?_
        refine (State.setCtx_keeps ..).of ?_
        exact State.bumpFree_keeps ..
      · exact State.setCtx_keeps ..

theorem execItemReturn_keeps (i : Nat) (n : Nat) (a0 : BitVec 32) (pc : Nat) (s : State) : Kept s (execItemReturn i n a0 pc s) := by
  unfold execItemReturn
  refine Kept.next ?_
  exact State.itemReturn_keeps ..

theorem execContextEnd_keeps (i : Nat) (n : Nat) (s : State) : Kept s (execContextEnd i n s) := by
  unfold execContextEnd
  refine Kept.next ?_
  cases (tblFind i s.launches)
  · dsimp -zeta -zetaHave only
    exact Keeps.refl _
  · cases (s.ctx i n)
    · dsimp -zeta -zetaHave only
      exact Keeps.refl _
    · dsimp -zeta -zetaHave only
      refine Keeps.ite (fun _ => ?_) (fun _ => ?_)
      · exact State.endCtx_keeps ..
      · exact Keeps.refl _

theorem State.enqueue_keeps (s : State) (i : Nat) (n : Nat) (e : Nat) (c : Ctx) (ws : List W) (pc : Nat) : Keeps s (State.enqueue s i n e c ws pc) := by
  unfold State.enqueue
  extract_lets +onlyGivenNames z1
  clear_value z1
  extract_lets +onlyGivenNames z2
  clear_value z2
  refine Keeps.ite (fun _ => ?_) (fun _ => ?_)
  · refine (State.tick_keeps ..).of ?_
    exact State.setCtx_keeps ..
  · refine (State.tick_keeps ..).of ?_
    exact State.setCtx_keeps ..

theorem State.cccPush_keeps (s : State) (i : Nat) (n : Nat) (e : Nat) (ws : List W) (pc : Nat) : Keeps s (State.cccPush s i n e ws pc) := by
  unfold State.cccPush
  split
  · exact Keeps.refl _
  · refine Keeps.ite (fun _ => ?_) (fun _ => ?_)
    · exact Keeps.refl _
    · extract_lets +onlyGivenNames z1
      clear_value z1
      extract_lets +onlyGivenNames z2
      clear_value z2
      extract_lets +onlyGivenNames z3
      clear_value z3
      exact State.enqueue_keeps ..

theorem execPush_keeps (i : Nat) (n : Nat) (e : Nat) (ws : List (BitVec 32)) (pc : Nat) (s : State) : Kept s (execPush i n e ws pc s) := by
  unfold execPush
  refine Kept.next ?_
  exact State.cccPush_keeps ..

theorem State.nextDesc_keeps (s : State) (i : Nat) (n : Nat) (l : Launch) (c : Ctx) (v : Nat) : Keeps s (State.nextDesc s i n l c v).1 := by
  unfold State.nextDesc
  extract_lets +onlyGivenNames z1
  clear_value z1
  refine Keeps.ite_fst (fun _ => ?_) (fun _ => ?_)
  · refine Keeps.ite_fst (fun _ => ?_) (fun _ => ?_)
    · refine Keeps.mk_fst ?_
      exact Keeps.refl _
    · refine Keeps.mk_fst ?_
      exact Keeps.refl _
  · refine Keeps.ite_fst (fun _ => ?_) (fun _ => ?_)
    · refine Keeps.mk_fst ?_
      exact Keeps.refl _
    · split
      · refine Keeps.mk_fst ?_
        refine (Keeps.fst (State.readImage_keeps ..) (by assumption)).of ?_
        exact Keeps.refl _
      · refine Keeps.mk_fst ?_
        refine (Keeps.fst (State.readImage_keeps ..) (by assumption)).of ?_
        exact Keeps.refl _

theorem State.cccPushTable_keeps (s : State) (i : Nat) (n : Nat) (e : Nat) (v : Nat) (pc : Nat) : Keeps s (State.cccPushTable s i n e v pc) := by
  unfold State.cccPushTable
  split
  · exact Keeps.refl _
  · refine Keeps.ite (fun _ => ?_) (fun _ => ?_)
    · exact Keeps.refl _
    · split
      · refine (Keeps.fst (State.nextDesc_keeps ..) (by assumption)).of ?_
        exact Keeps.refl _
      · refine (State.kick_keeps ..).of ?_
        refine (State.yardTrap_keeps ..).of ?_
        refine (Keeps.fst (State.nextDesc_keeps ..) (by assumption)).of ?_
        exact Keeps.refl _
      · refine Keeps.ite (fun _ => ?_) (fun _ => ?_)
        · refine (State.kick_keeps ..).of ?_
          refine (State.yardTrap_keeps ..).of ?_
          refine (Keeps.fst (State.nextDesc_keeps ..) (by assumption)).of ?_
          exact Keeps.refl _
        · split
          · refine (State.enqueue_keeps ..).of ?_
            refine (Keeps.fst (State.nextDesc_keeps ..) (by assumption)).of ?_
            exact Keeps.refl _
          · refine (Keeps.fst (State.nextDesc_keeps ..) (by assumption)).of ?_
            exact Keeps.refl _

theorem execPushTable_keeps (i : Nat) (n : Nat) (e : Nat) (v : Nat) (pc : Nat) (s : State) : Kept s (execPushTable i n e v pc s) := by
  unfold execPushTable
  refine Kept.next ?_
  exact State.cccPushTable_keeps ..

theorem State.cccLevAdd_keeps (s : State) (i : Nat) (n : Nat) (k : Nat) (v : Nat) : Keeps s (State.cccLevAdd s i n k v) := by
  unfold State.cccLevAdd
  split
  · exact Keeps.refl _
  · exact State.setCtx_keeps ..

theorem execLevAdd_keeps (i : Nat) (n : Nat) (k : Nat) (v : Nat) (s : State) : Kept s (execLevAdd i n k v s) := by
  unfold execLevAdd
  refine Kept.next ?_
  exact State.cccLevAdd_keeps ..

theorem State.cccOp_keeps (s : State) (i : Nat) (n : Nat) (op : Nat) (kind : HubKind) (word : W64) (pc : Nat) : Keeps s (State.cccOp s i n op kind word pc) := by
  unfold State.cccOp
  split
  · exact Keeps.refl _
  · extract_lets +onlyGivenNames z1
    clear_value z1
    extract_lets +onlyGivenNames z2
    clear_value z2
    extract_lets +onlyGivenNames z3
    clear_value z3
    extract_lets +onlyGivenNames z4
    clear_value z4
    refine Keeps.ite (fun _ => ?_) (fun _ => ?_)
    · exact Keeps.refl _
    · refine Keeps.ite (fun _ => ?_) (fun _ => ?_)
      · refine (State.kick_keeps ..).of ?_
        exact State.yardTrap_keeps ..
      · exact State.sendOp_keeps ..

theorem execCccSyncOpSignalAdd_keeps (i : Nat) (n : Nat) (word : BitVec 64) (pc : Nat) (s : State) : Kept s (execCccSyncOpSignalAdd i n word pc s) := by
  unfold execCccSyncOpSignalAdd
  refine Kept.next ?_
  exact State.cccOp_keeps ..

theorem execCccSyncOpConsume_keeps (i : Nat) (n : Nat) (word : BitVec 64) (pc : Nat) (s : State) : Kept s (execCccSyncOpConsume i n word pc s) := by
  unfold execCccSyncOpConsume
  refine Kept.next ?_
  exact State.cccOp_keeps ..

theorem execCccSyncOpArrive_keeps (i : Nat) (n : Nat) (word : BitVec 64) (pc : Nat) (s : State) : Kept s (execCccSyncOpArrive i n word pc s) := by
  unfold execCccSyncOpArrive
  refine Kept.next ?_
  exact State.cccOp_keeps ..

theorem State.cccWait_keeps (s : State) (i : Nat) (n : Nat) (kd : Nat) (kind : HubKind) (word : W64) (pc : Nat) : Keeps s (State.cccWait s i n kd kind word pc) := by
  unfold State.cccWait
  split
  · exact Keeps.refl _
  · extract_lets +onlyGivenNames z1
    clear_value z1
    extract_lets +onlyGivenNames z2
    clear_value z2
    extract_lets +onlyGivenNames z3
    clear_value z3
    refine Keeps.ite (fun _ => ?_) (fun _ => ?_)
    · exact Keeps.refl _
    · refine Keeps.ite (fun _ => ?_) (fun _ => ?_)
      · refine (State.kick_keeps ..).of ?_
        exact State.yardTrap_keeps ..
      · exact State.sendOp_keeps ..

theorem execCccSyncWaitGe_keeps (i : Nat) (n : Nat) (word : BitVec 64) (pc : Nat) (s : State) : Kept s (execCccSyncWaitGe i n word pc s) := by
  unfold execCccSyncWaitGe
  refine Kept.next ?_
  exact State.cccWait_keeps ..

theorem execCccSyncWaitGen_keeps (i : Nat) (n : Nat) (word : BitVec 64) (pc : Nat) (s : State) : Kept s (execCccSyncWaitGen i n word pc s) := by
  unfold execCccSyncWaitGen
  refine Kept.next ?_
  exact State.cccWait_keeps ..

theorem execCccSyncWaitGeConsume_keeps (i : Nat) (n : Nat) (word : BitVec 64) (pc : Nat) (s : State) : Kept s (execCccSyncWaitGeConsume i n word pc s) := by
  unfold execCccSyncWaitGeConsume
  refine Kept.next ?_
  exact State.cccWait_keeps ..

theorem execCccSyncStatusRead_keeps (i : Nat) (n : Nat) (s : State) : Kept s (execCccSyncStatusRead i n s) := by
  unfold execCccSyncStatusRead
  refine Kept.next ?_
  split
  · exact Keeps.refl _
  · refine Keeps.ite (fun _ => ?_) (fun _ => ?_)
    · exact Keeps.refl _
    · exact State.answer_keeps ..

theorem State.cccYield_keeps (s : State) (i : Nat) (n : Nat) (idx : Nat) (pc : Nat) : Keeps s (State.cccYield s i n idx pc) := by
  unfold State.cccYield
  split
  · exact Keeps.refl _
  · split
    · refine (Keeps.fst (State.readImage_keeps ..) (by assumption)).of ?_
      exact Keeps.refl _
    · refine Keeps.ite (fun _ => ?_) (fun _ => ?_)
      · refine (State.kick_keeps ..).of ?_
        refine (State.yardTrap_keeps ..).of ?_
        refine (Keeps.fst (State.readImage_keeps ..) (by assumption)).of ?_
        exact Keeps.refl _
      · split
        · refine Keeps.ite (fun _ => ?_) (fun _ => ?_)
          · refine (State.tryStop_keeps ..).of ?_
            refine (State.setCtx_keeps ..).of ?_
            refine (Keeps.fst (State.readImage_keeps ..) (by assumption)).of ?_
            exact Keeps.refl _
          · refine (Keeps.fst (State.readImage_keeps ..) (by assumption)).of ?_
            exact Keeps.refl _
        · refine (Keeps.fst (State.readImage_keeps ..) (by assumption)).of ?_
          exact Keeps.refl _

theorem execYield_keeps (i : Nat) (n : Nat) (idx : Nat) (pc : Nat) (s : State) : Kept s (execYield i n idx pc s) := by
  unfold execYield
  refine Kept.next ?_
  exact State.cccYield_keeps ..

theorem State.cccTrap_keeps (s : State) (i : Nat) (n : Nat) (v : Nat) (pc : Nat) : Keeps s (State.cccTrap s i n v pc) := by
  unfold State.cccTrap
  split
  · exact Keeps.refl _
  · refine (State.kick_keeps ..).of ?_
    exact State.yardTrap_keeps ..

theorem execTrap_keeps (i : Nat) (n : Nat) (v : Nat) (pc : Nat) (s : State) : Kept s (execTrap i n v pc s) := by
  unfold execTrap
  refine Kept.next ?_
  exact State.cccTrap_keeps ..

theorem State.cccExc_keeps (s : State) (i : Nat) (n : Nat) (mcause : Nat) (mtval : Nat) (pc : Nat) : Keeps s (State.cccExc s i n mcause mtval pc) := by
  unfold State.cccExc
  split
  · exact Keeps.refl _
  · refine Keeps.ite (fun _ => ?_) (fun _ => ?_)
    · refine (State.kick_keeps ..).of ?_
      exact State.yardTrap_keeps ..
    · refine (State.kick_keeps ..).of ?_
      exact State.yardTrap_keeps ..

theorem execCccException_keeps (i : Nat) (n : Nat) (mcause : Nat) (mtval : Nat) (pc : Nat) (s : State) : Kept s (execCccException i n mcause mtval pc s) := by
  unfold execCccException
  refine Kept.next ?_
  exact State.cccExc_keeps ..

theorem State.beginDesc_keeps (s : State) (i : Nat) (n : Nat) (e : Nat) (cls : Nat) (op : Nat) (body : State → Run → Ctx → Ent → State) (h_body : ∀ (x0 : State) (x1 : Run) (x2 : Ctx) (x3 : Ent), Keeps x0 (body x0 x1 x2 x3)) : Keeps s (State.beginDesc s i n e cls op body) := by
  unfold State.beginDesc
  split
  · exact Keeps.refl _
  · extract_lets +onlyGivenNames z1
    refine Keeps.cut (b := z1) ?_ ?_
    · unfold z1
      exact State.setCtx_keeps ..
    · intro hz1
      refine Keeps.ite (fun _ => ?_) (fun _ => ?_)
      · refine (State.kick_keeps ..).of ?_
        exact (State.yardTrap_keeps ..).of ‹_›
      · exact (h_body _ _ _ _).of ‹_›

theorem State.firstOf_keeps (s : State) (r : Run) (word : Nat) (p : Place) (write : Bool) : Keeps s (State.firstOf s r word p write).1 := by
  unfold State.firstOf
  split
  · refine Keeps.mk_fst ?_
    exact Keeps.refl _
  · split
    · refine Keeps.mk_fst ?_
      refine (Keeps.fst (State.xlate_keeps ..) (by assumption)).of ?_
      exact Keeps.refl _
    · refine Keeps.mk_fst ?_
      refine (Keeps.fst (State.xlate_keeps ..) (by assumption)).of ?_
      exact Keeps.refl _
    · refine Keeps.mk_fst ?_
      refine (Keeps.fst (State.xlate_keeps ..) (by assumption)).of ?_
      exact Keeps.refl _

theorem State.firstAll_keeps (r : Run) (l : List (Nat × Place × Bool)) (s : State) :
    Keeps s (State.firstAll r l s).1 := by
  induction l generalizing s with
  | nil => exact Keeps.refl _
  | cons p l ih =>
    obtain ⟨w, q, wr⟩ := p
    unfold State.firstAll
    split
    · refine Keeps.mk_fst ?_
      refine (Keeps.fst (State.firstOf_keeps ..) (by assumption)).of ?_
      exact Keeps.refl _
    · refine (ih ..).of ?_
      refine (Keeps.fst (State.firstOf_keeps ..) (by assumption)).of ?_
      exact Keeps.refl _


theorem State.endStaging_keeps (s : State) (n : Nat) : Keeps s (State.endStaging s n) := by
  unfold State.endStaging
  refine Keeps.ite (fun _ => ?_) (fun _ => ?_)
  · refine (State.flushL1_keeps ..).of ?_
    refine (State.setGranMap_keeps ..).of ?_
    exact State.setCluster_keeps ..
  · exact Keeps.refl _

theorem execDescriptorComplete_keeps (i : Nat) (n : Nat) (e : Nat) (s : State) : Kept s (execDescriptorComplete i n e s) := by
  unfold execDescriptorComplete
  refine Kept.next ?_
  cases (tblFind i s.launches)
  · dsimp -zeta -zetaHave only
    exact Keeps.refl _
  · cases (s.ctx i n)
    · dsimp -zeta -zetaHave only
      exact Keeps.refl _
    · dsimp -zeta -zetaHave only
      split
      · exact Keeps.refl _
      · refine Keeps.ite (fun _ => ?_) (fun _ => ?_)
        · exact Keeps.refl _
        · extract_lets +onlyGivenNames z1
          clear_value z1
          extract_lets +onlyGivenNames z2
          clear_value z2
          extract_lets +onlyGivenNames z3
          clear_value z3
          extract_lets +onlyGivenNames z4
          clear_value z4
          extract_lets +onlyGivenNames z5
          clear_value z5
          extract_lets +onlyGivenNames z6
          refine Keeps.cut (b := z6) ?_ ?_
          · unfold z6
            refine (State.setCtx_keeps ..).of ?_
            exact State.count_keeps ..
          · intro hz6
            extract_lets +onlyGivenNames z7
            refine Keeps.cut (b := z7) ?_ ?_
            · unfold z7
              refine Keeps.ite (fun _ => ?_) (fun _ => ?_)
              · exact (State.endStaging_keeps ..).of ‹_›
              · assumption
            · intro hz7
              refine Keeps.ite (fun _ => ?_) (fun _ => ?_)
              · extract_lets +onlyGivenNames z8
                clear_value z8
                split
                · exact (Keeps.fst (State.nextDesc_keeps ..) (by assumption)).of ‹_›
                · refine (State.kick_keeps ..).of ?_
                  refine (State.yardTrap_keeps ..).of ?_
                  exact (Keeps.fst (State.nextDesc_keeps ..) (by assumption)).of ‹_›
                · refine Keeps.ite (fun _ => ?_) (fun _ => ?_)
                  · refine (State.kick_keeps ..).of ?_
                    refine (State.yardTrap_keeps ..).of ?_
                    exact (Keeps.fst (State.nextDesc_keeps ..) (by assumption)).of ‹_›
                  · split
                    · refine (State.tryStop_keeps ..).of ?_
                      refine (State.setCtx_keeps ..).of ?_
                      exact (Keeps.fst (State.nextDesc_keeps ..) (by assumption)).of ‹_›
                    · exact (Keeps.fst (State.nextDesc_keeps ..) (by assumption)).of ‹_›
              · exact (State.tryStop_keeps ..).of ‹_›

theorem State.descOp_keeps (s : State) (i : Nat) (n : Nat) (e : Nat) (op : Nat) (kind : HubKind) : Keeps s (State.descOp s i n e op kind) := by
  unfold State.descOp
  refine Keeps.trans ?_ (State.beginDesc_keeps (h_body := ?_) ..)
  · exact Keeps.refl _
  · intro _
    intro _
    intro _
    intro _
    extract_lets +onlyGivenNames z1
    clear_value z1
    split
    · exact State.trapDesc_keeps ..
    · refine Keeps.ite (fun _ => ?_) (fun _ => ?_)
      · exact State.trapDesc_keeps ..
      · exact State.sendOp_keeps ..

theorem execDescArrive_keeps (i : Nat) (n : Nat) (e : Nat) (s : State) : Kept s (execDescArrive i n e s) := by
  unfold execDescArrive
  refine Kept.next ?_
  exact State.descOp_keeps ..

theorem execDescSignal_keeps (i : Nat) (n : Nat) (e : Nat) (s : State) : Kept s (execDescSignal i n e s) := by
  unfold execDescSignal
  refine Kept.next ?_
  exact State.descOp_keeps ..

theorem execDescConsume_keeps (i : Nat) (n : Nat) (e : Nat) (s : State) : Kept s (execDescConsume i n e s) := by
  unfold execDescConsume
  refine Kept.next ?_
  exact State.descOp_keeps ..

theorem execDescFence_keeps (i : Nat) (n : Nat) (e : Nat) (s : State) : Kept s (execDescFence i n e s) := by
  unfold execDescFence
  refine Kept.next ?_
  refine Keeps.trans ?_ (State.beginDesc_keeps (h_body := ?_) ..)
  · exact Keeps.refl _
  · intro _
    intro _
    intro _
    intro _
    split
    · exact State.trapDesc_keeps ..
    · exact Keeps.refl _

end Sys2Proof.Machine
end

