-- ==== Sys2Proof/Laws/KeepsEngines.lean ====
section
/-! SUPPORT. What the operations and commands of Machine/Engines.lean keep: one lemma for each. -/

set_option Elab.async false
namespace Sys2Proof.Machine

theorem State.countUnits_keeps (s : State) (a : Nat) (sh : Nat) (n : Nat) : Keeps s (State.countUnits s a sh n) := by
  unfold State.countUnits
  extract_lets +onlyGivenNames z1
  clear_value z1
  extract_lets +onlyGivenNames z2
  refine Keeps.cut (b := z2) ?_ ?_
  · unfold z2
    exact State.countField_keeps ..
  · intro hz2
    exact Keeps.mk' ‹_› (.refl _) le_rfl

theorem State.stopMid_keeps (s : State) (r : Run) (d : Ent) (word : Nat) (p : Place) (rows : List Nat) (len : Nat) (x : Snag) : Keeps s (State.stopMid s r d word p rows len x) := by
  unfold State.stopMid
  extract_lets +onlyGivenNames z1
  clear_value z1
  extract_lets +onlyGivenNames z2
  clear_value z2
  dsimp -zeta -zetaHave only
  refine (State.snag_keeps ..).of ?_
  refine (State.writeRows_keeps ..).of ?_
  refine (State.bumpFree_keeps ..).of ?_
  exact State.bumpFree_keeps ..

theorem State.putResult_keeps (s : State) (r : Run) (d : Ent) (word : Nat) (p : Place) (rows : List (Nat × List Byte)) (sh : Nat) (work : Nat) : Keeps s (State.putResult s r d word p rows sh work) := by
  unfold State.putResult
  split
  · refine (State.snag_keeps ..).of ?_
    refine (Keeps.fst (State.writeRows_keeps ..) (by assumption)).of ?_
    exact Keeps.refl _
  · refine (State.bumpFree_keeps ..).of ?_
    refine (State.countUnits_keeps ..).of ?_
    refine (Keeps.fst (State.writeRows_keeps ..) (by assumption)).of ?_
    exact Keeps.refl _

theorem execMatmul_keeps (i : Nat) (n : Nat) (e : Nat) (err : Option (Nat × Bool)) (s : State) : Kept s (execMatmul i n e err s) := by
  unfold execMatmul
  refine Kept.next ?_
  refine Keeps.trans ?_ (State.beginDesc_keeps (h_body := ?_) ..)
  · exact State.eccFind_keeps ..
  · intro _
    intro _
    intro _
    intro _
    extract_lets +onlyGivenNames z1
    clear_value z1
    extract_lets +onlyGivenNames z2
    clear_value z2
    extract_lets +onlyGivenNames z3
    clear_value z3
    extract_lets +onlyGivenNames z4
    clear_value z4
    extract_lets +onlyGivenNames z5
    clear_value z5
    extract_lets +onlyGivenNames z6
    clear_value z6
    extract_lets +onlyGivenNames z7
    clear_value z7
    extract_lets +onlyGivenNames z8
    clear_value z8
    extract_lets +onlyGivenNames z9
    clear_value z9
    extract_lets +onlyGivenNames z10
    clear_value z10
    extract_lets +onlyGivenNames z11
    clear_value z11
    extract_lets +onlyGivenNames z12
    clear_value z12
    extract_lets +onlyGivenNames z13
    clear_value z13
    extract_lets +onlyGivenNames z14
    clear_value z14
    extract_lets +onlyGivenNames z15
    clear_value z15
    extract_lets +onlyGivenNames z16
    clear_value z16
    extract_lets +onlyGivenNames z17
    clear_value z17
    extract_lets +onlyGivenNames z18
    clear_value z18
    split
    · exact State.trapDesc_keeps ..
    · split
      · exact State.trapDesc_keeps ..
      · exact State.trapDesc_keeps ..
      · exact State.trapDesc_keeps ..
      · extract_lets +onlyGivenNames z19
        clear_value z19
        split
        · refine (State.snag_keeps ..).of ?_
          refine (Keeps.fst (State.firstAll_keeps ..) (by assumption)).of ?_
          exact Keeps.refl _
        · split
          · refine (State.stopMid_keeps ..).of ?_
            refine (Keeps.fst (State.readRows_keeps ..) (by assumption)).of ?_
            refine (Keeps.fst (State.firstAll_keeps ..) (by assumption)).of ?_
            exact Keeps.refl _
          · split
            · refine (State.stopMid_keeps ..).of ?_
              refine (Keeps.fst (State.readRows_keeps ..) (by assumption)).of ?_
              refine (Keeps.fst (State.readRows_keeps ..) (by assumption)).of ?_
              refine (Keeps.fst (State.firstAll_keeps ..) (by assumption)).of ?_
              exact Keeps.refl _
            · split
              · refine (State.stopMid_keeps ..).of ?_
                refine Keeps.fst (?_ : Keeps _ _) (by assumption)
                refine Keeps.ite_fst (fun _ => ?_) (fun _ => ?_)
                · refine (State.readRows_keeps ..).of ?_
                  refine (Keeps.fst (State.readRows_keeps ..) (by assumption)).of ?_
                  refine (Keeps.fst (State.readRows_keeps ..) (by assumption)).of ?_
                  refine (Keeps.fst (State.firstAll_keeps ..) (by assumption)).of ?_
                  exact Keeps.refl _
                · refine Keeps.mk_fst ?_
                  refine (Keeps.fst (State.readRows_keeps ..) (by assumption)).of ?_
                  refine (Keeps.fst (State.readRows_keeps ..) (by assumption)).of ?_
                  refine (Keeps.fst (State.firstAll_keeps ..) (by assumption)).of ?_
                  exact Keeps.refl _
              · split
                · refine (State.stopMid_keeps ..).of ?_
                  refine Keeps.fst (?_ : Keeps _ _) (by assumption)
                  refine Keeps.ite_fst (fun _ => ?_) (fun _ => ?_)
                  · refine (State.readRows_keeps ..).of ?_
                    refine Keeps.fst (?_ : Keeps _ _) (by assumption)
                    refine Keeps.ite_fst (fun _ => ?_) (fun _ => ?_)
                    · refine (State.readRows_keeps ..).of ?_
                      refine (Keeps.fst (State.readRows_keeps ..) (by assumption)).of ?_
                      refine (Keeps.fst (State.readRows_keeps ..) (by assumption)).of ?_
                      refine (Keeps.fst (State.firstAll_keeps ..) (by assumption)).of ?_
                      exact Keeps.refl _
                    · refine Keeps.mk_fst ?_
                      refine (Keeps.fst (State.readRows_keeps ..) (by assumption)).of ?_
                      refine (Keeps.fst (State.readRows_keeps ..) (by assumption)).of ?_
                      refine (Keeps.fst (State.firstAll_keeps ..) (by assumption)).of ?_
                      exact Keeps.refl _
                  · refine Keeps.mk_fst ?_
                    refine Keeps.fst (?_ : Keeps _ _) (by assumption)
                    refine Keeps.ite_fst (fun _ => ?_) (fun _ => ?_)
                    · refine (State.readRows_keeps ..).of ?_
                      refine (Keeps.fst (State.readRows_keeps ..) (by assumption)).of ?_
                      refine (Keeps.fst (State.readRows_keeps ..) (by assumption)).of ?_
                      refine (Keeps.fst (State.firstAll_keeps ..) (by assumption)).of ?_
                      exact Keeps.refl _
                    · refine Keeps.mk_fst ?_
                      refine (Keeps.fst (State.readRows_keeps ..) (by assumption)).of ?_
                      refine (Keeps.fst (State.readRows_keeps ..) (by assumption)).of ?_
                      refine (Keeps.fst (State.firstAll_keeps ..) (by assumption)).of ?_
                      exact Keeps.refl _
                · extract_lets +onlyGivenNames z20
                  clear_value z20
                  extract_lets +onlyGivenNames z21
                  clear_value z21
                  extract_lets +onlyGivenNames z22
                  clear_value z22
                  refine (State.putResult_keeps ..).of ?_
                  refine Keeps.fst (?_ : Keeps _ _) (by assumption)
                  refine Keeps.ite_fst (fun _ => ?_) (fun _ => ?_)
                  · refine (State.readRows_keeps ..).of ?_
                    refine Keeps.fst (?_ : Keeps _ _) (by assumption)
                    refine Keeps.ite_fst (fun _ => ?_) (fun _ => ?_)
                    · refine (State.readRows_keeps ..).of ?_
                      refine (Keeps.fst (State.readRows_keeps ..) (by assumption)).of ?_
                      refine (Keeps.fst (State.readRows_keeps ..) (by assumption)).of ?_
                      refine (Keeps.fst (State.firstAll_keeps ..) (by assumption)).of ?_
                      exact Keeps.refl _
                    · refine Keeps.mk_fst ?_
                      refine (Keeps.fst (State.readRows_keeps ..) (by assumption)).of ?_
                      refine (Keeps.fst (State.readRows_keeps ..) (by assumption)).of ?_
                      refine (Keeps.fst (State.firstAll_keeps ..) (by assumption)).of ?_
                      exact Keeps.refl _
                  · refine Keeps.mk_fst ?_
                    refine Keeps.fst (?_ : Keeps _ _) (by assumption)
                    refine Keeps.ite_fst (fun _ => ?_) (fun _ => ?_)
                    · refine (State.readRows_keeps ..).of ?_
                      refine (Keeps.fst (State.readRows_keeps ..) (by assumption)).of ?_
                      refine (Keeps.fst (State.readRows_keeps ..) (by assumption)).of ?_
                      refine (Keeps.fst (State.firstAll_keeps ..) (by assumption)).of ?_
                      exact Keeps.refl _
                    · refine Keeps.mk_fst ?_
                      refine (Keeps.fst (State.readRows_keeps ..) (by assumption)).of ?_
                      refine (Keeps.fst (State.readRows_keeps ..) (by assumption)).of ?_
                      refine (Keeps.fst (State.firstAll_keeps ..) (by assumption)).of ?_
                      exact Keeps.refl _

theorem State.convDesc_keeps (s : State) (i : Nat) (n : Nat) (e : Nat) (op : Nat) : Keeps s (State.convDesc s i n e op) := by
  unfold State.convDesc
  refine Keeps.trans ?_ (State.beginDesc_keeps (h_body := ?_) ..)
  · exact Keeps.refl _
  · intro _
    intro _
    intro _
    intro _
    extract_lets +onlyGivenNames z1
    clear_value z1
    extract_lets +onlyGivenNames z2
    clear_value z2
    extract_lets +onlyGivenNames z3
    clear_value z3
    extract_lets +onlyGivenNames z4
    clear_value z4
    extract_lets +onlyGivenNames z5
    clear_value z5
    extract_lets +onlyGivenNames z6
    clear_value z6
    extract_lets +onlyGivenNames z7
    clear_value z7
    extract_lets +onlyGivenNames z8
    clear_value z8
    extract_lets +onlyGivenNames z9
    clear_value z9
    extract_lets +onlyGivenNames z10
    clear_value z10
    extract_lets +onlyGivenNames z11
    clear_value z11
    extract_lets +onlyGivenNames z12
    clear_value z12
    extract_lets +onlyGivenNames z13
    clear_value z13
    extract_lets +onlyGivenNames z14
    clear_value z14
    extract_lets +onlyGivenNames z15
    clear_value z15
    extract_lets +onlyGivenNames z16
    clear_value z16
    split
    · exact State.trapDesc_keeps ..
    · split
      · exact State.trapDesc_keeps ..
      · exact State.trapDesc_keeps ..
      · exact State.trapDesc_keeps ..
      · extract_lets +onlyGivenNames z17
        clear_value z17
        split
        · refine (State.snag_keeps ..).of ?_
          refine (Keeps.fst (State.firstAll_keeps ..) (by assumption)).of ?_
          exact Keeps.refl _
        · split
          · refine (State.stopMid_keeps ..).of ?_
            refine (Keeps.fst (State.readRows_keeps ..) (by assumption)).of ?_
            refine (Keeps.fst (State.firstAll_keeps ..) (by assumption)).of ?_
            exact Keeps.refl _
          · split
            · refine (State.stopMid_keeps ..).of ?_
              refine Keeps.fst (?_ : Keeps _ _) (by assumption)
              refine Keeps.ite_fst (fun _ => ?_) (fun _ => ?_)
              · refine Keeps.mk_fst ?_
                refine (Keeps.fst (State.readRows_keeps ..) (by assumption)).of ?_
                refine (Keeps.fst (State.firstAll_keeps ..) (by assumption)).of ?_
                exact Keeps.refl _
              · refine (State.readAt_keeps ..).of ?_
                refine (Keeps.fst (State.readRows_keeps ..) (by assumption)).of ?_
                refine (Keeps.fst (State.firstAll_keeps ..) (by assumption)).of ?_
                exact Keeps.refl _
            · split
              · refine (State.stopMid_keeps ..).of ?_
                refine Keeps.fst (?_ : Keeps _ _) (by assumption)
                refine Keeps.ite_fst (fun _ => ?_) (fun _ => ?_)
                · refine (State.readRows_keeps ..).of ?_
                  refine Keeps.fst (?_ : Keeps _ _) (by assumption)
                  refine Keeps.ite_fst (fun _ => ?_) (fun _ => ?_)
                  · refine Keeps.mk_fst ?_
                    refine (Keeps.fst (State.readRows_keeps ..) (by assumption)).of ?_
                    refine (Keeps.fst (State.firstAll_keeps ..) (by assumption)).of ?_
                    exact Keeps.refl _
                  · refine (State.readAt_keeps ..).of ?_
                    refine (Keeps.fst (State.readRows_keeps ..) (by assumption)).of ?_
                    refine (Keeps.fst (State.firstAll_keeps ..) (by assumption)).of ?_
                    exact Keeps.refl _
                · refine Keeps.mk_fst ?_
                  refine Keeps.fst (?_ : Keeps _ _) (by assumption)
                  refine Keeps.ite_fst (fun _ => ?_) (fun _ => ?_)
                  · refine Keeps.mk_fst ?_
                    refine (Keeps.fst (State.readRows_keeps ..) (by assumption)).of ?_
                    refine (Keeps.fst (State.firstAll_keeps ..) (by assumption)).of ?_
                    exact Keeps.refl _
                  · refine (State.readAt_keeps ..).of ?_
                    refine (Keeps.fst (State.readRows_keeps ..) (by assumption)).of ?_
                    refine (Keeps.fst (State.firstAll_keeps ..) (by assumption)).of ?_
                    exact Keeps.refl _
              · extract_lets +onlyGivenNames z18
                clear_value z18
                extract_lets +onlyGivenNames z19
                clear_value z19
                extract_lets +onlyGivenNames z20
                clear_value z20
                extract_lets +onlyGivenNames z21
                clear_value z21
                refine (State.putResult_keeps ..).of ?_
                refine Keeps.fst (?_ : Keeps _ _) (by assumption)
                refine Keeps.ite_fst (fun _ => ?_) (fun _ => ?_)
                · refine (State.readRows_keeps ..).of ?_
                  refine Keeps.fst (?_ : Keeps _ _) (by assumption)
                  refine Keeps.ite_fst (fun _ => ?_) (fun _ => ?_)
                  · refine Keeps.mk_fst ?_
                    refine (Keeps.fst (State.readRows_keeps ..) (by assumption)).of ?_
                    refine (Keeps.fst (State.firstAll_keeps ..) (by assumption)).of ?_
                    exact Keeps.refl _
                  · refine (State.readAt_keeps ..).of ?_
                    refine (Keeps.fst (State.readRows_keeps ..) (by assumption)).of ?_
                    refine (Keeps.fst (State.firstAll_keeps ..) (by assumption)).of ?_
                    exact Keeps.refl _
                · refine Keeps.mk_fst ?_
                  refine Keeps.fst (?_ : Keeps _ _) (by assumption)
                  refine Keeps.ite_fst (fun _ => ?_) (fun _ => ?_)
                  · refine Keeps.mk_fst ?_
                    refine (Keeps.fst (State.readRows_keeps ..) (by assumption)).of ?_
                    refine (Keeps.fst (State.firstAll_keeps ..) (by assumption)).of ?_
                    exact Keeps.refl _
                  · refine (State.readAt_keeps ..).of ?_
                    refine (Keeps.fst (State.readRows_keeps ..) (by assumption)).of ?_
                    refine (Keeps.fst (State.firstAll_keeps ..) (by assumption)).of ?_
                    exact Keeps.refl _

theorem execConv2d_keeps (i : Nat) (n : Nat) (e : Nat) (err : Option (Nat × Bool)) (s : State) : Kept s (execConv2d i n e err s) := by
  unfold execConv2d
  refine Kept.next ?_
  refine (State.convDesc_keeps ..).of ?_
  exact State.eccFind_keeps ..

theorem execDwconv_keeps (i : Nat) (n : Nat) (e : Nat) (err : Option (Nat × Bool)) (s : State) : Kept s (execDwconv i n e err s) := by
  unfold execDwconv
  refine Kept.next ?_
  refine (State.convDesc_keeps ..).of ?_
  exact State.eccFind_keeps ..

theorem execPool_keeps (i : Nat) (n : Nat) (e : Nat) (err : Option (Nat × Bool)) (s : State) : Kept s (execPool i n e err s) := by
  unfold execPool
  refine Kept.next ?_
  refine (State.convDesc_keeps ..).of ?_
  exact State.eccFind_keeps ..

theorem State.vuDesc_keeps (s : State) (i : Nat) (n : Nat) (e : Nat) (op : Nat) : Keeps s (State.vuDesc s i n e op) := by
  unfold State.vuDesc
  refine Keeps.trans ?_ (State.beginDesc_keeps (h_body := ?_) ..)
  · exact Keeps.refl _
  · intro _
    intro _
    intro _
    intro _
    extract_lets +onlyGivenNames z1
    clear_value z1
    extract_lets +onlyGivenNames z2
    clear_value z2
    split
    · exact State.trapDesc_keeps ..
    · extract_lets +onlyGivenNames z3
      clear_value z3
      extract_lets +onlyGivenNames z4
      clear_value z4
      split
      · exact State.trapDesc_keeps ..
      · exact State.trapDesc_keeps ..
      · exact State.trapDesc_keeps ..
      · extract_lets +onlyGivenNames z5
        clear_value z5
        split
        · refine (State.snag_keeps ..).of ?_
          refine (Keeps.fst (State.firstAll_keeps ..) (by assumption)).of ?_
          exact Keeps.refl _
        · split
          · refine (State.stopMid_keeps ..).of ?_
            refine (Keeps.fst (State.readRows_keeps ..) (by assumption)).of ?_
            refine (Keeps.fst (State.firstAll_keeps ..) (by assumption)).of ?_
            exact Keeps.refl _
          · split
            · refine (State.stopMid_keeps ..).of ?_
              refine Keeps.fst (?_ : Keeps _ _) (by assumption)
              refine Keeps.ite_fst (fun _ => ?_) (fun _ => ?_)
              · refine (State.readRows_keeps ..).of ?_
                refine (Keeps.fst (State.readRows_keeps ..) (by assumption)).of ?_
                refine (Keeps.fst (State.firstAll_keeps ..) (by assumption)).of ?_
                exact Keeps.refl _
              · refine Keeps.mk_fst ?_
                refine (Keeps.fst (State.readRows_keeps ..) (by assumption)).of ?_
                refine (Keeps.fst (State.firstAll_keeps ..) (by assumption)).of ?_
                exact Keeps.refl _
            · split
              · refine (State.stopMid_keeps ..).of ?_
                refine Keeps.fst (?_ : Keeps _ _) (by assumption)
                refine Keeps.ite_fst (fun _ => ?_) (fun _ => ?_)
                · refine (State.readRows_keeps ..).of ?_
                  refine Keeps.fst (?_ : Keeps _ _) (by assumption)
                  refine Keeps.ite_fst (fun _ => ?_) (fun _ => ?_)
                  · refine (State.readRows_keeps ..).of ?_
                    refine (Keeps.fst (State.readRows_keeps ..) (by assumption)).of ?_
                    refine (Keeps.fst (State.firstAll_keeps ..) (by assumption)).of ?_
                    exact Keeps.refl _
                  · refine Keeps.mk_fst ?_
                    refine (Keeps.fst (State.readRows_keeps ..) (by assumption)).of ?_
                    refine (Keeps.fst (State.firstAll_keeps ..) (by assumption)).of ?_
                    exact Keeps.refl _
                · refine Keeps.mk_fst ?_
                  refine Keeps.fst (?_ : Keeps _ _) (by assumption)
                  refine Keeps.ite_fst (fun _ => ?_) (fun _ => ?_)
                  · refine (State.readRows_keeps ..).of ?_
                    refine (Keeps.fst (State.readRows_keeps ..) (by assumption)).of ?_
                    refine (Keeps.fst (State.firstAll_keeps ..) (by assumption)).of ?_
                    exact Keeps.refl _
                  · refine Keeps.mk_fst ?_
                    refine (Keeps.fst (State.readRows_keeps ..) (by assumption)).of ?_
                    refine (Keeps.fst (State.firstAll_keeps ..) (by assumption)).of ?_
                    exact Keeps.refl _
              · extract_lets +onlyGivenNames z6
                refine Keeps.cut (b := z6) ?_ ?_
                · unfold z6
                  refine Keeps.ite (fun _ => ?_) (fun _ => ?_)
                  · refine (State.countField_keeps ..).of ?_
                    refine Keeps.fst (?_ : Keeps _ _) (by assumption)
                    refine Keeps.ite_fst (fun _ => ?_) (fun _ => ?_)
                    · refine (State.readRows_keeps ..).of ?_
                      refine Keeps.fst (?_ : Keeps _ _) (by assumption)
                      refine Keeps.ite_fst (fun _ => ?_) (fun _ => ?_)
                      · refine (State.readRows_keeps ..).of ?_
                        refine (Keeps.fst (State.readRows_keeps ..) (by assumption)).of ?_
                        refine (Keeps.fst (State.firstAll_keeps ..) (by assumption)).of ?_
                        exact Keeps.refl _
                      · refine Keeps.mk_fst ?_
                        refine (Keeps.fst (State.readRows_keeps ..) (by assumption)).of ?_
                        refine (Keeps.fst (State.firstAll_keeps ..) (by assumption)).of ?_
                        exact Keeps.refl _
                    · refine Keeps.mk_fst ?_
                      refine Keeps.fst (?_ : Keeps _ _) (by assumption)
                      refine Keeps.ite_fst (fun _ => ?_) (fun _ => ?_)
                      · refine (State.readRows_keeps ..).of ?_
                        refine (Keeps.fst (State.readRows_keeps ..) (by assumption)).of ?_
                        refine (Keeps.fst (State.firstAll_keeps ..) (by assumption)).of ?_
                        exact Keeps.refl _
                      · refine Keeps.mk_fst ?_
                        refine (Keeps.fst (State.readRows_keeps ..) (by assumption)).of ?_
                        refine (Keeps.fst (State.firstAll_keeps ..) (by assumption)).of ?_
                        exact Keeps.refl _
                  · refine Keeps.fst (?_ : Keeps _ _) (by assumption)
                    refine Keeps.ite_fst (fun _ => ?_) (fun _ => ?_)
                    · refine (State.readRows_keeps ..).of ?_
                      refine Keeps.fst (?_ : Keeps _ _) (by assumption)
                      refine Keeps.ite_fst (fun _ => ?_) (fun _ => ?_)
                      · refine (State.readRows_keeps ..).of ?_
                        refine (Keeps.fst (State.readRows_keeps ..) (by assumption)).of ?_
                        refine (Keeps.fst (State.firstAll_keeps ..) (by assumption)).of ?_
                        exact Keeps.refl _
                      · refine Keeps.mk_fst ?_
                        refine (Keeps.fst (State.readRows_keeps ..) (by assumption)).of ?_
                        refine (Keeps.fst (State.firstAll_keeps ..) (by assumption)).of ?_
                        exact Keeps.refl _
                    · refine Keeps.mk_fst ?_
                      refine Keeps.fst (?_ : Keeps _ _) (by assumption)
                      refine Keeps.ite_fst (fun _ => ?_) (fun _ => ?_)
                      · refine (State.readRows_keeps ..).of ?_
                        refine (Keeps.fst (State.readRows_keeps ..) (by assumption)).of ?_
                        refine (Keeps.fst (State.firstAll_keeps ..) (by assumption)).of ?_
                        exact Keeps.refl _
                      · refine Keeps.mk_fst ?_
                        refine (Keeps.fst (State.readRows_keeps ..) (by assumption)).of ?_
                        refine (Keeps.fst (State.firstAll_keeps ..) (by assumption)).of ?_
                        exact Keeps.refl _
                · intro hz6
                  exact (State.putResult_keeps ..).of ‹_›

theorem execEltwise_keeps (i : Nat) (n : Nat) (e : Nat) (err : Option (Nat × Bool)) (s : State) : Kept s (execEltwise i n e err s) := by
  unfold execEltwise
  refine Kept.next ?_
  refine (State.vuDesc_keeps ..).of ?_
  exact State.eccFind_keeps ..

theorem execReduce_keeps (i : Nat) (n : Nat) (e : Nat) (err : Option (Nat × Bool)) (s : State) : Kept s (execReduce i n e err s) := by
  unfold execReduce
  refine Kept.next ?_
  refine (State.vuDesc_keeps ..).of ?_
  exact State.eccFind_keeps ..

theorem execQuant_keeps (i : Nat) (n : Nat) (e : Nat) (err : Option (Nat × Bool)) (s : State) : Kept s (execQuant i n e err s) := by
  unfold execQuant
  refine Kept.next ?_
  refine (State.vuDesc_keeps ..).of ?_
  exact State.eccFind_keeps ..

theorem execTransform_keeps (i : Nat) (n : Nat) (e : Nat) (err : Option (Nat × Bool)) (s : State) : Kept s (execTransform i n e err s) := by
  unfold execTransform
  refine Kept.next ?_
  refine (State.vuDesc_keeps ..).of ?_
  exact State.eccFind_keeps ..

theorem execGather_keeps (i : Nat) (n : Nat) (e : Nat) (err : Option (Nat × Bool)) (s : State) : Kept s (execGather i n e err s) := by
  unfold execGather
  refine Kept.next ?_
  refine (State.vuDesc_keeps ..).of ?_
  exact State.eccFind_keeps ..

theorem State.moveRead_keeps (r : Run) (p0 : Place) (l : List (Nat × Nat × Nat)) (s : State) (acc : List (Nat × List Byte)) :
    Keeps s (State.moveRead r p0 l s acc).1 := by
  induction l generalizing s acc with
  | nil => exact Keeps.refl _
  | cons p l ih =>
    obtain ⟨so, o, m⟩ := p
    unfold State.moveRead
    split
    · refine Keeps.mk_fst ?_
      refine (Keeps.fst (State.readAt_keeps ..) (by assumption)).of ?_
      exact Keeps.refl _
    · refine (ih ..).of ?_
      refine (Keeps.fst (State.readAt_keeps ..) (by assumption)).of ?_
      exact Keeps.refl _


theorem State.moveDesc_keeps (s : State) (i : Nat) (n : Nat) (e : Nat) (op : Nat) : Keeps s (State.moveDesc s i n e op) := by
  unfold State.moveDesc
  refine Keeps.trans ?_ (State.beginDesc_keeps (h_body := ?_) ..)
  · exact Keeps.refl _
  · intro _
    intro _
    intro _
    intro _
    extract_lets +onlyGivenNames z1
    clear_value z1
    extract_lets +onlyGivenNames z2
    clear_value z2
    split
    · exact State.trapDesc_keeps ..
    · split
      · exact State.trapDesc_keeps ..
      · exact State.trapDesc_keeps ..
      · split
        · refine (State.snag_keeps ..).of ?_
          refine (Keeps.fst (State.firstAll_keeps ..) (by assumption)).of ?_
          exact Keeps.refl _
        · extract_lets +onlyGivenNames z3
          clear_value z3
          extract_lets +onlyGivenNames z4
          clear_value z4
          refine Keeps.ite (fun _ => ?_) (fun _ => ?_)
          · refine (State.kick_keeps ..).of ?_
            refine (State.launchFault_keeps ..).of ?_
            refine (State.count_keeps ..).of ?_
            refine (State.count_keeps ..).of ?_
            refine (Keeps.fst (State.firstAll_keeps ..) (by assumption)).of ?_
            exact Keeps.refl _
          · extract_lets +onlyGivenNames z5
            clear_value z5
            extract_lets +onlyGivenNames z6
            clear_value z6
            extract_lets +onlyGivenNames z7
            clear_value z7
            extract_lets +onlyGivenNames z8
            refine Keeps.cut (b := z8) ?_ ?_
            · unfold z8
              refine (State.setCluster_keeps ..).of ?_
              refine (State.countField_keeps ..).of ?_
              refine (Keeps.fst (State.firstAll_keeps ..) (by assumption)).of ?_
              exact Keeps.refl _
            · intro hz8
              extract_lets +onlyGivenNames z9
              refine Keeps.cut (b := z9) ?_ ?_
              · unfold z9
                refine Keeps.ite (fun _ => ?_) (fun _ => ?_)
                · refine (State.flushL1_keeps ..).of ?_
                  split
                  · exact (State.setGranMap_keeps ..).of ‹_›
                  · assumption
                · refine Keeps.ite (fun _ => ?_) (fun _ => ?_)
                  · refine (State.countField_keeps ..).of ?_
                    refine (Keeps.fst (State.firstAll_keeps ..) (by assumption)).of ?_
                    exact Keeps.refl _
                  · refine (Keeps.fst (State.firstAll_keeps ..) (by assumption)).of ?_
                    exact Keeps.refl _
              · intro hz9
                extract_lets +onlyGivenNames z10
                clear_value z10
                extract_lets +onlyGivenNames z11
                clear_value z11
                dsimp -zeta -zetaHave only
                split
                · refine (State.snag_keeps ..).of ?_
                  refine (Keeps.fst (State.writeRows_keeps ..) (by assumption)).of ?_
                  exact (State.moveRead_keeps ..).of ‹_›
                · refine (State.snag_keeps ..).of ?_
                  refine (Keeps.fst (State.writeRows_keeps ..) (by assumption)).of ?_
                  exact (State.moveRead_keeps ..).of ‹_›
                · refine (State.countUnits_keeps ..).of ?_
                  refine (Keeps.fst (State.writeRows_keeps ..) (by assumption)).of ?_
                  exact (State.moveRead_keeps ..).of ‹_›

theorem execMove_keeps (i : Nat) (n : Nat) (e : Nat) (err : Option (Nat × Bool)) (s : State) : Kept s (execMove i n e err s) := by
  unfold execMove
  refine Kept.next ?_
  refine (State.moveDesc_keeps ..).of ?_
  exact State.eccFind_keeps ..

theorem execMove2d_keeps (i : Nat) (n : Nat) (e : Nat) (err : Option (Nat × Bool)) (s : State) : Kept s (execMove2d i n e err s) := by
  unfold execMove2d
  refine Kept.next ?_
  refine (State.moveDesc_keeps ..).of ?_
  exact State.eccFind_keeps ..

theorem execMove4d_keeps (i : Nat) (n : Nat) (e : Nat) (err : Option (Nat × Bool)) (s : State) : Kept s (execMove4d i n e err s) := by
  unfold execMove4d
  refine Kept.next ?_
  refine (State.moveDesc_keeps ..).of ?_
  exact State.eccFind_keeps ..

end Sys2Proof.Machine
end

