-- ==== Sys2Proof/Laws/KeepsCcc.lean ====
section
/-! SUPPORT. What the operations and commands of Machine/Ccc.lean keep: one lemma for each. -/

set_option Elab.async false
namespace Sys2Proof.Machine

theorem State.cccRead_keeps (s : State) (i n : Nat) (l : Launch) (c : Ctx) (g : LocalRange) (a w pc : Nat) :
    Keeps s (State.cccRead s i n l c g a w pc).1 := by
  cases g with
  | sp => exact Keeps.refl _
  | snap => exact Keeps.refl _
  | sram => exact Keeps.refl _
  | abi => exact State.bumpFree_keeps s
  | image =>
    have h := State.yardImage_keeps s i n l (a - 0x20000000) w false pc
    simp only [State.cccRead]
    split
    · exact Keeps.fst h (by assumption)
    · exact Keeps.fst h (by assumption)
  | ports =>
    simp only [State.cccRead]
    split
    · exact Keeps.refl _
    · split
      · exact State.setCtx_keeps ..
      · exact Keeps.refl _


theorem State.retire_keeps (s : State) (i : Nat) (n : Nat) (next : W) : Keeps s (State.retire s i n next) := by
  unfold State.retire
  split
  · exact State.setCtx_keeps ..
  · exact Keeps.refl _

theorem State.setX_keeps (s : State) (i : Nat) (n : Nat) (rd : Nat) (v : W) : Keeps s (State.setX s i n rd v) := by
  unfold State.setX
  split
  · refine Keeps.ite (fun _ => ?_) (fun _ => ?_)
    · exact Keeps.refl _
    · exact State.setCtx_keeps ..
  · exact Keeps.refl _

theorem State.cccWrite_keeps (s : State) (i : Nat) (n : Nat) (c : Ctx) (g : LocalRange) (a : Nat) (w : Nat) (v : Nat) (pc : Nat) : Keeps s (State.cccWrite s i n c g a w v pc) := by
  unfold State.cccWrite
  split
  · exact State.setCtx_keeps ..
  · exact State.setCtx_keeps ..
  · extract_lets +onlyGivenNames z1
    clear_value z1
    extract_lets +onlyGivenNames z2
    clear_value z2
    extract_lets +onlyGivenNames z3
    clear_value z3
    extract_lets +onlyGivenNames z4
    clear_value z4
    refine Keeps.ite (fun _ => ?_) (fun _ => ?_)
    · exact State.unmapped_keeps ..
    · refine Keeps.ite (fun _ => ?_) (fun _ => ?_)
      · refine Keeps.ite (fun _ => ?_) (fun _ => ?_)
        · exact State.setCtx_keeps ..
        · refine Keeps.ite (fun _ => ?_) (fun _ => ?_)
          · exact State.cccPush_keeps ..
          · exact State.cccPushTable_keeps ..
      · refine Keeps.ite (fun _ => ?_) (fun _ => ?_)
        · exact State.cccLevAdd_keeps ..
        · refine Keeps.ite (fun _ => ?_) (fun _ => ?_)
          · exact State.setCtx_keeps ..
          · refine Keeps.ite (fun _ => ?_) (fun _ => ?_)
            · exact State.setCtx_keeps ..
            · refine Keeps.ite (fun _ => ?_) (fun _ => ?_)
              · extract_lets +onlyGivenNames z5
                clear_value z5
                extract_lets +onlyGivenNames z6
                clear_value z6
                exact State.cccOp_keeps ..
              · refine Keeps.ite (fun _ => ?_) (fun _ => ?_)
                · extract_lets +onlyGivenNames z5
                  clear_value z5
                  extract_lets +onlyGivenNames z6
                  clear_value z6
                  exact State.cccWait_keeps ..
                · refine Keeps.ite (fun _ => ?_) (fun _ => ?_)
                  · exact State.cccYield_keeps ..
                  · exact State.cccTrap_keeps ..
  · exact Keeps.refl _

theorem State.raiseCcc_keeps (s : State) (t : RvAt) (mcause : Nat) (mtval : Nat) : Keeps s (State.raiseCcc s t mcause mtval) := by
  unfold State.raiseCcc
  exact State.cccExc_keeps ..

theorem State.done_keeps (s : State) (t : RvAt) (rd : Nat) (v : W) : Keeps s (State.done s t rd v) := by
  unfold State.done
  refine (State.retire_keeps ..).of ?_
  exact State.setX_keeps ..

theorem State.jump_keeps (s : State) (t : RvAt) (rd : Nat) (target : W) : Keeps s (State.jump s t rd target) := by
  unfold State.jump
  extract_lets +onlyGivenNames z1
  refine Keeps.cut (b := z1) ?_ ?_
  · unfold z1
    refine (State.retire_keeps ..).of ?_
    exact State.setX_keeps ..
  · intro hz1
    refine Keeps.ite (fun _ => ?_) (fun _ => ?_)
    · exact (State.itemReturn_keeps ..).of ‹_›
    · assumption

theorem State.execLoad_keeps (s : State) (t : RvAt) (f : Nat) (rd : Nat) (addr : W) : Keeps s (State.execLoad s t f rd addr) := by
  unfold State.execLoad
  extract_lets +onlyGivenNames z1
  clear_value z1
  extract_lets +onlyGivenNames z2
  clear_value z2
  cases (mapFault t z1 z2 false false)
  · cases (rangeOf t.l t.c z1 z2)
    · dsimp -zeta -zetaHave only
      exact Keeps.refl _
    · dsimp -zeta -zetaHave only
      split
      · refine (State.done_keeps ..).of ?_
        refine (Keeps.fst (State.cccRead_keeps ..) (by assumption)).of ?_
        exact Keeps.refl _
      · refine (Keeps.fst (State.cccRead_keeps ..) (by assumption)).of ?_
        exact Keeps.refl _
  · dsimp -zeta -zetaHave only
    exact State.raiseCcc_keeps ..

theorem State.execStore_keeps (s : State) (t : RvAt) (f : Nat) (addr : W) (v : W) : Keeps s (State.execStore s t f addr v) := by
  unfold State.execStore
  extract_lets +onlyGivenNames z1
  clear_value z1
  extract_lets +onlyGivenNames z2
  clear_value z2
  cases (mapFault t z1 z2 true false)
  · cases (rangeOf t.l t.c z1 z2)
    · dsimp -zeta -zetaHave only
      exact Keeps.refl _
    · dsimp -zeta -zetaHave only
      extract_lets +onlyGivenNames z3
      refine Keeps.cut (b := z3) ?_ ?_
      · unfold z3
        exact State.retire_keeps ..
      · intro hz3
        split
        · exact (State.cccWrite_keeps ..).of ‹_›
        · assumption
  · dsimp -zeta -zetaHave only
    exact State.raiseCcc_keeps ..

theorem State.execAtomic_keeps (s : State) (t : RvAt) (r : Rv) : Keeps s (State.execAtomic s t r) := by
  unfold State.execAtomic
  extract_lets +onlyGivenNames z1
  split
  · unfold z1
    extract_lets +onlyGivenNames z2
    clear_value z2
    cases (mapFault t z2 4 false true)
    · cases (rangeOf t.l t.c z2 4)
      · dsimp -zeta -zetaHave only
        exact Keeps.refl _
      · dsimp -zeta -zetaHave only
        refine (State.done_keeps ..).of ?_
        exact State.setCtx_keeps ..
    · dsimp -zeta -zetaHave only
      exact State.raiseCcc_keeps ..
  · unfold z1
    extract_lets +onlyGivenNames z2
    clear_value z2
    cases (mapFault t z2 4 true true)
    · cases (rangeOf t.l t.c z2 4)
      · dsimp -zeta -zetaHave only
        exact Keeps.refl _
      · dsimp -zeta -zetaHave only
        extract_lets +onlyGivenNames z3
        clear_value z3
        extract_lets +onlyGivenNames z4
        clear_value z4
        extract_lets +onlyGivenNames z5
        clear_value z5
        extract_lets +onlyGivenNames z6
        refine Keeps.cut (b := z6) ?_ ?_
        · unfold z6
          refine (State.setCtx_keeps ..).of ?_
          exact State.drawBool_keeps ..
        · intro hz6
          refine (State.done_keeps ..).of ?_
          refine Keeps.ite (fun _ => ?_) (fun _ => ?_)
          · assumption
          · exact (State.cccWrite_keeps ..).of ‹_›
    · dsimp -zeta -zetaHave only
      exact State.raiseCcc_keeps ..
  · unfold z1
    extract_lets +onlyGivenNames z2
    clear_value z2
    cases (mapFault t z2 4 true true)
    · cases (rangeOf t.l t.c z2 4)
      · dsimp -zeta -zetaHave only
        exact Keeps.refl _
      · dsimp -zeta -zetaHave only
        extract_lets +onlyGivenNames z3
        clear_value z3
        refine (State.done_keeps ..).of ?_
        exact State.cccWrite_keeps ..
    · dsimp -zeta -zetaHave only
      exact State.raiseCcc_keeps ..
  · exact Keeps.refl _

theorem State.execRv_keeps (s : State) (t : RvAt) (r : Rv) : Keeps s (State.execRv s t r) := by
  unfold State.execRv
  split
  · exact State.done_keeps ..
  · exact State.done_keeps ..
  · exact State.jump_keeps ..
  · exact State.jump_keeps ..
  · refine Keeps.ite (fun _ => ?_) (fun _ => ?_)
    · exact State.jump_keeps ..
    · exact State.retire_keeps ..
  · exact State.execLoad_keeps ..
  · exact State.execStore_keeps ..
  · exact State.done_keeps ..
  · exact State.done_keeps ..
  · exact State.done_keeps ..
  · exact State.execAtomic_keeps ..
  · exact State.execAtomic_keeps ..
  · exact State.execAtomic_keeps ..
  · exact State.retire_keeps ..
  · exact State.done_keeps ..
  · exact State.raiseCcc_keeps ..
  · dsimp -zeta -zetaHave only
    refine (State.raiseCcc_keeps ..).of ?_
    exact State.drawBool_keeps ..

theorem State.illegal_keeps (s : State) (t : RvAt) (bits : Nat) : Keeps s (State.illegal s t bits) := by
  unfold State.illegal
  dsimp -zeta -zetaHave only
  refine (State.raiseCcc_keeps ..).of ?_
  exact State.drawBool_keeps ..

theorem State.fetchHalf_keeps (s : State) (t : RvAt) (a : Nat) : Keeps s (State.fetchHalf s t a).1 := by
  unfold State.fetchHalf
  refine Keeps.ite_fst (fun _ => ?_) (fun _ => ?_)
  · refine Keeps.mk_fst ?_
    exact State.raiseCcc_keeps ..
  · split
    · refine Keeps.mk_fst ?_
      refine (Keeps.fst (State.yardImage_keeps ..) (by assumption)).of ?_
      exact Keeps.refl _
    · refine Keeps.mk_fst ?_
      refine (Keeps.fst (State.yardImage_keeps ..) (by assumption)).of ?_
      exact Keeps.refl _

theorem State.runCcc_keeps (s : State) (i : Nat) (n : Nat) (l : Launch) (c : Ctx) : Keeps s (State.runCcc s i n l c) := by
  unfold State.runCcc
  extract_lets +onlyGivenNames z1
  clear_value z1
  split
  · refine (Keeps.fst (State.fetchHalf_keeps ..) (by assumption)).of ?_
    exact Keeps.refl _
  · refine Keeps.ite (fun _ => ?_) (fun _ => ?_)
    · split
      · refine (State.execRv_keeps ..).of ?_
        refine (Keeps.fst (State.fetchHalf_keeps ..) (by assumption)).of ?_
        exact Keeps.refl _
      · refine (State.illegal_keeps ..).of ?_
        refine (Keeps.fst (State.fetchHalf_keeps ..) (by assumption)).of ?_
        exact Keeps.refl _
    · split
      · refine (Keeps.fst (State.fetchHalf_keeps ..) (by assumption)).of ?_
        refine (Keeps.fst (State.fetchHalf_keeps ..) (by assumption)).of ?_
        exact Keeps.refl _
      · split
        · refine (State.execRv_keeps ..).of ?_
          refine (Keeps.fst (State.fetchHalf_keeps ..) (by assumption)).of ?_
          refine (Keeps.fst (State.fetchHalf_keeps ..) (by assumption)).of ?_
          exact Keeps.refl _
        · refine (State.illegal_keeps ..).of ?_
          refine (Keeps.fst (State.fetchHalf_keeps ..) (by assumption)).of ?_
          refine (Keeps.fst (State.fetchHalf_keeps ..) (by assumption)).of ?_
          exact Keeps.refl _

theorem State.cccStep_keeps (s : State) (n : Nat) : Keeps s (State.cccStep s n) := by
  unfold State.cccStep
  split
  · split
    · exact State.runCcc_keeps ..
    · exact Keeps.refl _
  · exact Keeps.refl _

theorem State.cccTick_keeps (s : State) : Keeps s (State.cccTick s) := by
  unfold State.cccTick
  refine Keeps.foldl (fun _ _ => ?_) ?_
  · dsimp -zeta -zetaHave only
    refine Keeps.ite (fun _ => ?_) (fun _ => ?_)
    · refine (State.cccStep_keeps ..).of ?_
      exact State.drawBool_keeps ..
    · exact State.drawBool_keeps ..
  · exact Keeps.refl _

end Sys2Proof.Machine
end

