-- ==== Sys2Proof/Laws/KeepsScanout.lean ====
section
/-! SUPPORT. What the operations and commands of Machine/Scanout.lean keep: one lemma for each. -/

set_option Elab.async false
namespace Sys2Proof.Machine

theorem State.refreshCrc_keeps (s : State) (d : Nat) (f : FrameT) : Keeps s (State.refreshCrc s d f).2 := by
  unfold State.refreshCrc
  extract_lets +onlyGivenNames z1
  clear_value z1
  refine Keeps.ite_snd (fun _ => ?_) (fun _ => ?_)
  · exact State.drawWord_keeps ..
  · refine Keeps.mk_snd ?_
    exact Keeps.refl _

theorem State.framePoison_keeps (s : State) (d : Nat) (f : FrameT) : Keeps s (State.framePoison s d f) := by
  unfold State.framePoison
  refine Keeps.foldl (fun _ _ => ?_) ?_
  · split
    · exact State.raiseAs_keeps ..
    · exact State.raiseAs_keeps ..
  · exact Keeps.refl _

theorem State.skipReceipt_keeps (s : State) (d : Nat) (r : Rcpt) : Keeps s (State.skipReceipt s d r).1 := by
  unfold State.skipReceipt
  refine Keeps.mk_fst ?_
  exact State.countField_keeps ..

theorem State.receiptDue_keeps (s : State) (d : Nat) (f : FrameT) (crc : W) : Keeps s (State.receiptDue s d f crc) := by
  unfold State.receiptDue
  extract_lets +onlyGivenNames z1
  clear_value z1
  cases (z1.rcpt)
  · dsimp -zeta -zetaHave only
    exact Keeps.refl _
  · cases (z1.owner)
    · dsimp -zeta -zetaHave only
      exact Keeps.refl _
    · dsimp -zeta -zetaHave only
      refine Keeps.ite (fun _ => ?_) (fun _ => ?_)
      · exact Keeps.refl _
      · extract_lets +onlyGivenNames z2
        refine Keeps.ite (fun _ => ?_) (fun _ => ?_)
        · unfold z2
          refine (State.setHead_keeps ..).of ?_
          exact State.skipReceipt_keeps ..
        · unfold z2
          refine (State.setHead_keeps ..).of ?_
          refine Keeps.ite_fst (fun _ => ?_) (fun _ => ?_)
          · exact State.skipReceipt_keeps ..
          · refine Keeps.mk_fst ?_
            exact Keeps.refl _

theorem execReceiptWrite_keeps (d : Nat) (s : State) : Kept s (execReceiptWrite d s) := by
  unfold execReceiptWrite
  refine Kept.next ?_
  cases ((s.head d).rcpt)
  · dsimp -zeta -zetaHave only
    exact Keeps.refl _
  · cases ((s.head d).owner)
    · dsimp -zeta -zetaHave only
      exact Keeps.refl _
    · dsimp -zeta -zetaHave only
      split
      · exact Keeps.refl _
      · refine Keeps.ite (fun _ => ?_) (fun _ => ?_)
        · exact Keeps.refl _
        · extract_lets +onlyGivenNames z1
          clear_value z1
          extract_lets +onlyGivenNames z2
          clear_value z2
          extract_lets +onlyGivenNames z3
          clear_value z3
          extract_lets +onlyGivenNames z4
          clear_value z4
          split
          · refine Keeps.ite (fun _ => ?_) (fun _ => ?_)
            · refine (State.setHead_keeps ..).of ?_
              refine (State.skipReceipt_keeps ..).of ?_
              refine (Keeps.fst (State.segs_keeps ..) (by assumption)).of ?_
              exact Keeps.refl _
            · refine (State.setHead_keeps ..).of ?_
              refine (State.countField_keeps ..).of ?_
              refine (State.segWrite_keeps ..).of ?_
              refine (Keeps.fst (State.segs_keeps ..) (by assumption)).of ?_
              exact Keeps.refl _
          · refine (State.setHead_keeps ..).of ?_
            refine (State.skipReceipt_keeps ..).of ?_
            refine (Keeps.fst (State.segs_keeps ..) (by assumption)).of ?_
            exact Keeps.refl _

theorem State.captureBytes_keeps (s : State) (d : Nat) : Keeps s (State.captureBytes s d).1 := by
  unfold State.captureBytes
  split
  · refine Keeps.mk_fst ?_
    exact Keeps.refl _
  · refine Keeps.ite_fst (fun _ => ?_) (fun _ => ?_)
    · dsimp -zeta -zetaHave only
      exact State.drawBytes_keeps ..
    · refine Keeps.mk_fst ?_
      exact State.bumpFree_keeps ..

theorem State.captureIssue_keeps (s : State) (d : Nat) (k : Nat) (n : Nat) : Keeps s (State.captureIssue s d k n) := by
  unfold State.captureIssue
  extract_lets +onlyGivenNames z1
  clear_value z1
  extract_lets +onlyGivenNames z2
  clear_value z2
  extract_lets +onlyGivenNames z3
  clear_value z3
  refine Keeps.foldl (fun _ _ => ?_) ?_
  · exact State.hostWrite_keeps ..
  · exact Keeps.refl _

theorem State.captureCut_keeps (s : State) (d : Nat) : Keeps s (State.captureCut s d) := by
  unfold State.captureCut
  extract_lets +onlyGivenNames z1
  clear_value z1
  refine Keeps.ite (fun _ => ?_) (fun _ => ?_)
  · dsimp -zeta -zetaHave only
    extract_lets +onlyGivenNames z2
    refine Keeps.cut (b := z2) ?_ ?_
    · unfold z2
      split
      · refine (State.captureIssue_keeps ..).of ?_
        exact State.drawNat_keeps ..
      · exact State.drawNat_keeps ..
    · intro hz2
      refine (State.cause_keeps ..).of ?_
      exact (State.setHead_keeps ..).of ‹_›
  · exact Keeps.refl _

theorem State.captureArm_keeps (s : State) (d : Nat) : Keeps s (State.captureArm s d) := by
  unfold State.captureArm
  extract_lets +onlyGivenNames z1
  clear_value z1
  refine Keeps.ite (fun _ => ?_) (fun _ => ?_)
  · exact Keeps.refl _
  · refine Keeps.ite (fun _ => ?_) (fun _ => ?_)
    · refine (State.cause_keeps ..).of ?_
      exact State.setHead_keeps ..
    · exact State.setHead_keeps ..

theorem execCaptureDone_keeps (d : Nat) (s : State) : Kept s (execCaptureDone d s) := by
  unfold execCaptureDone
  extract_lets +onlyGivenNames z1
  clear_value z1
  refine Kept.next ?_
  split
  · refine Keeps.ite (fun _ => ?_) (fun _ => ?_)
    · exact Keeps.refl _
    · refine Keeps.ite (fun _ => ?_) (fun _ => ?_)
      · exact State.captureCut_keeps ..
      · extract_lets +onlyGivenNames z2
        refine Keeps.cut (b := z2) ?_ ?_
        · unfold z2
          exact State.captureIssue_keeps ..
        · intro hz2
          refine (State.cause_keeps ..).of ?_
          exact (State.setHead_keeps ..).of ‹_›
  · exact State.captureCut_keeps ..

theorem State.applyRoute_keeps (s : State) (d : Nat) (src : Nat) : Keeps s (State.applyRoute s d src) := by
  unfold State.applyRoute
  extract_lets +onlyGivenNames z1
  clear_value z1
  extract_lets +onlyGivenNames z2
  refine Keeps.cut (b := z2.2) ?_ ?_
  · unfold z2
    refine Keeps.ite_snd (fun _ => ?_) (fun _ => ?_)
    · refine Keeps.mk_snd ?_
      exact Keeps.refl _
    · refine Keeps.ite_snd (fun _ => ?_) (fun _ => ?_)
      · refine Keeps.mk_snd ?_
        exact Keeps.refl _
      · exact State.drawBool_keeps ..
  · intro hz2
    extract_lets +onlyGivenNames z3
    refine Keeps.cut (b := z3) ?_ ?_
    · unfold z3
      assumption
    · intro hz3
      refine Keeps.ite (fun _ => ?_) (fun _ => ?_)
      · refine (State.cause_keeps ..).of ?_
        exact (State.setPort_keeps ..).of ‹_›
      · extract_lets +onlyGivenNames z4
        clear_value z4
        refine (State.cause_keeps ..).of ?_
        exact (State.setPort_keeps ..).of ‹_›

theorem State.routeWrite_keeps (s : State) (d : Nat) (src : Nat) : Keeps s (State.routeWrite s d src) := by
  unfold State.routeWrite
  extract_lets +onlyGivenNames z1
  clear_value z1
  refine Keeps.ite (fun _ => ?_) (fun _ => ?_)
  · exact State.setPort_keeps ..
  · refine Keeps.ite (fun _ => ?_) (fun _ => ?_)
    · exact State.applyRoute_keeps ..
    · exact State.setPort_keeps ..

theorem State.portBlank_keeps (s : State) (h : Nat) (d : Nat) : Keeps s (State.portBlank s h d) := by
  unfold State.portBlank
  extract_lets +onlyGivenNames z1
  clear_value z1
  refine Keeps.ite (fun _ => ?_) (fun _ => ?_)
  · exact Keeps.refl _
  · extract_lets +onlyGivenNames z2
    clear_value z2
    extract_lets +onlyGivenNames z3
    refine Keeps.cut (b := z3) ?_ ?_
    · unfold z3
      refine (State.latchRange_keeps ..).of ?_
      exact State.setPort_keeps ..
    · intro hz3
      split
      · exact (State.applyRoute_keeps ..).of ‹_›
      · assumption

theorem State.sdpCommit_keeps (s : State) (d : Nat) : Keeps s (State.sdpCommit s d) := by
  unfold State.sdpCommit
  extract_lets +onlyGivenNames z1
  clear_value z1
  extract_lets +onlyGivenNames z2
  clear_value z2
  refine Keeps.ite (fun _ => ?_) (fun _ => ?_)
  · exact State.setPort_keeps ..
  · exact State.setPort_keeps ..

theorem execPortRestartDone_keeps (d : Nat) (s : State) : Kept s (execPortRestartDone d s) := by
  unfold execPortRestartDone
  extract_lets +onlyGivenNames z1
  clear_value z1
  refine Kept.next ?_
  refine Keeps.ite (fun _ => ?_) (fun _ => ?_)
  · exact State.setPort_keeps ..
  · exact Keeps.refl _

theorem State.portEnable_keeps (s : State) (d : Nat) (on : Bool) : Keeps s (State.portEnable s d on) := by
  unfold State.portEnable
  extract_lets +onlyGivenNames z1
  clear_value z1
  refine Keeps.ite (fun _ => ?_) (fun _ => ?_)
  · exact State.setPort_keeps ..
  · exact State.setPort_keeps ..

theorem State.trainStart_keeps (s : State) (d : Nat) : Keeps s (State.trainStart s d) := by
  unfold State.trainStart
  extract_lets +onlyGivenNames z1
  clear_value z1
  refine Keeps.ite (fun _ => ?_) (fun _ => ?_)
  · exact State.setPort_keeps ..
  · exact Keeps.refl _

theorem execDpTrainDone_keeps (d : Nat) (ok : Bool) (s : State) : Kept s (execDpTrainDone d ok s) := by
  unfold execDpTrainDone
  extract_lets +onlyGivenNames z1
  clear_value z1
  refine Kept.next ?_
  refine Keeps.ite (fun _ => ?_) (fun _ => ?_)
  · exact Keeps.refl _
  · extract_lets +onlyGivenNames z2
    clear_value z2
    refine (State.cause_keeps ..).of ?_
    exact State.setPort_keeps ..

theorem State.auxStart_keeps (s : State) (d : Nat) : Keeps s (State.auxStart s d) := by
  unfold State.auxStart
  extract_lets +onlyGivenNames z1
  clear_value z1
  refine Keeps.ite (fun _ => ?_) (fun _ => ?_)
  · exact State.setPort_keeps ..
  · exact Keeps.refl _

theorem execAuxDone_keeps (d : Nat) (result : Nat) (reply : List Byte) (s : State) : Kept s (execAuxDone d result reply s) := by
  unfold execAuxDone
  extract_lets +onlyGivenNames z1
  clear_value z1
  extract_lets +onlyGivenNames z2
  clear_value z2
  refine Kept.next ?_
  refine Keeps.ite (fun _ => ?_) (fun _ => ?_)
  · exact Keeps.refl _
  · extract_lets +onlyGivenNames z3
    clear_value z3
    extract_lets +onlyGivenNames z4
    refine Keeps.cut (b := z4) ?_ ?_
    · unfold z4
      exact State.setPort_keeps ..
    · intro hz4
      extract_lets +onlyGivenNames z5
      refine Keeps.cut (b := z5) ?_ ?_
      · unfold z5
        exact (State.setReg_keeps ..).of ‹_›
      · intro hz5
        extract_lets +onlyGivenNames z6
        refine Keeps.cut (b := z6) ?_ ?_
        · unfold z6
          refine Keeps.ite (fun _ => ?_) (fun _ => ?_)
          · assumption
          · refine Keeps.foldl (fun _ _ => ?_) ?_
            · exact State.setReg_keeps ..
            · assumption
        · intro hz6
          exact (State.cause_keeps ..).of ‹_›

theorem execHpdIrq_keeps (d : Nat) (s : State) : Kept s (execHpdIrq d s) := by
  unfold execHpdIrq
  extract_lets +onlyGivenNames z1
  clear_value z1
  refine Kept.next ?_
  refine Keeps.ite (fun _ => ?_) (fun _ => ?_)
  · refine (State.cause_keeps ..).of ?_
    exact State.setPort_keeps ..
  · exact Keeps.refl _

theorem execHpdLoss_keeps (d : Nat) (s : State) : Kept s (execHpdLoss d s) := by
  unfold execHpdLoss
  extract_lets +onlyGivenNames z1
  clear_value z1
  refine Kept.next ?_
  refine Keeps.ite (fun _ => ?_) (fun _ => ?_)
  · refine (State.causes_keeps ..).of ?_
    exact State.setPort_keeps ..
  · exact Keeps.refl _

theorem execHpdReturn_keeps (d : Nat) (s : State) : Kept s (execHpdReturn d s) := by
  unfold execHpdReturn
  extract_lets +onlyGivenNames z1
  clear_value z1
  refine Kept.next ?_
  refine Keeps.ite (fun _ => ?_) (fun _ => ?_)
  · exact Keeps.refl _
  · refine (State.cause_keeps ..).of ?_
    exact State.setPort_keeps ..

theorem State.holdEnd_keeps (s : State) (d : Nat) : Keeps s (State.holdEnd s d) := by
  unfold State.holdEnd
  extract_lets +onlyGivenNames z1
  clear_value z1
  refine Keeps.ite (fun _ => ?_) (fun _ => ?_)
  · refine (State.cause_keeps ..).of ?_
    exact State.setHead_keeps ..
  · exact Keeps.refl _

theorem State.holdStart_keeps (s : State) (d : Nat) : Keeps s (State.holdStart s d) := by
  unfold State.holdStart
  extract_lets +onlyGivenNames z1
  refine Keeps.cut (b := z1) ?_ ?_
  · unfold z1
    exact State.captureCut_keeps ..
  · intro hz1
    extract_lets +onlyGivenNames z2
    clear_value z2
    extract_lets +onlyGivenNames z3
    refine Keeps.cut (b := z3) ?_ ?_
    · unfold z3
      refine Keeps.ite (fun _ => ?_) (fun _ => ?_)
      · exact (State.count_keeps ..).of ‹_›
      · assumption
    · intro hz3
      extract_lets +onlyGivenNames z4
      clear_value z4
      extract_lets +onlyGivenNames z5
      refine Keeps.cut (b := z5) ?_ ?_
      · unfold z5
        exact (State.setHead_keeps ..).of ‹_›
      · intro hz5
        refine Keeps.ite (fun _ => ?_) (fun _ => ?_)
        · exact (State.cause_keeps ..).of ‹_›
        · assumption

theorem State.holdBlack_keeps (s : State) (d : Nat) : Keeps s (State.holdBlack s d) := by
  unfold State.holdBlack
  extract_lets +onlyGivenNames z1
  clear_value z1
  refine Keeps.ite (fun _ => ?_) (fun _ => ?_)
  · refine (State.holdEnd_keeps ..).of ?_
    exact State.setHead_keeps ..
  · exact Keeps.refl _

theorem execHeadHoldLimitExpiry_keeps (d : Nat) (s : State) : Kept s (execHeadHoldLimitExpiry d s) := by
  unfold execHeadHoldLimitExpiry
  refine Kept.next ?_
  exact State.holdBlack_keeps ..

theorem State.endRefresh_keeps (s : State) (d : Nat) : Keeps s (State.endRefresh s d) := by
  unfold State.endRefresh
  extract_lets +onlyGivenNames z1
  clear_value z1
  split
  · exact Keeps.refl _
  · refine Keeps.ite (fun _ => ?_) (fun _ => ?_)
    · exact Keeps.refl _
    · dsimp -zeta -zetaHave only
      extract_lets +onlyGivenNames z2
      clear_value z2
      extract_lets +onlyGivenNames z3
      refine Keeps.cut (b := z3) ?_ ?_
      · unfold z3
        refine (State.framePoison_keeps ..).of ?_
        refine (State.setHead_keeps ..).of ?_
        exact State.refreshCrc_keeps ..
      · intro hz3
        extract_lets +onlyGivenNames z4
        clear_value z4
        extract_lets +onlyGivenNames z5
        clear_value z5
        extract_lets +onlyGivenNames z6
        refine Keeps.cut (b := z6) ?_ ?_
        · unfold z6
          refine Keeps.ite (fun _ => ?_) (fun _ => ?_)
          · refine (State.cause_keeps ..).of ?_
            exact (State.count_keeps ..).of ‹_›
          · assumption
        · intro hz6
          extract_lets +onlyGivenNames z7
          clear_value z7
          extract_lets +onlyGivenNames z8
          refine Keeps.cut (b := z8) ?_ ?_
          · unfold z8
            refine Keeps.ite (fun _ => ?_) (fun _ => ?_)
            · refine (State.raiseAs_keeps ..).of ?_
              exact (State.setHead_keeps ..).of ‹_›
            · assumption
          · intro hz8
            exact (State.receiptDue_keeps ..).of ‹_›

theorem State.latchFlip_keeps (s : State) (d : Nat) : Keeps s (State.latchFlip s d) := by
  unfold State.latchFlip
  extract_lets +onlyGivenNames z1
  clear_value z1
  split
  · exact Keeps.refl _
  · extract_lets +onlyGivenNames z2
    clear_value z2
    extract_lets +onlyGivenNames z3
    refine Keeps.cut (b := z3) ?_ ?_
    · unfold z3
      refine (State.setHead_keeps ..).of ?_
      exact State.holdEnd_keeps ..
    · intro hz3
      refine (State.cause_keeps ..).of ?_
      exact (State.count_keeps ..).of ‹_›

theorem State.beaconFrame_keeps (s : State) (d : Nat) : Keeps s (State.beaconFrame s d) := by
  unfold State.beaconFrame
  refine Keeps.foldl (fun _ _ => ?_) ?_
  · refine Keeps.ite (fun _ => ?_) (fun _ => ?_)
    · exact State.setBeacon_keeps ..
    · exact Keeps.refl _
  · exact Keeps.refl _

theorem State.vblank_keeps (s : State) (d : Nat) : Keeps s (State.vblank s d) := by
  unfold State.vblank
  refine Keeps.ite (fun _ => ?_) (fun _ => ?_)
  · exact Keeps.refl _
  · extract_lets +onlyGivenNames z1
    refine Keeps.cut (b := z1) ?_ ?_
    · unfold z1
      exact State.endRefresh_keeps ..
    · intro hz1
      extract_lets +onlyGivenNames z2
      clear_value z2
      extract_lets +onlyGivenNames z3
      refine Keeps.cut (b := z3) ?_ ?_
      · unfold z3
        refine Keeps.ite (fun _ => ?_) (fun _ => ?_)
        · dsimp -zeta -zetaHave only
          refine (State.setHead_keeps ..).of ?_
          exact (State.drawBytes_keeps ..).of ‹_›
        · assumption
      · intro hz3
        extract_lets +onlyGivenNames z4
        clear_value z4
        extract_lets +onlyGivenNames z5
        refine Keeps.cut (b := z5) ?_ ?_
        · unfold z5
          exact (State.setHead_keeps ..).of ‹_›
        · intro hz5
          extract_lets +onlyGivenNames z6
          refine Keeps.cut (b := z6) ?_ ?_
          · unfold z6
            refine Keeps.ite (fun _ => ?_) (fun _ => ?_)
            · exact (State.holdBlack_keeps ..).of ‹_›
            · assumption
          · intro hz6
            extract_lets +onlyGivenNames z7
            refine Keeps.cut (b := z7) ?_ ?_
            · unfold z7
              refine (State.latchRange_keeps ..).of ?_
              exact (State.latchFlip_keeps ..).of ‹_›
            · intro hz7
              extract_lets +onlyGivenNames z8
              clear_value z8
              extract_lets +onlyGivenNames z9
              refine Keeps.cut (b := z9) ?_ ?_
              · unfold z9
                exact (State.setHead_keeps ..).of ‹_›
              · intro hz9
                extract_lets +onlyGivenNames z10
                refine Keeps.cut (b := z10) ?_ ?_
                · unfold z10
                  refine Keeps.ite (fun _ => ?_) (fun _ => ?_)
                  · dsimp -zeta -zetaHave only
                    refine (State.setHead_keeps ..).of ?_
                    exact (State.captureBytes_keeps ..).of ‹_›
                  · assumption
                · intro hz10
                  extract_lets +onlyGivenNames z11
                  refine Keeps.cut (b := z11) ?_ ?_
                  · unfold z11
                    refine (State.beaconFrame_keeps ..).of ?_
                    refine (State.portBlank_keeps ..).of ?_
                    exact (State.portBlank_keeps ..).of ‹_›
                  · intro hz11
                    exact (State.cause_keeps ..).of ‹_›

theorem execVblankStart_keeps (d : Nat) (err : Option (Nat × Bool)) (s : State) : Kept s (execVblankStart d err s) := by
  unfold execVblankStart
  refine Kept.next ?_
  refine Keeps.ite (fun _ => ?_) (fun _ => ?_)
  · refine (State.vblank_keeps ..).of ?_
    exact State.eccFind_keeps ..
  · exact Keeps.refl _

theorem execLineUnderrun_keeps (d : Nat) (s : State) : Kept s (execLineUnderrun d s) := by
  unfold execLineUnderrun
  refine Kept.next ?_
  refine Keeps.ite (fun _ => ?_) (fun _ => ?_)
  · refine (State.cause_keeps ..).of ?_
    exact State.count_keeps ..
  · exact Keeps.refl _

theorem State.headEnable_keeps (s : State) (d : Nat) (ag : Agent) : Keeps s (State.headEnable s d ag) := by
  unfold State.headEnable
  extract_lets +onlyGivenNames z1
  clear_value z1
  refine Keeps.ite (fun _ => ?_) (fun _ => ?_)
  · exact Keeps.refl _
  · refine Keeps.ite (fun _ => ?_) (fun _ => ?_)
    · refine (State.rsvdValue_keeps ..).of ?_
      exact State.setHead_keeps ..
    · refine (State.vblank_keeps ..).of ?_
      exact State.setHead_keeps ..

theorem State.headDisable_keeps (s : State) (d : Nat) : Keeps s (State.headDisable s d) := by
  unfold State.headDisable
  extract_lets +onlyGivenNames z1
  clear_value z1
  refine Keeps.ite (fun _ => ?_) (fun _ => ?_)
  · exact Keeps.refl _
  · extract_lets +onlyGivenNames z2
    refine Keeps.cut (b := z2) ?_ ?_
    · unfold z2
      exact State.captureCut_keeps ..
    · intro hz2
      extract_lets +onlyGivenNames z3
      refine Keeps.cut (b := z3) ?_ ?_
      · unfold z3
        refine Keeps.ite (fun _ => ?_) (fun _ => ?_)
        · exact (State.count_keeps ..).of ‹_›
        · assumption
      · intro hz3
        extract_lets +onlyGivenNames z4
        clear_value z4
        extract_lets +onlyGivenNames z5
        refine Keeps.cut (b := z5) ?_ ?_
        · unfold z5
          refine (State.holdEnd_keeps ..).of ?_
          exact (State.setHead_keeps ..).of ‹_›
        · intro hz5
          refine Keeps.foldl (fun _ _ => ?_) ?_
          · refine Keeps.ite (fun _ => ?_) (fun _ => ?_)
            · exact State.loseLock_keeps ..
            · exact Keeps.refl _
          · assumption

theorem State.lutWrite_keeps (s : State) (d : Nat) (v : W) (ag : Agent) : Keeps s (State.lutWrite s d v ag) := by
  unfold State.lutWrite
  extract_lets +onlyGivenNames z1
  clear_value z1
  extract_lets +onlyGivenNames z2
  clear_value z2
  refine Keeps.ite (fun _ => ?_) (fun _ => ?_)
  · exact State.busyDrop_keeps ..
  · extract_lets +onlyGivenNames z3
    clear_value z3
    extract_lets +onlyGivenNames z4
    refine Keeps.cut (b := z4) ?_ ?_
    · unfold z4
      exact State.setHead_keeps ..
    · intro hz4
      refine Keeps.ite (fun _ => ?_) (fun _ => ?_)
      · exact (State.setReg_keeps ..).of ‹_›
      · assumption

end Sys2Proof.Machine
end

