-- ==== Sys2Proof/Laws/KeepsBriane.lean ====
section
/-! SUPPORT. What the operations and commands of Machine/Briane.lean keep: one lemma for each. -/

set_option Elab.async false
namespace Sys2Proof.Machine

theorem State.rspWrite_keeps (s : State) (k : Nat) (e : List Byte) : Keeps s (State.rspWrite s k e) := by
  unfold State.rspWrite
  extract_lets +onlyGivenNames z1
  clear_value z1
  extract_lets +onlyGivenNames z2
  clear_value z2
  extract_lets +onlyGivenNames z3
  refine Keeps.cut (b := z3) ?_ ?_
  · unfold z3
    refine Keeps.foldl (fun _ _ => ?_) ?_
    · exact State.setReg_keeps ..
    · exact Keeps.refl _
  · intro hz3
    refine (State.cause_keeps ..).of ?_
    exact (State.setRings_keeps ..).of ‹_›

theorem State.respond_keeps (s : State) (k : Nat) (r : Req) (status : Nat) (detail : Nat) (payload : List Byte) : Keeps s (State.respond s k r status detail payload) := by
  unfold State.respond
  extract_lets +onlyGivenNames z1
  refine Keeps.cut (b := z1) ?_ ?_
  · unfold z1
    exact State.rspWrite_keeps ..
  · intro hz1
    exact (State.setRings_keeps ..).of ‹_›

theorem State.respondPending_keeps (s : State) (k : Nat) (r : Req) (l : Long) : Keeps s (State.respondPending s k r l) := by
  unfold State.respondPending
  extract_lets +onlyGivenNames z1
  refine Keeps.cut (b := z1) ?_ ?_
  · unfold z1
    exact State.rspWrite_keeps ..
  · intro hz1
    exact (State.setRings_keeps ..).of ‹_›

theorem State.finishLong_keeps (s : State) (k : Nat) (status : Nat) (detail : Nat) (payload : List Byte) : Keeps s (State.finishLong s k status detail payload) := by
  unfold State.finishLong
  split
  · exact Keeps.refl _
  · refine Keeps.ite (fun _ => ?_) (fun _ => ?_)
    · exact Keeps.refl _
    · extract_lets +onlyGivenNames z1
      clear_value z1
      refine Keeps.ite (fun _ => ?_) (fun _ => ?_)
      · extract_lets +onlyGivenNames z2
        refine Keeps.cut (b := z2) ?_ ?_
        · unfold z2
          exact State.rspWrite_keeps ..
        · intro hz2
          exact (State.setRings_keeps ..).of ‹_›
      · exact State.setRings_keeps ..

theorem State.closeRings_keeps (s : State) (k : Nat) : Keeps s (State.closeRings s k) := by
  unfold State.closeRings
  extract_lets +onlyGivenNames z1
  clear_value z1
  refine (State.setRings_keeps ..).of ?_
  exact Keeps.mk' (Keeps.refl _) (.refl _) le_rfl

theorem State.reqRingWrite_keeps (s : State) (k : Nat) (i : Nat) (v : W) : Keeps s (State.reqRingWrite s k i v) := by
  unfold State.reqRingWrite
  extract_lets +onlyGivenNames z1
  clear_value z1
  refine Keeps.ite (fun _ => ?_) (fun _ => ?_)
  · exact Keeps.refl _
  · extract_lets +onlyGivenNames z2
    refine Keeps.cut (b := z2) ?_ ?_
    · unfold z2
      exact State.setReg_keeps ..
    · intro hz2
      extract_lets +onlyGivenNames z3
      clear_value z3
      exact (State.setRings_keeps ..).of ‹_›

theorem State.reqProdWrite_keeps (s : State) (k : Nat) (v : W) (ag : Agent) : Keeps s (State.reqProdWrite s k v ag) := by
  unfold State.reqProdWrite
  extract_lets +onlyGivenNames z1
  clear_value z1
  extract_lets +onlyGivenNames z2
  clear_value z2
  refine Keeps.ite (fun _ => ?_) (fun _ => ?_)
  · exact Keeps.refl _
  · refine Keeps.ite (fun _ => ?_) (fun _ => ?_)
    · refine (State.rsvdValue_keeps ..).of ?_
      exact State.setReg_keeps ..
    · exact State.setRings_keeps ..

theorem State.rspConsWrite_keeps (s : State) (k : Nat) (v : W) : Keeps s (State.rspConsWrite s k v) := by
  unfold State.rspConsWrite
  extract_lets +onlyGivenNames z1
  clear_value z1
  refine Keeps.ite (fun _ => ?_) (fun _ => ?_)
  · exact Keeps.refl _
  · extract_lets +onlyGivenNames z2
    refine Keeps.cut (b := z2) ?_ ?_
    · unfold z2
      exact State.setRings_keeps ..
    · intro hz2
      split
      · split
        · refine Keeps.ite (fun _ => ?_) (fun _ => ?_)
          · extract_lets +onlyGivenNames z3
            refine Keeps.cut (b := z3) ?_ ?_
            · unfold z3
              exact (State.rspWrite_keeps ..).of ‹_›
            · intro hz3
              exact (State.setRings_keeps ..).of ‹_›
          · assumption
        · assumption
      · assumption

theorem execBrianeEventDeliver_keeps (k : Nat) (s : State) : Kept s (execBrianeEventDeliver k s) := by
  unfold execBrianeEventDeliver
  extract_lets +onlyGivenNames z1
  clear_value z1
  refine Kept.next ?_
  split
  · refine Keeps.ite (fun _ => ?_) (fun _ => ?_)
    · extract_lets +onlyGivenNames z2
      refine Keeps.cut (b := z2) ?_ ?_
      · unfold z2
        exact State.rspWrite_keeps ..
      · intro hz2
        exact (State.setRings_keeps ..).of ‹_›
    · exact Keeps.refl _
  · exact Keeps.refl _

theorem State.negotiate_keeps (s : State) (k : Nat) : Keeps s (State.negotiate s k) := by
  unfold State.negotiate
  extract_lets +onlyGivenNames z1
  clear_value z1
  extract_lets +onlyGivenNames z2
  clear_value z2
  extract_lets +onlyGivenNames z3
  clear_value z3
  extract_lets +onlyGivenNames z4
  clear_value z4
  extract_lets +onlyGivenNames z5
  clear_value z5
  extract_lets +onlyGivenNames z6
  clear_value z6
  extract_lets +onlyGivenNames z7
  refine Keeps.cut (b := z7) ?_ ?_
  · unfold z7
    refine Keeps.ite (fun _ => ?_) (fun _ => ?_)
    · exact State.setRings_keeps ..
    · refine (State.cause_keeps ..).of ?_
      exact State.setRings_keeps ..
  · intro hz7
    exact (State.cause_keeps ..).of ‹_›

theorem State.hello_keeps (s : State) (k : Nat) (ag : Agent) : Keeps s (State.hello s k ag) := by
  unfold State.hello
  extract_lets +onlyGivenNames z1
  clear_value z1
  refine Keeps.ite (fun _ => ?_) (fun _ => ?_)
  · exact State.rsvdValue_keeps ..
  · refine Keeps.ite (fun _ => ?_) (fun _ => ?_)
    · exact Keeps.refl _
    · extract_lets +onlyGivenNames z2
      refine Keeps.cut (b := z2) ?_ ?_
      · unfold z2
        exact State.setRings_keeps ..
      · intro hz2
        refine Keeps.ite (fun _ => ?_) (fun _ => ?_)
        · assumption
        · exact (State.negotiate_keeps ..).of ‹_›

theorem State.negotiateAll_keeps (s : State) : Keeps s (State.negotiateAll s) := by
  unfold State.negotiateAll
  refine Keeps.foldl (fun _ _ => ?_) ?_
  · refine Keeps.ite (fun _ => ?_) (fun _ => ?_)
    · exact State.negotiate_keeps ..
    · exact Keeps.refl _
  · exact Keeps.refl _

theorem execBrianeRequestStart_keeps (k : Nat) (s : State) : Kept s (execBrianeRequestStart k s) := by
  unfold execBrianeRequestStart
  extract_lets +onlyGivenNames z1
  clear_value z1
  refine Kept.next ?_
  refine Keeps.ite (fun _ => ?_) (fun _ => ?_)
  · exact Keeps.refl _
  · extract_lets +onlyGivenNames z2
    clear_value z2
    extract_lets +onlyGivenNames z3
    refine Keeps.cut (b := z3.2) ?_ ?_
    · unfold z3
      refine Keeps.ite_snd (fun _ => ?_) (fun _ => ?_)
      · exact State.drawBytes_keeps ..
      · refine Keeps.mk_snd ?_
        exact Keeps.refl _
    · intro hz3
      extract_lets +onlyGivenNames z4
      clear_value z4
      extract_lets +onlyGivenNames z5
      refine Keeps.cut (b := z5) ?_ ?_
      · unfold z5
        exact (State.setRings_keeps ..).of ‹_›
      · intro hz5
        split
        · assumption
        · split
          · exact (State.respond_keeps ..).of ‹_›
          · assumption

theorem State.onReq_keeps (s : State) (k : Nat) (op : Nat) (f : State → Req → State) (h_f : ∀ (x0 : State) (x1 : Req), Keeps x0 (f x0 x1)) : Keeps s (State.onReq s k op f) := by
  unfold State.onReq
  split
  · refine Keeps.ite (fun _ => ?_) (fun _ => ?_)
    · exact h_f _ _
    · exact Keeps.refl _
  · exact Keeps.refl _

theorem execBrianeReservedOpcode_keeps (k : Nat) (s : State) : Kept s (execBrianeReservedOpcode k s) := by
  unfold execBrianeReservedOpcode
  refine Kept.next ?_
  split
  · refine Keeps.ite (fun _ => ?_) (fun _ => ?_)
    · exact State.respond_keeps ..
    · exact Keeps.refl _
  · exact Keeps.refl _

theorem execPing_keeps (k : Nat) (s : State) : Kept s (execPing k s) := by
  unfold execPing
  refine Kept.next ?_
  refine Keeps.trans ?_ (State.onReq_keeps (h_f := ?_) ..)
  · exact Keeps.refl _
  · intro _
    intro _
    refine Keeps.ite (fun _ => ?_) (fun _ => ?_)
    · exact State.respond_keeps ..
    · exact State.respond_keeps ..

theorem execGetInfo_keeps (k : Nat) (s : State) : Kept s (execGetInfo k s) := by
  unfold execGetInfo
  refine Kept.next ?_
  refine Keeps.trans ?_ (State.onReq_keeps (h_f := ?_) ..)
  · exact Keeps.refl _
  · intro _
    intro _
    extract_lets +onlyGivenNames z1
    clear_value z1
    extract_lets +onlyGivenNames z2
    clear_value z2
    extract_lets +onlyGivenNames z3
    clear_value z3
    refine Keeps.ite (fun _ => ?_) (fun _ => ?_)
    · exact State.respond_keeps ..
    · exact State.respond_keeps ..

theorem State.logAppend_keeps (s : State) (r : LogRec) : Keeps s (State.logAppend s r) := by
  unfold State.logAppend
  extract_lets +onlyGivenNames z1
  extract_lets +onlyGivenNames z2
  refine Keeps.cut (b := z2) ?_ ?_
  · unfold z2
    refine Keeps.ite (fun _ => ?_) (fun _ => ?_)
    · exact State.count_keeps ..
    · exact Keeps.refl _
  · intro hz2
    exact Keeps.mk' ‹_› (.refl _) le_rfl

theorem State.logRec_keeps (s : State) (sev : Nat) (source : Nat) (inst : Nat) : Keeps s (State.logRec s sev source inst) := by
  unfold State.logRec
  refine Keeps.ite (fun _ => ?_) (fun _ => ?_)
  · exact Keeps.refl _
  · extract_lets +onlyGivenNames z1
    clear_value z1
    refine (State.logAppend_keeps ..).of ?_
    exact State.bumpFree_keeps ..

theorem State.logSelect_keeps (s : State) (q : W) : Keeps s (State.logSelect s q) := by
  unfold State.logSelect
  extract_lets +onlyGivenNames z1
  refine Keeps.cut (b := z1) ?_ ?_
  · unfold z1
    exact State.setReg_keeps ..
  · intro hz1
    exact Keeps.mk' ‹_› (.refl _) le_rfl

theorem execLogFetch_keeps (k : Nat) (s : State) : Kept s (execLogFetch k s) := by
  unfold execLogFetch
  refine Kept.next ?_
  refine Keeps.trans ?_ (State.onReq_keeps (h_f := ?_) ..)
  · exact Keeps.refl _
  · intro _
    intro _
    extract_lets +onlyGivenNames z1
    clear_value z1
    extract_lets +onlyGivenNames z2
    clear_value z2
    refine Keeps.ite (fun _ => ?_) (fun _ => ?_)
    · exact State.respond_keeps ..
    · extract_lets +onlyGivenNames z3
      clear_value z3
      extract_lets +onlyGivenNames z4
      clear_value z4
      extract_lets +onlyGivenNames z5
      clear_value z5
      extract_lets +onlyGivenNames z6
      clear_value z6
      extract_lets +onlyGivenNames z7
      clear_value z7
      extract_lets +onlyGivenNames z8
      refine Keeps.cut (b := z8) ?_ ?_
      · unfold z8
        exact Keeps.mk' (Keeps.refl _) (.refl _) le_rfl
      · intro hz8
        extract_lets +onlyGivenNames z9
        refine Keeps.cut (b := z9.2) ?_ ?_
        · unfold z9
          split
          · refine Keeps.mk_snd ?_
            assumption
          · exact (State.drawWord_keeps ..).of ‹_›
        · intro hz9
          extract_lets +onlyGivenNames z10
          clear_value z10
          extract_lets +onlyGivenNames z11
          refine Keeps.cut (b := z11) ?_ ?_
          · unfold z11
            exact (State.respondPending_keeps ..).of ‹_›
          · intro hz11
            exact (State.hostWrite_keeps ..).of ‹_›

theorem execLogFetchDone_keeps (k : Nat) (s : State) : Kept s (execLogFetchDone k s) := by
  unfold execLogFetchDone
  refine Kept.next ?_
  split
  · refine Keeps.ite (fun _ => ?_) (fun _ => ?_)
    · exact State.finishLong_keeps ..
    · exact Keeps.refl _
  · exact Keeps.refl _

theorem execLogConfig_keeps (k : Nat) (s : State) : Kept s (execLogConfig k s) := by
  unfold execLogConfig
  refine Kept.next ?_
  refine Keeps.trans ?_ (State.onReq_keeps (h_f := ?_) ..)
  · exact Keeps.refl _
  · intro _
    intro _
    refine Keeps.ite (fun _ => ?_) (fun _ => ?_)
    · exact State.respond_keeps ..
    · refine (State.respond_keeps ..).of ?_
      exact State.setReg_keeps ..

theorem execTraceSet_keeps (k : Nat) (s : State) : Kept s (execTraceSet k s) := by
  unfold execTraceSet
  refine Kept.next ?_
  refine Keeps.trans ?_ (State.onReq_keeps (h_f := ?_) ..)
  · exact Keeps.refl _
  · intro _
    intro _
    refine Keeps.ite (fun _ => ?_) (fun _ => ?_)
    · exact State.respond_keeps ..
    · refine (State.respond_keeps ..).of ?_
      refine Keeps.foldl (fun _ _ => ?_) ?_
      · exact State.setReg_keeps ..
      · exact Keeps.refl _

end Sys2Proof.Machine
end

