-- ==== Sys2Proof/Laws/KeepsInstances.lean ====
section
/-! SUPPORT. What the operations and commands of Machine/Instances.lean keep: one lemma for each. -/

set_option Elab.async false
namespace Sys2Proof.Machine

theorem State.instActive_keeps (s : State) (k : Nat) : Keeps s (State.instActive s k) := by
  unfold State.instActive
  extract_lets +onlyGivenNames z1
  clear_value z1
  extract_lets +onlyGivenNames z2
  clear_value z2
  extract_lets +onlyGivenNames z3
  refine Keeps.cut (b := z3) ?_ ?_
  · unfold z3
    exact State.setInst_keeps ..
  · intro hz3
    extract_lets +onlyGivenNames z4
    refine Keeps.cut (b := z4) ?_ ?_
    · unfold z4
      refine Keeps.foldl (fun _ _ => ?_) ?_
      · exact State.postEvent_keeps ..
      · assumption
    · intro hz4
      extract_lets +onlyGivenNames z5
      refine Keeps.cut (b := z5) ?_ ?_
      · unfold z5
        refine Keeps.foldl (fun _ _ => ?_) ?_
        · refine (State.fetch_keeps ..).of ?_
          refine Keeps.ite (fun _ => ?_) (fun _ => ?_)
          · exact State.refreshFrames_keeps ..
          · exact Keeps.refl _
        · assumption
      · intro hz5
        exact (State.kick_keeps ..).of ‹_›

theorem State.setSt_keeps (s : State) (k : Nat) (new : InstSt) (cause : Nat) : Keeps s (State.setSt s k new cause) := by
  unfold State.setSt
  extract_lets +onlyGivenNames z1
  clear_value z1
  extract_lets +onlyGivenNames z2
  refine Keeps.cut (b := z2) ?_ ?_
  · unfold z2
    exact State.setInst_keeps ..
  · intro hz2
    extract_lets +onlyGivenNames z3
    refine Keeps.cut (b := z3) ?_ ?_
    · unfold z3
      exact (State.postEvent_keeps ..).of ‹_›
    · intro hz3
      extract_lets +onlyGivenNames z4
      refine Keeps.cut (b := z4) ?_ ?_
      · unfold z4
        refine (State.cause_keeps ..).of ?_
        exact (State.causes_keeps ..).of ‹_›
      · intro hz4
        refine Keeps.ite (fun _ => ?_) (fun _ => ?_)
        · exact (State.instActive_keeps ..).of ‹_›
        · assumption

theorem State.dropCmds_keeps (s : State) (dead : List Cmd) : Keeps s (State.dropCmds s dead) := by
  unfold State.dropCmds
  extract_lets +onlyGivenNames z1
  clear_value z1
  extract_lets +onlyGivenNames z2
  clear_value z2
  extract_lets +onlyGivenNames z3
  refine Keeps.cut (b := z3) ?_ ?_
  · unfold z3
    refine Keeps.foldl (fun _ _ => ?_) ?_
    · split
      · refine (State.dropMover_keeps ..).of ?_
        exact State.countIncomplete_keeps ..
      · exact Keeps.refl _
    · exact Keeps.refl _
  · intro hz3
    exact Keeps.mk' ‹_› (.refl _) le_rfl

theorem State.dropHeld_keeps (s : State) (k : Nat) : Keeps s (State.dropHeld s k) := by
  unfold State.dropHeld
  exact Keeps.mk' (Keeps.refl _) (.refl _) le_rfl

theorem State.cutMovers_keeps (s : State) (k : Nat) : Keeps s (State.cutMovers s k) := by
  unfold State.cutMovers
  refine Keeps.foldl (fun _ _ => ?_) ?_
  · exact State.moverCut_keeps ..
  · exact Keeps.refl _

theorem State.killWork_keeps (s : State) (k : Nat) (loose : Bool) : Keeps s (State.killWork s k loose) := by
  unfold State.killWork
  extract_lets +onlyGivenNames z1
  refine Keeps.cut (b := z1) ?_ ?_
  · unfold z1
    exact State.cutMovers_keeps ..
  · intro hz1
    extract_lets +onlyGivenNames z2
    clear_value z2
    extract_lets +onlyGivenNames z3
    clear_value z3
    extract_lets +onlyGivenNames z4
    refine Keeps.cut (b := z4) ?_ ?_
    · unfold z4
      refine Keeps.foldl (fun _ _ => ?_) ?_
      · exact State.killLaunch_keeps ..
      · assumption
    · intro hz4
      extract_lets +onlyGivenNames z5
      refine Keeps.cut (b := z5) ?_ ?_
      · unfold z5
        refine (State.dropHeld_keeps ..).of ?_
        exact (State.dropCmds_keeps ..).of ‹_›
      · intro hz5
        refine (State.kick_keeps ..).of ?_
        refine Keeps.foldl (fun _ _ => ?_) ?_
        · dsimp -zeta -zetaHave only
          exact State.queueFault_keeps ..
        · assumption

theorem State.askStop_keeps (s : State) (k : Nat) : Keeps s (State.askStop s k) := by
  unfold State.askStop
  refine Keeps.foldl (fun _ _ => ?_) ?_
  · dsimp -zeta -zetaHave only
    split
    · refine Keeps.ite (fun _ => ?_) (fun _ => ?_)
      · exact Keeps.refl _
      · refine Keeps.ite (fun _ => ?_) (fun _ => ?_)
        · refine (State.leaveRun_keeps ..).of ?_
          exact State.countField_keeps ..
        · refine Keeps.ite (fun _ => ?_) (fun _ => ?_)
          · refine (State.tryStop_keeps ..).of ?_
            exact State.askYield_keeps ..
          · exact Keeps.refl _
    · exact Keeps.refl _
  · exact Keeps.refl _

theorem State.ackWhere_keeps (s : State) (p : Owner → Option Nat → Bool) : Keeps s (State.ackWhere s p) := by
  unfold State.ackWhere
  exact Keeps.mk' (Keeps.refl _) (.refl _) le_rfl

theorem State.resetRange_keeps (s : State) (lo : Nat) (n : Nat) (keep : Nat → Bool) : Keeps s (State.resetRange s lo n keep) := by
  unfold State.resetRange
  extract_lets +onlyGivenNames z1
  clear_value z1
  exact Keeps.mk' (Keeps.refl _) (.refl _) le_rfl

theorem State.releaseHead_keeps (s : State) (d : Nat) (k : Nat) : Keeps s (State.releaseHead s d k) := by
  unfold State.releaseHead
  refine (State.postEvent_keeps ..).of ?_
  exact State.holdStart_keeps ..

theorem State.forget_keeps (s : State) (ns : List Nat) : Keeps s (State.forget s ns) := by
  unfold State.forget
  extract_lets keep n
  refine Keeps.ite (fun _ => Keeps.refl _) (fun _ => ?_)
  refine Keeps.trans (State.bumpFree_keeps s) ⟨rfl, fun w => ?_, SecLe.refl _, Nat.le_refl _, id⟩
  rw [memory_wf_iff] at w ⊢
  refine ⟨tblFilter_rising _ _ 0 w.1, fun e he => ?_⟩
  obtain ⟨a, v⟩ := e
  obtain ⟨hm, hc⟩ := List.mem_filter.1 he
  by_cases hn : a / 2 ^ 28 ∈ ns
  · simp only [List.contains_eq_mem, hn, decide_true, Bool.not_true, Bool.false_or, Bool.and_eq_true, bne_iff_ne] at hc
    exact .inl hc.2
  · refine (w.2 _ hm).imp id fun h => ?_
    simp only [State.vagueAt, tblFind_foldl_tblPut, hn, if_false] at h ⊢
    exact h


theorem State.releaseSlots_keeps (s : State) (k : Nat) : Keeps s (State.releaseSlots s k) := by
  unfold State.releaseSlots
  extract_lets +onlyGivenNames z1
  refine Keeps.cut (b := z1) ?_ ?_
  · unfold z1
    exact State.forget_keeps ..
  · intro hz1
    exact Keeps.mk' ‹_› (.refl _) le_rfl

theorem State.freeBlocks_keeps (s : State) (k : Nat) : Keeps s (State.freeBlocks s k) := by
  unfold State.freeBlocks
  extract_lets +onlyGivenNames z1
  refine Keeps.cut (b := z1) ?_ ?_
  · unfold z1
    exact State.dropInstSync_keeps ..
  · intro hz1
    extract_lets +onlyGivenNames z2
    clear_value z2
    exact Keeps.mk' ‹_› (.refl _) le_rfl

theorem State.freeQueues_keeps (s : State) (k : Nat) : Keeps s (State.freeQueues s k) := by
  unfold State.freeQueues
  extract_lets +onlyGivenNames z1
  refine Keeps.cut (b := z1) ?_ ?_
  · unfold z1
    exact State.cutMovers_keeps ..
  · intro hz1
    extract_lets +onlyGivenNames z2
    refine Keeps.cut (b := z2) ?_ ?_
    · unfold z2
      exact (State.dropCmds_keeps ..).of ‹_›
    · intro hz2
      extract_lets +onlyGivenNames z3
      refine Keeps.cut (b := z3) ?_ ?_
      · unfold z3
        exact (State.killInstLaunches_keeps ..).of ‹_›
      · intro hz3
        exact Keeps.mk' ‹_› (.refl _) le_rfl

theorem State.resetInst_keeps (s : State) (k : Nat) : Keeps s (State.resetInst s k) := by
  unfold State.resetInst
  extract_lets +onlyGivenNames z1
  refine Keeps.cut (b := z1) ?_ ?_
  · unfold z1
    refine (State.freeBlocks_keeps ..).of ?_
    refine (State.dropHeld_keeps ..).of ?_
    exact State.freeQueues_keeps ..
  · intro hz1
    extract_lets +onlyGivenNames z2
    refine Keeps.cut (b := z2) ?_ ?_
    · unfold z2
      exact Keeps.mk' ‹_› (.refl _) le_rfl
    · intro hz2
      extract_lets +onlyGivenNames z3
      refine Keeps.cut (b := z3) ?_ ?_
      · unfold z3
        refine Keeps.foldl (fun _ _ => ?_) ?_
        · exact State.freeResv_keeps ..
        · assumption
      · intro hz3
        extract_lets +onlyGivenNames z4
        refine Keeps.cut (b := z4) ?_ ?_
        · unfold z4
          refine Keeps.foldl (fun _ _ => ?_) ?_
          · refine Keeps.ite (fun _ => ?_) (fun _ => ?_)
            · exact State.releaseHead_keeps ..
            · exact Keeps.refl _
          · assumption
        · intro hz4
          extract_lets +onlyGivenNames z5
          refine Keeps.cut (b := z5) ?_ ?_
          · unfold z5
            refine (State.dropTlb_keeps ..).of ?_
            exact (State.releaseSlots_keeps ..).of ‹_›
          · intro hz5
            extract_lets +onlyGivenNames z6
            clear_value z6
            extract_lets +onlyGivenNames z7
            clear_value z7
            extract_lets +onlyGivenNames z8
            refine Keeps.cut (b := z8) ?_ ?_
            · unfold z8
              exact Keeps.mk' ‹_› (.refl _) le_rfl
            · intro hz8
              extract_lets +onlyGivenNames z9
              clear_value z9
              extract_lets +onlyGivenNames z10
              refine Keeps.cut (b := z10) ?_ ?_
              · unfold z10
                exact (State.setInst_keeps ..).of ‹_›
              · intro hz10
                extract_lets +onlyGivenNames z11
                refine Keeps.cut (b := z11) ?_ ?_
                · unfold z11
                  refine (State.resetRange_keeps ..).of ?_
                  refine (State.resetRange_keeps ..).of ?_
                  exact (State.resetRange_keeps ..).of ‹_›
                · intro hz11
                  extract_lets +onlyGivenNames z12
                  refine Keeps.cut (b := z12) ?_ ?_
                  · unfold z12
                    refine Keeps.ite (fun _ => ?_) (fun _ => ?_)
                    · assumption
                    · exact (State.closeRings_keeps ..).of ‹_›
                  · intro hz12
                    refine (State.kick_keeps ..).of ?_
                    exact (State.ackWhere_keeps ..).of ‹_›

theorem State.enterReset_keeps (s : State) (k : Nat) (remove : Bool) (cause : Nat) : Keeps s (State.enterReset s k remove cause) := by
  unfold State.enterReset
  extract_lets +onlyGivenNames z1
  refine Keeps.cut (b := z1) ?_ ?_
  · unfold z1
    refine (State.resetInst_keeps ..).of ?_
    exact State.setSt_keeps ..
  · intro hz1
    exact (State.setInst_keeps ..).of ‹_›

theorem State.quiesceReport_keeps (s : State) (k : Nat) (ok : Bool) : Keeps s (State.quiesceReport s k ok) := by
  unfold State.quiesceReport
  split
  · exact Keeps.refl _
  · refine Keeps.ite (fun _ => ?_) (fun _ => ?_)
    · exact Keeps.refl _
    · extract_lets +onlyGivenNames z1
      clear_value z1
      extract_lets +onlyGivenNames z2
      clear_value z2
      extract_lets +onlyGivenNames z3
      refine Keeps.cut (b := z3) ?_ ?_
      · unfold z3
        exact State.setRings_keeps ..
      · intro hz3
        refine Keeps.ite (fun _ => ?_) (fun _ => ?_)
        · extract_lets +onlyGivenNames z4
          clear_value z4
          exact (State.finishLong_keeps ..).of ‹_›
        · assumption

theorem State.resetReport_keeps (s : State) (k : Nat) : Keeps s (State.resetReport s k) := by
  unfold State.resetReport
  split
  · refine Keeps.ite (fun _ => ?_) (fun _ => ?_)
    · exact State.finishLong_keeps ..
    · exact Keeps.refl _
  · exact Keeps.refl _

theorem State.beginStop_keeps (s : State) (k : Nat) (q : Quiesce) : Keeps s (State.beginStop s k q) := by
  unfold State.beginStop
  refine Keeps.ite (fun _ => ?_) (fun _ => ?_)
  · refine (State.setInst_keeps ..).of ?_
    exact State.killWork_keeps ..
  · refine Keeps.ite (fun _ => ?_) (fun _ => ?_)
    · exact Keeps.refl _
    · exact State.askStop_keeps ..

theorem State.trigger_keeps (s : State) (k : Nat) (drain : Bool) (forced : Bool) (fault : Bool) (after : After) (cause : Nat) : Keeps s (State.trigger s k drain forced fault after cause) := by
  unfold State.trigger
  extract_lets +onlyGivenNames z1
  clear_value z1
  extract_lets +onlyGivenNames z2
  clear_value z2
  cases (z1.quiesce)
  · split
    · exact Keeps.refl _
    · refine Keeps.ite (fun _ => ?_) (fun _ => ?_)
      · exact State.setInst_keeps ..
      · exact Keeps.refl _
    · extract_lets +onlyGivenNames z3
      clear_value z3
      extract_lets +onlyGivenNames z4
      clear_value z4
      extract_lets +onlyGivenNames z5
      refine Keeps.cut (b := z5) ?_ ?_
      · unfold z5
        exact State.setInst_keeps ..
      · intro hz5
        extract_lets +onlyGivenNames z6
        refine Keeps.cut (b := z6) ?_ ?_
        · unfold z6
          refine Keeps.ite (fun _ => ?_) (fun _ => ?_)
          · exact (State.quiesceReport_keeps ..).of ‹_›
          · assumption
        · intro hz6
          refine Keeps.ite (fun _ => ?_) (fun _ => ?_)
          · exact (State.beginStop_keeps ..).of ‹_›
          · assumption
    · extract_lets +onlyGivenNames z3
      refine Keeps.cut (b := z3) ?_ ?_
      · unfold z3
        refine Keeps.ite (fun _ => ?_) (fun _ => ?_)
        · exact Keeps.refl _
        · exact State.setSt_keeps ..
      · intro hz3
        refine (State.beginStop_keeps ..).of ?_
        exact (State.setInst_keeps ..).of ‹_›
    · refine Keeps.ite (fun _ => ?_) (fun _ => ?_)
      · refine (State.beginStop_keeps ..).of ?_
        exact State.setInst_keeps ..
      · split
        · exact State.enterReset_keeps ..
        · exact Keeps.refl _
    · split
      · exact State.enterReset_keeps ..
      · exact Keeps.refl _
  · split
    · exact Keeps.refl _
    · refine Keeps.ite (fun _ => ?_) (fun _ => ?_)
      · exact State.setInst_keeps ..
      · exact Keeps.refl _
    · extract_lets +onlyGivenNames z3
      clear_value z3
      extract_lets +onlyGivenNames z4
      clear_value z4
      extract_lets +onlyGivenNames z5
      refine Keeps.cut (b := z5) ?_ ?_
      · unfold z5
        exact State.setInst_keeps ..
      · intro hz5
        extract_lets +onlyGivenNames z6
        refine Keeps.cut (b := z6) ?_ ?_
        · unfold z6
          refine Keeps.ite (fun _ => ?_) (fun _ => ?_)
          · exact (State.quiesceReport_keeps ..).of ‹_›
          · assumption
        · intro hz6
          refine Keeps.ite (fun _ => ?_) (fun _ => ?_)
          · exact (State.beginStop_keeps ..).of ‹_›
          · assumption
    · extract_lets +onlyGivenNames z3
      refine Keeps.cut (b := z3) ?_ ?_
      · unfold z3
        refine Keeps.ite (fun _ => ?_) (fun _ => ?_)
        · exact Keeps.refl _
        · exact State.setSt_keeps ..
      · intro hz3
        refine (State.beginStop_keeps ..).of ?_
        exact (State.setInst_keeps ..).of ‹_›
    · refine Keeps.ite (fun _ => ?_) (fun _ => ?_)
      · refine (State.beginStop_keeps ..).of ?_
        exact State.setInst_keeps ..
      · split
        · exact State.enterReset_keeps ..
        · exact Keeps.refl _
    · split
      · exact State.enterReset_keeps ..
      · exact Keeps.refl _

theorem execQuiesceLimitExpiry_keeps (k : Nat) (s : State) : Kept s (execQuiesceLimitExpiry k s) := by
  unfold execQuiesceLimitExpiry
  refine Kept.next ?_
  split
  · refine Keeps.ite (fun _ => ?_) (fun _ => ?_)
    · exact Keeps.refl _
    · extract_lets +onlyGivenNames z1
      refine Keeps.cut (b := z1) ?_ ?_
      · unfold z1
        exact State.killWork_keeps ..
      · intro hz1
        exact (State.setInst_keeps ..).of ‹_›
  · exact Keeps.refl _

theorem execQuiesceFlushDone_keeps (k : Nat) (s : State) : Kept s (execQuiesceFlushDone k s) := by
  unfold execQuiesceFlushDone
  refine Kept.next ?_
  split
  · refine Keeps.ite (fun _ => ?_) (fun _ => ?_)
    · exact Keeps.refl _
    · extract_lets +onlyGivenNames z1
      refine Keeps.cut (b := z1) ?_ ?_
      · unfold z1
        exact State.setSt_keeps ..
      · intro hz1
        extract_lets +onlyGivenNames z2
        clear_value z2
        extract_lets +onlyGivenNames z3
        refine Keeps.cut (b := z3) ?_ ?_
        · unfold z3
          exact (State.setInst_keeps ..).of ‹_›
        · intro hz3
          split
          · exact (State.quiesceReport_keeps ..).of ‹_›
          · exact (State.enterReset_keeps ..).of ‹_›
  · exact Keeps.refl _

theorem execFlushTimeout_keeps (k : Nat) (s : State) : Kept s (execFlushTimeout k s) := by
  unfold execFlushTimeout
  refine Kept.next ?_
  split
  · refine Keeps.ite (fun _ => ?_) (fun _ => ?_)
    · exact Keeps.refl _
    · extract_lets +onlyGivenNames z1
      clear_value z1
      extract_lets +onlyGivenNames z2
      clear_value z2
      extract_lets +onlyGivenNames z3
      refine Keeps.cut (b := z3) ?_ ?_
      · unfold z3
        exact Keeps.mk' (Keeps.refl _) (.refl _) le_rfl
      · intro hz3
        refine (State.countField_keeps ..).of ?_
        exact (State.dropHeld_keeps ..).of ‹_›
  · exact Keeps.refl _

theorem execForcedKillDone_keeps (k : Nat) (s : State) : Kept s (execForcedKillDone k s) := by
  unfold execForcedKillDone
  refine Kept.next ?_
  split
  · refine Keeps.ite (fun _ => ?_) (fun _ => ?_)
    · exact Keeps.refl _
    · extract_lets +onlyGivenNames z1
      clear_value z1
      extract_lets +onlyGivenNames z2
      refine Keeps.cut (b := z2) ?_ ?_
      · unfold z2
        exact State.setInst_keeps ..
      · intro hz2
        extract_lets +onlyGivenNames z3
        refine Keeps.cut (b := z3) ?_ ?_
        · unfold z3
          refine (State.quiesceReport_keeps ..).of ?_
          exact (State.setSt_keeps ..).of ‹_›
        · intro hz3
          split
          · exact (State.enterReset_keeps ..).of ‹_›
          · refine Keeps.ite (fun _ => ?_) (fun _ => ?_)
            · exact (State.enterReset_keeps ..).of ‹_›
            · assumption
  · exact Keeps.refl _

theorem execInstanceResetDone_keeps (k : Nat) (s : State) : Kept s (execInstanceResetDone k s) := by
  unfold execInstanceResetDone
  extract_lets +onlyGivenNames z1
  clear_value z1
  refine Kept.next ?_
  refine Keeps.ite (fun _ => ?_) (fun _ => ?_)
  · exact Keeps.refl _
  · extract_lets +onlyGivenNames z2
    clear_value z2
    extract_lets +onlyGivenNames z3
    refine Keeps.cut (b := z3) ?_ ?_
    · unfold z3
      exact State.setInst_keeps ..
    · intro hz3
      refine (State.resetReport_keeps ..).of ?_
      exact (State.setSt_keeps ..).of ‹_›

theorem execInstConfigure_keeps (k : Nat) (s : State) : Kept s (execInstConfigure k s) := by
  unfold execInstConfigure
  refine Kept.next ?_
  refine Keeps.trans ?_ (State.onReq_keeps (h_f := ?_) ..)
  · exact Keeps.refl _
  · intro _
    intro _
    extract_lets +onlyGivenNames z1
    clear_value z1
    extract_lets +onlyGivenNames z2
    clear_value z2
    extract_lets +onlyGivenNames z3
    clear_value z3
    extract_lets +onlyGivenNames z4
    clear_value z4
    extract_lets +onlyGivenNames z5
    clear_value z5
    extract_lets +onlyGivenNames z6
    clear_value z6
    extract_lets +onlyGivenNames z7
    clear_value z7
    extract_lets +onlyGivenNames z8
    clear_value z8
    refine Keeps.ite (fun _ => ?_) (fun _ => ?_)
    · exact State.respond_keeps ..
    · refine Keeps.ite (fun _ => ?_) (fun _ => ?_)
      · exact State.respond_keeps ..
      · refine Keeps.ite (fun _ => ?_) (fun _ => ?_)
        · exact State.respond_keeps ..
        · refine Keeps.ite (fun _ => ?_) (fun _ => ?_)
          · exact State.respond_keeps ..
          · refine Keeps.ite (fun _ => ?_) (fun _ => ?_)
            · exact State.respond_keeps ..
            · extract_lets +onlyGivenNames z9
              refine Keeps.cut (b := z9) ?_ ?_
              · unfold z9
                exact State.setInst_keeps ..
              · intro hz9
                extract_lets +onlyGivenNames z10
                refine Keeps.cut (b := z10) ?_ ?_
                · unfold z10
                  exact (State.setReg_keeps ..).of ‹_›
                · intro hz10
                  extract_lets +onlyGivenNames z11
                  refine Keeps.cut (b := z11) ?_ ?_
                  · unfold z11
                    exact (State.respond_keeps ..).of ‹_›
                  · intro hz11
                    refine Keeps.ite (fun _ => ?_) (fun _ => ?_)
                    · exact (State.setSt_keeps ..).of ‹_›
                    · assumption

theorem execInstActivate_keeps (k : Nat) (s : State) : Kept s (execInstActivate k s) := by
  unfold execInstActivate
  refine Kept.next ?_
  refine Keeps.trans ?_ (State.onReq_keeps (h_f := ?_) ..)
  · exact Keeps.refl _
  · intro _
    intro _
    extract_lets +onlyGivenNames z1
    clear_value z1
    refine Keeps.ite (fun _ => ?_) (fun _ => ?_)
    · exact State.respond_keeps ..
    · refine Keeps.ite (fun _ => ?_) (fun _ => ?_)
      · exact State.respond_keeps ..
      · refine (State.setSt_keeps ..).of ?_
        exact State.respond_keeps ..

theorem execInstQuiesce_keeps (k : Nat) (s : State) : Kept s (execInstQuiesce k s) := by
  unfold execInstQuiesce
  refine Kept.next ?_
  refine Keeps.trans ?_ (State.onReq_keeps (h_f := ?_) ..)
  · exact Keeps.refl _
  · intro _
    intro _
    refine Keeps.ite (fun _ => ?_) (fun _ => ?_)
    · exact State.respond_keeps ..
    · extract_lets +onlyGivenNames z1
      clear_value z1
      extract_lets +onlyGivenNames z2
      clear_value z2
      extract_lets +onlyGivenNames z3
      clear_value z3
      extract_lets +onlyGivenNames z4
      clear_value z4
      refine Keeps.ite (fun _ => ?_) (fun _ => ?_)
      · extract_lets +onlyGivenNames z5
        clear_value z5
        exact State.respond_keeps ..
      · refine Keeps.foldl (fun _ _ => ?_) ?_
        · refine Keeps.ite (fun _ => ?_) (fun _ => ?_)
          · exact State.trigger_keeps ..
          · exact Keeps.refl _
        · exact State.respondPending_keeps ..

theorem State.resetRequest_keeps (s : State) (k : Nat) (r : Req) (remove : Bool) : Keeps s (State.resetRequest s k r remove) := by
  unfold State.resetRequest
  extract_lets +onlyGivenNames z1
  clear_value z1
  refine Keeps.ite (fun _ => ?_) (fun _ => ?_)
  · exact State.respond_keeps ..
  · refine Keeps.ite (fun _ => ?_) (fun _ => ?_)
    · exact State.respond_keeps ..
    · refine Keeps.ite (fun _ => ?_) (fun _ => ?_)
      · exact State.respond_keeps ..
      · refine (State.trigger_keeps ..).of ?_
        exact State.respondPending_keeps ..

theorem execInstReset_keeps (k : Nat) (s : State) : Kept s (execInstReset k s) := by
  unfold execInstReset
  refine Kept.next ?_
  refine Keeps.trans ?_ (State.onReq_keeps (h_f := ?_) ..)
  · exact Keeps.refl _
  · intro _
    intro _
    exact State.resetRequest_keeps ..

theorem execInstRemove_keeps (k : Nat) (s : State) : Kept s (execInstRemove k s) := by
  unfold execInstRemove
  refine Kept.next ?_
  refine Keeps.trans ?_ (State.onReq_keeps (h_f := ?_) ..)
  · exact Keeps.refl _
  · intro _
    intro _
    exact State.resetRequest_keeps ..

theorem execSlotAssign_keeps (k : Nat) (s : State) : Kept s (execSlotAssign k s) := by
  unfold execSlotAssign
  refine Kept.next ?_
  refine Keeps.trans ?_ (State.onReq_keeps (h_f := ?_) ..)
  · exact Keeps.refl _
  · intro _
    intro _
    extract_lets +onlyGivenNames z1
    clear_value z1
    extract_lets +onlyGivenNames z2
    clear_value z2
    extract_lets +onlyGivenNames z3
    clear_value z3
    extract_lets +onlyGivenNames z4
    clear_value z4
    refine Keeps.ite (fun _ => ?_) (fun _ => ?_)
    · exact State.respond_keeps ..
    · split
      · exact State.respond_keeps ..
      · refine Keeps.ite (fun _ => ?_) (fun _ => ?_)
        · extract_lets +onlyGivenNames z5
          refine Keeps.cut (b := z5) ?_ ?_
          · unfold z5
            refine Keeps.foldl (fun _ _ => ?_) ?_
            · extract_lets +onlyGivenNames z6
              extract_lets +onlyGivenNames z7
              refine Keeps.cut (b := z7) ?_ ?_
              · unfold z7
                exact State.setSlot_keeps ..
              · intro hz7
                refine Keeps.ite (fun _ => ?_) (fun _ => ?_)
                · exact (State.cause_keeps ..).of ‹_›
                · assumption
            · exact Keeps.refl _
          · intro hz5
            exact (State.respond_keeps ..).of ‹_›
        · extract_lets +onlyGivenNames z5
          clear_value z5
          extract_lets +onlyGivenNames z6
          clear_value z6
          extract_lets +onlyGivenNames z7
          refine Keeps.cut (b := z7) ?_ ?_
          · unfold z7
            refine Keeps.ite (fun _ => ?_) (fun _ => ?_)
            · exact State.setInst_keeps ..
            · exact Keeps.refl _
          · intro hz7
            extract_lets +onlyGivenNames z8
            refine Keeps.cut (b := z8) ?_ ?_
            · unfold z8
              refine Keeps.foldl (fun _ _ => ?_) ?_
              · extract_lets +onlyGivenNames z9
                extract_lets +onlyGivenNames z10
                refine Keeps.cut (b := z10) ?_ ?_
                · unfold z10
                  exact State.setSlot_keeps ..
                · intro hz10
                  refine Keeps.ite (fun _ => ?_) (fun _ => ?_)
                  · exact (State.cause_keeps ..).of ‹_›
                  · assumption
              · assumption
            · intro hz8
              exact (State.respond_keeps ..).of ‹_›

theorem execSlotScrubStart_keeps (n : Nat) (s : State) : Kept s (execSlotScrubStart n s) := by
  unfold execSlotScrubStart
  extract_lets +onlyGivenNames z1
  clear_value z1
  refine Kept.next ?_
  refine Keeps.ite (fun _ => ?_) (fun _ => ?_)
  · refine (State.setSlot_keeps ..).of ?_
    exact State.forget_keeps ..
  · exact Keeps.refl _

theorem execSlotScrubDone_keeps (n : Nat) (s : State) : Kept s (execSlotScrubDone n s) := by
  unfold execSlotScrubDone
  extract_lets +onlyGivenNames v
  refine Kept.next ?_
  refine Keeps.ite (fun _ => Keeps.refl _) (fun _ => ?_)
  extract_lets +onlyGivenNames z1 z2 z3
  have h1 : Keeps s z1 := by
    refine ⟨rfl, fun w => ?_, SecLe.refl _, Nat.le_refl _, id⟩
    rw [memory_wf_iff] at w ⊢
    refine ⟨tblFilter_rising _ _ 0 w.1, fun e he => ?_⟩
    obtain ⟨a, b⟩ := e
    obtain ⟨hm, hc⟩ := List.mem_filter.1 he
    refine (w.2 _ hm).imp id fun h => ?_
    have hn : a / 2 ^ 28 ≠ n := by simpa using hc
    have hf : tblFind (a / 2 ^ 28) z1.vague = tblFind (a / 2 ^ 28) s.vague := tblFind_filter_ne hn s.vague
    dsimp only [State.vagueAt] at h ⊢
    rw [hf]
    exact h
  have h2 : Keeps s z2 := h1.trans (State.setSlot_keeps ..)
  have h3 : Keeps s z3 := by
    unfold z3
    split
    · exact h2.trans (State.cause_keeps ..)
    · exact h2
  exact Keeps.ite (fun _ => h3.trans (State.cause_keeps ..)) (fun _ => h3)



theorem execCgrpDefine_keeps (k : Nat) (s : State) : Kept s (execCgrpDefine k s) := by
  unfold execCgrpDefine
  refine Kept.next ?_
  refine Keeps.trans ?_ (State.onReq_keeps (h_f := ?_) ..)
  · exact Keeps.refl _
  · intro _
    intro _
    extract_lets +onlyGivenNames z1
    clear_value z1
    extract_lets +onlyGivenNames z2
    clear_value z2
    refine Keeps.ite (fun _ => ?_) (fun _ => ?_)
    · exact State.respond_keeps ..
    · refine Keeps.ite (fun _ => ?_) (fun _ => ?_)
      · exact State.respond_keeps ..
      · refine Keeps.ite (fun _ => ?_) (fun _ => ?_)
        · exact State.respond_keeps ..
        · refine (State.respond_keeps ..).of ?_
          exact State.setReg_keeps ..

theorem execCgrpGrant_keeps (k : Nat) (s : State) : Kept s (execCgrpGrant k s) := by
  unfold execCgrpGrant
  refine Kept.next ?_
  refine Keeps.trans ?_ (State.onReq_keeps (h_f := ?_) ..)
  · exact Keeps.refl _
  · intro _
    intro _
    extract_lets +onlyGivenNames z1
    clear_value z1
    extract_lets +onlyGivenNames z2
    clear_value z2
    extract_lets +onlyGivenNames z3
    clear_value z3
    extract_lets +onlyGivenNames z4
    clear_value z4
    refine Keeps.ite (fun _ => ?_) (fun _ => ?_)
    · exact State.respond_keeps ..
    · refine Keeps.ite (fun _ => ?_) (fun _ => ?_)
      · exact State.respond_keeps ..
      · refine Keeps.ite (fun _ => ?_) (fun _ => ?_)
        · exact State.respond_keeps ..
        · refine (State.respond_keeps ..).of ?_
          exact State.setInst_keeps ..

theorem execHeadAssign_keeps (k : Nat) (s : State) : Kept s (execHeadAssign k s) := by
  unfold execHeadAssign
  refine Kept.next ?_
  refine Keeps.trans ?_ (State.onReq_keeps (h_f := ?_) ..)
  · exact Keeps.refl _
  · intro _
    intro _
    extract_lets +onlyGivenNames z1
    clear_value z1
    extract_lets +onlyGivenNames z2
    clear_value z2
    extract_lets +onlyGivenNames z3
    clear_value z3
    extract_lets +onlyGivenNames z4
    clear_value z4
    refine Keeps.ite (fun _ => ?_) (fun _ => ?_)
    · exact State.respond_keeps ..
    · refine Keeps.ite (fun _ => ?_) (fun _ => ?_)
      · exact State.respond_keeps ..
      · refine Keeps.ite (fun _ => ?_) (fun _ => ?_)
        · refine Keeps.ite (fun _ => ?_) (fun _ => ?_)
          · exact State.respond_keeps ..
          · refine (State.postEvent_keeps ..).of ?_
            refine (State.respond_keeps ..).of ?_
            exact State.setHead_keeps ..
        · refine Keeps.ite (fun _ => ?_) (fun _ => ?_)
          · exact State.respond_keeps ..
          · refine (State.releaseHead_keeps ..).of ?_
            exact State.respond_keeps ..

theorem State.setExpert_keeps (s : State) (a : Nat) (v : W) : Keeps s (State.setExpert s a v) := by
  unfold State.setExpert
  extract_lets +onlyGivenNames z1
  refine Keeps.cut (b := z1) ?_ ?_
  · unfold z1
    exact State.setReg_keeps ..
  · intro hz1
    exact Keeps.mk' ‹_› (.refl _) le_rfl

theorem execIsolationSet_keeps (k : Nat) (s : State) : Kept s (execIsolationSet k s) := by
  unfold execIsolationSet
  refine Kept.next ?_
  refine Keeps.trans ?_ (State.onReq_keeps (h_f := ?_) ..)
  · exact Keeps.refl _
  · intro _
    intro _
    extract_lets +onlyGivenNames z1
    clear_value z1
    extract_lets +onlyGivenNames z2
    clear_value z2
    extract_lets +onlyGivenNames z3
    clear_value z3
    refine Keeps.ite (fun _ => ?_) (fun _ => ?_)
    · exact State.respond_keeps ..
    · refine Keeps.ite (fun _ => ?_) (fun _ => ?_)
      · exact State.respond_keeps ..
      · refine (State.respond_keeps ..).of ?_
        refine (State.setExpert_keeps ..).of ?_
        refine Keeps.ite (fun _ => ?_) (fun _ => ?_)
        · exact State.holdEffect_keeps ..
        · exact Keeps.refl _

end Sys2Proof.Machine
end

