-- ==== Sys2Proof/Laws/KeepsMigration.lean ====
section
/-! SUPPORT. What the operations and commands of Machine/Migration.lean keep: one lemma for each. -/

set_option Elab.async false
namespace Sys2Proof.Machine

theorem State.onVf_keeps (s : State) (k : Nat) (op : Nat) (f : State → Req → State) (h_f : ∀ (x0 : State) (x1 : Req), Keeps x0 (f x0 x1)) : Keeps s (State.onVf s k op f) := by
  unfold State.onVf
  refine Keeps.trans ?_ (State.onReq_keeps (h_f := ?_) ..)
  · exact Keeps.refl _
  · intro _
    intro _
    refine Keeps.ite (fun _ => ?_) (fun _ => ?_)
    · exact State.respond_keeps ..
    · exact h_f _ _

theorem execDirtyLogStart_keeps (k : Nat) (fits : Bool) (s : State) : Kept s (execDirtyLogStart k fits s) := by
  unfold execDirtyLogStart
  refine Kept.next ?_
  refine Keeps.trans ?_ (State.onVf_keeps (h_f := ?_) ..)
  · exact Keeps.refl _
  · intro _
    intro _
    extract_lets +onlyGivenNames z1
    clear_value z1
    extract_lets +onlyGivenNames z2
    clear_value z2
    extract_lets +onlyGivenNames z3
    clear_value z3
    extract_lets +onlyGivenNames z4
    clear_value z4
    extract_lets +onlyGivenNames z5
    clear_value z5
    extract_lets +onlyGivenNames z6
    clear_value z6
    extract_lets +onlyGivenNames z7
    clear_value z7
    refine Keeps.ite (fun _ => ?_) (fun _ => ?_)
    · exact State.respond_keeps ..
    · refine Keeps.ite (fun _ => ?_) (fun _ => ?_)
      · exact State.respond_keeps ..
      · refine Keeps.ite (fun _ => ?_) (fun _ => ?_)
        · exact State.respond_keeps ..
        · split
          · exact State.respond_keeps ..
          · refine Keeps.ite (fun _ => ?_) (fun _ => ?_)
            · exact State.respond_keeps ..
            · extract_lets +onlyGivenNames z8
              clear_value z8
              extract_lets +onlyGivenNames z9
              refine Keeps.cut (b := z9) ?_ ?_
              · unfold z9
                exact State.setSession_keeps ..
              · intro hz9
                exact (State.respond_keeps ..).of ‹_›

theorem execDirtyHarvest_keeps (k : Nat) (s : State) : Kept s (execDirtyHarvest k s) := by
  unfold execDirtyHarvest
  refine Kept.next ?_
  refine Keeps.trans ?_ (State.onVf_keeps (h_f := ?_) ..)
  · exact Keeps.refl _
  · intro _
    intro _
    extract_lets +onlyGivenNames z1
    clear_value z1
    extract_lets +onlyGivenNames z2
    clear_value z2
    extract_lets +onlyGivenNames z3
    clear_value z3
    extract_lets +onlyGivenNames z4
    clear_value z4
    refine Keeps.ite (fun _ => ?_) (fun _ => ?_)
    · exact State.respond_keeps ..
    · split
      · exact State.respond_keeps ..
      · extract_lets +onlyGivenNames z5
        clear_value z5
        extract_lets +onlyGivenNames z6
        clear_value z6
        refine Keeps.ite (fun _ => ?_) (fun _ => ?_)
        · exact State.respond_keeps ..
        · extract_lets +onlyGivenNames z7
          clear_value z7
          extract_lets +onlyGivenNames z8
          clear_value z8
          extract_lets +onlyGivenNames z9
          clear_value z9
          extract_lets +onlyGivenNames z10
          refine Keeps.cut (b := z10) ?_ ?_
          · unfold z10
            exact State.setSession_keeps ..
          · intro hz10
            extract_lets +onlyGivenNames z11
            clear_value z11
            extract_lets +onlyGivenNames z12
            clear_value z12
            extract_lets +onlyGivenNames z13
            refine Keeps.cut (b := z13) ?_ ?_
            · unfold z13
              exact (State.respondPending_keeps ..).of ‹_›
            · intro hz13
              extract_lets +onlyGivenNames z14
              refine Keeps.cut (b := z14) ?_ ?_
              · unfold z14
                refine Keeps.ite (fun _ => ?_) (fun _ => ?_)
                · exact (State.hostWrite_keeps ..).of ‹_›
                · assumption
              · intro hz14
                refine Keeps.ite (fun _ => ?_) (fun _ => ?_)
                · exact (State.hostWrite_keeps ..).of ‹_›
                · assumption

theorem execDirtyHarvestDone_keeps (k : Nat) (s : State) : Kept s (execDirtyHarvestDone k s) := by
  unfold execDirtyHarvestDone
  refine Kept.next ?_
  split
  · refine Keeps.ite (fun _ => ?_) (fun _ => ?_)
    · extract_lets +onlyGivenNames z1
      refine Keeps.cut (b := z1) ?_ ?_
      · unfold z1
        split
        · exact State.setSession_keeps ..
        · exact Keeps.refl _
      · intro hz1
        exact (State.finishLong_keeps ..).of ‹_›
    · exact Keeps.refl _
  · exact Keeps.refl _

theorem execDirtyLogStop_keeps (k : Nat) (s : State) : Kept s (execDirtyLogStop k s) := by
  unfold execDirtyLogStop
  refine Kept.next ?_
  refine Keeps.trans ?_ (State.onVf_keeps (h_f := ?_) ..)
  · exact Keeps.refl _
  · intro _
    intro _
    refine Keeps.ite (fun _ => ?_) (fun _ => ?_)
    · exact State.respond_keeps ..
    · split
      · exact State.respond_keeps ..
      · refine (State.respond_keeps ..).of ?_
        exact State.setSession_keeps ..

theorem execShadowSize_keeps (k : Nat) (s : State) : Kept s (execShadowSize k s) := by
  unfold execShadowSize
  refine Kept.next ?_
  refine Keeps.trans ?_ (State.onVf_keeps (h_f := ?_) ..)
  · exact Keeps.refl _
  · intro _
    intro _
    refine Keeps.ite (fun _ => ?_) (fun _ => ?_)
    · exact State.respond_keeps ..
    · refine Keeps.ite (fun _ => ?_) (fun _ => ?_)
      · exact State.respond_keeps ..
      · exact State.respond_keeps ..

theorem State.shadowBytes_keeps (s : State) (t : Nat) (minor : Nat) (size : Nat) (lossy : Bool) : Keeps s (State.shadowBytes s t minor size lossy).1 := by
  unfold State.shadowBytes
  extract_lets +onlyGivenNames z1
  clear_value z1
  extract_lets +onlyGivenNames z2
  clear_value z2
  extract_lets +onlyGivenNames z3
  clear_value z3
  dsimp -zeta -zetaHave only
  extract_lets +onlyGivenNames z4
  clear_value z4
  refine Keeps.mk_fst ?_
  refine (State.drawBytes_keeps ..).of ?_
  exact State.drawBytes_keeps ..

theorem execShadowSave_keeps (k : Nat) (s : State) : Kept s (execShadowSave k s) := by
  unfold execShadowSave
  refine Kept.next ?_
  refine Keeps.trans ?_ (State.onVf_keeps (h_f := ?_) ..)
  · exact Keeps.refl _
  · intro _
    intro _
    extract_lets +onlyGivenNames z1
    clear_value z1
    extract_lets +onlyGivenNames z2
    clear_value z2
    extract_lets +onlyGivenNames z3
    clear_value z3
    refine Keeps.ite (fun _ => ?_) (fun _ => ?_)
    · exact State.respond_keeps ..
    · refine Keeps.ite (fun _ => ?_) (fun _ => ?_)
      · exact State.respond_keeps ..
      · refine Keeps.ite (fun _ => ?_) (fun _ => ?_)
        · exact State.respond_keeps ..
        · refine Keeps.ite (fun _ => ?_) (fun _ => ?_)
          · exact State.respond_keeps ..
          · split
            · exact State.respond_keeps ..
            · extract_lets +onlyGivenNames z4
              clear_value z4
              dsimp -zeta -zetaHave only
              extract_lets +onlyGivenNames z5
              clear_value z5
              extract_lets +onlyGivenNames z6
              clear_value z6
              extract_lets +onlyGivenNames z7
              refine Keeps.cut (b := z7) ?_ ?_
              · unfold z7
                refine (State.respondPending_keeps ..).of ?_
                exact State.shadowBytes_keeps ..
              · intro hz7
                refine (State.hostWrite_keeps ..).of ?_
                exact (State.setSt_keeps ..).of ‹_›

theorem execShadowSaveDone_keeps (k : Nat) (s : State) : Kept s (execShadowSaveDone k s) := by
  unfold execShadowSaveDone
  refine Kept.next ?_
  split
  · refine Keeps.ite (fun _ => ?_) (fun _ => ?_)
    · exact State.finishLong_keeps ..
    · exact Keeps.refl _
  · exact Keeps.refl _

theorem State.loadQueues_keeps (s : State) (t : Nat) (m : Shadow) (hw : List Nat) (res : Nat → Option Nat) : Keeps s (State.loadQueues s t m hw res) := by
  unfold State.loadQueues
  refine Keeps.foldl (fun _ _ => ?_) ?_
  · dsimp -zeta -zetaHave only
    exact State.setQueue_keeps ..
  · exact Keeps.refl _

theorem State.loadBlocks_keeps (s : State) (t : Nat) (minor : Nat) (l : List (Nat × List SyncObj)) (bs : List Nat) : Keeps s (State.loadBlocks s t minor l bs) := by
  unfold State.loadBlocks
  refine Keeps.foldl (fun _ _ => ?_) ?_
  · dsimp -zeta -zetaHave only
    extract_lets +onlyGivenNames z1
    clear_value z1
    extract_lets +onlyGivenNames z2
    refine Keeps.cut (b := z2) ?_ ?_
    · unfold z2
      exact Keeps.mk' (Keeps.refl _) (.refl _) le_rfl
    · intro hz2
      refine Keeps.foldl (fun _ _ => ?_) ?_
      · exact State.setObj_keeps ..
      · assumption
  · exact Keeps.refl _

theorem State.loadLaunches_keeps (s : State) (t : Nat) (m : Shadow) (hw : List Nat) (res : Nat → Option Nat) : Keeps s (State.loadLaunches s t m hw res) := by
  unfold State.loadLaunches
  extract_lets +onlyGivenNames z1
  clear_value z1
  extract_lets +onlyGivenNames z2
  clear_value z2
  extract_lets +onlyGivenNames z3
  refine Keeps.cut (b := z3) ?_ ?_
  · unfold z3
    exact Keeps.mk' (Keeps.refl _) (.refl _) le_rfl
  · intro hz3
    extract_lets +onlyGivenNames z4
    refine Keeps.cut (b := z4) ?_ ?_
    · unfold z4
      refine Keeps.foldl (fun _ _ => ?_) ?_
      · dsimp -zeta -zetaHave only
        exact State.setLaunch_keeps ..
      · assumption
    · intro hz4
      extract_lets +onlyGivenNames z5
      refine Keeps.cut (b := z5) ?_ ?_
      · unfold z5
        exact Keeps.mk' ‹_› (.refl _) le_rfl
      · intro hz5
        extract_lets +onlyGivenNames z6
        clear_value z6
        extract_lets +onlyGivenNames z7
        refine Keeps.cut (b := z7) ?_ ?_
        · unfold z7
          refine Keeps.foldl (fun _ _ => ?_) ?_
          · dsimp -zeta -zetaHave only
            exact State.setCtx_keeps ..
          · assumption
        · intro hz7
          extract_lets +onlyGivenNames z8
          clear_value z8
          exact Keeps.mk' ‹_› (.refl _) le_rfl

theorem State.putExpert_keeps (s : State) (base : Nat) (a : Nat) (v : W) : Keeps s (State.putExpert s base a v) := by
  unfold State.putExpert
  refine Keeps.ite (fun _ => ?_) (fun _ => ?_)
  · exact State.setExpert_keeps ..
  · exact Keeps.mk' (Keeps.refl _) (.refl _) le_rfl

theorem State.loadRegs_keeps (s : State) (t : Nat) (m : Shadow) : Keeps s (State.loadRegs s t m) := by
  unfold State.loadRegs
  extract_lets +onlyGivenNames z1
  refine Keeps.cut (b := z1) ?_ ?_
  · unfold z1
    refine (State.putExpert_keeps ..).of ?_
    exact State.setReg_keeps ..
  · intro hz1
    extract_lets +onlyGivenNames z2
    refine Keeps.cut (b := z2) ?_ ?_
    · unfold z2
      exact (State.setReg_keeps ..).of ‹_›
    · intro hz2
      extract_lets +onlyGivenNames z3
      refine Keeps.cut (b := z3) ?_ ?_
      · unfold z3
        refine Keeps.foldl (fun _ _ => ?_) ?_
        · dsimp -zeta -zetaHave only
          exact State.setReg_keeps ..
        · assumption
      · intro hz3
        extract_lets +onlyGivenNames z4
        refine Keeps.cut (b := z4) ?_ ?_
        · unfold z4
          refine Keeps.foldl (fun _ _ => ?_) ?_
          · dsimp -zeta -zetaHave only
            exact State.setReg_keeps ..
          · assumption
        · intro hz4
          extract_lets +onlyGivenNames z5
          clear_value z5
          extract_lets +onlyGivenNames z6
          refine Keeps.cut (b := z6) ?_ ?_
          · unfold z6
            exact Keeps.mk' ‹_› (.refl _) le_rfl
          · intro hz6
            refine Keeps.ite (fun _ => ?_) (fun _ => ?_)
            · refine (State.setReg_keeps ..).of ?_
              exact (State.setRings_keeps ..).of ‹_›
            · exact (State.setReg_keeps ..).of ‹_›

theorem State.loadShadow_keeps (s : State) (t : Nat) (m : Shadow) : Keeps s (State.loadShadow s t m).1 := by
  unfold State.loadShadow
  extract_lets +onlyGivenNames z1
  clear_value z1
  extract_lets +onlyGivenNames z2
  clear_value z2
  extract_lets +onlyGivenNames z3
  clear_value z3
  extract_lets +onlyGivenNames z4
  clear_value z4
  extract_lets +onlyGivenNames z5
  clear_value z5
  extract_lets +onlyGivenNames z6
  clear_value z6
  extract_lets +onlyGivenNames z7
  clear_value z7
  extract_lets +onlyGivenNames z8
  refine Keeps.cut (b := z8) ?_ ?_
  · unfold z8
    exact State.setInst_keeps ..
  · intro hz8
    extract_lets +onlyGivenNames z9
    clear_value z9
    extract_lets +onlyGivenNames z10
    refine Keeps.cut (b := z10) ?_ ?_
    · unfold z10
      refine Keeps.foldl (fun _ _ => ?_) ?_
      · dsimp -zeta -zetaHave only
        exact State.setResv_keeps ..
      · assumption
    · intro hz10
      extract_lets +onlyGivenNames z11
      refine Keeps.cut (b := z11) ?_ ?_
      · unfold z11
        exact Keeps.mk' ‹_› (.refl _) le_rfl
      · intro hz11
        extract_lets +onlyGivenNames z12
        refine Keeps.cut (b := z12) ?_ ?_
        · unfold z12
          refine (State.loadLaunches_keeps ..).of ?_
          refine (State.loadBlocks_keeps ..).of ?_
          exact (State.loadQueues_keeps ..).of ‹_›
        · intro hz12
          refine Keeps.mk_fst ?_
          refine (State.loadRegs_keeps ..).of ?_
          exact (State.dropTlb_keeps ..).of ‹_›

theorem execShadowRestore_keeps (k : Nat) (img : Option Shadow) (cause : Nat) (s : State) : Kept s (execShadowRestore k img cause s) := by
  unfold execShadowRestore
  refine Kept.next ?_
  refine Keeps.trans ?_ (State.onVf_keeps (h_f := ?_) ..)
  · exact Keeps.refl _
  · intro _
    intro _
    refine Keeps.ite (fun _ => ?_) (fun _ => ?_)
    · exact State.respond_keeps ..
    · split
      · exact State.respond_keeps ..
      · split
        · exact State.respond_keeps ..
        · exact State.respondPending_keeps ..

theorem execShadowRestoreDone_keeps (k : Nat) (s : State) : Kept s (execShadowRestoreDone k s) := by
  unfold execShadowRestoreDone
  refine Kept.next ?_
  split
  · split
    · extract_lets +onlyGivenNames z1
      clear_value z1
      split
      · exact State.finishLong_keeps ..
      · dsimp -zeta -zetaHave only
        extract_lets +onlyGivenNames z2
        clear_value z2
        extract_lets +onlyGivenNames z3
        refine Keeps.cut (b := z3) ?_ ?_
        · unfold z3
          refine (State.setRings_keeps ..).of ?_
          exact State.loadShadow_keeps ..
        · intro hz3
          refine (State.finishLong_keeps ..).of ?_
          exact (State.setSt_keeps ..).of ‹_›
    · exact Keeps.refl _
  · exact Keeps.refl _

end Sys2Proof.Machine
end

