-- ==== Sys2Proof/Laws/KeepsRequests.lean ====
section
/-! SUPPORT. What the operations and commands of Machine/Requests.lean keep: one lemma for each. -/

set_option Elab.async false
namespace Sys2Proof.Machine

theorem execQueueCreate_keeps (k : Nat) (want : Nat) (s : State) : Kept s (execQueueCreate k want s) := by
  unfold execQueueCreate
  refine Kept.next ?_
  refine Keeps.trans ?_ (State.onReq_keeps (h_f := ?_) ..)
  · exact Keeps.refl _
  · intro _
    intro _
    extract_lets +onlyGivenNames z1
    clear_value z1
    extract_lets +onlyGivenNames z2
    clear_value z2
    extract_lets +onlyGivenNames z3
    clear_value z3
    extract_lets +onlyGivenNames z4
    clear_value z4
    extract_lets +onlyGivenNames z5
    clear_value z5
    extract_lets +onlyGivenNames z6
    clear_value z6
    extract_lets +onlyGivenNames z7
    clear_value z7
    extract_lets +onlyGivenNames z8
    clear_value z8
    refine Keeps.ite (fun _ => ?_) (fun _ => ?_)
    · exact State.respond_keeps ..
    · refine Keeps.ite (fun _ => ?_) (fun _ => ?_)
      · exact State.respond_keeps ..
      · refine Keeps.ite (fun _ => ?_) (fun _ => ?_)
        · exact State.respond_keeps ..
        · refine Keeps.ite (fun _ => ?_) (fun _ => ?_)
          · exact State.respond_keeps ..
          · refine Keeps.ite (fun _ => ?_) (fun _ => ?_)
            · exact State.respond_keeps ..
            · refine Keeps.ite (fun _ => ?_) (fun _ => ?_)
              · exact State.respond_keeps ..
              · refine Keeps.ite (fun _ => ?_) (fun _ => ?_)
                · exact State.respond_keeps ..
                · split
                  · exact State.respond_keeps ..
                  · extract_lets +onlyGivenNames z9
                    clear_value z9
                    extract_lets +onlyGivenNames z10
                    clear_value z10
                    extract_lets +onlyGivenNames z11
                    refine Keeps.cut (b := z11) ?_ ?_
                    · unfold z11
                      exact State.setQueue_keeps ..
                    · intro hz11
                      exact (State.respond_keeps ..).of ‹_›

theorem State.dropFetched_keeps (s : State) (h : Nat) : Keeps s (State.dropFetched s h) := by
  unfold State.dropFetched
  extract_lets +onlyGivenNames z1
  refine Keeps.cut (b := z1) ?_ ?_
  · unfold z1
    split
    · exact State.withdraw_keeps ..
    · exact Keeps.refl _
  · intro hz1
    extract_lets +onlyGivenNames z2
    refine Keeps.cut (b := z2) ?_ ?_
    · unfold z2
      exact (State.dropCmds_keeps ..).of ‹_›
    · intro hz2
      extract_lets +onlyGivenNames z3
      clear_value z3
      extract_lets +onlyGivenNames z4
      refine Keeps.cut (b := z4) ?_ ?_
      · unfold z4
        exact (State.setQueue_keeps ..).of ‹_›
      · intro hz4
        exact Keeps.mk' ‹_› (.refl _) le_rfl

theorem State.ackQueue_keeps (s : State) (h : Nat) : Keeps s (State.ackQueue s h) := by
  unfold State.ackQueue
  exact State.ackWhere_keeps ..

theorem execQueueDestroy_keeps (k : Nat) (s : State) : Kept s (execQueueDestroy k s) := by
  unfold execQueueDestroy
  refine Kept.next ?_
  refine Keeps.trans ?_ (State.onReq_keeps (h_f := ?_) ..)
  · exact Keeps.refl _
  · intro _
    intro _
    refine Keeps.ite (fun _ => ?_) (fun _ => ?_)
    · exact State.respond_keeps ..
    · split
      · exact State.respond_keeps ..
      · extract_lets +onlyGivenNames z1
        clear_value z1
        refine Keeps.ite (fun _ => ?_) (fun _ => ?_)
        · exact State.respond_keeps ..
        · refine Keeps.ite (fun _ => ?_) (fun _ => ?_)
          · exact State.respond_keeps ..
          · extract_lets +onlyGivenNames z2
            refine Keeps.cut (b := z2) ?_ ?_
            · unfold z2
              split
              · extract_lets +onlyGivenNames z3
                clear_value z3
                exact State.setResv_keeps ..
              · exact Keeps.refl _
            · intro hz2
              extract_lets +onlyGivenNames z3
              refine Keeps.cut (b := z3) ?_ ?_
              · unfold z3
                refine (State.setQueue_keeps ..).of ?_
                exact (State.dropFetched_keeps ..).of ‹_›
              · intro hz3
                extract_lets +onlyGivenNames z4
                refine Keeps.cut (b := z4) ?_ ?_
                · unfold z4
                  exact Keeps.mk' ‹_› (.refl _) le_rfl
                · intro hz4
                  refine (State.respond_keeps ..).of ?_
                  exact (State.ackQueue_keeps ..).of ‹_›

theorem State.restart_keeps (s : State) (h mode : Nat) (t : State) (ht : State.restart s h mode = some t) : Keeps s t := by
  have hc : ∀ q, Keeps s ((s.dropFetched h).setQueue h q) := fun q =>
    (State.dropFetched_keeps s h).trans (State.setQueue_keeps ..)
  unfold State.restart at ht
  dsimp only at ht
  split at ht
  · cases ht; exact State.setQueue_keeps ..
  · cases ht; exact hc _
  · cases ht; exact hc _
  · cases ht; exact hc _
  · cases ht; exact hc _
  · cases ht; exact hc _
  · cases ht; exact hc _
  · cases ht; exact hc _
  · cases ht


theorem execQueueRestart_keeps (k : Nat) (s : State) : Kept s (execQueueRestart k s) := by
  unfold execQueueRestart
  refine Kept.next ?_
  refine Keeps.trans ?_ (State.onReq_keeps (h_f := ?_) ..)
  · exact Keeps.refl _
  · intro _
    intro _
    refine Keeps.ite (fun _ => ?_) (fun _ => ?_)
    · exact State.respond_keeps ..
    · split
      · exact State.respond_keeps ..
      · split
        · exact State.respond_keeps ..
        · extract_lets +onlyGivenNames z1
          clear_value z1
          refine (State.kick_keeps ..).of ?_
          refine (State.fetch_keeps ..).of ?_
          refine (State.respond_keeps ..).of ?_
          refine (State.ackQueue_keeps ..).of ?_
          exact State.restart_keeps (ht := by assumption) ..

theorem execQueueModify_keeps (k : Nat) (s : State) : Kept s (execQueueModify k s) := by
  unfold execQueueModify
  refine Kept.next ?_
  refine Keeps.trans ?_ (State.onReq_keeps (h_f := ?_) ..)
  · exact Keeps.refl _
  · intro _
    intro _
    extract_lets +onlyGivenNames z1
    clear_value z1
    extract_lets +onlyGivenNames z2
    clear_value z2
    refine Keeps.ite (fun _ => ?_) (fun _ => ?_)
    · exact State.respond_keeps ..
    · split
      · exact State.respond_keeps ..
      · extract_lets +onlyGivenNames z3
        clear_value z3
        refine Keeps.ite (fun _ => ?_) (fun _ => ?_)
        · exact State.respond_keeps ..
        · refine Keeps.ite (fun _ => ?_) (fun _ => ?_)
          · exact State.respond_keeps ..
          · refine Keeps.ite (fun _ => ?_) (fun _ => ?_)
            · exact State.respond_keeps ..
            · refine (State.respond_keeps ..).of ?_
              exact State.setQueue_keeps ..

theorem State.doorbellDrop_keeps (s : State) (k : Nat) (loc : Nat) : Keeps s (State.doorbellDrop s k loc) := by
  unfold State.doorbellDrop
  refine (State.cause_keeps ..).of ?_
  refine (State.capture31_keeps ..).of ?_
  exact State.count_keeps ..

theorem State.doorbell_keeps (s : State) (k : Nat) (loc : Nat) (new : W) : Keeps s (State.doorbell s k loc new) := by
  unfold State.doorbell
  extract_lets +onlyGivenNames z1
  clear_value z1
  refine Keeps.ite (fun _ => ?_) (fun _ => ?_)
  · exact Keeps.refl _
  · split
    · exact State.doorbellDrop_keeps ..
    · extract_lets +onlyGivenNames z2
      clear_value z2
      extract_lets +onlyGivenNames z3
      clear_value z3
      refine Keeps.ite (fun _ => ?_) (fun _ => ?_)
      · refine (State.fetch_keeps ..).of ?_
        refine (State.setQueue_keeps ..).of ?_
        exact State.count_keeps ..
      · refine Keeps.ite (fun _ => ?_) (fun _ => ?_)
        · exact State.doorbellDrop_keeps ..
        · exact State.queueFault_keeps ..

theorem execSyncBlockAlloc_keeps (k : Nat) (want : Nat) (s : State) : Kept s (execSyncBlockAlloc k want s) := by
  unfold execSyncBlockAlloc
  refine Kept.next ?_
  refine Keeps.trans ?_ (State.onReq_keeps (h_f := ?_) ..)
  · exact Keeps.refl _
  · intro _
    intro _
    extract_lets +onlyGivenNames z1
    clear_value z1
    extract_lets +onlyGivenNames z2
    clear_value z2
    extract_lets +onlyGivenNames z3
    clear_value z3
    extract_lets +onlyGivenNames z4
    clear_value z4
    refine Keeps.ite (fun _ => ?_) (fun _ => ?_)
    · exact State.respond_keeps ..
    · refine Keeps.ite (fun _ => ?_) (fun _ => ?_)
      · exact State.respond_keeps ..
      · refine Keeps.ite (fun _ => ?_) (fun _ => ?_)
        · exact State.respond_keeps ..
        · refine Keeps.ite (fun _ => ?_) (fun _ => ?_)
          · exact State.respond_keeps ..
          · cases (pickFree 256 (if z3 = 65535 then 256 else z3) fun x => if z3 = 65535 then z4 x else x != z3)
            · dsimp -zeta -zetaHave only
              exact State.respond_keeps ..
            · split
              · refine (State.respond_keeps ..).of ?_
                exact Keeps.mk' (Keeps.refl _) (.refl _) le_rfl
              · exact State.respond_keeps ..

theorem execSyncBlockFree_keeps (k : Nat) (s : State) : Kept s (execSyncBlockFree k s) := by
  unfold execSyncBlockFree
  refine Kept.next ?_
  refine Keeps.trans ?_ (State.onReq_keeps (h_f := ?_) ..)
  · exact Keeps.refl _
  · intro _
    intro _
    refine Keeps.ite (fun _ => ?_) (fun _ => ?_)
    · exact State.respond_keeps ..
    · split
      · exact State.respond_keeps ..
      · refine Keeps.ite (fun _ => ?_) (fun _ => ?_)
        · exact State.respond_keeps ..
        · refine (State.respond_keeps ..).of ?_
          exact Keeps.mk' (Keeps.refl _) (.refl _) le_rfl

theorem State.forceObj_keeps (s : State) (i : Nat) (act : Nat) (v : Nat) : Keeps s (State.forceObj s i act v).1 := by
  unfold State.forceObj
  extract_lets +onlyGivenNames z1
  clear_value z1
  extract_lets +onlyGivenNames z2
  clear_value z2
  refine Keeps.ite_fst (fun _ => ?_) (fun _ => ?_)
  · refine (State.releaseBarrier_keeps ..).of ?_
    exact State.setObj_keeps ..
  · refine (State.evaluate_keeps ..).of ?_
    exact State.setObj_keeps ..

theorem execSyncForce_keeps (k : Nat) (s : State) : Kept s (execSyncForce k s) := by
  unfold execSyncForce
  refine Kept.next ?_
  refine Keeps.trans ?_ (State.onReq_keeps (h_f := ?_) ..)
  · exact Keeps.refl _
  · intro _
    intro _
    extract_lets +onlyGivenNames z1
    clear_value z1
    extract_lets +onlyGivenNames z2
    clear_value z2
    extract_lets +onlyGivenNames z3
    clear_value z3
    extract_lets +onlyGivenNames z4
    clear_value z4
    refine Keeps.ite (fun _ => ?_) (fun _ => ?_)
    · exact State.respond_keeps ..
    · refine Keeps.ite (fun _ => ?_) (fun _ => ?_)
      · exact State.respond_keeps ..
      · split
        · exact State.respond_keeps ..
        · extract_lets +onlyGivenNames z5
          clear_value z5
          extract_lets +onlyGivenNames z6
          clear_value z6
          refine Keeps.ite (fun _ => ?_) (fun _ => ?_)
          · exact State.respond_keeps ..
          · dsimp -zeta -zetaHave only
            extract_lets +onlyGivenNames z7
            refine Keeps.cut (b := z7) ?_ ?_
            · unfold z7
              refine (State.cause_keeps ..).of ?_
              refine (State.syncEvent_keeps ..).of ?_
              refine (State.count_keeps ..).of ?_
              exact State.forceObj_keeps ..
            · intro hz7
              extract_lets +onlyGivenNames z8
              refine Keeps.cut (b := z8) ?_ ?_
              · unfold z8
                refine (State.raise_keeps ..).of ?_
                exact (State.logRec_keeps ..).of ‹_›
              · intro hz8
                exact (State.respond_keeps ..).of ‹_›

theorem State.svOp_keeps (s : State) (k : Nat) (word : W64) (ag : Agent) : Keeps s (State.svOp s k word ag) := by
  unfold State.svOp
  extract_lets +onlyGivenNames z1
  clear_value z1
  extract_lets +onlyGivenNames z2
  clear_value z2
  extract_lets +onlyGivenNames z3
  clear_value z3
  refine Keeps.ite (fun _ => ?_) (fun _ => ?_)
  · exact Keeps.refl _
  · refine Keeps.ite (fun _ => ?_) (fun _ => ?_)
    · exact State.rsvdValue_keeps ..
    · exact State.sendOp_keeps ..

theorem execAspaceSet_keeps (k : Nat) (s : State) : Kept s (execAspaceSet k s) := by
  unfold execAspaceSet
  refine Kept.next ?_
  refine Keeps.trans ?_ (State.onReq_keeps (h_f := ?_) ..)
  · exact Keeps.refl _
  · intro _
    intro _
    extract_lets +onlyGivenNames z1
    clear_value z1
    extract_lets +onlyGivenNames z2
    clear_value z2
    extract_lets +onlyGivenNames z3
    clear_value z3
    refine Keeps.ite (fun _ => ?_) (fun _ => ?_)
    · exact State.respond_keeps ..
    · refine Keeps.ite (fun _ => ?_) (fun _ => ?_)
      · exact State.respond_keeps ..
      · refine Keeps.ite (fun _ => ?_) (fun _ => ?_)
        · exact State.respond_keeps ..
        · refine (State.respond_keeps ..).of ?_
          refine (State.dropTlb_keeps ..).of ?_
          exact State.setInst_keeps ..

theorem State.acceptBeacon_keeps (s : State) (b : Nat) (c : BcnCfg) : Keeps s (State.acceptBeacon s b c) := by
  unfold State.acceptBeacon
  extract_lets +onlyGivenNames z1
  clear_value z1
  refine Keeps.ite (fun _ => ?_) (fun _ => ?_)
  · exact State.setBeacon_keeps ..
  · refine Keeps.ite (fun _ => ?_) (fun _ => ?_)
    · exact Keeps.refl _
    · refine (State.latchRange_keeps ..).of ?_
      exact State.setBeacon_keeps ..

theorem execBeaconConfig_keeps (k : Nat) (s : State) : Kept s (execBeaconConfig k s) := by
  unfold execBeaconConfig
  refine Kept.next ?_
  refine Keeps.trans ?_ (State.onReq_keeps (h_f := ?_) ..)
  · exact Keeps.refl _
  · intro _
    intro _
    extract_lets +onlyGivenNames z1
    clear_value z1
    extract_lets +onlyGivenNames z2
    clear_value z2
    extract_lets +onlyGivenNames z3
    clear_value z3
    extract_lets +onlyGivenNames z4
    extract_lets +onlyGivenNames z5
    clear_value z5
    extract_lets +onlyGivenNames z6
    clear_value z6
    extract_lets +onlyGivenNames z7
    clear_value z7
    refine Keeps.ite (fun _ => ?_) (fun _ => ?_)
    · exact State.respond_keeps ..
    · refine Keeps.ite (fun _ => ?_) (fun _ => ?_)
      · exact State.respond_keeps ..
      · extract_lets +onlyGivenNames z8
        clear_value z8
        refine Keeps.ite (fun _ => ?_) (fun _ => ?_)
        · exact State.respond_keeps ..
        · refine Keeps.ite (fun _ => ?_) (fun _ => ?_)
          · exact State.respond_keeps ..
          · refine Keeps.ite (fun _ => ?_) (fun _ => ?_)
            · exact State.respond_keeps ..
            · refine (State.respond_keeps ..).of ?_
              exact State.acceptBeacon_keeps ..

theorem execReserve_keeps (k : Nat) (want : Nat) (s : State) : Kept s (execReserve k want s) := by
  unfold execReserve
  refine Kept.next ?_
  refine Keeps.trans ?_ (State.onReq_keeps (h_f := ?_) ..)
  · exact Keeps.refl _
  · intro _
    intro _
    extract_lets +onlyGivenNames z1
    clear_value z1
    extract_lets +onlyGivenNames z2
    clear_value z2
    extract_lets +onlyGivenNames z3
    clear_value z3
    extract_lets +onlyGivenNames z4
    clear_value z4
    extract_lets +onlyGivenNames z5
    clear_value z5
    extract_lets +onlyGivenNames z6
    clear_value z6
    extract_lets +onlyGivenNames z7
    clear_value z7
    extract_lets +onlyGivenNames z8
    clear_value z8
    extract_lets +onlyGivenNames z9
    clear_value z9
    refine Keeps.ite (fun _ => ?_) (fun _ => ?_)
    · exact State.respond_keeps ..
    · refine Keeps.ite (fun _ => ?_) (fun _ => ?_)
      · exact State.respond_keeps ..
      · refine Keeps.ite (fun _ => ?_) (fun _ => ?_)
        · exact State.respond_keeps ..
        · refine Keeps.ite (fun _ => ?_) (fun _ => ?_)
          · exact State.respond_keeps ..
          · split
            · exact State.respond_keeps ..
            · refine Keeps.ite (fun _ => ?_) (fun _ => ?_)
              · exact State.respond_keeps ..
              · refine Keeps.ite (fun _ => ?_) (fun _ => ?_)
                · exact State.respond_keeps ..
                · refine Keeps.ite (fun _ => ?_) (fun _ => ?_)
                  · exact State.respond_keeps ..
                  · refine Keeps.ite (fun _ => ?_) (fun _ => ?_)
                    · exact State.respond_keeps ..
                    · split
                      · exact State.respond_keeps ..
                      · extract_lets +onlyGivenNames z10
                        refine Keeps.cut (b := z10) ?_ ?_
                        · unfold z10
                          refine Keeps.foldl (fun _ _ => ?_) ?_
                          · exact State.setQueue_keeps ..
                          · exact State.setResv_keeps ..
                        · intro hz10
                          exact (State.respond_keeps ..).of ‹_›

theorem execReserveRelease_keeps (k : Nat) (s : State) : Kept s (execReserveRelease k s) := by
  unfold execReserveRelease
  refine Kept.next ?_
  refine Keeps.trans ?_ (State.onReq_keeps (h_f := ?_) ..)
  · exact Keeps.refl _
  · intro _
    intro _
    extract_lets +onlyGivenNames z1
    clear_value z1
    extract_lets +onlyGivenNames z2
    clear_value z2
    refine Keeps.ite (fun _ => ?_) (fun _ => ?_)
    · exact State.respond_keeps ..
    · refine Keeps.ite (fun _ => ?_) (fun _ => ?_)
      · exact State.respond_keeps ..
      · extract_lets +onlyGivenNames z3
        refine Keeps.cut (b := z3) ?_ ?_
        · unfold z3
          refine Keeps.ite (fun _ => ?_) (fun _ => ?_)
          · exact State.resvChanged_keeps ..
          · exact Keeps.refl _
        · intro hz3
          refine (State.respond_keeps ..).of ?_
          exact (State.freeResv_keeps ..).of ‹_›

theorem execReceiptStart_keeps (k : Nat) (s : State) : Kept s (execReceiptStart k s) := by
  unfold execReceiptStart
  refine Kept.next ?_
  refine Keeps.trans ?_ (State.onReq_keeps (h_f := ?_) ..)
  · exact Keeps.refl _
  · intro _
    intro _
    extract_lets +onlyGivenNames z1
    clear_value z1
    extract_lets +onlyGivenNames z2
    clear_value z2
    extract_lets +onlyGivenNames z3
    clear_value z3
    extract_lets +onlyGivenNames z4
    clear_value z4
    extract_lets +onlyGivenNames z5
    clear_value z5
    refine Keeps.ite (fun _ => ?_) (fun _ => ?_)
    · exact State.respond_keeps ..
    · refine Keeps.ite (fun _ => ?_) (fun _ => ?_)
      · exact State.respond_keeps ..
      · refine Keeps.ite (fun _ => ?_) (fun _ => ?_)
        · exact State.respond_keeps ..
        · dsimp -zeta -zetaHave only
          refine Keeps.ite (fun _ => ?_) (fun _ => ?_)
          · refine (State.respond_keeps ..).of ?_
            exact State.segs_keeps ..
          · refine Keeps.ite (fun _ => ?_) (fun _ => ?_)
            · refine (State.respond_keeps ..).of ?_
              exact State.segs_keeps ..
            · extract_lets +onlyGivenNames z6
              clear_value z6
              refine (State.respond_keeps ..).of ?_
              refine (State.setHead_keeps ..).of ?_
              exact State.segs_keeps ..

theorem execReceiptStop_keeps (k : Nat) (s : State) : Kept s (execReceiptStop k s) := by
  unfold execReceiptStop
  refine Kept.next ?_
  refine Keeps.trans ?_ (State.onReq_keeps (h_f := ?_) ..)
  · exact Keeps.refl _
  · intro _
    intro _
    extract_lets +onlyGivenNames z1
    clear_value z1
    refine Keeps.ite (fun _ => ?_) (fun _ => ?_)
    · exact State.respond_keeps ..
    · refine Keeps.ite (fun _ => ?_) (fun _ => ?_)
      · exact State.respond_keeps ..
      · extract_lets +onlyGivenNames z2
        clear_value z2
        refine (State.respond_keeps ..).of ?_
        exact State.setHead_keeps ..

end Sys2Proof.Machine
end

