-- ==== Sys2Proof/Laws/KeepsResets.lean ====
section
/-! SUPPORT. What the operations and commands of Machine/Resets.lean keep: one lemma for each. -/

set_option Elab.async false
namespace Sys2Proof.Machine

theorem State.setFw_keeps (s : State) (st : FwSt) : Keeps s (State.setFw s st) := by
  unfold State.setFw
  refine Keeps.ite (fun _ => ?_) (fun _ => ?_)
  · exact Keeps.refl _
  · refine (State.cause_keeps ..).of ?_
    exact Keeps.mk' (Keeps.refl _) (.refl _) le_rfl

theorem State.abandonFw_keeps (s : State) : Keeps s (State.abandonFw s) := by
  unfold State.abandonFw
  extract_lets +onlyGivenNames z1
  clear_value z1
  refine (State.setFw_keeps ..).of ?_
  exact Keeps.mk' (Keeps.refl _) (.refl _) le_rfl

theorem State.cutAll_keeps (s : State) : Keeps s (State.cutAll s) := by
  unfold State.cutAll
  refine Keeps.foldl (fun _ _ => ?_) ?_
  · exact State.moverCut_keeps ..
  · exact Keeps.refl _

theorem State.extend_keeps (s : State) (i : Nat) (content : List Byte) : Keeps s (State.extend s i content) := by
  unfold State.extend
  extract_lets +onlyGivenNames z1
  clear_value z1
  exact Keeps.mk' (Keeps.refl _) (.same rfl rfl) le_rfl

theorem State.cutFuses_keeps (s : State) : Keeps s (State.cutFuses s) := by
  unfold State.cutFuses
  extract_lets n
  split
  · refine Keeps.ite (fun _ => Keeps.refl _) (fun _ => ?_)
    refine Keeps.ite (fun _ => ?_) (fun _ => ?_)
    · extract_lets h
      exact Keeps.mk' (State.bumpFree_keeps s) (.same rfl rfl) le_rfl
    · refine Keeps.ite (fun _ => ?_) (fun _ => Keeps.refl _)
      exact Keeps.mk' (State.bumpFree_keeps s) ⟨Nat.le_add_right _ _, by simp only [State.bumpFree, ← Nat.or_assoc, Nat.or_self]⟩ (Nat.le_refl _)
  · exact Keeps.refl _


theorem State.cutFlash_keeps (s : State) (slotB : Bool) : Keeps s (State.cutFlash s slotB) := by
  unfold State.cutFlash
  refine Keeps.ite (fun _ => ?_) (fun _ => ?_)
  · exact Keeps.refl _
  · split
    · extract_lets +onlyGivenNames z1
      clear_value z1
      extract_lets +onlyGivenNames z2
      clear_value z2
      extract_lets +onlyGivenNames z3
      refine Keeps.cut (b := z3) ?_ ?_
      · unfold z3
        refine (State.bumpFree_keeps ..).of ?_
        exact State.bumpFree_keeps ..
      · intro hz3
        exact Keeps.mk' ‹_› (.same rfl rfl) le_rfl
    · exact Keeps.refl _

theorem State.cutStores_keeps (s : State) : Keeps s (State.cutStores s) := by
  unfold State.cutStores
  refine (State.cutFlash_keeps ..).of ?_
  exact State.cutFuses_keeps ..

theorem State.cutStores_safe (s : State) : (State.cutStores s).pw.safe = s.pw.safe := by
  have h1 : ∀ x : State, (State.cutFuses x).pw.safe = x.pw.safe := by
    intro x; unfold State.cutFuses; dsimp only; split
    · split
      · rfl
      · split
        · rfl
        · split <;> rfl
    · rfl
  have h2 : ∀ (x : State) (b : Bool), (State.cutFlash x b).pw.safe = x.pw.safe := by
    intro x b; unfold State.cutFlash; split
    · rfl
    · split <;> rfl
  unfold State.cutStores
  rw [h2, h1]

/-- A cold reset keeps what every operation keeps, but for the safe state, which it leaves (R119). -/
theorem State.cold_keeps (s : State) (rails : Bool) : Keeps { s with pw := { s.pw with safe := false } } (State.cold s rails) := by
  have h := State.cutStores_keeps s
  unfold State.cold
  exact ⟨h.pend, fun _ => rfl, h.sec.trans (.same rfl rfl), h.free, fun w => nomatch w⟩

theorem State.warm_keeps (s : State) (hs : s.pw.safe = false) : Keeps s (State.warm s) := by
  unfold State.warm
  exact Keeps.fresh (State.cutStores_keeps s) rfl rfl (.same rfl rfl) le_rfl
    (fun w => absurd ((State.cutStores_safe s).symm.trans w) (by rw [hs]; exact Bool.false_ne_true))

theorem execColdPowerUp_keeps (inOrder : Bool) (crack : W) (s : State) :
    Kept { s with pw := { s.pw with safe := false } } (execColdPowerUp inOrder crack s) := by
  unfold execColdPowerUp
  refine Kept.ite (fun _ => ?_) (fun _ => ?_)
  · exact Kept.next (Keeps.mk' (State.cold_keeps s true) (.refl _) le_rfl)
  · exact Kept.fault _ _

theorem execVddAonLoss_keeps (s : State) : Kept { s with pw := { s.pw with safe := false } } (execVddAonLoss s) :=
  Kept.next (State.cold_keeps s false)

theorem execInputPowerLoss_keeps (s : State) : Kept { s with pw := { s.pw with safe := false } } (execInputPowerLoss s) :=
  Kept.next (State.cold_keeps s false)

theorem State.linkReset_keeps (s : State) : Keeps s (State.linkReset s) := by
  unfold State.linkReset
  exact (State.resetRange_keeps ..).of (Keeps.mk' (Keeps.refl s) (.refl _) le_rfl)

theorem execPerstNAsserted_keeps (us : Nat) (s : State) : Kept s (execPerstNAsserted us s) := by
  unfold execPerstNAsserted
  refine Kept.next ?_
  extract_lets +onlyGivenNames z1
  refine Keeps.ite (fun _ => ?_) (fun _ => ?_)
  · exact Keeps.refl _
  · refine Keeps.ite (fun _ => ?_) (fun _ => ?_)
    · unfold z1
      refine Keeps.ite (fun _ => ?_) (fun h => ?_)
      · exact State.linkReset_keeps ..
      · exact State.warm_keeps _ (Bool.eq_false_iff.mpr h)
    · refine Keeps.ite (fun _ => ?_) (fun _ => ?_)
      · unfold z1
        refine Keeps.ite (fun _ => ?_) (fun h => ?_)
        · refine (State.linkReset_keeps ..).of ?_
          exact State.bumpFree_keeps ..
        · refine (State.warm_keeps _ (Bool.eq_false_iff.mpr h)).of ?_
          exact State.bumpFree_keeps ..
      · exact State.bumpFree_keeps ..

theorem State.bootFail_keeps (s : State) (cause : Nat) : Keeps s (State.bootFail s cause) := by
  unfold State.bootFail
  exact Keeps.mk' (Keeps.refl _) (.refl _) le_rfl

theorem execPerstNDeasserted_keeps (holdMet : Bool) (fusesOk : Bool) (board : List Byte) (s : State) : Kept s (execPerstNDeasserted holdMet fusesOk board s) := by
  unfold execPerstNDeasserted
  refine Kept.ite (fun _ => ?_) (fun _ => ?_)
  · refine Kept.next ?_
    exact Keeps.refl _
  · refine Kept.ite (fun _ => ?_) (fun _ => ?_)
    · refine Kept.next ?_
      exact Keeps.mk' (Keeps.refl _) (.refl _) le_rfl
    · refine Kept.ite (fun _ => ?_) (fun _ => ?_)
      · exact Kept.fault _ _
      · extract_lets +onlyGivenNames z1
        extract_lets +onlyGivenNames z2
        extract_lets +onlyGivenNames z3
        suffices hz3 : Keeps s z3 from ?_
        · extract_lets +onlyGivenNames z4
          suffices hz4 : Keeps s z4 from ?_
          · refine Kept.next ?_
            refine Keeps.ite (fun _ => ?_) (fun _ => ?_)
            · assumption
            · exact (State.bootFail_keeps ..).of ‹_›
          · unfold z4
            refine (State.extend_keeps ..).of ?_
            exact (State.extend_keeps ..).of ‹_›
        · unfold z3
          exact Keeps.mk' (Keeps.refl _) (.same rfl rfl) le_rfl

theorem execRootPllLock_keeps (s : State) : Kept s (execRootPllLock s) := by
  unfold execRootPllLock
  refine Kept.next ?_
  refine Keeps.ite (fun _ => ?_) (fun _ => ?_)
  · exact Keeps.refl _
  · exact Keeps.mk' (Keeps.refl _) (.refl _) le_rfl

theorem State.deriveKey_keeps (s : State) : Keeps s (State.deriveKey s) := by
  unfold State.deriveKey
  refine Keeps.ite (fun _ => ?_) (fun _ => ?_)
  · exact Keeps.mk' (Keeps.refl _) (.same rfl rfl) le_rfl
  · exact Keeps.refl _

theorem State.setRng_keeps (s : State) (st : Nat) : Keeps s (State.setRng s st) := by
  unfold State.setRng
  refine Keeps.ite (fun _ => ?_) (fun _ => ?_)
  · exact Keeps.refl _
  · refine (State.cause_keeps ..).of ?_
    exact Keeps.mk' (Keeps.refl _) (.same rfl rfl) le_rfl

theorem execTrngReady_keeps (s : State) : Kept s (execTrngReady s) := by
  unfold execTrngReady
  refine Kept.next ?_
  refine Keeps.ite (fun _ => ?_) (fun _ => ?_)
  · exact Keeps.refl _
  · refine (State.deriveKey_keeps ..).of ?_
    refine (State.setRng_keeps ..).of ?_
    exact Keeps.mk' (Keeps.refl _) (.same rfl rfl) le_rfl

theorem execConfigReady_keeps (s : State) : Kept s (execConfigReady s) := by
  unfold execConfigReady
  refine Kept.next ?_
  refine Keeps.ite (fun _ => ?_) (fun _ => ?_)
  · exact Keeps.refl _
  · exact Keeps.mk' (Keeps.refl _) (.refl _) le_rfl

theorem execHbmTrained_keeps (okStacks : Nat) (s : State) : Kept s (execHbmTrained okStacks s) := by
  unfold execHbmTrained
  refine Kept.next ?_
  refine Keeps.ite (fun _ => Keeps.refl _) (fun _ => ?_)
  refine Keeps.ite (fun _ => ?_) (fun _ => ?_)
  · exact Keeps.fresh (Keeps.refl s) rfl rfl (.refl _) le_rfl id
  · exact (Keeps.mk' (Keeps.refl s) (.refl _) le_rfl).trans (State.bootFail_keeps ..)


theorem State.measureImage_keeps (s : State) (i : Image) : Keeps s (State.measureImage s i) := by
  unfold State.measureImage
  refine (State.extend_keeps ..).of ?_
  exact State.extend_keeps ..

theorem execImageVerify_keeps (flash : Option Flash) (s : State) : Kept s (execImageVerify flash s) := by
  unfold execImageVerify
  refine Kept.next ?_
  refine Keeps.ite (fun _ => ?_) (fun _ => ?_)
  · exact Keeps.refl _
  · extract_lets +onlyGivenNames z1
    refine Keeps.cut (b := z1) ?_ ?_
    · unfold z1
      exact State.extend_keeps ..
    · intro hz1
      split
      · refine (State.bootFail_keeps ..).of ?_
        exact Keeps.mk' ‹_› (.same rfl rfl) le_rfl
      · extract_lets +onlyGivenNames z2
        clear_value z2
        extract_lets +onlyGivenNames z3
        extract_lets +onlyGivenNames z4
        refine Keeps.cut (b := z4) ?_ ?_
        · unfold z4
          exact Keeps.mk' ‹_› (.same rfl rfl) le_rfl
        · intro hz4
          extract_lets +onlyGivenNames z5
          clear_value z5
          extract_lets +onlyGivenNames z6
          clear_value z6
          extract_lets +onlyGivenNames z7
          clear_value z7
          extract_lets +onlyGivenNames z8
          clear_value z8
          extract_lets +onlyGivenNames z9
          refine Keeps.ite (fun _ => ?_) (fun _ => ?_)
          · unfold z9
            extract_lets +onlyGivenNames z10
            refine Keeps.cut (b := z10) ?_ ?_
            · unfold z10
              exact (State.measureImage_keeps ..).of ‹_›
            · intro hz10
              exact Keeps.mk' ‹_› (.same rfl rfl) le_rfl
          · extract_lets +onlyGivenNames z10
            extract_lets +onlyGivenNames z11
            refine Keeps.cut (b := z11) ?_ ?_
            · unfold z11
              exact Keeps.mk' ‹_› (.same rfl rfl) le_rfl
            · intro hz11
              extract_lets +onlyGivenNames z12
              refine Keeps.cut (b := z12) ?_ ?_
              · unfold z12
                refine Keeps.ite (fun _ => ?_) (fun _ => ?_)
                · exact (State.measureImage_keeps ..).of ‹_›
                · assumption
              · intro hz12
                extract_lets +onlyGivenNames z13
                clear_value z13
                refine Keeps.ite (fun _ => ?_) (fun _ => ?_)
                · unfold z9
                  extract_lets +onlyGivenNames z14
                  refine Keeps.cut (b := z14) ?_ ?_
                  · unfold z14
                    exact (State.measureImage_keeps ..).of ‹_›
                  · intro hz14
                    exact Keeps.mk' ‹_› (.same rfl rfl) le_rfl
                · exact (State.bootFail_keeps ..).of ‹_›

theorem State.setRegs_keeps (s : State) (a : Nat) (l : List W) :
    Keeps s (State.setRegs s a l) := by
  induction l generalizing s a with
  | nil => exact Keeps.refl _
  | cons p l ih =>
    unfold State.setRegs
    refine (ih ..).of ?_
    exact State.setReg_keeps ..


theorem execProtSetupLock_keeps (s : State) : Kept s (execProtSetupLock s) := by
  unfold execProtSetupLock
  refine Kept.next ?_
  cases (s.sec.image)
  · split
    · extract_lets +onlyGivenNames z1
      clear_value z1
      extract_lets +onlyGivenNames z2
      clear_value z2
      extract_lets +onlyGivenNames z3
      refine Keeps.cut (b := z3) ?_ ?_
      · unfold z3
        refine (State.setRegs_keeps ..).of ?_
        refine (State.setReg_keeps ..).of ?_
        refine (State.setReg_keeps ..).of ?_
        exact State.setReg_keeps ..
      · intro hz3
        extract_lets +onlyGivenNames z4
        refine Keeps.cut (b := z4) ?_ ?_
        · unfold z4
          refine (State.setReg_keeps ..).of ?_
          exact (State.setRegs_keeps ..).of ‹_›
        · intro hz4
          extract_lets +onlyGivenNames z5
          refine Keeps.cut (b := z5) ?_ ?_
          · unfold z5
            refine (State.extend_keeps ..).of ?_
            exact (State.extend_keeps ..).of ‹_›
          · intro hz5
            extract_lets +onlyGivenNames z6
            refine Keeps.cut (b := z6) ?_ ?_
            · unfold z6
              exact (State.forget_keeps ..).of ‹_›
            · intro hz6
              refine (State.deriveKey_keeps ..).of ?_
              exact Keeps.mk' ‹_› (.refl _) le_rfl
    · exact Keeps.refl _
  · split
    · extract_lets +onlyGivenNames z1
      clear_value z1
      extract_lets +onlyGivenNames z2
      clear_value z2
      extract_lets +onlyGivenNames z3
      refine Keeps.cut (b := z3) ?_ ?_
      · unfold z3
        refine (State.setRegs_keeps ..).of ?_
        refine (State.setReg_keeps ..).of ?_
        refine (State.setReg_keeps ..).of ?_
        exact State.setReg_keeps ..
      · intro hz3
        extract_lets +onlyGivenNames z4
        refine Keeps.cut (b := z4) ?_ ?_
        · unfold z4
          refine (State.setReg_keeps ..).of ?_
          exact (State.setRegs_keeps ..).of ‹_›
        · intro hz4
          extract_lets +onlyGivenNames z5
          refine Keeps.cut (b := z5) ?_ ?_
          · unfold z5
            refine (State.extend_keeps ..).of ?_
            exact (State.extend_keeps ..).of ‹_›
          · intro hz5
            extract_lets +onlyGivenNames z6
            refine Keeps.cut (b := z6) ?_ ?_
            · unfold z6
              exact (State.forget_keeps ..).of ‹_›
            · intro hz6
              refine (State.deriveKey_keeps ..).of ?_
              exact Keeps.mk' ‹_› (.refl _) le_rfl
    · exact Keeps.refl _

theorem execFwStarting_keeps (s : State) : Kept s (execFwStarting s) := by
  unfold execFwStarting
  refine Kept.next ?_
  cases (s.sec.image)
  · split
    · extract_lets +onlyGivenNames z1
      refine Keeps.cut (b := z1) ?_ ?_
      · unfold z1
        exact State.setReg_keeps ..
      · intro hz1
        exact Keeps.mk' ‹_› (.refl _) le_rfl
    · exact Keeps.refl _
  · split
    · extract_lets +onlyGivenNames z1
      refine Keeps.cut (b := z1) ?_ ?_
      · unfold z1
        exact State.setReg_keeps ..
      · intro hz1
        exact Keeps.mk' ‹_› (.refl _) le_rfl
    · exact Keeps.refl _

theorem execBrianeReady_keeps (s : State) : Kept s (execBrianeReady s) := by
  unfold execBrianeReady
  refine Kept.next ?_
  refine Keeps.ite (fun _ => ?_) (fun _ => ?_)
  · exact Keeps.refl _
  · exact Keeps.mk' (Keeps.refl _) (.refl _) le_rfl

theorem execRefclkLoss_keeps (s : State) : Kept s (execRefclkLoss s) := by
  unfold execRefclkLoss
  refine Kept.next ?_
  refine Keeps.ite (fun _ => ?_) (fun _ => ?_)
  · exact Keeps.refl _
  · extract_lets +onlyGivenNames z1
    extract_lets +onlyGivenNames z2
    refine Keeps.cut (b := z2) ?_ ?_
    · unfold z2
      exact State.bumpFree_keeps ..
    · intro hz2
      extract_lets +onlyGivenNames z3
      extract_lets +onlyGivenNames z4
      refine Keeps.cut (b := z4) ?_ ?_
      · unfold z4
        exact Keeps.mk' ‹_› (.refl _) le_rfl
      · intro hz4
        refine (State.raise_keeps ..).of ?_
        exact (State.countField_keeps ..).of ‹_›

theorem execPllUnlock_keeps (s : State) : Kept s (execPllUnlock s) := by
  unfold execPllUnlock
  refine Kept.next ?_
  refine Keeps.ite (fun _ => ?_) (fun _ => ?_)
  · exact Keeps.refl _
  · extract_lets +onlyGivenNames z1
    extract_lets +onlyGivenNames z2
    refine Keeps.cut (b := z2) ?_ ?_
    · unfold z2
      exact Keeps.mk' (Keeps.refl _) (.refl _) le_rfl
    · intro hz2
      refine (State.raise_keeps ..).of ?_
      exact (State.countField_keeps ..).of ‹_›

theorem State.resetNow_keeps (s : State) (cause : Nat) (k : Nat) : Keeps s (State.resetNow s cause k) := by
  unfold State.resetNow
  extract_lets +onlyGivenNames z1
  refine Keeps.cut (b := z1) ?_ ?_
  · unfold z1
    refine (State.closeRings_keeps ..).of ?_
    exact State.resetInst_keeps ..
  · intro hz1
    extract_lets +onlyGivenNames z2
    clear_value z2
    extract_lets +onlyGivenNames z3
    refine Keeps.cut (b := z3) ?_ ?_
    · unfold z3
      exact (State.setInst_keeps ..).of ‹_›
    · intro hz3
      extract_lets +onlyGivenNames z4
      clear_value z4
      refine Keeps.ite (fun _ => ?_) (fun _ => ?_)
      · assumption
      · exact (State.setSt_keeps ..).of ‹_›

theorem State.resetAll_keeps (s : State) (cause : Nat) : Keeps s (State.resetAll s cause) := by
  unfold State.resetAll
  extract_lets +onlyGivenNames z1
  refine Keeps.cut (b := z1) ?_ ?_
  · unfold z1
    refine Keeps.foldl (fun _ _ => ?_) ?_
    · exact State.resetNow_keeps ..
    · exact Keeps.refl _
  · intro hz1
    extract_lets +onlyGivenNames z2
    refine Keeps.cut (b := z2) ?_ ?_
    · unfold z2
      exact (State.resetRange_keeps ..).of ‹_›
    · intro hz2
      extract_lets +onlyGivenNames z3
      refine Keeps.cut (b := z3) ?_ ?_
      · unfold z3
        exact Keeps.mk' ‹_› (.refl _) le_rfl
      · intro hz3
        refine (State.abandonFw_keeps ..).of ?_
        exact (State.ackWhere_keeps ..).of ‹_›

theorem State.l3Start_keeps (s : State) (cause : ResetLast) : Keeps s (State.l3Start s cause) := by
  unfold State.l3Start
  refine Keeps.ite (fun _ => Keeps.refl _) (fun _ => ?_)
  extract_lets +onlyGivenNames z1 z2 z3 z4 z5 z6 z7 z8 z9
  have h3 : Keeps s z3 := (Keeps.mk' (Keeps.refl s) (.refl _) le_rfl).trans (State.cutAll_keeps ..)
  have h5 : Keeps s z5 := Keeps.mk' h3 (.refl _) le_rfl
  have h6 : Keeps s z6 := ((h5.trans (State.holdStart_keeps ..)).trans (State.holdStart_keeps ..)).trans (State.resetAll_keeps ..)
  clear_value z6
  have h9 : Keeps s z9 := Keeps.mk' h6 (.same rfl rfl) le_rfl
  exact h9.trans (State.setFw_keeps ..)


theorem execL3RecoveryStart_keeps (cause : ResetLast) (s : State) : Kept s (execL3RecoveryStart cause s) := by
  unfold execL3RecoveryStart
  refine Kept.next ?_
  split
  · exact Keeps.refl _
  · exact Keeps.refl _
  · exact State.l3Start_keeps ..

theorem execL3RecoveryDone_keeps (s : State) : Kept s (execL3RecoveryDone s) := by
  unfold execL3RecoveryDone
  refine Kept.next ?_
  refine Keeps.ite (fun _ => ?_) (fun _ => ?_)
  · exact Keeps.refl _
  · extract_lets +onlyGivenNames z1
    extract_lets +onlyGivenNames z2
    extract_lets +onlyGivenNames z3
    refine Keeps.cut (b := z3) ?_ ?_
    · unfold z3
      exact Keeps.mk' (Keeps.refl _) (.refl _) le_rfl
    · intro hz3
      refine Keeps.ite (fun _ => ?_) (fun _ => ?_)
      · refine (State.cause_keeps ..).of ?_
        exact (State.setReg_keeps ..).of ‹_›
      · assumption

theorem State.pfFlr_keeps (s : State) : Keeps s (State.pfFlr s) := by
  unfold State.pfFlr
  refine Keeps.ite (fun _ => ?_) (fun _ => ?_)
  · exact State.setFn_keeps ..
  · extract_lets +onlyGivenNames z1
    refine Keeps.cut (b := z1) ?_ ?_
    · unfold z1
      exact State.cutAll_keeps ..
    · intro hz1
      extract_lets +onlyGivenNames z2
      clear_value z2
      extract_lets +onlyGivenNames z3
      clear_value z3
      extract_lets +onlyGivenNames z4
      refine Keeps.cut (b := z4) ?_ ?_
      · unfold z4
        exact Keeps.mk' ‹_› (.refl _) le_rfl
      · intro hz4
        refine Keeps.ite (fun _ => ?_) (fun _ => ?_)
        · assumption
        · exact (State.resetAll_keeps ..).of ‹_›

theorem execPfFlr_keeps (s : State) : Kept s (execPfFlr s) := by
  unfold execPfFlr
  refine Kept.next ?_
  refine Keeps.ite (fun _ => ?_) (fun _ => ?_)
  · exact Keeps.refl _
  · exact State.pfFlr_keeps ..

theorem State.vfFlr_keeps (s : State) (k : Nat) : Keeps s (State.vfFlr s k) := by
  unfold State.vfFlr
  refine Keeps.ite (fun _ => ?_) (fun _ => ?_)
  · exact State.setFn_keeps ..
  · extract_lets +onlyGivenNames z1
    clear_value z1
    extract_lets +onlyGivenNames z2
    refine Keeps.cut (b := z2) ?_ ?_
    · unfold z2
      exact State.setFn_keeps ..
    · intro hz2
      extract_lets +onlyGivenNames z3
      clear_value z3
      extract_lets +onlyGivenNames z4
      refine Keeps.cut (b := z4) ?_ ?_
      · unfold z4
        exact Keeps.mk' ‹_› (.refl _) le_rfl
      · intro hz4
        refine Keeps.ite (fun _ => ?_) (fun _ => ?_)
        · assumption
        · refine (State.trigger_keeps ..).of ?_
          exact (State.closeRings_keeps ..).of ‹_›

theorem execVfFlr_keeps (k : Nat) (s : State) : Kept s (execVfFlr k s) := by
  unfold execVfFlr
  refine Kept.next ?_
  refine Keeps.ite (fun _ => ?_) (fun _ => ?_)
  · exact Keeps.refl _
  · exact State.vfFlr_keeps ..

theorem execFlrDone_keeps (k : Nat) (s : State) : Kept s (execFlrDone k s) := by
  unfold execFlrDone
  extract_lets +onlyGivenNames z1
  clear_value z1
  refine Kept.next ?_
  refine Keeps.ite (fun _ => ?_) (fun _ => ?_)
  · exact Keeps.refl _
  · exact State.setFn_keeps ..

theorem State.linkDrop_keeps (s : State) : Keeps s (State.linkDrop s) := by
  unfold State.linkDrop
  extract_lets +onlyGivenNames z1
  refine Keeps.cut (b := z1) ?_ ?_
  · unfold z1
    exact State.cutAll_keeps ..
  · intro hz1
    extract_lets +onlyGivenNames z2
    clear_value z2
    extract_lets +onlyGivenNames z3
    refine Keeps.cut (b := z3) ?_ ?_
    · unfold z3
      exact Keeps.mk' ‹_› (.refl _) le_rfl
    · intro hz3
      refine (State.cause_keeps ..).of ?_
      exact (State.countField_keeps ..).of ‹_›

theorem State.linkLoss_keeps (s : State) : Keeps s (State.linkLoss s) := by
  unfold State.linkLoss
  extract_lets +onlyGivenNames z1
  clear_value z1
  refine (State.raiseAs_keeps ..).of ?_
  refine (State.l3Start_keeps ..).of ?_
  exact State.linkDrop_keeps ..

theorem execLinkDown_keeps (s : State) : Kept s (execLinkDown s) := by
  unfold execLinkDown
  refine Kept.next ?_
  refine Keeps.ite (fun _ => ?_) (fun _ => ?_)
  · exact State.linkLoss_keeps ..
  · exact Keeps.refl _

theorem execHotReset_keeps (s : State) : Kept s (execHotReset s) := by
  unfold execHotReset
  refine Kept.next ?_
  refine Keeps.ite (fun _ => ?_) (fun _ => ?_)
  · refine (State.l3Start_keeps ..).of ?_
    exact State.linkDrop_keeps ..
  · exact Keeps.refl _

theorem execLinkUp_keeps (rate : Nat) (width : Nat) (flit : Bool) (s : State) : Kept s (execLinkUp rate width flit s) := by
  unfold execLinkUp
  extract_lets +onlyGivenNames z1
  clear_value z1
  refine Kept.next ?_
  refine Keeps.ite (fun _ => ?_) (fun _ => ?_)
  · exact Keeps.refl _
  · exact Keeps.mk' (Keeps.refl _) (.refl _) le_rfl

end Sys2Proof.Machine
end

