-- ==== Sys2Proof/Laws/KeepsInject.lean ====
section
/-! SUPPORT. What the operations and commands of Machine/Inject.lean keep: one lemma for each. -/

set_option Elab.async false
namespace Sys2Proof.Machine

theorem State.ctxEcc_keeps (s : State) (n : Nat) (base : Nat) (chk : Nat) (detail : Nat) : Keeps s (State.ctxEcc s n base chk detail) := by
  unfold State.ctxEcc
  split
  · exact State.raiseAs_keeps ..
  · split
    · exact Keeps.refl _
    · extract_lets +onlyGivenNames z1
      clear_value z1
      extract_lets +onlyGivenNames z2
      clear_value z2
      extract_lets +onlyGivenNames z3
      refine Keeps.cut (b := z3) ?_ ?_
      · unfold z3
        refine (State.enterFaulted_keeps ..).of ?_
        exact State.killLaunch_keeps ..
      · intro hz3
        refine (State.kick_keeps ..).of ?_
        exact (State.raiseAs_keeps ..).of ‹_›

theorem State.sliceEcc_keeps (s : State) (slice : Nat) (uncorr : Bool) : Keeps s (State.sliceEcc s slice uncorr) := by
  unfold State.sliceEcc
  refine (State.cause_keeps ..).of ?_
  exact State.countField_keeps ..

theorem State.injFault_keeps (s : State) (l : Loc) (c : Nat) (e : Ecc) (detail : Nat) : Keeps s (State.injFault s l c e detail) := by
  unfold State.injFault
  extract_lets +onlyGivenNames z1
  extract_lets +onlyGivenNames z2
  clear_value z2
  extract_lets +onlyGivenNames z3
  refine Keeps.cut (b := z3) ?_ ?_
  · unfold z3
    refine Keeps.ite (fun _ => ?_) (fun _ => ?_)
    · exact State.sliceEcc_keeps ..
    · exact Keeps.refl _
  · intro hz3
    extract_lets +onlyGivenNames z4
    refine Keeps.cut (b := z4) ?_ ?_
    · unfold z4
      refine Keeps.ite (fun _ => ?_) (fun _ => ?_)
      · exact (State.countField_keeps ..).of ‹_›
      · assumption
    · intro hz4
      split
      · assumption
      · unfold z1
        exact (State.raiseAs_keeps ..).of ‹_›
      · unfold z1
        exact (State.raiseAs_keeps ..).of ‹_›
      · unfold z1
        exact (State.raiseAs_keeps ..).of ‹_›
      · unfold z1
        exact (State.raiseAs_keeps ..).of ‹_›
      · unfold z1
        exact (State.raiseAs_keeps ..).of ‹_›
      · unfold z1
        exact (State.raiseAs_keeps ..).of ‹_›
      · unfold z1
        exact (State.raiseAs_keeps ..).of ‹_›
      · exact (State.ctxEcc_keeps ..).of ‹_›
      · exact (State.ctxEcc_keeps ..).of ‹_›
      · refine (State.ctxEcc_keeps ..).of ?_
        refine (State.cause_keeps ..).of ?_
        exact (State.countField_keeps ..).of ‹_›
      · unfold z1
        exact (State.raiseAs_keeps ..).of ‹_›
      · unfold z1
        exact (State.raiseAs_keeps ..).of ‹_›
      · refine Keeps.ite (fun _ => ?_) (fun _ => ?_)
        · unfold z1
          refine (State.raiseAs_keeps ..).of ?_
          exact (State.bumpFree_keeps ..).of ‹_›
        · unfold z1
          refine (State.raiseAs_keeps ..).of ?_
          exact (State.bumpFree_keeps ..).of ‹_›

theorem State.injFire_keeps (s : State) (base : Nat) (detail : Nat) : Keeps s (State.injFire s base detail) := by
  unfold State.injFire
  extract_lets +onlyGivenNames z1
  clear_value z1
  split
  · exact Keeps.refl _
  · refine Keeps.ite (fun _ => ?_) (fun _ => ?_)
    · exact Keeps.refl _
    · extract_lets +onlyGivenNames z2
      clear_value z2
      extract_lets +onlyGivenNames z3
      clear_value z3
      extract_lets +onlyGivenNames z4
      refine Keeps.cut (b := z4) ?_ ?_
      · unfold z4
        refine (State.bumpFree_keeps ..).of ?_
        exact State.bumpFree_keeps ..
      · intro hz4
        extract_lets +onlyGivenNames z5
        refine Keeps.cut (b := z5) ?_ ?_
        · unfold z5
          refine (State.cause_keeps ..).of ?_
          exact (State.setReg_keeps ..).of ‹_›
        · intro hz5
          exact (State.injFault_keeps ..).of ‹_›

theorem State.injUnit_keeps (s : State) (u : Nat) : Keeps s (State.injUnit s u) := by
  unfold State.injUnit
  extract_lets +onlyGivenNames z1
  clear_value z1
  extract_lets +onlyGivenNames z2
  clear_value z2
  extract_lets +onlyGivenNames z3
  refine Keeps.cut (b := z3) ?_ ?_
  · unfold z3
    refine (State.bumpFree_keeps ..).of ?_
    exact State.bumpFree_keeps ..
  · intro hz3
    extract_lets +onlyGivenNames z4
    refine Keeps.cut (b := z4) ?_ ?_
    · unfold z4
      refine (State.cause_keeps ..).of ?_
      exact (State.setReg_keeps ..).of ‹_›
    · intro hz4
      split
      · assumption
      · exact Keeps.mk' ‹_› (.refl _) le_rfl
      · extract_lets +onlyGivenNames z5
        refine Keeps.cut (b := z5) ?_ ?_
        · unfold z5
          exact Keeps.mk' ‹_› (.refl _) le_rfl
        · intro hz5
          exact (State.eccFind_keeps ..).of ‹_›

end Sys2Proof.Machine
end

