-- ==== Sys2Proof/Laws/KeepsLink.lean ====
section
/-! SUPPORT. What the operations and commands of Machine/Link.lean keep: one lemma for each. -/

set_option Elab.async false
namespace Sys2Proof.Machine

theorem State.aerLog_keeps (s : State) (k : Nat) (e : Nat) : Keeps s (State.aerLog s k e) := by
  unfold State.aerLog
  exact State.setFn_keeps ..

theorem State.settleHost_keeps (s : State) : Keeps s (State.settleHost s) := by
  unfold State.settleHost
  refine Keeps.foldl (fun _ _ => ?_) ?_
  · refine Keeps.ite (fun _ => ?_) (fun _ => ?_)
    · exact Keeps.refl _
    · exact State.complete_keeps ..
  · exact Keeps.refl _

theorem State.settleAts_keeps (s : State) : Keeps s (State.settleAts s) := by
  unfold State.settleAts
  refine Keeps.foldl (fun _ _ => ?_) ?_
  · refine Keeps.ite (fun _ => ?_) (fun _ => ?_)
    · exact Keeps.refl _
    · refine (State.issueHost_keeps ..).of ?_
      exact Keeps.mk' (Keeps.refl _) (.refl _) le_rfl
  · exact Keeps.refl _

theorem State.settleLink_keeps (s : State) : Keeps s (State.settleLink s) := by
  unfold State.settleLink
  refine (State.settleAts_keeps ..).of ?_
  refine (State.settleInval_keeps ..).of ?_
  exact State.settleHost_keeps ..

theorem State.bmeCut_keeps (s : State) (m : Mover) : Keeps s (State.bmeCut s m) := by
  unfold State.bmeCut
  extract_lets +onlyGivenNames z1
  clear_value z1
  extract_lets +onlyGivenNames z2
  clear_value z2
  split
  · exact State.dropMover_keeps ..
  · extract_lets +onlyGivenNames z3
    refine Keeps.cut (b := z3) ?_ ?_
    · unfold z3
      refine (State.cause_keeps ..).of ?_
      refine (State.count_keeps ..).of ?_
      exact State.dropMover_keeps ..
    · intro hz3
      extract_lets +onlyGivenNames z4
      refine Keeps.cut (b := z4) ?_ ?_
      · unfold z4
        exact Keeps.mk' ‹_› (.refl _) le_rfl
      · intro hz4
        exact (State.hostReadFault_keeps ..).of ‹_›

theorem State.bmeClear_keeps (s : State) (k : Nat) (prog : List (Nat × Nat)) : Keeps s (State.bmeClear s k prog) := by
  unfold State.bmeClear
  refine Keeps.ite (fun _ => ?_) (fun _ => ?_)
  · exact Keeps.refl _
  · extract_lets +onlyGivenNames z1
    refine Keeps.cut (b := z1) ?_ ?_
    · unfold z1
      exact State.movedBy_keeps ..
    · intro hz1
      extract_lets +onlyGivenNames z2
      clear_value z2
      extract_lets +onlyGivenNames z3
      refine Keeps.cut (b := z3) ?_ ?_
      · unfold z3
        exact (State.setFn_keeps ..).of ‹_›
      · intro hz3
        extract_lets +onlyGivenNames z4
        refine Keeps.cut (b := z4) ?_ ?_
        · unfold z4
          refine Keeps.foldl (fun _ _ => ?_) ?_
          · split
            · exact State.bmeCut_keeps ..
            · exact Keeps.refl _
          · assumption
        · intro hz4
          extract_lets +onlyGivenNames z5
          clear_value z5
          extract_lets +onlyGivenNames z6
          clear_value z6
          extract_lets +onlyGivenNames z7
          refine Keeps.cut (b := z7) ?_ ?_
          · unfold z7
            exact Keeps.mk' ‹_› (.refl _) le_rfl
          · intro hz7
            exact (State.settleLink_keeps ..).of ‹_›

theorem execBusMasterDisable_keeps (k : Nat) (prog : List (Nat × Nat)) (s : State) : Kept s (execBusMasterDisable k prog s) := by
  unfold execBusMasterDisable
  refine Kept.next ?_
  refine Keeps.ite (fun _ => ?_) (fun _ => ?_)
  · exact Keeps.refl _
  · exact State.bmeClear_keeps ..

theorem State.vfEnable_keeps (s : State) : Keeps s (State.vfEnable s) := by
  unfold State.vfEnable
  exact Keeps.mk' (Keeps.refl _) (.refl _) le_rfl

theorem State.vfDisable_keeps (s : State) : Keeps s (State.vfDisable s) := by
  unfold State.vfDisable
  refine Keeps.ite (fun _ => ?_) (fun _ => ?_)
  · exact Keeps.refl _
  · extract_lets +onlyGivenNames z1
    clear_value z1
    extract_lets +onlyGivenNames z2
    refine Keeps.cut (b := z2) ?_ ?_
    · unfold z2
      exact Keeps.mk' (Keeps.refl _) (.refl _) le_rfl
    · intro hz2
      refine Keeps.ite (fun _ => ?_) (fun _ => ?_)
      · assumption
      · refine Keeps.foldl (fun _ _ => ?_) ?_
        · refine (State.trigger_keeps ..).of ?_
          exact State.closeRings_keeps ..
        · assumption

theorem State.numVfsWrite_keeps (s : State) (n : Nat) : Keeps s (State.numVfsWrite s n) := by
  unfold State.numVfsWrite
  refine Keeps.ite (fun _ => ?_) (fun _ => ?_)
  · exact Keeps.refl _
  · exact Keeps.mk' (Keeps.refl _) (.refl _) le_rfl

theorem State.barSize_keeps (s : State) (vf : Bool) (n : Nat) : Keeps s (State.barSize s vf n) := by
  unfold State.barSize
  refine Keeps.ite (fun _ => ?_) (fun _ => ?_)
  · exact Keeps.refl _
  · refine Keeps.ite (fun _ => ?_) (fun _ => ?_)
    · refine Keeps.ite (fun _ => ?_) (fun _ => ?_)
      · exact Keeps.refl _
      · exact Keeps.mk' (Keeps.refl _) (.refl _) le_rfl
    · refine Keeps.ite (fun _ => ?_) (fun _ => ?_)
      · exact Keeps.refl _
      · exact Keeps.mk' (Keeps.refl _) (.refl _) le_rfl

theorem State.d3Enter_keeps (s : State) (k : Nat) : Keeps s (State.d3Enter s k) := by
  unfold State.d3Enter
  refine Keeps.ite (fun _ => ?_) (fun _ => ?_)
  · exact Keeps.refl _
  · extract_lets +onlyGivenNames z1
    clear_value z1
    extract_lets +onlyGivenNames z2
    refine Keeps.cut (b := z2) ?_ ?_
    · unfold z2
      exact State.setFn_keeps ..
    · intro hz2
      refine Keeps.ite (fun _ => ?_) (fun _ => ?_)
      · assumption
      · exact (State.trigger_keeps ..).of ‹_›

theorem execVfEnableSet_keeps (s : State) : Kept s (execVfEnableSet s) := by
  unfold execVfEnableSet
  refine Kept.next ?_
  refine Keeps.ite (fun _ => ?_) (fun _ => ?_)
  · exact Keeps.refl _
  · exact State.vfEnable_keeps ..

theorem execVfEnableClear_keeps (s : State) : Kept s (execVfEnableClear s) := by
  unfold execVfEnableClear
  refine Kept.next ?_
  refine Keeps.ite (fun _ => ?_) (fun _ => ?_)
  · exact Keeps.refl _
  · exact State.vfDisable_keeps ..

theorem execNumvfsWrite_keeps (n : Nat) (s : State) : Kept s (execNumvfsWrite n s) := by
  unfold execNumvfsWrite
  refine Kept.next ?_
  refine Keeps.ite (fun _ => ?_) (fun _ => ?_)
  · exact Keeps.refl _
  · exact State.numVfsWrite_keeps ..

theorem execBarSizeWrite_keeps (vf : Bool) (size : Nat) (s : State) : Kept s (execBarSizeWrite vf size s) := by
  unfold execBarSizeWrite
  refine Kept.next ?_
  refine Keeps.ite (fun _ => ?_) (fun _ => ?_)
  · exact Keeps.refl _
  · exact State.barSize_keeps ..

theorem execD3hotEntry_keeps (k : Nat) (s : State) : Kept s (execD3hotEntry k s) := by
  unfold execD3hotEntry
  refine Kept.next ?_
  refine Keeps.ite (fun _ => ?_) (fun _ => ?_)
  · exact Keeps.refl _
  · exact State.d3Enter_keeps ..

theorem execD0Return_keeps (k : Nat) (s : State) : Kept s (execD0Return k s) := by
  unfold execD0Return
  refine Kept.next ?_
  refine Keeps.ite (fun _ => ?_) (fun _ => ?_)
  · exact Keeps.refl _
  · exact State.setFn_keeps ..

theorem State.cfgWrite_keeps (s : State) (k : Nat) (r : CfgReg) (v : Nat) (prog : List (Nat × Nat)) : Keeps s (State.cfgWrite s k r v prog) := by
  unfold State.cfgWrite
  extract_lets +onlyGivenNames z1
  clear_value z1
  extract_lets +onlyGivenNames z2
  clear_value z2
  split
  · refine Keeps.ite (fun _ => ?_) (fun _ => ?_)
    · exact State.setFn_keeps ..
    · exact Keeps.refl _
  · refine Keeps.ite (fun _ => ?_) (fun _ => ?_)
    · refine (State.msixRelease_keeps ..).of ?_
      exact State.setFn_keeps ..
    · exact State.bmeClear_keeps ..
  · refine Keeps.ite (fun _ => ?_) (fun _ => ?_)
    · exact State.d3Enter_keeps ..
    · refine Keeps.ite (fun _ => ?_) (fun _ => ?_)
      · exact State.setFn_keeps ..
      · exact Keeps.refl _
  · exact State.setFn_keeps ..
  · exact State.setFn_keeps ..
  · exact State.setFn_keeps ..
  · refine Keeps.ite (fun _ => ?_) (fun _ => ?_)
    · refine Keeps.ite (fun _ => ?_) (fun _ => ?_)
      · exact State.pfFlr_keeps ..
      · exact State.vfFlr_keeps ..
    · exact Keeps.refl _
  · refine (State.msixRelease_keeps ..).of ?_
    exact State.setFn_keeps ..
  · refine (State.msixRelease_keeps ..).of ?_
    exact State.setFn_keeps ..
  · extract_lets +onlyGivenNames z3
    refine Keeps.cut (b := z3) ?_ ?_
    · unfold z3
      exact State.setFn_keeps ..
    · intro hz3
      refine Keeps.ite (fun _ => ?_) (fun _ => ?_)
      · assumption
      · exact Keeps.mk' ‹_› (.refl _) le_rfl
  · refine Keeps.ite (fun _ => ?_) (fun _ => ?_)
    · exact Keeps.mk' (Keeps.refl _) (.refl _) le_rfl
    · exact Keeps.refl _
  · refine Keeps.ite (fun _ => ?_) (fun _ => ?_)
    · refine Keeps.ite (fun _ => ?_) (fun _ => ?_)
      · exact State.vfEnable_keeps ..
      · exact State.vfDisable_keeps ..
    · exact Keeps.refl _
  · refine Keeps.ite (fun _ => ?_) (fun _ => ?_)
    · exact Keeps.mk' (Keeps.refl _) (.refl _) le_rfl
    · exact Keeps.refl _
  · refine Keeps.ite (fun _ => ?_) (fun _ => ?_)
    · exact State.numVfsWrite_keeps ..
    · exact Keeps.refl _
  · refine Keeps.ite (fun _ => ?_) (fun _ => ?_)
    · exact State.barSize_keeps ..
    · exact Keeps.refl _
  · refine Keeps.ite (fun _ => ?_) (fun _ => ?_)
    · exact State.barSize_keeps ..
    · exact Keeps.refl _
  · exact State.setFn_keeps ..
  · exact Keeps.refl _

theorem execPcieConfigRequest_keeps (k : Nat) (reg : CfgReg) (write : Option Nat) (prog : List (Nat × Nat)) (s : State) : Kept s (execPcieConfigRequest k reg write prog s) := by
  unfold execPcieConfigRequest
  refine Kept.next ?_
  refine Keeps.ite (fun _ => ?_) (fun _ => ?_)
  · exact Keeps.refl _
  · refine Keeps.ite (fun _ => ?_) (fun _ => ?_)
    · exact State.answer_keeps ..
    · refine Keeps.ite (fun _ => ?_) (fun _ => ?_)
      · exact State.answer_keeps ..
      · refine Keeps.ite (fun _ => ?_) (fun _ => ?_)
        · exact State.answer_keeps ..
        · split
          · exact State.answer_keeps ..
          · refine (State.answer_keeps ..).of ?_
            refine Keeps.ite (fun _ => ?_) (fun _ => ?_)
            · exact Keeps.refl _
            · exact State.cfgWrite_keeps ..

theorem State.bar2Deny_keeps (s : State) : Keeps s (State.bar2Deny s) := by
  unfold State.bar2Deny
  exact State.count_keeps ..

theorem State.hostPoison_keeps (s : State) (pa : Nat) : Keeps s (State.hostPoison s pa) := by
  unfold State.hostPoison
  cases ((s.slot (pa / 2 ^ 28)).owner)
  · dsimp -zeta -zetaHave only
    exact State.raiseAs_keeps ..
  · split
    · exact State.raiseAs_keeps ..
    · exact State.raiseAs_keeps ..
    · exact State.raiseAs_keeps ..

theorem State.mergePoison_keeps (s : State) (pa : Nat) : Keeps s (State.mergePoison s pa) := by
  unfold State.mergePoison
  exact State.raiseAs_keeps ..

theorem State.bar2Fire_keeps (s : State) (pa : Nat) (wr : Bool) (checked : Bool) : Keeps s (State.bar2Fire s pa wr checked) := by
  unfold State.bar2Fire
  extract_lets +onlyGivenNames z1
  refine Keeps.cut (b := z1) ?_ ?_
  · unfold z1
    refine Keeps.ite (fun _ => ?_) (fun _ => ?_)
    · exact State.injFire_keeps ..
    · exact Keeps.refl _
  · intro hz1
    extract_lets +onlyGivenNames z2
    clear_value z2
    refine Keeps.ite (fun _ => ?_) (fun _ => ?_)
    · refine Keeps.ite (fun _ => ?_) (fun _ => ?_)
      · refine Keeps.ite (fun _ => ?_) (fun _ => ?_)
        · exact (State.injUnit_keeps ..).of ‹_›
        · assumption
      · exact (State.injFire_keeps ..).of ‹_›
    · assumption

theorem State.bar2Read_keeps (s : State) (pa : Nat) (len : Nat) (err : Option (Nat × Bool)) : Keeps s (State.bar2Read s pa len err) := by
  unfold State.bar2Read
  extract_lets +onlyGivenNames z1
  clear_value z1
  extract_lets +onlyGivenNames z2
  refine Keeps.cut (b := z2) ?_ ?_
  · unfold z2
    exact State.eccFind_keeps ..
  · intro hz2
    extract_lets +onlyGivenNames z3
    clear_value z3
    split
    · refine (State.answer_keeps ..).of ?_
      exact (State.hostPoison_keeps ..).of ‹_›
    · exact (State.answer_keeps ..).of ‹_›

theorem State.bar2Write_keeps (s : State) (pa : Nat) (bs : List (Option Byte)) (err : Option (Nat × Bool)) : Keeps s (State.bar2Write s pa bs err) := by
  unfold State.bar2Write
  extract_lets +onlyGivenNames z1
  refine Keeps.cut (b := z1) ?_ ?_
  · unfold z1
    split
    · refine Keeps.ite (fun _ => ?_) (fun _ => ?_)
      · refine Keeps.ite (fun _ => ?_) (fun _ => ?_)
        · refine (State.mergePoison_keeps ..).of ?_
          exact State.eccFind_keeps ..
        · exact State.eccFind_keeps ..
      · exact Keeps.refl _
    · exact Keeps.refl _
  · intro hz1
    refine (State.answer_keeps ..).of ?_
    exact (State.devWriteMask_keeps ..).of ‹_›

theorem execBar2Access_keeps (k : Nat) (off : Nat) (len : Nat) (wr : Option (List (Option Byte))) (err : Option (Nat × Bool)) (checked : Bool) (s : State) : Kept s (execBar2Access k off len wr err checked s) := by
  unfold execBar2Access
  extract_lets +onlyGivenNames z1
  clear_value z1
  extract_lets +onlyGivenNames z2
  refine Kept.next ?_
  refine Keeps.ite (fun _ => ?_) (fun _ => ?_)
  · exact Keeps.refl _
  · refine Keeps.ite (fun _ => ?_) (fun _ => ?_)
    · refine Keeps.ite (fun _ => ?_) (fun _ => ?_)
      · exact Keeps.refl _
      · refine (State.answer_keeps ..).of ?_
        exact State.aerLog_keeps ..
    · refine Keeps.ite (fun _ => ?_) (fun _ => ?_)
      · unfold z2
        split
        · exact State.answer_keeps ..
        · exact State.answer_keeps ..
      · refine Keeps.ite (fun _ => ?_) (fun _ => ?_)
        · split
          · exact State.answer_keeps ..
          · refine (State.answer_keeps ..).of ?_
            exact State.bumpFree_keeps ..
        · split
          · unfold z2
            split
            · refine (State.answer_keeps ..).of ?_
              exact State.bar2Deny_keeps ..
            · refine (State.answer_keeps ..).of ?_
              exact State.bar2Deny_keeps ..
          · split
            · refine (State.bar2Fire_keeps ..).of ?_
              exact State.bar2Read_keeps ..
            · refine Keeps.ite (fun _ => ?_) (fun _ => ?_)
              · unfold z2
                dsimp -zeta -zetaHave only
                refine (State.answer_keeps ..).of ?_
                exact State.bar2Deny_keeps ..
              · refine (State.bar2Fire_keeps ..).of ?_
                exact State.bar2Write_keeps ..

theorem execPoisonedHostWrite_keeps (k : Nat) (s : State) : Kept s (execPoisonedHostWrite k s) := by
  unfold execPoisonedHostWrite
  refine Kept.next ?_
  refine Keeps.ite (fun _ => ?_) (fun _ => ?_)
  · exact Keeps.refl _
  · exact State.aerLog_keeps ..

theorem execAtomicopReceived_keeps (k : Nat) (s : State) : Kept s (execAtomicopReceived k s) := by
  unfold execAtomicopReceived
  refine Kept.next ?_
  refine Keeps.ite (fun _ => ?_) (fun _ => ?_)
  · exact Keeps.refl _
  · refine (State.answer_keeps ..).of ?_
    exact State.aerLog_keeps ..

theorem State.ringData_keeps (s : State) (h : Nat) (count : W) (d : List Byte) : Keeps s (State.ringData s h count d) := by
  unfold State.ringData
  extract_lets +onlyGivenNames z1
  clear_value z1
  extract_lets +onlyGivenNames z2
  clear_value z2
  exact State.setQueue_keeps ..

theorem State.ringFail_keeps (s : State) (h : Nat) (count : W) (n : Nat) (c : Cpl) : Keeps s (State.ringFail s h count n c) := by
  unfold State.ringFail
  extract_lets +onlyGivenNames z1
  clear_value z1
  exact State.setQueue_keeps ..

theorem State.onFrame_keeps (s : State) (h : Nat) (depth : Nat) (g : Frame → Frame) : Keeps s (State.onFrame s h depth g) := by
  unfold State.onFrame
  extract_lets +onlyGivenNames z1
  clear_value z1
  exact State.setQueue_keeps ..

theorem State.copyData_keeps (s : State) (id : Nat) (j : Nat) (d : List Byte) : Keeps s (State.copyData s id j d) := by
  unfold State.copyData
  split
  · exact Keeps.refl _
  · split
    · exact Keeps.refl _
    · extract_lets +onlyGivenNames z1
      clear_value z1
      exact Keeps.mk' (Keeps.refl _) (.refl _) le_rfl

theorem State.copyFail_keeps (s : State) (id : Nat) (c : Cpl) : Keeps s (State.copyFail s id c) := by
  unfold State.copyFail
  extract_lets +onlyGivenNames z1
  refine Keeps.cut (b := z1) ?_ ?_
  · unfold z1
    exact State.moverCut_keeps ..
  · intro hz1
    split
    · assumption
    · refine Keeps.trans ?_ (State.moverFault_keeps (h_f := ?_) ..)
      · assumption
      · intro _
        intro _
        intro _
        exact State.hostReadFault_keeps ..

theorem State.readEnd_keeps (s : State) (n : Nat) (res : Cpl) (data : List Byte) : Keeps s (State.readEnd s n res data) := by
  unfold State.readEnd
  split
  · exact Keeps.refl _
  · extract_lets +onlyGivenNames z1
    clear_value z1
    extract_lets +onlyGivenNames z2
    clear_value z2
    extract_lets +onlyGivenNames z3
    refine Keeps.cut (b := z3) ?_ ?_
    · unfold z3
      exact Keeps.mk' (Keeps.refl _) (.refl _) le_rfl
    · intro hz3
      extract_lets +onlyGivenNames z4
      clear_value z4
      refine (State.settleLink_keeps ..).of ?_
      split
      · exact (State.ringData_keeps ..).of ‹_›
      · exact (State.ringFail_keeps ..).of ‹_›
      · exact (State.onFrame_keeps ..).of ‹_›
      · exact (State.onFrame_keeps ..).of ‹_›
      · exact (State.constData_keeps ..).of ‹_›
      · exact (State.constFail_keeps ..).of ‹_›
      · exact (State.copyData_keeps ..).of ‹_›
      · exact (State.copyFail_keeps ..).of ‹_›
      · exact (State.operandData_keeps ..).of ‹_›
      · exact (State.operandFail_keeps ..).of ‹_›

theorem execHostReadCompletion_keeps (who : CplOf) (res : Cpl) (data : List Byte) (s : State) : Kept s (execHostReadCompletion who res data s) := by
  unfold execHostReadCompletion
  refine Kept.next ?_
  refine Keeps.ite (fun _ => ?_) (fun _ => ?_)
  · exact Keeps.refl _
  · split
    · exact Keeps.refl _
    · exact State.readEnd_keeps ..
    · split
      · refine Keeps.ite (fun _ => ?_) (fun _ => ?_)
        · refine (State.settleLink_keeps ..).of ?_
          exact State.copyFail_keeps ..
        · exact Keeps.refl _
      · exact Keeps.refl _
    · exact Keeps.refl _

theorem execHostReadTimeout_keeps (n : Nat) (s : State) : Kept s (execHostReadTimeout n s) := by
  unfold execHostReadTimeout
  refine Kept.next ?_
  refine Keeps.ite (fun _ => ?_) (fun _ => ?_)
  · exact Keeps.refl _
  · exact State.readEnd_keeps ..

theorem State.setStall_keeps (s : State) (x : Stall) : Keeps s (State.setStall s x) := by
  unfold State.setStall
  exact Keeps.mk' (Keeps.refl _) (.refl _) le_rfl

theorem execCreditStallBegin_keeps (prog : List (Nat × Nat)) (s : State) : Kept s (execCreditStallBegin prog s) := by
  unfold execCreditStallBegin
  refine Kept.next ?_
  refine Keeps.ite (fun _ => ?_) (fun _ => ?_)
  · exact Keeps.refl _
  · extract_lets +onlyGivenNames z1
    refine Keeps.cut (b := z1) ?_ ?_
    · unfold z1
      exact State.movedBy_keeps ..
    · intro hz1
      extract_lets +onlyGivenNames z2
      refine Keeps.cut (b := z2) ?_ ?_
      · unfold z2
        exact (State.setStall_keeps ..).of ‹_›
      · intro hz2
        exact Keeps.mk' ‹_› (.refl _) le_rfl

theorem State.stallCut_keeps (s : State) (m : Mover) : Keeps s (State.stallCut s m) := by
  unfold State.stallCut
  split
  · exact State.dropMover_keeps ..
  · extract_lets +onlyGivenNames z1
    refine Keeps.cut (b := z1) ?_ ?_
    · unfold z1
      refine (State.dropMover_keeps ..).of ?_
      exact State.countIncomplete_keeps ..
    · intro hz1
      exact Keeps.mk' ‹_› (.refl _) le_rfl

theorem execHostStallLimitExpiry_keeps (prog : List (Nat × Nat)) (s : State) : Kept s (execHostStallLimitExpiry prog s) := by
  unfold execHostStallLimitExpiry
  refine Kept.next ?_
  refine Keeps.ite (fun _ => ?_) (fun _ => ?_)
  · exact Keeps.refl _
  · extract_lets +onlyGivenNames z1
    refine Keeps.cut (b := z1) ?_ ?_
    · unfold z1
      refine (State.setStall_keeps ..).of ?_
      exact State.movedBy_keeps ..
    · intro hz1
      extract_lets +onlyGivenNames z2
      refine Keeps.cut (b := z2) ?_ ?_
      · unfold z2
        refine (State.raise_keeps ..).of ?_
        refine (State.cause_keeps ..).of ?_
        exact (State.count_keeps ..).of ‹_›
      · intro hz2
        refine Keeps.foldl (fun _ _ => ?_) ?_
        · refine Keeps.ite (fun _ => ?_) (fun _ => ?_)
          · exact State.stallCut_keeps ..
          · exact Keeps.refl _
        · assumption

theorem State.stallRecord_keeps (s : State) (c : Cmd) : Keeps s (State.stallRecord s c) := by
  unfold State.stallRecord
  split
  · refine (State.enterFaulted_keeps ..).of ?_
    exact Keeps.mk' (Keeps.refl _) (.refl _) le_rfl
  · exact Keeps.refl _

theorem execCreditReturn_keeps (s : State) : Kept s (execCreditReturn s) := by
  unfold execCreditReturn
  refine Kept.next ?_
  refine Keeps.ite (fun _ => ?_) (fun _ => ?_)
  · exact Keeps.refl _
  · extract_lets +onlyGivenNames z1
    clear_value z1
    extract_lets +onlyGivenNames z2
    clear_value z2
    extract_lets +onlyGivenNames z3
    clear_value z3
    extract_lets +onlyGivenNames z4
    refine Keeps.cut (b := z4) ?_ ?_
    · unfold z4
      exact Keeps.mk' (Keeps.refl _) (.refl _) le_rfl
    · intro hz4
      extract_lets +onlyGivenNames z5
      refine Keeps.cut (b := z5) ?_ ?_
      · unfold z5
        refine Keeps.foldl (fun _ _ => ?_) ?_
        · exact State.issueHost_keeps ..
        · assumption
      · intro hz5
        extract_lets +onlyGivenNames z6
        refine Keeps.cut (b := z6) ?_ ?_
        · unfold z6
          refine Keeps.ite (fun _ => ?_) (fun _ => ?_)
          · exact (State.cause_keeps ..).of ‹_›
          · assumption
        · intro hz6
          refine (State.settleLink_keeps ..).of ?_
          refine Keeps.foldl (fun _ _ => ?_) ?_
          · exact State.stallRecord_keeps ..
          · assumption

theorem execStallLinkLoss_keeps (s : State) : Kept s (execStallLinkLoss s) := by
  unfold execStallLinkLoss
  refine Kept.next ?_
  refine Keeps.ite (fun _ => ?_) (fun _ => ?_)
  · exact Keeps.refl _
  · refine (State.linkLoss_keeps ..).of ?_
    exact State.countField_keeps ..

theorem execAtsInvalidateRequest_keeps (k : Nat) (pg : Nat) (n : Nat) (s : State) : Kept s (execAtsInvalidateRequest k pg n s) := by
  unfold execAtsInvalidateRequest
  refine Kept.next ?_
  refine Keeps.ite (fun _ => ?_) (fun _ => ?_)
  · exact Keeps.refl _
  · refine (State.settleAts_keeps ..).of ?_
    exact Keeps.mk' (Keeps.refl _) (.refl _) le_rfl

theorem State.ptmCorrect_keeps (s : State) (e : Int) : Keeps s (State.ptmCorrect s e) := by
  unfold State.ptmCorrect
  extract_lets +onlyGivenNames z1
  refine Keeps.cut (b := z1) ?_ ?_
  · unfold z1
    exact State.setReg_keeps ..
  · intro hz1
    extract_lets +onlyGivenNames z2
    clear_value z2
    extract_lets +onlyGivenNames z3
    clear_value z3
    refine Keeps.ite (fun _ => ?_) (fun _ => ?_)
    · refine (State.countField_keeps ..).of ?_
      exact Keeps.mk' ‹_› (.refl _) le_rfl
    · exact Keeps.mk' ‹_› (.refl _) le_rfl

theorem execPtmDialog_keeps (ok : Bool) (e : Int) (s : State) : Kept s (execPtmDialog ok e s) := by
  unfold execPtmDialog
  refine Kept.next ?_
  refine Keeps.ite (fun _ => ?_) (fun _ => ?_)
  · exact Keeps.refl _
  · refine Keeps.ite (fun _ => ?_) (fun _ => ?_)
    · exact State.ptmCorrect_keeps ..
    · extract_lets +onlyGivenNames z1
      refine Keeps.cut (b := z1) ?_ ?_
      · unfold z1
        exact State.countField_keeps ..
      · intro hz1
        extract_lets +onlyGivenNames z2
        clear_value z2
        extract_lets +onlyGivenNames z3
        clear_value z3
        extract_lets +onlyGivenNames z4
        clear_value z4
        extract_lets +onlyGivenNames z5
        refine Keeps.cut (b := z5) ?_ ?_
        · unfold z5
          exact Keeps.mk' ‹_› (.refl _) le_rfl
        · intro hz5
          refine Keeps.ite (fun _ => ?_) (fun _ => ?_)
          · exact (State.countField_keeps ..).of ‹_›
          · assumption

theorem execIdeKmKeySetup_keeps (n : Nat) (s : State) : Kept s (execIdeKmKeySetup n s) := by
  unfold execIdeKmKeySetup
  refine Kept.next ?_
  refine Keeps.ite (fun _ => ?_) (fun _ => ?_)
  · exact Keeps.refl _
  · exact Keeps.mk' (Keeps.refl _) (.refl _) le_rfl

theorem execIdeCheckFail_keeps (n : Nat) (s : State) : Kept s (execIdeCheckFail n s) := by
  unfold execIdeCheckFail
  refine Kept.next ?_
  refine Keeps.ite (fun _ => ?_) (fun _ => ?_)
  · exact Keeps.refl _
  · extract_lets +onlyGivenNames z1
    clear_value z1
    extract_lets +onlyGivenNames z2
    refine Keeps.cut (b := z2) ?_ ?_
    · unfold z2
      exact Keeps.mk' (Keeps.refl _) (.refl _) le_rfl
    · intro hz2
      refine (State.raise_keeps ..).of ?_
      refine (State.cause_keeps ..).of ?_
      exact (State.aerLog_keeps ..).of ‹_›

end Sys2Proof.Machine
end

