-- ==== Sys2Proof/Laws/KeepsSecure.lean ====
section
/-! SUPPORT. What the operations and commands of Machine/Secure.lean keep: one lemma for each. -/

set_option Elab.async false
namespace Sys2Proof.Machine

theorem State.mboxAnswer_keeps (s : State) (code : Nat) (d : List Byte) : Keeps s (State.mboxAnswer s code d) := by
  unfold State.mboxAnswer
  split
  · exact Keeps.mk' (Keeps.refl _) (.same rfl rfl) le_rfl
  · exact Keeps.refl _

theorem State.onMbox_keeps (s : State) (cmd : Nat) (body : State → Mbox → State) (h_body : ∀ (x0 : State) (x1 : Mbox), Keeps x0 (body x0 x1)) : Keeps s (State.onMbox s cmd body) := by
  unfold State.onMbox
  split
  · refine Keeps.ite (fun _ => ?_) (fun _ => ?_)
    · exact h_body _ _
    · exact Keeps.refl _
  · exact Keeps.refl _

theorem State.generate_keeps (s : State) (n : Nat) : Keeps s (State.generate s n).2 := by
  unfold State.generate
  refine Keeps.mk_snd ?_
  extract_lets +onlyGivenNames z1
  refine Keeps.cut (b := z1) ?_ ?_
  · unfold z1
    exact State.bumpFree_keeps ..
  · intro hz1
    exact Keeps.mk' ‹_› (.same rfl rfl) le_rfl

theorem execGetRandom_keeps (s : State) : Kept s (execGetRandom s) := by
  unfold execGetRandom
  refine Kept.next ?_
  refine Keeps.trans ?_ (State.onMbox_keeps (h_body := ?_) ..)
  · exact Keeps.refl _
  · intro _
    intro _
    refine Keeps.ite (fun _ => ?_) (fun _ => ?_)
    · exact State.mboxAnswer_keeps ..
    · refine Keeps.ite (fun _ => ?_) (fun _ => ?_)
      · exact State.mboxAnswer_keeps ..
      · refine (State.mboxAnswer_keeps ..).of ?_
        exact State.generate_keeps ..

theorem execHash_keeps (alg : Nat) (data : List Byte) (s : State) : Kept s (execHash alg data s) := by
  unfold execHash
  refine Kept.next ?_
  refine Keeps.trans ?_ (State.onMbox_keeps (h_body := ?_) ..)
  · exact Keeps.refl _
  · intro _
    intro _
    refine Keeps.ite (fun _ => ?_) (fun _ => ?_)
    · exact State.mboxAnswer_keeps ..
    · split
      · exact State.mboxAnswer_keeps ..
      · exact State.mboxAnswer_keeps ..
      · refine (State.mboxAnswer_keeps ..).of ?_
        exact State.bumpFree_keeps ..

theorem execPkeTest_keeps (op : Nat) (curve : Nat) (operands : List Byte) (fails : List Bool) (s : State) : Kept s (execPkeTest op curve operands fails s) := by
  unfold execPkeTest
  refine Kept.next ?_
  refine Keeps.trans ?_ (State.onMbox_keeps (h_body := ?_) ..)
  · exact Keeps.refl _
  · intro _
    intro _
    refine Keeps.ite (fun _ => ?_) (fun _ => ?_)
    · refine (State.mboxAnswer_keeps ..).of ?_
      exact State.bumpFree_keeps ..
    · split
      · exact State.mboxAnswer_keeps ..
      · refine Keeps.ite (fun _ => ?_) (fun _ => ?_)
        · exact State.mboxAnswer_keeps ..
        · extract_lets +onlyGivenNames z1
          clear_value z1
          extract_lets +onlyGivenNames z2
          clear_value z2
          extract_lets +onlyGivenNames z3
          refine Keeps.cut (b := z3) ?_ ?_
          · unfold z3
            refine Keeps.ite (fun _ => ?_) (fun _ => ?_)
            · exact State.generate_keeps ..
            · exact Keeps.refl _
          · intro hz3
            exact (State.mboxAnswer_keeps ..).of ‹_›

theorem execDebugChallenge_keeps (s : State) : Kept s (execDebugChallenge s) := by
  unfold execDebugChallenge
  refine Kept.next ?_
  refine Keeps.trans ?_ (State.onMbox_keeps (h_body := ?_) ..)
  · exact Keeps.refl _
  · intro _
    intro _
    refine Keeps.ite (fun _ => ?_) (fun _ => ?_)
    · exact State.mboxAnswer_keeps ..
    · refine Keeps.ite (fun _ => ?_) (fun _ => ?_)
      · exact State.mboxAnswer_keeps ..
      · extract_lets +onlyGivenNames z1
        clear_value z1
        extract_lets +onlyGivenNames z2
        refine Keeps.cut (b := z2) ?_ ?_
        · unfold z2
          exact State.generate_keeps ..
        · intro hz2
          refine (State.mboxAnswer_keeps ..).of ?_
          exact Keeps.mk' ‹_› (.same rfl rfl) le_rfl

theorem execDebugUnlock_keeps (kenudOk : Bool) (ownerOk : Bool) (s : State) : Kept s (execDebugUnlock kenudOk ownerOk s) := by
  unfold execDebugUnlock
  refine Kept.next ?_
  refine Keeps.trans ?_ (State.onMbox_keeps (h_body := ?_) ..)
  · exact Keeps.refl _
  · intro _
    intro _
    refine Keeps.ite (fun _ => ?_) (fun _ => ?_)
    · exact State.mboxAnswer_keeps ..
    · refine Keeps.ite (fun _ => ?_) (fun _ => ?_)
      · exact State.mboxAnswer_keeps ..
      · extract_lets +onlyGivenNames z1
        clear_value z1
        extract_lets +onlyGivenNames z2
        clear_value z2
        extract_lets +onlyGivenNames z3
        extract_lets +onlyGivenNames z4
        refine Keeps.cut (b := z4) ?_ ?_
        · unfold z4
          exact Keeps.mk' (Keeps.refl _) (.same rfl rfl) le_rfl
        · intro hz4
          refine Keeps.ite (fun _ => ?_) (fun _ => ?_)
          · refine (State.mboxAnswer_keeps ..).of ?_
            exact (State.bumpFree_keeps ..).of ‹_›
          · refine Keeps.ite (fun _ => ?_) (fun _ => ?_)
            · exact (State.mboxAnswer_keeps ..).of ‹_›
            · extract_lets +onlyGivenNames z5
              extract_lets +onlyGivenNames z6
              refine Keeps.cut (b := z6) ?_ ?_
              · unfold z6
                exact Keeps.mk' ‹_› (.same rfl rfl) le_rfl
              · intro hz6
                refine (State.mboxAnswer_keeps ..).of ?_
                refine (State.raise_keeps ..).of ?_
                exact (State.extend_keeps ..).of ‹_›

theorem execOwnerKeyProgram_keeps (ok : Bool) (s : State) : Kept s (execOwnerKeyProgram ok s) := by
  unfold execOwnerKeyProgram
  refine Kept.next ?_
  refine Keeps.trans ?_ (State.onMbox_keeps (h_body := ?_) ..)
  · exact Keeps.refl _
  · intro _
    intro _
    refine Keeps.ite (fun _ => ?_) (fun _ => ?_)
    · exact State.mboxAnswer_keeps ..
    · refine Keeps.ite (fun _ => ?_) (fun _ => ?_)
      · exact State.mboxAnswer_keeps ..
      · extract_lets +onlyGivenNames z1
        clear_value z1
        refine Keeps.ite (fun _ => ?_) (fun _ => ?_)
        · refine (State.mboxAnswer_keeps ..).of ?_
          exact Keeps.mk' (Keeps.refl _) (.same rfl rfl) le_rfl
        · extract_lets +onlyGivenNames z2
          clear_value z2
          refine (State.mboxAnswer_keeps ..).of ?_
          extract_lets +onlyGivenNames z3
          refine Keeps.cut (b := z3) ?_ ?_
          · unfold z3
            exact State.bumpFree_keeps ..
          · intro hz3
            exact Keeps.mk' ‹_› (.same rfl rfl) le_rfl

theorem execArbCommit_keeps (ok : Bool) (s : State) : Kept s (execArbCommit ok s) := by
  unfold execArbCommit
  refine Kept.next ?_
  refine State.onMbox_keeps s _ _ fun s m => ?_
  refine Keeps.ite (fun _ => State.mboxAnswer_keeps ..) (fun _ => ?_)
  refine Keeps.ite (fun _ => State.mboxAnswer_keeps ..) (fun _ => ?_)
  refine Keeps.ite (fun _ => State.mboxAnswer_keeps ..) (fun _ => ?_)
  extract_lets +onlyGivenNames n c z
  refine Keeps.trans (Keeps.mk' (State.bumpFree_keeps s) ?_ (Nat.le_refl _)) (State.mboxAnswer_keeps ..)
  exact ⟨Nat.le_add_right _ _, by simp only [State.bumpFree, c, ← Nat.or_assoc, Nat.or_self]⟩


theorem execMboxReservedCmd_keeps (s : State) : Kept s (execMboxReservedCmd s) := by
  unfold execMboxReservedCmd
  refine Kept.next ?_
  split
  · refine Keeps.ite (fun _ => ?_) (fun _ => ?_)
    · exact Keeps.refl _
    · exact State.mboxAnswer_keeps ..
  · exact Keeps.refl _

theorem State.mboxRsp_keeps (s : State) (d : List Byte) : Keeps s (State.mboxRsp s d) := by
  unfold State.mboxRsp
  refine Keeps.foldl (fun _ _ => ?_) ?_
  · exact State.setReg_keeps ..
  · exact Keeps.refl _

theorem fusesDone_secLe (c : Sec) (m : Mbox) (code : Nat) : SecLe c (fusesDone c m code) := by
  unfold fusesDone
  split
  · exact SecLe.refl _
  · split
    · exact SecLe.same rfl rfl
    · split
      · rename_i h
        exact ⟨Nat.le_of_lt h.2, by simp only [← Nat.or_assoc, Nat.or_self]⟩
      · exact SecLe.refl _

theorem execMboxDone_keeps (s : State) : Kept s (execMboxDone s) := by
  unfold execMboxDone
  refine Kept.next ?_
  split
  · split
    · rename_i m _ _ code d _
      extract_lets +onlyGivenNames c z1
      have h1 : Keeps s z1 :=
        Keeps.mk' (Keeps.refl s) ⟨(fusesDone_secLe s.sec m code).arb, (fusesDone_secLe s.sec m code).revoke⟩ (Nat.le_refl _)
      exact ((h1.trans (State.mboxRsp_keeps ..)).trans (State.setReg_keeps ..)).trans (State.cause_keeps ..)
    · exact Keeps.refl _
  · exact Keeps.refl _


theorem State.rngData_keeps (s : State) (avail : Bool) : Keeps s (State.rngData s avail).2 := by
  unfold State.rngData
  refine Keeps.ite_snd (fun _ => ?_) (fun _ => ?_)
  · refine Keeps.mk_snd ?_
    exact State.generate_keeps ..
  · refine Keeps.mk_snd ?_
    exact Keeps.refl _

theorem execDrbgReseed_keeps (s : State) : Kept s (execDrbgReseed s) := by
  unfold execDrbgReseed
  refine Kept.next ?_
  refine Keeps.ite (fun _ => ?_) (fun _ => ?_)
  · exact Keeps.mk' (Keeps.refl _) (.same rfl rfl) le_rfl
  · exact Keeps.refl _

theorem execRngHealthFail_keeps (s : State) : Kept s (execRngHealthFail s) := by
  unfold execRngHealthFail
  refine Kept.next ?_
  refine Keeps.ite (fun _ => ?_) (fun _ => ?_)
  · exact Keeps.refl _
  · extract_lets +onlyGivenNames z1
    clear_value z1
    extract_lets +onlyGivenNames z2
    extract_lets +onlyGivenNames z3
    refine Keeps.cut (b := z3) ?_ ?_
    · unfold z3
      exact Keeps.mk' (Keeps.refl _) (.same rfl rfl) le_rfl
    · intro hz3
      refine (State.raise_keeps ..).of ?_
      exact (State.setRng_keeps ..).of ‹_›

theorem execNonceExpiry_keeps (s : State) : Kept s (execNonceExpiry s) := by
  unfold execNonceExpiry
  refine Kept.next ?_
  exact Keeps.mk' (Keeps.refl _) (.same rfl rfl) le_rfl

theorem State.doeSay_keeps (s : State) (r : SpdmRsp) : Keeps s (State.doeSay s r) := by
  unfold State.doeSay
  exact Keeps.mk' (Keeps.refl _) (.refl _) le_rfl

theorem State.onSpdm_keeps (s : State) (ok : Bool) (body : State → State) (h_body : ∀ (x0 : State), Keeps x0 (body x0)) : Keeps s (State.onSpdm s ok body) := by
  unfold State.onSpdm
  refine Keeps.ite (fun _ => ?_) (fun _ => ?_)
  · exact Keeps.refl _
  · refine Keeps.ite (fun _ => ?_) (fun _ => ?_)
    · exact h_body _
    · exact State.doeSay_keeps ..

theorem State.setSpdm_keeps (s : State) (x : SpdmSt) : Keeps s (State.setSpdm s x) := by
  unfold State.setSpdm
  exact Keeps.mk' (Keeps.refl _) (.same rfl rfl) le_rfl

theorem execSpdmGetVersion_keeps (s : State) : Kept s (execSpdmGetVersion s) := by
  unfold execSpdmGetVersion
  refine Kept.next ?_
  refine Keeps.trans ?_ (State.onSpdm_keeps (h_body := ?_) ..)
  · exact Keeps.refl _
  · intro _
    refine (State.doeSay_keeps ..).of ?_
    exact State.setSpdm_keeps ..

theorem execSpdmGetCapabilities_keeps (s : State) : Kept s (execSpdmGetCapabilities s) := by
  unfold execSpdmGetCapabilities
  refine Kept.next ?_
  refine Keeps.trans ?_ (State.onSpdm_keeps (h_body := ?_) ..)
  · exact Keeps.refl _
  · intro _
    refine (State.doeSay_keeps ..).of ?_
    exact State.setSpdm_keeps ..

theorem execSpdmNegotiateAlgorithms_keeps (offered : Bool) (s : State) : Kept s (execSpdmNegotiateAlgorithms offered s) := by
  unfold execSpdmNegotiateAlgorithms
  refine Kept.next ?_
  refine Keeps.trans ?_ (State.onSpdm_keeps (h_body := ?_) ..)
  · exact Keeps.refl _
  · intro _
    refine Keeps.ite (fun _ => ?_) (fun _ => ?_)
    · refine (State.doeSay_keeps ..).of ?_
      exact State.setSpdm_keeps ..
    · exact State.doeSay_keeps ..

theorem execSpdmGetDigests_keeps (len : Nat) (s : State) : Kept s (execSpdmGetDigests len s) := by
  unfold execSpdmGetDigests
  refine Kept.next ?_
  refine Keeps.trans ?_ (State.onSpdm_keeps (h_body := ?_) ..)
  · exact Keeps.refl _
  · intro _
    exact State.doeSay_keeps ..

theorem execSpdmGetCertificate_keeps (slot : Nat) (off : Nat) (len : Nat) (s : State) : Kept s (execSpdmGetCertificate slot off len s) := by
  unfold execSpdmGetCertificate
  refine Kept.next ?_
  refine Keeps.trans ?_ (State.onSpdm_keeps (h_body := ?_) ..)
  · exact Keeps.refl _
  · intro _
    refine Keeps.ite (fun _ => ?_) (fun _ => ?_)
    · exact State.doeSay_keeps ..
    · exact State.doeSay_keeps ..

theorem execSpdmChallenge_keeps (nonce : List Byte) (s : State) : Kept s (execSpdmChallenge nonce s) := by
  unfold execSpdmChallenge
  refine Kept.next ?_
  refine Keeps.trans ?_ (State.onSpdm_keeps (h_body := ?_) ..)
  · exact Keeps.refl _
  · intro _
    refine Keeps.ite (fun _ => ?_) (fun _ => ?_)
    · exact State.doeSay_keeps ..
    · refine (State.doeSay_keeps ..).of ?_
      exact State.generate_keeps ..

theorem execSpdmGetMeasurements_keeps (idx : Nat) (sign : Bool) (nonce : List Byte) (s : State) : Kept s (execSpdmGetMeasurements idx sign nonce s) := by
  unfold execSpdmGetMeasurements
  refine Kept.next ?_
  refine Keeps.trans ?_ (State.onSpdm_keeps (h_body := ?_) ..)
  · exact Keeps.refl _
  · intro _
    extract_lets +onlyGivenNames z1
    clear_value z1
    refine Keeps.ite (fun _ => ?_) (fun _ => ?_)
    · exact State.doeSay_keeps ..
    · refine Keeps.ite (fun _ => ?_) (fun _ => ?_)
      · exact State.doeSay_keeps ..
      · extract_lets +onlyGivenNames z2
        clear_value z2
        extract_lets +onlyGivenNames z3
        clear_value z3
        refine (State.doeSay_keeps ..).of ?_
        exact State.generate_keeps ..

theorem execSpdmKeyExchange_keeps (ok : Bool) (s : State) : Kept s (execSpdmKeyExchange ok s) := by
  unfold execSpdmKeyExchange
  refine Kept.next ?_
  refine Keeps.trans ?_ (State.onSpdm_keeps (h_body := ?_) ..)
  · exact Keeps.refl _
  · intro _
    refine Keeps.ite (fun _ => ?_) (fun _ => ?_)
    · exact State.doeSay_keeps ..
    · refine Keeps.ite (fun _ => ?_) (fun _ => ?_)
      · exact State.doeSay_keeps ..
      · refine (State.doeSay_keeps ..).of ?_
        refine (State.setSpdm_keeps ..).of ?_
        exact State.generate_keeps ..

theorem execSpdmFinish_keeps (ok : Bool) (s : State) : Kept s (execSpdmFinish ok s) := by
  unfold execSpdmFinish
  refine Kept.next ?_
  refine Keeps.trans ?_ (State.onSpdm_keeps (h_body := ?_) ..)
  · exact Keeps.refl _
  · intro _
    refine Keeps.ite (fun _ => ?_) (fun _ => ?_)
    · refine (State.doeSay_keeps ..).of ?_
      exact State.setSpdm_keeps ..
    · refine (State.doeSay_keeps ..).of ?_
      exact State.setSpdm_keeps ..

theorem execSpdmKeyUpdate_keeps (s : State) : Kept s (execSpdmKeyUpdate s) := by
  unfold execSpdmKeyUpdate
  refine Kept.next ?_
  refine Keeps.trans ?_ (State.onSpdm_keeps (h_body := ?_) ..)
  · exact Keeps.refl _
  · intro _
    exact State.doeSay_keeps ..

theorem execSpdmHeartbeat_keeps (s : State) : Kept s (execSpdmHeartbeat s) := by
  unfold execSpdmHeartbeat
  refine Kept.next ?_
  refine Keeps.trans ?_ (State.onSpdm_keeps (h_body := ?_) ..)
  · exact Keeps.refl _
  · intro _
    exact State.doeSay_keeps ..

theorem execSpdmEndSession_keeps (s : State) : Kept s (execSpdmEndSession s) := by
  unfold execSpdmEndSession
  refine Kept.next ?_
  refine Keeps.trans ?_ (State.onSpdm_keeps (h_body := ?_) ..)
  · exact Keeps.refl _
  · intro _
    refine (State.doeSay_keeps ..).of ?_
    exact State.setSpdm_keeps ..

end Sys2Proof.Machine
end

