-- ==== Sys2Proof/Laws/KeepsFirmware.lean ====
section
/-! SUPPORT. What the operations and commands of Machine/Firmware.lean keep: one lemma for each. -/

set_option Elab.async false
namespace Sys2Proof.Machine

theorem State.dropStaged_keeps (s : State) : Keeps s (State.dropStaged s) := by
  unfold State.dropStaged
  refine (State.setFw_keeps ..).of ?_
  exact Keeps.mk' (Keeps.refl _) (.refl _) le_rfl

theorem execFwStage_keeps (k : Nat) (img : Option Image) (cause : Nat) (s : State) : Kept s (execFwStage k img cause s) := by
  unfold execFwStage
  refine Kept.next ?_
  refine Keeps.trans ?_ (State.onReq_keeps (h_f := ?_) ..)
  · exact Keeps.refl _
  · intro _
    intro _
    extract_lets +onlyGivenNames z1
    clear_value z1
    extract_lets +onlyGivenNames z2
    clear_value z2
    refine Keeps.ite (fun _ => ?_) (fun _ => ?_)
    · exact State.respond_keeps ..
    · dsimp -zeta -zetaHave only
      refine Keeps.ite (fun _ => ?_) (fun _ => ?_)
      · refine (State.respond_keeps ..).of ?_
        refine (State.dropStaged_keeps ..).of ?_
        exact State.segs_keeps ..
      · split
        · refine Keeps.ite (fun _ => ?_) (fun _ => ?_)
          · refine (State.respond_keeps ..).of ?_
            refine (State.dropStaged_keeps ..).of ?_
            exact State.segs_keeps ..
          · exact State.segs_keeps ..
        · refine (State.setFw_keeps ..).of ?_
          extract_lets +onlyGivenNames z3
          refine Keeps.cut (b := z3) ?_ ?_
          · unfold z3
            refine (State.respondPending_keeps ..).of ?_
            exact State.segs_keeps ..
          · intro hz3
            exact Keeps.mk' ‹_› (.refl _) le_rfl

theorem execFwStageVerifyDone_keeps (s : State) : Kept s (execFwStageVerifyDone s) := by
  unfold execFwStageVerifyDone
  refine Kept.next ?_
  cases (s.fw.staged)
  · split
    · refine Keeps.ite (fun _ => ?_) (fun _ => ?_)
      · exact Keeps.refl _
      · extract_lets +onlyGivenNames z1
        extract_lets +onlyGivenNames z2
        clear_value z2
        refine Keeps.ite (fun _ => ?_) (fun _ => ?_)
        · unfold z1
          refine (State.finishLong_keeps ..).of ?_
          exact State.dropStaged_keeps ..
        · refine Keeps.ite (fun _ => ?_) (fun _ => ?_)
          · unfold z1
            refine (State.finishLong_keeps ..).of ?_
            exact State.dropStaged_keeps ..
          · refine Keeps.ite (fun _ => ?_) (fun _ => ?_)
            · unfold z1
              refine (State.finishLong_keeps ..).of ?_
              exact State.dropStaged_keeps ..
            · refine (State.finishLong_keeps ..).of ?_
              exact State.setFw_keeps ..
    · exact Keeps.refl _
  · split
    · refine Keeps.ite (fun _ => ?_) (fun _ => ?_)
      · exact Keeps.refl _
      · extract_lets +onlyGivenNames z1
        extract_lets +onlyGivenNames z2
        clear_value z2
        refine Keeps.ite (fun _ => ?_) (fun _ => ?_)
        · unfold z1
          refine (State.finishLong_keeps ..).of ?_
          exact State.dropStaged_keeps ..
        · refine Keeps.ite (fun _ => ?_) (fun _ => ?_)
          · unfold z1
            refine (State.finishLong_keeps ..).of ?_
            exact State.dropStaged_keeps ..
          · refine Keeps.ite (fun _ => ?_) (fun _ => ?_)
            · unfold z1
              refine (State.finishLong_keeps ..).of ?_
              exact State.dropStaged_keeps ..
            · refine (State.finishLong_keeps ..).of ?_
              exact State.setFw_keeps ..
    · exact Keeps.refl _

theorem execFwDiscard_keeps (k : Nat) (s : State) : Kept s (execFwDiscard k s) := by
  unfold execFwDiscard
  refine Kept.next ?_
  refine Keeps.trans ?_ (State.onReq_keeps (h_f := ?_) ..)
  · exact Keeps.refl _
  · intro _
    intro _
    refine Keeps.ite (fun _ => ?_) (fun _ => ?_)
    · exact State.respond_keeps ..
    · split
      · exact State.respond_keeps ..
      · refine (State.respond_keeps ..).of ?_
        exact State.dropStaged_keeps ..
      · refine (State.respond_keeps ..).of ?_
        exact Keeps.mk' (Keeps.refl _) (.refl _) le_rfl

theorem execFwActivate_keeps (k : Nat) (s : State) : Kept s (execFwActivate k s) := by
  unfold execFwActivate
  refine Kept.next ?_
  refine Keeps.trans ?_ (State.onReq_keeps (h_f := ?_) ..)
  · exact Keeps.refl _
  · intro _
    intro _
    refine Keeps.ite (fun _ => ?_) (fun _ => ?_)
    · exact State.respond_keeps ..
    · refine Keeps.ite (fun _ => ?_) (fun _ => ?_)
      · exact State.respond_keeps ..
      · extract_lets +onlyGivenNames z1
        refine Keeps.cut (b := z1) ?_ ?_
        · unfold z1
          exact State.respondPending_keeps ..
        · intro hz1
          refine (State.setFw_keeps ..).of ?_
          exact Keeps.mk' ‹_› (.refl _) le_rfl

theorem State.setLong_keeps (s : State) (k : Nat) (f : Long → Long) : Keeps s (State.setLong s k f) := by
  unfold State.setLong
  exact State.setRings_keeps ..

theorem execFwActivateBoundary_keeps (s : State) : Kept s (execFwActivateBoundary s) := by
  unfold execFwActivateBoundary
  refine Kept.next ?_
  split
  · refine Keeps.ite (fun _ => ?_) (fun _ => ?_)
    · exact Keeps.refl _
    · refine (State.setLong_keeps ..).of ?_
      exact Keeps.mk' (Keeps.refl _) (.refl _) le_rfl
  · exact Keeps.refl _

theorem State.releasePaused_keeps (s : State) : Keeps s (State.releasePaused s) := by
  unfold State.releasePaused
  refine Keeps.foldl (fun _ _ => ?_) ?_
  · refine Keeps.ite (fun _ => ?_) (fun _ => ?_)
    · exact Keeps.refl _
    · refine (State.setBeacon_keeps ..).of ?_
      exact State.releaseBeacon_keeps ..
  · exact Keeps.refl _

theorem State.announceFw_keeps (s : State) (old : W64) (new : W64) : Keeps s (State.announceFw s old new) := by
  unfold State.announceFw
  refine Keeps.foldl (fun _ _ => ?_) ?_
  · exact State.postEvent_keeps ..
  · exact Keeps.refl _

theorem execFwSwapCommit_keeps (s : State) : Kept s (execFwSwapCommit s) := by
  unfold execFwSwapCommit
  refine Kept.next ?_
  cases (s.fw.actBy)
  · dsimp -zeta -zetaHave only
    exact Keeps.refl _
  · cases (s.fw.staged)
    · dsimp -zeta -zetaHave only
      exact Keeps.refl _
    · dsimp -zeta -zetaHave only
      refine Keeps.ite (fun _ => ?_) (fun _ => ?_)
      · exact Keeps.refl _
      · extract_lets +onlyGivenNames z1
        clear_value z1
        extract_lets +onlyGivenNames z2
        clear_value z2
        extract_lets +onlyGivenNames z3
        clear_value z3
        extract_lets +onlyGivenNames z4
        clear_value z4
        extract_lets +onlyGivenNames z5
        refine Keeps.cut (b := z5) ?_ ?_
        · unfold z5
          exact State.extend_keeps ..
        · intro hz5
          extract_lets +onlyGivenNames z6
          extract_lets +onlyGivenNames z7
          clear_value z7
          extract_lets +onlyGivenNames z8
          refine Keeps.cut (b := z8) ?_ ?_
          · unfold z8
            exact Keeps.mk' ‹_› (.same rfl rfl) le_rfl
          · intro hz8
            extract_lets +onlyGivenNames z9
            refine Keeps.cut (b := z9) ?_ ?_
            · unfold z9
              refine (State.releasePaused_keeps ..).of ?_
              refine (State.setFw_keeps ..).of ?_
              exact (State.setReg_keeps ..).of ‹_›
            · intro hz9
              extract_lets +onlyGivenNames z10
              refine Keeps.cut (b := z10) ?_ ?_
              · unfold z10
                exact (State.finishLong_keeps ..).of ‹_›
              · intro hz10
                refine (State.kick_keeps ..).of ?_
                refine (State.negotiateAll_keeps ..).of ?_
                exact (State.announceFw_keeps ..).of ‹_›

theorem execActivateWindowExpiry_keeps (s : State) : Kept s (execActivateWindowExpiry s) := by
  unfold execActivateWindowExpiry
  refine Kept.next ?_
  split
  · refine Keeps.ite (fun _ => ?_) (fun _ => ?_)
    · exact Keeps.refl _
    · extract_lets +onlyGivenNames z1
      clear_value z1
      extract_lets +onlyGivenNames z2
      clear_value z2
      extract_lets +onlyGivenNames z3
      clear_value z3
      extract_lets +onlyGivenNames z4
      refine Keeps.cut (b := z4) ?_ ?_
      · unfold z4
        exact Keeps.mk' (Keeps.refl _) (.refl _) le_rfl
      · intro hz4
        extract_lets +onlyGivenNames z5
        refine Keeps.cut (b := z5) ?_ ?_
        · unfold z5
          refine (State.setFw_keeps ..).of ?_
          exact (State.setReg_keeps ..).of ‹_›
        · intro hz5
          exact (State.finishLong_keeps ..).of ‹_›
  · exact Keeps.refl _

theorem execFwPersist_keeps (k : Nat) (s : State) : Kept s (execFwPersist k s) := by
  unfold execFwPersist
  refine Kept.next ?_
  refine Keeps.trans ?_ (State.onReq_keeps (h_f := ?_) ..)
  · exact Keeps.refl _
  · intro _
    intro _
    refine Keeps.ite (fun _ => ?_) (fun _ => ?_)
    · exact State.respond_keeps ..
    · refine Keeps.ite (fun _ => ?_) (fun _ => ?_)
      · exact State.respond_keeps ..
      · refine (State.setFw_keeps ..).of ?_
        exact State.respondPending_keeps ..

theorem execFwPersistDone_keeps (ok : Bool) (s : State) : Kept s (execFwPersistDone ok s) := by
  unfold execFwPersistDone
  refine Kept.next ?_
  cases ((s.ringsOf 0).long)
  · dsimp -zeta -zetaHave only
    exact Keeps.refl _
  · cases (s.sec.flash)
    · dsimp -zeta -zetaHave only
      exact Keeps.refl _
    · dsimp -zeta -zetaHave only
      refine Keeps.ite (fun _ => ?_) (fun _ => ?_)
      · exact Keeps.refl _
      · extract_lets +onlyGivenNames z1
        clear_value z1
        extract_lets +onlyGivenNames z2
        clear_value z2
        extract_lets +onlyGivenNames z3
        split
        · refine (State.finishLong_keeps ..).of ?_
          exact State.setFw_keeps ..
        · extract_lets +onlyGivenNames z4
          clear_value z4
          extract_lets +onlyGivenNames z5
          refine Keeps.cut (b := z5) ?_ ?_
          · unfold z5
            refine Keeps.ite (fun _ => ?_) (fun _ => ?_)
            · exact Keeps.refl _
            · refine (State.bumpFree_keeps ..).of ?_
              exact State.bumpFree_keeps ..
          · intro hz5
            refine Keeps.ite (fun _ => ?_) (fun _ => ?_)
            · extract_lets +onlyGivenNames z6
              clear_value z6
              refine (State.finishLong_keeps ..).of ?_
              unfold z3
              refine (State.setFw_keeps ..).of ?_
              exact Keeps.mk' ‹_› (.same rfl rfl) le_rfl
            · refine (State.finishLong_keeps ..).of ?_
              refine (State.drawBytes_keeps ..).of ?_
              unfold z3
              refine (State.setFw_keeps ..).of ?_
              exact Keeps.mk' ‹_› (.same rfl rfl) le_rfl

theorem State.headBlack_keeps (s : State) (d : Nat) : Keeps s (State.headBlack s d) := by
  unfold State.headBlack
  extract_lets +onlyGivenNames z1
  clear_value z1
  refine (State.holdEnd_keeps ..).of ?_
  exact State.setHead_keeps ..

theorem execPrepareRemoval_keeps (k : Nat) (s : State) : Kept s (execPrepareRemoval k s) := by
  unfold execPrepareRemoval
  refine Kept.next ?_
  refine Keeps.trans ?_ (State.onReq_keeps (h_f := ?_) ..)
  · exact Keeps.refl _
  · intro _
    intro _
    refine Keeps.ite (fun _ => ?_) (fun _ => ?_)
    · exact State.respond_keeps ..
    · extract_lets +onlyGivenNames z1
      refine Keeps.cut (b := z1) ?_ ?_
      · unfold z1
        exact State.respondPending_keeps ..
      · intro hz1
        refine (State.headBlack_keeps ..).of ?_
        refine (State.headBlack_keeps ..).of ?_
        exact Keeps.mk' ‹_› (.refl _) le_rfl

theorem execPrepareRemovalDone_keeps (s : State) : Kept s (execPrepareRemovalDone s) := by
  unfold execPrepareRemovalDone
  refine Kept.next ?_
  split
  · refine Keeps.ite (fun _ => ?_) (fun _ => ?_)
    · exact Keeps.refl _
    · extract_lets +onlyGivenNames z1
      refine Keeps.cut (b := z1) ?_ ?_
      · unfold z1
        exact State.finishLong_keeps ..
      · intro hz1
        exact Keeps.mk' ‹_› (.refl _) le_rfl
  · exact Keeps.refl _

theorem execAttestQuote_keeps (k : Nat) (s : State) : Kept s (execAttestQuote k s) := by
  unfold execAttestQuote
  refine Kept.next ?_
  refine Keeps.trans ?_ (State.onReq_keeps (h_f := ?_) ..)
  · exact Keeps.refl _
  · intro _
    intro _
    extract_lets +onlyGivenNames z1
    clear_value z1
    refine Keeps.ite (fun _ => ?_) (fun _ => ?_)
    · exact State.respond_keeps ..
    · dsimp -zeta -zetaHave only
      refine Keeps.ite (fun _ => ?_) (fun _ => ?_)
      · refine (State.respond_keeps ..).of ?_
        exact State.segs_keeps ..
      · refine Keeps.ite (fun _ => ?_) (fun _ => ?_)
        · refine (State.respond_keeps ..).of ?_
          exact State.segs_keeps ..
        · refine (State.respondPending_keeps ..).of ?_
          exact State.segs_keeps ..

theorem execAttestQuoteSigned_keeps (k : Nat) (s : State) : Kept s (execAttestQuoteSigned k s) := by
  unfold execAttestQuoteSigned
  refine Kept.next ?_
  split
  · refine Keeps.ite (fun _ => ?_) (fun _ => ?_)
    · exact Keeps.refl _
    · extract_lets +onlyGivenNames z1
      clear_value z1
      split
      · refine (State.finishLong_keeps ..).of ?_
        refine Keeps.ite (fun _ => ?_) (fun _ => ?_)
        · refine (Keeps.fst (State.segs_keeps ..) (by assumption)).of ?_
          exact Keeps.refl _
        · refine (State.segWrite_keeps ..).of ?_
          refine (Keeps.fst (State.segs_keeps ..) (by assumption)).of ?_
          exact Keeps.refl _
      · refine (State.finishLong_keeps ..).of ?_
        refine (Keeps.fst (State.segs_keeps ..) (by assumption)).of ?_
        exact Keeps.refl _
  · exact Keeps.refl _

theorem State.fwAssert_keeps (s : State) (core : Nat) (detail : Nat) : Keeps s (State.fwAssert s core detail) := by
  unfold State.fwAssert
  exact State.enqueueFault_keeps ..

theorem execFwWatchdogExpiry_keeps (core : Nat) (s : State) : Kept s (execFwWatchdogExpiry core s) := by
  unfold execFwWatchdogExpiry
  refine Kept.next ?_
  refine Keeps.ite (fun _ => ?_) (fun _ => ?_)
  · exact Keeps.refl _
  · exact State.fwAssert_keeps ..

end Sys2Proof.Machine
end

