-- ==== Sys2Proof/Laws/KeepsTrim.lean ====
section
/-! SUPPORT. What the operations and commands of Machine/Trim.lean keep: one lemma for each. -/

set_option Elab.async false
namespace Sys2Proof.Machine

theorem State.setTrim_keeps (s : State) (f : Trim → Trim) : Keeps s (State.setTrim s f) := by
  unfold State.setTrim
  exact Keeps.mk' (Keeps.refl _) (.refl _) le_rfl

theorem execPowerCapSet_keeps (k : Nat) (s : State) : Kept s (execPowerCapSet k s) := by
  unfold execPowerCapSet
  refine Kept.next ?_
  refine Keeps.trans ?_ (State.onReq_keeps (h_f := ?_) ..)
  · exact Keeps.refl _
  · intro _
    intro _
    extract_lets +onlyGivenNames z1
    clear_value z1
    refine Keeps.ite (fun _ => ?_) (fun _ => ?_)
    · exact State.respond_keeps ..
    · refine (State.respond_keeps ..).of ?_
      exact State.setTrim_keeps ..

theorem execQuietLimitSet_keeps (k : Nat) (s : State) : Kept s (execQuietLimitSet k s) := by
  unfold execQuietLimitSet
  refine Kept.next ?_
  refine Keeps.trans ?_ (State.onReq_keeps (h_f := ?_) ..)
  · exact Keeps.refl _
  · intro _
    intro _
    extract_lets +onlyGivenNames z1
    clear_value z1
    extract_lets +onlyGivenNames z2
    clear_value z2
    refine Keeps.ite (fun _ => ?_) (fun _ => ?_)
    · exact State.respond_keeps ..
    · refine (State.respond_keeps ..).of ?_
      exact State.setTrim_keeps ..

theorem execCadenceFloorSet_keeps (k : Nat) (s : State) : Kept s (execCadenceFloorSet k s) := by
  unfold execCadenceFloorSet
  refine Kept.next ?_
  refine Keeps.trans ?_ (State.onReq_keeps (h_f := ?_) ..)
  · exact Keeps.refl _
  · intro _
    intro _
    extract_lets +onlyGivenNames z1
    clear_value z1
    refine Keeps.ite (fun _ => ?_) (fun _ => ?_)
    · exact State.respond_keeps ..
    · refine (State.respond_keeps ..).of ?_
      exact State.setTrim_keeps ..

theorem execTelemRead_keeps (k : Nat) (s : State) : Kept s (execTelemRead k s) := by
  unfold execTelemRead
  refine Kept.next ?_
  refine Keeps.trans ?_ (State.onReq_keeps (h_f := ?_) ..)
  · exact Keeps.refl _
  · intro _
    intro _
    extract_lets +onlyGivenNames z1
    clear_value z1
    extract_lets +onlyGivenNames z2
    clear_value z2
    refine Keeps.ite (fun _ => ?_) (fun _ => ?_)
    · exact State.respond_keeps ..
    · refine Keeps.ite (fun _ => ?_) (fun _ => ?_)
      · exact State.respond_keeps ..
      · exact State.respond_keeps ..

theorem State.vout_keeps (s : State) (want : Nat) : Keeps s (State.vout s want) := by
  unfold State.vout
  extract_lets +onlyGivenNames z1
  clear_value z1
  split
  · exact Keeps.mk' (Keeps.refl _) (.refl _) le_rfl
  · refine Keeps.ite (fun _ => ?_) (fun _ => ?_)
    · exact Keeps.refl _
    · extract_lets +onlyGivenNames z2
      clear_value z2
      exact Keeps.mk' (Keeps.refl _) (.refl _) le_rfl

theorem execVrSettleExpiry_keeps (s : State) : Kept s (execVrSettleExpiry s) := by
  unfold execVrSettleExpiry
  refine Kept.next ?_
  split
  · extract_lets +onlyGivenNames z1
    clear_value z1
    extract_lets +onlyGivenNames z2
    refine Keeps.cut (b := z2) ?_ ?_
    · unfold z2
      exact Keeps.mk' (Keeps.refl _) (.refl _) le_rfl
    · intro hz2
      refine Keeps.ite (fun _ => ?_) (fun _ => ?_)
      · exact (State.vout_keeps ..).of ‹_›
      · assumption
  · exact Keeps.refl _

theorem execVrTransactionFail_keeps (s : State) : Kept s (execVrTransactionFail s) := by
  unfold execVrTransactionFail
  refine Kept.next ?_
  refine Keeps.ite (fun _ => ?_) (fun _ => ?_)
  · exact Keeps.refl _
  · split
    · refine (State.fwAssert_keeps ..).of ?_
      exact Keeps.mk' (Keeps.refl _) (.refl _) le_rfl
    · exact State.fwAssert_keeps ..

theorem execVrAlert_keeps (s : State) : Kept s (execVrAlert s) := by
  unfold execVrAlert
  refine Kept.next ?_
  refine Keeps.ite (fun _ => ?_) (fun _ => ?_)
  · exact State.logRec_keeps ..
  · exact Keeps.refl _

theorem State.mapCclk_keeps (s : State) (f : Nat → Cclk → Cclk) : Keeps s (State.mapCclk s f) := by
  unfold State.mapCclk
  exact Keeps.mk' (Keeps.refl _) (.refl _) le_rfl

theorem State.onCclk_keeps (s : State) (n : Nat) (f : Cclk → Cclk) : Keeps s (State.onCclk s n f) := by
  unfold State.onCclk
  exact State.mapCclk_keeps ..

theorem execDroopDetect_keeps (n : Nat) (s : State) : Kept s (execDroopDetect n s) := by
  unfold execDroopDetect
  refine Kept.next ?_
  refine Keeps.ite (fun _ => ?_) (fun _ => ?_)
  · exact Keeps.refl _
  · refine (State.countField_keeps ..).of ?_
    exact State.onCclk_keeps ..

theorem execOvercurrentDetect_keeps (s : State) : Kept s (execOvercurrentDetect s) := by
  unfold execOvercurrentDetect
  extract_lets +onlyGivenNames z1
  clear_value z1
  refine Kept.next ?_
  refine Keeps.ite (fun _ => ?_) (fun _ => ?_)
  · exact Keeps.refl _
  · refine (State.countField_keeps ..).of ?_
    exact State.mapCclk_keeps ..

theorem execStretchEnd_keeps (n : Nat) (s : State) : Kept s (execStretchEnd n s) := by
  unfold execStretchEnd
  refine Kept.next ?_
  exact State.onCclk_keeps ..

theorem execThermalClamp_keeps (s : State) : Kept s (execThermalClamp s) := by
  unfold execThermalClamp
  refine Kept.next ?_
  refine Keeps.ite (fun _ => ?_) (fun _ => ?_)
  · exact Keeps.refl _
  · extract_lets +onlyGivenNames z1
    refine Keeps.cut (b := z1) ?_ ?_
    · unfold z1
      exact State.setTrim_keeps ..
    · intro hz1
      extract_lets +onlyGivenNames z2
      refine Keeps.cut (b := z2) ?_ ?_
      · unfold z2
        exact (State.mapCclk_keeps ..).of ‹_›
      · intro hz2
        refine (State.cause_keeps ..).of ?_
        exact (State.countField_keeps ..).of ‹_›

theorem execClampRelease_keeps (s : State) : Kept s (execClampRelease s) := by
  unfold execClampRelease
  refine Kept.next ?_
  exact State.setTrim_keeps ..

theorem execThermTrip_keeps (s : State) : Kept s (execThermTrip s) := by
  unfold execThermTrip
  refine Kept.next ?_
  refine Keeps.ite (fun _ => ?_) (fun _ => ?_)
  · exact Keeps.refl _
  · refine (State.raise_keeps ..).of ?_
    exact Keeps.mk' (Keeps.refl _) (.refl _) le_rfl

theorem execRailFault_keeps (s : State) : Kept s (execRailFault s) := by
  unfold execRailFault
  refine Kept.next ?_
  refine Keeps.ite (fun _ => ?_) (fun _ => ?_)
  · exact Keeps.refl _
  · exact State.raise_keeps ..

theorem State.fanDemand_keeps (s : State) (h : Int) : Keeps s (State.fanDemand s h).2 := by
  unfold State.fanDemand
  refine Keeps.ite_snd (fun _ => ?_) (fun _ => ?_)
  · refine Keeps.mk_snd ?_
    exact Keeps.refl _
  · refine Keeps.ite_snd (fun _ => ?_) (fun _ => ?_)
    · refine Keeps.mk_snd ?_
      exact Keeps.refl _
    · extract_lets +onlyGivenNames z1
      clear_value z1
      refine Keeps.ite_snd (fun _ => ?_) (fun _ => ?_)
      · refine Keeps.mk_snd ?_
        exact Keeps.refl _
      · refine Keeps.mk_snd ?_
        exact State.bumpFree_keeps ..

theorem State.conflictEvent_keeps (s : State) (c : Conflict) (phase : Nat) : Keeps s (State.conflictEvent s c phase) := by
  unfold State.conflictEvent
  refine (State.cause_keeps ..).of ?_
  exact State.postEvent_keeps ..

theorem State.conflictEnd_keeps (s : State) : Keeps s (State.conflictEnd s) := by
  unfold State.conflictEnd
  split
  · refine (State.setTrim_keeps ..).of ?_
    exact State.conflictEvent_keeps ..
  · exact Keeps.refl _

theorem State.conflictStart_keeps (s : State) (c : Conflict) : Keeps s (State.conflictStart s c) := by
  unfold State.conflictStart
  extract_lets +onlyGivenNames z1
  refine Keeps.cut (b := z1) ?_ ?_
  · unfold z1
    refine (State.raise_keeps ..).of ?_
    exact State.setTrim_keeps ..
  · intro hz1
    refine (State.count_keeps ..).of ?_
    exact (State.conflictEvent_keeps ..).of ‹_›

theorem State.conflictStep_keeps (s : State) (conf : Option (Nat × Nat × BitVec 16)) : Keeps s (State.conflictStep s conf) := by
  unfold State.conflictStep
  cases conf
  · dsimp -zeta -zetaHave only
    exact State.conflictEnd_keeps ..
  · cases (s.trim.conflict)
    · dsimp -zeta -zetaHave only
      exact State.conflictStart_keeps ..
    · dsimp -zeta -zetaHave only
      refine Keeps.ite (fun _ => ?_) (fun _ => ?_)
      · exact State.setTrim_keeps ..
      · refine (State.conflictStart_keeps ..).of ?_
        exact State.conflictEnd_keeps ..

theorem State.trimPass_keeps (s : State) (p1 : Nat) (p10 : Nat) (want : List Nat) (table : List Nat) (lim : Nat) (conf : Option (Nat × Nat × Nat)) : Keeps s (State.trimPass s p1 p10 want table lim conf) := by
  unfold State.trimPass
  extract_lets +onlyGivenNames z1
  clear_value z1
  extract_lets +onlyGivenNames z2
  refine Keeps.cut (b := z2) ?_ ?_
  · unfold z2
    exact State.setTrim_keeps ..
  · intro hz2
    extract_lets +onlyGivenNames z3
    clear_value z3
    extract_lets +onlyGivenNames z4
    clear_value z4
    extract_lets +onlyGivenNames z5
    refine Keeps.cut (b := z5.2) ?_ ?_
    · unfold z5
      exact (State.fanDemand_keeps ..).of ‹_›
    · intro hz5
      extract_lets +onlyGivenNames z6
      refine Keeps.cut (b := z6) ?_ ?_
      · unfold z6
        assumption
      · intro hz6
        extract_lets +onlyGivenNames z7
        clear_value z7
        extract_lets +onlyGivenNames z8
        clear_value z8
        extract_lets +onlyGivenNames z9
        clear_value z9
        extract_lets +onlyGivenNames z10
        clear_value z10
        extract_lets +onlyGivenNames z11
        clear_value z11
        extract_lets +onlyGivenNames z12
        clear_value z12
        extract_lets +onlyGivenNames z13
        clear_value z13
        extract_lets +onlyGivenNames z14
        clear_value z14
        extract_lets +onlyGivenNames z15
        clear_value z15
        extract_lets +onlyGivenNames z16
        clear_value z16
        extract_lets +onlyGivenNames z17
        clear_value z17
        extract_lets +onlyGivenNames z18
        refine Keeps.cut (b := z18) ?_ ?_
        · unfold z18
          exact (State.conflictStep_keeps ..).of ‹_›
        · intro hz18
          extract_lets +onlyGivenNames z19
          clear_value z19
          extract_lets +onlyGivenNames z20
          clear_value z20
          extract_lets +onlyGivenNames z21
          refine Keeps.cut (b := z21) ?_ ?_
          · unfold z21
            refine Keeps.ite (fun _ => ?_) (fun _ => ?_)
            · refine (State.cause_keeps ..).of ?_
              exact (State.countField_keeps ..).of ‹_›
            · assumption
          · intro hz21
            extract_lets +onlyGivenNames z22
            refine Keeps.cut (b := z22) ?_ ?_
            · unfold z22
              exact (State.setTrim_keeps ..).of ‹_›
            · intro hz22
              extract_lets +onlyGivenNames z23
              refine Keeps.cut (b := z23) ?_ ?_
              · unfold z23
                exact (State.mapCclk_keeps ..).of ‹_›
              · intro hz23
                extract_lets +onlyGivenNames z24
                refine Keeps.cut (b := z24) ?_ ?_
                · unfold z24
                  exact (State.setDividers_keeps ..).of ‹_›
                · intro hz24
                  extract_lets +onlyGivenNames z25
                  refine Keeps.cut (b := z25) ?_ ?_
                  · unfold z25
                    exact (State.vout_keeps ..).of ‹_›
                  · intro hz25
                    exact Keeps.mk' ‹_› (.refl _) le_rfl

theorem execTrimLoop_keeps (p1 : Nat) (p10 : Nat) (want : List Nat) (table : List Nat) (lim : Nat) (conf : Option (Nat × Nat × Nat)) (s : State) : Kept s (execTrimLoop p1 p10 want table lim conf s) := by
  unfold execTrimLoop
  refine Kept.next ?_
  refine Keeps.ite (fun _ => ?_) (fun _ => ?_)
  · exact State.trimPass_keeps ..
  · exact Keeps.refl _

theorem execLendingWindow_keeps (s : State) : Kept s (execLendingWindow s) := by
  unfold execLendingWindow
  refine Kept.next ?_
  refine Keeps.ite (fun _ => ?_) (fun _ => ?_)
  · exact Keeps.refl _
  · extract_lets +onlyGivenNames z1
    clear_value z1
    extract_lets +onlyGivenNames z2
    clear_value z2
    extract_lets +onlyGivenNames z3
    refine Keeps.cut (b := z3) ?_ ?_
    · unfold z3
      exact State.setTrim_keeps ..
    · intro hz3
      extract_lets +onlyGivenNames z4
      refine Keeps.cut (b := z4) ?_ ?_
      · unfold z4
        refine Keeps.ite (fun _ => ?_) (fun _ => ?_)
        · exact (State.count_keeps ..).of ‹_›
        · assumption
      · intro hz4
        exact (State.setDividers_keeps ..).of ‹_›

theorem execTelemetrySample_keeps (vals : List (BitVec 16)) (held : List Nat) (s : State) : Kept s (execTelemetrySample vals held s) := by
  unfold execTelemetrySample
  refine Kept.next ?_
  refine Keeps.ite (fun _ => ?_) (fun _ => ?_)
  · exact Keeps.refl _
  · extract_lets +onlyGivenNames z1
    clear_value z1
    extract_lets +onlyGivenNames z2
    clear_value z2
    extract_lets +onlyGivenNames z3
    refine Keeps.cut (b := z3.2) ?_ ?_
    · unfold z3
      exact State.fanDemand_keeps ..
    · intro hz3
      extract_lets +onlyGivenNames z4
      clear_value z4
      extract_lets +onlyGivenNames z5
      clear_value z5
      exact (State.setTrim_keeps ..).of ‹_›

theorem State.scrubFind_keeps (s : State) (u : Nat) (cmem : Bool) : Keeps s (State.scrubFind s u cmem) := by
  unfold State.scrubFind
  refine Keeps.ite (fun _ => ?_) (fun _ => ?_)
  · refine (State.bumpFree_keeps ..).of ?_
    refine (State.raiseAs_keeps ..).of ?_
    exact State.countField_keeps ..
  · refine (State.bumpFree_keeps ..).of ?_
    refine (State.raiseAs_keeps ..).of ?_
    exact State.sliceEcc_keeps ..

theorem execBgStepTake_keeps (t : Nat) (u : Nat) (cmem : Bool) (found : Bool) (s : State) : Kept s (execBgStepTake t u cmem found s) := by
  unfold execBgStepTake
  refine Kept.next ?_
  refine Keeps.ite (fun _ => ?_) (fun _ => ?_)
  · exact State.scrubFind_keeps ..
  · exact Keeps.refl _

theorem execBgForced_keeps (t : Nat) (u : Nat) (first : Bool) (s : State) : Kept s (execBgForced t u first s) := by
  unfold execBgForced
  refine Kept.next ?_
  refine Keeps.ite (fun _ => ?_) (fun _ => ?_)
  · exact Keeps.refl _
  · extract_lets +onlyGivenNames z1
    refine Keeps.cut (b := z1) ?_ ?_
    · unfold z1
      exact State.count_keeps ..
    · intro hz1
      extract_lets +onlyGivenNames z2
      refine Keeps.cut (b := z2) ?_ ?_
      · unfold z2
        split
        · refine (State.cause_keeps ..).of ?_
          exact (Keeps.snd (State.captureAt_keeps ..) (by assumption)).of ‹_›
        · exact (Keeps.snd (State.captureAt_keeps ..) (by assumption)).of ‹_›
      · intro hz2
        refine Keeps.ite (fun _ => ?_) (fun _ => ?_)
        · exact (State.raise_keeps ..).of ‹_›
        · assumption

theorem execHbmPatrolStep_keeps (u : Nat) (err : Ecc) (s : State) : Kept s (execHbmPatrolStep u err s) := by
  unfold execHbmPatrolStep
  refine Kept.next ?_
  refine Keeps.ite (fun _ => ?_) (fun _ => ?_)
  · exact Keeps.refl _
  · extract_lets +onlyGivenNames z1
    clear_value z1
    extract_lets +onlyGivenNames z2
    clear_value z2
    extract_lets +onlyGivenNames z3
    refine Keeps.cut (b := z3) ?_ ?_
    · unfold z3
      split
      · exact Keeps.refl _
      · exact State.eccFind_keeps ..
      · refine Keeps.ite (fun _ => ?_) (fun _ => ?_)
        · exact Keeps.refl _
        · refine (State.raiseAs_keeps ..).of ?_
          exact State.eccFind_keeps ..
    · intro hz3
      exact (State.setTrim_keeps ..).of ‹_›

theorem execCrackLoopMeasure_keeps (res : Option W) (s : State) : Kept s (execCrackLoopMeasure res s) := by
  unfold execCrackLoopMeasure
  refine Kept.next ?_
  refine Keeps.ite (fun _ => ?_) (fun _ => ?_)
  · exact Keeps.refl _
  · split
    · refine (State.raise_keeps ..).of ?_
      exact State.setTrim_keeps ..
    · extract_lets +onlyGivenNames z1
      clear_value z1
      extract_lets +onlyGivenNames z2
      refine Keeps.cut (b := z2) ?_ ?_
      · unfold z2
        exact State.setTrim_keeps ..
      · intro hz2
        extract_lets +onlyGivenNames z3
        clear_value z3
        refine Keeps.ite (fun _ => ?_) (fun _ => ?_)
        · refine (State.raise_keeps ..).of ?_
          exact (State.setTrim_keeps ..).of ‹_›
        · assumption

theorem execMctpEidAssign_keeps (eid : Nat) (s : State) : Kept s (execMctpEidAssign eid s) := by
  unfold execMctpEidAssign
  refine Kept.next ?_
  refine Keeps.ite (fun _ => ?_) (fun _ => ?_)
  · refine (State.answer_keeps ..).of ?_
    exact State.setTrim_keeps ..
  · exact State.answer_keeps ..

theorem execMctpControlMessage_keeps (cmd : Nat) (s : State) : Kept s (execMctpControlMessage cmd s) := by
  unfold execMctpControlMessage
  refine Kept.next ?_
  refine Keeps.ite (fun _ => ?_) (fun _ => ?_)
  · exact State.answer_keeps ..
  · refine Keeps.ite (fun _ => ?_) (fun _ => ?_)
    · exact State.answer_keeps ..
    · refine Keeps.ite (fun _ => ?_) (fun _ => ?_)
      · exact State.answer_keeps ..
      · refine (State.answer_keeps ..).of ?_
        exact State.bumpFree_keeps ..

theorem execPldmSensorRead_keeps (id : Nat) (s : State) : Kept s (execPldmSensorRead id s) := by
  unfold execPldmSensorRead
  refine Kept.next ?_
  refine Keeps.ite (fun _ => ?_) (fun _ => ?_)
  · exact State.answer_keeps ..
  · refine Keeps.ite (fun _ => ?_) (fun _ => ?_)
    · exact State.answer_keeps ..
    · exact State.answer_keeps ..

theorem execPldmEffecterSet_keeps (id : Nat) (v : Nat) (s : State) : Kept s (execPldmEffecterSet id v s) := by
  unfold execPldmEffecterSet
  refine Kept.next ?_
  refine Keeps.ite (fun _ => ?_) (fun _ => ?_)
  · exact State.answer_keeps ..
  · refine Keeps.ite (fun _ => ?_) (fun _ => ?_)
    · exact State.answer_keeps ..
    · refine Keeps.ite (fun _ => ?_) (fun _ => ?_)
      · refine Keeps.ite (fun _ => ?_) (fun _ => ?_)
        · exact State.answer_keeps ..
        · refine (State.answer_keeps ..).of ?_
          exact State.setTrim_keeps ..
      · exact State.answer_keeps ..

end Sys2Proof.Machine
end

