-- ==== Sys2Proof/Laws/KeepsCollector.lean ====
section
/-! SUPPORT. What the operations and commands of Machine/Collector.lean keep: one lemma for each. -/

set_option Elab.async false
namespace Sys2Proof.Machine

theorem State.writeRec_keeps (s : State) (r : FRec) (ring : Bool) : Keeps s (State.writeRec s r ring) := by
  unfold State.writeRec
  extract_lets +onlyGivenNames z1
  clear_value z1
  refine Keeps.ite (fun _ => ?_) (fun _ => ?_)
  · exact Keeps.mk' (Keeps.refl _) (.refl _) le_rfl
  · extract_lets +onlyGivenNames z2
    clear_value z2
    extract_lets +onlyGivenNames z3
    clear_value z3
    extract_lets +onlyGivenNames z4
    refine Keeps.cut (b := z4) ?_ ?_
    · unfold z4
      refine Keeps.ite (fun _ => ?_) (fun _ => ?_)
      · exact State.count_keeps ..
      · exact Keeps.refl _
    · intro hz4
      extract_lets +onlyGivenNames z5
      clear_value z5
      extract_lets +onlyGivenNames z6
      clear_value z6
      extract_lets +onlyGivenNames z7
      refine Keeps.cut (b := z7) ?_ ?_
      · unfold z7
        exact Keeps.mk' ‹_› (.refl _) le_rfl
      · intro hz7
        extract_lets +onlyGivenNames z8
        refine Keeps.cut (b := z8) ?_ ?_
        · unfold z8
          exact (State.cause_keeps ..).of ‹_›
        · intro hz8
          refine Keeps.ite (fun _ => ?_) (fun _ => ?_)
          · refine (State.cause_keeps ..).of ?_
            exact (State.count_keeps ..).of ‹_›
          · assumption

theorem State.noteFault_keeps (s : State) (k : Nat) (code : Nat) (hwq : Option Nat) : Keeps s (State.noteFault s k code hwq) := by
  unfold State.noteFault
  refine (State.cause_keeps ..).of ?_
  exact State.capture31_keeps ..

theorem State.countL2_keeps (s : State) (k : Nat) (code : Nat) : Keeps s (State.countL2 s k code) := by
  unfold State.countL2
  exact State.setInst_keeps ..

theorem State.notifyRec_keeps (s : State) (r : FRec) : Keeps s (State.notifyRec s r) := by
  unfold State.notifyRec
  extract_lets +onlyGivenNames z1
  refine Keeps.cut (b := z1) ?_ ?_
  · unfold z1
    exact State.cause_keeps ..
  · intro hz1
    cases (noteInst r.owner)
    · split
      · exact (State.noteFault_keeps ..).of ‹_›
      · refine (State.countL2_keeps ..).of ?_
        exact (State.noteFault_keeps ..).of ‹_›
      · refine (State.countL2_keeps ..).of ?_
        exact (State.noteFault_keeps ..).of ‹_›
      · assumption
    · split
      · exact (State.noteFault_keeps ..).of ‹_›
      · refine (State.countL2_keeps ..).of ?_
        exact (State.noteFault_keeps ..).of ‹_›
      · refine (State.countL2_keeps ..).of ?_
        exact (State.noteFault_keeps ..).of ‹_›
      · assumption

theorem State.enterSafe_keeps (s : State) : Keeps s (State.enterSafe s) := by
  unfold State.enterSafe
  extract_lets +onlyGivenNames t z1
  have h1 : Keeps s z1 := State.aerLog_keeps s 0 22
  clear_value z1
  refine (State.forget_keeps ..).of ?_
  exact Keeps.fresh h1 rfl rfl (.refl _) le_rfl (fun _ => rfl)


theorem State.reactL3_keeps (s : State) (code : Nat) : Keeps s (State.reactL3 s code) := by
  unfold State.reactL3
  extract_lets +onlyGivenNames z1
  refine Keeps.cut (b := z1) ?_ ?_
  · unfold z1
    exact State.cause_keeps ..
  · intro hz1
    refine Keeps.ite (fun _ => ?_) (fun _ => ?_)
    · exact (State.cause_keeps ..).of ‹_›
    · extract_lets +onlyGivenNames z2
      refine Keeps.cut (b := z2) ?_ ?_
      · unfold z2
        exact (State.setReg_keeps ..).of ‹_›
      · intro hz2
        refine Keeps.ite (fun _ => ?_) (fun _ => ?_)
        · assumption
        · exact (State.l3Start_keeps ..).of ‹_›

theorem State.react_keeps (s : State) (r : FRec) : Keeps s (State.react s r) := by
  unfold State.react
  split
  · exact Keeps.refl _
  · exact Keeps.refl _
  · exact State.notifyRec_keeps ..
  · exact State.notifyRec_keeps ..
  · split
    · refine (State.trigger_keeps ..).of ?_
      exact State.notifyRec_keeps ..
    · exact State.notifyRec_keeps ..
  · refine (State.reactL3_keeps ..).of ?_
    exact State.notifyRec_keeps ..
  · refine (State.enterSafe_keeps ..).of ?_
    exact State.notifyRec_keeps ..

theorem State.putEntry_keeps (s : State) (r : FRec) (lvl : Level) : Keeps s (State.putEntry s r lvl) := by
  unfold State.putEntry
  extract_lets +onlyGivenNames z1
  clear_value z1
  exact Keeps.mk' (Keeps.refl _) (.refl _) le_rfl

theorem State.process_keeps (s : State) (f : FaultIn) : Keeps s (State.process s f) := by
  unfold State.process
  extract_lets +onlyGivenNames z1
  clear_value z1
  extract_lets +onlyGivenNames z2
  clear_value z2
  extract_lets +onlyGivenNames z3
  clear_value z3
  extract_lets +onlyGivenNames z4
  clear_value z4
  extract_lets +onlyGivenNames z5
  refine Keeps.cut (b := z5) ?_ ?_
  · unfold z5
    refine Keeps.ite (fun _ => ?_) (fun _ => ?_)
    · exact Keeps.mk' (Keeps.refl _) (.refl _) le_rfl
    · exact Keeps.refl _
  · intro hz5
    refine Keeps.ite (fun _ => ?_) (fun _ => ?_)
    · exact (State.count_keeps ..).of ‹_›
    · extract_lets +onlyGivenNames z6
      clear_value z6
      extract_lets +onlyGivenNames z7
      clear_value z7
      extract_lets +onlyGivenNames z8
      clear_value z8
      extract_lets +onlyGivenNames z9
      clear_value z9
      extract_lets +onlyGivenNames z10
      clear_value z10
      extract_lets +onlyGivenNames z11
      clear_value z11
      extract_lets +onlyGivenNames z12
      clear_value z12
      extract_lets +onlyGivenNames z13
      clear_value z13
      extract_lets +onlyGivenNames z14
      clear_value z14
      extract_lets +onlyGivenNames z15
      clear_value z15
      extract_lets +onlyGivenNames z16
      clear_value z16
      extract_lets +onlyGivenNames z17
      refine Keeps.cut (b := z17) ?_ ?_
      · unfold z17
        refine Keeps.ite (fun _ => ?_) (fun _ => ?_)
        · exact (State.bumpFree_keeps ..).of ‹_›
        · assumption
      · intro hz17
        refine Keeps.ite (fun _ => ?_) (fun _ => ?_)
        · assumption
        · extract_lets +onlyGivenNames z18
          refine Keeps.cut (b := z18) ?_ ?_
          · unfold z18
            exact (State.writeRec_keeps ..).of ‹_›
          · intro hz18
            extract_lets +onlyGivenNames z19
            clear_value z19
            extract_lets +onlyGivenNames z20
            refine Keeps.cut (b := z20) ?_ ?_
            · unfold z20
              refine Keeps.ite (fun _ => ?_) (fun _ => ?_)
              · exact (State.putEntry_keeps ..).of ‹_›
              · assumption
            · intro hz20
              exact (State.react_keeps ..).of ‹_›

theorem execFcolTakeFault_keeps (s : State) : Kept s (execFcolTakeFault s) := by
  unfold execFcolTakeFault
  refine Kept.next ?_
  refine Keeps.ite (fun _ => ?_) (fun _ => ?_)
  · exact Keeps.refl _
  · split
    · exact Keeps.refl _
    · split
      · exact Keeps.refl _
      · refine (State.process_keeps ..).of ?_
        exact Keeps.mk' (Keeps.refl _) (.refl _) le_rfl

theorem execRateWindowExpiry_keeps (s : State) : Kept s (execRateWindowExpiry s) := by
  unfold execRateWindowExpiry
  refine Kept.next ?_
  exact Keeps.mk' (Keeps.refl _) (.refl _) le_rfl

theorem execFcolSelf_keeps (s : State) : Kept s (execFcolSelf s) := by
  unfold execFcolSelf
  refine Kept.next ?_
  refine Keeps.ite (fun _ => ?_) (fun _ => ?_)
  · exact Keeps.refl _
  · refine (State.process_keeps ..).of ?_
    exact State.count_keeps ..

theorem State.frAck_keeps (s : State) (v : W) (ag : Agent) : Keeps s (State.frAck s v ag) := by
  unfold State.frAck
  refine Keeps.ite (fun _ => ?_) (fun _ => ?_)
  · exact Keeps.refl _
  · exact Keeps.mk' (Keeps.refl _) (.refl _) le_rfl

theorem State.fwReport_keeps (s : State) (v : W64) (ag : Agent) : Keeps s (State.fwReport s v ag) := by
  unfold State.fwReport
  extract_lets +onlyGivenNames z1
  clear_value z1
  extract_lets +onlyGivenNames z2
  clear_value z2
  refine Keeps.ite (fun _ => ?_) (fun _ => ?_)
  · exact Keeps.refl _
  · refine Keeps.ite (fun _ => ?_) (fun _ => ?_)
    · exact State.rsvdValue_keeps ..
    · extract_lets +onlyGivenNames z3
      clear_value z3
      exact State.enqueueFault_keeps ..

end Sys2Proof.Machine
end

