-- ==== Sys2Proof/Laws/KeepsDebug.lean ====
section
/-! SUPPORT. What the operations and commands of Machine/Debug.lean keep: one lemma for each. -/

set_option Elab.async false
namespace Sys2Proof.Machine

theorem State.setDm_keeps (s : State) (c : Nat) (d : Dm) : Keeps s (State.setDm s c d) := by
  unfold State.setDm
  exact Keeps.mk' (Keeps.refl _) (.same rfl rfl) le_rfl

theorem State.setHalt_keeps (s : State) (c : Nat) (on : Bool) : Keeps s (State.setHalt s c on) := by
  unfold State.setHalt
  exact Keeps.mk' (Keeps.refl _) (.same rfl rfl) le_rfl

theorem State.stepCore_keeps (s : State) (c : Nat) : Keeps s (State.stepCore s c) := by
  unfold State.stepCore
  refine Keeps.ite (fun _ => ?_) (fun _ => ?_)
  · exact Keeps.refl _
  · refine (State.setHalt_keeps ..).of ?_
    refine (State.cccStep_keeps ..).of ?_
    exact State.setHalt_keeps ..

theorem State.setCoreReg_keeps (s : State) (c : Nat) (r : Nat) (v : W) : Keeps s (State.setCoreReg s c r v) := by
  unfold State.setCoreReg
  refine Keeps.ite (fun _ => ?_) (fun _ => ?_)
  · exact State.setDm_keeps ..
  · split
    · refine Keeps.ite (fun _ => ?_) (fun _ => ?_)
      · exact State.setCtx_keeps ..
      · refine Keeps.ite (fun _ => ?_) (fun _ => ?_)
        · exact State.setCtx_keeps ..
        · exact Keeps.refl _
    · exact Keeps.refl _

theorem State.setCoreMem_keeps (s : State) (c : Nat) (a : Nat) (n : Nat) (v : W) : Keeps s (State.setCoreMem s c a n v) := by
  unfold State.setCoreMem
  split
  · extract_lets +onlyGivenNames z1
    clear_value z1
    refine Keeps.ite (fun _ => ?_) (fun _ => ?_)
    · exact State.setCtx_keeps ..
    · refine Keeps.ite (fun _ => ?_) (fun _ => ?_)
      · exact State.setCtx_keeps ..
      · exact State.setDm_keeps ..
  · exact Keeps.refl _

theorem State.dmCommand_keeps (s : State) (c : Nat) (v : Nat) : Keeps s (State.dmCommand s c v) := by
  unfold State.dmCommand
  extract_lets +onlyGivenNames z1
  clear_value z1
  extract_lets +onlyGivenNames z2
  extract_lets +onlyGivenNames z3
  clear_value z3
  extract_lets +onlyGivenNames z4
  clear_value z4
  refine Keeps.ite (fun _ => ?_) (fun _ => ?_)
  · exact Keeps.refl _
  · refine Keeps.ite (fun _ => ?_) (fun _ => ?_)
    · unfold z2
      exact State.setDm_keeps ..
    · refine Keeps.ite (fun _ => ?_) (fun _ => ?_)
      · refine Keeps.ite (fun _ => ?_) (fun _ => ?_)
        · unfold z2
          exact State.setDm_keeps ..
        · refine Keeps.ite (fun _ => ?_) (fun _ => ?_)
          · exact Keeps.refl _
          · refine Keeps.ite (fun _ => ?_) (fun _ => ?_)
            · exact State.setCoreReg_keeps ..
            · refine (State.setDm_keeps ..).of ?_
              exact State.bumpFree_keeps ..
      · refine Keeps.ite (fun _ => ?_) (fun _ => ?_)
        · refine Keeps.ite (fun _ => ?_) (fun _ => ?_)
          · unfold z2
            exact State.setDm_keeps ..
          · extract_lets +onlyGivenNames z5
            clear_value z5
            extract_lets +onlyGivenNames z6
            refine Keeps.cut (b := z6) ?_ ?_
            · unfold z6
              refine Keeps.ite (fun _ => ?_) (fun _ => ?_)
              · exact State.setCoreMem_keeps ..
              · refine (State.setDm_keeps ..).of ?_
                exact State.bumpFree_keeps ..
            · intro hz6
              refine Keeps.ite (fun _ => ?_) (fun _ => ?_)
              · exact (State.setDm_keeps ..).of ‹_›
              · assumption
        · unfold z2
          exact State.setDm_keeps ..

theorem State.dmWrite_keeps (s : State) (c : Nat) (a : Nat) (w : W) : Keeps s (State.dmWrite s c a w) := by
  unfold State.dmWrite
  extract_lets +onlyGivenNames z1
  clear_value z1
  extract_lets +onlyGivenNames z2
  clear_value z2
  refine Keeps.ite (fun _ => ?_) (fun _ => ?_)
  · exact Keeps.refl _
  · refine Keeps.ite (fun _ => ?_) (fun _ => ?_)
    · refine Keeps.ite (fun _ => ?_) (fun _ => ?_)
      · exact State.setDm_keeps ..
      · refine Keeps.ite (fun _ => ?_) (fun _ => ?_)
        · exact State.setDm_keeps ..
        · refine Keeps.ite (fun _ => ?_) (fun _ => ?_)
          · refine Keeps.ite (fun _ => ?_) (fun _ => ?_)
            · refine (State.setDm_keeps ..).of ?_
              exact State.setHalt_keeps ..
            · exact Keeps.refl _
          · refine Keeps.ite (fun _ => ?_) (fun _ => ?_)
            · beta_reduce
              refine (State.setDm_keeps ..).of ?_
              refine Keeps.ite (fun _ => ?_) (fun _ => ?_)
              · exact State.stepCore_keeps ..
              · exact State.setHalt_keeps ..
            · exact Keeps.refl _
    · refine Keeps.ite (fun _ => ?_) (fun _ => ?_)
      · exact Keeps.refl _
      · refine Keeps.ite (fun _ => ?_) (fun _ => ?_)
        · exact State.setDm_keeps ..
        · refine Keeps.ite (fun _ => ?_) (fun _ => ?_)
          · exact State.setDm_keeps ..
          · refine Keeps.ite (fun _ => ?_) (fun _ => ?_)
            · exact State.setDm_keeps ..
            · refine Keeps.ite (fun _ => ?_) (fun _ => ?_)
              · exact State.dmCommand_keeps ..
              · exact Keeps.refl _

theorem execJtagDmiAccess_keeps (addr : Nat) (wr : Option (BitVec 32)) (s : State) : Kept s (execJtagDmiAccess addr wr s) := by
  unfold execJtagDmiAccess
  refine Kept.next ?_
  refine Keeps.ite (fun _ => ?_) (fun _ => ?_)
  · exact Keeps.refl _
  · refine Keeps.ite (fun _ => ?_) (fun _ => ?_)
    · exact State.answer_keeps ..
    · split
      · refine (State.answer_keeps ..).of ?_
        exact State.dmWrite_keeps ..
      · exact State.answer_keeps ..

theorem State.peekRead_keeps (s : State) (o : Nat) (n : Nat) (err : Option (Nat × Bool)) : Keeps s (State.peekRead s o n err).2 := by
  unfold State.peekRead
  split
  · refine Keeps.mk_snd ?_
    exact State.count_keeps ..
  · extract_lets +onlyGivenNames z1
    refine Keeps.cut (b := z1) ?_ ?_
    · unfold z1
      exact State.eccFind_keeps ..
    · intro hz1
      refine Keeps.ite_snd (fun _ => ?_) (fun _ => ?_)
      · exact (State.drawBytes_keeps ..).of ‹_›
      · refine Keeps.mk_snd ?_
        assumption

theorem State.peekWrite_keeps (s : State) (o : Nat) (bs : List (Option Byte)) : Keeps s (State.peekWrite s o bs) := by
  unfold State.peekWrite
  split
  · exact State.count_keeps ..
  · exact State.devWriteMask_keeps ..

end Sys2Proof.Machine
end

