-- ==== Sys2Proof/Laws/KeepsAccess.lean ====
section
/-! SUPPORT. What the operations and commands of Machine/Access.lean keep: one lemma for each. -/

set_option Elab.async false
namespace Sys2Proof.Machine

theorem State.actDenied_keeps (s : State) (ag : Agent) (region : Nat) (write : Bool) : Keeps s (State.actDenied s ag region write) := by
  unfold State.actDenied
  extract_lets +onlyGivenNames z1
  clear_value z1
  extract_lets +onlyGivenNames z2
  refine Keeps.cut (b := z2) ?_ ?_
  · unfold z2
    refine (State.capture31_keeps ..).of ?_
    exact State.count_keeps ..
  · intro hz2
    refine Keeps.ite (fun _ => ?_) (fun _ => ?_)
    · assumption
    · exact (State.raise_keeps ..).of ‹_›

theorem State.readClear_keeps (s : State) (l : Loc) : Keeps s (State.readClear s l) := by
  unfold State.readClear
  refine Keeps.ite (fun _ => ?_) (fun _ => ?_)
  · exact State.clearReg_keeps ..
  · exact State.clearReg_keeps ..

theorem State.viewFree_keeps (s : State) (l : Loc) (part : Nat) : Keeps s (State.viewFree s l part).2 := by
  unfold State.viewFree
  extract_lets +onlyGivenNames z1
  clear_value z1
  extract_lets +onlyGivenNames z2
  clear_value z2
  refine Keeps.ite_snd (fun _ => ?_) (fun _ => ?_)
  · refine Keeps.mk_snd ?_
    exact Keeps.refl _
  · refine Keeps.mk_snd ?_
    exact State.drawWord_keeps ..

theorem State.wideValue_keeps (s : State) (l : Loc) (avail : Bool) : Keeps s (State.wideValue s l avail).2.2 := by
  unfold State.wideValue
  refine Keeps.ite_thd (fun _ => ?_) (fun _ => ?_)
  · dsimp -zeta -zetaHave only
    exact State.rngData_keeps ..
  · refine Keeps.mk_thd ?_
    exact Keeps.refl _

theorem State.readLoc_keeps (s : State) (ag : Agent) (l : Loc) (avail : Bool) : Keeps s (State.readLoc s ag l avail).2 := by
  unfold State.readLoc
  refine Keeps.ite_snd (fun _ => ?_) (fun _ => ?_)
  · refine Keeps.mk_snd ?_
    exact Keeps.refl _
  · refine Keeps.ite_snd (fun _ => ?_) (fun _ => ?_)
    · dsimp -zeta -zetaHave only
      exact State.peekRead_keeps ..
    · refine Keeps.ite_snd (fun _ => ?_) (fun _ => ?_)
      · refine Keeps.mk_snd ?_
        exact Keeps.refl _
      · split
        · refine Keeps.mk_snd ?_
          exact Keeps.refl _
        · refine Keeps.ite_snd (fun _ => ?_) (fun _ => ?_)
          · refine Keeps.mk_snd ?_
            exact Keeps.refl _
          · refine Keeps.ite_snd (fun _ => ?_) (fun _ => ?_)
            · refine Keeps.mk_snd ?_
              exact Keeps.refl _
            · refine Keeps.ite_snd (fun _ => ?_) (fun _ => ?_)
              · extract_lets +onlyGivenNames z1
                clear_value z1
                extract_lets +onlyGivenNames z2
                clear_value z2
                refine Keeps.ite_snd (fun _ => ?_) (fun _ => ?_)
                · dsimp -zeta -zetaHave only
                  refine Keeps.mk' ?_ (.refl _) le_rfl
                  exact State.wideValue_keeps ..
                · split
                  · refine Keeps.mk_snd ?_
                    exact Keeps.mk' (Keeps.refl _) (.refl _) le_rfl
                  · dsimp -zeta -zetaHave only
                    exact State.wideValue_keeps ..
              · dsimp -zeta -zetaHave only
                refine Keeps.ite (fun _ => ?_) (fun _ => ?_)
                · refine (State.readClear_keeps ..).of ?_
                  exact State.viewFree_keeps ..
                · exact State.viewFree_keeps ..

theorem State.readWords_keeps (s : State) (ag : Agent) (o : Nat) (avail : Bool) (n : Nat) :
    Keeps s (State.readWords s ag o avail n).2 := by
  induction n generalizing s o with
  | zero => exact Keeps.refl _
  | succ n ih =>
    unfold State.readWords
    dsimp -zeta -zetaHave only
    refine (ih ..).of ?_
    split
    · refine Keeps.ite_snd (fun _ => ?_) (fun _ => ?_)
      · refine Keeps.mk_snd ?_
        exact Keeps.refl _
      · exact State.readLoc_keeps ..
    · refine Keeps.mk_snd ?_
      exact Keeps.refl _


theorem State.regRead_keeps (s : State) (ag : Agent) (o : Nat) (wide : Bool) (avail : Bool) : Keeps s (State.regRead s ag o wide avail) := by
  unfold State.regRead
  extract_lets +onlyGivenNames z1
  clear_value z1
  split
  · exact Keeps.refl _
  · refine (State.answer_keeps ..).of ?_
    exact State.aerLog_keeps ..
  · refine (State.answer_keeps ..).of ?_
    exact State.unmapped_keeps ..
  · refine (State.answer_keeps ..).of ?_
    exact State.actDenied_keeps ..
  · exact State.answer_keeps ..
  · dsimp -zeta -zetaHave only
    refine (State.answer_keeps ..).of ?_
    exact State.readWords_keeps ..

end Sys2Proof.Machine
end

