-- ==== Sys2Proof/Laws/KeepsRegs.lean ====
section
/-! SUPPORT. What the operations and commands of Machine/Regs.lean keep: one lemma for each. -/

set_option Elab.async false
namespace Sys2Proof.Machine

theorem State.rsvdAt_keeps (s : State) (a : Nat) (l : Loc) (apply : Nat) (ag : Agent) : Keeps s (State.rsvdAt s a l apply ag) := by
  unfold State.rsvdAt
  refine Keeps.ite (fun _ => ?_) (fun _ => ?_)
  · exact State.rsvdValue_keeps ..
  · exact State.captureEvent_keeps ..

theorem State.store_keeps (s : State) (l : Loc) (r : Row) (v : Nat) : Keeps s (State.store s l r v) := by
  unfold State.store
  extract_lets +onlyGivenNames z1
  clear_value z1
  extract_lets +onlyGivenNames z2
  refine Keeps.cut (b := z2) ?_ ?_
  · unfold z2
    refine Keeps.ite (fun _ => ?_) (fun _ => ?_)
    · exact State.holdEffect_keeps ..
    · exact Keeps.refl _
  · intro hz2
    extract_lets +onlyGivenNames z3
    clear_value z3
    refine Keeps.ite (fun _ => ?_) (fun _ => ?_)
    · exact (State.setExpert_keeps ..).of ‹_›
    · exact (State.setReg_keeps ..).of ‹_›

theorem State.levelUp_keeps (s : State) (base : Nat) : Keeps s (State.levelUp s base) := by
  unfold State.levelUp
  refine Keeps.foldl (fun _ _ => ?_) ?_
  · dsimp -zeta -zetaHave only
    split
    · split
      · exact State.store_keeps ..
      · exact Keeps.refl _
    · exact Keeps.refl _
  · exact Keeps.refl _

theorem State.levelDown_keeps (s : State) (base : Nat) : Keeps s (State.levelDown s base) := by
  unfold State.levelDown
  extract_lets +onlyGivenNames z1
  refine Keeps.cut (b := z1) ?_ ?_
  · unfold z1
    refine Keeps.foldl (fun _ _ => ?_) ?_
    · dsimp -zeta -zetaHave only
      split
      · split
        · refine Keeps.ite (fun _ => ?_) (fun _ => ?_)
          · exact State.holdEffect_keeps ..
          · exact Keeps.refl _
        · exact Keeps.refl _
      · exact Keeps.refl _
    · exact Keeps.refl _
  · intro hz1
    exact Keeps.mk' ‹_› (.refl _) le_rfl

theorem State.softBlock_keeps (s : State) (l : Loc) (locked : Bool) : Keeps s (State.softBlock s l locked) := by
  unfold State.softBlock
  extract_lets +onlyGivenNames z1
  clear_value z1
  split
  · extract_lets +onlyGivenNames z2
    refine Keeps.cut (b := z2) ?_ ?_
    · unfold z2
      exact State.headDisable_keeps ..
    · intro hz2
      extract_lets +onlyGivenNames z3
      clear_value z3
      exact (State.setHead_keeps ..).of ‹_›
  · extract_lets +onlyGivenNames z2
    refine Keeps.cut (b := z2) ?_ ?_
    · unfold z2
      exact State.portEnable_keeps ..
    · intro hz2
      extract_lets +onlyGivenNames z3
      clear_value z3
      exact (State.setPort_keeps ..).of ‹_›
  · exact State.flushL1_keeps ..
  · refine Keeps.foldl (fun _ _ => ?_) ?_
    · exact State.dropCtx_keeps ..
    · exact Keeps.refl _
  · split
    · split
      · refine (State.setCtx_keeps ..).of ?_
        refine (Keeps.snd (State.drawBool_keeps ..) (by assumption)).of ?_
        exact Keeps.refl _
      · refine (Keeps.snd (State.drawBool_keeps ..) (by assumption)).of ?_
        exact Keeps.refl _
    · exact Keeps.refl _
  · split
    · split
      · refine (State.stepCore_keeps ..).of ?_
        refine (Keeps.snd (State.drawBool_keeps ..) (by assumption)).of ?_
        exact Keeps.refl _
      · refine (State.setCtx_keeps ..).of ?_
        refine (Keeps.snd (State.drawBool_keeps ..) (by assumption)).of ?_
        exact Keeps.refl _
    · exact Keeps.refl _
  · exact Keeps.refl _

theorem State.softReset_keeps (s : State) (l : Loc) : Keeps s (State.softReset s l) := by
  unfold State.softReset
  extract_lets +onlyGivenNames z1
  clear_value z1
  extract_lets +onlyGivenNames z2
  clear_value z2
  extract_lets +onlyGivenNames z3
  refine Keeps.cut (b := z3) ?_ ?_
  · unfold z3
    refine (State.resetRange_keeps ..).of ?_
    exact State.softBlock_keeps ..
  · intro hz3
    extract_lets +onlyGivenNames z4
    refine Keeps.cut (b := z4) ?_ ?_
    · unfold z4
      exact (State.setReg_keeps ..).of ‹_›
    · intro hz4
      exact Keeps.mk' ‹_› (.refl _) le_rfl

theorem execSoftResetDone_keeps (base : Nat) (s : State) : Kept s (execSoftResetDone base s) := by
  unfold execSoftResetDone
  refine Kept.next ?_
  exact Keeps.mk' (Keeps.refl _) (.refl _) le_rfl

theorem State.ctrlWrite_keeps (s : State) (ag : Agent) (a : Nat) (l : Loc) (v : Nat) : Keeps s (State.ctrlWrite s ag a l v) := by
  unfold State.ctrlWrite
  extract_lets +onlyGivenNames z1
  clear_value z1
  extract_lets +onlyGivenNames z2
  clear_value z2
  refine Keeps.ite (fun _ => ?_) (fun _ => ?_)
  · extract_lets +onlyGivenNames z3
    refine Keeps.cut (b := z3) ?_ ?_
    · unfold z3
      exact State.lockViol_keeps ..
    · intro hz3
      refine Keeps.ite (fun _ => ?_) (fun _ => ?_)
      · exact (State.softReset_keeps ..).of ‹_›
      · assumption
  · extract_lets +onlyGivenNames z3
    clear_value z3
    extract_lets +onlyGivenNames z4
    refine Keeps.cut (b := z4) ?_ ?_
    · unfold z4
      exact State.setReg_keeps ..
    · intro hz4
      extract_lets +onlyGivenNames z5
      refine Keeps.cut (b := z5) ?_ ?_
      · unfold z5
        refine Keeps.ite (fun _ => ?_) (fun _ => ?_)
        · exact (State.levelUp_keeps ..).of ‹_›
        · refine Keeps.ite (fun _ => ?_) (fun _ => ?_)
          · exact (State.levelDown_keeps ..).of ‹_›
          · assumption
      · intro hz5
        extract_lets +onlyGivenNames z6
        refine Keeps.cut (b := z6) ?_ ?_
        · unfold z6
          exact (State.setReg_keeps ..).of ‹_›
        · intro hz6
          extract_lets +onlyGivenNames z7
          refine Keeps.cut (b := z7) ?_ ?_
          · unfold z7
            refine Keeps.ite (fun _ => ?_) (fun _ => ?_)
            · exact (State.busyDrop_keeps ..).of ‹_›
            · refine Keeps.ite (fun _ => ?_) (fun _ => ?_)
              · assumption
              · exact (State.setReg_keeps ..).of ‹_›
          · intro hz7
            extract_lets +onlyGivenNames z8
            refine Keeps.cut (b := z8) ?_ ?_
            · unfold z8
              split
              · refine Keeps.ite (fun _ => ?_) (fun _ => ?_)
                · exact (State.headEnable_keeps ..).of ‹_›
                · exact (State.headDisable_keeps ..).of ‹_›
              · exact (State.portEnable_keeps ..).of ‹_›
              · assumption
            · intro hz8
              refine Keeps.ite (fun _ => ?_) (fun _ => ?_)
              · exact (State.softReset_keeps ..).of ‹_›
              · assumption

theorem State.intEnableWrite_keeps (s : State) (l : Loc) (v : Nat) : Keeps s (State.intEnableWrite s l v) := by
  unfold State.intEnableWrite
  refine (State.intEdge_keeps ..).of ?_
  exact State.setReg_keeps ..

theorem State.lockWrite_keeps (s : State) (ag : Agent) (a : Nat) (l : Loc) (v : Nat) : Keeps s (State.lockWrite s ag a l v) := by
  unfold State.lockWrite
  refine Keeps.ite (fun _ => ?_) (fun _ => ?_)
  · exact State.lockViol_keeps ..
  · extract_lets +onlyGivenNames z1
    refine Keeps.cut (b := z1) ?_ ?_
    · unfold z1
      exact State.setReg_keeps ..
    · intro hz1
      exact Keeps.mk' ‹_› (.refl _) le_rfl

theorem State.injectWrite_keeps (s : State) (ag : Agent) (a : Nat) (l : Loc) (v : Nat) : Keeps s (State.injectWrite s ag a l v) := by
  unfold State.injectWrite
  extract_lets +onlyGivenNames z1
  clear_value z1
  extract_lets +onlyGivenNames z2
  refine Keeps.cut (b := z2) ?_ ?_
  · unfold z2
    exact State.setReg_keeps ..
  · intro hz2
    refine Keeps.ite (fun _ => ?_) (fun _ => ?_)
    · exact (State.lockViol_keeps ..).of ‹_›
    · extract_lets +onlyGivenNames z3
      refine Keeps.cut (b := z3) ?_ ?_
      · unfold z3
        exact (State.setReg_keeps ..).of ‹_›
      · intro hz3
        refine Keeps.ite (fun _ => ?_) (fun _ => ?_)
        · assumption
        · refine Keeps.ite (fun _ => ?_) (fun _ => ?_)
          · exact (State.setReg_keeps ..).of ‹_›
          · extract_lets +onlyGivenNames z4
            refine Keeps.cut (b := z4) ?_ ?_
            · unfold z4
              exact (State.setReg_keeps ..).of ‹_›
            · intro hz4
              exact Keeps.mk' ‹_› (.refl _) le_rfl

theorem State.headerWrite_keeps (s : State) (ag : Agent) (a : Nat) (l : Loc) (v : Nat) : Keeps s (State.headerWrite s ag a l v) := by
  unfold State.headerWrite
  extract_lets +onlyGivenNames z1
  split
  · exact State.ctrlWrite_keeps ..
  · unfold z1
    exact State.setReg_keeps ..
  · unfold z1
    exact State.setReg_keeps ..
  · exact State.intEnableWrite_keeps ..
  · exact State.causes_keeps ..
  · exact State.lockWrite_keeps ..
  · exact State.injectWrite_keeps ..
  · exact Keeps.refl _

theorem State.fwBeacon_keeps (s : State) (o : Nat) (v : Nat) : Keeps s (State.fwBeacon s o v) := by
  unfold State.fwBeacon
  extract_lets +onlyGivenNames z1
  clear_value z1
  extract_lets +onlyGivenNames z2
  clear_value z2
  refine Keeps.ite (fun _ => ?_) (fun _ => ?_)
  · exact State.acceptBeacon_keeps ..
  · refine Keeps.ite (fun _ => ?_) (fun _ => ?_)
    · exact State.acceptBeacon_keeps ..
    · exact Keeps.refl _

theorem State.fwResv_keeps (s : State) (o : Nat) (part : Nat) (v : Nat) : Keeps s (State.fwResv s o part v) := by
  unfold State.fwResv
  extract_lets +onlyGivenNames z1
  clear_value z1
  extract_lets +onlyGivenNames z2
  clear_value z2
  refine Keeps.ite (fun _ => ?_) (fun _ => ?_)
  · exact State.setResv_keeps ..
  · refine Keeps.ite (fun _ => ?_) (fun _ => ?_)
    · exact State.setResv_keeps ..
    · refine Keeps.ite (fun _ => ?_) (fun _ => ?_)
      · exact State.setResv_keeps ..
      · exact Keeps.refl _

theorem State.ownerWrite_keeps (s : State) (ag : Agent) (l : Loc) (part : Nat) (v : Nat) : Keeps s (State.ownerWrite s ag l part v) := by
  unfold State.ownerWrite
  extract_lets +onlyGivenNames z1
  clear_value z1
  extract_lets +onlyGivenNames z2
  clear_value z2
  split
  · refine Keeps.ite (fun _ => ?_) (fun _ => ?_)
    · extract_lets +onlyGivenNames z3
      clear_value z3
      exact Keeps.mk' (Keeps.refl _) (.refl _) le_rfl
    · exact Keeps.refl _
  · refine Keeps.ite (fun _ => ?_) (fun _ => ?_)
    · exact Keeps.mk' (Keeps.refl _) (.refl _) le_rfl
    · refine Keeps.ite (fun _ => ?_) (fun _ => ?_)
      · exact Keeps.mk' (Keeps.refl _) (.refl _) le_rfl
      · refine Keeps.ite (fun _ => ?_) (fun _ => ?_)
        · exact Keeps.mk' (Keeps.refl _) (.refl _) le_rfl
        · refine Keeps.ite (fun _ => ?_) (fun _ => ?_)
          · exact Keeps.mk' (Keeps.refl _) (.refl _) le_rfl
          · refine Keeps.ite (fun _ => ?_) (fun _ => ?_)
            · exact State.setReg_keeps ..
            · refine Keeps.ite (fun _ => ?_) (fun _ => ?_)
              · exact Keeps.mk' (Keeps.refl _) (.refl _) le_rfl
              · exact Keeps.refl _
  · refine Keeps.ite (fun _ => ?_) (fun _ => ?_)
    · exact State.fwBeacon_keeps ..
    · exact Keeps.refl _
  · exact State.fwResv_keeps ..
  · refine Keeps.ite (fun _ => ?_) (fun _ => ?_)
    · exact State.setQueue_keeps ..
    · exact Keeps.refl _
  · exact Keeps.refl _

theorem State.resetReq_keeps (s : State) (ag : Agent) (a : Nat) (v : Nat) : Keeps s (State.resetReq s ag a v) := by
  unfold State.resetReq
  refine Keeps.ite (fun _ => ?_) (fun _ => ?_)
  · exact State.l3Start_keeps ..
  · exact State.rsvdValue_keeps ..

theorem State.headCtrl_keeps (s : State) (ag : Agent) (a : Nat) (l : Loc) (v : Nat) : Keeps s (State.headCtrl s ag a l v) := by
  unfold State.headCtrl
  extract_lets +onlyGivenNames z1
  clear_value z1
  extract_lets +onlyGivenNames z2
  clear_value z2
  extract_lets +onlyGivenNames z3
  clear_value z3
  extract_lets +onlyGivenNames z4
  refine Keeps.cut (b := z4) ?_ ?_
  · unfold z4
    exact State.setReg_keeps ..
  · intro hz4
    extract_lets +onlyGivenNames z5
    refine Keeps.cut (b := z5) ?_ ?_
    · unfold z5
      refine Keeps.ite (fun _ => ?_) (fun _ => ?_)
      · exact (State.busyDrop_keeps ..).of ‹_›
      · assumption
    · intro hz5
      refine Keeps.ite (fun _ => ?_) (fun _ => ?_)
      · assumption
      · exact (State.setHead_keeps ..).of ‹_›

theorem State.headWrite_keeps (s : State) (ag : Agent) (a : Nat) (l : Loc) (r : Row) (v : Nat) : Keeps s (State.headWrite s ag a l r v) := by
  unfold State.headWrite
  extract_lets +onlyGivenNames z1
  clear_value z1
  extract_lets +onlyGivenNames z2
  clear_value z2
  refine Keeps.ite (fun _ => ?_) (fun _ => ?_)
  · exact State.headCtrl_keeps ..
  · refine Keeps.ite (fun _ => ?_) (fun _ => ?_)
    · refine Keeps.ite (fun _ => ?_) (fun _ => ?_)
      · exact State.captureArm_keeps ..
      · exact Keeps.refl _
    · refine Keeps.ite (fun _ => ?_) (fun _ => ?_)
      · extract_lets +onlyGivenNames z3
        refine Keeps.cut (b := z3) ?_ ?_
        · unfold z3
          exact State.store_keeps ..
        · intro hz3
          refine Keeps.ite (fun _ => ?_) (fun _ => ?_)
          · assumption
          · exact (State.setHead_keeps ..).of ‹_›
      · refine Keeps.ite (fun _ => ?_) (fun _ => ?_)
        · exact State.lutWrite_keeps ..
        · refine Keeps.ite (fun _ => ?_) (fun _ => ?_)
          · exact State.busyDrop_keeps ..
          · exact State.store_keeps ..

theorem State.dpWrite_keeps (s : State) (l : Loc) (r : Row) (v : Nat) : Keeps s (State.dpWrite s l r v) := by
  unfold State.dpWrite
  extract_lets +onlyGivenNames z1
  clear_value z1
  extract_lets +onlyGivenNames z2
  clear_value z2
  split
  · refine Keeps.ite (fun _ => ?_) (fun _ => ?_)
    · exact State.trainStart_keeps ..
    · exact Keeps.refl _
  · refine Keeps.ite (fun _ => ?_) (fun _ => ?_)
    · refine (State.auxStart_keeps ..).of ?_
      exact State.store_keeps ..
    · exact Keeps.refl _
  · exact State.setReg_keeps ..
  · beta_reduce
    refine Keeps.ite (fun _ => ?_) (fun _ => ?_)
    · refine (State.sdpCommit_keeps ..).of ?_
      exact State.store_keeps ..
    · exact State.store_keeps ..
  · exact State.store_keeps ..

theorem State.brnWrite_keeps (s : State) (ag : Agent) (l : Loc) (r : Row) (v : Nat) : Keeps s (State.brnWrite s ag l r v) := by
  unfold State.brnWrite
  extract_lets +onlyGivenNames z1
  clear_value z1
  extract_lets +onlyGivenNames z2
  clear_value z2
  split
  · refine Keeps.ite (fun _ => ?_) (fun _ => ?_)
    · exact State.hello_keeps ..
    · exact Keeps.refl _
  · exact State.reqProdWrite_keeps ..
  · exact State.rspConsWrite_keeps ..
  · exact State.setReg_keeps ..
  · refine Keeps.ite (fun _ => ?_) (fun _ => ?_)
    · exact State.reqRingWrite_keeps ..
    · exact State.store_keeps ..

theorem State.mboxWrite_keeps (s : State) (l : Loc) (r : Row) (v : Nat) : Keeps s (State.mboxWrite s l r v) := by
  unfold State.mboxWrite
  split
  · exact Keeps.mk' (Keeps.refl _) (.same rfl rfl) le_rfl
  · exact State.setReg_keeps ..
  · exact State.store_keeps ..

theorem State.applyWrite_keeps (s : State) (ag : Agent) (a : Nat) (l : Loc) (r : Row) (v : Nat) : Keeps s (State.applyWrite s ag a l r v) := by
  unfold State.applyWrite
  split
  · refine Keeps.ite (fun _ => ?_) (fun _ => ?_)
    · exact State.resetReq_keeps ..
    · refine Keeps.ite (fun _ => ?_) (fun _ => ?_)
      · exact State.store_keeps ..
      · exact Keeps.refl _
  · exact State.mboxWrite_keeps ..
  · refine Keeps.ite (fun _ => ?_) (fun _ => ?_)
    · exact State.store_keeps ..
    · exact Keeps.refl _
  · exact State.brnWrite_keeps ..
  · refine Keeps.ite (fun _ => ?_) (fun _ => ?_)
    · exact State.logSelect_keeps ..
    · exact State.store_keeps ..
  · refine Keeps.ite (fun _ => ?_) (fun _ => ?_)
    · exact State.frAck_keeps ..
    · exact State.store_keeps ..
  · refine Keeps.ite (fun _ => ?_) (fun _ => ?_)
    · refine (State.routeWrite_keeps ..).of ?_
      refine (State.routeWrite_keeps ..).of ?_
      exact State.store_keeps ..
    · exact State.store_keeps ..
  · exact State.headWrite_keeps ..
  · exact State.dpWrite_keeps ..
  · beta_reduce
    refine Keeps.ite (fun _ => ?_) (fun _ => ?_)
    · refine (State.msixRelease_keeps ..).of ?_
      exact State.store_keeps ..
    · exact State.store_keeps ..
  · exact State.store_keeps ..

theorem State.applyWide_keeps (s : State) (ag : Agent) (l : Loc) (v : Nat) : Keeps s (State.applyWide s ag l v) := by
  unfold State.applyWide
  split
  · refine Keeps.ite (fun _ => ?_) (fun _ => ?_)
    · exact Keeps.refl _
    · exact State.doorbell_keeps ..
  · exact State.svOp_keeps ..
  · exact State.fwReport_keeps ..
  · refine (State.setReg_keeps ..).of ?_
    exact State.setReg_keeps ..

theorem State.wosWrite_keeps (s : State) (ag : Agent) (a : Nat) (l : Loc) (v : Nat) : Keeps s (State.wosWrite s ag a l v) := by
  unfold State.wosWrite
  refine Keeps.ite (fun _ => ?_) (fun _ => ?_)
  · exact State.lockViol_keeps ..
  · extract_lets +onlyGivenNames z1
    refine Keeps.cut (b := z1) ?_ ?_
    · unfold z1
      exact State.setReg_keeps ..
    · intro hz1
      exact Keeps.mk' ‹_› (.refl _) le_rfl

theorem State.writeRow_keeps (s : State) (ag : Agent) (a : Nat) (l : Loc) (r : Row) (v : Nat) : Keeps s (State.writeRow s ag a l r v) := by
  unfold State.writeRow
  extract_lets +onlyGivenNames z1
  clear_value z1
  refine Keeps.ite (fun _ => ?_) (fun _ => ?_)
  · exact Keeps.refl _
  · refine Keeps.ite (fun _ => ?_) (fun _ => ?_)
    · exact State.lockViol_keeps ..
    · refine Keeps.ite (fun _ => ?_) (fun _ => ?_)
      · exact State.rsvdAt_keeps ..
      · refine Keeps.ite (fun _ => ?_) (fun _ => ?_)
        · exact Keeps.mk' (Keeps.refl _) (.refl _) le_rfl
        · refine Keeps.ite (fun _ => ?_) (fun _ => ?_)
          · exact State.busyDrop_keeps ..
          · refine Keeps.ite (fun _ => ?_) (fun _ => ?_)
            · exact State.applyWide_keeps ..
            · exact State.applyWrite_keeps ..

theorem State.writeLoc_keeps (s : State) (ag : Agent) (a : Nat) (l : Loc) (v : Nat) : Keeps s (State.writeLoc s ag a l v) := by
  unfold State.writeLoc
  refine Keeps.ite (fun _ => ?_) (fun _ => ?_)
  · refine Keeps.ite (fun _ => ?_) (fun _ => ?_)
    · exact State.dmWrite_keeps ..
    · exact Keeps.refl _
  · refine Keeps.ite (fun _ => ?_) (fun _ => ?_)
    · exact State.peekWrite_keeps ..
    · refine Keeps.ite (fun _ => ?_) (fun _ => ?_)
      · exact State.headerWrite_keeps ..
      · split
        · exact Keeps.refl _
        · split
          · exact State.ownerWrite_keeps ..
          · exact State.ownerWrite_keeps ..
          · exact State.wosWrite_keeps ..
          · refine Keeps.ite (fun _ => ?_) (fun _ => ?_)
            · exact State.writeRow_keeps ..
            · extract_lets +onlyGivenNames z1
              clear_value z1
              extract_lets +onlyGivenNames z2
              clear_value z2
              refine Keeps.ite (fun _ => ?_) (fun _ => ?_)
              · exact Keeps.mk' (Keeps.refl _) (.refl _) le_rfl
              · exact State.writeRow_keeps ..

theorem State.regWrite32_keeps (s : State) (ag : Agent) (o : Nat) (v : Nat) (be : Nat) : Keeps s (State.regWrite32 s ag o v be) := by
  unfold State.regWrite32
  split
  · refine Keeps.ite (fun _ => ?_) (fun _ => ?_)
    · exact State.writeLoc_keeps ..
    · refine Keeps.ite (fun _ => ?_) (fun _ => ?_)
      · exact Keeps.refl _
      · refine Keeps.ite (fun _ => ?_) (fun _ => ?_)
        · exact State.peekWrite_keeps ..
        · exact State.unmapped_keeps ..
  · refine Keeps.ite (fun _ => ?_) (fun _ => ?_)
    · exact Keeps.refl _
    · exact State.unmapped_keeps ..
  · exact State.actDenied_keeps ..
  · exact Keeps.refl _
  · exact Keeps.refl _
  · exact Keeps.refl _

theorem State.regWrite_keeps (s : State) (ag : Agent) (o : Nat) (v : Nat) (be : Nat) (wide : Bool) : Keeps s (State.regWrite s ag o v be wide) := by
  unfold State.regWrite
  refine Keeps.ite (fun _ => ?_) (fun _ => ?_)
  · exact State.regWrite32_keeps ..
  · split
    · split
      · refine Keeps.ite (fun _ => ?_) (fun _ => ?_)
        · extract_lets +onlyGivenNames z1
          refine Keeps.cut (b := z1) ?_ ?_
          · unfold z1
            exact Keeps.mk' (Keeps.refl _) (.refl _) le_rfl
          · intro hz1
            exact (State.writeRow_keeps ..).of ‹_›
        · refine (State.regWrite32_keeps ..).of ?_
          exact State.regWrite32_keeps ..
      · refine (State.regWrite32_keeps ..).of ?_
        exact State.regWrite32_keeps ..
    · exact State.regWrite32_keeps ..

end Sys2Proof.Machine
end

