-- ==== Sys2Proof/Laws/KeepsAccesses.lean ====
section
/-! SUPPORT. What the operations and commands of Machine/Accesses.lean keep: one lemma for each. -/

set_option Elab.async false
namespace Sys2Proof.Machine

theorem State.write32_keeps (s : State) (ag : Agent) (o : Nat) (v : Nat) : Kept s (State.write32 s ag o v) := by
  unfold State.write32
  refine Kept.next ?_
  exact State.regWrite_keeps ..

theorem execRegisterWrite_keeps (ag : Agent) (o : Nat) (be : Nat) (v : BitVec 64) (wide : Bool) (s : State) : Kept s (execRegisterWrite ag o be v wide s) := by
  unfold execRegisterWrite
  refine Kept.next ?_
  exact State.regWrite_keeps ..

theorem execRcRegisterRead_keeps (ag : Agent) (o : Nat) (wide : Bool) (avail : Bool) (s : State) : Kept s (execRcRegisterRead ag o wide avail s) := by
  unfold execRcRegisterRead
  refine Kept.next ?_
  exact State.regRead_keeps ..

theorem execSplit64bitRead_keeps (ag : Agent) (o : Nat) (s : State) : Kept s (execSplit64bitRead ag o s) := by
  unfold execSplit64bitRead
  refine Kept.next ?_
  exact State.regRead_keeps ..

theorem execSoftReset_keeps (ag : Agent) (base : Nat) (v : BitVec 32) (s : State) : Kept s (execSoftReset ag base v s) := by
  unfold execSoftReset
  exact State.write32_keeps _ _ _ _

theorem execLevelSet_keeps (ag : Agent) (base : Nat) (v : BitVec 32) (s : State) : Kept s (execLevelSet ag base v s) := by
  unfold execLevelSet
  exact State.write32_keeps _ _ _ _

theorem execLevelClear_keeps (ag : Agent) (base : Nat) (v : BitVec 32) (s : State) : Kept s (execLevelClear ag base v s) := by
  unfold execLevelClear
  exact State.write32_keeps _ _ _ _

theorem execTestModeClear_keeps (ag : Agent) (base : Nat) (v : BitVec 32) (s : State) : Kept s (execTestModeClear ag base v s) := by
  unfold execTestModeClear
  exact State.write32_keeps _ _ _ _

theorem execBlkIntForceWrite_keeps (ag : Agent) (base : Nat) (v : BitVec 32) (s : State) : Kept s (execBlkIntForceWrite ag base v s) := by
  unfold execBlkIntForceWrite
  exact State.write32_keeps _ _ _ _

theorem execBlkLockWrite_keeps (ag : Agent) (base : Nat) (v : BitVec 32) (s : State) : Kept s (execBlkLockWrite ag base v s) := by
  unfold execBlkLockWrite
  exact State.write32_keeps _ _ _ _

theorem execInjectArm_keeps (ag : Agent) (base : Nat) (v : BitVec 32) (check : Option Nat) (s : State) : Kept s (execInjectArm ag base v check s) := by
  unfold execInjectArm
  extract_lets +onlyGivenNames z1
  suffices hz1 : Keeps s z1 from ?_
  · refine Kept.next ?_
    cases check
    · dsimp -zeta -zetaHave only
      assumption
    · cases (accessAddr ag base)
      · dsimp -zeta -zetaHave only
        assumption
      · dsimp -zeta -zetaHave only
        exact (State.injFire_keeps ..).of ‹_›
  · unfold z1
    exact State.regWrite_keeps ..

theorem execMsixUnmask_keeps (k : Nat) (v : Nat) (s : State) : Kept s (execMsixUnmask k v s) := by
  unfold execMsixUnmask
  extract_lets +onlyGivenNames z1
  clear_value z1
  exact State.write32_keeps _ _ _ _

theorem execResetReqL3_keeps (ag : Agent) (v : BitVec 32) (s : State) : Kept s (execResetReqL3 ag v s) := by
  unfold execResetReqL3
  exact State.write32_keeps _ _ _ _

theorem execRngDataRead_keeps (ag : Agent) (avail : Bool) (s : State) : Kept s (execRngDataRead ag avail s) := by
  unfold execRngDataRead
  refine Kept.next ?_
  exact State.regRead_keeps ..

theorem execHbmPeekAccess_keeps (ag : Agent) (o : Nat) (len : Nat) (wr : Option (List (Option Byte))) (err : Option (Nat × Bool)) (s : State) : Kept s (execHbmPeekAccess ag o len wr err s) := by
  unfold execHbmPeekAccess
  extract_lets +onlyGivenNames z1
  clear_value z1
  extract_lets +onlyGivenNames z2
  refine Kept.next ?_
  refine Keeps.ite (fun _ => ?_) (fun _ => ?_)
  · exact Keeps.refl _
  · split
    · exact Keeps.refl _
    · refine Keeps.ite (fun _ => ?_) (fun _ => ?_)
      · exact Keeps.refl _
      · refine (State.answer_keeps ..).of ?_
        exact State.aerLog_keeps ..
    · unfold z2
      split
      · exact State.answer_keeps ..
      · exact State.answer_keeps ..
    · unfold z2
      split
      · refine (State.answer_keeps ..).of ?_
        exact State.unmapped_keeps ..
      · refine (State.answer_keeps ..).of ?_
        exact State.unmapped_keeps ..
    · unfold z2
      split
      · refine (State.answer_keeps ..).of ?_
        exact State.actDenied_keeps ..
      · refine (State.answer_keeps ..).of ?_
        exact State.actDenied_keeps ..
    · split
      · refine (State.answer_keeps ..).of ?_
        exact State.peekWrite_keeps ..
      · refine Keeps.ite (fun _ => ?_) (fun _ => ?_)
        · exact State.answer_keeps ..
        · dsimp -zeta -zetaHave only
          refine (State.answer_keeps ..).of ?_
          exact State.peekRead_keeps ..

theorem execVerHello_keeps (ag : Agent) (s : State) : Kept s (execVerHello ag s) := by
  unfold execVerHello
  exact State.write32_keeps _ _ _ _

theorem execReqProdWrite_keeps (ag : Agent) (v : BitVec 32) (s : State) : Kept s (execReqProdWrite ag v s) := by
  unfold execReqProdWrite
  exact State.write32_keeps _ _ _ _

theorem execRspConsWrite_keeps (ag : Agent) (v : BitVec 32) (s : State) : Kept s (execRspConsWrite ag v s) := by
  unfold execRspConsWrite
  exact State.write32_keeps _ _ _ _

theorem execLogSelWrite_keeps (ag : Agent) (v : BitVec 32) (s : State) : Kept s (execLogSelWrite ag v s) := by
  unfold execLogSelWrite
  exact State.write32_keeps _ _ _ _

theorem execDoorbell_keeps (ag : Agent) (q : Nat) (tail : BitVec 32) (s : State) : Kept s (execDoorbell ag q tail s) := by
  unfold execDoorbell
  refine Kept.next ?_
  exact State.regWrite_keeps ..

theorem State.svWrite_keeps (s : State) (ag : Agent) (op : Nat) (v : BitVec 64) : Kept s (State.svWrite s ag op v) := by
  unfold State.svWrite
  refine Kept.next ?_
  refine Keeps.ite (fun _ => ?_) (fun _ => ?_)
  · exact State.regWrite_keeps ..
  · exact Keeps.refl _

theorem execSvOpSignalAdd_keeps (ag : Agent) (v : BitVec 64) (s : State) : Kept s (execSvOpSignalAdd ag v s) := by
  unfold execSvOpSignalAdd
  exact State.svWrite_keeps _ _ _ _

theorem execSvOpConsume_keeps (ag : Agent) (v : BitVec 64) (s : State) : Kept s (execSvOpConsume ag v s) := by
  unfold execSvOpConsume
  exact State.svWrite_keeps _ _ _ _

theorem execSvOpArrive_keeps (ag : Agent) (v : BitVec 64) (s : State) : Kept s (execSvOpArrive ag v s) := by
  unfold execSvOpArrive
  exact State.svWrite_keeps _ _ _ _

theorem execSvOpStatusRead_keeps (ag : Agent) (s : State) : Kept s (execSvOpStatusRead ag s) := by
  unfold execSvOpStatusRead
  refine Kept.next ?_
  refine Keeps.ite (fun _ => ?_) (fun _ => ?_)
  · exact Keeps.refl _
  · exact State.regRead_keeps ..

theorem execObjSelWrite_keeps (ag : Agent) (v : BitVec 32) (s : State) : Kept s (execObjSelWrite ag v s) := by
  unfold execObjSelWrite
  exact State.write32_keeps _ _ _ _

theorem execSvSelWrite_keeps (ag : Agent) (v : BitVec 32) (s : State) : Kept s (execSvSelWrite ag v s) := by
  unfold execSvSelWrite
  exact State.write32_keeps _ _ _ _

theorem execResSelWrite_keeps (ag : Agent) (v : BitVec 32) (s : State) : Kept s (execResSelWrite ag v s) := by
  unfold execResSelWrite
  exact State.write32_keeps _ _ _ _

theorem execHeadEnable_keeps (ag : Agent) (d : Nat) (v : BitVec 32) (s : State) : Kept s (execHeadEnable ag d v s) := by
  unfold execHeadEnable
  exact State.write32_keeps _ _ _ _

theorem execHeadDisable_keeps (ag : Agent) (d : Nat) (v : BitVec 32) (s : State) : Kept s (execHeadDisable ag d v s) := by
  unfold execHeadDisable
  exact State.write32_keeps _ _ _ _

theorem execPortRouteWrite_keeps (ag : Agent) (v : BitVec 32) (s : State) : Kept s (execPortRouteWrite ag v s) := by
  unfold execPortRouteWrite
  exact State.write32_keeps _ _ _ _

theorem execDpPortEnable_keeps (ag : Agent) (d : Nat) (v : BitVec 32) (s : State) : Kept s (execDpPortEnable ag d v s) := by
  unfold execDpPortEnable
  exact State.write32_keeps _ _ _ _

theorem execDpTrainStart_keeps (ag : Agent) (d : Nat) (s : State) : Kept s (execDpTrainStart ag d s) := by
  unfold execDpTrainStart
  exact State.write32_keeps _ _ _ _

theorem execAuxCmdStart_keeps (ag : Agent) (d : Nat) (v : BitVec 32) (s : State) : Kept s (execAuxCmdStart ag d v s) := by
  unfold execAuxCmdStart
  exact State.write32_keeps _ _ _ _

theorem execSdpCommit_keeps (ag : Agent) (d : Nat) (v : BitVec 32) (s : State) : Kept s (execSdpCommit ag d v s) := by
  unfold execSdpCommit
  exact State.write32_keeps _ _ _ _

theorem execLutDataWrite_keeps (ag : Agent) (d : Nat) (v : BitVec 32) (s : State) : Kept s (execLutDataWrite ag d v s) := by
  unfold execLutDataWrite
  exact State.write32_keeps _ _ _ _

theorem execCaptureArm_keeps (ag : Agent) (d : Nat) (s : State) : Kept s (execCaptureArm ag d s) := by
  unfold execCaptureArm
  exact State.write32_keeps _ _ _ _

theorem execFrAck_keeps (ag : Agent) (v : BitVec 32) (s : State) : Kept s (execFrAck ag v s) := by
  unfold execFrAck
  exact State.write32_keeps _ _ _ _

theorem execFwReport_keeps (ag : Agent) (v : BitVec 64) (s : State) : Kept s (execFwReport ag v s) := by
  unfold execFwReport
  refine Kept.next ?_
  exact State.regWrite_keeps ..

theorem execFrSelWrite_keeps (ag : Agent) (v : BitVec 32) (s : State) : Kept s (execFrSelWrite ag v s) := by
  unfold execFrSelWrite
  exact State.write32_keeps _ _ _ _

theorem execHistSelWrite_keeps (ag : Agent) (v : BitVec 32) (s : State) : Kept s (execHistSelWrite ag v s) := by
  unfold execHistSelWrite
  exact State.write32_keeps _ _ _ _

theorem execSliceSelWrite_keeps (ag : Agent) (v : BitVec 32) (s : State) : Kept s (execSliceSelWrite ag v s) := by
  unfold execSliceSelWrite
  exact State.write32_keeps _ _ _ _

theorem execRegWrite_keeps (h : Nat) (s : State) : Kept s (execRegWrite h s) := by
  unfold execRegWrite
  refine Kept.next ?_
  refine Keeps.trans ?_ (State.begin__keeps (h_body := ?_) ..)
  · exact Keeps.refl _
  · intro _
    intro _
    intro _
    intro _
    extract_lets +onlyGivenNames z1
    clear_value z1
    extract_lets +onlyGivenNames z2
    clear_value z2
    split
    · refine (State.cmdFault_keeps ..).of ?_
      exact State.actDenied_keeps ..
    · extract_lets +onlyGivenNames z3
      refine Keeps.cut (b := z3) ?_ ?_
      · unfold z3
        refine Keeps.foldl (fun _ _ => ?_) ?_
        · exact State.regWrite_keeps ..
        · exact State.advance_keeps ..
      · intro hz3
        exact (State.countDone_keeps ..).of ‹_›

theorem execRegRead_keeps (h : Nat) (avail : Bool) (s : State) : Kept s (execRegRead h avail s) := by
  unfold execRegRead
  refine Kept.next ?_
  refine Keeps.trans ?_ (State.begin__keeps (h_body := ?_) ..)
  · exact Keeps.refl _
  · intro _
    intro _
    intro _
    intro _
    extract_lets +onlyGivenNames z1
    clear_value z1
    extract_lets +onlyGivenNames z2
    clear_value z2
    extract_lets +onlyGivenNames z3
    clear_value z3
    split
    · refine (State.cmdFault_keeps ..).of ?_
      exact State.actDenied_keeps ..
    · split
      · refine (State.accessFault_keeps ..).of ?_
        refine (Keeps.fst (State.segs_keeps ..) (by assumption)).of ?_
        exact Keeps.refl _
      · dsimp -zeta -zetaHave only
        refine (State.putBytesOf_keeps ..).of ?_
        refine Keeps.mk' ?_ (.refl _) le_rfl
        refine Keeps.foldl_snd (fun _ _ => ?_) ?_
        · extract_lets +onlyGivenNames z4
          refine Keeps.cut (b := z4) ?_ ?_
          · unfold z4
            exact State.regRead_keeps ..
          · intro hz4
            refine Keeps.mk_snd ?_
            assumption
        · refine Keeps.mk_snd ?_
          refine (Keeps.fst (State.segs_keeps ..) (by assumption)).of ?_
          exact Keeps.refl _

end Sys2Proof.Machine
end

