-- ==== Sys2Proof/Laws/KeepsClock.lean ====
section
/-! SUPPORT. What the operations and commands of Machine/Clock.lean keep: one lemma for each. -/

set_option Elab.async false
namespace Sys2Proof.Machine

theorem State.microsecond_keeps (s : State) : Keeps s (State.microsecond s) := by
  unfold State.microsecond
  extract_lets +onlyGivenNames z1
  refine Keeps.cut (b := z1) ?_ ?_
  · unfold z1
    exact Keeps.mk' (Keeps.refl _) (.refl _) le_rfl
  · intro hz1
    refine Keeps.foldl (fun _ _ => ?_) ?_
    · refine Keeps.ite (fun _ => ?_) (fun _ => ?_)
      · exact State.count_keeps ..
      · exact Keeps.refl _
    · assumption

theorem State.drainTrace_keeps (s : State) : Keeps s (State.drainTrace s) := by
  unfold State.drainTrace
  split
  · refine (State.logAppend_keeps ..).of ?_
    exact Keeps.mk' (Keeps.refl _) (.refl _) le_rfl
  · exact Keeps.refl _

theorem State.fireArmed_keeps (s : State) : Keeps s (State.fireArmed s) := by
  unfold State.fireArmed
  split
  · exact Keeps.refl _
  · extract_lets +onlyGivenNames z1
    clear_value z1
    refine Keeps.ite (fun _ => ?_) (fun _ => ?_)
    · refine (State.injFire_keeps ..).of ?_
      exact State.bumpFree_keeps ..
    · exact State.bumpFree_keeps ..

theorem State.countCycles_keeps (s : State) : Keeps s (State.countCycles s) := by
  unfold State.countCycles
  exact Keeps.mk' (Keeps.refl _) (.refl _) le_rfl

theorem State.clockTick_keeps (s : State) : Keeps s (State.clockTick s) := by
  unfold State.clockTick
  refine Keeps.ite (fun _ => ?_) (fun _ => ?_)
  · exact Keeps.refl _
  · extract_lets +onlyGivenNames z1
    clear_value z1
    extract_lets +onlyGivenNames z2
    refine Keeps.cut (b := z2) ?_ ?_
    · unfold z2
      exact Keeps.mk' (Keeps.refl _) (.refl _) le_rfl
    · intro hz2
      extract_lets +onlyGivenNames z3
      refine Keeps.cut (b := z3) ?_ ?_
      · unfold z3
        exact (State.countCycles_keeps ..).of ‹_›
      · intro hz3
        extract_lets +onlyGivenNames z4
        refine Keeps.cut (b := z4) ?_ ?_
        · unfold z4
          refine Keeps.ite (fun _ => ?_) (fun _ => ?_)
          · exact (State.microsecond_keeps ..).of ‹_›
          · assumption
        · intro hz4
          refine (State.fireArmed_keeps ..).of ?_
          refine (State.cccTick_keeps ..).of ?_
          exact (State.drainTrace_keeps ..).of ‹_›

end Sys2Proof.Machine
end

