-- ==== Sys2Proof/Laws/SameCore.lean ====
section
/-! SUPPORT. The relation of a state to one that work on the device leads to, and how it passes through the shapes definitions have. -/
namespace Sys2Proof.Machine

/-- What work on the device leaves as it is: power and resets, GTIME and the core voltage, the SEC core, trim and telemetry, and
whether the link is up and which VFs are enabled. -/
structure SameCore (s t : State) : Prop where
  pw : t.pw = s.pw
  gtime : t.ck.gtime = s.ck.gtime
  vcore : t.ck.vcore = s.ck.vcore
  sec : t.sec = s.sec
  trim : t.trim = s.trim
  link : t.pcie.linkUp = s.pcie.linkUp
  vfs : t.pcie.vfEn = s.pcie.vfEn ∧ t.pcie.numVfs = s.pcie.numVfs

theorem SameCore.refl (s : State) : SameCore s s := ⟨rfl, rfl, rfl, rfl, rfl, rfl, rfl, rfl⟩

theorem SameCore.trans {s t u : State} (h : SameCore s t) (k : SameCore t u) : SameCore s u :=
  ⟨k.pw.trans h.pw, k.gtime.trans h.gtime, k.vcore.trans h.vcore, k.sec.trans h.sec, k.trim.trans h.trim, k.link.trans h.link,
    k.vfs.1.trans h.vfs.1, k.vfs.2.trans h.vfs.2⟩

theorem SameCore.of {s t u : State} (k : SameCore t u) (h : SameCore s t) : SameCore s u := h.trans k

theorem SameCore.mk' {s s1 : State} (h : SameCore s s1) {pw ck pcie sec fw fcol brn insts slots queues cmds movers launches ctxs rr
    clusters beacons resvs sync sess disp trim caches htab mem poison vague flips regs expert effect lowWord capture lockUsed own
    nextId pending} (_ : SecLe s1.sec sec) (_ : s1.own.freeCtr ≤ own.freeCtr)
    (hf : pw = s1.pw ∧ ck.gtime = s1.ck.gtime ∧ ck.vcore = s1.ck.vcore ∧ sec = s1.sec ∧ trim = s1.trim ∧ pcie.linkUp = s1.pcie.linkUp ∧
      pcie.vfEn = s1.pcie.vfEn ∧ pcie.numVfs = s1.pcie.numVfs := by exact ⟨rfl, rfl, rfl, rfl, rfl, rfl, rfl, rfl⟩) :
    SameCore s { pw := pw, ck := ck, pcie := pcie, sec := sec, fw := fw, fcol := fcol, brn := brn, insts := insts,
                 slots := slots, queues := queues, cmds := cmds, movers := movers, launches := launches, ctxs := ctxs,
                 rr := rr, clusters := clusters, beacons := beacons, resvs := resvs, sync := sync, sess := sess, disp := disp,
                 trim := trim, caches := caches, htab := htab, mem := mem, poison := poison, vague := vague,
                 flips := flips, regs := regs, expert := expert, effect := effect, lowWord := lowWord, capture := capture,
                 lockUsed := lockUsed, own := own, nextId := nextId, pending := pending } :=
  h.trans ⟨hf.1, hf.2.1, hf.2.2.1, hf.2.2.2.1, hf.2.2.2.2.1, hf.2.2.2.2.2.1, hf.2.2.2.2.2.2⟩

theorem SameCore.ite {s a b : State} {c : Prop} [Decidable c] (h : c → SameCore s a) (k : ¬c → SameCore s b) :
    SameCore s (if c then a else b) := by
  split
  · exact h ‹_›
  · exact k ‹_›

theorem SameCore.ite_fst {α : Type} {s : State} {a b : State × α} {c : Prop} [Decidable c] (h : c → SameCore s a.1)
    (k : ¬c → SameCore s b.1) : SameCore s (if c then a else b).1 := by
  split
  · exact h ‹_›
  · exact k ‹_›

theorem SameCore.ite_snd {α : Type} {s : State} {a b : α × State} {c : Prop} [Decidable c] (h : c → SameCore s a.2)
    (k : ¬c → SameCore s b.2) : SameCore s (if c then a else b).2 := by
  split
  · exact h ‹_›
  · exact k ‹_›

theorem SameCore.ite_thd {α β : Type} {s : State} {a b : α × β × State} {c : Prop} [Decidable c] (h : c → SameCore s a.2.2)
    (k : ¬c → SameCore s b.2.2) : SameCore s (if c then a else b).2.2 := by
  split
  · exact h ‹_›
  · exact k ‹_›

theorem SameCore.mk_thd {α β : Type} {s a : State} {b : α} {c : β} (h : SameCore s a) : SameCore s (b, c, a).2.2 := h

theorem SameCore.mk_fst {α : Type} {s a : State} {b : α} (h : SameCore s a) : SameCore s (a, b).1 := h

theorem SameCore.mk_snd {α : Type} {s a : State} {b : α} (h : SameCore s a) : SameCore s (b, a).2 := h

/-- A middle state is named once. -/
theorem SameCore.cut {s b t : State} (h : SameCore s b) (k : SameCore s b → SameCore s t) : SameCore s t := k h

theorem SameCore.fst {α : Type} {s t : State} {p : State × α} {a : α} (h : SameCore s p.1) (e : p = (t, a)) : SameCore s t := by
  subst e; exact h

theorem SameCore.snd {α : Type} {s t : State} {p : α × State} {a : α} (h : SameCore s p.2) (e : p = (a, t)) : SameCore s t := by
  subst e; exact h

theorem SameCore.thd {α β : Type} {s t : State} {p : α × β × State} {a : α} {b : β} (h : SameCore s p.2.2) (e : p = (a, b, t)) :
    SameCore s t := by
  subst e; exact h

theorem SameCore.foldl {α : Type} {f : State → α → State} {l : List α} {s t : State} (h : ∀ a x, SameCore a (f a x))
    (k : SameCore s t) : SameCore s (l.foldl f t) := by
  induction l generalizing t with
  | nil => exact k
  | cons x l ih => exact ih (k.trans (h t x))

theorem SameCore.foldl_fst {α β : Type} {f : State × β → α → State × β} {l : List α} {s : State} {p : State × β}
    (h : ∀ a x, SameCore a.1 (f a x).1) (k : SameCore s p.1) : SameCore s (l.foldl f p).1 := by
  induction l generalizing p with
  | nil => exact k
  | cons x l ih => exact ih (k.trans (h p x))

theorem SameCore.foldl_snd {α β : Type} {f : β × State → α → β × State} {l : List α} {s : State} {p : β × State}
    (h : ∀ a x, SameCore a.2 (f a x).2) (k : SameCore s p.2) : SameCore s (l.foldl f p).2 := by
  induction l generalizing p with
  | nil => exact k
  | cons x l ih => exact ih (k.trans (h p x))

theorem SameCore.foldr_fst {α β : Type} {f : α → State × β → State × β} {l : List α} {s : State} {p : State × β}
    (h : ∀ x a, SameCore a.1 (f x a).1) (k : SameCore s p.1) : SameCore s (l.foldr f p).1 := by
  induction l with
  | nil => exact k
  | cons x l ih => exact ih.trans (h x _)

/-- Whatever next state a command answers, the core of the device is as before. -/
def CoreKept (s : State) (o : Host.Outcome State Fault Refusal) : Prop := ∀ t, o = .next t → SameCore s t

theorem CoreKept.next {s t : State} (h : SameCore s t) : CoreKept s (.next t) := by
  intro u hu
  injection hu with hu
  exact hu ▸ h

theorem CoreKept.fault (s : State) (r : Fault) : CoreKept s (.fault r) := by
  intro u hu
  cases hu

theorem CoreKept.ite {s : State} {a b : Host.Outcome State Fault Refusal} {c : Prop} [Decidable c] (h : c → CoreKept s a)
    (k : ¬c → CoreKept s b) : CoreKept s (if c then a else b) := by
  split
  · exact h ‹_›
  · exact k ‹_›

end Sys2Proof.Machine
end

