-- ==== Sys2Proof/Laws/SameOps.lean ====
section
/-! SUPPORT. That the operations and commands of Machine/Ops.lean leave power, time, the SEC core and trim alone: one lemma for each. -/

set_option Elab.async false
namespace Sys2Proof.Machine

theorem State.setInst_same (s : State) (k : Nat) (i : Inst) : SameCore s (State.setInst s k i) := by
  unfold State.setInst
  exact SameCore.mk' (SameCore.refl _) (.refl _) le_rfl

theorem State.setSlot_same (s : State) (n : Nat) (v : Slot) : SameCore s (State.setSlot s n v) := by
  unfold State.setSlot
  exact SameCore.mk' (SameCore.refl _) (.refl _) le_rfl

theorem State.setQueue_same (s : State) (h : Nat) (q : Queue) : SameCore s (State.setQueue s h q) := by
  unfold State.setQueue
  exact SameCore.mk' (SameCore.refl _) (.refl _) le_rfl

theorem State.setRings_same (s : State) (k : Nat) (b : Brn) : SameCore s (State.setRings s k b) := by
  unfold State.setRings
  exact SameCore.mk' (SameCore.refl _) (.refl _) le_rfl

theorem State.setCluster_same (s : State) (n : Nat) (c : Cluster) : SameCore s (State.setCluster s n c) := by
  unfold State.setCluster
  exact SameCore.mk' (SameCore.refl _) (.refl _) le_rfl

theorem State.setBeacon_same (s : State) (b : Nat) (v : Beacon) : SameCore s (State.setBeacon s b v) := by
  unfold State.setBeacon
  exact SameCore.mk' (SameCore.refl _) (.refl _) le_rfl

theorem State.setResv_same (s : State) (r : Nat) (v : Resv) : SameCore s (State.setResv s r v) := by
  unfold State.setResv
  exact SameCore.mk' (SameCore.refl _) (.refl _) le_rfl

theorem State.setObj_same (s : State) (i : Nat) (o : SyncObj) : SameCore s (State.setObj s i o) := by
  unfold State.setObj
  exact SameCore.mk' (SameCore.refl _) (.refl _) le_rfl

theorem State.setSession_same (s : State) (n : Nat) (v : Sess) : SameCore s (State.setSession s n v) := by
  unfold State.setSession
  exact SameCore.mk' (SameCore.refl _) (.refl _) le_rfl

theorem State.setFn_same (s : State) (k : Nat) (f : FnCfg) : SameCore s (State.setFn s k f) := by
  unfold State.setFn
  exact SameCore.mk' (SameCore.refl _) (.refl _) le_rfl

theorem State.setLaunch_same (s : State) (i : Nat) (l : Launch) : SameCore s (State.setLaunch s i l) := by
  unfold State.setLaunch
  exact SameCore.mk' (SameCore.refl _) (.refl _) le_rfl

theorem State.setCtx_same (s : State) (k : Nat) (c : Ctx) : SameCore s (State.setCtx s k c) := by
  unfold State.setCtx
  exact SameCore.mk' (SameCore.refl _) (.refl _) le_rfl

theorem State.setHead_same (s : State) (h : Nat) (v : Head) : SameCore s (State.setHead s h v) := by
  unfold State.setHead
  exact SameCore.mk' (SameCore.refl _) (.refl _) le_rfl

theorem State.setPort_same (s : State) (d : Nat) (v : DpPort) : SameCore s (State.setPort s d v) := by
  unfold State.setPort
  exact SameCore.mk' (SameCore.refl _) (.refl _) le_rfl

theorem State.bumpFree_same (s : State) : SameCore s (State.bumpFree s) := by
  unfold State.bumpFree
  exact SameCore.mk' (SameCore.refl _) (SecLe.refl _) (Nat.le_succ _)

theorem State.drawWord_same (s : State) : SameCore s (State.drawWord s).2 := by
  unfold State.drawWord
  refine SameCore.mk_snd ?_
  exact State.bumpFree_same ..

theorem State.drawWord64_same (s : State) : SameCore s (State.drawWord64 s).2 := by
  unfold State.drawWord64
  refine SameCore.mk_snd ?_
  exact State.bumpFree_same ..

theorem State.drawNat_same (s : State) (n : Nat) : SameCore s (State.drawNat s n).2 := by
  unfold State.drawNat
  refine SameCore.mk_snd ?_
  exact State.bumpFree_same ..

theorem State.drawBool_same (s : State) : SameCore s (State.drawBool s).2 := by
  unfold State.drawBool
  refine SameCore.mk_snd ?_
  exact State.bumpFree_same ..

theorem State.drawBytes_same (s : State) (n : Nat) : SameCore s (State.drawBytes s n).2 := by
  unfold State.drawBytes
  refine SameCore.mk_snd ?_
  exact State.bumpFree_same ..

theorem State.setReg_same (s : State) (a : Nat) (v : W) : SameCore s (State.setReg s a v) := by
  unfold State.setReg
  exact SameCore.mk' (SameCore.refl _) (.refl _) le_rfl

theorem State.countField_same (s : State) (a : Nat) (lo : Nat) (n : Nat) (k : Nat) : SameCore s (State.countField s a lo n k) := by
  unfold State.countField
  exact State.setReg_same ..

theorem State.count_same (s : State) (a : Nat) : SameCore s (State.count s a) := by
  unfold State.count
  exact State.countField_same ..

theorem State.maxReg_same (s : State) (a : Nat) (v : Nat) : SameCore s (State.maxReg s a v) := by
  unfold State.maxReg
  exact State.setReg_same ..

theorem State.captureAt_same (s : State) (a : Nat) (v : Nat) (ovr : Nat) : SameCore s (State.captureAt s a v ovr).2 := by
  unfold State.captureAt
  refine SameCore.ite_snd (fun _ => ?_) (fun _ => ?_)
  · refine SameCore.mk_snd ?_
    extract_lets +onlyGivenNames z1
    refine SameCore.cut (b := z1) ?_ ?_
    · unfold z1
      exact State.setReg_same ..
    · intro hz1
      exact SameCore.mk' ‹_› (.refl _) le_rfl
  · refine SameCore.mk_snd ?_
    exact State.setReg_same ..

theorem State.capture31_same (s : State) (a : Nat) (v : Nat) : SameCore s (State.capture31 s a v) := by
  unfold State.capture31
  exact State.captureAt_same ..

theorem State.clearReg_same (s : State) (a : Nat) : SameCore s (State.clearReg s a) := by
  unfold State.clearReg
  extract_lets +onlyGivenNames z1
  refine SameCore.cut (b := z1) ?_ ?_
  · unfold z1
    exact State.setReg_same ..
  · intro hz1
    exact SameCore.mk' ‹_› (.refl _) le_rfl

theorem State.markMsg_same (s : State) (m : HostMsg) : SameCore s (State.markMsg s m) := by
  unfold State.markMsg
  split
  · exact SameCore.mk' (SameCore.refl _) (.refl _) le_rfl
  · exact SameCore.refl _

theorem State.atsUse_same (s : State) (k : Nat) (a : Nat) : SameCore s (State.atsUse s k a) := by
  unfold State.atsUse
  refine SameCore.ite (fun _ => ?_) (fun _ => ?_)
  · exact SameCore.refl _
  · extract_lets +onlyGivenNames z1
    clear_value z1
    extract_lets +onlyGivenNames z2
    refine SameCore.cut (b := z2) ?_ ?_
    · unfold z2
      exact State.bumpFree_same ..
    · intro hz2
      exact SameCore.mk' ‹_› (.refl _) le_rfl

theorem State.atsMsg_same (s : State) (m : HostMsg) : SameCore s (State.atsMsg s m) := by
  unfold State.atsMsg
  split
  · exact State.atsUse_same ..
  · exact SameCore.refl _

theorem State.issueHost_same (s : State) (m : HostMsg) : SameCore s (State.issueHost s m) := by
  unfold State.issueHost
  refine SameCore.ite (fun _ => ?_) (fun _ => ?_)
  · exact SameCore.refl _
  · split
    · exact SameCore.mk' (SameCore.refl _) (.refl _) le_rfl
    · refine SameCore.ite (fun _ => ?_) (fun _ => ?_)
      · refine (State.markMsg_same ..).of ?_
        refine (State.atsMsg_same ..).of ?_
        exact SameCore.mk' (SameCore.refl _) (.refl _) le_rfl
      · exact SameCore.mk' (SameCore.refl _) (.refl _) le_rfl
    · refine (State.markMsg_same ..).of ?_
      refine (State.atsMsg_same ..).of ?_
      exact SameCore.mk' (SameCore.refl _) (.refl _) le_rfl

theorem State.issueWrite_same (s : State) (k : Nat) (a : Nat) (d : List Byte) (marks : Bool) (copy : Nat) : SameCore s (State.issueWrite s k a d marks copy) := by
  unfold State.issueWrite
  refine SameCore.foldl (fun _ _ => ?_) ?_
  · dsimp -zeta -zetaHave only
    exact State.issueHost_same ..
  · exact SameCore.refl _

theorem State.hostWrite_same (s : State) (k : Nat) (a : Nat) (d : List Byte) (marks : Bool) : SameCore s (State.hostWrite s k a d marks) := by
  unfold State.hostWrite
  exact State.issueWrite_same ..

theorem State.msixEvent_same (s : State) (k : Nat) (v : Nat) : SameCore s (State.msixEvent s k v) := by
  unfold State.msixEvent
  refine SameCore.ite (fun _ => ?_) (fun _ => ?_)
  · exact SameCore.mk' (SameCore.refl _) (.refl _) le_rfl
  · exact State.issueHost_same ..

theorem State.msixRelease_same (s : State) (k : Nat) : SameCore s (State.msixRelease s k) := by
  unfold State.msixRelease
  refine SameCore.foldl (fun _ _ => ?_) ?_
  · refine SameCore.ite (fun _ => ?_) (fun _ => ?_)
    · refine (State.issueHost_same ..).of ?_
      exact SameCore.mk' (SameCore.refl _) (.refl _) le_rfl
    · exact SameCore.refl _
  · exact SameCore.refl _

theorem State.intEdge_same (s : State) (base : Nat) (before : Nat) : SameCore s (State.intEdge s base before) := by
  unfold State.intEdge
  extract_lets +onlyGivenNames z1
  clear_value z1
  refine SameCore.ite (fun _ => ?_) (fun _ => ?_)
  · exact SameCore.refl _
  · split
    · exact State.msixEvent_same ..
    · exact SameCore.refl _

theorem State.causes_same (s : State) (base : Nat) (bits : Nat) : SameCore s (State.causes s base bits) := by
  unfold State.causes
  refine (State.intEdge_same ..).of ?_
  exact State.setReg_same ..

theorem State.cause_same (s : State) (base : Nat) (bit : Nat) : SameCore s (State.cause s base bit) := by
  unfold State.cause
  exact State.causes_same ..

theorem State.dropFault_same (s : State) : SameCore s (State.dropFault s) := by
  unfold State.dropFault
  refine (State.cause_same ..).of ?_
  exact State.count_same ..

theorem State.enqueueFault_same (s : State) (f : FaultIn) : SameCore s (State.enqueueFault s f) := by
  unfold State.enqueueFault
  extract_lets +onlyGivenNames z1
  refine SameCore.cut (b := z1) ?_ ?_
  · unfold z1
    exact State.count_same ..
  · intro hz1
    extract_lets +onlyGivenNames z2
    clear_value z2
    extract_lets +onlyGivenNames z3
    refine SameCore.ite (fun _ => ?_) (fun _ => ?_)
    · unfold z3
      exact SameCore.mk' ‹_› (.refl _) le_rfl
    · refine SameCore.ite (fun _ => ?_) (fun _ => ?_)
      · refine SameCore.ite (fun _ => ?_) (fun _ => ?_)
        · unfold z3
          exact SameCore.mk' ‹_› (.refl _) le_rfl
        · exact (State.dropFault_same ..).of ‹_›
      · refine SameCore.ite (fun _ => ?_) (fun _ => ?_)
        · unfold z3
          exact SameCore.mk' ‹_› (.refl _) le_rfl
        · refine SameCore.ite (fun _ => ?_) (fun _ => ?_)
          · unfold z3
            refine SameCore.mk' ?_ (.refl _) le_rfl
            exact (State.count_same ..).of ‹_›
          · unfold z3
            refine SameCore.mk' ?_ (.refl _) le_rfl
            exact (State.dropFault_same ..).of ‹_›

theorem State.raiseAs_same (s : State) (code : Nat) (cls : Nat) (lvl : Level) (o : Owner) (hwq : Option Nat) (base : Nat) (chk : Nat) (detail : Nat) (scrub : Bool) (injected : Bool) (onFaulted : Bool) : SameCore s (State.raiseAs s code cls lvl o hwq base chk detail scrub injected onFaulted) := by
  unfold State.raiseAs
  exact State.enqueueFault_same ..

theorem State.raise_same (s : State) (code : Nat) (o : Owner) (hwq : Option Nat) (base : Nat) (detail : Nat) : SameCore s (State.raise s code o hwq base detail) := by
  unfold State.raise
  exact State.raiseAs_same ..

theorem State.captureEvent_same (s : State) (a : Nat) (kind : Nat) (apply : Nat) (ag : Agent) : SameCore s (State.captureEvent s a kind apply ag) := by
  unfold State.captureEvent
  refine SameCore.ite (fun _ => ?_) (fun _ => ?_)
  · refine (State.setReg_same ..).of ?_
    exact State.setReg_same ..
  · exact State.setReg_same ..

theorem State.lockViol_same (s : State) (a : Nat) (base : Nat) (apply : Nat) (ag : Agent) : SameCore s (State.lockViol s a base apply ag) := by
  unfold State.lockViol
  extract_lets +onlyGivenNames z1
  refine SameCore.cut (b := z1) ?_ ?_
  · unfold z1
    exact State.setReg_same ..
  · intro hz1
    extract_lets +onlyGivenNames z2
    refine SameCore.cut (b := z2) ?_ ?_
    · unfold z2
      refine (State.captureEvent_same ..).of ?_
      exact (State.cause_same ..).of ‹_›
    · intro hz2
      exact (State.raise_same ..).of ‹_›

theorem State.busyDrop_same (s : State) (a : Nat) (base : Nat) (apply : Nat) (ag : Agent) : SameCore s (State.busyDrop s a base apply ag) := by
  unfold State.busyDrop
  extract_lets +onlyGivenNames z1
  refine SameCore.cut (b := z1) ?_ ?_
  · unfold z1
    exact State.setReg_same ..
  · intro hz1
    extract_lets +onlyGivenNames z2
    refine SameCore.cut (b := z2) ?_ ?_
    · unfold z2
      refine (State.captureEvent_same ..).of ?_
      exact (State.cause_same ..).of ‹_›
    · intro hz2
      exact (State.raise_same ..).of ‹_›

theorem State.rsvdValue_same (s : State) (a : Nat) (base : Nat) (apply : Nat) (ag : Agent) : SameCore s (State.rsvdValue s a base apply ag) := by
  unfold State.rsvdValue
  refine (State.captureEvent_same ..).of ?_
  exact State.cause_same ..

theorem State.unmapped_same (s : State) : SameCore s (State.unmapped s) := by
  unfold State.unmapped
  exact State.count_same ..

theorem State.answer_same (s : State) (d : List Byte) (cpl : Nat) : SameCore s (State.answer s d cpl) := by
  unfold State.answer
  exact SameCore.mk' (SameCore.refl _) (.refl _) le_rfl

end Sys2Proof.Machine
end

