-- ==== Sys2Proof/Laws/SameMem.lean ====
section
/-! SUPPORT. That the operations and commands of Machine/Mem.lean leave power, time, the SEC core and trim alone: one lemma for each. -/

set_option Elab.async false
namespace Sys2Proof.Machine

theorem State.markGrans_same (s : State) (g : Nat) (n : Nat) : SameCore s (State.markGrans s g n) := by
  unfold State.markGrans
  refine SameCore.foldl (fun _ _ => ?_) ?_
  · exact SameCore.mk' (SameCore.refl _) (.refl _) le_rfl
  · exact SameCore.refl _

theorem State.touchHeads_same (s : State) (pa : Nat) (n : Nat) : SameCore s (State.touchHeads s pa n) := by
  unfold State.touchHeads
  refine SameCore.ite (fun _ => ?_) (fun _ => ?_)
  · exact SameCore.mk' (SameCore.refl _) (.refl _) le_rfl
  · exact SameCore.refl _

theorem State.devWriteMask_same (s : State) (pa : Nat) (bs : List (Option Byte)) : SameCore s (State.devWriteMask s pa bs) := by
  unfold State.devWriteMask
  refine SameCore.ite (fun _ => SameCore.refl _) (fun _ => ?_)
  extract_lets mark hit mem poison z1 z2 z3
  have h1 : SameCore s z1 :=
    ⟨rfl, rfl, rfl, rfl, rfl, rfl, rfl, rfl⟩
  clear_value z1
  have h2 : SameCore s z2 := by
    unfold z2
    refine SameCore.ite (fun _ => ?_) (fun _ => h1)
    exact SameCore.mk' h1 (.refl _) le_rfl
  clear_value z2
  have h3 : SameCore s z3 := by
    unfold z3
    refine SameCore.ite (fun _ => ?_) (fun _ => h2)
    refine (State.bumpFree_same ..).of ?_
    exact SameCore.mk' h2 (.refl _) le_rfl
  clear_value z3
  exact (h3.trans (State.markGrans_same ..)).trans (State.touchHeads_same ..)

theorem State.devWrite_same (s : State) (pa : Nat) (bs : List Byte) : SameCore s (State.devWrite s pa bs) := by
  unfold State.devWrite
  exact State.devWriteMask_same ..

theorem State.eccEvent_same (s : State) (pa : Nat) (uncorr : Bool) (patrol : Bool) : SameCore s (State.eccEvent s pa uncorr patrol) := by
  unfold State.eccEvent
  extract_lets +onlyGivenNames z1
  clear_value z1
  extract_lets +onlyGivenNames z2
  clear_value z2
  split
  · refine (State.setReg_same ..).of ?_
    refine (State.setReg_same ..).of ?_
    refine (SameCore.snd (State.captureAt_same ..) (by assumption)).of ?_
    exact SameCore.refl _
  · refine (SameCore.snd (State.captureAt_same ..) (by assumption)).of ?_
    exact SameCore.refl _

theorem State.eccFind_same (s : State) (e : EccFind) (patrol : Bool) : SameCore s (State.eccFind s e patrol) := by
  unfold State.eccFind
  split
  · exact SameCore.refl _
  · refine SameCore.ite (fun _ => ?_) (fun _ => ?_)
    · exact SameCore.refl _
    · extract_lets +onlyGivenNames z1
      refine SameCore.cut (b := z1) ?_ ?_
      · unfold z1
        refine (State.eccEvent_same ..).of ?_
        exact State.count_same ..
      · intro hz1
        extract_lets +onlyGivenNames z2
        refine SameCore.cut (b := z2) ?_ ?_
        · unfold z2
          exact (State.raiseAs_same ..).of ‹_›
        · intro hz2
          exact SameCore.mk' ‹_› (.refl _) le_rfl
  · refine SameCore.ite (fun _ => ?_) (fun _ => ?_)
    · exact SameCore.refl _
    · extract_lets +onlyGivenNames z1
      refine SameCore.cut (b := z1) ?_ ?_
      · unfold z1
        exact SameCore.mk' (SameCore.refl _) (.refl _) le_rfl
      · intro hz1
        extract_lets +onlyGivenNames z2
        refine SameCore.cut (b := z2) ?_ ?_
        · unfold z2
          refine (State.eccEvent_same ..).of ?_
          exact (State.count_same ..).of ‹_›
        · intro hz2
          exact (State.cause_same ..).of ‹_›

theorem State.xlatePage_same (s : State) (k : Nat) (va : Nat) (write : Bool) (a : Asker) : SameCore s (State.xlatePage s k va write a).1 := by
  unfold State.xlatePage
  extract_lets +onlyGivenNames z1
  clear_value z1
  extract_lets +onlyGivenNames z2
  clear_value z2
  extract_lets +onlyGivenNames z3
  split
  · unfold z3
    extract_lets +onlyGivenNames z4
    refine SameCore.cut (b := z4) ?_ ?_
    · unfold z4
      refine (State.count_same ..).of ?_
      exact State.count_same ..
    · intro hz4
      split
      · extract_lets +onlyGivenNames z5
        clear_value z5
        refine SameCore.mk_fst ?_
        exact SameCore.mk' ‹_› (.refl _) le_rfl
      · refine SameCore.mk_fst ?_
        assumption
  · extract_lets +onlyGivenNames z4
    clear_value z4
    extract_lets +onlyGivenNames z5
    clear_value z5
    refine SameCore.ite_fst (fun _ => ?_) (fun _ => ?_)
    · refine SameCore.mk_fst ?_
      exact SameCore.refl _
    · refine SameCore.ite_fst (fun _ => ?_) (fun _ => ?_)
      · refine SameCore.mk_fst ?_
        exact State.bumpFree_same ..
      · unfold z3
        extract_lets +onlyGivenNames z6
        refine SameCore.cut (b := z6) ?_ ?_
        · unfold z6
          refine (State.count_same ..).of ?_
          refine (State.count_same ..).of ?_
          exact State.bumpFree_same ..
        · intro hz6
          split
          · extract_lets +onlyGivenNames z7
            clear_value z7
            refine SameCore.mk_fst ?_
            exact SameCore.mk' ‹_› (.refl _) le_rfl
          · refine SameCore.mk_fst ?_
            assumption

theorem State.xlate_same (s : State) (k : Nat) (va : Nat) (write : Bool) (a : Asker) : SameCore s (State.xlate s k va write a).1 := by
  unfold State.xlate
  split
  · refine SameCore.mk_fst ?_
    refine (SameCore.fst (State.xlatePage_same ..) (by assumption)).of ?_
    exact SameCore.refl _
  · refine SameCore.ite_fst (fun _ => ?_) (fun _ => ?_)
    · refine SameCore.mk_fst ?_
      refine (SameCore.fst (State.xlatePage_same ..) (by assumption)).of ?_
      exact SameCore.refl _
    · split
      · refine SameCore.mk_fst ?_
        refine (SameCore.fst (State.xlatePage_same ..) (by assumption)).of ?_
        exact SameCore.refl _
      · refine SameCore.mk_fst ?_
        refine (SameCore.fst (State.xlatePage_same ..) (by assumption)).of ?_
        exact SameCore.refl _

theorem State.xlateRange_same (s : State) (k : Nat) (write : Bool) (a : Asker) (f va off len : Nat) (acc : List Seg) :
    SameCore s (State.xlateRange s k write a f va off len acc).1 := by
  induction f generalizing s va off len acc with
  | zero => exact SameCore.refl _
  | succ f ih =>
    unfold State.xlateRange
    refine SameCore.ite_fst (fun _ => ?_) (fun _ => ?_)
    · refine SameCore.mk_fst ?_
      exact SameCore.refl _
    · extract_lets +onlyGivenNames z1
      clear_value z1
      split
      · refine SameCore.mk_fst ?_
        refine (SameCore.fst (State.xlate_same ..) (by assumption)).of ?_
        exact SameCore.refl _
      · refine (ih ..).of ?_
        refine (SameCore.fst (State.xlate_same ..) (by assumption)).of ?_
        exact SameCore.refl _

theorem State.segs_same (s : State) (k : Nat) (va : Nat) (len : Nat) (write : Bool) (a : Asker) : SameCore s (State.segs s k va len write a).1 := by
  unfold State.segs
  exact State.xlateRange_same ..

theorem State.segWrite_same (s : State) (k : Nat) (marks : Bool) (l : List Seg) (bs : List Byte) :
    SameCore s (State.segWrite s k marks l bs) := by
  induction l generalizing s bs with
  | nil => exact SameCore.refl _
  | cons g l ih =>
    obtain ⟨o, d, n⟩ := g
    cases d with
    | hbm pa =>
      unfold State.segWrite
      refine (ih ..).of ?_
      exact State.devWrite_same ..
    | host a =>
      unfold State.segWrite
      refine (ih ..).of ?_
      exact State.hostWrite_same ..

theorem State.xFault_same (s : State) (k : Nat) (va : Nat) (write : Bool) (a : Asker) (x : XErr) : SameCore s (State.xFault s k va write a x) := by
  unfold State.xFault
  extract_lets +onlyGivenNames z1
  split
  · refine (State.cause_same ..).of ?_
    unfold z1
    extract_lets +onlyGivenNames z2
    clear_value z2
    split
    · refine (State.setReg_same ..).of ?_
      refine (State.setReg_same ..).of ?_
      refine (SameCore.snd (State.captureAt_same ..) (by assumption)).of ?_
      exact State.count_same ..
    · refine (SameCore.snd (State.captureAt_same ..) (by assumption)).of ?_
      exact State.count_same ..
  · refine (State.cause_same ..).of ?_
    unfold z1
    extract_lets +onlyGivenNames z2
    clear_value z2
    split
    · refine (State.setReg_same ..).of ?_
      refine (State.setReg_same ..).of ?_
      refine (SameCore.snd (State.captureAt_same ..) (by assumption)).of ?_
      exact State.count_same ..
    · refine (SameCore.snd (State.captureAt_same ..) (by assumption)).of ?_
      exact State.count_same ..
  · exact SameCore.refl _

theorem State.dropTlb_same (s : State) (k : Nat) : SameCore s (State.dropTlb s k) := by
  unfold State.dropTlb
  exact SameCore.mk' (SameCore.refl _) (.refl _) le_rfl

theorem State.dropL1_same (s : State) (n : Nat) (k : Nat) : SameCore s (State.dropL1 s n k) := by
  unfold State.dropL1
  extract_lets +onlyGivenNames z1
  refine SameCore.cut (b := z1) ?_ ?_
  · unfold z1
    exact State.count_same ..
  · intro hz1
    exact SameCore.mk' ‹_› (.refl _) le_rfl

theorem State.flushL1_same (s : State) (n : Nat) : SameCore s (State.flushL1 s n) := by
  unfold State.flushL1
  extract_lets +onlyGivenNames z1
  refine SameCore.cut (b := z1) ?_ ?_
  · unfold z1
    exact State.count_same ..
  · intro hz1
    exact SameCore.mk' ‹_› (.refl _) le_rfl

end Sys2Proof.Machine
end

