-- ==== Sys2Proof/Laws/SameQueues.lean ====
section
/-! SUPPORT. That the operations and commands of Machine/Queues.lean leave power, time, the SEC core and trim alone: one lemma for each. -/

set_option Elab.async false
namespace Sys2Proof.Machine

theorem State.faultRecord_same (s : State) (h : Nat) (p : Pos) (kind : Nat) (code : Nat) (detail : Nat) : SameCore s (State.faultRecord s h p kind code detail) := by
  unfold State.faultRecord
  extract_lets +onlyGivenNames z1
  clear_value z1
  refine SameCore.ite (fun _ => ?_) (fun _ => ?_)
  · exact State.count_same ..
  · split
    · refine (State.segWrite_same ..).of ?_
      refine (SameCore.fst (State.segs_same ..) (by assumption)).of ?_
      exact SameCore.refl _
    · refine (State.count_same ..).of ?_
      refine (SameCore.fst (State.segs_same ..) (by assumption)).of ?_
      exact SameCore.refl _

theorem State.endWaits_same (s : State) (h : Nat) : SameCore s (State.endWaits s h) := by
  unfold State.endWaits
  exact SameCore.mk' (SameCore.refl _) (.refl _) le_rfl

theorem State.enterFaulted_same (s : State) (h : Nat) (code : Nat) (p : Pos) (kind : Nat) (detail : Nat) : SameCore s (State.enterFaulted s h code p kind detail) := by
  unfold State.enterFaulted
  extract_lets +onlyGivenNames z1
  clear_value z1
  refine SameCore.ite (fun _ => ?_) (fun _ => ?_)
  · exact SameCore.refl _
  · extract_lets +onlyGivenNames z2
    refine SameCore.cut (b := z2) ?_ ?_
    · unfold z2
      exact State.setQueue_same ..
    · intro hz2
      extract_lets +onlyGivenNames z3
      refine SameCore.cut (b := z3) ?_ ?_
      · unfold z3
        split
        · exact SameCore.mk' ‹_› (.refl _) le_rfl
        · assumption
      · intro hz3
        extract_lets +onlyGivenNames z4
        refine SameCore.cut (b := z4) ?_ ?_
        · unfold z4
          refine (State.capture31_same ..).of ?_
          exact (State.count_same ..).of ‹_›
        · intro hz4
          extract_lets +onlyGivenNames z5
          refine SameCore.cut (b := z5) ?_ ?_
          · unfold z5
            refine (State.endWaits_same ..).of ?_
            exact (State.cause_same ..).of ‹_›
          · intro hz5
            extract_lets +onlyGivenNames z6
            refine SameCore.cut (b := z6) ?_ ?_
            · unfold z6
              exact (State.faultRecord_same ..).of ‹_›
            · intro hz6
              refine SameCore.ite (fun _ => ?_) (fun _ => ?_)
              · exact (State.msixEvent_same ..).of ‹_›
              · assumption

theorem State.raiseQ_same (s : State) (h : Nat) (code : Nat) (detail : Nat) (was : Bool) : SameCore s (State.raiseQ s h code detail was) := by
  unfold State.raiseQ
  extract_lets +onlyGivenNames z1
  clear_value z1
  exact State.raiseAs_same ..

theorem State.queueFault_same (s : State) (h : Nat) (code : Nat) (p : Pos) (kind : Nat) (recDetail : Nat) (detail : Nat) : SameCore s (State.queueFault s h code p kind recDetail detail) := by
  unfold State.queueFault
  extract_lets +onlyGivenNames z1
  clear_value z1
  refine (State.raiseQ_same ..).of ?_
  exact State.enterFaulted_same ..

theorem State.cmdFault_same (s : State) (h : Nat) (code : Nat) (p : Pos) : SameCore s (State.cmdFault s h code p) := by
  unfold State.cmdFault
  extract_lets +onlyGivenNames z1
  refine SameCore.cut (b := z1) ?_ ?_
  · unfold z1
    refine SameCore.ite (fun _ => ?_) (fun _ => ?_)
    · refine (State.cause_same ..).of ?_
      exact State.countField_same ..
    · refine SameCore.ite (fun _ => ?_) (fun _ => ?_)
      · refine (State.cause_same ..).of ?_
        exact State.countField_same ..
      · exact SameCore.refl _
  · intro hz1
    exact (State.queueFault_same ..).of ‹_›

theorem State.accessFault_same (s : State) (h : Nat) (va : Nat) (write : Bool) (a : Asker) (x : XErr) (p : Pos) (kind : Nat) (prog : Option Nat) : SameCore s (State.accessFault s h va write a x p kind prog) := by
  unfold State.accessFault
  extract_lets +onlyGivenNames z1
  clear_value z1
  extract_lets +onlyGivenNames z2
  refine SameCore.cut (b := z2) ?_ ?_
  · unfold z2
    exact State.xFault_same ..
  · intro hz2
    extract_lets +onlyGivenNames z3
    clear_value z3
    extract_lets +onlyGivenNames z4
    refine SameCore.cut (b := z4) ?_ ?_
    · unfold z4
      exact (State.enterFaulted_same ..).of ‹_›
    · intro hz4
      extract_lets +onlyGivenNames z5
      clear_value z5
      extract_lets +onlyGivenNames z6
      clear_value z6
      exact (State.raiseAs_same ..).of ‹_›

theorem State.aerRead_same (s : State) (k : Nat) (c : Cpl) : SameCore s (State.aerRead s k c) := by
  unfold State.aerRead
  extract_lets +onlyGivenNames z1
  clear_value z1
  extract_lets +onlyGivenNames z2
  split
  · unfold z2
    exact State.setFn_same ..
  · unfold z2
    exact State.setFn_same ..
  · unfold z2
    exact State.setFn_same ..
  · unfold z2
    exact State.setFn_same ..
  · exact SameCore.refl _

theorem State.hostReadErr_same (s : State) (k : Nat) (h : Nat) (c : Cpl) : SameCore s (State.hostReadErr s k h c) := by
  unfold State.hostReadErr
  split
  · refine (State.cause_same ..).of ?_
    refine (SameCore.snd (State.captureAt_same ..) (by assumption)).of ?_
    exact State.aerRead_same ..
  · refine (SameCore.snd (State.captureAt_same ..) (by assumption)).of ?_
    exact State.aerRead_same ..

theorem State.hostReadFault_same (s : State) (h : Nat) (c : Cpl) (p : Pos) (kind : Nat) (prog : Option Nat) : SameCore s (State.hostReadFault s h c p kind prog) := by
  unfold State.hostReadFault
  extract_lets +onlyGivenNames z1
  clear_value z1
  extract_lets +onlyGivenNames z2
  refine SameCore.cut (b := z2) ?_ ?_
  · unfold z2
    exact State.hostReadErr_same ..
  · intro hz2
    extract_lets +onlyGivenNames z3
    clear_value z3
    exact (State.queueFault_same ..).of ‹_›

theorem State.issueRead_same (s : State) (k : Nat) (w : ReadFor) (a : Nat) (len : Nat) : SameCore s (State.issueRead s k w a len) := by
  unfold State.issueRead
  refine SameCore.ite (fun _ => ?_) (fun _ => ?_)
  · extract_lets +onlyGivenNames z1
    refine SameCore.cut (b := z1) ?_ ?_
    · unfold z1
      exact State.atsUse_same ..
    · intro hz1
      exact SameCore.mk' ‹_› (.refl _) le_rfl
  · exact SameCore.refl _

theorem State.fetchRing_same (h n : Nat) (s : State) :
    SameCore s (State.fetchRing h n s) := by
  induction n generalizing s with
  | zero => exact SameCore.refl _
  | succ n ih =>
    unfold State.fetchRing
    extract_lets +onlyGivenNames z1
    clear_value z1
    extract_lets +onlyGivenNames z2
    clear_value z2
    extract_lets +onlyGivenNames z3
    clear_value z3
    refine SameCore.ite (fun _ => ?_) (fun _ => ?_)
    · exact SameCore.refl _
    · extract_lets +onlyGivenNames z4
      clear_value z4
      extract_lets +onlyGivenNames z5
      clear_value z5
      extract_lets +onlyGivenNames z6
      clear_value z6
      extract_lets +onlyGivenNames z7
      clear_value z7
      extract_lets +onlyGivenNames z8
      refine SameCore.cut (b := z8) ?_ ?_
      · unfold z8
        exact State.setQueue_same ..
      · intro hz8
        refine SameCore.ite (fun _ => ?_) (fun _ => ?_)
        · refine (ih ..).of ?_
          exact (State.issueRead_same ..).of ‹_›
        · extract_lets +onlyGivenNames z9
          clear_value z9
          refine (ih ..).of ?_
          exact (State.setQueue_same ..).of ‹_›

theorem State.fetch_same (s : State) (h : Nat) : SameCore s (State.fetch s h) := by
  unfold State.fetch
  extract_lets +onlyGivenNames z1
  clear_value z1
  refine SameCore.ite (fun _ => ?_) (fun _ => ?_)
  · exact State.fetchRing_same ..
  · exact SameCore.refl _

theorem State.fetchPieces_same (h k depth va : Nat) (l : List (Nat × Nat)) (s : State) (got : Tbl (List W)) (bad : List (Nat × Nat × Cpl)) :
    SameCore s (State.fetchPieces h k depth va l s got bad).1 := by
  induction l generalizing s got bad with
  | nil => exact SameCore.refl _
  | cons p l ih =>
    obtain ⟨o, m⟩ := p
    unfold State.fetchPieces
    split
    · refine (ih ..).of ?_
      refine (SameCore.fst (State.xlate_same ..) (by assumption)).of ?_
      exact SameCore.refl _
    · refine SameCore.ite_fst (fun _ => ?_) (fun _ => ?_)
      · refine (ih ..).of ?_
        refine (State.issueRead_same ..).of ?_
        refine (SameCore.fst (State.xlate_same ..) (by assumption)).of ?_
        exact SameCore.refl _
      · refine (ih ..).of ?_
        refine (SameCore.fst (State.xlate_same ..) (by assumption)).of ?_
        exact SameCore.refl _
    · refine (ih ..).of ?_
      refine (SameCore.fst (State.xlate_same ..) (by assumption)).of ?_
      exact SameCore.refl _

theorem State.leave_same (h n : Nat) (s : State) :
    SameCore s (State.leave h n s) := by
  induction n generalizing s with
  | zero => exact SameCore.refl _
  | succ n ih =>
    unfold State.leave
    extract_lets +onlyGivenNames z1
    clear_value z1
    split
    · exact SameCore.refl _
    · refine SameCore.ite (fun _ => ?_) (fun _ => ?_)
      · exact SameCore.refl _
      · split
        · refine SameCore.ite (fun _ => ?_) (fun _ => ?_)
          · exact State.cmdFault_same ..
          · refine (ih ..).of ?_
            exact State.setQueue_same ..
        · refine (ih ..).of ?_
          exact State.setQueue_same ..

theorem State.advance_same (s : State) (h : Nat) (f : Front) : SameCore s (State.advance s h f) := by
  unfold State.advance
  extract_lets +onlyGivenNames z1
  clear_value z1
  extract_lets +onlyGivenNames z2
  refine SameCore.cut (b := z2) ?_ ?_
  · unfold z2
    split
    · exact State.setQueue_same ..
    · exact State.setQueue_same ..
  · intro hz2
    refine (State.fetch_same ..).of ?_
    exact (State.leave_same ..).of ‹_›

theorem State.loadFrame_same (s : State) (h : Nat) (k : Nat) (depth : Nat) (f : Frame) : SameCore s (State.loadFrame s h k depth f).1 := by
  unfold State.loadFrame
  dsimp -zeta -zetaHave only
  refine SameCore.ite_fst (fun _ => ?_) (fun _ => ?_)
  · extract_lets +onlyGivenNames z1
    extract_lets +onlyGivenNames z2
    refine SameCore.cut (b := z2) ?_ ?_
    · unfold z2
      refine SameCore.mk' ?_ (.refl _) le_rfl
      exact State.segs_same ..
    · intro hz2
      extract_lets +onlyGivenNames z3
      extract_lets +onlyGivenNames z4
      refine SameCore.mk_fst ?_
      exact (State.fetchPieces_same ..).of ‹_›
  · refine SameCore.mk_fst ?_
    exact State.segs_same ..

theorem State.refreshFrames_same (s : State) (h : Nat) : SameCore s (State.refreshFrames s h) := by
  unfold State.refreshFrames
  extract_lets +onlyGivenNames z1
  clear_value z1
  extract_lets +onlyGivenNames z2
  refine SameCore.cut (b := z2.1) ?_ ?_
  · unfold z2
    refine SameCore.foldr_fst (fun _ _ => ?_) ?_
    · dsimp -zeta -zetaHave only
      exact State.loadFrame_same ..
    · refine SameCore.mk_fst ?_
      exact SameCore.refl _
  · intro hz2
    exact (State.setQueue_same ..).of ‹_›

theorem State.countDone_same (s : State) (h : Nat) (hdr : W) : SameCore s (State.countDone s h hdr) := by
  unfold State.countDone
  extract_lets +onlyGivenNames z1
  clear_value z1
  extract_lets +onlyGivenNames z2
  refine SameCore.cut (b := z2) ?_ ?_
  · unfold z2
    exact State.setQueue_same ..
  · intro hz2
    refine SameCore.ite (fun _ => ?_) (fun _ => ?_)
    · exact (State.msixEvent_same ..).of ‹_›
    · assumption

theorem State.completeOne_same (s : State) (c : Cmd) : SameCore s (State.completeOne s c) := by
  unfold State.completeOne
  extract_lets +onlyGivenNames z1
  refine SameCore.cut (b := z1) ?_ ?_
  · unfold z1
    refine (State.countDone_same ..).of ?_
    exact SameCore.mk' (SameCore.refl _) (.refl _) le_rfl
  · intro hz1
    extract_lets +onlyGivenNames z2
    clear_value z2
    extract_lets +onlyGivenNames z3
    refine SameCore.cut (b := z3) ?_ ?_
    · unfold z3
      exact (State.setQueue_same ..).of ‹_›
    · intro hz3
      refine SameCore.ite (fun _ => ?_) (fun _ => ?_)
      · refine (State.fetch_same ..).of ?_
        exact (State.refreshFrames_same ..).of ‹_›
      · assumption

theorem State.storeAt_same (s : State) (k : Nat) (va : Nat) (d : List Byte) : SameCore s (State.storeAt s k va d).1 := by
  unfold State.storeAt
  dsimp -zeta -zetaHave only
  refine (State.segWrite_same ..).of ?_
  exact State.segs_same ..

theorem State.writeResult_same (s : State) (c : Cmd) (ws : List W) : SameCore s (State.writeResult s c ws) := by
  unfold State.writeResult
  extract_lets +onlyGivenNames z1
  clear_value z1
  split
  · refine (State.accessFault_same ..).of ?_
    refine SameCore.mk' ?_ (.refl _) le_rfl
    refine (SameCore.fst (State.storeAt_same ..) (by assumption)).of ?_
    exact SameCore.refl _
  · refine SameCore.ite (fun _ => ?_) (fun _ => ?_)
    · refine (State.completeOne_same ..).of ?_
      refine (SameCore.fst (State.storeAt_same ..) (by assumption)).of ?_
      exact SameCore.refl _
    · refine SameCore.mk' ?_ (.refl _) le_rfl
      refine (SameCore.fst (State.storeAt_same ..) (by assumption)).of ?_
      exact SameCore.refl _
  · refine (State.completeOne_same ..).of ?_
    refine (SameCore.fst (State.storeAt_same ..) (by assumption)).of ?_
    exact SameCore.refl _

theorem State.settle_same (s : State) (h : Nat) : SameCore s (State.settle s h) := by
  unfold State.settle
  split
  · split
    · exact State.writeResult_same ..
    · exact SameCore.refl _
  · exact SameCore.refl _

theorem State.complete_same (s : State) (c : Cmd) : SameCore s (State.complete s c) := by
  unfold State.complete
  refine (State.settle_same ..).of ?_
  exact State.completeOne_same ..

theorem State.start_same (s : State) (h : Nat) (f : Front) (blocking : Bool) (w : Work) : SameCore s (State.start s h f blocking w) := by
  unfold State.start
  extract_lets +onlyGivenNames z1
  clear_value z1
  refine (State.advance_same ..).of ?_
  exact SameCore.mk' (SameCore.refl _) (.refl _) le_rfl

theorem State.hold_same (s : State) (h : Nat) (f : Front) (w : Work) : SameCore s (State.hold s h f w) := by
  unfold State.hold
  exact SameCore.mk' (SameCore.refl _) (.refl _) le_rfl

theorem State.finish_same (s : State) (h : Nat) (f : Front) (hostWrites : Bool) : SameCore s (State.finish s h f hostWrites) := by
  unfold State.finish
  refine SameCore.ite (fun _ => ?_) (fun _ => ?_)
  · exact State.start_same ..
  · refine (State.countDone_same ..).of ?_
    exact State.advance_same ..

end Sys2Proof.Machine
end

