-- ==== Sys2Proof/Laws/SameOperands.lean ====
section
/-! SUPPORT. That the operations and commands of Machine/Operands.lean leave power, time, the SEC core and trim alone: one lemma for each. -/

set_option Elab.async false
namespace Sys2Proof.Machine

theorem State.firstByte_same (s : State) (q : Queue) (va : Nat) (write : Bool) (a : Asker) : SameCore s (State.firstByte s q va write a).1 := by
  unfold State.firstByte
  exact State.xlate_same ..

end Sys2Proof.Machine
end

