-- ==== Sys2Proof/Laws/SameWork.lean ====
section
/-! SUPPORT. That the operations and commands of Machine/Work.lean leave power, time, the SEC core and trim alone: one lemma for each. -/

set_option Elab.async false
namespace Sys2Proof.Machine

theorem State.tick_same (s : State) : SameCore s (State.tick s) := by
  unfold State.tick
  exact SameCore.mk' (SameCore.refl _) (.refl _) le_rfl

theorem State.setDividers_same (s : State) (r : Nat) : SameCore s (State.setDividers s r) := by
  unfold State.setDividers
  exact SameCore.mk' (SameCore.refl _) (.refl _) le_rfl

theorem State.reclaim_same (s : State) : SameCore s (State.reclaim s) := by
  unfold State.reclaim
  dsimp -zeta -zetaHave only
  refine (State.maxReg_same ..).of ?_
  refine (State.setDividers_same ..).of ?_
  exact State.drawNat_same ..

theorem State.runCtx_same (s : State) (n : Nat) (i : Nat) (c : Ctx) : SameCore s (State.runCtx s n i c) := by
  unfold State.runCtx
  extract_lets +onlyGivenNames z1
  refine SameCore.cut (b := z1) ?_ ?_
  · unfold z1
    refine (State.tick_same ..).of ?_
    exact State.setCtx_same ..
  · intro hz1
    extract_lets +onlyGivenNames z2
    refine SameCore.cut (b := z2) ?_ ?_
    · unfold z2
      refine SameCore.ite (fun _ => ?_) (fun _ => ?_)
      · refine (State.count_same ..).of ?_
        exact (State.count_same ..).of ‹_›
      · assumption
    · intro hz2
      extract_lets +onlyGivenNames z3
      clear_value z3
      extract_lets +onlyGivenNames z4
      clear_value z4
      extract_lets +onlyGivenNames z5
      refine SameCore.cut (b := z5) ?_ ?_
      · unfold z5
        exact (State.setCluster_same ..).of ‹_›
      · intro hz5
        refine SameCore.ite (fun _ => ?_) (fun _ => ?_)
        · exact (State.reclaim_same ..).of ‹_›
        · assumption

theorem State.switchTo_same (s : State) (n : Nat) : SameCore s (State.switchTo s n) := by
  unfold State.switchTo
  split
  · exact State.runCtx_same ..
  · extract_lets +onlyGivenNames z1
    clear_value z1
    extract_lets +onlyGivenNames z2
    clear_value z2
    extract_lets +onlyGivenNames z3
    clear_value z3
    extract_lets +onlyGivenNames z4
    clear_value z4
    extract_lets +onlyGivenNames z5
    refine SameCore.cut (b := z5) ?_ ?_
    · unfold z5
      refine SameCore.ite (fun _ => ?_) (fun _ => ?_)
      · exact State.count_same ..
      · exact SameCore.refl _
    · intro hz5
      exact (State.setCluster_same ..).of ‹_›

theorem State.kick_same (s : State) : SameCore s (State.kick s) := by
  unfold State.kick
  refine SameCore.foldl (fun _ _ => ?_) ?_
  · refine SameCore.ite (fun _ => ?_) (fun _ => ?_)
    · exact State.switchTo_same ..
    · exact SameCore.refl _
  · exact SameCore.refl _

theorem State.askYield_same (s : State) (i : Nat) (n : Nat) (c : Ctx) : SameCore s (State.askYield s i n c) := by
  unfold State.askYield
  refine SameCore.ite (fun _ => ?_) (fun _ => ?_)
  · exact SameCore.refl _
  · exact State.setCtx_same ..

theorem State.requestYield_same (s : State) (n : Nat) (band : Nat) : SameCore s (State.requestYield s n band) := by
  unfold State.requestYield
  split
  · split
    · refine SameCore.ite (fun _ => ?_) (fun _ => ?_)
      · exact State.askYield_same ..
      · exact SameCore.refl _
    · exact SameCore.refl _
  · exact SameCore.refl _

theorem State.able_same (s : State) (n : Nat) (i : Nat) : SameCore s (State.able s n i) := by
  unfold State.able
  split
  · exact State.switchTo_same ..
  · exact State.requestYield_same ..

theorem State.setGranMap_same (s : State) (n : Nat) (l : List Nat) : SameCore s (State.setGranMap s n l) := by
  unfold State.setGranMap
  exact SameCore.mk' (SameCore.refl _) (.refl _) le_rfl

theorem State.takeSlot_same (s : State) (n : Nat) (slot : Nat) (k : Nat) : SameCore s (State.takeSlot s n slot k) := by
  unfold State.takeSlot
  refine (State.flushL1_same ..).of ?_
  exact State.setGranMap_same ..

theorem State.leaveSlot_same (s : State) (n : Nat) (slot : Nat) : SameCore s (State.leaveSlot s n slot) := by
  unfold State.leaveSlot
  extract_lets +onlyGivenNames z1
  refine SameCore.cut (b := z1) ?_ ?_
  · unfold z1
    refine (State.flushL1_same ..).of ?_
    exact State.setGranMap_same ..
  · intro hz1
    refine SameCore.ite (fun _ => ?_) (fun _ => ?_)
    · assumption
    · exact (State.setCluster_same ..).of ‹_›

theorem State.dropCtx_same (s : State) (i : Nat) (n : Nat) : SameCore s (State.dropCtx s i n) := by
  unfold State.dropCtx
  split
  · exact SameCore.refl _
  · extract_lets +onlyGivenNames z1
    extract_lets +onlyGivenNames z2
    refine SameCore.cut (b := z2) ?_ ?_
    · unfold z2
      exact SameCore.mk' (SameCore.refl _) (.refl _) le_rfl
    · intro hz2
      extract_lets +onlyGivenNames z3
      refine SameCore.cut (b := z3) ?_ ?_
      · unfold z3
        refine SameCore.ite (fun _ => ?_) (fun _ => ?_)
        · exact (State.leaveSlot_same ..).of ‹_›
        · assumption
      · intro hz3
        refine SameCore.ite (fun _ => ?_) (fun _ => ?_)
        · exact (State.switchTo_same ..).of ‹_›
        · assumption

theorem State.killLaunch_same (s : State) (i : Nat) : SameCore s (State.killLaunch s i) := by
  unfold State.killLaunch
  split
  · exact SameCore.refl _
  · extract_lets +onlyGivenNames z1
    clear_value z1
    extract_lets +onlyGivenNames z2
    refine SameCore.cut (b := z2) ?_ ?_
    · unfold z2
      exact SameCore.mk' (SameCore.refl _) (.refl _) le_rfl
    · intro hz2
      extract_lets +onlyGivenNames z3
      refine SameCore.cut (b := z3) ?_ ?_
      · unfold z3
        refine SameCore.foldl (fun _ _ => ?_) ?_
        · exact State.dropCtx_same ..
        · assumption
      · intro hz3
        extract_lets +onlyGivenNames z4
        clear_value z4
        extract_lets +onlyGivenNames z5
        refine SameCore.cut (b := z5) ?_ ?_
        · unfold z5
          refine SameCore.ite (fun _ => ?_) (fun _ => ?_)
          · exact (State.setQueue_same ..).of ‹_›
          · assumption
        · intro hz5
          exact SameCore.mk' ‹_› (.refl _) le_rfl

theorem State.launchFault_same (s : State) (i : Nat) (code : Nat) (detail : Nat) (base : Nat) : SameCore s (State.launchFault s i code detail base) := by
  unfold State.launchFault
  split
  · exact SameCore.refl _
  · extract_lets +onlyGivenNames z1
    clear_value z1
    extract_lets +onlyGivenNames z2
    clear_value z2
    extract_lets +onlyGivenNames z3
    refine SameCore.cut (b := z3) ?_ ?_
    · unfold z3
      refine (State.enterFaulted_same ..).of ?_
      exact State.killLaunch_same ..
    · intro hz3
      exact (State.raiseAs_same ..).of ‹_›

theorem State.trapNote_same (s : State) (n : Nat) (v : Nat) (pc : Nat) (value : Nat) (detail : Nat) (item : Nat) : SameCore s (State.trapNote s n v pc value detail item) := by
  unfold State.trapNote
  split
  · extract_lets +onlyGivenNames z1
    refine SameCore.cut (b := z1) ?_ ?_
    · unfold z1
      refine (State.setReg_same ..).of ?_
      refine (State.setReg_same ..).of ?_
      refine (SameCore.snd (State.captureAt_same ..) (by assumption)).of ?_
      exact SameCore.refl _
    · intro hz1
      extract_lets +onlyGivenNames z2
      refine SameCore.cut (b := z2) ?_ ?_
      · unfold z2
        refine (State.setReg_same ..).of ?_
        exact (State.setReg_same ..).of ‹_›
      · intro hz2
        exact (State.cause_same ..).of ‹_›
  · refine (SameCore.snd (State.captureAt_same ..) (by assumption)).of ?_
    exact SameCore.refl _

theorem State.trapCapture_same (s : State) (i : Nat) (n : Nat) (cause : Nat) (detail : Nat) (value : Nat) (pc : Nat) : SameCore s (State.trapCapture s i n cause detail value pc) := by
  unfold State.trapCapture
  cases (tblFind i s.launches)
  · dsimp -zeta -zetaHave only
    exact SameCore.refl _
  · cases (s.ctx i n)
    · dsimp -zeta -zetaHave only
      exact SameCore.refl _
    · dsimp -zeta -zetaHave only
      refine (State.trapNote_same ..).of ?_
      exact State.count_same ..

theorem State.yardTrap_same (s : State) (i : Nat) (n : Nat) (cause : Nat) (detail : Nat) (value : Nat) (pc : Nat) : SameCore s (State.yardTrap s i n cause detail value pc) := by
  unfold State.yardTrap
  refine (State.launchFault_same ..).of ?_
  exact State.trapCapture_same ..

theorem State.engineFault_same (s : State) (i : Nat) (n : Nat) (va : Nat) (write : Bool) (a : Asker) (x : XErr) : SameCore s (State.engineFault s i n va write a x) := by
  unfold State.engineFault
  split
  · exact SameCore.refl _
  · extract_lets +onlyGivenNames z1
    refine SameCore.cut (b := z1) ?_ ?_
    · unfold z1
      refine (State.xFault_same ..).of ?_
      exact State.count_same ..
    · intro hz1
      exact (State.launchFault_same ..).of ‹_›

theorem State.launchDone_same (s : State) (i : Nat) : SameCore s (State.launchDone s i) := by
  unfold State.launchDone
  split
  · exact SameCore.refl _
  · extract_lets +onlyGivenNames z1
    refine SameCore.cut (b := z1) ?_ ?_
    · unfold z1
      exact SameCore.mk' (SameCore.refl _) (.refl _) le_rfl
    · intro hz1
      split
      · exact (State.complete_same ..).of ‹_›
      · assumption

theorem State.killInstLaunches_same (s : State) (k : Nat) : SameCore s (State.killInstLaunches s k) := by
  unfold State.killInstLaunches
  refine SameCore.foldl (fun _ _ => ?_) ?_
  · dsimp -zeta -zetaHave only
    exact State.killLaunch_same ..
  · exact SameCore.refl _

end Sys2Proof.Machine
end

