-- ==== Sys2Proof/Laws/SameHub.lean ====
section
/-! SUPPORT. That the operations and commands of Machine/Hub.lean leave power, time, the SEC core and trim alone: one lemma for each. -/

set_option Elab.async false
namespace Sys2Proof.Machine

theorem State.syncEvent_same (s : State) (i : Nat) (kind : Nat) : SameCore s (State.syncEvent s i kind) := by
  unfold State.syncEvent
  exact State.capture31_same ..

theorem State.svStatus_same (s : State) (k : Nat) (id : Nat) (r : Nat) : SameCore s (State.svStatus s k id r) := by
  unfold State.svStatus
  exact State.setReg_same ..

theorem State.opResult_same (s : State) (who : Issuer) (id : Nat) (r : Nat) : SameCore s (State.opResult s who id r) := by
  unfold State.opResult
  split
  · exact State.svStatus_same ..
  · split
    · exact State.setCtx_same ..
    · exact SameCore.refl _
  · exact SameCore.refl _

theorem State.endCmd_same (s : State) (c : Nat) : SameCore s (State.endCmd s c).2 := by
  unfold State.endCmd
  refine SameCore.mk_snd ?_
  exact SameCore.mk' (SameCore.refl _) (.refl _) le_rfl

theorem State.misuse_same (s : State) (who : Issuer) (id : Nat) : SameCore s (State.misuse s who id) := by
  unfold State.misuse
  split
  · split
    · refine (State.cmdFault_same ..).of ?_
      refine (SameCore.snd (State.endCmd_same ..) (by assumption)).of ?_
      exact SameCore.refl _
    · refine (SameCore.snd (State.endCmd_same ..) (by assumption)).of ?_
      exact SameCore.refl _
  · exact State.yardTrap_same ..
  · refine (State.svStatus_same ..).of ?_
    exact State.countField_same ..
  · exact SameCore.refl _

theorem State.syncFault_same (s : State) (i : Nat) (under : Bool) (who : Issuer) : SameCore s (State.syncFault s i under who) := by
  unfold State.syncFault
  extract_lets +onlyGivenNames z1
  clear_value z1
  extract_lets +onlyGivenNames z2
  clear_value z2
  extract_lets +onlyGivenNames z3
  clear_value z3
  extract_lets +onlyGivenNames z4
  refine SameCore.cut (b := z4) ?_ ?_
  · unfold z4
    exact State.setObj_same ..
  · intro hz4
    extract_lets +onlyGivenNames z5
    refine SameCore.cut (b := z5) ?_ ?_
    · unfold z5
      refine (State.syncEvent_same ..).of ?_
      exact (State.count_same ..).of ‹_›
    · intro hz5
      extract_lets +onlyGivenNames z6
      refine SameCore.cut (b := z6) ?_ ?_
      · unfold z6
        refine (State.cause_same ..).of ?_
        exact (State.cause_same ..).of ‹_›
      · intro hz6
        extract_lets +onlyGivenNames z7
        clear_value z7
        refine SameCore.ite (fun _ => ?_) (fun _ => ?_)
        · exact (State.raiseAs_same ..).of ‹_›
        · split
          · split
            · extract_lets +onlyGivenNames z8
              clear_value z8
              extract_lets +onlyGivenNames z9
              refine SameCore.cut (b := z9) ?_ ?_
              · unfold z9
                refine (State.enterFaulted_same ..).of ?_
                exact (SameCore.snd (State.endCmd_same ..) (by assumption)).of ‹_›
              · intro hz9
                exact (State.raiseAs_same ..).of ‹_›
            · exact (SameCore.snd (State.endCmd_same ..) (by assumption)).of ‹_›
          · exact (State.launchFault_same ..).of ‹_›
          · refine (State.raiseAs_same ..).of ?_
            exact (State.countField_same ..).of ‹_›
          · assumption

theorem State.wakeCtx_same (s : State) (i : Nat) (n : Nat) : SameCore s (State.wakeCtx s i n) := by
  unfold State.wakeCtx
  cases (s.ctx i n)
  · dsimp -zeta -zetaHave only
    exact SameCore.refl _
  · cases (tblFind i s.launches)
    · dsimp -zeta -zetaHave only
      exact SameCore.refl _
    · dsimp -zeta -zetaHave only
      split
      · refine (State.able_same ..).of ?_
        refine (State.tick_same ..).of ?_
        refine (State.setCtx_same ..).of ?_
        exact State.dropL1_same ..
      · refine (State.setCtx_same ..).of ?_
        exact State.dropL1_same ..
      · exact State.dropL1_same ..
      · exact SameCore.refl _

theorem State.traceArea_same (s : State) (area : Nat) (inst : Nat) : SameCore s (State.traceArea s area inst) := by
  unfold State.traceArea
  extract_lets +onlyGivenNames z1
  clear_value z1
  refine SameCore.ite (fun _ => ?_) (fun _ => ?_)
  · exact State.bumpFree_same ..
  · refine SameCore.ite (fun _ => ?_) (fun _ => ?_)
    · extract_lets +onlyGivenNames z2
      clear_value z2
      extract_lets +onlyGivenNames z3
      clear_value z3
      refine (State.bumpFree_same ..).of ?_
      exact SameCore.mk' (SameCore.refl _) (.refl _) le_rfl
    · refine (State.bumpFree_same ..).of ?_
      exact State.count_same ..

theorem State.release_same (s : State) (w : Waiter) : SameCore s (State.release s w) := by
  unfold State.release
  extract_lets +onlyGivenNames z1
  clear_value z1
  extract_lets +onlyGivenNames z2
  refine SameCore.cut (b := z2) ?_ ?_
  · unfold z2
    refine (State.traceArea_same ..).of ?_
    exact SameCore.mk' (SameCore.refl _) (.refl _) le_rfl
  · intro hz2
    split
    · split
      · exact (State.complete_same ..).of ‹_›
      · assumption
    · exact (State.wakeCtx_same ..).of ‹_›
    · assumption

theorem State.notify_same (s : State) (i : Nat) : SameCore s (State.notify s i) := by
  unfold State.notify
  extract_lets +onlyGivenNames z1
  clear_value z1
  refine (State.cause_same ..).of ?_
  exact State.capture31_same ..

theorem State.evaluate_same (s : State) (i : Nat) : SameCore s (State.evaluate s i).1 := by
  unfold State.evaluate
  extract_lets +onlyGivenNames z1
  clear_value z1
  extract_lets +onlyGivenNames z2
  clear_value z2
  refine SameCore.ite_fst (fun _ => ?_) (fun _ => ?_)
  · extract_lets +onlyGivenNames z3
    clear_value z3
    refine SameCore.mk_fst ?_
    refine SameCore.foldl (fun _ _ => ?_) ?_
    · exact State.release_same ..
    · exact SameCore.refl _
  · extract_lets +onlyGivenNames z3
    clear_value z3
    extract_lets +onlyGivenNames z4
    clear_value z4
    extract_lets +onlyGivenNames z5
    refine SameCore.cut (b := z5) ?_ ?_
    · unfold z5
      exact State.setObj_same ..
    · intro hz5
      extract_lets +onlyGivenNames z6
      refine SameCore.cut (b := z6) ?_ ?_
      · unfold z6
        refine SameCore.foldl (fun _ _ => ?_) ?_
        · exact State.release_same ..
        · assumption
      · intro hz6
        refine SameCore.mk_fst ?_
        refine SameCore.ite (fun _ => ?_) (fun _ => ?_)
        · exact (State.notify_same ..).of ‹_›
        · assumption

theorem State.releaseBarrier_same (s : State) (i : Nat) : SameCore s (State.releaseBarrier s i).1 := by
  unfold State.releaseBarrier
  extract_lets +onlyGivenNames z1
  clear_value z1
  extract_lets +onlyGivenNames z2
  refine SameCore.cut (b := z2) ?_ ?_
  · unfold z2
    refine (State.count_same ..).of ?_
    exact State.setObj_same ..
  · intro hz2
    extract_lets +onlyGivenNames z3
    refine SameCore.cut (b := z3.1) ?_ ?_
    · unfold z3
      exact (State.evaluate_same ..).of ‹_›
    · intro hz3
      refine SameCore.mk_fst ?_
      refine SameCore.ite (fun _ => ?_) (fun _ => ?_)
      · exact (State.notify_same ..).of ‹_›
      · assumption

theorem State.applied_same (s : State) (who : Issuer) (id : Nat) : SameCore s (State.applied s who id) := by
  unfold State.applied
  split
  · split
    · exact State.complete_same ..
    · exact SameCore.refl _
  · exact State.opResult_same ..

theorem State.hubArrive_same (s : State) (op : HubOp) : SameCore s (State.hubArrive s op) := by
  unfold State.hubArrive
  split
  · exact State.misuse_same ..
  · extract_lets +onlyGivenNames z1
    clear_value z1
    extract_lets +onlyGivenNames z2
    refine SameCore.cut (b := z2) ?_ ?_
    · unfold z2
      refine SameCore.ite (fun _ => ?_) (fun _ => ?_)
      · exact State.releaseBarrier_same ..
      · exact State.setObj_same ..
    · intro hz2
      exact (State.applied_same ..).of ‹_›

theorem State.hubAdd_same (s : State) (op : HubOp) : SameCore s (State.hubAdd s op) := by
  unfold State.hubAdd
  split
  · exact State.misuse_same ..
  · extract_lets +onlyGivenNames z1
    clear_value z1
    refine SameCore.ite (fun _ => ?_) (fun _ => ?_)
    · refine SameCore.ite (fun _ => ?_) (fun _ => ?_)
      · extract_lets +onlyGivenNames z2
        refine SameCore.cut (b := z2) ?_ ?_
        · unfold z2
          refine (State.syncFault_same ..).of ?_
          exact State.setObj_same ..
        · intro hz2
          extract_lets +onlyGivenNames z3
          refine SameCore.cut (b := z3) ?_ ?_
          · unfold z3
            refine (State.applied_same ..).of ?_
            exact (State.evaluate_same ..).of ‹_›
          · intro hz3
            exact (State.opResult_same ..).of ‹_›
      · extract_lets +onlyGivenNames z2
        refine SameCore.cut (b := z2) ?_ ?_
        · unfold z2
          exact State.syncFault_same ..
        · intro hz2
          exact (State.opResult_same ..).of ‹_›
    · refine (State.applied_same ..).of ?_
      refine (State.evaluate_same ..).of ?_
      exact State.setObj_same ..

theorem State.hubConsume_same (s : State) (op : HubOp) : SameCore s (State.hubConsume s op) := by
  unfold State.hubConsume
  split
  · exact State.misuse_same ..
  · extract_lets +onlyGivenNames z1
    clear_value z1
    refine SameCore.ite (fun _ => ?_) (fun _ => ?_)
    · refine SameCore.ite (fun _ => ?_) (fun _ => ?_)
      · extract_lets +onlyGivenNames z2
        refine SameCore.cut (b := z2) ?_ ?_
        · unfold z2
          refine (State.syncFault_same ..).of ?_
          exact State.setObj_same ..
        · intro hz2
          extract_lets +onlyGivenNames z3
          refine SameCore.cut (b := z3) ?_ ?_
          · unfold z3
            refine (State.applied_same ..).of ?_
            exact (State.evaluate_same ..).of ‹_›
          · intro hz3
            exact (State.opResult_same ..).of ‹_›
      · extract_lets +onlyGivenNames z2
        refine SameCore.cut (b := z2) ?_ ?_
        · unfold z2
          exact State.syncFault_same ..
        · intro hz2
          exact (State.opResult_same ..).of ‹_›
    · refine (State.applied_same ..).of ?_
      refine (State.evaluate_same ..).of ?_
      exact State.setObj_same ..

theorem State.leaveRun_same (s : State) (i : Nat) (n : Nat) (c : Ctx) : SameCore s (State.leaveRun s i n c) := by
  unfold State.leaveRun
  extract_lets +onlyGivenNames z1
  refine SameCore.cut (b := z1) ?_ ?_
  · unfold z1
    exact State.setCtx_same ..
  · intro hz1
    refine SameCore.ite (fun _ => ?_) (fun _ => ?_)
    · refine (State.kick_same ..).of ?_
      exact (State.switchTo_same ..).of ‹_›
    · assumption

theorem State.parkCtx_same (s : State) (i : Nat) (n : Nat) (spin : Bool) : SameCore s (State.parkCtx s i n spin) := by
  unfold State.parkCtx
  split
  · exact SameCore.refl _
  · refine SameCore.ite (fun _ => ?_) (fun _ => ?_)
    · exact State.setCtx_same ..
    · extract_lets +onlyGivenNames z1
      refine SameCore.cut (b := z1) ?_ ?_
      · unfold z1
        refine SameCore.ite (fun _ => ?_) (fun _ => ?_)
        · exact State.countField_same ..
        · exact SameCore.refl _
      · intro hz1
        exact (State.leaveRun_same ..).of ‹_›

theorem State.hubWait_same (s : State) (op : HubOp) (kd : WaitKind) : SameCore s (State.hubWait s op kd) := by
  unfold State.hubWait
  split
  · exact State.misuse_same ..
  · extract_lets +onlyGivenNames z1
    clear_value z1
    extract_lets +onlyGivenNames z2
    clear_value z2
    refine SameCore.ite (fun _ => ?_) (fun _ => ?_)
    · extract_lets +onlyGivenNames z3
      refine SameCore.cut (b := z3) ?_ ?_
      · unfold z3
        refine SameCore.ite (fun _ => ?_) (fun _ => ?_)
        · exact State.setObj_same ..
        · exact SameCore.refl _
      · intro hz3
        extract_lets +onlyGivenNames z4
        refine SameCore.cut (b := z4) ?_ ?_
        · unfold z4
          refine SameCore.ite (fun _ => ?_) (fun _ => ?_)
          · exact (State.notify_same ..).of ‹_›
          · assumption
        · intro hz4
          split
          · exact (State.wakeCtx_same ..).of ‹_›
          · exact (State.applied_same ..).of ‹_›
    · extract_lets +onlyGivenNames z3
      clear_value z3
      extract_lets +onlyGivenNames z4
      refine SameCore.cut (b := z4) ?_ ?_
      · unfold z4
        exact SameCore.mk' (SameCore.refl _) (.refl _) le_rfl
      · intro hz4
        split
        · exact (State.parkCtx_same ..).of ‹_›
        · exact (State.setQueue_same ..).of ‹_›
        · assumption

theorem State.sendOp_same (s : State) (op : HubOp) : SameCore s (State.sendOp s op) := by
  unfold State.sendOp
  exact SameCore.mk' (SameCore.refl _) (.refl _) le_rfl

theorem State.hubTake_same (s : State) (p : Nat) (kd : HubKind) (f : State → HubOp → State) (h_f : ∀ (x0 : State) (x1 : HubOp), SameCore x0 (f x0 x1)) : SameCore s (State.hubTake s p kd f) := by
  unfold State.hubTake
  split
  · refine SameCore.ite (fun _ => ?_) (fun _ => ?_)
    · refine (h_f _ _).of ?_
      exact SameCore.mk' (SameCore.refl _) (.refl _) le_rfl
    · exact SameCore.refl _
  · exact SameCore.refl _

theorem State.dropInstSync_same (s : State) (k : Nat) : SameCore s (State.dropInstSync s k) := by
  unfold State.dropInstSync
  exact SameCore.mk' (SameCore.refl _) (.refl _) le_rfl

theorem execHubArrive_same (port : Nat) (s : State) : CoreKept s (execHubArrive port s) := by
  unfold execHubArrive
  refine CoreKept.next ?_
  refine SameCore.trans ?_ (State.hubTake_same (h_f := ?_) ..)
  · exact SameCore.refl _
  · intro _
    intro _
    exact State.hubArrive_same ..

theorem execHubSignalAdd_same (port : Nat) (s : State) : CoreKept s (execHubSignalAdd port s) := by
  unfold execHubSignalAdd
  refine CoreKept.next ?_
  refine SameCore.trans ?_ (State.hubTake_same (h_f := ?_) ..)
  · exact SameCore.refl _
  · intro _
    intro _
    exact State.hubAdd_same ..

theorem execHubConsume_same (port : Nat) (s : State) : CoreKept s (execHubConsume port s) := by
  unfold execHubConsume
  refine CoreKept.next ?_
  refine SameCore.trans ?_ (State.hubTake_same (h_f := ?_) ..)
  · exact SameCore.refl _
  · intro _
    intro _
    exact State.hubConsume_same ..

theorem execHubWaitGe_same (port : Nat) (s : State) : CoreKept s (execHubWaitGe port s) := by
  unfold execHubWaitGe
  refine CoreKept.next ?_
  refine SameCore.trans ?_ (State.hubTake_same (h_f := ?_) ..)
  · exact SameCore.refl _
  · intro _
    intro _
    exact State.hubWait_same ..

theorem execHubWaitGen_same (port : Nat) (s : State) : CoreKept s (execHubWaitGen port s) := by
  unfold execHubWaitGen
  refine CoreKept.next ?_
  refine SameCore.trans ?_ (State.hubTake_same (h_f := ?_) ..)
  · exact SameCore.refl _
  · intro _
    intro _
    exact State.hubWait_same ..

theorem execHubWaitGeConsume_same (port : Nat) (s : State) : CoreKept s (execHubWaitGeConsume port s) := by
  unfold execHubWaitGeConsume
  refine CoreKept.next ?_
  refine SameCore.trans ?_ (State.hubTake_same (h_f := ?_) ..)
  · exact SameCore.refl _
  · intro _
    intro _
    exact State.hubWait_same ..

theorem execWaitWatchdogExpiry_same (i : Nat) (s : State) : CoreKept s (execWaitWatchdogExpiry i s) := by
  unfold execWaitWatchdogExpiry
  extract_lets +onlyGivenNames z1
  clear_value z1
  extract_lets +onlyGivenNames z2
  clear_value z2
  refine CoreKept.ite (fun _ => ?_) (fun _ => ?_)
  · refine CoreKept.next ?_
    exact SameCore.refl _
  · extract_lets +onlyGivenNames z3
    clear_value z3
    extract_lets +onlyGivenNames z4
    suffices hz4 : SameCore s z4 from ?_
    · extract_lets +onlyGivenNames z5
      suffices hz5 : SameCore s z5 from ?_
      · refine CoreKept.next ?_
        refine SameCore.foldl (fun _ _ => ?_) ?_
        · split
          · split
            · extract_lets +onlyGivenNames z6
              clear_value z6
              extract_lets +onlyGivenNames z7
              clear_value z7
              extract_lets +onlyGivenNames z8
              refine SameCore.cut (b := z8) ?_ ?_
              · unfold z8
                refine SameCore.mk' ?_ (.refl _) le_rfl
                refine (SameCore.snd (State.endCmd_same ..) (by assumption)).of ?_
                exact SameCore.refl _
              · intro hz8
                extract_lets +onlyGivenNames z9
                refine SameCore.cut (b := z9) ?_ ?_
                · unfold z9
                  exact (State.enterFaulted_same ..).of ‹_›
                · intro hz9
                  exact (State.raiseAs_same ..).of ‹_›
            · refine (SameCore.snd (State.endCmd_same ..) (by assumption)).of ?_
              exact SameCore.refl _
          · exact State.launchFault_same ..
          · exact SameCore.refl _
        · assumption
      · unfold z5
        exact (State.cause_same ..).of ‹_›
    · unfold z4
      refine (State.cause_same ..).of ?_
      refine (State.syncEvent_same ..).of ?_
      exact State.count_same ..

theorem execSpinToPark_same (l : Nat) (n : Nat) (s : State) : CoreKept s (execSpinToPark l n s) := by
  unfold execSpinToPark
  split
  · refine CoreKept.ite (fun _ => ?_) (fun _ => ?_)
    · refine CoreKept.next ?_
      refine (State.leaveRun_same ..).of ?_
      exact State.countField_same ..
    · refine CoreKept.next ?_
      exact SameCore.refl _
  · refine CoreKept.next ?_
    exact SameCore.refl _

end Sys2Proof.Machine
end

