-- ==== Sys2Proof/Laws/SameMovers.lean ====
section
/-! SUPPORT. That the operations and commands of Machine/Movers.lean leave power, time, the SEC core and trim alone: one lemma for each. -/

set_option Elab.async false
namespace Sys2Proof.Machine

theorem State.gather_same (k id : Nat) (rev : Bool) (l : List Piece) (s : State) (a : Plan) :
    SameCore s (State.gather k id rev l s a).1 := by
  induction l generalizing s a with
  | nil => exact SameCore.refl _
  | cons p l ih =>
    unfold State.gather
    split
    · refine SameCore.mk_fst ?_
      refine (SameCore.fst (State.xlate_same ..) (by assumption)).of ?_
      exact SameCore.refl _
    · split
      · refine (ih ..).of ?_
        refine (SameCore.fst (State.xlate_same ..) (by assumption)).of ?_
        exact SameCore.refl _
      · refine SameCore.mk_fst ?_
        refine (SameCore.fst (State.xlate_same ..) (by assumption)).of ?_
        exact SameCore.refl _
    · refine SameCore.ite_fst (fun _ => ?_) (fun _ => ?_)
      · extract_lets +onlyGivenNames z1
        clear_value z1
        extract_lets +onlyGivenNames z2
        refine SameCore.cut (b := z2) ?_ ?_
        · unfold z2
          refine SameCore.foldl (fun _ _ => ?_) ?_
          · dsimp -zeta -zetaHave only
            exact State.issueRead_same ..
          · refine (SameCore.fst (State.xlate_same ..) (by assumption)).of ?_
            exact SameCore.refl _
        · intro hz2
          exact (ih ..).of ‹_›
      · refine SameCore.mk_fst ?_
        refine (SameCore.fst (State.xlate_same ..) (by assumption)).of ?_
        exact SameCore.refl _

theorem State.stageStop_same (k lo hi : Nat) (l : List Piece) (s : State) :
    SameCore s (State.stageStop k lo hi l s).1 := by
  induction l generalizing s with
  | nil => exact SameCore.refl _
  | cons p l ih =>
    unfold State.stageStop
    extract_lets +onlyGivenNames z1
    clear_value z1
    extract_lets +onlyGivenNames z2
    clear_value z2
    refine SameCore.ite_fst (fun _ => ?_) (fun _ => ?_)
    · exact ih ..
    · split
      · refine SameCore.mk_fst ?_
        refine (SameCore.fst (State.xlate_same ..) (by assumption)).of ?_
        exact SameCore.refl _
      · split
        · refine SameCore.mk_fst ?_
          refine (SameCore.fst (State.xlate_same ..) (by assumption)).of ?_
          exact SameCore.refl _
        · refine (ih ..).of ?_
          refine (SameCore.fst (State.xlate_same ..) (by assumption)).of ?_
          exact SameCore.refl _
      · refine (ih ..).of ?_
        refine (SameCore.fst (State.xlate_same ..) (by assumption)).of ?_
        exact SameCore.refl _

theorem State.countHandling_same (s : State) (n : Nat) (h : Handling) : SameCore s (State.countHandling s n h) := by
  unfold State.countHandling
  split
  · exact State.countField_same ..
  · exact State.countField_same ..
  · exact SameCore.refl _

theorem State.countMiB_same (s : State) (a : Nat) (n : Nat) : SameCore s (State.countMiB s a n) := by
  unfold State.countMiB
  extract_lets +onlyGivenNames z1
  clear_value z1
  extract_lets +onlyGivenNames z2
  refine SameCore.cut (b := z2) ?_ ?_
  · unfold z2
    exact State.countField_same ..
  · intro hz2
    exact SameCore.mk' ‹_› (.refl _) le_rfl

theorem State.countUnsafe_same (s : State) : SameCore s (State.countUnsafe s) := by
  unfold State.countUnsafe
  refine (State.cause_same ..).of ?_
  exact State.count_same ..

theorem State.firstBytes_same (s : State) (k : Nat) (src : Option Nat) (dst : Nat) : SameCore s (State.firstBytes s k src dst).1 := by
  unfold State.firstBytes
  extract_lets +onlyGivenNames z1
  clear_value z1
  extract_lets +onlyGivenNames z2
  split
  · unfold z2
    split
    · refine SameCore.mk_fst ?_
      refine (SameCore.fst (State.xlate_same ..) (by assumption)).of ?_
      exact SameCore.refl _
    · refine SameCore.mk_fst ?_
      refine (SameCore.fst (State.xlate_same ..) (by assumption)).of ?_
      exact SameCore.refl _
  · split
    · refine SameCore.mk_fst ?_
      refine (SameCore.fst (State.xlate_same ..) (by assumption)).of ?_
      exact SameCore.refl _
    · unfold z2
      split
      · refine SameCore.mk_fst ?_
        refine (SameCore.fst (State.xlate_same ..) (by assumption)).of ?_
        refine (SameCore.fst (State.xlate_same ..) (by assumption)).of ?_
        exact SameCore.refl _
      · refine SameCore.mk_fst ?_
        refine (SameCore.fst (State.xlate_same ..) (by assumption)).of ?_
        refine (SameCore.fst (State.xlate_same ..) (by assumption)).of ?_
        exact SameCore.refl _

theorem State.planCopy_same (s : State) (k : Nat) (id : Nat) (src : Nat) (dst : Nat) (g : Geo) (h : Handling) : SameCore s (State.planCopy s k id src dst g h).1 := by
  unfold State.planCopy
  extract_lets +onlyGivenNames z1
  clear_value z1
  extract_lets +onlyGivenNames z2
  clear_value z2
  extract_lets +onlyGivenNames z3
  refine SameCore.cut (b := z3.1) ?_ ?_
  · unfold z3
    refine SameCore.ite_fst (fun _ => ?_) (fun _ => ?_)
    · exact State.stageStop_same ..
    · refine SameCore.mk_fst ?_
      exact SameCore.refl _
  · intro hz3
    clear_value z3
    split
    · refine SameCore.mk_fst ?_
      assumption
    · exact (State.gather_same ..).of ‹_›

theorem State.dropMover_same (s : State) (id : Nat) : SameCore s (State.dropMover s id) := by
  unfold State.dropMover
  exact SameCore.mk' (SameCore.refl _) (.refl _) le_rfl

theorem State.countIncomplete_same (s : State) (m : Mover) : SameCore s (State.countIncomplete s m) := by
  unfold State.countIncomplete
  refine SameCore.ite (fun _ => ?_) (fun _ => ?_)
  · refine (State.cause_same ..).of ?_
    exact State.count_same ..
  · exact SameCore.refl _

theorem State.moverFault_same (s : State) (m : Mover) (f : State → Pos → Nat → State) (h_f : ∀ (x0 : State) (x1 : Pos) (x2 : Nat), SameCore x0 (f x0 x1 x2)) : SameCore s (State.moverFault s m f) := by
  unfold State.moverFault
  split
  · exact State.dropMover_same ..
  · extract_lets +onlyGivenNames z1
    refine SameCore.cut (b := z1) ?_ ?_
    · unfold z1
      refine (State.countIncomplete_same ..).of ?_
      exact State.dropMover_same ..
    · intro hz1
      extract_lets +onlyGivenNames z2
      refine SameCore.cut (b := z2) ?_ ?_
      · unfold z2
        exact SameCore.mk' ‹_› (.refl _) le_rfl
      · intro hz2
        exact (h_f _ _ _).of ‹_›

theorem State.moverStop_same (s : State) (m : Mover) (st : Stop) (write : Bool) : SameCore s (State.moverStop s m st write) := by
  unfold State.moverStop
  refine SameCore.trans ?_ (State.moverFault_same (h_f := ?_) ..)
  · exact SameCore.refl _
  · intro _
    intro _
    intro _
    refine SameCore.ite (fun _ => ?_) (fun _ => ?_)
    · exact State.hostReadFault_same ..
    · refine SameCore.ite (fun _ => ?_) (fun _ => ?_)
      · exact State.accessFault_same ..
      · extract_lets +onlyGivenNames z1
        refine SameCore.cut (b := z1) ?_ ?_
        · unfold z1
          refine SameCore.ite (fun _ => ?_) (fun _ => ?_)
          · refine (State.cause_same ..).of ?_
            exact State.countField_same ..
          · refine SameCore.ite (fun _ => ?_) (fun _ => ?_)
            · refine (State.cause_same ..).of ?_
              exact State.countField_same ..
            · exact SameCore.refl _
        · intro hz1
          exact (State.queueFault_same ..).of ‹_›

theorem State.putRun_same (s : State) (m : Mover) (va : Nat) (bs : List Byte) : SameCore s (State.putRun s m va bs).1 := by
  unfold State.putRun
  split
  · refine SameCore.mk_fst ?_
    refine (SameCore.fst (State.xlate_same ..) (by assumption)).of ?_
    exact SameCore.refl _
  · refine SameCore.mk_fst ?_
    refine (State.devWrite_same ..).of ?_
    refine (SameCore.fst (State.xlate_same ..) (by assumption)).of ?_
    exact SameCore.refl _
  · refine SameCore.mk_fst ?_
    refine (State.issueWrite_same ..).of ?_
    refine (SameCore.fst (State.xlate_same ..) (by assumption)).of ?_
    exact SameCore.refl _

theorem State.putRuns_same (m : Mover) (l : List (Nat × List Byte)) (s : State) (n : Nat) :
    SameCore s (State.putRuns m l s n).1 := by
  induction l generalizing s n with
  | nil => exact SameCore.refl _
  | cons p l ih =>
    obtain ⟨a, bs⟩ := p
    unfold State.putRuns
    split
    · refine SameCore.mk_fst ?_
      refine (SameCore.fst (State.putRun_same ..) (by assumption)).of ?_
      exact SameCore.refl _
    · refine (ih ..).of ?_
      refine (SameCore.fst (State.putRun_same ..) (by assumption)).of ?_
      exact SameCore.refl _

theorem State.moverMove_same (s : State) (m : Mover) (n : Nat) : SameCore s (State.moverMove s m n).1 := by
  unfold State.moverMove
  extract_lets +onlyGivenNames z1
  clear_value z1
  extract_lets +onlyGivenNames z2
  refine SameCore.cut (b := z2) ?_ ?_
  · unfold z2
    exact SameCore.mk' (SameCore.refl _) (.refl _) le_rfl
  · intro hz2
    dsimp -zeta -zetaHave only
    extract_lets +onlyGivenNames z3
    clear_value z3
    refine SameCore.mk_fst ?_
    refine (State.countMiB_same ..).of ?_
    refine SameCore.mk' ?_ (.refl _) le_rfl
    exact (State.putRuns_same ..).of ‹_›

theorem State.moverDone_same (s : State) (m : Mover) : SameCore s (State.moverDone s m) := by
  unfold State.moverDone
  split
  · refine (State.complete_same ..).of ?_
    exact State.dropMover_same ..
  · exact State.dropMover_same ..

theorem State.moverRun_same (s : State) (id : Nat) (fin : State → Mover → State) (h_fin : ∀ (x0 : State) (x1 : Mover), SameCore x0 (fin x0 x1)) : SameCore s (State.moverRun s id fin) := by
  unfold State.moverRun
  split
  · exact SameCore.refl _
  · split
    · refine (State.moverStop_same ..).of ?_
      refine (SameCore.fst (State.moverMove_same ..) (by assumption)).of ?_
      exact SameCore.refl _
    · refine SameCore.ite (fun _ => ?_) (fun _ => ?_)
      · refine (SameCore.fst (State.moverMove_same ..) (by assumption)).of ?_
        exact SameCore.refl _
      · split
        · refine (State.moverStop_same ..).of ?_
          refine (SameCore.fst (State.moverMove_same ..) (by assumption)).of ?_
          exact SameCore.refl _
        · refine (h_fin _ _).of ?_
          refine (SameCore.fst (State.moverMove_same ..) (by assumption)).of ?_
          exact SameCore.refl _

theorem State.moverPartly_same (s : State) (id : Nat) (n : Nat) : SameCore s (State.moverPartly s id n) := by
  unfold State.moverPartly
  split
  · exact SameCore.refl _
  · split
    · refine (State.moverStop_same ..).of ?_
      refine (SameCore.fst (State.moverMove_same ..) (by assumption)).of ?_
      exact SameCore.refl _
    · refine (SameCore.fst (State.moverMove_same ..) (by assumption)).of ?_
      exact SameCore.refl _

theorem State.movedBy_same (s : State) (prog : List (Nat × Nat)) : SameCore s (State.movedBy s prog) := by
  unfold State.movedBy
  refine SameCore.foldl (fun _ _ => ?_) ?_
  · dsimp -zeta -zetaHave only
    exact State.moverPartly_same ..
  · exact SameCore.refl _

theorem State.moverCut_same (s : State) (id : Nat) : SameCore s (State.moverCut s id) := by
  unfold State.moverCut
  split
  · exact SameCore.refl _
  · refine (State.moverPartly_same ..).of ?_
    exact State.bumpFree_same ..

theorem State.chainWords_same (s : State) (m : Mover) (pa : Nat) : SameCore s (State.chainWords s m pa).1 := by
  unfold State.chainWords
  refine SameCore.ite_fst (fun _ => ?_) (fun _ => ?_)
  · refine SameCore.mk_fst ?_
    exact State.bumpFree_same ..
  · refine SameCore.mk_fst ?_
    exact SameCore.refl _

theorem State.chainFault_same (s : State) (m : Mover) (st : Stop) (write : Bool) : SameCore s (State.chainFault s m st write) := by
  unfold State.chainFault
  exact State.moverStop_same ..

theorem State.chainBegin_same (s : State) (id : Nat) (va : Nat) : SameCore s (State.chainBegin s id va) := by
  unfold State.chainBegin
  split
  · exact SameCore.refl _
  · extract_lets +onlyGivenNames z1
    clear_value z1
    extract_lets +onlyGivenNames z2
    clear_value z2
    refine SameCore.ite (fun _ => ?_) (fun _ => ?_)
    · exact State.chainFault_same ..
    · split
      · refine (State.chainFault_same ..).of ?_
        refine (SameCore.fst (State.xlate_same ..) (by assumption)).of ?_
        exact SameCore.refl _
      · refine (State.chainFault_same ..).of ?_
        refine (SameCore.fst (State.xlate_same ..) (by assumption)).of ?_
        exact SameCore.refl _
      · split
        · refine (State.chainFault_same ..).of ?_
          refine (SameCore.fst (State.xlate_same ..) (by assumption)).of ?_
          exact SameCore.refl _
        · dsimp -zeta -zetaHave only
          extract_lets +onlyGivenNames z3
          clear_value z3
          extract_lets +onlyGivenNames z4
          clear_value z4
          extract_lets +onlyGivenNames z5
          clear_value z5
          extract_lets +onlyGivenNames z6
          clear_value z6
          refine SameCore.ite (fun _ => ?_) (fun _ => ?_)
          · refine (State.chainFault_same ..).of ?_
            refine (State.chainWords_same ..).of ?_
            refine (SameCore.fst (State.xlate_same ..) (by assumption)).of ?_
            exact SameCore.refl _
          · split
            · refine (State.chainFault_same ..).of ?_
              refine (State.chainWords_same ..).of ?_
              refine (SameCore.fst (State.xlate_same ..) (by assumption)).of ?_
              exact SameCore.refl _
            · refine SameCore.ite (fun _ => ?_) (fun _ => ?_)
              · refine (State.chainFault_same ..).of ?_
                refine (State.chainWords_same ..).of ?_
                refine (SameCore.fst (State.xlate_same ..) (by assumption)).of ?_
                exact SameCore.refl _
              · split
                · refine (State.chainFault_same ..).of ?_
                  refine (SameCore.fst (State.firstBytes_same ..) (by assumption)).of ?_
                  refine (State.chainWords_same ..).of ?_
                  refine (SameCore.fst (State.xlate_same ..) (by assumption)).of ?_
                  exact SameCore.refl _
                · refine SameCore.ite (fun _ => ?_) (fun _ => ?_)
                  · refine (State.chainFault_same ..).of ?_
                    refine (SameCore.fst (State.firstBytes_same ..) (by assumption)).of ?_
                    refine (State.chainWords_same ..).of ?_
                    refine (SameCore.fst (State.xlate_same ..) (by assumption)).of ?_
                    exact SameCore.refl _
                  · extract_lets +onlyGivenNames z7
                    clear_value z7
                    refine SameCore.ite (fun _ => ?_) (fun _ => ?_)
                    · refine (State.chainFault_same ..).of ?_
                      refine (State.countUnsafe_same ..).of ?_
                      refine (SameCore.fst (State.firstBytes_same ..) (by assumption)).of ?_
                      refine (State.chainWords_same ..).of ?_
                      refine (SameCore.fst (State.xlate_same ..) (by assumption)).of ?_
                      exact SameCore.refl _
                    · extract_lets +onlyGivenNames z8
                      clear_value z8
                      refine (State.countHandling_same ..).of ?_
                      refine SameCore.mk' ?_ (.refl _) le_rfl
                      refine (State.planCopy_same ..).of ?_
                      refine (SameCore.fst (State.firstBytes_same ..) (by assumption)).of ?_
                      refine (State.chainWords_same ..).of ?_
                      refine (SameCore.fst (State.xlate_same ..) (by assumption)).of ?_
                      exact SameCore.refl _

theorem State.chainNext_same (s : State) (m : Mover) : SameCore s (State.chainNext s m) := by
  unfold State.chainNext
  refine SameCore.ite (fun _ => ?_) (fun _ => ?_)
  · exact State.moverDone_same ..
  · extract_lets +onlyGivenNames z1
    clear_value z1
    extract_lets +onlyGivenNames z2
    clear_value z2
    extract_lets +onlyGivenNames z3
    clear_value z3
    extract_lets +onlyGivenNames z4
    refine SameCore.cut (b := z4) ?_ ?_
    · unfold z4
      exact SameCore.mk' (SameCore.refl _) (.refl _) le_rfl
    · intro hz4
      split
      · exact (State.chainFault_same ..).of ‹_›
      · refine SameCore.ite (fun _ => ?_) (fun _ => ?_)
        · exact (State.chainFault_same ..).of ‹_›
        · refine SameCore.ite (fun _ => ?_) (fun _ => ?_)
          · exact (State.chainFault_same ..).of ‹_›
          · exact (State.chainBegin_same ..).of ‹_›

theorem execBmvDescriptorComplete_same (id : Nat) (err : Option (Nat × Bool)) (s : State) : CoreKept s (execBmvDescriptorComplete id err s) := by
  unfold execBmvDescriptorComplete
  refine CoreKept.next ?_
  split
  · refine SameCore.ite (fun _ => ?_) (fun _ => ?_)
    · refine SameCore.trans ?_ (State.moverRun_same (h_fin := ?_) ..)
      · exact State.eccFind_same ..
      · intro _
        intro _
        exact State.chainNext_same ..
    · exact SameCore.refl _
  · exact SameCore.refl _

theorem execBmvCopyComplete_same (id : Nat) (s : State) : CoreKept s (execBmvCopyComplete id s) := by
  unfold execBmvCopyComplete
  refine CoreKept.next ?_
  split
  · refine SameCore.ite (fun _ => ?_) (fun _ => ?_)
    · exact SameCore.refl _
    · refine SameCore.trans ?_ (State.moverRun_same (h_fin := ?_) ..)
      · exact SameCore.refl _
      · intro _
        intro _
        exact State.moverDone_same ..
  · exact SameCore.refl _

end Sys2Proof.Machine
end

