-- ==== Sys2Proof/Laws/SameCommands.lean ====
section
/-! SUPPORT. That the operations and commands of Machine/Commands.lean leave power, time, the SEC core and trim alone: one lemma for each. -/

set_option Elab.async false
namespace Sys2Proof.Machine

theorem State.begin__same (s : State) (h : Nat) (op : Nat) (body : State → Queue → Front → List W → State) (h_body : ∀ (x0 : State) (x1 : Queue) (x2 : Front) (x3 : List W), SameCore x0 (body x0 x1 x2 x3)) : SameCore s (State.begin_ s h op body) := by
  unfold State.begin_
  split
  · exact SameCore.refl _
  · extract_lets +onlyGivenNames z1
    clear_value z1
    split
    · exact State.cmdFault_same ..
    · refine SameCore.ite (fun _ => ?_) (fun _ => ?_)
      · exact State.cmdFault_same ..
      · exact h_body _ _ _ _

theorem State.begunFault_same (s : State) (h : Nat) (f : Front) (g : State → State) (h_g : ∀ (x0 : State), SameCore x0 (g x0)) : SameCore s (State.begunFault s h f g) := by
  unfold State.begunFault
  refine (h_g _).of ?_
  exact State.advance_same ..

theorem State.putBytesOf_same (s : State) (h : Nat) (q : Queue) (f : Front) (va : Nat) (d : List Byte) : SameCore s (State.putBytesOf s h q f va d) := by
  unfold State.putBytesOf
  split
  · refine SameCore.ite (fun _ => ?_) (fun _ => ?_)
    · refine (State.accessFault_same ..).of ?_
      refine (SameCore.fst (State.storeAt_same ..) (by assumption)).of ?_
      exact SameCore.refl _
    · refine SameCore.trans ?_ (State.begunFault_same (h_g := ?_) ..)
      · refine (SameCore.fst (State.storeAt_same ..) (by assumption)).of ?_
        exact SameCore.refl _
      · intro _
        exact State.accessFault_same ..
  · refine (State.finish_same ..).of ?_
    refine (SameCore.fst (State.storeAt_same ..) (by assumption)).of ?_
    exact SameCore.refl _

theorem State.askOperand_same (k cmd : Nat) (l : List Seg) (s : State) (got : Tbl (List Byte)) (need : List Nat) :
    SameCore s (State.askOperand k cmd l s got need).1 := by
  induction l generalizing s got need with
  | nil => exact SameCore.refl _
  | cons p l ih =>
    obtain ⟨o, d, m⟩ := p
    cases d with
    | hbm pa =>
      unfold State.askOperand
      exact ih ..
    | host a =>
      unfold State.askOperand
      extract_lets +onlyGivenNames z1
      clear_value z1
      refine (ih ..).of ?_
      refine SameCore.foldl (fun _ _ => ?_) ?_
      · dsimp -zeta -zetaHave only
        exact State.issueRead_same ..
      · exact SameCore.refl _

theorem State.endOperand_same (s : State) (h : Nat) (f : Front) (sync : Bool) (r : Except Nat State)
    (h_r : ∀ t, r = .ok t → SameCore s t) : SameCore s (State.endOperand s h f sync r) := by
  unfold State.endOperand
  split
  · exact (h_r _ rfl).trans (State.finish_same ..)
  · refine SameCore.ite (fun _ => State.cmdFault_same ..) (fun _ => ?_)
    exact State.begunFault_same s _ _ _ fun s => State.cmdFault_same ..

theorem State.withOperand_same (s : State) (h : Nat) (q : Queue) (f : Front) (ws : List W) (va : Nat) (n : Nat) (sync : Bool) (eff : State → List Byte → Except Nat State) (h_eff : ∀ (x0 : State) (x1 : List Byte), ∀ t, (eff x0 x1) = .ok t → SameCore x0 t) : SameCore s (State.withOperand s h q f ws va n sync eff) := by
  unfold State.withOperand
  split
  · refine SameCore.ite (fun _ => ?_) (fun _ => ?_)
    · refine (State.accessFault_same ..).of ?_
      refine (SameCore.fst (State.segs_same ..) (by assumption)).of ?_
      exact SameCore.refl _
    · refine SameCore.trans ?_ (State.begunFault_same (h_g := ?_) ..)
      · refine (SameCore.fst (State.segs_same ..) (by assumption)).of ?_
        exact SameCore.refl _
      · intro _
        exact State.accessFault_same ..
  · split
    · refine SameCore.trans ?_ (State.begunFault_same (h_g := ?_) ..)
      · refine (SameCore.fst (State.segs_same ..) (by assumption)).of ?_
        exact SameCore.refl _
      · intro _
        exact State.accessFault_same ..
    · refine SameCore.ite (fun _ => ?_) (fun _ => ?_)
      · refine SameCore.trans ?_ (State.endOperand_same (h_r := ?_) ..)
        · refine (SameCore.fst (State.segs_same ..) (by assumption)).of ?_
          exact SameCore.refl _
        · intro _
          intro ht
          refine (h_eff _ _ _ (by assumption)).of ?_
          exact SameCore.refl _
      · refine SameCore.ite (fun _ => ?_) (fun _ => ?_)
        · refine SameCore.trans ?_ (State.begunFault_same (h_g := ?_) ..)
          · refine (SameCore.fst (State.segs_same ..) (by assumption)).of ?_
            exact SameCore.refl _
          · intro _
            exact State.hostReadFault_same ..
        · extract_lets +onlyGivenNames z1
          clear_value z1
          extract_lets +onlyGivenNames z2
          refine SameCore.cut (b := z2) ?_ ?_
          · unfold z2
            refine SameCore.ite (fun _ => ?_) (fun _ => ?_)
            · refine (State.hold_same ..).of ?_
              refine (SameCore.fst (State.segs_same ..) (by assumption)).of ?_
              exact SameCore.refl _
            · refine (State.start_same ..).of ?_
              refine (SameCore.fst (State.segs_same ..) (by assumption)).of ?_
              exact SameCore.refl _
          · intro hz2
            dsimp -zeta -zetaHave only
            refine SameCore.mk' ?_ (.refl _) le_rfl
            exact (State.askOperand_same ..).of ‹_›

theorem State.condEffect_same (s : State) (h : Nat) (ws : List W) (v : Nat) : SameCore s (State.condEffect s h ws v) := by
  unfold State.condEffect
  extract_lets +onlyGivenNames z1
  clear_value z1
  exact State.setQueue_same ..

theorem State.htabEffect_same (s : State) (k : Nat) (ws : List W) (d : List Byte) (t : State) (ht : (State.htabEffect s k ws d) = .ok t) : SameCore s t := by
  unfold State.htabEffect at ht
  extract_lets +onlyGivenNames z1 at ht
  split at ht
  · cases ht
    exact SameCore.mk' (SameCore.refl _) (.refl _) le_rfl
  · cases ht

theorem State.syncEffect_same (s : State) (k : Nat) (ws : List W) (d : List Byte) (t : State) (ht : (State.syncEffect s k ws d) = .ok t) : SameCore s t := by
  unfold State.syncEffect at ht
  extract_lets +onlyGivenNames z1 at ht
  split at ht
  · cases ht
  · extract_lets +onlyGivenNames z1 at ht
    split at ht
    · extract_lets +onlyGivenNames z1 at ht
      cases ht
      refine SameCore.foldl (fun _ _ => ?_) ?_
      · exact State.evaluate_same ..
      · unfold z1
        refine SameCore.foldl (fun _ _ => ?_) ?_
        · dsimp -zeta -zetaHave only
          exact State.setObj_same ..
        · exact SameCore.refl _
    · cases ht

theorem State.operandEffect_same (s : State) (h : Nat) (op : Nat) (k : Nat) (ws : List W) (d : List Byte) (t : State) (ht : (State.operandEffect s h op k ws d) = .ok t) : SameCore s t := by
  unfold State.operandEffect at ht
  split at ht
  · cases ht
    exact State.condEffect_same ..
  · exact State.htabEffect_same (ht := by assumption) ..
  · exact State.syncEffect_same (ht := by assumption) ..

theorem State.operandReady_same (s : State) (c : Cmd) (ws : List W) (d : List Byte) : SameCore s (State.operandReady s c ws d) := by
  unfold State.operandReady
  extract_lets +onlyGivenNames z1
  clear_value z1
  extract_lets +onlyGivenNames z2
  refine SameCore.cut (b := z2) ?_ ?_
  · unfold z2
    exact SameCore.mk' (SameCore.refl _) (.refl _) le_rfl
  · intro hz2
    extract_lets +onlyGivenNames z3
    clear_value z3
    refine SameCore.ite (fun _ => ?_) (fun _ => ?_)
    · refine SameCore.trans ?_ (State.endOperand_same (h_r := ?_) ..)
      · assumption
      · intro _
        intro ht
        exact State.operandEffect_same (ht := by assumption) ..
    · split
      · refine (State.complete_same ..).of ?_
        exact State.operandEffect_same (ht := by assumption) ..
      · exact (State.cmdFault_same ..).of ‹_›

theorem State.operandData_same (s : State) (id : Nat) (off : Nat) (d : List Byte) : SameCore s (State.operandData s id off d) := by
  unfold State.operandData
  split
  · exact SameCore.refl _
  · split
    · extract_lets +onlyGivenNames z1
      clear_value z1
      extract_lets +onlyGivenNames z2
      clear_value z2
      refine SameCore.ite (fun _ => ?_) (fun _ => ?_)
      · exact State.operandReady_same ..
      · exact SameCore.mk' (SameCore.refl _) (.refl _) le_rfl
    · exact SameCore.refl _

theorem State.operandFail_same (s : State) (id : Nat) (r : Cpl) : SameCore s (State.operandFail s id r) := by
  unfold State.operandFail
  split
  · exact SameCore.refl _
  · extract_lets +onlyGivenNames z1
    extract_lets +onlyGivenNames z2
    refine SameCore.cut (b := z2) ?_ ?_
    · unfold z2
      exact SameCore.mk' (SameCore.refl _) (.refl _) le_rfl
    · intro hz2
      exact (State.hostReadFault_same ..).of ‹_›

theorem execRingDataReturn_same (h : Nat) (err : Option (Nat × Bool)) (s : State) : CoreKept s (execRingDataReturn h err s) := by
  unfold execRingDataReturn
  refine CoreKept.next ?_
  extract_lets +onlyGivenNames z1
  refine SameCore.cut (b := z1) ?_ ?_
  · unfold z1
    exact State.eccFind_same ..
  · intro hz1
    refine SameCore.ite (fun _ => ?_) (fun _ => ?_)
    · assumption
    · split
      · exact (State.fetch_same ..).of ‹_›
      · exact (State.hostReadFault_same ..).of ‹_›
      · exact (State.accessFault_same ..).of ‹_›
      · extract_lets +onlyGivenNames z2
        clear_value z2
        extract_lets +onlyGivenNames z3
        clear_value z3
        split
        · exact (State.cmdFault_same ..).of ‹_›
        · refine SameCore.ite (fun _ => ?_) (fun _ => ?_)
          · extract_lets +onlyGivenNames z4
            refine SameCore.cut (b := z4) ?_ ?_
            · unfold z4
              exact (State.advance_same ..).of ‹_›
            · intro hz4
              exact (State.setQueue_same ..).of ‹_›
          · exact (State.setQueue_same ..).of ‹_›

theorem execNop_same (h : Nat) (s : State) : CoreKept s (execNop h s) := by
  unfold execNop
  refine CoreKept.next ?_
  refine SameCore.trans ?_ (State.begin__same (h_body := ?_) ..)
  · exact SameCore.refl _
  · intro _
    intro _
    intro _
    intro _
    exact State.finish_same ..

theorem execIndirect_same (h : Nat) (err : Option (Nat × Bool)) (s : State) : CoreKept s (execIndirect h err s) := by
  unfold execIndirect
  refine CoreKept.next ?_
  refine SameCore.trans ?_ (State.begin__same (h_body := ?_) ..)
  · exact State.eccFind_same ..
  · intro _
    intro _
    intro _
    intro _
    extract_lets +onlyGivenNames z1
    clear_value z1
    split
    · refine (State.accessFault_same ..).of ?_
      refine (SameCore.fst (State.xlate_same ..) (by assumption)).of ?_
      exact SameCore.refl _
    · extract_lets +onlyGivenNames z2
      clear_value z2
      dsimp -zeta -zetaHave only
      extract_lets +onlyGivenNames z3
      clear_value z3
      extract_lets +onlyGivenNames z4
      clear_value z4
      refine (State.setQueue_same ..).of ?_
      refine (State.loadFrame_same ..).of ?_
      refine (SameCore.fst (State.xlate_same ..) (by assumption)).of ?_
      exact SameCore.refl _

theorem State.saveCheck_same (s : State) (k : Nat) (sa : Nat) (n : Nat) : SameCore s (State.saveCheck s k sa n).1 := by
  unfold State.saveCheck
  refine SameCore.ite_fst (fun _ => ?_) (fun _ => ?_)
  · refine SameCore.mk_fst ?_
    exact SameCore.refl _
  · refine SameCore.ite_fst (fun _ => ?_) (fun _ => ?_)
    · refine SameCore.mk_fst ?_
      exact SameCore.refl _
    · split
      · refine SameCore.mk_fst ?_
        refine (SameCore.fst (State.xlate_same ..) (by assumption)).of ?_
        exact SameCore.refl _
      · refine SameCore.mk_fst ?_
        refine (SameCore.fst (State.xlate_same ..) (by assumption)).of ?_
        exact SameCore.refl _
      · refine SameCore.mk_fst ?_
        refine (SameCore.fst (State.xlate_same ..) (by assumption)).of ?_
        exact SameCore.refl _

theorem State.readyLaunch_same (s : State) (h : Nat) (q : Queue) (f : Front) (ws : List W) (inline : Bool) : SameCore s (State.readyLaunch s h q f ws inline) := by
  unfold State.readyLaunch
  extract_lets +onlyGivenNames z1
  clear_value z1
  extract_lets +onlyGivenNames z2
  clear_value z2
  extract_lets +onlyGivenNames z3
  clear_value z3
  extract_lets +onlyGivenNames z4
  clear_value z4
  extract_lets +onlyGivenNames z5
  clear_value z5
  refine SameCore.ite (fun _ => ?_) (fun _ => ?_)
  · exact State.cmdFault_same ..
  · split
    · refine (State.accessFault_same ..).of ?_
      refine (SameCore.fst (State.xlate_same ..) (by assumption)).of ?_
      exact SameCore.refl _
    · refine (State.cmdFault_same ..).of ?_
      refine (SameCore.fst (State.xlate_same ..) (by assumption)).of ?_
      exact SameCore.refl _
    · split
      · refine (State.accessFault_same ..).of ?_
        refine SameCore.fst (?_ : SameCore _ _) (by assumption)
        refine SameCore.ite_fst (fun _ => ?_) (fun _ => ?_)
        · refine SameCore.mk_fst ?_
          refine (SameCore.fst (State.xlate_same ..) (by assumption)).of ?_
          exact SameCore.refl _
        · split
          · refine SameCore.mk_fst ?_
            refine (SameCore.fst (State.xlate_same ..) (by assumption)).of ?_
            refine (SameCore.fst (State.xlate_same ..) (by assumption)).of ?_
            exact SameCore.refl _
          · refine SameCore.mk_fst ?_
            refine (SameCore.fst (State.xlate_same ..) (by assumption)).of ?_
            refine (SameCore.fst (State.xlate_same ..) (by assumption)).of ?_
            exact SameCore.refl _
      · split
        · refine (State.cmdFault_same ..).of ?_
          refine (SameCore.fst (State.saveCheck_same ..) (by assumption)).of ?_
          refine SameCore.fst (?_ : SameCore _ _) (by assumption)
          refine SameCore.ite_fst (fun _ => ?_) (fun _ => ?_)
          · refine SameCore.mk_fst ?_
            refine (SameCore.fst (State.xlate_same ..) (by assumption)).of ?_
            exact SameCore.refl _
          · split
            · refine SameCore.mk_fst ?_
              refine (SameCore.fst (State.xlate_same ..) (by assumption)).of ?_
              refine (SameCore.fst (State.xlate_same ..) (by assumption)).of ?_
              exact SameCore.refl _
            · refine SameCore.mk_fst ?_
              refine (SameCore.fst (State.xlate_same ..) (by assumption)).of ?_
              refine (SameCore.fst (State.xlate_same ..) (by assumption)).of ?_
              exact SameCore.refl _
        · refine (State.accessFault_same ..).of ?_
          refine (SameCore.fst (State.saveCheck_same ..) (by assumption)).of ?_
          refine SameCore.fst (?_ : SameCore _ _) (by assumption)
          refine SameCore.ite_fst (fun _ => ?_) (fun _ => ?_)
          · refine SameCore.mk_fst ?_
            refine (SameCore.fst (State.xlate_same ..) (by assumption)).of ?_
            exact SameCore.refl _
          · split
            · refine SameCore.mk_fst ?_
              refine (SameCore.fst (State.xlate_same ..) (by assumption)).of ?_
              refine (SameCore.fst (State.xlate_same ..) (by assumption)).of ?_
              exact SameCore.refl _
            · refine SameCore.mk_fst ?_
              refine (SameCore.fst (State.xlate_same ..) (by assumption)).of ?_
              refine (SameCore.fst (State.xlate_same ..) (by assumption)).of ?_
              exact SameCore.refl _
        · extract_lets +onlyGivenNames z6
          clear_value z6
          extract_lets +onlyGivenNames z7
          clear_value z7
          extract_lets +onlyGivenNames z8
          refine SameCore.cut (b := z8) ?_ ?_
          · unfold z8
            refine (State.setLaunch_same ..).of ?_
            refine (SameCore.fst (State.saveCheck_same ..) (by assumption)).of ?_
            refine SameCore.fst (?_ : SameCore _ _) (by assumption)
            refine SameCore.ite_fst (fun _ => ?_) (fun _ => ?_)
            · refine SameCore.mk_fst ?_
              refine (SameCore.fst (State.xlate_same ..) (by assumption)).of ?_
              exact SameCore.refl _
            · split
              · refine SameCore.mk_fst ?_
                refine (SameCore.fst (State.xlate_same ..) (by assumption)).of ?_
                refine (SameCore.fst (State.xlate_same ..) (by assumption)).of ?_
                exact SameCore.refl _
              · refine SameCore.mk_fst ?_
                refine (SameCore.fst (State.xlate_same ..) (by assumption)).of ?_
                refine (SameCore.fst (State.xlate_same ..) (by assumption)).of ?_
                exact SameCore.refl _
          · intro hz8
            extract_lets +onlyGivenNames z9
            clear_value z9
            extract_lets +onlyGivenNames z10
            refine SameCore.cut (b := z10) ?_ ?_
            · unfold z10
              exact (State.setQueue_same ..).of ‹_›
            · intro hz10
              exact SameCore.mk' ‹_› (.refl _) le_rfl

theorem execLaunch_same (h : Nat) (s : State) : CoreKept s (execLaunch h s) := by
  unfold execLaunch
  refine CoreKept.next ?_
  refine SameCore.trans ?_ (State.begin__same (h_body := ?_) ..)
  · exact SameCore.refl _
  · intro _
    intro _
    intro _
    intro _
    exact State.readyLaunch_same ..

theorem execLaunchInline_same (h : Nat) (s : State) : CoreKept s (execLaunchInline h s) := by
  unfold execLaunchInline
  refine CoreKept.next ?_
  refine SameCore.trans ?_ (State.begin__same (h_body := ?_) ..)
  · exact SameCore.refl _
  · intro _
    intro _
    intro _
    intro _
    exact State.readyLaunch_same ..

theorem State.startMover_same (s : State) (h : Nat) (q : Queue) (f : Front) (ws : List W) (toHost : Bool) (chain : Bool) (p : Plan) (hd : Handling) : SameCore s (State.startMover s h q f ws toHost chain p hd) := by
  unfold State.startMover
  extract_lets +onlyGivenNames z1
  clear_value z1
  extract_lets +onlyGivenNames z2
  clear_value z2
  extract_lets +onlyGivenNames z3
  clear_value z3
  refine (State.start_same ..).of ?_
  refine (State.countHandling_same ..).of ?_
  exact SameCore.mk' (SameCore.refl _) (.refl _) le_rfl

theorem State.beginCopy_same (s : State) (h : Nat) (q : Queue) (f : Front) (ws : List W) : SameCore s (State.beginCopy s h q f ws) := by
  unfold State.beginCopy
  extract_lets +onlyGivenNames z1
  clear_value z1
  extract_lets +onlyGivenNames z2
  clear_value z2
  extract_lets +onlyGivenNames z3
  clear_value z3
  refine SameCore.ite (fun _ => ?_) (fun _ => ?_)
  · exact State.cmdFault_same ..
  · split
    · refine (State.accessFault_same ..).of ?_
      refine (SameCore.fst (State.firstBytes_same ..) (by assumption)).of ?_
      exact SameCore.refl _
    · refine SameCore.ite (fun _ => ?_) (fun _ => ?_)
      · refine (State.cmdFault_same ..).of ?_
        refine (SameCore.fst (State.firstBytes_same ..) (by assumption)).of ?_
        exact SameCore.refl _
      · extract_lets +onlyGivenNames z4
        clear_value z4
        refine SameCore.ite (fun _ => ?_) (fun _ => ?_)
        · refine (State.queueFault_same ..).of ?_
          refine (State.countUnsafe_same ..).of ?_
          refine (SameCore.fst (State.firstBytes_same ..) (by assumption)).of ?_
          exact SameCore.refl _
        · dsimp -zeta -zetaHave only
          refine (State.startMover_same ..).of ?_
          refine (State.planCopy_same ..).of ?_
          refine (SameCore.fst (State.firstBytes_same ..) (by assumption)).of ?_
          exact SameCore.refl _

theorem State.beginChain_same (s : State) (h : Nat) (q : Queue) (f : Front) (ws : List W) : SameCore s (State.beginChain s h q f ws) := by
  unfold State.beginChain
  extract_lets +onlyGivenNames z1
  clear_value z1
  split
  · refine (State.accessFault_same ..).of ?_
    refine (SameCore.fst (State.xlate_same ..) (by assumption)).of ?_
    exact SameCore.refl _
  · refine (State.cmdFault_same ..).of ?_
    refine (SameCore.fst (State.xlate_same ..) (by assumption)).of ?_
    exact SameCore.refl _
  · extract_lets +onlyGivenNames z2
    clear_value z2
    refine (State.chainBegin_same ..).of ?_
    refine (State.startMover_same ..).of ?_
    refine (SameCore.fst (State.xlate_same ..) (by assumption)).of ?_
    exact SameCore.refl _

theorem execCopy_same (h : Nat) (err : Option (Nat × Bool)) (s : State) : CoreKept s (execCopy h err s) := by
  unfold execCopy
  refine CoreKept.next ?_
  refine SameCore.trans ?_ (State.begin__same (h_body := ?_) ..)
  · exact State.eccFind_same ..
  · intro _
    intro _
    intro _
    intro _
    refine SameCore.ite (fun _ => ?_) (fun _ => ?_)
    · exact SameCore.refl _
    · refine SameCore.ite (fun _ => ?_) (fun _ => ?_)
      · exact State.beginChain_same ..
      · exact State.beginCopy_same ..

theorem execFill_same (h : Nat) (s : State) : CoreKept s (execFill h s) := by
  unfold execFill
  refine CoreKept.next ?_
  refine SameCore.trans ?_ (State.begin__same (h_body := ?_) ..)
  · exact SameCore.refl _
  · intro _
    intro _
    intro _
    intro _
    refine SameCore.ite (fun _ => ?_) (fun _ => ?_)
    · exact SameCore.refl _
    · extract_lets +onlyGivenNames z1
      clear_value z1
      extract_lets +onlyGivenNames z2
      clear_value z2
      refine SameCore.ite (fun _ => ?_) (fun _ => ?_)
      · exact State.cmdFault_same ..
      · split
        · refine (State.accessFault_same ..).of ?_
          refine (SameCore.fst (State.firstBytes_same ..) (by assumption)).of ?_
          exact SameCore.refl _
        · refine (State.startMover_same ..).of ?_
          refine (SameCore.fst (State.firstBytes_same ..) (by assumption)).of ?_
          exact SameCore.refl _

theorem State.sendCmd_same (s : State) (h : Nat) (q : Queue) (f : Front) (ws : List W) (kind : HubKind) (val : Nat) (w : Work) : SameCore s (State.sendCmd s h q f ws kind val w) := by
  unfold State.sendCmd
  extract_lets +onlyGivenNames z1
  clear_value z1
  split
  · exact State.cmdFault_same ..
  · extract_lets +onlyGivenNames z2
    clear_value z2
    refine SameCore.ite (fun _ => ?_) (fun _ => ?_)
    · exact State.cmdFault_same ..
    · refine (State.sendOp_same ..).of ?_
      exact State.start_same ..

theorem execSignal_same (h : Nat) (s : State) : CoreKept s (execSignal h s) := by
  unfold execSignal
  refine CoreKept.next ?_
  refine SameCore.trans ?_ (State.begin__same (h_body := ?_) ..)
  · exact SameCore.refl _
  · intro _
    intro _
    intro _
    intro _
    exact State.sendCmd_same ..

theorem execWait_same (h : Nat) (s : State) : CoreKept s (execWait h s) := by
  unfold execWait
  refine CoreKept.next ?_
  refine SameCore.trans ?_ (State.begin__same (h_body := ?_) ..)
  · exact SameCore.refl _
  · intro _
    intro _
    intro _
    intro _
    extract_lets +onlyGivenNames z1
    clear_value z1
    exact State.sendCmd_same ..

theorem execArrive_same (h : Nat) (s : State) : CoreKept s (execArrive h s) := by
  unfold execArrive
  refine CoreKept.next ?_
  refine SameCore.trans ?_ (State.begin__same (h_body := ?_) ..)
  · exact SameCore.refl _
  · intro _
    intro _
    intro _
    intro _
    exact State.sendCmd_same ..

theorem execFence_same (h : Nat) (s : State) : CoreKept s (execFence h s) := by
  unfold execFence
  refine CoreKept.next ?_
  refine SameCore.trans ?_ (State.begin__same (h_body := ?_) ..)
  · exact SameCore.refl _
  · intro _
    intro _
    intro _
    intro _
    refine SameCore.ite (fun _ => ?_) (fun _ => ?_)
    · exact SameCore.refl _
    · exact State.finish_same ..

theorem execCond_same (h : Nat) (err : Option (Nat × Bool)) (s : State) : CoreKept s (execCond h err s) := by
  unfold execCond
  refine CoreKept.next ?_
  refine SameCore.trans ?_ (State.begin__same (h_body := ?_) ..)
  · exact State.eccFind_same ..
  · intro _
    intro _
    intro _
    intro _
    extract_lets +onlyGivenNames z1
    clear_value z1
    refine SameCore.ite (fun _ => ?_) (fun _ => ?_)
    · refine SameCore.trans ?_ (State.withOperand_same (h_eff := ?_) ..)
      · exact SameCore.refl _
      · intro _
        intro _
        intro _
        intro ht
        cases ht
        exact State.condEffect_same ..
    · split
      · exact State.cmdFault_same ..
      · refine (State.finish_same ..).of ?_
        exact State.condEffect_same ..

theorem execLoopBegin_same (h : Nat) (s : State) : CoreKept s (execLoopBegin h s) := by
  unfold execLoopBegin
  refine CoreKept.next ?_
  refine SameCore.trans ?_ (State.begin__same (h_body := ?_) ..)
  · exact SameCore.refl _
  · intro _
    intro _
    intro _
    intro _
    refine SameCore.ite (fun _ => ?_) (fun _ => ?_)
    · exact State.cmdFault_same ..
    · extract_lets +onlyGivenNames z1
      clear_value z1
      refine (State.finish_same ..).of ?_
      exact State.setQueue_same ..

theorem execLoopEnd_same (h : Nat) (s : State) : CoreKept s (execLoopEnd h s) := by
  unfold execLoopEnd
  refine CoreKept.next ?_
  refine SameCore.trans ?_ (State.begin__same (h_body := ?_) ..)
  · exact SameCore.refl _
  · intro _
    intro _
    intro _
    intro _
    split
    · exact State.cmdFault_same ..
    · refine SameCore.ite (fun _ => ?_) (fun _ => ?_)
      · exact State.cmdFault_same ..
      · refine SameCore.ite (fun _ => ?_) (fun _ => ?_)
        · extract_lets +onlyGivenNames z1
          clear_value z1
          refine (State.countDone_same ..).of ?_
          exact State.setQueue_same ..
        · refine (State.finish_same ..).of ?_
          exact State.setQueue_same ..

theorem State.beginResult_same (s : State) (h : Nat) (q : Queue) (f : Front) (va : Nat) (wait : Bool) (rest : List W) : SameCore s (State.beginResult s h q f va wait rest) := by
  unfold State.beginResult
  split
  · refine (State.accessFault_same ..).of ?_
    refine (SameCore.fst (State.xlate_same ..) (by assumption)).of ?_
    exact SameCore.refl _
  · extract_lets +onlyGivenNames z1
    clear_value z1
    refine SameCore.ite (fun _ => ?_) (fun _ => ?_)
    · extract_lets +onlyGivenNames z2
      refine SameCore.cut (b := z2) ?_ ?_
      · unfold z2
        refine (State.start_same ..).of ?_
        refine (SameCore.fst (State.xlate_same ..) (by assumption)).of ?_
        exact SameCore.refl _
      · intro hz2
        exact (State.setQueue_same ..).of ‹_›
    · refine (State.putBytesOf_same ..).of ?_
      refine (SameCore.fst (State.xlate_same ..) (by assumption)).of ?_
      exact SameCore.refl _

theorem execTimestamp_same (h : Nat) (s : State) : CoreKept s (execTimestamp h s) := by
  unfold execTimestamp
  refine CoreKept.next ?_
  refine SameCore.trans ?_ (State.begin__same (h_body := ?_) ..)
  · exact SameCore.refl _
  · intro _
    intro _
    intro _
    intro _
    exact State.beginResult_same ..

theorem execWriteData_same (h : Nat) (s : State) : CoreKept s (execWriteData h s) := by
  unfold execWriteData
  refine CoreKept.next ?_
  refine SameCore.trans ?_ (State.begin__same (h_body := ?_) ..)
  · exact SameCore.refl _
  · intro _
    intro _
    intro _
    intro _
    exact State.putBytesOf_same ..

theorem execReport_same (h : Nat) (s : State) : CoreKept s (execReport h s) := by
  unfold execReport
  refine CoreKept.next ?_
  refine SameCore.trans ?_ (State.begin__same (h_body := ?_) ..)
  · exact SameCore.refl _
  · intro _
    intro _
    intro _
    intro _
    exact State.beginResult_same ..

theorem execBeaconWait_same (h : Nat) (s : State) : CoreKept s (execBeaconWait h s) := by
  unfold execBeaconWait
  refine CoreKept.next ?_
  refine SameCore.trans ?_ (State.begin__same (h_body := ?_) ..)
  · exact SameCore.refl _
  · intro _
    intro _
    intro _
    intro _
    extract_lets +onlyGivenNames z1
    clear_value z1
    extract_lets +onlyGivenNames z2
    clear_value z2
    refine SameCore.ite (fun _ => ?_) (fun _ => ?_)
    · exact State.finish_same ..
    · extract_lets +onlyGivenNames z3
      refine SameCore.cut (b := z3) ?_ ?_
      · unfold z3
        exact State.start_same ..
      · intro hz3
        exact (State.setQueue_same ..).of ‹_›

theorem State.planesIn_same (k : Nat) (l : List Nat) (s : State) :
    SameCore s (State.planesIn k l s).1 := by
  induction l generalizing s with
  | nil => exact SameCore.refl _
  | cons p l ih =>
    unfold State.planesIn
    split
    · refine SameCore.mk_fst ?_
      refine (SameCore.fst (State.xlate_same ..) (by assumption)).of ?_
      exact SameCore.refl _
    · refine SameCore.mk_fst ?_
      refine (SameCore.fst (State.xlate_same ..) (by assumption)).of ?_
      exact SameCore.refl _
    · refine (ih ..).of ?_
      refine (SameCore.fst (State.xlate_same ..) (by assumption)).of ?_
      exact SameCore.refl _

theorem State.planePages_same (k len : Nat) (l : List Nat) (s : State) :
    SameCore s (State.planePages k len l s).1 := by
  induction l generalizing s with
  | nil => exact SameCore.refl _
  | cons p l ih =>
    unfold State.planePages
    dsimp -zeta -zetaHave only
    refine (ih ..).of ?_
    exact State.segs_same ..

theorem State.acceptFlip_same (s : State) (d : Nat) (fr : FrameT) : SameCore s (State.acceptFlip s d fr) := by
  unfold State.acceptFlip
  extract_lets +onlyGivenNames z1
  clear_value z1
  extract_lets +onlyGivenNames z2
  refine SameCore.cut (b := z2) ?_ ?_
  · unfold z2
    refine SameCore.ite (fun _ => ?_) (fun _ => ?_)
    · exact State.count_same ..
    · exact SameCore.refl _
  · intro hz2
    exact (State.setHead_same ..).of ‹_›

theorem execScanoutFlip_same (h : Nat) (s : State) : CoreKept s (execScanoutFlip h s) := by
  unfold execScanoutFlip
  refine CoreKept.next ?_
  refine SameCore.trans ?_ (State.begin__same (h_body := ?_) ..)
  · exact SameCore.refl _
  · intro _
    intro _
    intro _
    intro _
    extract_lets +onlyGivenNames z1
    clear_value z1
    extract_lets +onlyGivenNames z2
    clear_value z2
    extract_lets +onlyGivenNames z3
    clear_value z3
    refine SameCore.ite (fun _ => ?_) (fun _ => ?_)
    · exact State.cmdFault_same ..
    · refine SameCore.ite (fun _ => ?_) (fun _ => ?_)
      · exact State.cmdFault_same ..
      · split
        · refine (State.accessFault_same ..).of ?_
          refine (SameCore.fst (State.planesIn_same ..) (by assumption)).of ?_
          exact SameCore.refl _
        · refine (State.cmdFault_same ..).of ?_
          refine (SameCore.fst (State.planesIn_same ..) (by assumption)).of ?_
          exact SameCore.refl _
        · dsimp -zeta -zetaHave only
          refine (State.finish_same ..).of ?_
          refine (State.acceptFlip_same ..).of ?_
          refine (State.planePages_same ..).of ?_
          refine (SameCore.fst (State.planesIn_same ..) (by assumption)).of ?_
          exact SameCore.refl _

theorem execSetContext_same (h : Nat) (s : State) : CoreKept s (execSetContext h s) := by
  unfold execSetContext
  refine CoreKept.next ?_
  refine SameCore.trans ?_ (State.begin__same (h_body := ?_) ..)
  · exact SameCore.refl _
  · intro _
    intro _
    intro _
    intro _
    extract_lets +onlyGivenNames z1
    clear_value z1
    split
    · exact State.cmdFault_same ..
    · split
      · refine (State.accessFault_same ..).of ?_
        refine SameCore.fst (?_ : SameCore _ _) (by assumption)
        refine SameCore.ite_fst (fun _ => ?_) (fun _ => ?_)
        · split
          · refine SameCore.mk_fst ?_
            refine (SameCore.fst (State.xlate_same ..) (by assumption)).of ?_
            exact SameCore.refl _
          · refine SameCore.mk_fst ?_
            refine (SameCore.fst (State.xlate_same ..) (by assumption)).of ?_
            exact SameCore.refl _
        · refine SameCore.mk_fst ?_
          exact SameCore.refl _
      · extract_lets +onlyGivenNames z2
        refine SameCore.cut (b := z2) ?_ ?_
        · unfold z2
          refine (State.finish_same ..).of ?_
          refine SameCore.fst (?_ : SameCore _ _) (by assumption)
          refine SameCore.ite_fst (fun _ => ?_) (fun _ => ?_)
          · split
            · refine SameCore.mk_fst ?_
              refine (SameCore.fst (State.xlate_same ..) (by assumption)).of ?_
              exact SameCore.refl _
            · refine SameCore.mk_fst ?_
              refine (SameCore.fst (State.xlate_same ..) (by assumption)).of ?_
              exact SameCore.refl _
          · refine SameCore.mk_fst ?_
            exact SameCore.refl _
        · intro hz2
          extract_lets +onlyGivenNames z3
          clear_value z3
          extract_lets +onlyGivenNames z4
          clear_value z4
          exact (State.setQueue_same ..).of ‹_›

theorem execHtabLoad_same (h : Nat) (err : Option (Nat × Bool)) (s : State) : CoreKept s (execHtabLoad h err s) := by
  unfold execHtabLoad
  refine CoreKept.next ?_
  refine SameCore.trans ?_ (State.begin__same (h_body := ?_) ..)
  · exact State.eccFind_same ..
  · intro _
    intro _
    intro _
    intro _
    extract_lets +onlyGivenNames z1
    clear_value z1
    refine SameCore.ite (fun _ => ?_) (fun _ => ?_)
    · exact State.cmdFault_same ..
    · refine SameCore.trans ?_ (State.withOperand_same (h_eff := ?_) ..)
      · exact SameCore.refl _
      · intro _
        intro _
        intro _
        intro ht
        exact State.htabEffect_same (ht := by assumption) ..

theorem State.settleInval_same (s : State) : SameCore s (State.settleInval s) := by
  unfold State.settleInval
  refine SameCore.foldl (fun _ _ => ?_) ?_
  · refine SameCore.ite (fun _ => ?_) (fun _ => ?_)
    · exact SameCore.refl _
    · refine (State.complete_same ..).of ?_
      exact State.count_same ..
  · exact SameCore.refl _

theorem execDmmuInvalidate_same (h : Nat) (s : State) : CoreKept s (execDmmuInvalidate h s) := by
  unfold execDmmuInvalidate
  refine CoreKept.next ?_
  refine SameCore.trans ?_ (State.begin__same (h_body := ?_) ..)
  · exact SameCore.refl _
  · intro _
    intro _
    intro _
    intro _
    extract_lets +onlyGivenNames z1
    clear_value z1
    extract_lets +onlyGivenNames z2
    clear_value z2
    extract_lets +onlyGivenNames z3
    clear_value z3
    extract_lets +onlyGivenNames z4
    refine SameCore.cut (b := z4) ?_ ?_
    · unfold z4
      exact SameCore.mk' (SameCore.refl _) (.refl _) le_rfl
    · intro hz4
      refine SameCore.ite (fun _ => ?_) (fun _ => ?_)
      · exact (State.start_same ..).of ‹_›
      · refine (State.finish_same ..).of ?_
        exact (State.count_same ..).of ‹_›

theorem execSyncInit_same (h : Nat) (err : Option (Nat × Bool)) (s : State) : CoreKept s (execSyncInit h err s) := by
  unfold execSyncInit
  refine CoreKept.next ?_
  refine SameCore.trans ?_ (State.begin__same (h_body := ?_) ..)
  · exact State.eccFind_same ..
  · intro _
    intro _
    intro _
    intro _
    extract_lets +onlyGivenNames z1
    clear_value z1
    extract_lets +onlyGivenNames z2
    clear_value z2
    refine SameCore.ite (fun _ => ?_) (fun _ => ?_)
    · exact State.cmdFault_same ..
    · refine SameCore.trans ?_ (State.withOperand_same (h_eff := ?_) ..)
      · exact SameCore.refl _
      · intro _
        intro _
        intro _
        intro ht
        exact State.syncEffect_same (ht := by assumption) ..

theorem execTimeoutSet_same (h : Nat) (s : State) : CoreKept s (execTimeoutSet h s) := by
  unfold execTimeoutSet
  refine CoreKept.next ?_
  refine SameCore.trans ?_ (State.begin__same (h_body := ?_) ..)
  · exact SameCore.refl _
  · intro _
    intro _
    intro _
    intro _
    split
    · exact State.cmdFault_same ..
    · refine SameCore.ite (fun _ => ?_) (fun _ => ?_)
      · exact State.cmdFault_same ..
      · extract_lets +onlyGivenNames z1
        refine SameCore.cut (b := z1) ?_ ?_
        · unfold z1
          exact State.finish_same ..
        · intro hz1
          exact (State.setQueue_same ..).of ‹_›

end Sys2Proof.Machine
end

