-- ==== Sys2Proof/Laws/SameEvents.lean ====
section
/-! SUPPORT. That the operations and commands of Machine/Events.lean leave power, time, the SEC core and trim alone: one lemma for each. -/

set_option Elab.async false
namespace Sys2Proof.Machine

theorem State.postEvent_same (s : State) (k : Nat) (code : Nat) (payload : List Byte) : SameCore s (State.postEvent s k code payload) := by
  unfold State.postEvent
  extract_lets +onlyGivenNames z1
  clear_value z1
  refine SameCore.ite (fun _ => ?_) (fun _ => ?_)
  · exact SameCore.refl _
  · refine SameCore.ite (fun _ => ?_) (fun _ => ?_)
    · refine (State.setReg_same ..).of ?_
      exact State.setRings_same ..
    · exact State.setRings_same ..

theorem State.resvChanged_same (s : State) (r : Nat) (reason : Nat) (cause : Nat) (ticks : Nat) : SameCore s (State.resvChanged s r reason cause ticks) := by
  unfold State.resvChanged
  exact State.postEvent_same ..

theorem State.holdEffect_same (s : State) (a : Nat) : SameCore s (State.holdEffect s a) := by
  unfold State.holdEffect
  refine SameCore.ite (fun _ => ?_) (fun _ => ?_)
  · exact SameCore.refl _
  · exact SameCore.mk' (SameCore.refl _) (.refl _) le_rfl

theorem State.latchRange_same (s : State) (lo : Nat) (n : Nat) : SameCore s (State.latchRange s lo n) := by
  unfold State.latchRange
  exact SameCore.mk' (SameCore.refl _) (.refl _) le_rfl

theorem State.freeResv_same (s : State) (r : Nat) : SameCore s (State.freeResv s r) := by
  unfold State.freeResv
  extract_lets +onlyGivenNames z1
  refine SameCore.cut (b := z1) ?_ ?_
  · unfold z1
    exact State.setResv_same ..
  · intro hz1
    exact SameCore.mk' ‹_› (.refl _) le_rfl

theorem State.shedResvs_same (s : State) (b n : Nat) :
    SameCore s (State.shedResvs s b n) := by
  induction n generalizing s with
  | zero => exact SameCore.refl _
  | succ n ih =>
    unfold State.shedResvs
    refine SameCore.ite (fun _ => ?_) (fun _ => ?_)
    · exact SameCore.refl _
    · split
      · refine (ih ..).of ?_
        refine (State.freeResv_same ..).of ?_
        exact State.resvChanged_same ..
      · exact SameCore.refl _

end Sys2Proof.Machine
end

