-- ==== Sys2Proof/Laws/SameSched.lean ====
section
/-! SUPPORT. That the operations and commands of Machine/Sched.lean leave power, time, the SEC core and trim alone: one lemma for each. -/

set_option Elab.async false
namespace Sys2Proof.Machine

theorem State.yieldGap_same (s : State) (c : Ctx) : SameCore s (State.yieldGap s c) := by
  unfold State.yieldGap
  exact State.maxReg_same ..

theorem State.drained_same (s : State) (i : Nat) : SameCore s (State.drained s i) := by
  unfold State.drained
  split
  · exact SameCore.refl _
  · refine SameCore.ite (fun _ => ?_) (fun _ => ?_)
    · extract_lets +onlyGivenNames z1
      clear_value z1
      refine (State.queueFault_same ..).of ?_
      exact State.killLaunch_same ..
    · exact SameCore.refl _

theorem State.endCtx_same (s : State) (i : Nat) (n : Nat) : SameCore s (State.endCtx s i n) := by
  unfold State.endCtx
  refine (State.kick_same ..).of ?_
  refine (State.drained_same ..).of ?_
  exact State.dropCtx_same ..

theorem State.stopCtx_same (s : State) (i : Nat) (n : Nat) (c : Ctx) : SameCore s (State.stopCtx s i n c) := by
  unfold State.stopCtx
  refine (State.leaveRun_same ..).of ?_
  refine (State.tick_same ..).of ?_
  exact State.yieldGap_same ..

theorem State.tryStop_same (s : State) (i : Nat) (n : Nat) : SameCore s (State.tryStop s i n) := by
  unfold State.tryStop
  cases (s.ctx i n)
  · dsimp -zeta -zetaHave only
    exact SameCore.refl _
  · cases (tblFind i s.launches)
    · dsimp -zeta -zetaHave only
      exact SameCore.refl _
    · dsimp -zeta -zetaHave only
      refine SameCore.ite (fun _ => ?_) (fun _ => ?_)
      · exact State.stopCtx_same ..
      · refine SameCore.ite (fun _ => ?_) (fun _ => ?_)
        · extract_lets +onlyGivenNames z1
          refine SameCore.cut (b := z1) ?_ ?_
          · unfold z1
            exact State.count_same ..
          · intro hz1
            refine SameCore.ite (fun _ => ?_) (fun _ => ?_)
            · refine (State.endCtx_same ..).of ?_
              exact (State.yieldGap_same ..).of ‹_›
            · exact (State.stopCtx_same ..).of ‹_›
        · exact SameCore.refl _

theorem State.placeCtxs_same (s : State) (i : Nat) (gran : Nat) (m : BitVec 16) : SameCore s (State.placeCtxs s i gran m) := by
  unfold State.placeCtxs
  extract_lets +onlyGivenNames z1
  refine SameCore.cut (b := z1) ?_ ?_
  · unfold z1
    refine SameCore.foldl (fun _ _ => ?_) ?_
    · dsimp -zeta -zetaHave only
      extract_lets +onlyGivenNames z2
      clear_value z2
      refine (State.tick_same ..).of ?_
      refine (State.latchRange_same ..).of ?_
      refine (State.setCtx_same ..).of ?_
      exact State.takeSlot_same ..
    · exact SameCore.refl _
  · intro hz1
    extract_lets +onlyGivenNames z2
    refine SameCore.cut (b := z2) ?_ ?_
    · unfold z2
      split
      · exact (State.latchRange_same ..).of ‹_›
      · assumption
    · intro hz2
      refine SameCore.foldl (fun _ _ => ?_) ?_
      · exact State.able_same ..
      · assumption

theorem State.launchCut_same (s : State) (i : Nat) (f : State → Nat → Pos → State) (h_f : ∀ (x0 : State) (x1 : Nat) (x2 : Pos), SameCore x0 (f x0 x1 x2)) : SameCore s (State.launchCut s i f) := by
  unfold State.launchCut
  split
  · exact SameCore.refl _
  · extract_lets +onlyGivenNames z1
    clear_value z1
    refine (h_f _ _ _).of ?_
    exact State.killLaunch_same ..

theorem State.askConst_same (i k : Nat) (l : List Seg) (s : State) (got : Tbl (List Byte)) (need : List Nat) :
    SameCore s (State.askConst i k l s got need).1 := by
  induction l generalizing s got need with
  | nil => exact SameCore.refl _
  | cons p l ih =>
    obtain ⟨o, d, m⟩ := p
    cases d with
    | hbm pa =>
      unfold State.askConst
      exact ih ..
    | host a =>
      unfold State.askConst
      extract_lets +onlyGivenNames z1
      clear_value z1
      refine (ih ..).of ?_
      refine SameCore.foldl (fun _ _ => ?_) ?_
      · dsimp -zeta -zetaHave only
        exact State.issueRead_same ..
      · exact SameCore.refl _

theorem State.snapDone_same (s : State) (i : Nat) : SameCore s (State.snapDone s i) := by
  unfold State.snapDone
  split
  · refine SameCore.ite (fun _ => ?_) (fun _ => ?_)
    · exact State.setLaunch_same ..
    · exact SameCore.refl _
  · exact SameCore.refl _

theorem State.constData_same (s : State) (i : Nat) (off : Nat) (d : List Byte) : SameCore s (State.constData s i off d) := by
  unfold State.constData
  split
  · refine (State.snapDone_same ..).of ?_
    exact State.setLaunch_same ..
  · exact SameCore.refl _

theorem State.constFail_same (s : State) (i : Nat) (c : Cpl) : SameCore s (State.constFail s i c) := by
  unfold State.constFail
  refine SameCore.trans ?_ (State.launchCut_same (h_f := ?_) ..)
  · exact SameCore.refl _
  · intro _
    intro _
    intro _
    exact State.hostReadFault_same ..

theorem State.takeSnapshot_same (s : State) (i : Nat) (l : Launch) : SameCore s (State.takeSnapshot s i l) := by
  unfold State.takeSnapshot
  split
  · exact State.setLaunch_same ..
  · split
    · refine SameCore.trans ?_ (State.launchCut_same (h_f := ?_) ..)
      · refine (SameCore.fst (State.segs_same ..) (by assumption)).of ?_
        exact SameCore.refl _
      · intro _
        intro _
        intro _
        exact State.accessFault_same ..
    · split
      · refine SameCore.trans ?_ (State.launchCut_same (h_f := ?_) ..)
        · refine (SameCore.fst (State.segs_same ..) (by assumption)).of ?_
          exact SameCore.refl _
        · intro _
          intro _
          intro _
          exact State.accessFault_same ..
      · refine SameCore.ite (fun _ => ?_) (fun _ => ?_)
        · refine (State.constFail_same ..).of ?_
          refine (SameCore.fst (State.segs_same ..) (by assumption)).of ?_
          exact SameCore.refl _
        · dsimp -zeta -zetaHave only
          refine (State.snapDone_same ..).of ?_
          refine (State.setLaunch_same ..).of ?_
          refine (State.askConst_same ..).of ?_
          refine (SameCore.fst (State.segs_same ..) (by assumption)).of ?_
          exact SameCore.refl _

theorem State.withdraw_same (s : State) (i : Nat) : SameCore s (State.withdraw s i) := by
  unfold State.withdraw
  split
  · exact SameCore.refl _
  · refine SameCore.ite (fun _ => ?_) (fun _ => ?_)
    · exact SameCore.refl _
    · extract_lets +onlyGivenNames z1
      clear_value z1
      extract_lets +onlyGivenNames z2
      refine SameCore.cut (b := z2) ?_ ?_
      · unfold z2
        exact State.setQueue_same ..
      · intro hz2
        exact SameCore.mk' ‹_› (.refl _) le_rfl

theorem execLaunchDispatch_same (i : Nat) (err : Option (Nat × Bool)) (s : State) : CoreKept s (execLaunchDispatch i err s) := by
  unfold execLaunchDispatch
  refine CoreKept.next ?_
  split
  · exact SameCore.refl _
  · refine SameCore.ite (fun _ => ?_) (fun _ => ?_)
    · exact SameCore.refl _
    · split
      · exact SameCore.refl _
      · extract_lets +onlyGivenNames z1
        refine SameCore.cut (b := z1) ?_ ?_
        · unfold z1
          exact State.eccFind_same ..
        · intro hz1
          extract_lets +onlyGivenNames z2
          clear_value z2
          refine SameCore.ite (fun _ => ?_) (fun _ => ?_)
          · refine (State.cmdFault_same ..).of ?_
            exact (State.withdraw_same ..).of ‹_›
          · extract_lets +onlyGivenNames z3
            clear_value z3
            extract_lets +onlyGivenNames z4
            clear_value z4
            extract_lets +onlyGivenNames z5
            clear_value z5
            extract_lets +onlyGivenNames z6
            clear_value z6
            extract_lets +onlyGivenNames z7
            refine SameCore.cut (b := z7) ?_ ?_
            · unfold z7
              exact (State.count_same ..).of ‹_›
            · intro hz7
              extract_lets +onlyGivenNames z8
              refine SameCore.cut (b := z8) ?_ ?_
              · unfold z8
                refine SameCore.ite (fun _ => ?_) (fun _ => ?_)
                · exact (State.maxReg_same ..).of ‹_›
                · assumption
              · intro hz8
                extract_lets +onlyGivenNames z9
                refine SameCore.cut (b := z9) ?_ ?_
                · unfold z9
                  refine SameCore.ite (fun _ => ?_) (fun _ => ?_)
                  · exact (State.count_same ..).of ‹_›
                  · assumption
                · intro hz9
                  extract_lets +onlyGivenNames z10
                  refine SameCore.cut (b := z10) ?_ ?_
                  · unfold z10
                    exact SameCore.mk' ‹_› (.refl _) le_rfl
                  · intro hz10
                    extract_lets +onlyGivenNames z11
                    clear_value z11
                    extract_lets +onlyGivenNames z12
                    refine SameCore.cut (b := z12) ?_ ?_
                    · unfold z12
                      refine (State.setLaunch_same ..).of ?_
                      exact (State.setQueue_same ..).of ‹_›
                    · intro hz12
                      extract_lets +onlyGivenNames z13
                      refine SameCore.cut (b := z13) ?_ ?_
                      · unfold z13
                        exact (State.start_same ..).of ‹_›
                      · intro hz13
                        extract_lets +onlyGivenNames z14
                        refine SameCore.cut (b := z14) ?_ ?_
                        · unfold z14
                          exact (State.traceArea_same ..).of ‹_›
                        · intro hz14
                          refine (State.takeSnapshot_same ..).of ?_
                          exact (State.placeCtxs_same ..).of ‹_›

theorem execLaunchComplete_same (i : Nat) (s : State) : CoreKept s (execLaunchComplete i s) := by
  unfold execLaunchComplete
  refine CoreKept.next ?_
  split
  · refine SameCore.ite (fun _ => ?_) (fun _ => ?_)
    · exact State.launchDone_same ..
    · exact SameCore.refl _
  · exact SameCore.refl _

theorem execSliceExpiry_same (i : Nat) (s : State) : CoreKept s (execSliceExpiry i s) := by
  unfold execSliceExpiry
  refine CoreKept.next ?_
  split
  · exact SameCore.refl _
  · refine SameCore.ite (fun _ => ?_) (fun _ => ?_)
    · exact SameCore.refl _
    · extract_lets +onlyGivenNames z1
      clear_value z1
      refine SameCore.foldl (fun _ _ => ?_) ?_
      · split
        · exact SameCore.refl _
        · extract_lets +onlyGivenNames z2
          clear_value z2
          extract_lets +onlyGivenNames z3
          refine SameCore.cut (b := z3) ?_ ?_
          · unfold z3
            exact State.setCtx_same ..
          · intro hz3
            refine SameCore.ite (fun _ => ?_) (fun _ => ?_)
            · exact (State.askYield_same ..).of ‹_›
            · assumption
      · exact SameCore.refl _

theorem State.imageSegs_same (s : State) (i : Nat) (n : Nat) (l : Launch) (c : Ctx) (write : Bool) : SameCore s (State.imageSegs s i n l c write).1 := by
  unfold State.imageSegs
  split
  · refine SameCore.mk_fst ?_
    refine (State.engineFault_same ..).of ?_
    refine (SameCore.fst (State.segs_same ..) (by assumption)).of ?_
    exact SameCore.refl _
  · refine SameCore.ite_fst (fun _ => ?_) (fun _ => ?_)
    · refine SameCore.mk_fst ?_
      refine (State.yardTrap_same ..).of ?_
      refine (SameCore.fst (State.segs_same ..) (by assumption)).of ?_
      exact SameCore.refl _
    · refine SameCore.mk_fst ?_
      refine (SameCore.fst (State.segs_same ..) (by assumption)).of ?_
      exact SameCore.refl _

theorem State.swapOut_same (s : State) (i : Nat) (n : Nat) (c : Ctx) : SameCore s (State.swapOut s i n c) := by
  unfold State.swapOut
  split
  · exact SameCore.refl _
  · split
    · refine (SameCore.fst (State.imageSegs_same ..) (by assumption)).of ?_
      exact SameCore.refl _
    · refine (State.setCtx_same ..).of ?_
      refine (State.count_same ..).of ?_
      refine (SameCore.fst (State.imageSegs_same ..) (by assumption)).of ?_
      exact SameCore.refl _

theorem execSwapOutStart_same (i : Nat) (n : Nat) (s : State) : CoreKept s (execSwapOutStart i n s) := by
  unfold execSwapOutStart
  refine CoreKept.next ?_
  split
  · exact SameCore.refl _
  · refine SameCore.ite (fun _ => ?_) (fun _ => ?_)
    · split
      · refine SameCore.ite (fun _ => ?_) (fun _ => ?_)
        · exact State.swapOut_same ..
        · exact SameCore.refl _
      · exact SameCore.refl _
    · refine SameCore.ite (fun _ => ?_) (fun _ => ?_)
      · split
        · exact State.swapOut_same ..
        · exact SameCore.refl _
      · exact SameCore.refl _

theorem execSwapOutComplete_same (i : Nat) (n : Nat) (s : State) : CoreKept s (execSwapOutComplete i n s) := by
  unfold execSwapOutComplete
  refine CoreKept.next ?_
  cases (s.ctx i n)
  · dsimp -zeta -zetaHave only
    exact SameCore.refl _
  · cases (tblFind i s.launches)
    · dsimp -zeta -zetaHave only
      exact SameCore.refl _
    · dsimp -zeta -zetaHave only
      refine SameCore.ite (fun _ => ?_) (fun _ => ?_)
      · exact SameCore.refl _
      · split
        · refine (SameCore.fst (State.imageSegs_same ..) (by assumption)).of ?_
          exact SameCore.refl _
        · extract_lets +onlyGivenNames z1
          refine SameCore.cut (b := z1) ?_ ?_
          · unfold z1
            refine (State.bumpFree_same ..).of ?_
            refine (State.segWrite_same ..).of ?_
            refine (SameCore.fst (State.imageSegs_same ..) (by assumption)).of ?_
            exact SameCore.refl _
          · intro hz1
            refine (State.kick_same ..).of ?_
            refine (State.leaveSlot_same ..).of ?_
            exact (State.setCtx_same ..).of ‹_›

theorem execSwapIn_same (i : Nat) (n : Nat) (s : State) : CoreKept s (execSwapIn i n s) := by
  unfold execSwapIn
  refine CoreKept.next ?_
  cases (s.ctx i n)
  · dsimp -zeta -zetaHave only
    exact SameCore.refl _
  · cases (tblFind i s.launches)
    · dsimp -zeta -zetaHave only
      exact SameCore.refl _
    · dsimp -zeta -zetaHave only
      refine SameCore.ite (fun _ => ?_) (fun _ => ?_)
      · exact SameCore.refl _
      · split
        · refine (SameCore.fst (State.imageSegs_same ..) (by assumption)).of ?_
          exact SameCore.refl _
        · extract_lets +onlyGivenNames z1
          clear_value z1
          refine (State.setCtx_same ..).of ?_
          refine (State.takeSlot_same ..).of ?_
          refine (State.count_same ..).of ?_
          refine (SameCore.fst (State.imageSegs_same ..) (by assumption)).of ?_
          exact SameCore.refl _

theorem execSwapInComplete_same (i : Nat) (n : Nat) (err : Option (Nat × Bool)) (s : State) : CoreKept s (execSwapInComplete i n err s) := by
  unfold execSwapInComplete
  refine CoreKept.next ?_
  cases (s.ctx i n)
  · dsimp -zeta -zetaHave only
    exact SameCore.refl _
  · cases (tblFind i s.launches)
    · dsimp -zeta -zetaHave only
      exact SameCore.refl _
    · dsimp -zeta -zetaHave only
      refine SameCore.ite (fun _ => ?_) (fun _ => ?_)
      · exact SameCore.refl _
      · split
        · refine (SameCore.fst (State.imageSegs_same ..) (by assumption)).of ?_
          exact State.eccFind_same ..
        · split
          · refine (State.engineFault_same ..).of ?_
            refine (SameCore.fst (State.imageSegs_same ..) (by assumption)).of ?_
            exact State.eccFind_same ..
          · extract_lets +onlyGivenNames z1
            clear_value z1
            refine (State.able_same ..).of ?_
            refine (State.tick_same ..).of ?_
            refine (State.setCtx_same ..).of ?_
            refine (SameCore.fst (State.imageSegs_same ..) (by assumption)).of ?_
            exact State.eccFind_same ..

theorem execYieldLimitExpiry_same (l : Nat) (n : Nat) (s : State) : CoreKept s (execYieldLimitExpiry l n s) := by
  unfold execYieldLimitExpiry
  refine CoreKept.next ?_
  split
  · exact SameCore.refl _
  · refine SameCore.ite (fun _ => ?_) (fun _ => ?_)
    · exact SameCore.refl _
    · refine SameCore.ite (fun _ => ?_) (fun _ => ?_)
      · refine (State.leaveRun_same ..).of ?_
        refine (State.yieldGap_same ..).of ?_
        exact State.count_same ..
      · refine SameCore.ite (fun _ => ?_) (fun _ => ?_)
        · refine (State.tryStop_same ..).of ?_
          refine (State.setCtx_same ..).of ?_
          exact State.count_same ..
        · exact SameCore.refl _

theorem execForcedSaveOverdue_same (l : Nat) (n : Nat) (s : State) : CoreKept s (execForcedSaveOverdue l n s) := by
  unfold execForcedSaveOverdue
  refine CoreKept.next ?_
  split
  · exact SameCore.refl _
  · refine SameCore.ite (fun _ => ?_) (fun _ => ?_)
    · exact SameCore.refl _
    · refine (State.kick_same ..).of ?_
      refine (State.launchFault_same ..).of ?_
      refine (State.cause_same ..).of ?_
      exact State.count_same ..

theorem State.relock_same (s : State) (b : Nat) (vb : Bool) : SameCore s (State.relock s b vb) := by
  unfold State.relock
  extract_lets +onlyGivenNames z1
  clear_value z1
  refine SameCore.ite (fun _ => ?_) (fun _ => ?_)
  · extract_lets +onlyGivenNames z2
    clear_value z2
    refine SameCore.ite (fun _ => ?_) (fun _ => ?_)
    · extract_lets +onlyGivenNames z3
      clear_value z3
      extract_lets +onlyGivenNames z4
      refine SameCore.cut (b := z4) ?_ ?_
      · unfold z4
        exact State.setBeacon_same ..
      · intro hz4
        refine SameCore.ite (fun _ => ?_) (fun _ => ?_)
        · exact (State.shedResvs_same ..).of ‹_›
        · assumption
    · exact SameCore.refl _
  · exact SameCore.refl _

theorem State.beaconMiss_same (s : State) (r : Nat) (cause : Nat) (ticks : Nat) : SameCore s (State.beaconMiss s r cause ticks) := by
  unfold State.beaconMiss
  extract_lets +onlyGivenNames z1
  clear_value z1
  extract_lets +onlyGivenNames z2
  refine SameCore.cut (b := z2) ?_ ?_
  · unfold z2
    exact State.setResv_same ..
  · intro hz2
    extract_lets +onlyGivenNames z3
    refine SameCore.cut (b := z3) ?_ ?_
    · unfold z3
      refine (State.cause_same ..).of ?_
      refine (State.capture31_same ..).of ?_
      exact (State.count_same ..).of ‹_›
    · intro hz3
      refine (State.resvChanged_same ..).of ?_
      exact (State.raise_same ..).of ‹_›

theorem State.newPeriod_same (s : State) (r : Nat) (old : W) (new : W) (paused : Bool) : SameCore s (State.newPeriod s r old new paused) := by
  unfold State.newPeriod
  extract_lets +onlyGivenNames z1
  clear_value z1
  extract_lets +onlyGivenNames z2
  clear_value z2
  extract_lets +onlyGivenNames z3
  clear_value z3
  extract_lets +onlyGivenNames z4
  refine SameCore.cut (b := z4) ?_ ?_
  · unfold z4
    refine SameCore.ite (fun _ => ?_) (fun _ => ?_)
    · exact State.beaconMiss_same ..
    · refine SameCore.ite (fun _ => ?_) (fun _ => ?_)
      · exact State.beaconMiss_same ..
      · exact SameCore.refl _
  · intro hz4
    exact (State.setResv_same ..).of ‹_›

theorem State.realign_same (s : State) (i : Nat) : SameCore s (State.realign s i) := by
  unfold State.realign
  extract_lets +onlyGivenNames z1
  clear_value z1
  extract_lets +onlyGivenNames z2
  clear_value z2
  refine (State.evaluate_same ..).of ?_
  exact State.setObj_same ..

theorem State.releaseBeacon_same (s : State) (b : Nat) : SameCore s (State.releaseBeacon s b) := by
  unfold State.releaseBeacon
  refine SameCore.foldl (fun _ _ => ?_) ?_
  · exact State.complete_same ..
  · exact SameCore.refl _

theorem State.tickBeacon_same (s : State) (b : Nat) (ideal : Nat) : SameCore s (State.tickBeacon s b ideal) := by
  unfold State.tickBeacon
  extract_lets +onlyGivenNames z1
  clear_value z1
  extract_lets +onlyGivenNames z2
  clear_value z2
  extract_lets +onlyGivenNames z3
  clear_value z3
  extract_lets +onlyGivenNames z4
  clear_value z4
  extract_lets +onlyGivenNames z5
  refine SameCore.cut (b := z5) ?_ ?_
  · unfold z5
    exact State.setBeacon_same ..
  · intro hz5
    extract_lets +onlyGivenNames z6
    refine SameCore.cut (b := z6) ?_ ?_
    · unfold z6
      exact (State.maxReg_same ..).of ‹_›
    · intro hz6
      extract_lets +onlyGivenNames z7
      refine SameCore.cut (b := z7) ?_ ?_
      · unfold z7
        refine SameCore.ite (fun _ => ?_) (fun _ => ?_)
        · exact (State.countField_same ..).of ‹_›
        · exact (State.releaseBeacon_same ..).of ‹_›
      · intro hz7
        extract_lets +onlyGivenNames z8
        refine SameCore.cut (b := z8) ?_ ?_
        · unfold z8
          refine SameCore.foldl (fun _ _ => ?_) ?_
          · exact State.newPeriod_same ..
          · assumption
        · intro hz8
          extract_lets +onlyGivenNames z9
          refine SameCore.cut (b := z9) ?_ ?_
          · unfold z9
            refine SameCore.foldl (fun _ _ => ?_) ?_
            · exact State.realign_same ..
            · assumption
          · intro hz9
            extract_lets +onlyGivenNames z10
            clear_value z10
            extract_lets +onlyGivenNames z11
            refine SameCore.cut (b := z11) ?_ ?_
            · unfold z11
              split
              · assumption
              · exact (State.setBeacon_same ..).of ‹_›
            · intro hz11
              refine (State.cause_same ..).of ?_
              exact (State.latchRange_same ..).of ‹_›

theorem execBeaconTick_same (b : Nat) (vb : Bool) (s : State) : CoreKept s (execBeaconTick b vb s) := by
  unfold execBeaconTick
  refine CoreKept.next ?_
  split
  · exact SameCore.refl _
  · refine SameCore.ite (fun _ => ?_) (fun _ => ?_)
    · refine (State.tickBeacon_same ..).of ?_
      exact State.relock_same ..
    · exact SameCore.refl _

theorem State.loseLock_same (s : State) (b : Nat) : SameCore s (State.loseLock s b) := by
  unfold State.loseLock
  extract_lets +onlyGivenNames z1
  clear_value z1
  refine SameCore.ite (fun _ => ?_) (fun _ => ?_)
  · exact SameCore.refl _
  · refine (State.cause_same ..).of ?_
    refine (State.countField_same ..).of ?_
    exact State.setBeacon_same ..

theorem execBeaconLockLoss_same (b : Nat) (s : State) : CoreKept s (execBeaconLockLoss b s) := by
  unfold execBeaconLockLoss
  refine CoreKept.next ?_
  refine SameCore.ite (fun _ => ?_) (fun _ => ?_)
  · exact State.loseLock_same ..
  · exact SameCore.refl _

theorem execBudgetExhausted_same (r : Nat) (s : State) : CoreKept s (execBudgetExhausted r s) := by
  unfold execBudgetExhausted
  extract_lets +onlyGivenNames z1
  clear_value z1
  refine CoreKept.next ?_
  refine SameCore.ite (fun _ => ?_) (fun _ => ?_)
  · exact SameCore.refl _
  · extract_lets +onlyGivenNames z2
    refine SameCore.cut (b := z2) ?_ ?_
    · unfold z2
      exact State.setResv_same ..
    · intro hz2
      refine SameCore.foldl (fun _ _ => ?_) ?_
      · dsimp -zeta -zetaHave only
        refine (State.leaveRun_same ..).of ?_
        exact State.countField_same ..
      · assumption

theorem State.noteTimeout_same (s : State) (h : Nat) (op : Nat) : SameCore s (State.noteTimeout s h op) := by
  unfold State.noteTimeout
  refine (State.cause_same ..).of ?_
  refine (State.capture31_same ..).of ?_
  exact State.count_same ..

theorem State.drainLaunch_same (s : State) (i : Nat) : SameCore s (State.drainLaunch s i) := by
  unfold State.drainLaunch
  split
  · exact SameCore.refl _
  · extract_lets +onlyGivenNames z1
    refine SameCore.cut (b := z1) ?_ ?_
    · unfold z1
      exact State.setLaunch_same ..
    · intro hz1
      extract_lets +onlyGivenNames z2
      refine SameCore.cut (b := z2) ?_ ?_
      · unfold z2
        refine SameCore.foldl (fun _ _ => ?_) ?_
        · split
          · exact SameCore.refl _
          · refine SameCore.ite (fun _ => ?_) (fun _ => ?_)
            · refine (State.tryStop_same ..).of ?_
              exact State.askYield_same ..
            · exact State.dropCtx_same ..
        · assumption
      · intro hz2
        refine (State.kick_same ..).of ?_
        exact (State.drained_same ..).of ‹_›

theorem State.timeoutEnd_same (s : State) (c : Cmd) : SameCore s (State.timeoutEnd s c) := by
  unfold State.timeoutEnd
  extract_lets +onlyGivenNames z1
  clear_value z1
  extract_lets +onlyGivenNames z2
  refine SameCore.cut (b := z2) ?_ ?_
  · unfold z2
    exact SameCore.mk' (SameCore.refl _) (.refl _) le_rfl
  · intro hz2
    exact (State.queueFault_same ..).of ‹_›

theorem execCommandTimeoutExpiry_same (id : Nat) (n : Nat) (s : State) : CoreKept s (execCommandTimeoutExpiry id n s) := by
  unfold execCommandTimeoutExpiry
  refine CoreKept.next ?_
  split
  · exact SameCore.refl _
  · split
    · refine SameCore.ite (fun _ => ?_) (fun _ => ?_)
      · exact SameCore.refl _
      · refine (State.drainLaunch_same ..).of ?_
        exact State.noteTimeout_same ..
    · extract_lets +onlyGivenNames z1
      refine SameCore.cut (b := z1) ?_ ?_
      · unfold z1
        refine (State.moverPartly_same ..).of ?_
        exact State.noteTimeout_same ..
      · intro hz1
        split
        · assumption
        · refine SameCore.trans ?_ (State.moverFault_same (h_f := ?_) ..)
          · assumption
          · intro _
            intro _
            intro _
            exact State.queueFault_same ..
    · refine (State.timeoutEnd_same ..).of ?_
      exact State.noteTimeout_same ..
    · refine (State.timeoutEnd_same ..).of ?_
      exact State.noteTimeout_same ..
    · refine (State.timeoutEnd_same ..).of ?_
      exact State.noteTimeout_same ..
    · refine SameCore.ite (fun _ => ?_) (fun _ => ?_)
      · refine (State.timeoutEnd_same ..).of ?_
        exact State.noteTimeout_same ..
      · exact SameCore.refl _
    · exact SameCore.refl _

theorem execDrainGraceExpiry_same (i : Nat) (s : State) : CoreKept s (execDrainGraceExpiry i s) := by
  unfold execDrainGraceExpiry
  refine CoreKept.next ?_
  split
  · exact SameCore.refl _
  · refine SameCore.ite (fun _ => ?_) (fun _ => ?_)
    · exact SameCore.refl _
    · extract_lets +onlyGivenNames z1
      refine SameCore.cut (b := z1) ?_ ?_
      · unfold z1
        exact State.count_same ..
      · intro hz1
        extract_lets +onlyGivenNames z2
        refine SameCore.cut (b := z2) ?_ ?_
        · unfold z2
          refine SameCore.ite (fun _ => ?_) (fun _ => ?_)
          · exact (State.setReg_same ..).of ‹_›
          · assumption
        · intro hz2
          refine (State.kick_same ..).of ?_
          refine (State.drained_same ..).of ?_
          refine SameCore.foldl (fun _ _ => ?_) ?_
          · exact State.dropCtx_same ..
          · assumption

end Sys2Proof.Machine
end

