-- ==== Sys2Proof/Laws/SameYard.lean ====
section
/-! SUPPORT. That the operations and commands of Machine/Yard.lean leave power, time, the SEC core and trim alone: one lemma for each. -/

set_option Elab.async false
namespace Sys2Proof.Machine

theorem State.l1Fill_same (s : State) (n : Nat) (k : Nat) (hint : Nat) (pa : Nat) (len : Nat) : SameCore s (State.l1Fill s n k hint pa len) := by
  unfold State.l1Fill
  refine SameCore.ite (fun _ => ?_) (fun _ => ?_)
  · exact SameCore.refl _
  · refine SameCore.foldl (fun _ _ => ?_) ?_
    · extract_lets +onlyGivenNames z1
      clear_value z1
      refine SameCore.ite (fun _ => ?_) (fun _ => ?_)
      · exact SameCore.refl _
      · exact SameCore.mk' (SameCore.refl _) (.refl _) le_rfl
    · exact SameCore.refl _

theorem State.l1Write_same (s : State) (n : Nat) (hint : Nat) (pa : Nat) (len : Nat) : SameCore s (State.l1Write s n hint pa len) := by
  unfold State.l1Write
  extract_lets +onlyGivenNames z1
  clear_value z1
  refine SameCore.ite (fun _ => ?_) (fun _ => ?_)
  · exact SameCore.mk' (SameCore.refl _) (.refl _) le_rfl
  · exact SameCore.mk' (SameCore.refl _) (.refl _) le_rfl

theorem State.readAt_same (s : State) (r : Run) (word : Nat) (p : Place) (len : Nat) : SameCore s (State.readAt s r word p len).1 := by
  unfold State.readAt
  split
  · extract_lets +onlyGivenNames z1
    clear_value z1
    refine SameCore.mk_fst ?_
    exact SameCore.refl _
  · split
    · refine SameCore.mk_fst ?_
      refine (SameCore.fst (State.segs_same ..) (by assumption)).of ?_
      exact SameCore.refl _
    · refine SameCore.ite_fst (fun _ => ?_) (fun _ => ?_)
      · refine SameCore.mk_fst ?_
        refine (SameCore.fst (State.segs_same ..) (by assumption)).of ?_
        exact SameCore.refl _
      · split
        · refine SameCore.mk_fst ?_
          refine (SameCore.fst (State.segs_same ..) (by assumption)).of ?_
          exact SameCore.refl _
        · extract_lets +onlyGivenNames z1
          clear_value z1
          extract_lets +onlyGivenNames z2
          refine SameCore.cut (b := z2) ?_ ?_
          · unfold z2
            refine SameCore.foldl (fun _ _ => ?_) ?_
            · split
              · exact State.l1Fill_same ..
              · exact SameCore.refl _
            · refine (SameCore.fst (State.segs_same ..) (by assumption)).of ?_
              exact SameCore.refl _
          · intro hz2
            refine SameCore.mk_fst ?_
            exact (State.bumpFree_same ..).of ‹_›

theorem State.writeAt_same (s : State) (r : Run) (word : Nat) (p : Place) (d : List Byte) : SameCore s (State.writeAt s r word p d).1 := by
  unfold State.writeAt
  split
  · split
    · refine SameCore.mk_fst ?_
      exact State.setCtx_same ..
    · refine SameCore.mk_fst ?_
      exact SameCore.refl _
  · dsimp -zeta -zetaHave only
    extract_lets +onlyGivenNames z1
    clear_value z1
    extract_lets +onlyGivenNames z2
    clear_value z2
    extract_lets +onlyGivenNames z3
    refine SameCore.cut (b := z3) ?_ ?_
    · unfold z3
      refine SameCore.foldl (fun _ _ => ?_) ?_
      · split
        · refine (State.l1Write_same ..).of ?_
          exact State.devWrite_same ..
        · exact SameCore.refl _
      · exact State.segs_same ..
    · intro hz3
      refine SameCore.mk_fst ?_
      assumption

theorem State.readRows_same (r : Run) (word : Nat) (p0 : Place) (len : Nat) (l : List Nat) (s : State) (acc : List (List Byte)) :
    SameCore s (State.readRows r word p0 len l s acc).1 := by
  induction l generalizing s acc with
  | nil => exact SameCore.refl _
  | cons p l ih =>
    unfold State.readRows
    split
    · refine SameCore.mk_fst ?_
      refine (SameCore.fst (State.readAt_same ..) (by assumption)).of ?_
      exact SameCore.refl _
    · refine (ih ..).of ?_
      refine (SameCore.fst (State.readAt_same ..) (by assumption)).of ?_
      exact SameCore.refl _

theorem State.writeRows_same (r : Run) (word : Nat) (p0 : Place) (l : List (Nat × List Byte)) (s : State) :
    SameCore s (State.writeRows r word p0 l s).1 := by
  induction l generalizing s with
  | nil => exact SameCore.refl _
  | cons p l ih =>
    obtain ⟨o, b⟩ := p
    unfold State.writeRows
    split
    · refine SameCore.mk_fst ?_
      refine (SameCore.fst (State.writeAt_same ..) (by assumption)).of ?_
      exact SameCore.refl _
    · refine (ih ..).of ?_
      refine (SameCore.fst (State.writeAt_same ..) (by assumption)).of ?_
      exact SameCore.refl _

theorem State.snag_same (s : State) (r : Run) (pc : Nat) (a1 : Snag) : SameCore s (State.snag s r pc a1) := by
  unfold State.snag
  split
  · refine (State.kick_same ..).of ?_
    exact State.engineFault_same ..
  · refine (State.kick_same ..).of ?_
    exact State.yardTrap_same ..

theorem State.trapDesc_same (s : State) (r : Run) (pc : Nat) (t : Trap) : SameCore s (State.trapDesc s r pc t) := by
  unfold State.trapDesc
  refine (State.kick_same ..).of ?_
  exact State.yardTrap_same ..

theorem State.yardImage_same (s : State) (i : Nat) (n : Nat) (l : Launch) (off : Nat) (len : Nat) (fetch : Bool) (pc : Nat) : SameCore s (State.yardImage s i n l off len fetch pc).1 := by
  unfold State.yardImage
  split
  · refine SameCore.mk_fst ?_
    refine (State.kick_same ..).of ?_
    refine (State.engineFault_same ..).of ?_
    refine (SameCore.fst (State.segs_same ..) (by assumption)).of ?_
    exact SameCore.refl _
  · refine SameCore.ite_fst (fun _ => ?_) (fun _ => ?_)
    · refine SameCore.mk_fst ?_
      refine (State.kick_same ..).of ?_
      refine (State.yardTrap_same ..).of ?_
      refine (SameCore.fst (State.segs_same ..) (by assumption)).of ?_
      exact SameCore.refl _
    · split
      · refine SameCore.mk_fst ?_
        refine (State.kick_same ..).of ?_
        refine (State.engineFault_same ..).of ?_
        refine (SameCore.fst (State.segs_same ..) (by assumption)).of ?_
        exact SameCore.refl _
      · extract_lets +onlyGivenNames z1
        clear_value z1
        extract_lets +onlyGivenNames z2
        refine SameCore.cut (b := z2) ?_ ?_
        · unfold z2
          refine SameCore.foldl (fun _ _ => ?_) ?_
          · split
            · exact State.l1Fill_same ..
            · exact SameCore.refl _
          · refine (SameCore.fst (State.segs_same ..) (by assumption)).of ?_
            exact SameCore.refl _
        · intro hz2
          refine SameCore.mk_fst ?_
          exact (State.bumpFree_same ..).of ‹_›

theorem State.readImage_same (s : State) (i : Nat) (n : Nat) (l : Launch) (off : Nat) (len : Nat) : SameCore s (State.readImage s i n l off len).1 := by
  unfold State.readImage
  exact State.yardImage_same ..

theorem execYardContextEnter_same (i : Nat) (n : Nat) (err : Option (Nat × Bool)) (s : State) : CoreKept s (execYardContextEnter i n err s) := by
  unfold execYardContextEnter
  refine CoreKept.next ?_
  cases (tblFind i s.launches)
  · dsimp -zeta -zetaHave only
    exact SameCore.refl _
  · cases (s.ctx i n)
    · dsimp -zeta -zetaHave only
      exact SameCore.refl _
    · dsimp -zeta -zetaHave only
      refine SameCore.ite (fun _ => ?_) (fun _ => ?_)
      · exact SameCore.refl _
      · split
        · refine (SameCore.fst (State.readImage_same ..) (by assumption)).of ?_
          refine (State.dropL1_same ..).of ?_
          exact State.eccFind_same ..
        · extract_lets +onlyGivenNames z1
          clear_value z1
          split
          · refine SameCore.fst (?_ : SameCore _ _) (by assumption)
            refine SameCore.ite_fst (fun _ => ?_) (fun _ => ?_)
            · refine (State.readImage_same ..).of ?_
              refine (SameCore.fst (State.readImage_same ..) (by assumption)).of ?_
              refine (State.dropL1_same ..).of ?_
              exact State.eccFind_same ..
            · refine SameCore.mk_fst ?_
              refine (SameCore.fst (State.readImage_same ..) (by assumption)).of ?_
              refine (State.dropL1_same ..).of ?_
              exact State.eccFind_same ..
          · split
            · refine SameCore.fst (?_ : SameCore _ _) (by assumption)
              refine SameCore.ite_fst (fun _ => ?_) (fun _ => ?_)
              · refine (State.readImage_same ..).of ?_
                refine SameCore.fst (?_ : SameCore _ _) (by assumption)
                refine SameCore.ite_fst (fun _ => ?_) (fun _ => ?_)
                · refine (State.readImage_same ..).of ?_
                  refine (SameCore.fst (State.readImage_same ..) (by assumption)).of ?_
                  refine (State.dropL1_same ..).of ?_
                  exact State.eccFind_same ..
                · refine SameCore.mk_fst ?_
                  refine (SameCore.fst (State.readImage_same ..) (by assumption)).of ?_
                  refine (State.dropL1_same ..).of ?_
                  exact State.eccFind_same ..
              · refine SameCore.mk_fst ?_
                refine SameCore.fst (?_ : SameCore _ _) (by assumption)
                refine SameCore.ite_fst (fun _ => ?_) (fun _ => ?_)
                · refine (State.readImage_same ..).of ?_
                  refine (SameCore.fst (State.readImage_same ..) (by assumption)).of ?_
                  refine (State.dropL1_same ..).of ?_
                  exact State.eccFind_same ..
                · refine SameCore.mk_fst ?_
                  refine (SameCore.fst (State.readImage_same ..) (by assumption)).of ?_
                  refine (State.dropL1_same ..).of ?_
                  exact State.eccFind_same ..
            · split
              · refine (State.kick_same ..).of ?_
                refine (State.yardTrap_same ..).of ?_
                refine SameCore.fst (?_ : SameCore _ _) (by assumption)
                refine SameCore.ite_fst (fun _ => ?_) (fun _ => ?_)
                · refine (State.readImage_same ..).of ?_
                  refine SameCore.fst (?_ : SameCore _ _) (by assumption)
                  refine SameCore.ite_fst (fun _ => ?_) (fun _ => ?_)
                  · refine (State.readImage_same ..).of ?_
                    refine (SameCore.fst (State.readImage_same ..) (by assumption)).of ?_
                    refine (State.dropL1_same ..).of ?_
                    exact State.eccFind_same ..
                  · refine SameCore.mk_fst ?_
                    refine (SameCore.fst (State.readImage_same ..) (by assumption)).of ?_
                    refine (State.dropL1_same ..).of ?_
                    exact State.eccFind_same ..
                · refine SameCore.mk_fst ?_
                  refine SameCore.fst (?_ : SameCore _ _) (by assumption)
                  refine SameCore.ite_fst (fun _ => ?_) (fun _ => ?_)
                  · refine (State.readImage_same ..).of ?_
                    refine (SameCore.fst (State.readImage_same ..) (by assumption)).of ?_
                    refine (State.dropL1_same ..).of ?_
                    exact State.eccFind_same ..
                  · refine SameCore.mk_fst ?_
                    refine (SameCore.fst (State.readImage_same ..) (by assumption)).of ?_
                    refine (State.dropL1_same ..).of ?_
                    exact State.eccFind_same ..
              · extract_lets +onlyGivenNames z2
                refine SameCore.cut (b := z2) ?_ ?_
                · unfold z2
                  refine (State.setLaunch_same ..).of ?_
                  refine SameCore.fst (?_ : SameCore _ _) (by assumption)
                  refine SameCore.ite_fst (fun _ => ?_) (fun _ => ?_)
                  · refine (State.readImage_same ..).of ?_
                    refine SameCore.fst (?_ : SameCore _ _) (by assumption)
                    refine SameCore.ite_fst (fun _ => ?_) (fun _ => ?_)
                    · refine (State.readImage_same ..).of ?_
                      refine (SameCore.fst (State.readImage_same ..) (by assumption)).of ?_
                      refine (State.dropL1_same ..).of ?_
                      exact State.eccFind_same ..
                    · refine SameCore.mk_fst ?_
                      refine (SameCore.fst (State.readImage_same ..) (by assumption)).of ?_
                      refine (State.dropL1_same ..).of ?_
                      exact State.eccFind_same ..
                  · refine SameCore.mk_fst ?_
                    refine SameCore.fst (?_ : SameCore _ _) (by assumption)
                    refine SameCore.ite_fst (fun _ => ?_) (fun _ => ?_)
                    · refine (State.readImage_same ..).of ?_
                      refine (SameCore.fst (State.readImage_same ..) (by assumption)).of ?_
                      refine (State.dropL1_same ..).of ?_
                      exact State.eccFind_same ..
                    · refine SameCore.mk_fst ?_
                      refine (SameCore.fst (State.readImage_same ..) (by assumption)).of ?_
                      refine (State.dropL1_same ..).of ?_
                      exact State.eccFind_same ..
                · intro hz2
                  extract_lets +onlyGivenNames z3
                  clear_value z3
                  extract_lets +onlyGivenNames z4
                  clear_value z4
                  refine (State.setCtx_same ..).of ?_
                  exact (State.bumpFree_same ..).of ‹_›

theorem State.itemReturn_same (s : State) (i : Nat) (n : Nat) (a0 : W) (pc : Nat) : SameCore s (State.itemReturn s i n a0 pc) := by
  unfold State.itemReturn
  split
  · exact SameCore.refl _
  · refine SameCore.ite (fun _ => ?_) (fun _ => ?_)
    · refine (State.kick_same ..).of ?_
      exact State.yardTrap_same ..
    · extract_lets +onlyGivenNames z1
      clear_value z1
      refine SameCore.ite (fun _ => ?_) (fun _ => ?_)
      · extract_lets +onlyGivenNames z2
        clear_value z2
        refine (State.tryStop_same ..).of ?_
        refine (State.setCtx_same ..).of ?_
        exact State.bumpFree_same ..
      · exact State.setCtx_same ..

theorem execItemReturn_same (i : Nat) (n : Nat) (a0 : BitVec 32) (pc : Nat) (s : State) : CoreKept s (execItemReturn i n a0 pc s) := by
  unfold execItemReturn
  refine CoreKept.next ?_
  exact State.itemReturn_same ..

theorem execContextEnd_same (i : Nat) (n : Nat) (s : State) : CoreKept s (execContextEnd i n s) := by
  unfold execContextEnd
  refine CoreKept.next ?_
  cases (tblFind i s.launches)
  · dsimp -zeta -zetaHave only
    exact SameCore.refl _
  · cases (s.ctx i n)
    · dsimp -zeta -zetaHave only
      exact SameCore.refl _
    · dsimp -zeta -zetaHave only
      refine SameCore.ite (fun _ => ?_) (fun _ => ?_)
      · exact State.endCtx_same ..
      · exact SameCore.refl _

theorem State.enqueue_same (s : State) (i : Nat) (n : Nat) (e : Nat) (c : Ctx) (ws : List W) (pc : Nat) : SameCore s (State.enqueue s i n e c ws pc) := by
  unfold State.enqueue
  extract_lets +onlyGivenNames z1
  clear_value z1
  extract_lets +onlyGivenNames z2
  clear_value z2
  refine SameCore.ite (fun _ => ?_) (fun _ => ?_)
  · refine (State.tick_same ..).of ?_
    exact State.setCtx_same ..
  · refine (State.tick_same ..).of ?_
    exact State.setCtx_same ..

theorem State.cccPush_same (s : State) (i : Nat) (n : Nat) (e : Nat) (ws : List W) (pc : Nat) : SameCore s (State.cccPush s i n e ws pc) := by
  unfold State.cccPush
  split
  · exact SameCore.refl _
  · refine SameCore.ite (fun _ => ?_) (fun _ => ?_)
    · exact SameCore.refl _
    · extract_lets +onlyGivenNames z1
      clear_value z1
      extract_lets +onlyGivenNames z2
      clear_value z2
      extract_lets +onlyGivenNames z3
      clear_value z3
      exact State.enqueue_same ..

theorem execPush_same (i : Nat) (n : Nat) (e : Nat) (ws : List (BitVec 32)) (pc : Nat) (s : State) : CoreKept s (execPush i n e ws pc s) := by
  unfold execPush
  refine CoreKept.next ?_
  exact State.cccPush_same ..

theorem State.nextDesc_same (s : State) (i : Nat) (n : Nat) (l : Launch) (c : Ctx) (v : Nat) : SameCore s (State.nextDesc s i n l c v).1 := by
  unfold State.nextDesc
  extract_lets +onlyGivenNames z1
  clear_value z1
  refine SameCore.ite_fst (fun _ => ?_) (fun _ => ?_)
  · refine SameCore.ite_fst (fun _ => ?_) (fun _ => ?_)
    · refine SameCore.mk_fst ?_
      exact SameCore.refl _
    · refine SameCore.mk_fst ?_
      exact SameCore.refl _
  · refine SameCore.ite_fst (fun _ => ?_) (fun _ => ?_)
    · refine SameCore.mk_fst ?_
      exact SameCore.refl _
    · split
      · refine SameCore.mk_fst ?_
        refine (SameCore.fst (State.readImage_same ..) (by assumption)).of ?_
        exact SameCore.refl _
      · refine SameCore.mk_fst ?_
        refine (SameCore.fst (State.readImage_same ..) (by assumption)).of ?_
        exact SameCore.refl _

theorem State.cccPushTable_same (s : State) (i : Nat) (n : Nat) (e : Nat) (v : Nat) (pc : Nat) : SameCore s (State.cccPushTable s i n e v pc) := by
  unfold State.cccPushTable
  split
  · exact SameCore.refl _
  · refine SameCore.ite (fun _ => ?_) (fun _ => ?_)
    · exact SameCore.refl _
    · split
      · refine (SameCore.fst (State.nextDesc_same ..) (by assumption)).of ?_
        exact SameCore.refl _
      · refine (State.kick_same ..).of ?_
        refine (State.yardTrap_same ..).of ?_
        refine (SameCore.fst (State.nextDesc_same ..) (by assumption)).of ?_
        exact SameCore.refl _
      · refine SameCore.ite (fun _ => ?_) (fun _ => ?_)
        · refine (State.kick_same ..).of ?_
          refine (State.yardTrap_same ..).of ?_
          refine (SameCore.fst (State.nextDesc_same ..) (by assumption)).of ?_
          exact SameCore.refl _
        · split
          · refine (State.enqueue_same ..).of ?_
            refine (SameCore.fst (State.nextDesc_same ..) (by assumption)).of ?_
            exact SameCore.refl _
          · refine (SameCore.fst (State.nextDesc_same ..) (by assumption)).of ?_
            exact SameCore.refl _

theorem execPushTable_same (i : Nat) (n : Nat) (e : Nat) (v : Nat) (pc : Nat) (s : State) : CoreKept s (execPushTable i n e v pc s) := by
  unfold execPushTable
  refine CoreKept.next ?_
  exact State.cccPushTable_same ..

theorem State.cccLevAdd_same (s : State) (i : Nat) (n : Nat) (k : Nat) (v : Nat) : SameCore s (State.cccLevAdd s i n k v) := by
  unfold State.cccLevAdd
  split
  · exact SameCore.refl _
  · exact State.setCtx_same ..

theorem execLevAdd_same (i : Nat) (n : Nat) (k : Nat) (v : Nat) (s : State) : CoreKept s (execLevAdd i n k v s) := by
  unfold execLevAdd
  refine CoreKept.next ?_
  exact State.cccLevAdd_same ..

theorem State.cccOp_same (s : State) (i : Nat) (n : Nat) (op : Nat) (kind : HubKind) (word : W64) (pc : Nat) : SameCore s (State.cccOp s i n op kind word pc) := by
  unfold State.cccOp
  split
  · exact SameCore.refl _
  · extract_lets +onlyGivenNames z1
    clear_value z1
    extract_lets +onlyGivenNames z2
    clear_value z2
    extract_lets +onlyGivenNames z3
    clear_value z3
    extract_lets +onlyGivenNames z4
    clear_value z4
    refine SameCore.ite (fun _ => ?_) (fun _ => ?_)
    · exact SameCore.refl _
    · refine SameCore.ite (fun _ => ?_) (fun _ => ?_)
      · refine (State.kick_same ..).of ?_
        exact State.yardTrap_same ..
      · exact State.sendOp_same ..

theorem execCccSyncOpSignalAdd_same (i : Nat) (n : Nat) (word : BitVec 64) (pc : Nat) (s : State) : CoreKept s (execCccSyncOpSignalAdd i n word pc s) := by
  unfold execCccSyncOpSignalAdd
  refine CoreKept.next ?_
  exact State.cccOp_same ..

theorem execCccSyncOpConsume_same (i : Nat) (n : Nat) (word : BitVec 64) (pc : Nat) (s : State) : CoreKept s (execCccSyncOpConsume i n word pc s) := by
  unfold execCccSyncOpConsume
  refine CoreKept.next ?_
  exact State.cccOp_same ..

theorem execCccSyncOpArrive_same (i : Nat) (n : Nat) (word : BitVec 64) (pc : Nat) (s : State) : CoreKept s (execCccSyncOpArrive i n word pc s) := by
  unfold execCccSyncOpArrive
  refine CoreKept.next ?_
  exact State.cccOp_same ..

theorem State.cccWait_same (s : State) (i : Nat) (n : Nat) (kd : Nat) (kind : HubKind) (word : W64) (pc : Nat) : SameCore s (State.cccWait s i n kd kind word pc) := by
  unfold State.cccWait
  split
  · exact SameCore.refl _
  · extract_lets +onlyGivenNames z1
    clear_value z1
    extract_lets +onlyGivenNames z2
    clear_value z2
    extract_lets +onlyGivenNames z3
    clear_value z3
    refine SameCore.ite (fun _ => ?_) (fun _ => ?_)
    · exact SameCore.refl _
    · refine SameCore.ite (fun _ => ?_) (fun _ => ?_)
      · refine (State.kick_same ..).of ?_
        exact State.yardTrap_same ..
      · exact State.sendOp_same ..

theorem execCccSyncWaitGe_same (i : Nat) (n : Nat) (word : BitVec 64) (pc : Nat) (s : State) : CoreKept s (execCccSyncWaitGe i n word pc s) := by
  unfold execCccSyncWaitGe
  refine CoreKept.next ?_
  exact State.cccWait_same ..

theorem execCccSyncWaitGen_same (i : Nat) (n : Nat) (word : BitVec 64) (pc : Nat) (s : State) : CoreKept s (execCccSyncWaitGen i n word pc s) := by
  unfold execCccSyncWaitGen
  refine CoreKept.next ?_
  exact State.cccWait_same ..

theorem execCccSyncWaitGeConsume_same (i : Nat) (n : Nat) (word : BitVec 64) (pc : Nat) (s : State) : CoreKept s (execCccSyncWaitGeConsume i n word pc s) := by
  unfold execCccSyncWaitGeConsume
  refine CoreKept.next ?_
  exact State.cccWait_same ..

theorem execCccSyncStatusRead_same (i : Nat) (n : Nat) (s : State) : CoreKept s (execCccSyncStatusRead i n s) := by
  unfold execCccSyncStatusRead
  refine CoreKept.next ?_
  split
  · exact SameCore.refl _
  · refine SameCore.ite (fun _ => ?_) (fun _ => ?_)
    · exact SameCore.refl _
    · exact State.answer_same ..

theorem State.cccYield_same (s : State) (i : Nat) (n : Nat) (idx : Nat) (pc : Nat) : SameCore s (State.cccYield s i n idx pc) := by
  unfold State.cccYield
  split
  · exact SameCore.refl _
  · split
    · refine (SameCore.fst (State.readImage_same ..) (by assumption)).of ?_
      exact SameCore.refl _
    · refine SameCore.ite (fun _ => ?_) (fun _ => ?_)
      · refine (State.kick_same ..).of ?_
        refine (State.yardTrap_same ..).of ?_
        refine (SameCore.fst (State.readImage_same ..) (by assumption)).of ?_
        exact SameCore.refl _
      · split
        · refine SameCore.ite (fun _ => ?_) (fun _ => ?_)
          · refine (State.tryStop_same ..).of ?_
            refine (State.setCtx_same ..).of ?_
            refine (SameCore.fst (State.readImage_same ..) (by assumption)).of ?_
            exact SameCore.refl _
          · refine (SameCore.fst (State.readImage_same ..) (by assumption)).of ?_
            exact SameCore.refl _
        · refine (SameCore.fst (State.readImage_same ..) (by assumption)).of ?_
          exact SameCore.refl _

theorem execYield_same (i : Nat) (n : Nat) (idx : Nat) (pc : Nat) (s : State) : CoreKept s (execYield i n idx pc s) := by
  unfold execYield
  refine CoreKept.next ?_
  exact State.cccYield_same ..

theorem State.cccTrap_same (s : State) (i : Nat) (n : Nat) (v : Nat) (pc : Nat) : SameCore s (State.cccTrap s i n v pc) := by
  unfold State.cccTrap
  split
  · exact SameCore.refl _
  · refine (State.kick_same ..).of ?_
    exact State.yardTrap_same ..

theorem execTrap_same (i : Nat) (n : Nat) (v : Nat) (pc : Nat) (s : State) : CoreKept s (execTrap i n v pc s) := by
  unfold execTrap
  refine CoreKept.next ?_
  exact State.cccTrap_same ..

theorem State.cccExc_same (s : State) (i : Nat) (n : Nat) (mcause : Nat) (mtval : Nat) (pc : Nat) : SameCore s (State.cccExc s i n mcause mtval pc) := by
  unfold State.cccExc
  split
  · exact SameCore.refl _
  · refine SameCore.ite (fun _ => ?_) (fun _ => ?_)
    · refine (State.kick_same ..).of ?_
      exact State.yardTrap_same ..
    · refine (State.kick_same ..).of ?_
      exact State.yardTrap_same ..

theorem execCccException_same (i : Nat) (n : Nat) (mcause : Nat) (mtval : Nat) (pc : Nat) (s : State) : CoreKept s (execCccException i n mcause mtval pc s) := by
  unfold execCccException
  refine CoreKept.next ?_
  exact State.cccExc_same ..

theorem State.beginDesc_same (s : State) (i : Nat) (n : Nat) (e : Nat) (cls : Nat) (op : Nat) (body : State → Run → Ctx → Ent → State) (h_body : ∀ (x0 : State) (x1 : Run) (x2 : Ctx) (x3 : Ent), SameCore x0 (body x0 x1 x2 x3)) : SameCore s (State.beginDesc s i n e cls op body) := by
  unfold State.beginDesc
  split
  · exact SameCore.refl _
  · extract_lets +onlyGivenNames z1
    refine SameCore.cut (b := z1) ?_ ?_
    · unfold z1
      exact State.setCtx_same ..
    · intro hz1
      refine SameCore.ite (fun _ => ?_) (fun _ => ?_)
      · refine (State.kick_same ..).of ?_
        exact (State.yardTrap_same ..).of ‹_›
      · exact (h_body _ _ _ _).of ‹_›

theorem State.firstOf_same (s : State) (r : Run) (word : Nat) (p : Place) (write : Bool) : SameCore s (State.firstOf s r word p write).1 := by
  unfold State.firstOf
  split
  · refine SameCore.mk_fst ?_
    exact SameCore.refl _
  · split
    · refine SameCore.mk_fst ?_
      refine (SameCore.fst (State.xlate_same ..) (by assumption)).of ?_
      exact SameCore.refl _
    · refine SameCore.mk_fst ?_
      refine (SameCore.fst (State.xlate_same ..) (by assumption)).of ?_
      exact SameCore.refl _
    · refine SameCore.mk_fst ?_
      refine (SameCore.fst (State.xlate_same ..) (by assumption)).of ?_
      exact SameCore.refl _

theorem State.firstAll_same (r : Run) (l : List (Nat × Place × Bool)) (s : State) :
    SameCore s (State.firstAll r l s).1 := by
  induction l generalizing s with
  | nil => exact SameCore.refl _
  | cons p l ih =>
    obtain ⟨w, q, wr⟩ := p
    unfold State.firstAll
    split
    · refine SameCore.mk_fst ?_
      refine (SameCore.fst (State.firstOf_same ..) (by assumption)).of ?_
      exact SameCore.refl _
    · refine (ih ..).of ?_
      refine (SameCore.fst (State.firstOf_same ..) (by assumption)).of ?_
      exact SameCore.refl _

theorem State.endStaging_same (s : State) (n : Nat) : SameCore s (State.endStaging s n) := by
  unfold State.endStaging
  refine SameCore.ite (fun _ => ?_) (fun _ => ?_)
  · refine (State.flushL1_same ..).of ?_
    refine (State.setGranMap_same ..).of ?_
    exact State.setCluster_same ..
  · exact SameCore.refl _

theorem execDescriptorComplete_same (i : Nat) (n : Nat) (e : Nat) (s : State) : CoreKept s (execDescriptorComplete i n e s) := by
  unfold execDescriptorComplete
  refine CoreKept.next ?_
  cases (tblFind i s.launches)
  · dsimp -zeta -zetaHave only
    exact SameCore.refl _
  · cases (s.ctx i n)
    · dsimp -zeta -zetaHave only
      exact SameCore.refl _
    · dsimp -zeta -zetaHave only
      split
      · exact SameCore.refl _
      · refine SameCore.ite (fun _ => ?_) (fun _ => ?_)
        · exact SameCore.refl _
        · extract_lets +onlyGivenNames z1
          clear_value z1
          extract_lets +onlyGivenNames z2
          clear_value z2
          extract_lets +onlyGivenNames z3
          clear_value z3
          extract_lets +onlyGivenNames z4
          clear_value z4
          extract_lets +onlyGivenNames z5
          clear_value z5
          extract_lets +onlyGivenNames z6
          refine SameCore.cut (b := z6) ?_ ?_
          · unfold z6
            refine (State.setCtx_same ..).of ?_
            exact State.count_same ..
          · intro hz6
            extract_lets +onlyGivenNames z7
            refine SameCore.cut (b := z7) ?_ ?_
            · unfold z7
              refine SameCore.ite (fun _ => ?_) (fun _ => ?_)
              · exact (State.endStaging_same ..).of ‹_›
              · assumption
            · intro hz7
              refine SameCore.ite (fun _ => ?_) (fun _ => ?_)
              · extract_lets +onlyGivenNames z8
                clear_value z8
                split
                · exact (SameCore.fst (State.nextDesc_same ..) (by assumption)).of ‹_›
                · refine (State.kick_same ..).of ?_
                  refine (State.yardTrap_same ..).of ?_
                  exact (SameCore.fst (State.nextDesc_same ..) (by assumption)).of ‹_›
                · refine SameCore.ite (fun _ => ?_) (fun _ => ?_)
                  · refine (State.kick_same ..).of ?_
                    refine (State.yardTrap_same ..).of ?_
                    exact (SameCore.fst (State.nextDesc_same ..) (by assumption)).of ‹_›
                  · split
                    · refine (State.tryStop_same ..).of ?_
                      refine (State.setCtx_same ..).of ?_
                      exact (SameCore.fst (State.nextDesc_same ..) (by assumption)).of ‹_›
                    · exact (SameCore.fst (State.nextDesc_same ..) (by assumption)).of ‹_›
              · exact (State.tryStop_same ..).of ‹_›

theorem State.descOp_same (s : State) (i : Nat) (n : Nat) (e : Nat) (op : Nat) (kind : HubKind) : SameCore s (State.descOp s i n e op kind) := by
  unfold State.descOp
  refine SameCore.trans ?_ (State.beginDesc_same (h_body := ?_) ..)
  · exact SameCore.refl _
  · intro _
    intro _
    intro _
    intro _
    extract_lets +onlyGivenNames z1
    clear_value z1
    split
    · exact State.trapDesc_same ..
    · refine SameCore.ite (fun _ => ?_) (fun _ => ?_)
      · exact State.trapDesc_same ..
      · exact State.sendOp_same ..

theorem execDescArrive_same (i : Nat) (n : Nat) (e : Nat) (s : State) : CoreKept s (execDescArrive i n e s) := by
  unfold execDescArrive
  refine CoreKept.next ?_
  exact State.descOp_same ..

theorem execDescSignal_same (i : Nat) (n : Nat) (e : Nat) (s : State) : CoreKept s (execDescSignal i n e s) := by
  unfold execDescSignal
  refine CoreKept.next ?_
  exact State.descOp_same ..

theorem execDescConsume_same (i : Nat) (n : Nat) (e : Nat) (s : State) : CoreKept s (execDescConsume i n e s) := by
  unfold execDescConsume
  refine CoreKept.next ?_
  exact State.descOp_same ..

theorem execDescFence_same (i : Nat) (n : Nat) (e : Nat) (s : State) : CoreKept s (execDescFence i n e s) := by
  unfold execDescFence
  refine CoreKept.next ?_
  refine SameCore.trans ?_ (State.beginDesc_same (h_body := ?_) ..)
  · exact SameCore.refl _
  · intro _
    intro _
    intro _
    intro _
    split
    · exact State.trapDesc_same ..
    · exact SameCore.refl _

end Sys2Proof.Machine
end

