-- ==== Sys2Proof/Laws/SameEngines.lean ====
section
/-! SUPPORT. That the operations and commands of Machine/Engines.lean leave power, time, the SEC core and trim alone: one lemma for each. -/

set_option Elab.async false
namespace Sys2Proof.Machine

theorem State.countUnits_same (s : State) (a : Nat) (sh : Nat) (n : Nat) : SameCore s (State.countUnits s a sh n) := by
  unfold State.countUnits
  extract_lets +onlyGivenNames z1
  clear_value z1
  extract_lets +onlyGivenNames z2
  refine SameCore.cut (b := z2) ?_ ?_
  · unfold z2
    exact State.countField_same ..
  · intro hz2
    exact SameCore.mk' ‹_› (.refl _) le_rfl

theorem State.stopMid_same (s : State) (r : Run) (d : Ent) (word : Nat) (p : Place) (rows : List Nat) (len : Nat) (x : Snag) : SameCore s (State.stopMid s r d word p rows len x) := by
  unfold State.stopMid
  extract_lets +onlyGivenNames z1
  clear_value z1
  extract_lets +onlyGivenNames z2
  clear_value z2
  dsimp -zeta -zetaHave only
  refine (State.snag_same ..).of ?_
  refine (State.writeRows_same ..).of ?_
  refine (State.bumpFree_same ..).of ?_
  exact State.bumpFree_same ..

theorem State.putResult_same (s : State) (r : Run) (d : Ent) (word : Nat) (p : Place) (rows : List (Nat × List Byte)) (sh : Nat) (work : Nat) : SameCore s (State.putResult s r d word p rows sh work) := by
  unfold State.putResult
  split
  · refine (State.snag_same ..).of ?_
    refine (SameCore.fst (State.writeRows_same ..) (by assumption)).of ?_
    exact SameCore.refl _
  · refine (State.bumpFree_same ..).of ?_
    refine (State.countUnits_same ..).of ?_
    refine (SameCore.fst (State.writeRows_same ..) (by assumption)).of ?_
    exact SameCore.refl _

theorem execMatmul_same (i : Nat) (n : Nat) (e : Nat) (err : Option (Nat × Bool)) (s : State) : CoreKept s (execMatmul i n e err s) := by
  unfold execMatmul
  refine CoreKept.next ?_
  refine SameCore.trans ?_ (State.beginDesc_same (h_body := ?_) ..)
  · exact State.eccFind_same ..
  · intro _
    intro _
    intro _
    intro _
    extract_lets +onlyGivenNames z1
    clear_value z1
    extract_lets +onlyGivenNames z2
    clear_value z2
    extract_lets +onlyGivenNames z3
    clear_value z3
    extract_lets +onlyGivenNames z4
    clear_value z4
    extract_lets +onlyGivenNames z5
    clear_value z5
    extract_lets +onlyGivenNames z6
    clear_value z6
    extract_lets +onlyGivenNames z7
    clear_value z7
    extract_lets +onlyGivenNames z8
    clear_value z8
    extract_lets +onlyGivenNames z9
    clear_value z9
    extract_lets +onlyGivenNames z10
    clear_value z10
    extract_lets +onlyGivenNames z11
    clear_value z11
    extract_lets +onlyGivenNames z12
    clear_value z12
    extract_lets +onlyGivenNames z13
    clear_value z13
    extract_lets +onlyGivenNames z14
    clear_value z14
    extract_lets +onlyGivenNames z15
    clear_value z15
    extract_lets +onlyGivenNames z16
    clear_value z16
    extract_lets +onlyGivenNames z17
    clear_value z17
    extract_lets +onlyGivenNames z18
    clear_value z18
    split
    · exact State.trapDesc_same ..
    · split
      · exact State.trapDesc_same ..
      · exact State.trapDesc_same ..
      · exact State.trapDesc_same ..
      · extract_lets +onlyGivenNames z19
        clear_value z19
        split
        · refine (State.snag_same ..).of ?_
          refine (SameCore.fst (State.firstAll_same ..) (by assumption)).of ?_
          exact SameCore.refl _
        · split
          · refine (State.stopMid_same ..).of ?_
            refine (SameCore.fst (State.readRows_same ..) (by assumption)).of ?_
            refine (SameCore.fst (State.firstAll_same ..) (by assumption)).of ?_
            exact SameCore.refl _
          · split
            · refine (State.stopMid_same ..).of ?_
              refine (SameCore.fst (State.readRows_same ..) (by assumption)).of ?_
              refine (SameCore.fst (State.readRows_same ..) (by assumption)).of ?_
              refine (SameCore.fst (State.firstAll_same ..) (by assumption)).of ?_
              exact SameCore.refl _
            · split
              · refine (State.stopMid_same ..).of ?_
                refine SameCore.fst (?_ : SameCore _ _) (by assumption)
                refine SameCore.ite_fst (fun _ => ?_) (fun _ => ?_)
                · refine (State.readRows_same ..).of ?_
                  refine (SameCore.fst (State.readRows_same ..) (by assumption)).of ?_
                  refine (SameCore.fst (State.readRows_same ..) (by assumption)).of ?_
                  refine (SameCore.fst (State.firstAll_same ..) (by assumption)).of ?_
                  exact SameCore.refl _
                · refine SameCore.mk_fst ?_
                  refine (SameCore.fst (State.readRows_same ..) (by assumption)).of ?_
                  refine (SameCore.fst (State.readRows_same ..) (by assumption)).of ?_
                  refine (SameCore.fst (State.firstAll_same ..) (by assumption)).of ?_
                  exact SameCore.refl _
              · split
                · refine (State.stopMid_same ..).of ?_
                  refine SameCore.fst (?_ : SameCore _ _) (by assumption)
                  refine SameCore.ite_fst (fun _ => ?_) (fun _ => ?_)
                  · refine (State.readRows_same ..).of ?_
                    refine SameCore.fst (?_ : SameCore _ _) (by assumption)
                    refine SameCore.ite_fst (fun _ => ?_) (fun _ => ?_)
                    · refine (State.readRows_same ..).of ?_
                      refine (SameCore.fst (State.readRows_same ..) (by assumption)).of ?_
                      refine (SameCore.fst (State.readRows_same ..) (by assumption)).of ?_
                      refine (SameCore.fst (State.firstAll_same ..) (by assumption)).of ?_
                      exact SameCore.refl _
                    · refine SameCore.mk_fst ?_
                      refine (SameCore.fst (State.readRows_same ..) (by assumption)).of ?_
                      refine (SameCore.fst (State.readRows_same ..) (by assumption)).of ?_
                      refine (SameCore.fst (State.firstAll_same ..) (by assumption)).of ?_
                      exact SameCore.refl _
                  · refine SameCore.mk_fst ?_
                    refine SameCore.fst (?_ : SameCore _ _) (by assumption)
                    refine SameCore.ite_fst (fun _ => ?_) (fun _ => ?_)
                    · refine (State.readRows_same ..).of ?_
                      refine (SameCore.fst (State.readRows_same ..) (by assumption)).of ?_
                      refine (SameCore.fst (State.readRows_same ..) (by assumption)).of ?_
                      refine (SameCore.fst (State.firstAll_same ..) (by assumption)).of ?_
                      exact SameCore.refl _
                    · refine SameCore.mk_fst ?_
                      refine (SameCore.fst (State.readRows_same ..) (by assumption)).of ?_
                      refine (SameCore.fst (State.readRows_same ..) (by assumption)).of ?_
                      refine (SameCore.fst (State.firstAll_same ..) (by assumption)).of ?_
                      exact SameCore.refl _
                · extract_lets +onlyGivenNames z20
                  clear_value z20
                  extract_lets +onlyGivenNames z21
                  clear_value z21
                  extract_lets +onlyGivenNames z22
                  clear_value z22
                  refine (State.putResult_same ..).of ?_
                  refine SameCore.fst (?_ : SameCore _ _) (by assumption)
                  refine SameCore.ite_fst (fun _ => ?_) (fun _ => ?_)
                  · refine (State.readRows_same ..).of ?_
                    refine SameCore.fst (?_ : SameCore _ _) (by assumption)
                    refine SameCore.ite_fst (fun _ => ?_) (fun _ => ?_)
                    · refine (State.readRows_same ..).of ?_
                      refine (SameCore.fst (State.readRows_same ..) (by assumption)).of ?_
                      refine (SameCore.fst (State.readRows_same ..) (by assumption)).of ?_
                      refine (SameCore.fst (State.firstAll_same ..) (by assumption)).of ?_
                      exact SameCore.refl _
                    · refine SameCore.mk_fst ?_
                      refine (SameCore.fst (State.readRows_same ..) (by assumption)).of ?_
                      refine (SameCore.fst (State.readRows_same ..) (by assumption)).of ?_
                      refine (SameCore.fst (State.firstAll_same ..) (by assumption)).of ?_
                      exact SameCore.refl _
                  · refine SameCore.mk_fst ?_
                    refine SameCore.fst (?_ : SameCore _ _) (by assumption)
                    refine SameCore.ite_fst (fun _ => ?_) (fun _ => ?_)
                    · refine (State.readRows_same ..).of ?_
                      refine (SameCore.fst (State.readRows_same ..) (by assumption)).of ?_
                      refine (SameCore.fst (State.readRows_same ..) (by assumption)).of ?_
                      refine (SameCore.fst (State.firstAll_same ..) (by assumption)).of ?_
                      exact SameCore.refl _
                    · refine SameCore.mk_fst ?_
                      refine (SameCore.fst (State.readRows_same ..) (by assumption)).of ?_
                      refine (SameCore.fst (State.readRows_same ..) (by assumption)).of ?_
                      refine (SameCore.fst (State.firstAll_same ..) (by assumption)).of ?_
                      exact SameCore.refl _

theorem State.convDesc_same (s : State) (i : Nat) (n : Nat) (e : Nat) (op : Nat) : SameCore s (State.convDesc s i n e op) := by
  unfold State.convDesc
  refine SameCore.trans ?_ (State.beginDesc_same (h_body := ?_) ..)
  · exact SameCore.refl _
  · intro _
    intro _
    intro _
    intro _
    extract_lets +onlyGivenNames z1
    clear_value z1
    extract_lets +onlyGivenNames z2
    clear_value z2
    extract_lets +onlyGivenNames z3
    clear_value z3
    extract_lets +onlyGivenNames z4
    clear_value z4
    extract_lets +onlyGivenNames z5
    clear_value z5
    extract_lets +onlyGivenNames z6
    clear_value z6
    extract_lets +onlyGivenNames z7
    clear_value z7
    extract_lets +onlyGivenNames z8
    clear_value z8
    extract_lets +onlyGivenNames z9
    clear_value z9
    extract_lets +onlyGivenNames z10
    clear_value z10
    extract_lets +onlyGivenNames z11
    clear_value z11
    extract_lets +onlyGivenNames z12
    clear_value z12
    extract_lets +onlyGivenNames z13
    clear_value z13
    extract_lets +onlyGivenNames z14
    clear_value z14
    extract_lets +onlyGivenNames z15
    clear_value z15
    extract_lets +onlyGivenNames z16
    clear_value z16
    split
    · exact State.trapDesc_same ..
    · split
      · exact State.trapDesc_same ..
      · exact State.trapDesc_same ..
      · exact State.trapDesc_same ..
      · extract_lets +onlyGivenNames z17
        clear_value z17
        split
        · refine (State.snag_same ..).of ?_
          refine (SameCore.fst (State.firstAll_same ..) (by assumption)).of ?_
          exact SameCore.refl _
        · split
          · refine (State.stopMid_same ..).of ?_
            refine (SameCore.fst (State.readRows_same ..) (by assumption)).of ?_
            refine (SameCore.fst (State.firstAll_same ..) (by assumption)).of ?_
            exact SameCore.refl _
          · split
            · refine (State.stopMid_same ..).of ?_
              refine SameCore.fst (?_ : SameCore _ _) (by assumption)
              refine SameCore.ite_fst (fun _ => ?_) (fun _ => ?_)
              · refine SameCore.mk_fst ?_
                refine (SameCore.fst (State.readRows_same ..) (by assumption)).of ?_
                refine (SameCore.fst (State.firstAll_same ..) (by assumption)).of ?_
                exact SameCore.refl _
              · refine (State.readAt_same ..).of ?_
                refine (SameCore.fst (State.readRows_same ..) (by assumption)).of ?_
                refine (SameCore.fst (State.firstAll_same ..) (by assumption)).of ?_
                exact SameCore.refl _
            · split
              · refine (State.stopMid_same ..).of ?_
                refine SameCore.fst (?_ : SameCore _ _) (by assumption)
                refine SameCore.ite_fst (fun _ => ?_) (fun _ => ?_)
                · refine (State.readRows_same ..).of ?_
                  refine SameCore.fst (?_ : SameCore _ _) (by assumption)
                  refine SameCore.ite_fst (fun _ => ?_) (fun _ => ?_)
                  · refine SameCore.mk_fst ?_
                    refine (SameCore.fst (State.readRows_same ..) (by assumption)).of ?_
                    refine (SameCore.fst (State.firstAll_same ..) (by assumption)).of ?_
                    exact SameCore.refl _
                  · refine (State.readAt_same ..).of ?_
                    refine (SameCore.fst (State.readRows_same ..) (by assumption)).of ?_
                    refine (SameCore.fst (State.firstAll_same ..) (by assumption)).of ?_
                    exact SameCore.refl _
                · refine SameCore.mk_fst ?_
                  refine SameCore.fst (?_ : SameCore _ _) (by assumption)
                  refine SameCore.ite_fst (fun _ => ?_) (fun _ => ?_)
                  · refine SameCore.mk_fst ?_
                    refine (SameCore.fst (State.readRows_same ..) (by assumption)).of ?_
                    refine (SameCore.fst (State.firstAll_same ..) (by assumption)).of ?_
                    exact SameCore.refl _
                  · refine (State.readAt_same ..).of ?_
                    refine (SameCore.fst (State.readRows_same ..) (by assumption)).of ?_
                    refine (SameCore.fst (State.firstAll_same ..) (by assumption)).of ?_
                    exact SameCore.refl _
              · extract_lets +onlyGivenNames z18
                clear_value z18
                extract_lets +onlyGivenNames z19
                clear_value z19
                extract_lets +onlyGivenNames z20
                clear_value z20
                extract_lets +onlyGivenNames z21
                clear_value z21
                refine (State.putResult_same ..).of ?_
                refine SameCore.fst (?_ : SameCore _ _) (by assumption)
                refine SameCore.ite_fst (fun _ => ?_) (fun _ => ?_)
                · refine (State.readRows_same ..).of ?_
                  refine SameCore.fst (?_ : SameCore _ _) (by assumption)
                  refine SameCore.ite_fst (fun _ => ?_) (fun _ => ?_)
                  · refine SameCore.mk_fst ?_
                    refine (SameCore.fst (State.readRows_same ..) (by assumption)).of ?_
                    refine (SameCore.fst (State.firstAll_same ..) (by assumption)).of ?_
                    exact SameCore.refl _
                  · refine (State.readAt_same ..).of ?_
                    refine (SameCore.fst (State.readRows_same ..) (by assumption)).of ?_
                    refine (SameCore.fst (State.firstAll_same ..) (by assumption)).of ?_
                    exact SameCore.refl _
                · refine SameCore.mk_fst ?_
                  refine SameCore.fst (?_ : SameCore _ _) (by assumption)
                  refine SameCore.ite_fst (fun _ => ?_) (fun _ => ?_)
                  · refine SameCore.mk_fst ?_
                    refine (SameCore.fst (State.readRows_same ..) (by assumption)).of ?_
                    refine (SameCore.fst (State.firstAll_same ..) (by assumption)).of ?_
                    exact SameCore.refl _
                  · refine (State.readAt_same ..).of ?_
                    refine (SameCore.fst (State.readRows_same ..) (by assumption)).of ?_
                    refine (SameCore.fst (State.firstAll_same ..) (by assumption)).of ?_
                    exact SameCore.refl _

theorem execConv2d_same (i : Nat) (n : Nat) (e : Nat) (err : Option (Nat × Bool)) (s : State) : CoreKept s (execConv2d i n e err s) := by
  unfold execConv2d
  refine CoreKept.next ?_
  refine (State.convDesc_same ..).of ?_
  exact State.eccFind_same ..

theorem execDwconv_same (i : Nat) (n : Nat) (e : Nat) (err : Option (Nat × Bool)) (s : State) : CoreKept s (execDwconv i n e err s) := by
  unfold execDwconv
  refine CoreKept.next ?_
  refine (State.convDesc_same ..).of ?_
  exact State.eccFind_same ..

theorem execPool_same (i : Nat) (n : Nat) (e : Nat) (err : Option (Nat × Bool)) (s : State) : CoreKept s (execPool i n e err s) := by
  unfold execPool
  refine CoreKept.next ?_
  refine (State.convDesc_same ..).of ?_
  exact State.eccFind_same ..

theorem State.vuDesc_same (s : State) (i : Nat) (n : Nat) (e : Nat) (op : Nat) : SameCore s (State.vuDesc s i n e op) := by
  unfold State.vuDesc
  refine SameCore.trans ?_ (State.beginDesc_same (h_body := ?_) ..)
  · exact SameCore.refl _
  · intro _
    intro _
    intro _
    intro _
    extract_lets +onlyGivenNames z1
    clear_value z1
    extract_lets +onlyGivenNames z2
    clear_value z2
    split
    · exact State.trapDesc_same ..
    · extract_lets +onlyGivenNames z3
      clear_value z3
      extract_lets +onlyGivenNames z4
      clear_value z4
      split
      · exact State.trapDesc_same ..
      · exact State.trapDesc_same ..
      · exact State.trapDesc_same ..
      · extract_lets +onlyGivenNames z5
        clear_value z5
        split
        · refine (State.snag_same ..).of ?_
          refine (SameCore.fst (State.firstAll_same ..) (by assumption)).of ?_
          exact SameCore.refl _
        · split
          · refine (State.stopMid_same ..).of ?_
            refine (SameCore.fst (State.readRows_same ..) (by assumption)).of ?_
            refine (SameCore.fst (State.firstAll_same ..) (by assumption)).of ?_
            exact SameCore.refl _
          · split
            · refine (State.stopMid_same ..).of ?_
              refine SameCore.fst (?_ : SameCore _ _) (by assumption)
              refine SameCore.ite_fst (fun _ => ?_) (fun _ => ?_)
              · refine (State.readRows_same ..).of ?_
                refine (SameCore.fst (State.readRows_same ..) (by assumption)).of ?_
                refine (SameCore.fst (State.firstAll_same ..) (by assumption)).of ?_
                exact SameCore.refl _
              · refine SameCore.mk_fst ?_
                refine (SameCore.fst (State.readRows_same ..) (by assumption)).of ?_
                refine (SameCore.fst (State.firstAll_same ..) (by assumption)).of ?_
                exact SameCore.refl _
            · split
              · refine (State.stopMid_same ..).of ?_
                refine SameCore.fst (?_ : SameCore _ _) (by assumption)
                refine SameCore.ite_fst (fun _ => ?_) (fun _ => ?_)
                · refine (State.readRows_same ..).of ?_
                  refine SameCore.fst (?_ : SameCore _ _) (by assumption)
                  refine SameCore.ite_fst (fun _ => ?_) (fun _ => ?_)
                  · refine (State.readRows_same ..).of ?_
                    refine (SameCore.fst (State.readRows_same ..) (by assumption)).of ?_
                    refine (SameCore.fst (State.firstAll_same ..) (by assumption)).of ?_
                    exact SameCore.refl _
                  · refine SameCore.mk_fst ?_
                    refine (SameCore.fst (State.readRows_same ..) (by assumption)).of ?_
                    refine (SameCore.fst (State.firstAll_same ..) (by assumption)).of ?_
                    exact SameCore.refl _
                · refine SameCore.mk_fst ?_
                  refine SameCore.fst (?_ : SameCore _ _) (by assumption)
                  refine SameCore.ite_fst (fun _ => ?_) (fun _ => ?_)
                  · refine (State.readRows_same ..).of ?_
                    refine (SameCore.fst (State.readRows_same ..) (by assumption)).of ?_
                    refine (SameCore.fst (State.firstAll_same ..) (by assumption)).of ?_
                    exact SameCore.refl _
                  · refine SameCore.mk_fst ?_
                    refine (SameCore.fst (State.readRows_same ..) (by assumption)).of ?_
                    refine (SameCore.fst (State.firstAll_same ..) (by assumption)).of ?_
                    exact SameCore.refl _
              · extract_lets +onlyGivenNames z6
                refine SameCore.cut (b := z6) ?_ ?_
                · unfold z6
                  refine SameCore.ite (fun _ => ?_) (fun _ => ?_)
                  · refine (State.countField_same ..).of ?_
                    refine SameCore.fst (?_ : SameCore _ _) (by assumption)
                    refine SameCore.ite_fst (fun _ => ?_) (fun _ => ?_)
                    · refine (State.readRows_same ..).of ?_
                      refine SameCore.fst (?_ : SameCore _ _) (by assumption)
                      refine SameCore.ite_fst (fun _ => ?_) (fun _ => ?_)
                      · refine (State.readRows_same ..).of ?_
                        refine (SameCore.fst (State.readRows_same ..) (by assumption)).of ?_
                        refine (SameCore.fst (State.firstAll_same ..) (by assumption)).of ?_
                        exact SameCore.refl _
                      · refine SameCore.mk_fst ?_
                        refine (SameCore.fst (State.readRows_same ..) (by assumption)).of ?_
                        refine (SameCore.fst (State.firstAll_same ..) (by assumption)).of ?_
                        exact SameCore.refl _
                    · refine SameCore.mk_fst ?_
                      refine SameCore.fst (?_ : SameCore _ _) (by assumption)
                      refine SameCore.ite_fst (fun _ => ?_) (fun _ => ?_)
                      · refine (State.readRows_same ..).of ?_
                        refine (SameCore.fst (State.readRows_same ..) (by assumption)).of ?_
                        refine (SameCore.fst (State.firstAll_same ..) (by assumption)).of ?_
                        exact SameCore.refl _
                      · refine SameCore.mk_fst ?_
                        refine (SameCore.fst (State.readRows_same ..) (by assumption)).of ?_
                        refine (SameCore.fst (State.firstAll_same ..) (by assumption)).of ?_
                        exact SameCore.refl _
                  · refine SameCore.fst (?_ : SameCore _ _) (by assumption)
                    refine SameCore.ite_fst (fun _ => ?_) (fun _ => ?_)
                    · refine (State.readRows_same ..).of ?_
                      refine SameCore.fst (?_ : SameCore _ _) (by assumption)
                      refine SameCore.ite_fst (fun _ => ?_) (fun _ => ?_)
                      · refine (State.readRows_same ..).of ?_
                        refine (SameCore.fst (State.readRows_same ..) (by assumption)).of ?_
                        refine (SameCore.fst (State.firstAll_same ..) (by assumption)).of ?_
                        exact SameCore.refl _
                      · refine SameCore.mk_fst ?_
                        refine (SameCore.fst (State.readRows_same ..) (by assumption)).of ?_
                        refine (SameCore.fst (State.firstAll_same ..) (by assumption)).of ?_
                        exact SameCore.refl _
                    · refine SameCore.mk_fst ?_
                      refine SameCore.fst (?_ : SameCore _ _) (by assumption)
                      refine SameCore.ite_fst (fun _ => ?_) (fun _ => ?_)
                      · refine (State.readRows_same ..).of ?_
                        refine (SameCore.fst (State.readRows_same ..) (by assumption)).of ?_
                        refine (SameCore.fst (State.firstAll_same ..) (by assumption)).of ?_
                        exact SameCore.refl _
                      · refine SameCore.mk_fst ?_
                        refine (SameCore.fst (State.readRows_same ..) (by assumption)).of ?_
                        refine (SameCore.fst (State.firstAll_same ..) (by assumption)).of ?_
                        exact SameCore.refl _
                · intro hz6
                  exact (State.putResult_same ..).of ‹_›

theorem execEltwise_same (i : Nat) (n : Nat) (e : Nat) (err : Option (Nat × Bool)) (s : State) : CoreKept s (execEltwise i n e err s) := by
  unfold execEltwise
  refine CoreKept.next ?_
  refine (State.vuDesc_same ..).of ?_
  exact State.eccFind_same ..

theorem execReduce_same (i : Nat) (n : Nat) (e : Nat) (err : Option (Nat × Bool)) (s : State) : CoreKept s (execReduce i n e err s) := by
  unfold execReduce
  refine CoreKept.next ?_
  refine (State.vuDesc_same ..).of ?_
  exact State.eccFind_same ..

theorem execQuant_same (i : Nat) (n : Nat) (e : Nat) (err : Option (Nat × Bool)) (s : State) : CoreKept s (execQuant i n e err s) := by
  unfold execQuant
  refine CoreKept.next ?_
  refine (State.vuDesc_same ..).of ?_
  exact State.eccFind_same ..

theorem execTransform_same (i : Nat) (n : Nat) (e : Nat) (err : Option (Nat × Bool)) (s : State) : CoreKept s (execTransform i n e err s) := by
  unfold execTransform
  refine CoreKept.next ?_
  refine (State.vuDesc_same ..).of ?_
  exact State.eccFind_same ..

theorem execGather_same (i : Nat) (n : Nat) (e : Nat) (err : Option (Nat × Bool)) (s : State) : CoreKept s (execGather i n e err s) := by
  unfold execGather
  refine CoreKept.next ?_
  refine (State.vuDesc_same ..).of ?_
  exact State.eccFind_same ..

theorem State.moveRead_same (r : Run) (p0 : Place) (l : List (Nat × Nat × Nat)) (s : State) (acc : List (Nat × List Byte)) :
    SameCore s (State.moveRead r p0 l s acc).1 := by
  induction l generalizing s acc with
  | nil => exact SameCore.refl _
  | cons p l ih =>
    obtain ⟨so, o, m⟩ := p
    unfold State.moveRead
    split
    · refine SameCore.mk_fst ?_
      refine (SameCore.fst (State.readAt_same ..) (by assumption)).of ?_
      exact SameCore.refl _
    · refine (ih ..).of ?_
      refine (SameCore.fst (State.readAt_same ..) (by assumption)).of ?_
      exact SameCore.refl _

theorem State.moveDesc_same (s : State) (i : Nat) (n : Nat) (e : Nat) (op : Nat) : SameCore s (State.moveDesc s i n e op) := by
  unfold State.moveDesc
  refine SameCore.trans ?_ (State.beginDesc_same (h_body := ?_) ..)
  · exact SameCore.refl _
  · intro _
    intro _
    intro _
    intro _
    extract_lets +onlyGivenNames z1
    clear_value z1
    extract_lets +onlyGivenNames z2
    clear_value z2
    split
    · exact State.trapDesc_same ..
    · split
      · exact State.trapDesc_same ..
      · exact State.trapDesc_same ..
      · split
        · refine (State.snag_same ..).of ?_
          refine (SameCore.fst (State.firstAll_same ..) (by assumption)).of ?_
          exact SameCore.refl _
        · extract_lets +onlyGivenNames z3
          clear_value z3
          extract_lets +onlyGivenNames z4
          clear_value z4
          refine SameCore.ite (fun _ => ?_) (fun _ => ?_)
          · refine (State.kick_same ..).of ?_
            refine (State.launchFault_same ..).of ?_
            refine (State.count_same ..).of ?_
            refine (State.count_same ..).of ?_
            refine (SameCore.fst (State.firstAll_same ..) (by assumption)).of ?_
            exact SameCore.refl _
          · extract_lets +onlyGivenNames z5
            clear_value z5
            extract_lets +onlyGivenNames z6
            clear_value z6
            extract_lets +onlyGivenNames z7
            clear_value z7
            extract_lets +onlyGivenNames z8
            refine SameCore.cut (b := z8) ?_ ?_
            · unfold z8
              refine (State.setCluster_same ..).of ?_
              refine (State.countField_same ..).of ?_
              refine (SameCore.fst (State.firstAll_same ..) (by assumption)).of ?_
              exact SameCore.refl _
            · intro hz8
              extract_lets +onlyGivenNames z9
              refine SameCore.cut (b := z9) ?_ ?_
              · unfold z9
                refine SameCore.ite (fun _ => ?_) (fun _ => ?_)
                · refine (State.flushL1_same ..).of ?_
                  split
                  · exact (State.setGranMap_same ..).of ‹_›
                  · assumption
                · refine SameCore.ite (fun _ => ?_) (fun _ => ?_)
                  · refine (State.countField_same ..).of ?_
                    refine (SameCore.fst (State.firstAll_same ..) (by assumption)).of ?_
                    exact SameCore.refl _
                  · refine (SameCore.fst (State.firstAll_same ..) (by assumption)).of ?_
                    exact SameCore.refl _
              · intro hz9
                extract_lets +onlyGivenNames z10
                clear_value z10
                extract_lets +onlyGivenNames z11
                clear_value z11
                dsimp -zeta -zetaHave only
                split
                · refine (State.snag_same ..).of ?_
                  refine (SameCore.fst (State.writeRows_same ..) (by assumption)).of ?_
                  exact (State.moveRead_same ..).of ‹_›
                · refine (State.snag_same ..).of ?_
                  refine (SameCore.fst (State.writeRows_same ..) (by assumption)).of ?_
                  exact (State.moveRead_same ..).of ‹_›
                · refine (State.countUnits_same ..).of ?_
                  refine (SameCore.fst (State.writeRows_same ..) (by assumption)).of ?_
                  exact (State.moveRead_same ..).of ‹_›

theorem execMove_same (i : Nat) (n : Nat) (e : Nat) (err : Option (Nat × Bool)) (s : State) : CoreKept s (execMove i n e err s) := by
  unfold execMove
  refine CoreKept.next ?_
  refine (State.moveDesc_same ..).of ?_
  exact State.eccFind_same ..

theorem execMove2d_same (i : Nat) (n : Nat) (e : Nat) (err : Option (Nat × Bool)) (s : State) : CoreKept s (execMove2d i n e err s) := by
  unfold execMove2d
  refine CoreKept.next ?_
  refine (State.moveDesc_same ..).of ?_
  exact State.eccFind_same ..

theorem execMove4d_same (i : Nat) (n : Nat) (e : Nat) (err : Option (Nat × Bool)) (s : State) : CoreKept s (execMove4d i n e err s) := by
  unfold execMove4d
  refine CoreKept.next ?_
  refine (State.moveDesc_same ..).of ?_
  exact State.eccFind_same ..

end Sys2Proof.Machine
end

