-- ==== Sys2Proof/Laws/SameScanout.lean ====
section
/-! SUPPORT. That the operations and commands of Machine/Scanout.lean leave power, time, the SEC core and trim alone: one lemma for each. -/

set_option Elab.async false
namespace Sys2Proof.Machine

theorem State.refreshCrc_same (s : State) (d : Nat) (f : FrameT) : SameCore s (State.refreshCrc s d f).2 := by
  unfold State.refreshCrc
  extract_lets +onlyGivenNames z1
  clear_value z1
  refine SameCore.ite_snd (fun _ => ?_) (fun _ => ?_)
  · exact State.drawWord_same ..
  · refine SameCore.mk_snd ?_
    exact SameCore.refl _

theorem State.framePoison_same (s : State) (d : Nat) (f : FrameT) : SameCore s (State.framePoison s d f) := by
  unfold State.framePoison
  refine SameCore.foldl (fun _ _ => ?_) ?_
  · split
    · exact State.raiseAs_same ..
    · exact State.raiseAs_same ..
  · exact SameCore.refl _

theorem State.skipReceipt_same (s : State) (d : Nat) (r : Rcpt) : SameCore s (State.skipReceipt s d r).1 := by
  unfold State.skipReceipt
  refine SameCore.mk_fst ?_
  exact State.countField_same ..

theorem State.receiptDue_same (s : State) (d : Nat) (f : FrameT) (crc : W) : SameCore s (State.receiptDue s d f crc) := by
  unfold State.receiptDue
  extract_lets +onlyGivenNames z1
  clear_value z1
  cases (z1.rcpt)
  · dsimp -zeta -zetaHave only
    exact SameCore.refl _
  · cases (z1.owner)
    · dsimp -zeta -zetaHave only
      exact SameCore.refl _
    · dsimp -zeta -zetaHave only
      refine SameCore.ite (fun _ => ?_) (fun _ => ?_)
      · exact SameCore.refl _
      · extract_lets +onlyGivenNames z2
        refine SameCore.ite (fun _ => ?_) (fun _ => ?_)
        · unfold z2
          refine (State.setHead_same ..).of ?_
          exact State.skipReceipt_same ..
        · unfold z2
          refine (State.setHead_same ..).of ?_
          refine SameCore.ite_fst (fun _ => ?_) (fun _ => ?_)
          · exact State.skipReceipt_same ..
          · refine SameCore.mk_fst ?_
            exact SameCore.refl _

theorem execReceiptWrite_same (d : Nat) (s : State) : CoreKept s (execReceiptWrite d s) := by
  unfold execReceiptWrite
  refine CoreKept.next ?_
  cases ((s.head d).rcpt)
  · dsimp -zeta -zetaHave only
    exact SameCore.refl _
  · cases ((s.head d).owner)
    · dsimp -zeta -zetaHave only
      exact SameCore.refl _
    · dsimp -zeta -zetaHave only
      split
      · exact SameCore.refl _
      · refine SameCore.ite (fun _ => ?_) (fun _ => ?_)
        · exact SameCore.refl _
        · extract_lets +onlyGivenNames z1
          clear_value z1
          extract_lets +onlyGivenNames z2
          clear_value z2
          extract_lets +onlyGivenNames z3
          clear_value z3
          extract_lets +onlyGivenNames z4
          clear_value z4
          split
          · refine SameCore.ite (fun _ => ?_) (fun _ => ?_)
            · refine (State.setHead_same ..).of ?_
              refine (State.skipReceipt_same ..).of ?_
              refine (SameCore.fst (State.segs_same ..) (by assumption)).of ?_
              exact SameCore.refl _
            · refine (State.setHead_same ..).of ?_
              refine (State.countField_same ..).of ?_
              refine (State.segWrite_same ..).of ?_
              refine (SameCore.fst (State.segs_same ..) (by assumption)).of ?_
              exact SameCore.refl _
          · refine (State.setHead_same ..).of ?_
            refine (State.skipReceipt_same ..).of ?_
            refine (SameCore.fst (State.segs_same ..) (by assumption)).of ?_
            exact SameCore.refl _

theorem State.captureBytes_same (s : State) (d : Nat) : SameCore s (State.captureBytes s d).1 := by
  unfold State.captureBytes
  split
  · refine SameCore.mk_fst ?_
    exact SameCore.refl _
  · refine SameCore.ite_fst (fun _ => ?_) (fun _ => ?_)
    · dsimp -zeta -zetaHave only
      exact State.drawBytes_same ..
    · refine SameCore.mk_fst ?_
      exact State.bumpFree_same ..

theorem State.captureIssue_same (s : State) (d : Nat) (k : Nat) (n : Nat) : SameCore s (State.captureIssue s d k n) := by
  unfold State.captureIssue
  extract_lets +onlyGivenNames z1
  clear_value z1
  extract_lets +onlyGivenNames z2
  clear_value z2
  extract_lets +onlyGivenNames z3
  clear_value z3
  refine SameCore.foldl (fun _ _ => ?_) ?_
  · exact State.hostWrite_same ..
  · exact SameCore.refl _

theorem State.captureCut_same (s : State) (d : Nat) : SameCore s (State.captureCut s d) := by
  unfold State.captureCut
  extract_lets +onlyGivenNames z1
  clear_value z1
  refine SameCore.ite (fun _ => ?_) (fun _ => ?_)
  · dsimp -zeta -zetaHave only
    extract_lets +onlyGivenNames z2
    refine SameCore.cut (b := z2) ?_ ?_
    · unfold z2
      split
      · refine (State.captureIssue_same ..).of ?_
        exact State.drawNat_same ..
      · exact State.drawNat_same ..
    · intro hz2
      refine (State.cause_same ..).of ?_
      exact (State.setHead_same ..).of ‹_›
  · exact SameCore.refl _

theorem State.captureArm_same (s : State) (d : Nat) : SameCore s (State.captureArm s d) := by
  unfold State.captureArm
  extract_lets +onlyGivenNames z1
  clear_value z1
  refine SameCore.ite (fun _ => ?_) (fun _ => ?_)
  · exact SameCore.refl _
  · refine SameCore.ite (fun _ => ?_) (fun _ => ?_)
    · refine (State.cause_same ..).of ?_
      exact State.setHead_same ..
    · exact State.setHead_same ..

theorem execCaptureDone_same (d : Nat) (s : State) : CoreKept s (execCaptureDone d s) := by
  unfold execCaptureDone
  extract_lets +onlyGivenNames z1
  clear_value z1
  refine CoreKept.next ?_
  split
  · refine SameCore.ite (fun _ => ?_) (fun _ => ?_)
    · exact SameCore.refl _
    · refine SameCore.ite (fun _ => ?_) (fun _ => ?_)
      · exact State.captureCut_same ..
      · extract_lets +onlyGivenNames z2
        refine SameCore.cut (b := z2) ?_ ?_
        · unfold z2
          exact State.captureIssue_same ..
        · intro hz2
          refine (State.cause_same ..).of ?_
          exact (State.setHead_same ..).of ‹_›
  · exact State.captureCut_same ..

theorem State.applyRoute_same (s : State) (d : Nat) (src : Nat) : SameCore s (State.applyRoute s d src) := by
  unfold State.applyRoute
  extract_lets +onlyGivenNames z1
  clear_value z1
  extract_lets +onlyGivenNames z2
  refine SameCore.cut (b := z2.2) ?_ ?_
  · unfold z2
    refine SameCore.ite_snd (fun _ => ?_) (fun _ => ?_)
    · refine SameCore.mk_snd ?_
      exact SameCore.refl _
    · refine SameCore.ite_snd (fun _ => ?_) (fun _ => ?_)
      · refine SameCore.mk_snd ?_
        exact SameCore.refl _
      · exact State.drawBool_same ..
  · intro hz2
    extract_lets +onlyGivenNames z3
    refine SameCore.cut (b := z3) ?_ ?_
    · unfold z3
      assumption
    · intro hz3
      refine SameCore.ite (fun _ => ?_) (fun _ => ?_)
      · refine (State.cause_same ..).of ?_
        exact (State.setPort_same ..).of ‹_›
      · extract_lets +onlyGivenNames z4
        clear_value z4
        refine (State.cause_same ..).of ?_
        exact (State.setPort_same ..).of ‹_›

theorem State.routeWrite_same (s : State) (d : Nat) (src : Nat) : SameCore s (State.routeWrite s d src) := by
  unfold State.routeWrite
  extract_lets +onlyGivenNames z1
  clear_value z1
  refine SameCore.ite (fun _ => ?_) (fun _ => ?_)
  · exact State.setPort_same ..
  · refine SameCore.ite (fun _ => ?_) (fun _ => ?_)
    · exact State.applyRoute_same ..
    · exact State.setPort_same ..

theorem State.portBlank_same (s : State) (h : Nat) (d : Nat) : SameCore s (State.portBlank s h d) := by
  unfold State.portBlank
  extract_lets +onlyGivenNames z1
  clear_value z1
  refine SameCore.ite (fun _ => ?_) (fun _ => ?_)
  · exact SameCore.refl _
  · extract_lets +onlyGivenNames z2
    clear_value z2
    extract_lets +onlyGivenNames z3
    refine SameCore.cut (b := z3) ?_ ?_
    · unfold z3
      refine (State.latchRange_same ..).of ?_
      exact State.setPort_same ..
    · intro hz3
      split
      · exact (State.applyRoute_same ..).of ‹_›
      · assumption

theorem State.sdpCommit_same (s : State) (d : Nat) : SameCore s (State.sdpCommit s d) := by
  unfold State.sdpCommit
  extract_lets +onlyGivenNames z1
  clear_value z1
  extract_lets +onlyGivenNames z2
  clear_value z2
  refine SameCore.ite (fun _ => ?_) (fun _ => ?_)
  · exact State.setPort_same ..
  · exact State.setPort_same ..

theorem execPortRestartDone_same (d : Nat) (s : State) : CoreKept s (execPortRestartDone d s) := by
  unfold execPortRestartDone
  extract_lets +onlyGivenNames z1
  clear_value z1
  refine CoreKept.next ?_
  refine SameCore.ite (fun _ => ?_) (fun _ => ?_)
  · exact State.setPort_same ..
  · exact SameCore.refl _

theorem State.portEnable_same (s : State) (d : Nat) (on : Bool) : SameCore s (State.portEnable s d on) := by
  unfold State.portEnable
  extract_lets +onlyGivenNames z1
  clear_value z1
  refine SameCore.ite (fun _ => ?_) (fun _ => ?_)
  · exact State.setPort_same ..
  · exact State.setPort_same ..

theorem State.trainStart_same (s : State) (d : Nat) : SameCore s (State.trainStart s d) := by
  unfold State.trainStart
  extract_lets +onlyGivenNames z1
  clear_value z1
  refine SameCore.ite (fun _ => ?_) (fun _ => ?_)
  · exact State.setPort_same ..
  · exact SameCore.refl _

theorem execDpTrainDone_same (d : Nat) (ok : Bool) (s : State) : CoreKept s (execDpTrainDone d ok s) := by
  unfold execDpTrainDone
  extract_lets +onlyGivenNames z1
  clear_value z1
  refine CoreKept.next ?_
  refine SameCore.ite (fun _ => ?_) (fun _ => ?_)
  · exact SameCore.refl _
  · extract_lets +onlyGivenNames z2
    clear_value z2
    refine (State.cause_same ..).of ?_
    exact State.setPort_same ..

theorem State.auxStart_same (s : State) (d : Nat) : SameCore s (State.auxStart s d) := by
  unfold State.auxStart
  extract_lets +onlyGivenNames z1
  clear_value z1
  refine SameCore.ite (fun _ => ?_) (fun _ => ?_)
  · exact State.setPort_same ..
  · exact SameCore.refl _

theorem execAuxDone_same (d : Nat) (result : Nat) (reply : List Byte) (s : State) : CoreKept s (execAuxDone d result reply s) := by
  unfold execAuxDone
  extract_lets +onlyGivenNames z1
  clear_value z1
  extract_lets +onlyGivenNames z2
  clear_value z2
  refine CoreKept.next ?_
  refine SameCore.ite (fun _ => ?_) (fun _ => ?_)
  · exact SameCore.refl _
  · extract_lets +onlyGivenNames z3
    clear_value z3
    extract_lets +onlyGivenNames z4
    refine SameCore.cut (b := z4) ?_ ?_
    · unfold z4
      exact State.setPort_same ..
    · intro hz4
      extract_lets +onlyGivenNames z5
      refine SameCore.cut (b := z5) ?_ ?_
      · unfold z5
        exact (State.setReg_same ..).of ‹_›
      · intro hz5
        extract_lets +onlyGivenNames z6
        refine SameCore.cut (b := z6) ?_ ?_
        · unfold z6
          refine SameCore.ite (fun _ => ?_) (fun _ => ?_)
          · assumption
          · refine SameCore.foldl (fun _ _ => ?_) ?_
            · exact State.setReg_same ..
            · assumption
        · intro hz6
          exact (State.cause_same ..).of ‹_›

theorem execHpdIrq_same (d : Nat) (s : State) : CoreKept s (execHpdIrq d s) := by
  unfold execHpdIrq
  extract_lets +onlyGivenNames z1
  clear_value z1
  refine CoreKept.next ?_
  refine SameCore.ite (fun _ => ?_) (fun _ => ?_)
  · refine (State.cause_same ..).of ?_
    exact State.setPort_same ..
  · exact SameCore.refl _

theorem execHpdLoss_same (d : Nat) (s : State) : CoreKept s (execHpdLoss d s) := by
  unfold execHpdLoss
  extract_lets +onlyGivenNames z1
  clear_value z1
  refine CoreKept.next ?_
  refine SameCore.ite (fun _ => ?_) (fun _ => ?_)
  · refine (State.causes_same ..).of ?_
    exact State.setPort_same ..
  · exact SameCore.refl _

theorem execHpdReturn_same (d : Nat) (s : State) : CoreKept s (execHpdReturn d s) := by
  unfold execHpdReturn
  extract_lets +onlyGivenNames z1
  clear_value z1
  refine CoreKept.next ?_
  refine SameCore.ite (fun _ => ?_) (fun _ => ?_)
  · exact SameCore.refl _
  · refine (State.cause_same ..).of ?_
    exact State.setPort_same ..

theorem State.holdEnd_same (s : State) (d : Nat) : SameCore s (State.holdEnd s d) := by
  unfold State.holdEnd
  extract_lets +onlyGivenNames z1
  clear_value z1
  refine SameCore.ite (fun _ => ?_) (fun _ => ?_)
  · refine (State.cause_same ..).of ?_
    exact State.setHead_same ..
  · exact SameCore.refl _

theorem State.holdStart_same (s : State) (d : Nat) : SameCore s (State.holdStart s d) := by
  unfold State.holdStart
  extract_lets +onlyGivenNames z1
  refine SameCore.cut (b := z1) ?_ ?_
  · unfold z1
    exact State.captureCut_same ..
  · intro hz1
    extract_lets +onlyGivenNames z2
    clear_value z2
    extract_lets +onlyGivenNames z3
    refine SameCore.cut (b := z3) ?_ ?_
    · unfold z3
      refine SameCore.ite (fun _ => ?_) (fun _ => ?_)
      · exact (State.count_same ..).of ‹_›
      · assumption
    · intro hz3
      extract_lets +onlyGivenNames z4
      clear_value z4
      extract_lets +onlyGivenNames z5
      refine SameCore.cut (b := z5) ?_ ?_
      · unfold z5
        exact (State.setHead_same ..).of ‹_›
      · intro hz5
        refine SameCore.ite (fun _ => ?_) (fun _ => ?_)
        · exact (State.cause_same ..).of ‹_›
        · assumption

theorem State.holdBlack_same (s : State) (d : Nat) : SameCore s (State.holdBlack s d) := by
  unfold State.holdBlack
  extract_lets +onlyGivenNames z1
  clear_value z1
  refine SameCore.ite (fun _ => ?_) (fun _ => ?_)
  · refine (State.holdEnd_same ..).of ?_
    exact State.setHead_same ..
  · exact SameCore.refl _

theorem execHeadHoldLimitExpiry_same (d : Nat) (s : State) : CoreKept s (execHeadHoldLimitExpiry d s) := by
  unfold execHeadHoldLimitExpiry
  refine CoreKept.next ?_
  exact State.holdBlack_same ..

theorem State.endRefresh_same (s : State) (d : Nat) : SameCore s (State.endRefresh s d) := by
  unfold State.endRefresh
  extract_lets +onlyGivenNames z1
  clear_value z1
  split
  · exact SameCore.refl _
  · refine SameCore.ite (fun _ => ?_) (fun _ => ?_)
    · exact SameCore.refl _
    · dsimp -zeta -zetaHave only
      extract_lets +onlyGivenNames z2
      clear_value z2
      extract_lets +onlyGivenNames z3
      refine SameCore.cut (b := z3) ?_ ?_
      · unfold z3
        refine (State.framePoison_same ..).of ?_
        refine (State.setHead_same ..).of ?_
        exact State.refreshCrc_same ..
      · intro hz3
        extract_lets +onlyGivenNames z4
        clear_value z4
        extract_lets +onlyGivenNames z5
        clear_value z5
        extract_lets +onlyGivenNames z6
        refine SameCore.cut (b := z6) ?_ ?_
        · unfold z6
          refine SameCore.ite (fun _ => ?_) (fun _ => ?_)
          · refine (State.cause_same ..).of ?_
            exact (State.count_same ..).of ‹_›
          · assumption
        · intro hz6
          extract_lets +onlyGivenNames z7
          clear_value z7
          extract_lets +onlyGivenNames z8
          refine SameCore.cut (b := z8) ?_ ?_
          · unfold z8
            refine SameCore.ite (fun _ => ?_) (fun _ => ?_)
            · refine (State.raiseAs_same ..).of ?_
              exact (State.setHead_same ..).of ‹_›
            · assumption
          · intro hz8
            exact (State.receiptDue_same ..).of ‹_›

theorem State.latchFlip_same (s : State) (d : Nat) : SameCore s (State.latchFlip s d) := by
  unfold State.latchFlip
  extract_lets +onlyGivenNames z1
  clear_value z1
  split
  · exact SameCore.refl _
  · extract_lets +onlyGivenNames z2
    clear_value z2
    extract_lets +onlyGivenNames z3
    refine SameCore.cut (b := z3) ?_ ?_
    · unfold z3
      refine (State.setHead_same ..).of ?_
      exact State.holdEnd_same ..
    · intro hz3
      refine (State.cause_same ..).of ?_
      exact (State.count_same ..).of ‹_›

theorem State.beaconFrame_same (s : State) (d : Nat) : SameCore s (State.beaconFrame s d) := by
  unfold State.beaconFrame
  refine SameCore.foldl (fun _ _ => ?_) ?_
  · refine SameCore.ite (fun _ => ?_) (fun _ => ?_)
    · exact State.setBeacon_same ..
    · exact SameCore.refl _
  · exact SameCore.refl _

theorem State.vblank_same (s : State) (d : Nat) : SameCore s (State.vblank s d) := by
  unfold State.vblank
  refine SameCore.ite (fun _ => ?_) (fun _ => ?_)
  · exact SameCore.refl _
  · extract_lets +onlyGivenNames z1
    refine SameCore.cut (b := z1) ?_ ?_
    · unfold z1
      exact State.endRefresh_same ..
    · intro hz1
      extract_lets +onlyGivenNames z2
      clear_value z2
      extract_lets +onlyGivenNames z3
      refine SameCore.cut (b := z3) ?_ ?_
      · unfold z3
        refine SameCore.ite (fun _ => ?_) (fun _ => ?_)
        · dsimp -zeta -zetaHave only
          refine (State.setHead_same ..).of ?_
          exact (State.drawBytes_same ..).of ‹_›
        · assumption
      · intro hz3
        extract_lets +onlyGivenNames z4
        clear_value z4
        extract_lets +onlyGivenNames z5
        refine SameCore.cut (b := z5) ?_ ?_
        · unfold z5
          exact (State.setHead_same ..).of ‹_›
        · intro hz5
          extract_lets +onlyGivenNames z6
          refine SameCore.cut (b := z6) ?_ ?_
          · unfold z6
            refine SameCore.ite (fun _ => ?_) (fun _ => ?_)
            · exact (State.holdBlack_same ..).of ‹_›
            · assumption
          · intro hz6
            extract_lets +onlyGivenNames z7
            refine SameCore.cut (b := z7) ?_ ?_
            · unfold z7
              refine (State.latchRange_same ..).of ?_
              exact (State.latchFlip_same ..).of ‹_›
            · intro hz7
              extract_lets +onlyGivenNames z8
              clear_value z8
              extract_lets +onlyGivenNames z9
              refine SameCore.cut (b := z9) ?_ ?_
              · unfold z9
                exact (State.setHead_same ..).of ‹_›
              · intro hz9
                extract_lets +onlyGivenNames z10
                refine SameCore.cut (b := z10) ?_ ?_
                · unfold z10
                  refine SameCore.ite (fun _ => ?_) (fun _ => ?_)
                  · dsimp -zeta -zetaHave only
                    refine (State.setHead_same ..).of ?_
                    exact (State.captureBytes_same ..).of ‹_›
                  · assumption
                · intro hz10
                  extract_lets +onlyGivenNames z11
                  refine SameCore.cut (b := z11) ?_ ?_
                  · unfold z11
                    refine (State.beaconFrame_same ..).of ?_
                    refine (State.portBlank_same ..).of ?_
                    exact (State.portBlank_same ..).of ‹_›
                  · intro hz11
                    exact (State.cause_same ..).of ‹_›

theorem execVblankStart_same (d : Nat) (err : Option (Nat × Bool)) (s : State) : CoreKept s (execVblankStart d err s) := by
  unfold execVblankStart
  refine CoreKept.next ?_
  refine SameCore.ite (fun _ => ?_) (fun _ => ?_)
  · refine (State.vblank_same ..).of ?_
    exact State.eccFind_same ..
  · exact SameCore.refl _

theorem execLineUnderrun_same (d : Nat) (s : State) : CoreKept s (execLineUnderrun d s) := by
  unfold execLineUnderrun
  refine CoreKept.next ?_
  refine SameCore.ite (fun _ => ?_) (fun _ => ?_)
  · refine (State.cause_same ..).of ?_
    exact State.count_same ..
  · exact SameCore.refl _

theorem State.headEnable_same (s : State) (d : Nat) (ag : Agent) : SameCore s (State.headEnable s d ag) := by
  unfold State.headEnable
  extract_lets +onlyGivenNames z1
  clear_value z1
  refine SameCore.ite (fun _ => ?_) (fun _ => ?_)
  · exact SameCore.refl _
  · refine SameCore.ite (fun _ => ?_) (fun _ => ?_)
    · refine (State.rsvdValue_same ..).of ?_
      exact State.setHead_same ..
    · refine (State.vblank_same ..).of ?_
      exact State.setHead_same ..

theorem State.headDisable_same (s : State) (d : Nat) : SameCore s (State.headDisable s d) := by
  unfold State.headDisable
  extract_lets +onlyGivenNames z1
  clear_value z1
  refine SameCore.ite (fun _ => ?_) (fun _ => ?_)
  · exact SameCore.refl _
  · extract_lets +onlyGivenNames z2
    refine SameCore.cut (b := z2) ?_ ?_
    · unfold z2
      exact State.captureCut_same ..
    · intro hz2
      extract_lets +onlyGivenNames z3
      refine SameCore.cut (b := z3) ?_ ?_
      · unfold z3
        refine SameCore.ite (fun _ => ?_) (fun _ => ?_)
        · exact (State.count_same ..).of ‹_›
        · assumption
      · intro hz3
        extract_lets +onlyGivenNames z4
        clear_value z4
        extract_lets +onlyGivenNames z5
        refine SameCore.cut (b := z5) ?_ ?_
        · unfold z5
          refine (State.holdEnd_same ..).of ?_
          exact (State.setHead_same ..).of ‹_›
        · intro hz5
          refine SameCore.foldl (fun _ _ => ?_) ?_
          · refine SameCore.ite (fun _ => ?_) (fun _ => ?_)
            · exact State.loseLock_same ..
            · exact SameCore.refl _
          · assumption

theorem State.lutWrite_same (s : State) (d : Nat) (v : W) (ag : Agent) : SameCore s (State.lutWrite s d v ag) := by
  unfold State.lutWrite
  extract_lets +onlyGivenNames z1
  clear_value z1
  extract_lets +onlyGivenNames z2
  clear_value z2
  refine SameCore.ite (fun _ => ?_) (fun _ => ?_)
  · exact State.busyDrop_same ..
  · extract_lets +onlyGivenNames z3
    clear_value z3
    extract_lets +onlyGivenNames z4
    refine SameCore.cut (b := z4) ?_ ?_
    · unfold z4
      exact State.setHead_same ..
    · intro hz4
      refine SameCore.ite (fun _ => ?_) (fun _ => ?_)
      · exact (State.setReg_same ..).of ‹_›
      · assumption

end Sys2Proof.Machine
end

