-- ==== Sys2Proof/Laws/SameBriane.lean ====
section
/-! SUPPORT. That the operations and commands of Machine/Briane.lean leave power, time, the SEC core and trim alone: one lemma for each. -/

set_option Elab.async false
namespace Sys2Proof.Machine

theorem State.rspWrite_same (s : State) (k : Nat) (e : List Byte) : SameCore s (State.rspWrite s k e) := by
  unfold State.rspWrite
  extract_lets +onlyGivenNames z1
  clear_value z1
  extract_lets +onlyGivenNames z2
  clear_value z2
  extract_lets +onlyGivenNames z3
  refine SameCore.cut (b := z3) ?_ ?_
  · unfold z3
    refine SameCore.foldl (fun _ _ => ?_) ?_
    · exact State.setReg_same ..
    · exact SameCore.refl _
  · intro hz3
    refine (State.cause_same ..).of ?_
    exact (State.setRings_same ..).of ‹_›

theorem State.respond_same (s : State) (k : Nat) (r : Req) (status : Nat) (detail : Nat) (payload : List Byte) : SameCore s (State.respond s k r status detail payload) := by
  unfold State.respond
  extract_lets +onlyGivenNames z1
  refine SameCore.cut (b := z1) ?_ ?_
  · unfold z1
    exact State.rspWrite_same ..
  · intro hz1
    exact (State.setRings_same ..).of ‹_›

theorem State.respondPending_same (s : State) (k : Nat) (r : Req) (l : Long) : SameCore s (State.respondPending s k r l) := by
  unfold State.respondPending
  extract_lets +onlyGivenNames z1
  refine SameCore.cut (b := z1) ?_ ?_
  · unfold z1
    exact State.rspWrite_same ..
  · intro hz1
    exact (State.setRings_same ..).of ‹_›

theorem State.finishLong_same (s : State) (k : Nat) (status : Nat) (detail : Nat) (payload : List Byte) : SameCore s (State.finishLong s k status detail payload) := by
  unfold State.finishLong
  split
  · exact SameCore.refl _
  · refine SameCore.ite (fun _ => ?_) (fun _ => ?_)
    · exact SameCore.refl _
    · extract_lets +onlyGivenNames z1
      clear_value z1
      refine SameCore.ite (fun _ => ?_) (fun _ => ?_)
      · extract_lets +onlyGivenNames z2
        refine SameCore.cut (b := z2) ?_ ?_
        · unfold z2
          exact State.rspWrite_same ..
        · intro hz2
          exact (State.setRings_same ..).of ‹_›
      · exact State.setRings_same ..

theorem State.closeRings_same (s : State) (k : Nat) : SameCore s (State.closeRings s k) := by
  unfold State.closeRings
  extract_lets +onlyGivenNames z1
  clear_value z1
  refine (State.setRings_same ..).of ?_
  exact SameCore.mk' (SameCore.refl _) (.refl _) le_rfl

theorem State.reqRingWrite_same (s : State) (k : Nat) (i : Nat) (v : W) : SameCore s (State.reqRingWrite s k i v) := by
  unfold State.reqRingWrite
  extract_lets +onlyGivenNames z1
  clear_value z1
  refine SameCore.ite (fun _ => ?_) (fun _ => ?_)
  · exact SameCore.refl _
  · extract_lets +onlyGivenNames z2
    refine SameCore.cut (b := z2) ?_ ?_
    · unfold z2
      exact State.setReg_same ..
    · intro hz2
      extract_lets +onlyGivenNames z3
      clear_value z3
      exact (State.setRings_same ..).of ‹_›

theorem State.reqProdWrite_same (s : State) (k : Nat) (v : W) (ag : Agent) : SameCore s (State.reqProdWrite s k v ag) := by
  unfold State.reqProdWrite
  extract_lets +onlyGivenNames z1
  clear_value z1
  extract_lets +onlyGivenNames z2
  clear_value z2
  refine SameCore.ite (fun _ => ?_) (fun _ => ?_)
  · exact SameCore.refl _
  · refine SameCore.ite (fun _ => ?_) (fun _ => ?_)
    · refine (State.rsvdValue_same ..).of ?_
      exact State.setReg_same ..
    · exact State.setRings_same ..

theorem State.rspConsWrite_same (s : State) (k : Nat) (v : W) : SameCore s (State.rspConsWrite s k v) := by
  unfold State.rspConsWrite
  extract_lets +onlyGivenNames z1
  clear_value z1
  refine SameCore.ite (fun _ => ?_) (fun _ => ?_)
  · exact SameCore.refl _
  · extract_lets +onlyGivenNames z2
    refine SameCore.cut (b := z2) ?_ ?_
    · unfold z2
      exact State.setRings_same ..
    · intro hz2
      split
      · split
        · refine SameCore.ite (fun _ => ?_) (fun _ => ?_)
          · extract_lets +onlyGivenNames z3
            refine SameCore.cut (b := z3) ?_ ?_
            · unfold z3
              exact (State.rspWrite_same ..).of ‹_›
            · intro hz3
              exact (State.setRings_same ..).of ‹_›
          · assumption
        · assumption
      · assumption

theorem execBrianeEventDeliver_same (k : Nat) (s : State) : CoreKept s (execBrianeEventDeliver k s) := by
  unfold execBrianeEventDeliver
  extract_lets +onlyGivenNames z1
  clear_value z1
  refine CoreKept.next ?_
  split
  · refine SameCore.ite (fun _ => ?_) (fun _ => ?_)
    · extract_lets +onlyGivenNames z2
      refine SameCore.cut (b := z2) ?_ ?_
      · unfold z2
        exact State.rspWrite_same ..
      · intro hz2
        exact (State.setRings_same ..).of ‹_›
    · exact SameCore.refl _
  · exact SameCore.refl _

theorem State.negotiate_same (s : State) (k : Nat) : SameCore s (State.negotiate s k) := by
  unfold State.negotiate
  extract_lets +onlyGivenNames z1
  clear_value z1
  extract_lets +onlyGivenNames z2
  clear_value z2
  extract_lets +onlyGivenNames z3
  clear_value z3
  extract_lets +onlyGivenNames z4
  clear_value z4
  extract_lets +onlyGivenNames z5
  clear_value z5
  extract_lets +onlyGivenNames z6
  clear_value z6
  extract_lets +onlyGivenNames z7
  refine SameCore.cut (b := z7) ?_ ?_
  · unfold z7
    refine SameCore.ite (fun _ => ?_) (fun _ => ?_)
    · exact State.setRings_same ..
    · refine (State.cause_same ..).of ?_
      exact State.setRings_same ..
  · intro hz7
    exact (State.cause_same ..).of ‹_›

theorem State.hello_same (s : State) (k : Nat) (ag : Agent) : SameCore s (State.hello s k ag) := by
  unfold State.hello
  extract_lets +onlyGivenNames z1
  clear_value z1
  refine SameCore.ite (fun _ => ?_) (fun _ => ?_)
  · exact State.rsvdValue_same ..
  · refine SameCore.ite (fun _ => ?_) (fun _ => ?_)
    · exact SameCore.refl _
    · extract_lets +onlyGivenNames z2
      refine SameCore.cut (b := z2) ?_ ?_
      · unfold z2
        exact State.setRings_same ..
      · intro hz2
        refine SameCore.ite (fun _ => ?_) (fun _ => ?_)
        · assumption
        · exact (State.negotiate_same ..).of ‹_›

theorem State.negotiateAll_same (s : State) : SameCore s (State.negotiateAll s) := by
  unfold State.negotiateAll
  refine SameCore.foldl (fun _ _ => ?_) ?_
  · refine SameCore.ite (fun _ => ?_) (fun _ => ?_)
    · exact State.negotiate_same ..
    · exact SameCore.refl _
  · exact SameCore.refl _

theorem execBrianeRequestStart_same (k : Nat) (s : State) : CoreKept s (execBrianeRequestStart k s) := by
  unfold execBrianeRequestStart
  extract_lets +onlyGivenNames z1
  clear_value z1
  refine CoreKept.next ?_
  refine SameCore.ite (fun _ => ?_) (fun _ => ?_)
  · exact SameCore.refl _
  · extract_lets +onlyGivenNames z2
    clear_value z2
    extract_lets +onlyGivenNames z3
    refine SameCore.cut (b := z3.2) ?_ ?_
    · unfold z3
      refine SameCore.ite_snd (fun _ => ?_) (fun _ => ?_)
      · exact State.drawBytes_same ..
      · refine SameCore.mk_snd ?_
        exact SameCore.refl _
    · intro hz3
      extract_lets +onlyGivenNames z4
      clear_value z4
      extract_lets +onlyGivenNames z5
      refine SameCore.cut (b := z5) ?_ ?_
      · unfold z5
        exact (State.setRings_same ..).of ‹_›
      · intro hz5
        split
        · assumption
        · split
          · exact (State.respond_same ..).of ‹_›
          · assumption

theorem State.onReq_same (s : State) (k : Nat) (op : Nat) (f : State → Req → State) (h_f : ∀ (x0 : State) (x1 : Req), SameCore x0 (f x0 x1)) : SameCore s (State.onReq s k op f) := by
  unfold State.onReq
  split
  · refine SameCore.ite (fun _ => ?_) (fun _ => ?_)
    · exact h_f _ _
    · exact SameCore.refl _
  · exact SameCore.refl _

theorem execBrianeReservedOpcode_same (k : Nat) (s : State) : CoreKept s (execBrianeReservedOpcode k s) := by
  unfold execBrianeReservedOpcode
  refine CoreKept.next ?_
  split
  · refine SameCore.ite (fun _ => ?_) (fun _ => ?_)
    · exact State.respond_same ..
    · exact SameCore.refl _
  · exact SameCore.refl _

theorem execPing_same (k : Nat) (s : State) : CoreKept s (execPing k s) := by
  unfold execPing
  refine CoreKept.next ?_
  refine SameCore.trans ?_ (State.onReq_same (h_f := ?_) ..)
  · exact SameCore.refl _
  · intro _
    intro _
    refine SameCore.ite (fun _ => ?_) (fun _ => ?_)
    · exact State.respond_same ..
    · exact State.respond_same ..

theorem execGetInfo_same (k : Nat) (s : State) : CoreKept s (execGetInfo k s) := by
  unfold execGetInfo
  refine CoreKept.next ?_
  refine SameCore.trans ?_ (State.onReq_same (h_f := ?_) ..)
  · exact SameCore.refl _
  · intro _
    intro _
    extract_lets +onlyGivenNames z1
    clear_value z1
    extract_lets +onlyGivenNames z2
    clear_value z2
    extract_lets +onlyGivenNames z3
    clear_value z3
    refine SameCore.ite (fun _ => ?_) (fun _ => ?_)
    · exact State.respond_same ..
    · exact State.respond_same ..

theorem State.logAppend_same (s : State) (r : LogRec) : SameCore s (State.logAppend s r) := by
  unfold State.logAppend
  extract_lets +onlyGivenNames z1
  extract_lets +onlyGivenNames z2
  refine SameCore.cut (b := z2) ?_ ?_
  · unfold z2
    refine SameCore.ite (fun _ => ?_) (fun _ => ?_)
    · exact State.count_same ..
    · exact SameCore.refl _
  · intro hz2
    exact SameCore.mk' ‹_› (.refl _) le_rfl

theorem State.logRec_same (s : State) (sev : Nat) (source : Nat) (inst : Nat) : SameCore s (State.logRec s sev source inst) := by
  unfold State.logRec
  refine SameCore.ite (fun _ => ?_) (fun _ => ?_)
  · exact SameCore.refl _
  · extract_lets +onlyGivenNames z1
    clear_value z1
    refine (State.logAppend_same ..).of ?_
    exact State.bumpFree_same ..

theorem State.logSelect_same (s : State) (q : W) : SameCore s (State.logSelect s q) := by
  unfold State.logSelect
  extract_lets +onlyGivenNames z1
  refine SameCore.cut (b := z1) ?_ ?_
  · unfold z1
    exact State.setReg_same ..
  · intro hz1
    exact SameCore.mk' ‹_› (.refl _) le_rfl

theorem execLogFetch_same (k : Nat) (s : State) : CoreKept s (execLogFetch k s) := by
  unfold execLogFetch
  refine CoreKept.next ?_
  refine SameCore.trans ?_ (State.onReq_same (h_f := ?_) ..)
  · exact SameCore.refl _
  · intro _
    intro _
    extract_lets +onlyGivenNames z1
    clear_value z1
    extract_lets +onlyGivenNames z2
    clear_value z2
    refine SameCore.ite (fun _ => ?_) (fun _ => ?_)
    · exact State.respond_same ..
    · extract_lets +onlyGivenNames z3
      clear_value z3
      extract_lets +onlyGivenNames z4
      clear_value z4
      extract_lets +onlyGivenNames z5
      clear_value z5
      extract_lets +onlyGivenNames z6
      clear_value z6
      extract_lets +onlyGivenNames z7
      clear_value z7
      extract_lets +onlyGivenNames z8
      refine SameCore.cut (b := z8) ?_ ?_
      · unfold z8
        exact SameCore.mk' (SameCore.refl _) (.refl _) le_rfl
      · intro hz8
        extract_lets +onlyGivenNames z9
        refine SameCore.cut (b := z9.2) ?_ ?_
        · unfold z9
          split
          · refine SameCore.mk_snd ?_
            assumption
          · exact (State.drawWord_same ..).of ‹_›
        · intro hz9
          extract_lets +onlyGivenNames z10
          clear_value z10
          extract_lets +onlyGivenNames z11
          refine SameCore.cut (b := z11) ?_ ?_
          · unfold z11
            exact (State.respondPending_same ..).of ‹_›
          · intro hz11
            exact (State.hostWrite_same ..).of ‹_›

theorem execLogFetchDone_same (k : Nat) (s : State) : CoreKept s (execLogFetchDone k s) := by
  unfold execLogFetchDone
  refine CoreKept.next ?_
  split
  · refine SameCore.ite (fun _ => ?_) (fun _ => ?_)
    · exact State.finishLong_same ..
    · exact SameCore.refl _
  · exact SameCore.refl _

theorem execLogConfig_same (k : Nat) (s : State) : CoreKept s (execLogConfig k s) := by
  unfold execLogConfig
  refine CoreKept.next ?_
  refine SameCore.trans ?_ (State.onReq_same (h_f := ?_) ..)
  · exact SameCore.refl _
  · intro _
    intro _
    refine SameCore.ite (fun _ => ?_) (fun _ => ?_)
    · exact State.respond_same ..
    · refine (State.respond_same ..).of ?_
      exact State.setReg_same ..

theorem execTraceSet_same (k : Nat) (s : State) : CoreKept s (execTraceSet k s) := by
  unfold execTraceSet
  refine CoreKept.next ?_
  refine SameCore.trans ?_ (State.onReq_same (h_f := ?_) ..)
  · exact SameCore.refl _
  · intro _
    intro _
    refine SameCore.ite (fun _ => ?_) (fun _ => ?_)
    · exact State.respond_same ..
    · refine (State.respond_same ..).of ?_
      refine SameCore.foldl (fun _ _ => ?_) ?_
      · exact State.setReg_same ..
      · exact SameCore.refl _

end Sys2Proof.Machine
end

