-- ==== Sys2Proof/Laws/SameInstances.lean ====
section
/-! SUPPORT. That the operations and commands of Machine/Instances.lean leave power, time, the SEC core and trim alone: one lemma for each. -/

set_option Elab.async false
namespace Sys2Proof.Machine

theorem State.instActive_same (s : State) (k : Nat) : SameCore s (State.instActive s k) := by
  unfold State.instActive
  extract_lets +onlyGivenNames z1
  clear_value z1
  extract_lets +onlyGivenNames z2
  clear_value z2
  extract_lets +onlyGivenNames z3
  refine SameCore.cut (b := z3) ?_ ?_
  · unfold z3
    exact State.setInst_same ..
  · intro hz3
    extract_lets +onlyGivenNames z4
    refine SameCore.cut (b := z4) ?_ ?_
    · unfold z4
      refine SameCore.foldl (fun _ _ => ?_) ?_
      · exact State.postEvent_same ..
      · assumption
    · intro hz4
      extract_lets +onlyGivenNames z5
      refine SameCore.cut (b := z5) ?_ ?_
      · unfold z5
        refine SameCore.foldl (fun _ _ => ?_) ?_
        · refine (State.fetch_same ..).of ?_
          refine SameCore.ite (fun _ => ?_) (fun _ => ?_)
          · exact State.refreshFrames_same ..
          · exact SameCore.refl _
        · assumption
      · intro hz5
        exact (State.kick_same ..).of ‹_›

theorem State.setSt_same (s : State) (k : Nat) (new : InstSt) (cause : Nat) : SameCore s (State.setSt s k new cause) := by
  unfold State.setSt
  extract_lets +onlyGivenNames z1
  clear_value z1
  extract_lets +onlyGivenNames z2
  refine SameCore.cut (b := z2) ?_ ?_
  · unfold z2
    exact State.setInst_same ..
  · intro hz2
    extract_lets +onlyGivenNames z3
    refine SameCore.cut (b := z3) ?_ ?_
    · unfold z3
      exact (State.postEvent_same ..).of ‹_›
    · intro hz3
      extract_lets +onlyGivenNames z4
      refine SameCore.cut (b := z4) ?_ ?_
      · unfold z4
        refine (State.cause_same ..).of ?_
        exact (State.causes_same ..).of ‹_›
      · intro hz4
        refine SameCore.ite (fun _ => ?_) (fun _ => ?_)
        · exact (State.instActive_same ..).of ‹_›
        · assumption

theorem State.dropCmds_same (s : State) (dead : List Cmd) : SameCore s (State.dropCmds s dead) := by
  unfold State.dropCmds
  extract_lets +onlyGivenNames z1
  clear_value z1
  extract_lets +onlyGivenNames z2
  clear_value z2
  extract_lets +onlyGivenNames z3
  refine SameCore.cut (b := z3) ?_ ?_
  · unfold z3
    refine SameCore.foldl (fun _ _ => ?_) ?_
    · split
      · refine (State.dropMover_same ..).of ?_
        exact State.countIncomplete_same ..
      · exact SameCore.refl _
    · exact SameCore.refl _
  · intro hz3
    exact SameCore.mk' ‹_› (.refl _) le_rfl

theorem State.dropHeld_same (s : State) (k : Nat) : SameCore s (State.dropHeld s k) := by
  unfold State.dropHeld
  exact SameCore.mk' (SameCore.refl _) (.refl _) le_rfl

theorem State.cutMovers_same (s : State) (k : Nat) : SameCore s (State.cutMovers s k) := by
  unfold State.cutMovers
  refine SameCore.foldl (fun _ _ => ?_) ?_
  · exact State.moverCut_same ..
  · exact SameCore.refl _

theorem State.killWork_same (s : State) (k : Nat) (loose : Bool) : SameCore s (State.killWork s k loose) := by
  unfold State.killWork
  extract_lets +onlyGivenNames z1
  refine SameCore.cut (b := z1) ?_ ?_
  · unfold z1
    exact State.cutMovers_same ..
  · intro hz1
    extract_lets +onlyGivenNames z2
    clear_value z2
    extract_lets +onlyGivenNames z3
    clear_value z3
    extract_lets +onlyGivenNames z4
    refine SameCore.cut (b := z4) ?_ ?_
    · unfold z4
      refine SameCore.foldl (fun _ _ => ?_) ?_
      · exact State.killLaunch_same ..
      · assumption
    · intro hz4
      extract_lets +onlyGivenNames z5
      refine SameCore.cut (b := z5) ?_ ?_
      · unfold z5
        refine (State.dropHeld_same ..).of ?_
        exact (State.dropCmds_same ..).of ‹_›
      · intro hz5
        refine (State.kick_same ..).of ?_
        refine SameCore.foldl (fun _ _ => ?_) ?_
        · dsimp -zeta -zetaHave only
          exact State.queueFault_same ..
        · assumption

theorem State.askStop_same (s : State) (k : Nat) : SameCore s (State.askStop s k) := by
  unfold State.askStop
  refine SameCore.foldl (fun _ _ => ?_) ?_
  · dsimp -zeta -zetaHave only
    split
    · refine SameCore.ite (fun _ => ?_) (fun _ => ?_)
      · exact SameCore.refl _
      · refine SameCore.ite (fun _ => ?_) (fun _ => ?_)
        · refine (State.leaveRun_same ..).of ?_
          exact State.countField_same ..
        · refine SameCore.ite (fun _ => ?_) (fun _ => ?_)
          · refine (State.tryStop_same ..).of ?_
            exact State.askYield_same ..
          · exact SameCore.refl _
    · exact SameCore.refl _
  · exact SameCore.refl _

theorem State.ackWhere_same (s : State) (p : Owner → Option Nat → Bool) : SameCore s (State.ackWhere s p) := by
  unfold State.ackWhere
  exact SameCore.mk' (SameCore.refl _) (.refl _) le_rfl

theorem State.resetRange_same (s : State) (lo : Nat) (n : Nat) (keep : Nat → Bool) : SameCore s (State.resetRange s lo n keep) := by
  unfold State.resetRange
  extract_lets +onlyGivenNames z1
  clear_value z1
  exact SameCore.mk' (SameCore.refl _) (.refl _) le_rfl

theorem State.releaseHead_same (s : State) (d : Nat) (k : Nat) : SameCore s (State.releaseHead s d k) := by
  unfold State.releaseHead
  refine (State.postEvent_same ..).of ?_
  exact State.holdStart_same ..

theorem State.forget_same (s : State) (ns : List Nat) : SameCore s (State.forget s ns) := by
  unfold State.forget
  extract_lets keep n
  refine SameCore.ite (fun _ => SameCore.refl _) (fun _ => ?_)
  exact SameCore.trans (State.bumpFree_same s) ⟨rfl, rfl, rfl, rfl, rfl, rfl, rfl, rfl⟩

theorem State.releaseSlots_same (s : State) (k : Nat) : SameCore s (State.releaseSlots s k) := by
  unfold State.releaseSlots
  extract_lets +onlyGivenNames z1
  refine SameCore.cut (b := z1) ?_ ?_
  · unfold z1
    exact State.forget_same ..
  · intro hz1
    exact SameCore.mk' ‹_› (.refl _) le_rfl

theorem State.freeBlocks_same (s : State) (k : Nat) : SameCore s (State.freeBlocks s k) := by
  unfold State.freeBlocks
  extract_lets +onlyGivenNames z1
  refine SameCore.cut (b := z1) ?_ ?_
  · unfold z1
    exact State.dropInstSync_same ..
  · intro hz1
    extract_lets +onlyGivenNames z2
    clear_value z2
    exact SameCore.mk' ‹_› (.refl _) le_rfl

theorem State.freeQueues_same (s : State) (k : Nat) : SameCore s (State.freeQueues s k) := by
  unfold State.freeQueues
  extract_lets +onlyGivenNames z1
  refine SameCore.cut (b := z1) ?_ ?_
  · unfold z1
    exact State.cutMovers_same ..
  · intro hz1
    extract_lets +onlyGivenNames z2
    refine SameCore.cut (b := z2) ?_ ?_
    · unfold z2
      exact (State.dropCmds_same ..).of ‹_›
    · intro hz2
      extract_lets +onlyGivenNames z3
      refine SameCore.cut (b := z3) ?_ ?_
      · unfold z3
        exact (State.killInstLaunches_same ..).of ‹_›
      · intro hz3
        exact SameCore.mk' ‹_› (.refl _) le_rfl

theorem State.resetInst_same (s : State) (k : Nat) : SameCore s (State.resetInst s k) := by
  unfold State.resetInst
  extract_lets +onlyGivenNames z1
  refine SameCore.cut (b := z1) ?_ ?_
  · unfold z1
    refine (State.freeBlocks_same ..).of ?_
    refine (State.dropHeld_same ..).of ?_
    exact State.freeQueues_same ..
  · intro hz1
    extract_lets +onlyGivenNames z2
    refine SameCore.cut (b := z2) ?_ ?_
    · unfold z2
      exact SameCore.mk' ‹_› (.refl _) le_rfl
    · intro hz2
      extract_lets +onlyGivenNames z3
      refine SameCore.cut (b := z3) ?_ ?_
      · unfold z3
        refine SameCore.foldl (fun _ _ => ?_) ?_
        · exact State.freeResv_same ..
        · assumption
      · intro hz3
        extract_lets +onlyGivenNames z4
        refine SameCore.cut (b := z4) ?_ ?_
        · unfold z4
          refine SameCore.foldl (fun _ _ => ?_) ?_
          · refine SameCore.ite (fun _ => ?_) (fun _ => ?_)
            · exact State.releaseHead_same ..
            · exact SameCore.refl _
          · assumption
        · intro hz4
          extract_lets +onlyGivenNames z5
          refine SameCore.cut (b := z5) ?_ ?_
          · unfold z5
            refine (State.dropTlb_same ..).of ?_
            exact (State.releaseSlots_same ..).of ‹_›
          · intro hz5
            clear_value z5
            extract_lets +onlyGivenNames z6
            extract_lets +onlyGivenNames z7
            extract_lets +onlyGivenNames z8
            refine SameCore.cut (b := z8) ?_ ?_
            · unfold z8
              exact SameCore.mk' ‹_› (.refl _) le_rfl
            · intro hz8
              extract_lets +onlyGivenNames z9
              clear_value z9
              extract_lets +onlyGivenNames z10
              refine SameCore.cut (b := z10) ?_ ?_
              · unfold z10
                exact (State.setInst_same ..).of ‹_›
              · intro hz10
                extract_lets +onlyGivenNames z11
                refine SameCore.cut (b := z11) ?_ ?_
                · unfold z11
                  refine (State.resetRange_same ..).of ?_
                  refine (State.resetRange_same ..).of ?_
                  exact (State.resetRange_same ..).of ‹_›
                · intro hz11
                  extract_lets +onlyGivenNames z12
                  refine SameCore.cut (b := z12) ?_ ?_
                  · unfold z12
                    refine SameCore.ite (fun _ => ?_) (fun _ => ?_)
                    · assumption
                    · exact (State.closeRings_same ..).of ‹_›
                  · intro hz12
                    refine (State.kick_same ..).of ?_
                    exact (State.ackWhere_same ..).of ‹_›

theorem State.enterReset_same (s : State) (k : Nat) (remove : Bool) (cause : Nat) : SameCore s (State.enterReset s k remove cause) := by
  unfold State.enterReset
  extract_lets +onlyGivenNames z1
  refine SameCore.cut (b := z1) ?_ ?_
  · unfold z1
    refine (State.resetInst_same ..).of ?_
    exact State.setSt_same ..
  · intro hz1
    exact (State.setInst_same ..).of ‹_›

theorem State.quiesceReport_same (s : State) (k : Nat) (ok : Bool) : SameCore s (State.quiesceReport s k ok) := by
  unfold State.quiesceReport
  split
  · exact SameCore.refl _
  · refine SameCore.ite (fun _ => ?_) (fun _ => ?_)
    · exact SameCore.refl _
    · extract_lets +onlyGivenNames z1
      clear_value z1
      extract_lets +onlyGivenNames z2
      clear_value z2
      extract_lets +onlyGivenNames z3
      refine SameCore.cut (b := z3) ?_ ?_
      · unfold z3
        exact State.setRings_same ..
      · intro hz3
        refine SameCore.ite (fun _ => ?_) (fun _ => ?_)
        · extract_lets +onlyGivenNames z4
          clear_value z4
          exact (State.finishLong_same ..).of ‹_›
        · assumption

theorem State.resetReport_same (s : State) (k : Nat) : SameCore s (State.resetReport s k) := by
  unfold State.resetReport
  split
  · refine SameCore.ite (fun _ => ?_) (fun _ => ?_)
    · exact State.finishLong_same ..
    · exact SameCore.refl _
  · exact SameCore.refl _

theorem State.beginStop_same (s : State) (k : Nat) (q : Quiesce) : SameCore s (State.beginStop s k q) := by
  unfold State.beginStop
  refine SameCore.ite (fun _ => ?_) (fun _ => ?_)
  · refine (State.setInst_same ..).of ?_
    exact State.killWork_same ..
  · refine SameCore.ite (fun _ => ?_) (fun _ => ?_)
    · exact SameCore.refl _
    · exact State.askStop_same ..

theorem State.trigger_same (s : State) (k : Nat) (drain : Bool) (forced : Bool) (fault : Bool) (after : After) (cause : Nat) : SameCore s (State.trigger s k drain forced fault after cause) := by
  unfold State.trigger
  extract_lets +onlyGivenNames z1
  clear_value z1
  extract_lets +onlyGivenNames z2
  clear_value z2
  cases (z1.quiesce)
  · split
    · exact SameCore.refl _
    · refine SameCore.ite (fun _ => ?_) (fun _ => ?_)
      · exact State.setInst_same ..
      · exact SameCore.refl _
    · extract_lets +onlyGivenNames z3
      clear_value z3
      extract_lets +onlyGivenNames z4
      clear_value z4
      extract_lets +onlyGivenNames z5
      refine SameCore.cut (b := z5) ?_ ?_
      · unfold z5
        exact State.setInst_same ..
      · intro hz5
        extract_lets +onlyGivenNames z6
        refine SameCore.cut (b := z6) ?_ ?_
        · unfold z6
          refine SameCore.ite (fun _ => ?_) (fun _ => ?_)
          · exact (State.quiesceReport_same ..).of ‹_›
          · assumption
        · intro hz6
          refine SameCore.ite (fun _ => ?_) (fun _ => ?_)
          · exact (State.beginStop_same ..).of ‹_›
          · assumption
    · extract_lets +onlyGivenNames z3
      refine SameCore.cut (b := z3) ?_ ?_
      · unfold z3
        refine SameCore.ite (fun _ => ?_) (fun _ => ?_)
        · exact SameCore.refl _
        · exact State.setSt_same ..
      · intro hz3
        refine (State.beginStop_same ..).of ?_
        exact (State.setInst_same ..).of ‹_›
    · refine SameCore.ite (fun _ => ?_) (fun _ => ?_)
      · refine (State.beginStop_same ..).of ?_
        exact State.setInst_same ..
      · split
        · exact State.enterReset_same ..
        · exact SameCore.refl _
    · split
      · exact State.enterReset_same ..
      · exact SameCore.refl _
  · split
    · exact SameCore.refl _
    · refine SameCore.ite (fun _ => ?_) (fun _ => ?_)
      · exact State.setInst_same ..
      · exact SameCore.refl _
    · extract_lets +onlyGivenNames z3
      clear_value z3
      extract_lets +onlyGivenNames z4
      clear_value z4
      extract_lets +onlyGivenNames z5
      refine SameCore.cut (b := z5) ?_ ?_
      · unfold z5
        exact State.setInst_same ..
      · intro hz5
        extract_lets +onlyGivenNames z6
        refine SameCore.cut (b := z6) ?_ ?_
        · unfold z6
          refine SameCore.ite (fun _ => ?_) (fun _ => ?_)
          · exact (State.quiesceReport_same ..).of ‹_›
          · assumption
        · intro hz6
          refine SameCore.ite (fun _ => ?_) (fun _ => ?_)
          · exact (State.beginStop_same ..).of ‹_›
          · assumption
    · extract_lets +onlyGivenNames z3
      refine SameCore.cut (b := z3) ?_ ?_
      · unfold z3
        refine SameCore.ite (fun _ => ?_) (fun _ => ?_)
        · exact SameCore.refl _
        · exact State.setSt_same ..
      · intro hz3
        refine (State.beginStop_same ..).of ?_
        exact (State.setInst_same ..).of ‹_›
    · refine SameCore.ite (fun _ => ?_) (fun _ => ?_)
      · refine (State.beginStop_same ..).of ?_
        exact State.setInst_same ..
      · split
        · exact State.enterReset_same ..
        · exact SameCore.refl _
    · split
      · exact State.enterReset_same ..
      · exact SameCore.refl _

theorem execQuiesceLimitExpiry_same (k : Nat) (s : State) : CoreKept s (execQuiesceLimitExpiry k s) := by
  unfold execQuiesceLimitExpiry
  refine CoreKept.next ?_
  split
  · refine SameCore.ite (fun _ => ?_) (fun _ => ?_)
    · exact SameCore.refl _
    · extract_lets +onlyGivenNames z1
      refine SameCore.cut (b := z1) ?_ ?_
      · unfold z1
        exact State.killWork_same ..
      · intro hz1
        exact (State.setInst_same ..).of ‹_›
  · exact SameCore.refl _

theorem execQuiesceFlushDone_same (k : Nat) (s : State) : CoreKept s (execQuiesceFlushDone k s) := by
  unfold execQuiesceFlushDone
  refine CoreKept.next ?_
  split
  · refine SameCore.ite (fun _ => ?_) (fun _ => ?_)
    · exact SameCore.refl _
    · extract_lets +onlyGivenNames z1
      refine SameCore.cut (b := z1) ?_ ?_
      · unfold z1
        exact State.setSt_same ..
      · intro hz1
        extract_lets +onlyGivenNames z2
        clear_value z2
        extract_lets +onlyGivenNames z3
        refine SameCore.cut (b := z3) ?_ ?_
        · unfold z3
          exact (State.setInst_same ..).of ‹_›
        · intro hz3
          split
          · exact (State.quiesceReport_same ..).of ‹_›
          · exact (State.enterReset_same ..).of ‹_›
  · exact SameCore.refl _

theorem execFlushTimeout_same (k : Nat) (s : State) : CoreKept s (execFlushTimeout k s) := by
  unfold execFlushTimeout
  refine CoreKept.next ?_
  split
  · refine SameCore.ite (fun _ => ?_) (fun _ => ?_)
    · exact SameCore.refl _
    · extract_lets +onlyGivenNames z1
      clear_value z1
      extract_lets +onlyGivenNames z2
      extract_lets +onlyGivenNames z3
      refine SameCore.cut (b := z3) ?_ ?_
      · unfold z3
        exact SameCore.mk' (SameCore.refl _) (.refl _) le_rfl
      · intro hz3
        refine (State.countField_same ..).of ?_
        exact (State.dropHeld_same ..).of ‹_›
  · exact SameCore.refl _

theorem execForcedKillDone_same (k : Nat) (s : State) : CoreKept s (execForcedKillDone k s) := by
  unfold execForcedKillDone
  refine CoreKept.next ?_
  split
  · refine SameCore.ite (fun _ => ?_) (fun _ => ?_)
    · exact SameCore.refl _
    · extract_lets +onlyGivenNames z1
      clear_value z1
      extract_lets +onlyGivenNames z2
      refine SameCore.cut (b := z2) ?_ ?_
      · unfold z2
        exact State.setInst_same ..
      · intro hz2
        extract_lets +onlyGivenNames z3
        refine SameCore.cut (b := z3) ?_ ?_
        · unfold z3
          refine (State.quiesceReport_same ..).of ?_
          exact (State.setSt_same ..).of ‹_›
        · intro hz3
          split
          · exact (State.enterReset_same ..).of ‹_›
          · refine SameCore.ite (fun _ => ?_) (fun _ => ?_)
            · exact (State.enterReset_same ..).of ‹_›
            · assumption
  · exact SameCore.refl _

theorem execInstanceResetDone_same (k : Nat) (s : State) : CoreKept s (execInstanceResetDone k s) := by
  unfold execInstanceResetDone
  extract_lets +onlyGivenNames z1
  clear_value z1
  refine CoreKept.next ?_
  refine SameCore.ite (fun _ => ?_) (fun _ => ?_)
  · exact SameCore.refl _
  · extract_lets +onlyGivenNames z2
    clear_value z2
    extract_lets +onlyGivenNames z3
    refine SameCore.cut (b := z3) ?_ ?_
    · unfold z3
      exact State.setInst_same ..
    · intro hz3
      refine (State.resetReport_same ..).of ?_
      exact (State.setSt_same ..).of ‹_›

theorem execInstConfigure_same (k : Nat) (s : State) : CoreKept s (execInstConfigure k s) := by
  unfold execInstConfigure
  refine CoreKept.next ?_
  refine SameCore.trans ?_ (State.onReq_same (h_f := ?_) ..)
  · exact SameCore.refl _
  · intro _
    intro _
    extract_lets +onlyGivenNames z1
    clear_value z1
    extract_lets +onlyGivenNames z2
    clear_value z2
    extract_lets +onlyGivenNames z3
    clear_value z3
    extract_lets +onlyGivenNames z4
    clear_value z4
    extract_lets +onlyGivenNames z5
    clear_value z5
    extract_lets +onlyGivenNames z6
    clear_value z6
    extract_lets +onlyGivenNames z7
    clear_value z7
    extract_lets +onlyGivenNames z8
    clear_value z8
    refine SameCore.ite (fun _ => ?_) (fun _ => ?_)
    · exact State.respond_same ..
    · refine SameCore.ite (fun _ => ?_) (fun _ => ?_)
      · exact State.respond_same ..
      · refine SameCore.ite (fun _ => ?_) (fun _ => ?_)
        · exact State.respond_same ..
        · refine SameCore.ite (fun _ => ?_) (fun _ => ?_)
          · exact State.respond_same ..
          · refine SameCore.ite (fun _ => ?_) (fun _ => ?_)
            · exact State.respond_same ..
            · extract_lets +onlyGivenNames z9
              refine SameCore.cut (b := z9) ?_ ?_
              · unfold z9
                exact State.setInst_same ..
              · intro hz9
                extract_lets +onlyGivenNames z10
                refine SameCore.cut (b := z10) ?_ ?_
                · unfold z10
                  exact (State.setReg_same ..).of ‹_›
                · intro hz10
                  extract_lets +onlyGivenNames z11
                  refine SameCore.cut (b := z11) ?_ ?_
                  · unfold z11
                    exact (State.respond_same ..).of ‹_›
                  · intro hz11
                    refine SameCore.ite (fun _ => ?_) (fun _ => ?_)
                    · exact (State.setSt_same ..).of ‹_›
                    · assumption

theorem execInstActivate_same (k : Nat) (s : State) : CoreKept s (execInstActivate k s) := by
  unfold execInstActivate
  refine CoreKept.next ?_
  refine SameCore.trans ?_ (State.onReq_same (h_f := ?_) ..)
  · exact SameCore.refl _
  · intro _
    intro _
    extract_lets +onlyGivenNames z1
    clear_value z1
    refine SameCore.ite (fun _ => ?_) (fun _ => ?_)
    · exact State.respond_same ..
    · refine SameCore.ite (fun _ => ?_) (fun _ => ?_)
      · exact State.respond_same ..
      · refine (State.setSt_same ..).of ?_
        exact State.respond_same ..

theorem execInstQuiesce_same (k : Nat) (s : State) : CoreKept s (execInstQuiesce k s) := by
  unfold execInstQuiesce
  refine CoreKept.next ?_
  refine SameCore.trans ?_ (State.onReq_same (h_f := ?_) ..)
  · exact SameCore.refl _
  · intro _
    intro _
    refine SameCore.ite (fun _ => ?_) (fun _ => ?_)
    · exact State.respond_same ..
    · extract_lets +onlyGivenNames z1
      clear_value z1
      extract_lets +onlyGivenNames z2
      clear_value z2
      extract_lets +onlyGivenNames z3
      clear_value z3
      extract_lets +onlyGivenNames z4
      clear_value z4
      refine SameCore.ite (fun _ => ?_) (fun _ => ?_)
      · extract_lets +onlyGivenNames z5
        clear_value z5
        exact State.respond_same ..
      · refine SameCore.foldl (fun _ _ => ?_) ?_
        · refine SameCore.ite (fun _ => ?_) (fun _ => ?_)
          · exact State.trigger_same ..
          · exact SameCore.refl _
        · exact State.respondPending_same ..

theorem State.resetRequest_same (s : State) (k : Nat) (r : Req) (remove : Bool) : SameCore s (State.resetRequest s k r remove) := by
  unfold State.resetRequest
  extract_lets +onlyGivenNames z1
  clear_value z1
  refine SameCore.ite (fun _ => ?_) (fun _ => ?_)
  · exact State.respond_same ..
  · refine SameCore.ite (fun _ => ?_) (fun _ => ?_)
    · exact State.respond_same ..
    · refine SameCore.ite (fun _ => ?_) (fun _ => ?_)
      · exact State.respond_same ..
      · refine (State.trigger_same ..).of ?_
        exact State.respondPending_same ..

theorem execInstReset_same (k : Nat) (s : State) : CoreKept s (execInstReset k s) := by
  unfold execInstReset
  refine CoreKept.next ?_
  refine SameCore.trans ?_ (State.onReq_same (h_f := ?_) ..)
  · exact SameCore.refl _
  · intro _
    intro _
    exact State.resetRequest_same ..

theorem execInstRemove_same (k : Nat) (s : State) : CoreKept s (execInstRemove k s) := by
  unfold execInstRemove
  refine CoreKept.next ?_
  refine SameCore.trans ?_ (State.onReq_same (h_f := ?_) ..)
  · exact SameCore.refl _
  · intro _
    intro _
    exact State.resetRequest_same ..

theorem execSlotAssign_same (k : Nat) (s : State) : CoreKept s (execSlotAssign k s) := by
  unfold execSlotAssign
  refine CoreKept.next ?_
  refine SameCore.trans ?_ (State.onReq_same (h_f := ?_) ..)
  · exact SameCore.refl _
  · intro _
    intro _
    extract_lets +onlyGivenNames z1
    clear_value z1
    extract_lets +onlyGivenNames z2
    clear_value z2
    extract_lets +onlyGivenNames z3
    clear_value z3
    extract_lets +onlyGivenNames z4
    clear_value z4
    refine SameCore.ite (fun _ => ?_) (fun _ => ?_)
    · exact State.respond_same ..
    · split
      · exact State.respond_same ..
      · refine SameCore.ite (fun _ => ?_) (fun _ => ?_)
        · extract_lets +onlyGivenNames z5
          refine SameCore.cut (b := z5) ?_ ?_
          · unfold z5
            refine SameCore.foldl (fun _ _ => ?_) ?_
            · extract_lets +onlyGivenNames z6
              extract_lets +onlyGivenNames z7
              refine SameCore.cut (b := z7) ?_ ?_
              · unfold z7
                exact State.setSlot_same ..
              · intro hz7
                refine SameCore.ite (fun _ => ?_) (fun _ => ?_)
                · exact (State.cause_same ..).of ‹_›
                · assumption
            · exact SameCore.refl _
          · intro hz5
            exact (State.respond_same ..).of ‹_›
        · extract_lets +onlyGivenNames z5
          clear_value z5
          extract_lets +onlyGivenNames z6
          clear_value z6
          extract_lets +onlyGivenNames z7
          refine SameCore.cut (b := z7) ?_ ?_
          · unfold z7
            refine SameCore.ite (fun _ => ?_) (fun _ => ?_)
            · exact State.setInst_same ..
            · exact SameCore.refl _
          · intro hz7
            extract_lets +onlyGivenNames z8
            refine SameCore.cut (b := z8) ?_ ?_
            · unfold z8
              refine SameCore.foldl (fun _ _ => ?_) ?_
              · extract_lets +onlyGivenNames z9
                extract_lets +onlyGivenNames z10
                refine SameCore.cut (b := z10) ?_ ?_
                · unfold z10
                  exact State.setSlot_same ..
                · intro hz10
                  refine SameCore.ite (fun _ => ?_) (fun _ => ?_)
                  · exact (State.cause_same ..).of ‹_›
                  · assumption
              · assumption
            · intro hz8
              exact (State.respond_same ..).of ‹_›

theorem execSlotScrubStart_same (n : Nat) (s : State) : CoreKept s (execSlotScrubStart n s) := by
  unfold execSlotScrubStart
  extract_lets +onlyGivenNames z1
  clear_value z1
  refine CoreKept.next ?_
  refine SameCore.ite (fun _ => ?_) (fun _ => ?_)
  · refine (State.setSlot_same ..).of ?_
    exact State.forget_same ..
  · exact SameCore.refl _

theorem execSlotScrubDone_same (n : Nat) (s : State) : CoreKept s (execSlotScrubDone n s) := by
  unfold execSlotScrubDone
  extract_lets +onlyGivenNames v
  refine CoreKept.next ?_
  refine SameCore.ite (fun _ => SameCore.refl _) (fun _ => ?_)
  extract_lets +onlyGivenNames z1 z2 z3
  have h1 : SameCore s z1 := ⟨rfl, rfl, rfl, rfl, rfl, rfl, rfl, rfl⟩
  have h2 : SameCore s z2 := h1.trans (State.setSlot_same ..)
  have h3 : SameCore s z3 := by
    unfold z3
    split
    · exact h2.trans (State.cause_same ..)
    · exact h2
  exact SameCore.ite (fun _ => h3.trans (State.cause_same ..)) (fun _ => h3)

theorem execCgrpDefine_same (k : Nat) (s : State) : CoreKept s (execCgrpDefine k s) := by
  unfold execCgrpDefine
  refine CoreKept.next ?_
  refine SameCore.trans ?_ (State.onReq_same (h_f := ?_) ..)
  · exact SameCore.refl _
  · intro _
    intro _
    extract_lets +onlyGivenNames z1
    clear_value z1
    extract_lets +onlyGivenNames z2
    clear_value z2
    refine SameCore.ite (fun _ => ?_) (fun _ => ?_)
    · exact State.respond_same ..
    · refine SameCore.ite (fun _ => ?_) (fun _ => ?_)
      · exact State.respond_same ..
      · refine SameCore.ite (fun _ => ?_) (fun _ => ?_)
        · exact State.respond_same ..
        · refine (State.respond_same ..).of ?_
          exact State.setReg_same ..

theorem execCgrpGrant_same (k : Nat) (s : State) : CoreKept s (execCgrpGrant k s) := by
  unfold execCgrpGrant
  refine CoreKept.next ?_
  refine SameCore.trans ?_ (State.onReq_same (h_f := ?_) ..)
  · exact SameCore.refl _
  · intro _
    intro _
    extract_lets +onlyGivenNames z1
    clear_value z1
    extract_lets +onlyGivenNames z2
    clear_value z2
    extract_lets +onlyGivenNames z3
    clear_value z3
    extract_lets +onlyGivenNames z4
    clear_value z4
    refine SameCore.ite (fun _ => ?_) (fun _ => ?_)
    · exact State.respond_same ..
    · refine SameCore.ite (fun _ => ?_) (fun _ => ?_)
      · exact State.respond_same ..
      · refine SameCore.ite (fun _ => ?_) (fun _ => ?_)
        · exact State.respond_same ..
        · refine (State.respond_same ..).of ?_
          exact State.setInst_same ..

theorem execHeadAssign_same (k : Nat) (s : State) : CoreKept s (execHeadAssign k s) := by
  unfold execHeadAssign
  refine CoreKept.next ?_
  refine SameCore.trans ?_ (State.onReq_same (h_f := ?_) ..)
  · exact SameCore.refl _
  · intro _
    intro _
    extract_lets +onlyGivenNames z1
    clear_value z1
    extract_lets +onlyGivenNames z2
    clear_value z2
    extract_lets +onlyGivenNames z3
    clear_value z3
    extract_lets +onlyGivenNames z4
    clear_value z4
    refine SameCore.ite (fun _ => ?_) (fun _ => ?_)
    · exact State.respond_same ..
    · refine SameCore.ite (fun _ => ?_) (fun _ => ?_)
      · exact State.respond_same ..
      · refine SameCore.ite (fun _ => ?_) (fun _ => ?_)
        · refine SameCore.ite (fun _ => ?_) (fun _ => ?_)
          · exact State.respond_same ..
          · refine (State.postEvent_same ..).of ?_
            refine (State.respond_same ..).of ?_
            exact State.setHead_same ..
        · refine SameCore.ite (fun _ => ?_) (fun _ => ?_)
          · exact State.respond_same ..
          · refine (State.releaseHead_same ..).of ?_
            exact State.respond_same ..

theorem State.setExpert_same (s : State) (a : Nat) (v : W) : SameCore s (State.setExpert s a v) := by
  unfold State.setExpert
  extract_lets +onlyGivenNames z1
  refine SameCore.cut (b := z1) ?_ ?_
  · unfold z1
    exact State.setReg_same ..
  · intro hz1
    exact SameCore.mk' ‹_› (.refl _) le_rfl

theorem execIsolationSet_same (k : Nat) (s : State) : CoreKept s (execIsolationSet k s) := by
  unfold execIsolationSet
  refine CoreKept.next ?_
  refine SameCore.trans ?_ (State.onReq_same (h_f := ?_) ..)
  · exact SameCore.refl _
  · intro _
    intro _
    extract_lets +onlyGivenNames z1
    clear_value z1
    extract_lets +onlyGivenNames z2
    clear_value z2
    extract_lets +onlyGivenNames z3
    clear_value z3
    refine SameCore.ite (fun _ => ?_) (fun _ => ?_)
    · exact State.respond_same ..
    · refine SameCore.ite (fun _ => ?_) (fun _ => ?_)
      · exact State.respond_same ..
      · refine (State.respond_same ..).of ?_
        refine (State.setExpert_same ..).of ?_
        refine SameCore.ite (fun _ => ?_) (fun _ => ?_)
        · exact State.holdEffect_same ..
        · exact SameCore.refl _

end Sys2Proof.Machine
end

