-- ==== Sys2Proof/Laws/SameMigration.lean ====
section
/-! SUPPORT. That the operations and commands of Machine/Migration.lean leave power, time, the SEC core and trim alone: one lemma for each. -/

set_option Elab.async false
namespace Sys2Proof.Machine

theorem State.onVf_same (s : State) (k : Nat) (op : Nat) (f : State → Req → State) (h_f : ∀ (x0 : State) (x1 : Req), SameCore x0 (f x0 x1)) : SameCore s (State.onVf s k op f) := by
  unfold State.onVf
  refine SameCore.trans ?_ (State.onReq_same (h_f := ?_) ..)
  · exact SameCore.refl _
  · intro _
    intro _
    refine SameCore.ite (fun _ => ?_) (fun _ => ?_)
    · exact State.respond_same ..
    · exact h_f _ _

theorem execDirtyLogStart_same (k : Nat) (fits : Bool) (s : State) : CoreKept s (execDirtyLogStart k fits s) := by
  unfold execDirtyLogStart
  refine CoreKept.next ?_
  refine SameCore.trans ?_ (State.onVf_same (h_f := ?_) ..)
  · exact SameCore.refl _
  · intro _
    intro _
    extract_lets +onlyGivenNames z1
    clear_value z1
    extract_lets +onlyGivenNames z2
    clear_value z2
    extract_lets +onlyGivenNames z3
    clear_value z3
    extract_lets +onlyGivenNames z4
    clear_value z4
    extract_lets +onlyGivenNames z5
    clear_value z5
    extract_lets +onlyGivenNames z6
    clear_value z6
    extract_lets +onlyGivenNames z7
    clear_value z7
    refine SameCore.ite (fun _ => ?_) (fun _ => ?_)
    · exact State.respond_same ..
    · refine SameCore.ite (fun _ => ?_) (fun _ => ?_)
      · exact State.respond_same ..
      · refine SameCore.ite (fun _ => ?_) (fun _ => ?_)
        · exact State.respond_same ..
        · split
          · exact State.respond_same ..
          · refine SameCore.ite (fun _ => ?_) (fun _ => ?_)
            · exact State.respond_same ..
            · extract_lets +onlyGivenNames z8
              clear_value z8
              extract_lets +onlyGivenNames z9
              refine SameCore.cut (b := z9) ?_ ?_
              · unfold z9
                exact State.setSession_same ..
              · intro hz9
                exact (State.respond_same ..).of ‹_›

theorem execDirtyHarvest_same (k : Nat) (s : State) : CoreKept s (execDirtyHarvest k s) := by
  unfold execDirtyHarvest
  refine CoreKept.next ?_
  refine SameCore.trans ?_ (State.onVf_same (h_f := ?_) ..)
  · exact SameCore.refl _
  · intro _
    intro _
    extract_lets +onlyGivenNames z1
    clear_value z1
    extract_lets +onlyGivenNames z2
    clear_value z2
    extract_lets +onlyGivenNames z3
    clear_value z3
    extract_lets +onlyGivenNames z4
    clear_value z4
    refine SameCore.ite (fun _ => ?_) (fun _ => ?_)
    · exact State.respond_same ..
    · split
      · exact State.respond_same ..
      · extract_lets +onlyGivenNames z5
        clear_value z5
        extract_lets +onlyGivenNames z6
        clear_value z6
        refine SameCore.ite (fun _ => ?_) (fun _ => ?_)
        · exact State.respond_same ..
        · extract_lets +onlyGivenNames z7
          clear_value z7
          extract_lets +onlyGivenNames z8
          clear_value z8
          extract_lets +onlyGivenNames z9
          clear_value z9
          extract_lets +onlyGivenNames z10
          refine SameCore.cut (b := z10) ?_ ?_
          · unfold z10
            exact State.setSession_same ..
          · intro hz10
            extract_lets +onlyGivenNames z11
            clear_value z11
            extract_lets +onlyGivenNames z12
            clear_value z12
            extract_lets +onlyGivenNames z13
            refine SameCore.cut (b := z13) ?_ ?_
            · unfold z13
              exact (State.respondPending_same ..).of ‹_›
            · intro hz13
              extract_lets +onlyGivenNames z14
              refine SameCore.cut (b := z14) ?_ ?_
              · unfold z14
                refine SameCore.ite (fun _ => ?_) (fun _ => ?_)
                · exact (State.hostWrite_same ..).of ‹_›
                · assumption
              · intro hz14
                refine SameCore.ite (fun _ => ?_) (fun _ => ?_)
                · exact (State.hostWrite_same ..).of ‹_›
                · assumption

theorem execDirtyHarvestDone_same (k : Nat) (s : State) : CoreKept s (execDirtyHarvestDone k s) := by
  unfold execDirtyHarvestDone
  refine CoreKept.next ?_
  split
  · refine SameCore.ite (fun _ => ?_) (fun _ => ?_)
    · extract_lets +onlyGivenNames z1
      refine SameCore.cut (b := z1) ?_ ?_
      · unfold z1
        split
        · exact State.setSession_same ..
        · exact SameCore.refl _
      · intro hz1
        exact (State.finishLong_same ..).of ‹_›
    · exact SameCore.refl _
  · exact SameCore.refl _

theorem execDirtyLogStop_same (k : Nat) (s : State) : CoreKept s (execDirtyLogStop k s) := by
  unfold execDirtyLogStop
  refine CoreKept.next ?_
  refine SameCore.trans ?_ (State.onVf_same (h_f := ?_) ..)
  · exact SameCore.refl _
  · intro _
    intro _
    refine SameCore.ite (fun _ => ?_) (fun _ => ?_)
    · exact State.respond_same ..
    · split
      · exact State.respond_same ..
      · refine (State.respond_same ..).of ?_
        exact State.setSession_same ..

theorem execShadowSize_same (k : Nat) (s : State) : CoreKept s (execShadowSize k s) := by
  unfold execShadowSize
  refine CoreKept.next ?_
  refine SameCore.trans ?_ (State.onVf_same (h_f := ?_) ..)
  · exact SameCore.refl _
  · intro _
    intro _
    refine SameCore.ite (fun _ => ?_) (fun _ => ?_)
    · exact State.respond_same ..
    · refine SameCore.ite (fun _ => ?_) (fun _ => ?_)
      · exact State.respond_same ..
      · exact State.respond_same ..

theorem State.shadowBytes_same (s : State) (t : Nat) (minor : Nat) (size : Nat) (lossy : Bool) : SameCore s (State.shadowBytes s t minor size lossy).1 := by
  unfold State.shadowBytes
  extract_lets +onlyGivenNames z1
  clear_value z1
  extract_lets +onlyGivenNames z2
  clear_value z2
  extract_lets +onlyGivenNames z3
  clear_value z3
  dsimp -zeta -zetaHave only
  extract_lets +onlyGivenNames z4
  clear_value z4
  refine SameCore.mk_fst ?_
  refine (State.drawBytes_same ..).of ?_
  exact State.drawBytes_same ..

theorem execShadowSave_same (k : Nat) (s : State) : CoreKept s (execShadowSave k s) := by
  unfold execShadowSave
  refine CoreKept.next ?_
  refine SameCore.trans ?_ (State.onVf_same (h_f := ?_) ..)
  · exact SameCore.refl _
  · intro _
    intro _
    extract_lets +onlyGivenNames z1
    clear_value z1
    extract_lets +onlyGivenNames z2
    clear_value z2
    extract_lets +onlyGivenNames z3
    clear_value z3
    refine SameCore.ite (fun _ => ?_) (fun _ => ?_)
    · exact State.respond_same ..
    · refine SameCore.ite (fun _ => ?_) (fun _ => ?_)
      · exact State.respond_same ..
      · refine SameCore.ite (fun _ => ?_) (fun _ => ?_)
        · exact State.respond_same ..
        · refine SameCore.ite (fun _ => ?_) (fun _ => ?_)
          · exact State.respond_same ..
          · split
            · exact State.respond_same ..
            · extract_lets +onlyGivenNames z4
              clear_value z4
              dsimp -zeta -zetaHave only
              extract_lets +onlyGivenNames z5
              clear_value z5
              extract_lets +onlyGivenNames z6
              clear_value z6
              extract_lets +onlyGivenNames z7
              refine SameCore.cut (b := z7) ?_ ?_
              · unfold z7
                refine (State.respondPending_same ..).of ?_
                exact State.shadowBytes_same ..
              · intro hz7
                refine (State.hostWrite_same ..).of ?_
                exact (State.setSt_same ..).of ‹_›

theorem execShadowSaveDone_same (k : Nat) (s : State) : CoreKept s (execShadowSaveDone k s) := by
  unfold execShadowSaveDone
  refine CoreKept.next ?_
  split
  · refine SameCore.ite (fun _ => ?_) (fun _ => ?_)
    · exact State.finishLong_same ..
    · exact SameCore.refl _
  · exact SameCore.refl _

theorem State.loadQueues_same (s : State) (t : Nat) (m : Shadow) (hw : List Nat) (res : Nat → Option Nat) : SameCore s (State.loadQueues s t m hw res) := by
  unfold State.loadQueues
  refine SameCore.foldl (fun _ _ => ?_) ?_
  · dsimp -zeta -zetaHave only
    exact State.setQueue_same ..
  · exact SameCore.refl _

theorem State.loadBlocks_same (s : State) (t : Nat) (minor : Nat) (l : List (Nat × List SyncObj)) (bs : List Nat) : SameCore s (State.loadBlocks s t minor l bs) := by
  unfold State.loadBlocks
  refine SameCore.foldl (fun _ _ => ?_) ?_
  · dsimp -zeta -zetaHave only
    extract_lets +onlyGivenNames z1
    clear_value z1
    extract_lets +onlyGivenNames z2
    refine SameCore.cut (b := z2) ?_ ?_
    · unfold z2
      exact SameCore.mk' (SameCore.refl _) (.refl _) le_rfl
    · intro hz2
      refine SameCore.foldl (fun _ _ => ?_) ?_
      · exact State.setObj_same ..
      · assumption
  · exact SameCore.refl _

theorem State.loadLaunches_same (s : State) (t : Nat) (m : Shadow) (hw : List Nat) (res : Nat → Option Nat) : SameCore s (State.loadLaunches s t m hw res) := by
  unfold State.loadLaunches
  extract_lets +onlyGivenNames z1
  clear_value z1
  extract_lets +onlyGivenNames z2
  clear_value z2
  extract_lets +onlyGivenNames z3
  refine SameCore.cut (b := z3) ?_ ?_
  · unfold z3
    exact SameCore.mk' (SameCore.refl _) (.refl _) le_rfl
  · intro hz3
    extract_lets +onlyGivenNames z4
    refine SameCore.cut (b := z4) ?_ ?_
    · unfold z4
      refine SameCore.foldl (fun _ _ => ?_) ?_
      · dsimp -zeta -zetaHave only
        exact State.setLaunch_same ..
      · assumption
    · intro hz4
      extract_lets +onlyGivenNames z5
      refine SameCore.cut (b := z5) ?_ ?_
      · unfold z5
        exact SameCore.mk' ‹_› (.refl _) le_rfl
      · intro hz5
        extract_lets +onlyGivenNames z6
        clear_value z6
        extract_lets +onlyGivenNames z7
        refine SameCore.cut (b := z7) ?_ ?_
        · unfold z7
          refine SameCore.foldl (fun _ _ => ?_) ?_
          · dsimp -zeta -zetaHave only
            exact State.setCtx_same ..
          · assumption
        · intro hz7
          extract_lets +onlyGivenNames z8
          clear_value z8
          exact SameCore.mk' ‹_› (.refl _) le_rfl

theorem State.putExpert_same (s : State) (base : Nat) (a : Nat) (v : W) : SameCore s (State.putExpert s base a v) := by
  unfold State.putExpert
  refine SameCore.ite (fun _ => ?_) (fun _ => ?_)
  · exact State.setExpert_same ..
  · exact SameCore.mk' (SameCore.refl _) (.refl _) le_rfl

theorem State.loadRegs_same (s : State) (t : Nat) (m : Shadow) : SameCore s (State.loadRegs s t m) := by
  unfold State.loadRegs
  extract_lets +onlyGivenNames z1
  refine SameCore.cut (b := z1) ?_ ?_
  · unfold z1
    refine (State.putExpert_same ..).of ?_
    exact State.setReg_same ..
  · intro hz1
    extract_lets +onlyGivenNames z2
    refine SameCore.cut (b := z2) ?_ ?_
    · unfold z2
      exact (State.setReg_same ..).of ‹_›
    · intro hz2
      extract_lets +onlyGivenNames z3
      refine SameCore.cut (b := z3) ?_ ?_
      · unfold z3
        refine SameCore.foldl (fun _ _ => ?_) ?_
        · dsimp -zeta -zetaHave only
          exact State.setReg_same ..
        · assumption
      · intro hz3
        extract_lets +onlyGivenNames z4
        refine SameCore.cut (b := z4) ?_ ?_
        · unfold z4
          refine SameCore.foldl (fun _ _ => ?_) ?_
          · dsimp -zeta -zetaHave only
            exact State.setReg_same ..
          · assumption
        · intro hz4
          extract_lets +onlyGivenNames z5
          extract_lets +onlyGivenNames z6
          refine SameCore.cut (b := z6) ?_ ?_
          · unfold z6
            exact SameCore.mk' ‹_› (.refl _) le_rfl
          · intro hz6
            refine SameCore.ite (fun _ => ?_) (fun _ => ?_)
            · refine (State.setReg_same ..).of ?_
              exact (State.setRings_same ..).of ‹_›
            · exact (State.setReg_same ..).of ‹_›

theorem State.loadShadow_same (s : State) (t : Nat) (m : Shadow) : SameCore s (State.loadShadow s t m).1 := by
  unfold State.loadShadow
  extract_lets +onlyGivenNames z1
  clear_value z1
  extract_lets +onlyGivenNames z2
  clear_value z2
  extract_lets +onlyGivenNames z3
  clear_value z3
  extract_lets +onlyGivenNames z4
  clear_value z4
  extract_lets +onlyGivenNames z5
  clear_value z5
  extract_lets +onlyGivenNames z6
  clear_value z6
  extract_lets +onlyGivenNames z7
  clear_value z7
  extract_lets +onlyGivenNames z8
  refine SameCore.cut (b := z8) ?_ ?_
  · unfold z8
    exact State.setInst_same ..
  · intro hz8
    extract_lets +onlyGivenNames z9
    clear_value z9
    extract_lets +onlyGivenNames z10
    refine SameCore.cut (b := z10) ?_ ?_
    · unfold z10
      refine SameCore.foldl (fun _ _ => ?_) ?_
      · dsimp -zeta -zetaHave only
        exact State.setResv_same ..
      · assumption
    · intro hz10
      extract_lets +onlyGivenNames z11
      refine SameCore.cut (b := z11) ?_ ?_
      · unfold z11
        exact SameCore.mk' ‹_› (.refl _) le_rfl
      · intro hz11
        extract_lets +onlyGivenNames z12
        refine SameCore.cut (b := z12) ?_ ?_
        · unfold z12
          refine (State.loadLaunches_same ..).of ?_
          refine (State.loadBlocks_same ..).of ?_
          exact (State.loadQueues_same ..).of ‹_›
        · intro hz12
          refine SameCore.mk_fst ?_
          refine (State.loadRegs_same ..).of ?_
          exact (State.dropTlb_same ..).of ‹_›

theorem execShadowRestore_same (k : Nat) (img : Option Shadow) (cause : Nat) (s : State) : CoreKept s (execShadowRestore k img cause s) := by
  unfold execShadowRestore
  refine CoreKept.next ?_
  refine SameCore.trans ?_ (State.onVf_same (h_f := ?_) ..)
  · exact SameCore.refl _
  · intro _
    intro _
    refine SameCore.ite (fun _ => ?_) (fun _ => ?_)
    · exact State.respond_same ..
    · split
      · exact State.respond_same ..
      · split
        · exact State.respond_same ..
        · exact State.respondPending_same ..

theorem execShadowRestoreDone_same (k : Nat) (s : State) : CoreKept s (execShadowRestoreDone k s) := by
  unfold execShadowRestoreDone
  refine CoreKept.next ?_
  split
  · split
    · extract_lets +onlyGivenNames z1
      clear_value z1
      split
      · exact State.finishLong_same ..
      · dsimp -zeta -zetaHave only
        extract_lets +onlyGivenNames z2
        clear_value z2
        extract_lets +onlyGivenNames z3
        refine SameCore.cut (b := z3) ?_ ?_
        · unfold z3
          refine (State.setRings_same ..).of ?_
          exact State.loadShadow_same ..
        · intro hz3
          refine (State.finishLong_same ..).of ?_
          exact (State.setSt_same ..).of ‹_›
    · exact SameCore.refl _
  · exact SameCore.refl _

end Sys2Proof.Machine
end

