-- ==== Sys2Proof/Laws/SameRequests.lean ====
section
/-! SUPPORT. That the operations and commands of Machine/Requests.lean leave power, time, the SEC core and trim alone: one lemma for each. -/

set_option Elab.async false
namespace Sys2Proof.Machine

theorem execQueueCreate_same (k : Nat) (want : Nat) (s : State) : CoreKept s (execQueueCreate k want s) := by
  unfold execQueueCreate
  refine CoreKept.next ?_
  refine SameCore.trans ?_ (State.onReq_same (h_f := ?_) ..)
  · exact SameCore.refl _
  · intro _
    intro _
    extract_lets +onlyGivenNames z1
    clear_value z1
    extract_lets +onlyGivenNames z2
    clear_value z2
    extract_lets +onlyGivenNames z3
    clear_value z3
    extract_lets +onlyGivenNames z4
    clear_value z4
    extract_lets +onlyGivenNames z5
    clear_value z5
    extract_lets +onlyGivenNames z6
    clear_value z6
    extract_lets +onlyGivenNames z7
    clear_value z7
    extract_lets +onlyGivenNames z8
    clear_value z8
    refine SameCore.ite (fun _ => ?_) (fun _ => ?_)
    · exact State.respond_same ..
    · refine SameCore.ite (fun _ => ?_) (fun _ => ?_)
      · exact State.respond_same ..
      · refine SameCore.ite (fun _ => ?_) (fun _ => ?_)
        · exact State.respond_same ..
        · refine SameCore.ite (fun _ => ?_) (fun _ => ?_)
          · exact State.respond_same ..
          · refine SameCore.ite (fun _ => ?_) (fun _ => ?_)
            · exact State.respond_same ..
            · refine SameCore.ite (fun _ => ?_) (fun _ => ?_)
              · exact State.respond_same ..
              · refine SameCore.ite (fun _ => ?_) (fun _ => ?_)
                · exact State.respond_same ..
                · split
                  · exact State.respond_same ..
                  · extract_lets +onlyGivenNames z9
                    clear_value z9
                    extract_lets +onlyGivenNames z10
                    clear_value z10
                    extract_lets +onlyGivenNames z11
                    refine SameCore.cut (b := z11) ?_ ?_
                    · unfold z11
                      exact State.setQueue_same ..
                    · intro hz11
                      exact (State.respond_same ..).of ‹_›

theorem State.dropFetched_same (s : State) (h : Nat) : SameCore s (State.dropFetched s h) := by
  unfold State.dropFetched
  extract_lets +onlyGivenNames z1
  refine SameCore.cut (b := z1) ?_ ?_
  · unfold z1
    split
    · exact State.withdraw_same ..
    · exact SameCore.refl _
  · intro hz1
    extract_lets +onlyGivenNames z2
    refine SameCore.cut (b := z2) ?_ ?_
    · unfold z2
      exact (State.dropCmds_same ..).of ‹_›
    · intro hz2
      extract_lets +onlyGivenNames z3
      clear_value z3
      extract_lets +onlyGivenNames z4
      refine SameCore.cut (b := z4) ?_ ?_
      · unfold z4
        exact (State.setQueue_same ..).of ‹_›
      · intro hz4
        exact SameCore.mk' ‹_› (.refl _) le_rfl

theorem State.ackQueue_same (s : State) (h : Nat) : SameCore s (State.ackQueue s h) := by
  unfold State.ackQueue
  exact State.ackWhere_same ..

theorem execQueueDestroy_same (k : Nat) (s : State) : CoreKept s (execQueueDestroy k s) := by
  unfold execQueueDestroy
  refine CoreKept.next ?_
  refine SameCore.trans ?_ (State.onReq_same (h_f := ?_) ..)
  · exact SameCore.refl _
  · intro _
    intro _
    refine SameCore.ite (fun _ => ?_) (fun _ => ?_)
    · exact State.respond_same ..
    · split
      · exact State.respond_same ..
      · extract_lets +onlyGivenNames z1
        clear_value z1
        refine SameCore.ite (fun _ => ?_) (fun _ => ?_)
        · exact State.respond_same ..
        · refine SameCore.ite (fun _ => ?_) (fun _ => ?_)
          · exact State.respond_same ..
          · extract_lets +onlyGivenNames z2
            refine SameCore.cut (b := z2) ?_ ?_
            · unfold z2
              split
              · extract_lets +onlyGivenNames z3
                clear_value z3
                exact State.setResv_same ..
              · exact SameCore.refl _
            · intro hz2
              extract_lets +onlyGivenNames z3
              refine SameCore.cut (b := z3) ?_ ?_
              · unfold z3
                refine (State.setQueue_same ..).of ?_
                exact (State.dropFetched_same ..).of ‹_›
              · intro hz3
                extract_lets +onlyGivenNames z4
                refine SameCore.cut (b := z4) ?_ ?_
                · unfold z4
                  exact SameCore.mk' ‹_› (.refl _) le_rfl
                · intro hz4
                  refine (State.respond_same ..).of ?_
                  exact (State.ackQueue_same ..).of ‹_›

theorem State.restart_same (s : State) (h mode : Nat) (t : State) (ht : State.restart s h mode = some t) : SameCore s t := by
  have hc : ∀ q, SameCore s ((s.dropFetched h).setQueue h q) := fun q =>
    (State.dropFetched_same s h).trans (State.setQueue_same ..)
  unfold State.restart at ht
  dsimp only at ht
  split at ht
  · cases ht; exact State.setQueue_same ..
  · cases ht; exact hc _
  · cases ht; exact hc _
  · cases ht; exact hc _
  · cases ht; exact hc _
  · cases ht; exact hc _
  · cases ht; exact hc _
  · cases ht; exact hc _
  · cases ht

theorem execQueueRestart_same (k : Nat) (s : State) : CoreKept s (execQueueRestart k s) := by
  unfold execQueueRestart
  refine CoreKept.next ?_
  refine SameCore.trans ?_ (State.onReq_same (h_f := ?_) ..)
  · exact SameCore.refl _
  · intro _
    intro _
    refine SameCore.ite (fun _ => ?_) (fun _ => ?_)
    · exact State.respond_same ..
    · split
      · exact State.respond_same ..
      · split
        · exact State.respond_same ..
        · extract_lets +onlyGivenNames z1
          clear_value z1
          refine (State.kick_same ..).of ?_
          refine (State.fetch_same ..).of ?_
          refine (State.respond_same ..).of ?_
          refine (State.ackQueue_same ..).of ?_
          exact State.restart_same (ht := by assumption) ..

theorem execQueueModify_same (k : Nat) (s : State) : CoreKept s (execQueueModify k s) := by
  unfold execQueueModify
  refine CoreKept.next ?_
  refine SameCore.trans ?_ (State.onReq_same (h_f := ?_) ..)
  · exact SameCore.refl _
  · intro _
    intro _
    extract_lets +onlyGivenNames z1
    clear_value z1
    extract_lets +onlyGivenNames z2
    clear_value z2
    refine SameCore.ite (fun _ => ?_) (fun _ => ?_)
    · exact State.respond_same ..
    · split
      · exact State.respond_same ..
      · extract_lets +onlyGivenNames z3
        clear_value z3
        refine SameCore.ite (fun _ => ?_) (fun _ => ?_)
        · exact State.respond_same ..
        · refine SameCore.ite (fun _ => ?_) (fun _ => ?_)
          · exact State.respond_same ..
          · refine SameCore.ite (fun _ => ?_) (fun _ => ?_)
            · exact State.respond_same ..
            · refine (State.respond_same ..).of ?_
              exact State.setQueue_same ..

theorem State.doorbellDrop_same (s : State) (k : Nat) (loc : Nat) : SameCore s (State.doorbellDrop s k loc) := by
  unfold State.doorbellDrop
  refine (State.cause_same ..).of ?_
  refine (State.capture31_same ..).of ?_
  exact State.count_same ..

theorem State.doorbell_same (s : State) (k : Nat) (loc : Nat) (new : W) : SameCore s (State.doorbell s k loc new) := by
  unfold State.doorbell
  extract_lets +onlyGivenNames z1
  clear_value z1
  refine SameCore.ite (fun _ => ?_) (fun _ => ?_)
  · exact SameCore.refl _
  · split
    · exact State.doorbellDrop_same ..
    · extract_lets +onlyGivenNames z2
      clear_value z2
      extract_lets +onlyGivenNames z3
      clear_value z3
      refine SameCore.ite (fun _ => ?_) (fun _ => ?_)
      · refine (State.fetch_same ..).of ?_
        refine (State.setQueue_same ..).of ?_
        exact State.count_same ..
      · refine SameCore.ite (fun _ => ?_) (fun _ => ?_)
        · exact State.doorbellDrop_same ..
        · exact State.queueFault_same ..

theorem execSyncBlockAlloc_same (k : Nat) (want : Nat) (s : State) : CoreKept s (execSyncBlockAlloc k want s) := by
  unfold execSyncBlockAlloc
  refine CoreKept.next ?_
  refine SameCore.trans ?_ (State.onReq_same (h_f := ?_) ..)
  · exact SameCore.refl _
  · intro _
    intro _
    extract_lets +onlyGivenNames z1
    clear_value z1
    extract_lets +onlyGivenNames z2
    clear_value z2
    extract_lets +onlyGivenNames z3
    clear_value z3
    extract_lets +onlyGivenNames z4
    clear_value z4
    refine SameCore.ite (fun _ => ?_) (fun _ => ?_)
    · exact State.respond_same ..
    · refine SameCore.ite (fun _ => ?_) (fun _ => ?_)
      · exact State.respond_same ..
      · refine SameCore.ite (fun _ => ?_) (fun _ => ?_)
        · exact State.respond_same ..
        · refine SameCore.ite (fun _ => ?_) (fun _ => ?_)
          · exact State.respond_same ..
          · cases (pickFree 256 (if z3 = 65535 then 256 else z3) fun x => if z3 = 65535 then z4 x else x != z3)
            · dsimp -zeta -zetaHave only
              exact State.respond_same ..
            · split
              · refine (State.respond_same ..).of ?_
                exact SameCore.mk' (SameCore.refl _) (.refl _) le_rfl
              · exact State.respond_same ..

theorem execSyncBlockFree_same (k : Nat) (s : State) : CoreKept s (execSyncBlockFree k s) := by
  unfold execSyncBlockFree
  refine CoreKept.next ?_
  refine SameCore.trans ?_ (State.onReq_same (h_f := ?_) ..)
  · exact SameCore.refl _
  · intro _
    intro _
    refine SameCore.ite (fun _ => ?_) (fun _ => ?_)
    · exact State.respond_same ..
    · split
      · exact State.respond_same ..
      · refine SameCore.ite (fun _ => ?_) (fun _ => ?_)
        · exact State.respond_same ..
        · refine (State.respond_same ..).of ?_
          exact SameCore.mk' (SameCore.refl _) (.refl _) le_rfl

theorem State.forceObj_same (s : State) (i : Nat) (act : Nat) (v : Nat) : SameCore s (State.forceObj s i act v).1 := by
  unfold State.forceObj
  extract_lets +onlyGivenNames z1
  clear_value z1
  extract_lets +onlyGivenNames z2
  clear_value z2
  refine SameCore.ite_fst (fun _ => ?_) (fun _ => ?_)
  · refine (State.releaseBarrier_same ..).of ?_
    exact State.setObj_same ..
  · refine (State.evaluate_same ..).of ?_
    exact State.setObj_same ..

theorem execSyncForce_same (k : Nat) (s : State) : CoreKept s (execSyncForce k s) := by
  unfold execSyncForce
  refine CoreKept.next ?_
  refine SameCore.trans ?_ (State.onReq_same (h_f := ?_) ..)
  · exact SameCore.refl _
  · intro _
    intro _
    extract_lets +onlyGivenNames z1
    clear_value z1
    extract_lets +onlyGivenNames z2
    clear_value z2
    extract_lets +onlyGivenNames z3
    clear_value z3
    extract_lets +onlyGivenNames z4
    clear_value z4
    refine SameCore.ite (fun _ => ?_) (fun _ => ?_)
    · exact State.respond_same ..
    · refine SameCore.ite (fun _ => ?_) (fun _ => ?_)
      · exact State.respond_same ..
      · split
        · exact State.respond_same ..
        · extract_lets +onlyGivenNames z5
          clear_value z5
          extract_lets +onlyGivenNames z6
          clear_value z6
          refine SameCore.ite (fun _ => ?_) (fun _ => ?_)
          · exact State.respond_same ..
          · dsimp -zeta -zetaHave only
            extract_lets +onlyGivenNames z7
            refine SameCore.cut (b := z7) ?_ ?_
            · unfold z7
              refine (State.cause_same ..).of ?_
              refine (State.syncEvent_same ..).of ?_
              refine (State.count_same ..).of ?_
              exact State.forceObj_same ..
            · intro hz7
              extract_lets +onlyGivenNames z8
              refine SameCore.cut (b := z8) ?_ ?_
              · unfold z8
                refine (State.raise_same ..).of ?_
                exact (State.logRec_same ..).of ‹_›
              · intro hz8
                exact (State.respond_same ..).of ‹_›

theorem State.svOp_same (s : State) (k : Nat) (word : W64) (ag : Agent) : SameCore s (State.svOp s k word ag) := by
  unfold State.svOp
  extract_lets +onlyGivenNames z1
  clear_value z1
  extract_lets +onlyGivenNames z2
  clear_value z2
  extract_lets +onlyGivenNames z3
  clear_value z3
  refine SameCore.ite (fun _ => ?_) (fun _ => ?_)
  · exact SameCore.refl _
  · refine SameCore.ite (fun _ => ?_) (fun _ => ?_)
    · exact State.rsvdValue_same ..
    · exact State.sendOp_same ..

theorem execAspaceSet_same (k : Nat) (s : State) : CoreKept s (execAspaceSet k s) := by
  unfold execAspaceSet
  refine CoreKept.next ?_
  refine SameCore.trans ?_ (State.onReq_same (h_f := ?_) ..)
  · exact SameCore.refl _
  · intro _
    intro _
    extract_lets +onlyGivenNames z1
    clear_value z1
    extract_lets +onlyGivenNames z2
    clear_value z2
    extract_lets +onlyGivenNames z3
    clear_value z3
    refine SameCore.ite (fun _ => ?_) (fun _ => ?_)
    · exact State.respond_same ..
    · refine SameCore.ite (fun _ => ?_) (fun _ => ?_)
      · exact State.respond_same ..
      · refine SameCore.ite (fun _ => ?_) (fun _ => ?_)
        · exact State.respond_same ..
        · refine (State.respond_same ..).of ?_
          refine (State.dropTlb_same ..).of ?_
          exact State.setInst_same ..

theorem State.acceptBeacon_same (s : State) (b : Nat) (c : BcnCfg) : SameCore s (State.acceptBeacon s b c) := by
  unfold State.acceptBeacon
  extract_lets +onlyGivenNames z1
  clear_value z1
  refine SameCore.ite (fun _ => ?_) (fun _ => ?_)
  · exact State.setBeacon_same ..
  · refine SameCore.ite (fun _ => ?_) (fun _ => ?_)
    · exact SameCore.refl _
    · refine (State.latchRange_same ..).of ?_
      exact State.setBeacon_same ..

theorem execBeaconConfig_same (k : Nat) (s : State) : CoreKept s (execBeaconConfig k s) := by
  unfold execBeaconConfig
  refine CoreKept.next ?_
  refine SameCore.trans ?_ (State.onReq_same (h_f := ?_) ..)
  · exact SameCore.refl _
  · intro _
    intro _
    extract_lets +onlyGivenNames z1
    clear_value z1
    extract_lets +onlyGivenNames z2
    clear_value z2
    extract_lets +onlyGivenNames z3
    clear_value z3
    extract_lets +onlyGivenNames z4
    extract_lets +onlyGivenNames z5
    clear_value z5
    extract_lets +onlyGivenNames z6
    clear_value z6
    extract_lets +onlyGivenNames z7
    clear_value z7
    refine SameCore.ite (fun _ => ?_) (fun _ => ?_)
    · exact State.respond_same ..
    · refine SameCore.ite (fun _ => ?_) (fun _ => ?_)
      · exact State.respond_same ..
      · extract_lets +onlyGivenNames z8
        clear_value z8
        refine SameCore.ite (fun _ => ?_) (fun _ => ?_)
        · exact State.respond_same ..
        · refine SameCore.ite (fun _ => ?_) (fun _ => ?_)
          · exact State.respond_same ..
          · refine SameCore.ite (fun _ => ?_) (fun _ => ?_)
            · exact State.respond_same ..
            · refine (State.respond_same ..).of ?_
              exact State.acceptBeacon_same ..

theorem execReserve_same (k : Nat) (want : Nat) (s : State) : CoreKept s (execReserve k want s) := by
  unfold execReserve
  refine CoreKept.next ?_
  refine SameCore.trans ?_ (State.onReq_same (h_f := ?_) ..)
  · exact SameCore.refl _
  · intro _
    intro _
    extract_lets +onlyGivenNames z1
    clear_value z1
    extract_lets +onlyGivenNames z2
    clear_value z2
    extract_lets +onlyGivenNames z3
    clear_value z3
    extract_lets +onlyGivenNames z4
    clear_value z4
    extract_lets +onlyGivenNames z5
    clear_value z5
    extract_lets +onlyGivenNames z6
    clear_value z6
    extract_lets +onlyGivenNames z7
    clear_value z7
    extract_lets +onlyGivenNames z8
    clear_value z8
    extract_lets +onlyGivenNames z9
    clear_value z9
    refine SameCore.ite (fun _ => ?_) (fun _ => ?_)
    · exact State.respond_same ..
    · refine SameCore.ite (fun _ => ?_) (fun _ => ?_)
      · exact State.respond_same ..
      · refine SameCore.ite (fun _ => ?_) (fun _ => ?_)
        · exact State.respond_same ..
        · refine SameCore.ite (fun _ => ?_) (fun _ => ?_)
          · exact State.respond_same ..
          · split
            · exact State.respond_same ..
            · refine SameCore.ite (fun _ => ?_) (fun _ => ?_)
              · exact State.respond_same ..
              · refine SameCore.ite (fun _ => ?_) (fun _ => ?_)
                · exact State.respond_same ..
                · refine SameCore.ite (fun _ => ?_) (fun _ => ?_)
                  · exact State.respond_same ..
                  · refine SameCore.ite (fun _ => ?_) (fun _ => ?_)
                    · exact State.respond_same ..
                    · split
                      · exact State.respond_same ..
                      · extract_lets +onlyGivenNames z10
                        refine SameCore.cut (b := z10) ?_ ?_
                        · unfold z10
                          refine SameCore.foldl (fun _ _ => ?_) ?_
                          · exact State.setQueue_same ..
                          · exact State.setResv_same ..
                        · intro hz10
                          exact (State.respond_same ..).of ‹_›

theorem execReserveRelease_same (k : Nat) (s : State) : CoreKept s (execReserveRelease k s) := by
  unfold execReserveRelease
  refine CoreKept.next ?_
  refine SameCore.trans ?_ (State.onReq_same (h_f := ?_) ..)
  · exact SameCore.refl _
  · intro _
    intro _
    extract_lets +onlyGivenNames z1
    clear_value z1
    extract_lets +onlyGivenNames z2
    clear_value z2
    refine SameCore.ite (fun _ => ?_) (fun _ => ?_)
    · exact State.respond_same ..
    · refine SameCore.ite (fun _ => ?_) (fun _ => ?_)
      · exact State.respond_same ..
      · extract_lets +onlyGivenNames z3
        refine SameCore.cut (b := z3) ?_ ?_
        · unfold z3
          refine SameCore.ite (fun _ => ?_) (fun _ => ?_)
          · exact State.resvChanged_same ..
          · exact SameCore.refl _
        · intro hz3
          refine (State.respond_same ..).of ?_
          exact (State.freeResv_same ..).of ‹_›

theorem execReceiptStart_same (k : Nat) (s : State) : CoreKept s (execReceiptStart k s) := by
  unfold execReceiptStart
  refine CoreKept.next ?_
  refine SameCore.trans ?_ (State.onReq_same (h_f := ?_) ..)
  · exact SameCore.refl _
  · intro _
    intro _
    extract_lets +onlyGivenNames z1
    clear_value z1
    extract_lets +onlyGivenNames z2
    clear_value z2
    extract_lets +onlyGivenNames z3
    clear_value z3
    extract_lets +onlyGivenNames z4
    clear_value z4
    extract_lets +onlyGivenNames z5
    clear_value z5
    refine SameCore.ite (fun _ => ?_) (fun _ => ?_)
    · exact State.respond_same ..
    · refine SameCore.ite (fun _ => ?_) (fun _ => ?_)
      · exact State.respond_same ..
      · refine SameCore.ite (fun _ => ?_) (fun _ => ?_)
        · exact State.respond_same ..
        · dsimp -zeta -zetaHave only
          refine SameCore.ite (fun _ => ?_) (fun _ => ?_)
          · refine (State.respond_same ..).of ?_
            exact State.segs_same ..
          · refine SameCore.ite (fun _ => ?_) (fun _ => ?_)
            · refine (State.respond_same ..).of ?_
              exact State.segs_same ..
            · extract_lets +onlyGivenNames z6
              clear_value z6
              refine (State.respond_same ..).of ?_
              refine (State.setHead_same ..).of ?_
              exact State.segs_same ..

theorem execReceiptStop_same (k : Nat) (s : State) : CoreKept s (execReceiptStop k s) := by
  unfold execReceiptStop
  refine CoreKept.next ?_
  refine SameCore.trans ?_ (State.onReq_same (h_f := ?_) ..)
  · exact SameCore.refl _
  · intro _
    intro _
    extract_lets +onlyGivenNames z1
    clear_value z1
    refine SameCore.ite (fun _ => ?_) (fun _ => ?_)
    · exact State.respond_same ..
    · refine SameCore.ite (fun _ => ?_) (fun _ => ?_)
      · exact State.respond_same ..
      · extract_lets +onlyGivenNames z2
        clear_value z2
        refine (State.respond_same ..).of ?_
        exact State.setHead_same ..

end Sys2Proof.Machine
end

