-- ==== Sys2Proof/Laws/SameResets.lean ====
section
/-! SUPPORT. That the operations and commands of Machine/Resets.lean leave power, time, the SEC core and trim alone: one lemma for each. -/

set_option Elab.async false
namespace Sys2Proof.Machine

theorem State.setFw_same (s : State) (st : FwSt) : SameCore s (State.setFw s st) := by
  unfold State.setFw
  refine SameCore.ite (fun _ => ?_) (fun _ => ?_)
  · exact SameCore.refl _
  · refine (State.cause_same ..).of ?_
    exact SameCore.mk' (SameCore.refl _) (.refl _) le_rfl

theorem State.abandonFw_same (s : State) : SameCore s (State.abandonFw s) := by
  unfold State.abandonFw
  extract_lets +onlyGivenNames z1
  clear_value z1
  refine (State.setFw_same ..).of ?_
  exact SameCore.mk' (SameCore.refl _) (.refl _) le_rfl

theorem State.cutAll_same (s : State) : SameCore s (State.cutAll s) := by
  unfold State.cutAll
  refine SameCore.foldl (fun _ _ => ?_) ?_
  · exact State.moverCut_same ..
  · exact SameCore.refl _

theorem State.setRegs_same (s : State) (a : Nat) (l : List W) :
    SameCore s (State.setRegs s a l) := by
  induction l generalizing s a with
  | nil => exact SameCore.refl _
  | cons p l ih =>
    unfold State.setRegs
    refine (ih ..).of ?_
    exact State.setReg_same ..

theorem State.resetNow_same (s : State) (cause : Nat) (k : Nat) : SameCore s (State.resetNow s cause k) := by
  unfold State.resetNow
  extract_lets +onlyGivenNames z1
  refine SameCore.cut (b := z1) ?_ ?_
  · unfold z1
    refine (State.closeRings_same ..).of ?_
    exact State.resetInst_same ..
  · intro hz1
    extract_lets +onlyGivenNames z2
    clear_value z2
    extract_lets +onlyGivenNames z3
    refine SameCore.cut (b := z3) ?_ ?_
    · unfold z3
      exact (State.setInst_same ..).of ‹_›
    · intro hz3
      extract_lets +onlyGivenNames z4
      clear_value z4
      refine SameCore.ite (fun _ => ?_) (fun _ => ?_)
      · assumption
      · exact (State.setSt_same ..).of ‹_›

theorem State.resetAll_same (s : State) (cause : Nat) : SameCore s (State.resetAll s cause) := by
  unfold State.resetAll
  extract_lets +onlyGivenNames z1
  refine SameCore.cut (b := z1) ?_ ?_
  · unfold z1
    refine SameCore.foldl (fun _ _ => ?_) ?_
    · exact State.resetNow_same ..
    · exact SameCore.refl _
  · intro hz1
    extract_lets +onlyGivenNames z2
    refine SameCore.cut (b := z2) ?_ ?_
    · unfold z2
      exact (State.resetRange_same ..).of ‹_›
    · intro hz2
      extract_lets +onlyGivenNames z3
      refine SameCore.cut (b := z3) ?_ ?_
      · unfold z3
        exact SameCore.mk' ‹_› (.refl _) le_rfl
      · intro hz3
        refine (State.abandonFw_same ..).of ?_
        exact (State.ackWhere_same ..).of ‹_›

theorem State.vfFlr_same (s : State) (k : Nat) : SameCore s (State.vfFlr s k) := by
  unfold State.vfFlr
  refine SameCore.ite (fun _ => ?_) (fun _ => ?_)
  · exact State.setFn_same ..
  · extract_lets +onlyGivenNames z1
    clear_value z1
    extract_lets +onlyGivenNames z2
    refine SameCore.cut (b := z2) ?_ ?_
    · unfold z2
      exact State.setFn_same ..
    · intro hz2
      extract_lets +onlyGivenNames z3
      extract_lets +onlyGivenNames z4
      refine SameCore.cut (b := z4) ?_ ?_
      · unfold z4
        exact SameCore.mk' ‹_› (.refl _) le_rfl
      · intro hz4
        refine SameCore.ite (fun _ => ?_) (fun _ => ?_)
        · assumption
        · refine (State.trigger_same ..).of ?_
          exact (State.closeRings_same ..).of ‹_›

theorem execVfFlr_same (k : Nat) (s : State) : CoreKept s (execVfFlr k s) := by
  unfold execVfFlr
  refine CoreKept.next ?_
  refine SameCore.ite (fun _ => ?_) (fun _ => ?_)
  · exact SameCore.refl _
  · exact State.vfFlr_same ..

theorem execFlrDone_same (k : Nat) (s : State) : CoreKept s (execFlrDone k s) := by
  unfold execFlrDone
  extract_lets +onlyGivenNames z1
  clear_value z1
  refine CoreKept.next ?_
  refine SameCore.ite (fun _ => ?_) (fun _ => ?_)
  · exact SameCore.refl _
  · exact State.setFn_same ..

end Sys2Proof.Machine
end

