-- ==== Sys2Proof/Laws/State.lean ====
section
/-! SUPPORT. What each named update of the state leaves and what it makes of a read: one lemma per field per update, so that no proof
unfolds a record update, and reads after writes of every table. -/

set_option Elab.async false
namespace Sys2Proof.Machine

/-! ### Reads after writes -/

@[simp] theorem State.setInst_inst (s : State) (k j : Nat) (v : Inst) : (s.setInst k v).inst j = if j = k then v else s.inst j := by
  by_cases h : j = k
  · subst h; simp [State.setInst, State.inst, tblGet_tblSet]
  · unfold State.setInst State.inst tblGet tblSet
    split <;> simp [tblFind_tblErase, tblFind_tblPut, h]

@[simp] theorem State.setSlot_slot (s : State) (k j : Nat) (v : Slot) : (s.setSlot k v).slot j = if j = k then v else s.slot j :=
  tblGet_tblSet _ _ _ _ _

@[simp] theorem State.setQueue_queue (s : State) (k j : Nat) (v : Queue) : (s.setQueue k v).queue j = if j = k then v else s.queue j :=
  tblGet_tblSet _ _ _ _ _

@[simp] theorem State.setRings_ringsOf (s : State) (k j : Nat) (v : Brn) : (s.setRings k v).ringsOf j = if j = k then v else s.ringsOf j :=
  tblGet_tblSet _ _ _ _ _

@[simp] theorem State.setCluster_cluster (s : State) (k j : Nat) (v : Cluster) : (s.setCluster k v).cluster j = if j = k then v else s.cluster j :=
  tblGet_tblSet _ _ _ _ _

@[simp] theorem State.setBeacon_beacon (s : State) (k j : Nat) (v : Beacon) : (s.setBeacon k v).beacon j = if j = k then v else s.beacon j :=
  tblGet_tblSet _ _ _ _ _

@[simp] theorem State.setResv_resv (s : State) (k j : Nat) (v : Resv) : (s.setResv k v).resv j = if j = k then v else s.resv j :=
  tblGet_tblSet _ _ _ _ _

@[simp] theorem State.setObj_obj (s : State) (k j : Nat) (v : SyncObj) : (s.setObj k v).obj j = if j = k then v else s.obj j :=
  tblGet_tblSet _ _ _ _ _

@[simp] theorem State.setSession_session (s : State) (k j : Nat) (v : Sess) : (s.setSession k v).session j = if j = k then v else s.session j :=
  tblGet_tblSet _ _ _ _ _

@[simp] theorem State.setFn_fn (s : State) (k j : Nat) (v : FnCfg) : (s.setFn k v).fn j = if j = k then v else s.fn j :=
  tblGet_tblSet _ _ _ _ _

@[simp] theorem State.setHead_head (s : State) (k j : Nat) (v : Head) :
    (s.setHead k v).head j = if j = k ∧ k < s.disp.heads.length then v else s.head j := by
  simp only [State.setHead, State.head, List.getD_eq_getElem?_getD, List.getElem?_set]
  by_cases h : k = j
  · subst h
    by_cases g : k < s.disp.heads.length
    · simp [g]
    · simp [g]
  · simp [h, Ne.symm h]

@[simp] theorem State.setPort_port (s : State) (k j : Nat) (v : DpPort) :
    (s.setPort k v).port j = if j = k ∧ k < s.disp.ports.length then v else s.port j := by
  simp only [State.setPort, State.port, List.getD_eq_getElem?_getD, List.getElem?_set]
  by_cases h : k = j
  · subst h
    by_cases g : k < s.disp.ports.length
    · simp [g]
    · simp [g]
  · simp [h, Ne.symm h]

@[simp] theorem State.setReg_reg (s : State) (k j : Nat) (v : W) : (s.setReg k v).reg j = if j = k then v else s.reg j := by
  by_cases h : j = k
  · subst h; simp [State.setReg, State.reg, tblGet_tblSet]
  · unfold State.setReg State.reg tblGet tblSet
    split <;> simp [tblFind_tblErase, tblFind_tblPut, h]

@[simp] theorem State.setLaunch_launch (s : State) (k j : Nat) (v : Launch) :
    tblFind j (s.setLaunch k v).launches = if j = k then some v else tblFind j s.launches := tblFind_tblPut _ _ _ _

@[simp] theorem State.setCtx_ctx (s : State) (k j : Nat) (v : Ctx) :
    tblFind j (s.setCtx k v).ctxs = if j = k then some v else tblFind j s.ctxs := tblFind_tblPut _ _ _ _

@[simp] theorem State.bumpFree_freeCtr (s : State) : s.bumpFree.own.freeCtr = s.own.freeCtr + 1 := rfl

/-! ### setInst -/

@[simp] theorem State.setInst_pw (s : State) (k : Nat) (v : Inst) : (s.setInst k v).pw = s.pw := rfl
@[simp] theorem State.setInst_ck (s : State) (k : Nat) (v : Inst) : (s.setInst k v).ck = s.ck := rfl
@[simp] theorem State.setInst_pcie (s : State) (k : Nat) (v : Inst) : (s.setInst k v).pcie = s.pcie := rfl
@[simp] theorem State.setInst_sec (s : State) (k : Nat) (v : Inst) : (s.setInst k v).sec = s.sec := rfl
@[simp] theorem State.setInst_fw (s : State) (k : Nat) (v : Inst) : (s.setInst k v).fw = s.fw := rfl
@[simp] theorem State.setInst_fcol (s : State) (k : Nat) (v : Inst) : (s.setInst k v).fcol = s.fcol := rfl
@[simp] theorem State.setInst_brn (s : State) (k : Nat) (v : Inst) : (s.setInst k v).brn = s.brn := rfl
@[simp] theorem State.setInst_slots (s : State) (k : Nat) (v : Inst) : (s.setInst k v).slots = s.slots := rfl
@[simp] theorem State.setInst_queues (s : State) (k : Nat) (v : Inst) : (s.setInst k v).queues = s.queues := rfl
@[simp] theorem State.setInst_cmds (s : State) (k : Nat) (v : Inst) : (s.setInst k v).cmds = s.cmds := rfl
@[simp] theorem State.setInst_movers (s : State) (k : Nat) (v : Inst) : (s.setInst k v).movers = s.movers := rfl
@[simp] theorem State.setInst_launches (s : State) (k : Nat) (v : Inst) : (s.setInst k v).launches = s.launches := rfl
@[simp] theorem State.setInst_ctxs (s : State) (k : Nat) (v : Inst) : (s.setInst k v).ctxs = s.ctxs := rfl
@[simp] theorem State.setInst_rr (s : State) (k : Nat) (v : Inst) : (s.setInst k v).rr = s.rr := rfl
@[simp] theorem State.setInst_clusters (s : State) (k : Nat) (v : Inst) : (s.setInst k v).clusters = s.clusters := rfl
@[simp] theorem State.setInst_beacons (s : State) (k : Nat) (v : Inst) : (s.setInst k v).beacons = s.beacons := rfl
@[simp] theorem State.setInst_resvs (s : State) (k : Nat) (v : Inst) : (s.setInst k v).resvs = s.resvs := rfl
@[simp] theorem State.setInst_sync (s : State) (k : Nat) (v : Inst) : (s.setInst k v).sync = s.sync := rfl
@[simp] theorem State.setInst_sess (s : State) (k : Nat) (v : Inst) : (s.setInst k v).sess = s.sess := rfl
@[simp] theorem State.setInst_disp (s : State) (k : Nat) (v : Inst) : (s.setInst k v).disp = s.disp := rfl
@[simp] theorem State.setInst_trim (s : State) (k : Nat) (v : Inst) : (s.setInst k v).trim = s.trim := rfl
@[simp] theorem State.setInst_caches (s : State) (k : Nat) (v : Inst) : (s.setInst k v).caches = s.caches := rfl
@[simp] theorem State.setInst_htab (s : State) (k : Nat) (v : Inst) : (s.setInst k v).htab = s.htab := rfl
@[simp] theorem State.setInst_mem (s : State) (k : Nat) (v : Inst) : (s.setInst k v).mem = s.mem := rfl
@[simp] theorem State.setInst_poison (s : State) (k : Nat) (v : Inst) : (s.setInst k v).poison = s.poison := rfl
@[simp] theorem State.setInst_vague (s : State) (k : Nat) (v : Inst) : (s.setInst k v).vague = s.vague := rfl
@[simp] theorem State.setInst_flips (s : State) (k : Nat) (v : Inst) : (s.setInst k v).flips = s.flips := rfl
@[simp] theorem State.setInst_regs (s : State) (k : Nat) (v : Inst) : (s.setInst k v).regs = s.regs := rfl
@[simp] theorem State.setInst_expert (s : State) (k : Nat) (v : Inst) : (s.setInst k v).expert = s.expert := rfl
@[simp] theorem State.setInst_effect (s : State) (k : Nat) (v : Inst) : (s.setInst k v).effect = s.effect := rfl
@[simp] theorem State.setInst_lowWord (s : State) (k : Nat) (v : Inst) : (s.setInst k v).lowWord = s.lowWord := rfl
@[simp] theorem State.setInst_capture (s : State) (k : Nat) (v : Inst) : (s.setInst k v).capture = s.capture := rfl
@[simp] theorem State.setInst_lockUsed (s : State) (k : Nat) (v : Inst) : (s.setInst k v).lockUsed = s.lockUsed := rfl
@[simp] theorem State.setInst_own (s : State) (k : Nat) (v : Inst) : (s.setInst k v).own = s.own := rfl
@[simp] theorem State.setInst_nextId (s : State) (k : Nat) (v : Inst) : (s.setInst k v).nextId = s.nextId := rfl
@[simp] theorem State.setInst_pending (s : State) (k : Nat) (v : Inst) : (s.setInst k v).pending = s.pending := rfl
@[simp] theorem State.setInst_slot (s : State) (k : Nat) (v : Inst) (i : Nat) : (s.setInst k v).slot i = s.slot i := rfl
@[simp] theorem State.setInst_queue (s : State) (k : Nat) (v : Inst) (i : Nat) : (s.setInst k v).queue i = s.queue i := rfl
@[simp] theorem State.setInst_ringsOf (s : State) (k : Nat) (v : Inst) (i : Nat) : (s.setInst k v).ringsOf i = s.ringsOf i := rfl
@[simp] theorem State.setInst_cluster (s : State) (k : Nat) (v : Inst) (i : Nat) : (s.setInst k v).cluster i = s.cluster i := rfl
@[simp] theorem State.setInst_beacon (s : State) (k : Nat) (v : Inst) (i : Nat) : (s.setInst k v).beacon i = s.beacon i := rfl
@[simp] theorem State.setInst_resv (s : State) (k : Nat) (v : Inst) (i : Nat) : (s.setInst k v).resv i = s.resv i := rfl
@[simp] theorem State.setInst_obj (s : State) (k : Nat) (v : Inst) (i : Nat) : (s.setInst k v).obj i = s.obj i := rfl
@[simp] theorem State.setInst_session (s : State) (k : Nat) (v : Inst) (i : Nat) : (s.setInst k v).session i = s.session i := rfl
@[simp] theorem State.setInst_fn (s : State) (k : Nat) (v : Inst) (i : Nat) : (s.setInst k v).fn i = s.fn i := rfl
@[simp] theorem State.setInst_head (s : State) (k : Nat) (v : Inst) (i : Nat) : (s.setInst k v).head i = s.head i := rfl
@[simp] theorem State.setInst_port (s : State) (k : Nat) (v : Inst) (i : Nat) : (s.setInst k v).port i = s.port i := rfl
@[simp] theorem State.setInst_reg (s : State) (k : Nat) (v : Inst) (i : Nat) : (s.setInst k v).reg i = s.reg i := rfl
@[simp] theorem State.setInst_memByte (s : State) (k : Nat) (v : Inst) (a : Nat) : (s.setInst k v).memByte a = s.memByte a := rfl

/-! ### setSlot -/

@[simp] theorem State.setSlot_pw (s : State) (k : Nat) (v : Slot) : (s.setSlot k v).pw = s.pw := rfl
@[simp] theorem State.setSlot_ck (s : State) (k : Nat) (v : Slot) : (s.setSlot k v).ck = s.ck := rfl
@[simp] theorem State.setSlot_pcie (s : State) (k : Nat) (v : Slot) : (s.setSlot k v).pcie = s.pcie := rfl
@[simp] theorem State.setSlot_sec (s : State) (k : Nat) (v : Slot) : (s.setSlot k v).sec = s.sec := rfl
@[simp] theorem State.setSlot_fw (s : State) (k : Nat) (v : Slot) : (s.setSlot k v).fw = s.fw := rfl
@[simp] theorem State.setSlot_fcol (s : State) (k : Nat) (v : Slot) : (s.setSlot k v).fcol = s.fcol := rfl
@[simp] theorem State.setSlot_brn (s : State) (k : Nat) (v : Slot) : (s.setSlot k v).brn = s.brn := rfl
@[simp] theorem State.setSlot_insts (s : State) (k : Nat) (v : Slot) : (s.setSlot k v).insts = s.insts := rfl
@[simp] theorem State.setSlot_queues (s : State) (k : Nat) (v : Slot) : (s.setSlot k v).queues = s.queues := rfl
@[simp] theorem State.setSlot_cmds (s : State) (k : Nat) (v : Slot) : (s.setSlot k v).cmds = s.cmds := rfl
@[simp] theorem State.setSlot_movers (s : State) (k : Nat) (v : Slot) : (s.setSlot k v).movers = s.movers := rfl
@[simp] theorem State.setSlot_launches (s : State) (k : Nat) (v : Slot) : (s.setSlot k v).launches = s.launches := rfl
@[simp] theorem State.setSlot_ctxs (s : State) (k : Nat) (v : Slot) : (s.setSlot k v).ctxs = s.ctxs := rfl
@[simp] theorem State.setSlot_rr (s : State) (k : Nat) (v : Slot) : (s.setSlot k v).rr = s.rr := rfl
@[simp] theorem State.setSlot_clusters (s : State) (k : Nat) (v : Slot) : (s.setSlot k v).clusters = s.clusters := rfl
@[simp] theorem State.setSlot_beacons (s : State) (k : Nat) (v : Slot) : (s.setSlot k v).beacons = s.beacons := rfl
@[simp] theorem State.setSlot_resvs (s : State) (k : Nat) (v : Slot) : (s.setSlot k v).resvs = s.resvs := rfl
@[simp] theorem State.setSlot_sync (s : State) (k : Nat) (v : Slot) : (s.setSlot k v).sync = s.sync := rfl
@[simp] theorem State.setSlot_sess (s : State) (k : Nat) (v : Slot) : (s.setSlot k v).sess = s.sess := rfl
@[simp] theorem State.setSlot_disp (s : State) (k : Nat) (v : Slot) : (s.setSlot k v).disp = s.disp := rfl
@[simp] theorem State.setSlot_trim (s : State) (k : Nat) (v : Slot) : (s.setSlot k v).trim = s.trim := rfl
@[simp] theorem State.setSlot_caches (s : State) (k : Nat) (v : Slot) : (s.setSlot k v).caches = s.caches := rfl
@[simp] theorem State.setSlot_htab (s : State) (k : Nat) (v : Slot) : (s.setSlot k v).htab = s.htab := rfl
@[simp] theorem State.setSlot_mem (s : State) (k : Nat) (v : Slot) : (s.setSlot k v).mem = s.mem := rfl
@[simp] theorem State.setSlot_poison (s : State) (k : Nat) (v : Slot) : (s.setSlot k v).poison = s.poison := rfl
@[simp] theorem State.setSlot_vague (s : State) (k : Nat) (v : Slot) : (s.setSlot k v).vague = s.vague := rfl
@[simp] theorem State.setSlot_flips (s : State) (k : Nat) (v : Slot) : (s.setSlot k v).flips = s.flips := rfl
@[simp] theorem State.setSlot_regs (s : State) (k : Nat) (v : Slot) : (s.setSlot k v).regs = s.regs := rfl
@[simp] theorem State.setSlot_expert (s : State) (k : Nat) (v : Slot) : (s.setSlot k v).expert = s.expert := rfl
@[simp] theorem State.setSlot_effect (s : State) (k : Nat) (v : Slot) : (s.setSlot k v).effect = s.effect := rfl
@[simp] theorem State.setSlot_lowWord (s : State) (k : Nat) (v : Slot) : (s.setSlot k v).lowWord = s.lowWord := rfl
@[simp] theorem State.setSlot_capture (s : State) (k : Nat) (v : Slot) : (s.setSlot k v).capture = s.capture := rfl
@[simp] theorem State.setSlot_lockUsed (s : State) (k : Nat) (v : Slot) : (s.setSlot k v).lockUsed = s.lockUsed := rfl
@[simp] theorem State.setSlot_own (s : State) (k : Nat) (v : Slot) : (s.setSlot k v).own = s.own := rfl
@[simp] theorem State.setSlot_nextId (s : State) (k : Nat) (v : Slot) : (s.setSlot k v).nextId = s.nextId := rfl
@[simp] theorem State.setSlot_pending (s : State) (k : Nat) (v : Slot) : (s.setSlot k v).pending = s.pending := rfl
@[simp] theorem State.setSlot_inst (s : State) (k : Nat) (v : Slot) (i : Nat) : (s.setSlot k v).inst i = s.inst i := rfl
@[simp] theorem State.setSlot_queue (s : State) (k : Nat) (v : Slot) (i : Nat) : (s.setSlot k v).queue i = s.queue i := rfl
@[simp] theorem State.setSlot_ringsOf (s : State) (k : Nat) (v : Slot) (i : Nat) : (s.setSlot k v).ringsOf i = s.ringsOf i := rfl
@[simp] theorem State.setSlot_cluster (s : State) (k : Nat) (v : Slot) (i : Nat) : (s.setSlot k v).cluster i = s.cluster i := rfl
@[simp] theorem State.setSlot_beacon (s : State) (k : Nat) (v : Slot) (i : Nat) : (s.setSlot k v).beacon i = s.beacon i := rfl
@[simp] theorem State.setSlot_resv (s : State) (k : Nat) (v : Slot) (i : Nat) : (s.setSlot k v).resv i = s.resv i := rfl
@[simp] theorem State.setSlot_obj (s : State) (k : Nat) (v : Slot) (i : Nat) : (s.setSlot k v).obj i = s.obj i := rfl
@[simp] theorem State.setSlot_session (s : State) (k : Nat) (v : Slot) (i : Nat) : (s.setSlot k v).session i = s.session i := rfl
@[simp] theorem State.setSlot_fn (s : State) (k : Nat) (v : Slot) (i : Nat) : (s.setSlot k v).fn i = s.fn i := rfl
@[simp] theorem State.setSlot_head (s : State) (k : Nat) (v : Slot) (i : Nat) : (s.setSlot k v).head i = s.head i := rfl
@[simp] theorem State.setSlot_port (s : State) (k : Nat) (v : Slot) (i : Nat) : (s.setSlot k v).port i = s.port i := rfl
@[simp] theorem State.setSlot_reg (s : State) (k : Nat) (v : Slot) (i : Nat) : (s.setSlot k v).reg i = s.reg i := rfl
@[simp] theorem State.setSlot_memByte (s : State) (k : Nat) (v : Slot) (a : Nat) : (s.setSlot k v).memByte a = s.memByte a := rfl

/-! ### setQueue -/

@[simp] theorem State.setQueue_pw (s : State) (k : Nat) (v : Queue) : (s.setQueue k v).pw = s.pw := rfl
@[simp] theorem State.setQueue_ck (s : State) (k : Nat) (v : Queue) : (s.setQueue k v).ck = s.ck := rfl
@[simp] theorem State.setQueue_pcie (s : State) (k : Nat) (v : Queue) : (s.setQueue k v).pcie = s.pcie := rfl
@[simp] theorem State.setQueue_sec (s : State) (k : Nat) (v : Queue) : (s.setQueue k v).sec = s.sec := rfl
@[simp] theorem State.setQueue_fw (s : State) (k : Nat) (v : Queue) : (s.setQueue k v).fw = s.fw := rfl
@[simp] theorem State.setQueue_fcol (s : State) (k : Nat) (v : Queue) : (s.setQueue k v).fcol = s.fcol := rfl
@[simp] theorem State.setQueue_brn (s : State) (k : Nat) (v : Queue) : (s.setQueue k v).brn = s.brn := rfl
@[simp] theorem State.setQueue_insts (s : State) (k : Nat) (v : Queue) : (s.setQueue k v).insts = s.insts := rfl
@[simp] theorem State.setQueue_slots (s : State) (k : Nat) (v : Queue) : (s.setQueue k v).slots = s.slots := rfl
@[simp] theorem State.setQueue_cmds (s : State) (k : Nat) (v : Queue) : (s.setQueue k v).cmds = s.cmds := rfl
@[simp] theorem State.setQueue_movers (s : State) (k : Nat) (v : Queue) : (s.setQueue k v).movers = s.movers := rfl
@[simp] theorem State.setQueue_launches (s : State) (k : Nat) (v : Queue) : (s.setQueue k v).launches = s.launches := rfl
@[simp] theorem State.setQueue_ctxs (s : State) (k : Nat) (v : Queue) : (s.setQueue k v).ctxs = s.ctxs := rfl
@[simp] theorem State.setQueue_rr (s : State) (k : Nat) (v : Queue) : (s.setQueue k v).rr = s.rr := rfl
@[simp] theorem State.setQueue_clusters (s : State) (k : Nat) (v : Queue) : (s.setQueue k v).clusters = s.clusters := rfl
@[simp] theorem State.setQueue_beacons (s : State) (k : Nat) (v : Queue) : (s.setQueue k v).beacons = s.beacons := rfl
@[simp] theorem State.setQueue_resvs (s : State) (k : Nat) (v : Queue) : (s.setQueue k v).resvs = s.resvs := rfl
@[simp] theorem State.setQueue_sync (s : State) (k : Nat) (v : Queue) : (s.setQueue k v).sync = s.sync := rfl
@[simp] theorem State.setQueue_sess (s : State) (k : Nat) (v : Queue) : (s.setQueue k v).sess = s.sess := rfl
@[simp] theorem State.setQueue_disp (s : State) (k : Nat) (v : Queue) : (s.setQueue k v).disp = s.disp := rfl
@[simp] theorem State.setQueue_trim (s : State) (k : Nat) (v : Queue) : (s.setQueue k v).trim = s.trim := rfl
@[simp] theorem State.setQueue_caches (s : State) (k : Nat) (v : Queue) : (s.setQueue k v).caches = s.caches := rfl
@[simp] theorem State.setQueue_htab (s : State) (k : Nat) (v : Queue) : (s.setQueue k v).htab = s.htab := rfl
@[simp] theorem State.setQueue_mem (s : State) (k : Nat) (v : Queue) : (s.setQueue k v).mem = s.mem := rfl
@[simp] theorem State.setQueue_poison (s : State) (k : Nat) (v : Queue) : (s.setQueue k v).poison = s.poison := rfl
@[simp] theorem State.setQueue_vague (s : State) (k : Nat) (v : Queue) : (s.setQueue k v).vague = s.vague := rfl
@[simp] theorem State.setQueue_flips (s : State) (k : Nat) (v : Queue) : (s.setQueue k v).flips = s.flips := rfl
@[simp] theorem State.setQueue_regs (s : State) (k : Nat) (v : Queue) : (s.setQueue k v).regs = s.regs := rfl
@[simp] theorem State.setQueue_expert (s : State) (k : Nat) (v : Queue) : (s.setQueue k v).expert = s.expert := rfl
@[simp] theorem State.setQueue_effect (s : State) (k : Nat) (v : Queue) : (s.setQueue k v).effect = s.effect := rfl
@[simp] theorem State.setQueue_lowWord (s : State) (k : Nat) (v : Queue) : (s.setQueue k v).lowWord = s.lowWord := rfl
@[simp] theorem State.setQueue_capture (s : State) (k : Nat) (v : Queue) : (s.setQueue k v).capture = s.capture := rfl
@[simp] theorem State.setQueue_lockUsed (s : State) (k : Nat) (v : Queue) : (s.setQueue k v).lockUsed = s.lockUsed := rfl
@[simp] theorem State.setQueue_own (s : State) (k : Nat) (v : Queue) : (s.setQueue k v).own = s.own := rfl
@[simp] theorem State.setQueue_nextId (s : State) (k : Nat) (v : Queue) : (s.setQueue k v).nextId = s.nextId := rfl
@[simp] theorem State.setQueue_pending (s : State) (k : Nat) (v : Queue) : (s.setQueue k v).pending = s.pending := rfl
@[simp] theorem State.setQueue_inst (s : State) (k : Nat) (v : Queue) (i : Nat) : (s.setQueue k v).inst i = s.inst i := rfl
@[simp] theorem State.setQueue_slot (s : State) (k : Nat) (v : Queue) (i : Nat) : (s.setQueue k v).slot i = s.slot i := rfl
@[simp] theorem State.setQueue_ringsOf (s : State) (k : Nat) (v : Queue) (i : Nat) : (s.setQueue k v).ringsOf i = s.ringsOf i := rfl
@[simp] theorem State.setQueue_cluster (s : State) (k : Nat) (v : Queue) (i : Nat) : (s.setQueue k v).cluster i = s.cluster i := rfl
@[simp] theorem State.setQueue_beacon (s : State) (k : Nat) (v : Queue) (i : Nat) : (s.setQueue k v).beacon i = s.beacon i := rfl
@[simp] theorem State.setQueue_resv (s : State) (k : Nat) (v : Queue) (i : Nat) : (s.setQueue k v).resv i = s.resv i := rfl
@[simp] theorem State.setQueue_obj (s : State) (k : Nat) (v : Queue) (i : Nat) : (s.setQueue k v).obj i = s.obj i := rfl
@[simp] theorem State.setQueue_session (s : State) (k : Nat) (v : Queue) (i : Nat) : (s.setQueue k v).session i = s.session i := rfl
@[simp] theorem State.setQueue_fn (s : State) (k : Nat) (v : Queue) (i : Nat) : (s.setQueue k v).fn i = s.fn i := rfl
@[simp] theorem State.setQueue_head (s : State) (k : Nat) (v : Queue) (i : Nat) : (s.setQueue k v).head i = s.head i := rfl
@[simp] theorem State.setQueue_port (s : State) (k : Nat) (v : Queue) (i : Nat) : (s.setQueue k v).port i = s.port i := rfl
@[simp] theorem State.setQueue_reg (s : State) (k : Nat) (v : Queue) (i : Nat) : (s.setQueue k v).reg i = s.reg i := rfl
@[simp] theorem State.setQueue_memByte (s : State) (k : Nat) (v : Queue) (a : Nat) : (s.setQueue k v).memByte a = s.memByte a := rfl

/-! ### setRings -/

@[simp] theorem State.setRings_pw (s : State) (k : Nat) (v : Brn) : (s.setRings k v).pw = s.pw := rfl
@[simp] theorem State.setRings_ck (s : State) (k : Nat) (v : Brn) : (s.setRings k v).ck = s.ck := rfl
@[simp] theorem State.setRings_pcie (s : State) (k : Nat) (v : Brn) : (s.setRings k v).pcie = s.pcie := rfl
@[simp] theorem State.setRings_sec (s : State) (k : Nat) (v : Brn) : (s.setRings k v).sec = s.sec := rfl
@[simp] theorem State.setRings_fw (s : State) (k : Nat) (v : Brn) : (s.setRings k v).fw = s.fw := rfl
@[simp] theorem State.setRings_fcol (s : State) (k : Nat) (v : Brn) : (s.setRings k v).fcol = s.fcol := rfl
@[simp] theorem State.setRings_insts (s : State) (k : Nat) (v : Brn) : (s.setRings k v).insts = s.insts := rfl
@[simp] theorem State.setRings_slots (s : State) (k : Nat) (v : Brn) : (s.setRings k v).slots = s.slots := rfl
@[simp] theorem State.setRings_queues (s : State) (k : Nat) (v : Brn) : (s.setRings k v).queues = s.queues := rfl
@[simp] theorem State.setRings_cmds (s : State) (k : Nat) (v : Brn) : (s.setRings k v).cmds = s.cmds := rfl
@[simp] theorem State.setRings_movers (s : State) (k : Nat) (v : Brn) : (s.setRings k v).movers = s.movers := rfl
@[simp] theorem State.setRings_launches (s : State) (k : Nat) (v : Brn) : (s.setRings k v).launches = s.launches := rfl
@[simp] theorem State.setRings_ctxs (s : State) (k : Nat) (v : Brn) : (s.setRings k v).ctxs = s.ctxs := rfl
@[simp] theorem State.setRings_rr (s : State) (k : Nat) (v : Brn) : (s.setRings k v).rr = s.rr := rfl
@[simp] theorem State.setRings_clusters (s : State) (k : Nat) (v : Brn) : (s.setRings k v).clusters = s.clusters := rfl
@[simp] theorem State.setRings_beacons (s : State) (k : Nat) (v : Brn) : (s.setRings k v).beacons = s.beacons := rfl
@[simp] theorem State.setRings_resvs (s : State) (k : Nat) (v : Brn) : (s.setRings k v).resvs = s.resvs := rfl
@[simp] theorem State.setRings_sync (s : State) (k : Nat) (v : Brn) : (s.setRings k v).sync = s.sync := rfl
@[simp] theorem State.setRings_sess (s : State) (k : Nat) (v : Brn) : (s.setRings k v).sess = s.sess := rfl
@[simp] theorem State.setRings_disp (s : State) (k : Nat) (v : Brn) : (s.setRings k v).disp = s.disp := rfl
@[simp] theorem State.setRings_trim (s : State) (k : Nat) (v : Brn) : (s.setRings k v).trim = s.trim := rfl
@[simp] theorem State.setRings_caches (s : State) (k : Nat) (v : Brn) : (s.setRings k v).caches = s.caches := rfl
@[simp] theorem State.setRings_htab (s : State) (k : Nat) (v : Brn) : (s.setRings k v).htab = s.htab := rfl
@[simp] theorem State.setRings_mem (s : State) (k : Nat) (v : Brn) : (s.setRings k v).mem = s.mem := rfl
@[simp] theorem State.setRings_poison (s : State) (k : Nat) (v : Brn) : (s.setRings k v).poison = s.poison := rfl
@[simp] theorem State.setRings_vague (s : State) (k : Nat) (v : Brn) : (s.setRings k v).vague = s.vague := rfl
@[simp] theorem State.setRings_flips (s : State) (k : Nat) (v : Brn) : (s.setRings k v).flips = s.flips := rfl
@[simp] theorem State.setRings_regs (s : State) (k : Nat) (v : Brn) : (s.setRings k v).regs = s.regs := rfl
@[simp] theorem State.setRings_expert (s : State) (k : Nat) (v : Brn) : (s.setRings k v).expert = s.expert := rfl
@[simp] theorem State.setRings_effect (s : State) (k : Nat) (v : Brn) : (s.setRings k v).effect = s.effect := rfl
@[simp] theorem State.setRings_lowWord (s : State) (k : Nat) (v : Brn) : (s.setRings k v).lowWord = s.lowWord := rfl
@[simp] theorem State.setRings_capture (s : State) (k : Nat) (v : Brn) : (s.setRings k v).capture = s.capture := rfl
@[simp] theorem State.setRings_lockUsed (s : State) (k : Nat) (v : Brn) : (s.setRings k v).lockUsed = s.lockUsed := rfl
@[simp] theorem State.setRings_own (s : State) (k : Nat) (v : Brn) : (s.setRings k v).own = s.own := rfl
@[simp] theorem State.setRings_nextId (s : State) (k : Nat) (v : Brn) : (s.setRings k v).nextId = s.nextId := rfl
@[simp] theorem State.setRings_pending (s : State) (k : Nat) (v : Brn) : (s.setRings k v).pending = s.pending := rfl
@[simp] theorem State.setRings_inst (s : State) (k : Nat) (v : Brn) (i : Nat) : (s.setRings k v).inst i = s.inst i := rfl
@[simp] theorem State.setRings_slot (s : State) (k : Nat) (v : Brn) (i : Nat) : (s.setRings k v).slot i = s.slot i := rfl
@[simp] theorem State.setRings_queue (s : State) (k : Nat) (v : Brn) (i : Nat) : (s.setRings k v).queue i = s.queue i := rfl
@[simp] theorem State.setRings_cluster (s : State) (k : Nat) (v : Brn) (i : Nat) : (s.setRings k v).cluster i = s.cluster i := rfl
@[simp] theorem State.setRings_beacon (s : State) (k : Nat) (v : Brn) (i : Nat) : (s.setRings k v).beacon i = s.beacon i := rfl
@[simp] theorem State.setRings_resv (s : State) (k : Nat) (v : Brn) (i : Nat) : (s.setRings k v).resv i = s.resv i := rfl
@[simp] theorem State.setRings_obj (s : State) (k : Nat) (v : Brn) (i : Nat) : (s.setRings k v).obj i = s.obj i := rfl
@[simp] theorem State.setRings_session (s : State) (k : Nat) (v : Brn) (i : Nat) : (s.setRings k v).session i = s.session i := rfl
@[simp] theorem State.setRings_fn (s : State) (k : Nat) (v : Brn) (i : Nat) : (s.setRings k v).fn i = s.fn i := rfl
@[simp] theorem State.setRings_head (s : State) (k : Nat) (v : Brn) (i : Nat) : (s.setRings k v).head i = s.head i := rfl
@[simp] theorem State.setRings_port (s : State) (k : Nat) (v : Brn) (i : Nat) : (s.setRings k v).port i = s.port i := rfl
@[simp] theorem State.setRings_reg (s : State) (k : Nat) (v : Brn) (i : Nat) : (s.setRings k v).reg i = s.reg i := rfl
@[simp] theorem State.setRings_memByte (s : State) (k : Nat) (v : Brn) (a : Nat) : (s.setRings k v).memByte a = s.memByte a := rfl

/-! ### setCluster -/

@[simp] theorem State.setCluster_pw (s : State) (k : Nat) (v : Cluster) : (s.setCluster k v).pw = s.pw := rfl
@[simp] theorem State.setCluster_ck (s : State) (k : Nat) (v : Cluster) : (s.setCluster k v).ck = s.ck := rfl
@[simp] theorem State.setCluster_pcie (s : State) (k : Nat) (v : Cluster) : (s.setCluster k v).pcie = s.pcie := rfl
@[simp] theorem State.setCluster_sec (s : State) (k : Nat) (v : Cluster) : (s.setCluster k v).sec = s.sec := rfl
@[simp] theorem State.setCluster_fw (s : State) (k : Nat) (v : Cluster) : (s.setCluster k v).fw = s.fw := rfl
@[simp] theorem State.setCluster_fcol (s : State) (k : Nat) (v : Cluster) : (s.setCluster k v).fcol = s.fcol := rfl
@[simp] theorem State.setCluster_brn (s : State) (k : Nat) (v : Cluster) : (s.setCluster k v).brn = s.brn := rfl
@[simp] theorem State.setCluster_insts (s : State) (k : Nat) (v : Cluster) : (s.setCluster k v).insts = s.insts := rfl
@[simp] theorem State.setCluster_slots (s : State) (k : Nat) (v : Cluster) : (s.setCluster k v).slots = s.slots := rfl
@[simp] theorem State.setCluster_queues (s : State) (k : Nat) (v : Cluster) : (s.setCluster k v).queues = s.queues := rfl
@[simp] theorem State.setCluster_cmds (s : State) (k : Nat) (v : Cluster) : (s.setCluster k v).cmds = s.cmds := rfl
@[simp] theorem State.setCluster_movers (s : State) (k : Nat) (v : Cluster) : (s.setCluster k v).movers = s.movers := rfl
@[simp] theorem State.setCluster_launches (s : State) (k : Nat) (v : Cluster) : (s.setCluster k v).launches = s.launches := rfl
@[simp] theorem State.setCluster_ctxs (s : State) (k : Nat) (v : Cluster) : (s.setCluster k v).ctxs = s.ctxs := rfl
@[simp] theorem State.setCluster_rr (s : State) (k : Nat) (v : Cluster) : (s.setCluster k v).rr = s.rr := rfl
@[simp] theorem State.setCluster_beacons (s : State) (k : Nat) (v : Cluster) : (s.setCluster k v).beacons = s.beacons := rfl
@[simp] theorem State.setCluster_resvs (s : State) (k : Nat) (v : Cluster) : (s.setCluster k v).resvs = s.resvs := rfl
@[simp] theorem State.setCluster_sync (s : State) (k : Nat) (v : Cluster) : (s.setCluster k v).sync = s.sync := rfl
@[simp] theorem State.setCluster_sess (s : State) (k : Nat) (v : Cluster) : (s.setCluster k v).sess = s.sess := rfl
@[simp] theorem State.setCluster_disp (s : State) (k : Nat) (v : Cluster) : (s.setCluster k v).disp = s.disp := rfl
@[simp] theorem State.setCluster_trim (s : State) (k : Nat) (v : Cluster) : (s.setCluster k v).trim = s.trim := rfl
@[simp] theorem State.setCluster_caches (s : State) (k : Nat) (v : Cluster) : (s.setCluster k v).caches = s.caches := rfl
@[simp] theorem State.setCluster_htab (s : State) (k : Nat) (v : Cluster) : (s.setCluster k v).htab = s.htab := rfl
@[simp] theorem State.setCluster_mem (s : State) (k : Nat) (v : Cluster) : (s.setCluster k v).mem = s.mem := rfl
@[simp] theorem State.setCluster_poison (s : State) (k : Nat) (v : Cluster) : (s.setCluster k v).poison = s.poison := rfl
@[simp] theorem State.setCluster_vague (s : State) (k : Nat) (v : Cluster) : (s.setCluster k v).vague = s.vague := rfl
@[simp] theorem State.setCluster_flips (s : State) (k : Nat) (v : Cluster) : (s.setCluster k v).flips = s.flips := rfl
@[simp] theorem State.setCluster_regs (s : State) (k : Nat) (v : Cluster) : (s.setCluster k v).regs = s.regs := rfl
@[simp] theorem State.setCluster_expert (s : State) (k : Nat) (v : Cluster) : (s.setCluster k v).expert = s.expert := rfl
@[simp] theorem State.setCluster_effect (s : State) (k : Nat) (v : Cluster) : (s.setCluster k v).effect = s.effect := rfl
@[simp] theorem State.setCluster_lowWord (s : State) (k : Nat) (v : Cluster) : (s.setCluster k v).lowWord = s.lowWord := rfl
@[simp] theorem State.setCluster_capture (s : State) (k : Nat) (v : Cluster) : (s.setCluster k v).capture = s.capture := rfl
@[simp] theorem State.setCluster_lockUsed (s : State) (k : Nat) (v : Cluster) : (s.setCluster k v).lockUsed = s.lockUsed := rfl
@[simp] theorem State.setCluster_own (s : State) (k : Nat) (v : Cluster) : (s.setCluster k v).own = s.own := rfl
@[simp] theorem State.setCluster_nextId (s : State) (k : Nat) (v : Cluster) : (s.setCluster k v).nextId = s.nextId := rfl
@[simp] theorem State.setCluster_pending (s : State) (k : Nat) (v : Cluster) : (s.setCluster k v).pending = s.pending := rfl
@[simp] theorem State.setCluster_inst (s : State) (k : Nat) (v : Cluster) (i : Nat) : (s.setCluster k v).inst i = s.inst i := rfl
@[simp] theorem State.setCluster_slot (s : State) (k : Nat) (v : Cluster) (i : Nat) : (s.setCluster k v).slot i = s.slot i := rfl
@[simp] theorem State.setCluster_queue (s : State) (k : Nat) (v : Cluster) (i : Nat) : (s.setCluster k v).queue i = s.queue i := rfl
@[simp] theorem State.setCluster_ringsOf (s : State) (k : Nat) (v : Cluster) (i : Nat) : (s.setCluster k v).ringsOf i = s.ringsOf i := rfl
@[simp] theorem State.setCluster_beacon (s : State) (k : Nat) (v : Cluster) (i : Nat) : (s.setCluster k v).beacon i = s.beacon i := rfl
@[simp] theorem State.setCluster_resv (s : State) (k : Nat) (v : Cluster) (i : Nat) : (s.setCluster k v).resv i = s.resv i := rfl
@[simp] theorem State.setCluster_obj (s : State) (k : Nat) (v : Cluster) (i : Nat) : (s.setCluster k v).obj i = s.obj i := rfl
@[simp] theorem State.setCluster_session (s : State) (k : Nat) (v : Cluster) (i : Nat) : (s.setCluster k v).session i = s.session i := rfl
@[simp] theorem State.setCluster_fn (s : State) (k : Nat) (v : Cluster) (i : Nat) : (s.setCluster k v).fn i = s.fn i := rfl
@[simp] theorem State.setCluster_head (s : State) (k : Nat) (v : Cluster) (i : Nat) : (s.setCluster k v).head i = s.head i := rfl
@[simp] theorem State.setCluster_port (s : State) (k : Nat) (v : Cluster) (i : Nat) : (s.setCluster k v).port i = s.port i := rfl
@[simp] theorem State.setCluster_reg (s : State) (k : Nat) (v : Cluster) (i : Nat) : (s.setCluster k v).reg i = s.reg i := rfl
@[simp] theorem State.setCluster_memByte (s : State) (k : Nat) (v : Cluster) (a : Nat) : (s.setCluster k v).memByte a = s.memByte a := rfl

/-! ### setBeacon -/

@[simp] theorem State.setBeacon_pw (s : State) (k : Nat) (v : Beacon) : (s.setBeacon k v).pw = s.pw := rfl
@[simp] theorem State.setBeacon_ck (s : State) (k : Nat) (v : Beacon) : (s.setBeacon k v).ck = s.ck := rfl
@[simp] theorem State.setBeacon_pcie (s : State) (k : Nat) (v : Beacon) : (s.setBeacon k v).pcie = s.pcie := rfl
@[simp] theorem State.setBeacon_sec (s : State) (k : Nat) (v : Beacon) : (s.setBeacon k v).sec = s.sec := rfl
@[simp] theorem State.setBeacon_fw (s : State) (k : Nat) (v : Beacon) : (s.setBeacon k v).fw = s.fw := rfl
@[simp] theorem State.setBeacon_fcol (s : State) (k : Nat) (v : Beacon) : (s.setBeacon k v).fcol = s.fcol := rfl
@[simp] theorem State.setBeacon_brn (s : State) (k : Nat) (v : Beacon) : (s.setBeacon k v).brn = s.brn := rfl
@[simp] theorem State.setBeacon_insts (s : State) (k : Nat) (v : Beacon) : (s.setBeacon k v).insts = s.insts := rfl
@[simp] theorem State.setBeacon_slots (s : State) (k : Nat) (v : Beacon) : (s.setBeacon k v).slots = s.slots := rfl
@[simp] theorem State.setBeacon_queues (s : State) (k : Nat) (v : Beacon) : (s.setBeacon k v).queues = s.queues := rfl
@[simp] theorem State.setBeacon_cmds (s : State) (k : Nat) (v : Beacon) : (s.setBeacon k v).cmds = s.cmds := rfl
@[simp] theorem State.setBeacon_movers (s : State) (k : Nat) (v : Beacon) : (s.setBeacon k v).movers = s.movers := rfl
@[simp] theorem State.setBeacon_launches (s : State) (k : Nat) (v : Beacon) : (s.setBeacon k v).launches = s.launches := rfl
@[simp] theorem State.setBeacon_ctxs (s : State) (k : Nat) (v : Beacon) : (s.setBeacon k v).ctxs = s.ctxs := rfl
@[simp] theorem State.setBeacon_rr (s : State) (k : Nat) (v : Beacon) : (s.setBeacon k v).rr = s.rr := rfl
@[simp] theorem State.setBeacon_clusters (s : State) (k : Nat) (v : Beacon) : (s.setBeacon k v).clusters = s.clusters := rfl
@[simp] theorem State.setBeacon_resvs (s : State) (k : Nat) (v : Beacon) : (s.setBeacon k v).resvs = s.resvs := rfl
@[simp] theorem State.setBeacon_sync (s : State) (k : Nat) (v : Beacon) : (s.setBeacon k v).sync = s.sync := rfl
@[simp] theorem State.setBeacon_sess (s : State) (k : Nat) (v : Beacon) : (s.setBeacon k v).sess = s.sess := rfl
@[simp] theorem State.setBeacon_disp (s : State) (k : Nat) (v : Beacon) : (s.setBeacon k v).disp = s.disp := rfl
@[simp] theorem State.setBeacon_trim (s : State) (k : Nat) (v : Beacon) : (s.setBeacon k v).trim = s.trim := rfl
@[simp] theorem State.setBeacon_caches (s : State) (k : Nat) (v : Beacon) : (s.setBeacon k v).caches = s.caches := rfl
@[simp] theorem State.setBeacon_htab (s : State) (k : Nat) (v : Beacon) : (s.setBeacon k v).htab = s.htab := rfl
@[simp] theorem State.setBeacon_mem (s : State) (k : Nat) (v : Beacon) : (s.setBeacon k v).mem = s.mem := rfl
@[simp] theorem State.setBeacon_poison (s : State) (k : Nat) (v : Beacon) : (s.setBeacon k v).poison = s.poison := rfl
@[simp] theorem State.setBeacon_vague (s : State) (k : Nat) (v : Beacon) : (s.setBeacon k v).vague = s.vague := rfl
@[simp] theorem State.setBeacon_flips (s : State) (k : Nat) (v : Beacon) : (s.setBeacon k v).flips = s.flips := rfl
@[simp] theorem State.setBeacon_regs (s : State) (k : Nat) (v : Beacon) : (s.setBeacon k v).regs = s.regs := rfl
@[simp] theorem State.setBeacon_expert (s : State) (k : Nat) (v : Beacon) : (s.setBeacon k v).expert = s.expert := rfl
@[simp] theorem State.setBeacon_effect (s : State) (k : Nat) (v : Beacon) : (s.setBeacon k v).effect = s.effect := rfl
@[simp] theorem State.setBeacon_lowWord (s : State) (k : Nat) (v : Beacon) : (s.setBeacon k v).lowWord = s.lowWord := rfl
@[simp] theorem State.setBeacon_capture (s : State) (k : Nat) (v : Beacon) : (s.setBeacon k v).capture = s.capture := rfl
@[simp] theorem State.setBeacon_lockUsed (s : State) (k : Nat) (v : Beacon) : (s.setBeacon k v).lockUsed = s.lockUsed := rfl
@[simp] theorem State.setBeacon_own (s : State) (k : Nat) (v : Beacon) : (s.setBeacon k v).own = s.own := rfl
@[simp] theorem State.setBeacon_nextId (s : State) (k : Nat) (v : Beacon) : (s.setBeacon k v).nextId = s.nextId := rfl
@[simp] theorem State.setBeacon_pending (s : State) (k : Nat) (v : Beacon) : (s.setBeacon k v).pending = s.pending := rfl
@[simp] theorem State.setBeacon_inst (s : State) (k : Nat) (v : Beacon) (i : Nat) : (s.setBeacon k v).inst i = s.inst i := rfl
@[simp] theorem State.setBeacon_slot (s : State) (k : Nat) (v : Beacon) (i : Nat) : (s.setBeacon k v).slot i = s.slot i := rfl
@[simp] theorem State.setBeacon_queue (s : State) (k : Nat) (v : Beacon) (i : Nat) : (s.setBeacon k v).queue i = s.queue i := rfl
@[simp] theorem State.setBeacon_ringsOf (s : State) (k : Nat) (v : Beacon) (i : Nat) : (s.setBeacon k v).ringsOf i = s.ringsOf i := rfl
@[simp] theorem State.setBeacon_cluster (s : State) (k : Nat) (v : Beacon) (i : Nat) : (s.setBeacon k v).cluster i = s.cluster i := rfl
@[simp] theorem State.setBeacon_resv (s : State) (k : Nat) (v : Beacon) (i : Nat) : (s.setBeacon k v).resv i = s.resv i := rfl
@[simp] theorem State.setBeacon_obj (s : State) (k : Nat) (v : Beacon) (i : Nat) : (s.setBeacon k v).obj i = s.obj i := rfl
@[simp] theorem State.setBeacon_session (s : State) (k : Nat) (v : Beacon) (i : Nat) : (s.setBeacon k v).session i = s.session i := rfl
@[simp] theorem State.setBeacon_fn (s : State) (k : Nat) (v : Beacon) (i : Nat) : (s.setBeacon k v).fn i = s.fn i := rfl
@[simp] theorem State.setBeacon_head (s : State) (k : Nat) (v : Beacon) (i : Nat) : (s.setBeacon k v).head i = s.head i := rfl
@[simp] theorem State.setBeacon_port (s : State) (k : Nat) (v : Beacon) (i : Nat) : (s.setBeacon k v).port i = s.port i := rfl
@[simp] theorem State.setBeacon_reg (s : State) (k : Nat) (v : Beacon) (i : Nat) : (s.setBeacon k v).reg i = s.reg i := rfl
@[simp] theorem State.setBeacon_memByte (s : State) (k : Nat) (v : Beacon) (a : Nat) : (s.setBeacon k v).memByte a = s.memByte a := rfl

/-! ### setResv -/

@[simp] theorem State.setResv_pw (s : State) (k : Nat) (v : Resv) : (s.setResv k v).pw = s.pw := rfl
@[simp] theorem State.setResv_ck (s : State) (k : Nat) (v : Resv) : (s.setResv k v).ck = s.ck := rfl
@[simp] theorem State.setResv_pcie (s : State) (k : Nat) (v : Resv) : (s.setResv k v).pcie = s.pcie := rfl
@[simp] theorem State.setResv_sec (s : State) (k : Nat) (v : Resv) : (s.setResv k v).sec = s.sec := rfl
@[simp] theorem State.setResv_fw (s : State) (k : Nat) (v : Resv) : (s.setResv k v).fw = s.fw := rfl
@[simp] theorem State.setResv_fcol (s : State) (k : Nat) (v : Resv) : (s.setResv k v).fcol = s.fcol := rfl
@[simp] theorem State.setResv_brn (s : State) (k : Nat) (v : Resv) : (s.setResv k v).brn = s.brn := rfl
@[simp] theorem State.setResv_insts (s : State) (k : Nat) (v : Resv) : (s.setResv k v).insts = s.insts := rfl
@[simp] theorem State.setResv_slots (s : State) (k : Nat) (v : Resv) : (s.setResv k v).slots = s.slots := rfl
@[simp] theorem State.setResv_queues (s : State) (k : Nat) (v : Resv) : (s.setResv k v).queues = s.queues := rfl
@[simp] theorem State.setResv_cmds (s : State) (k : Nat) (v : Resv) : (s.setResv k v).cmds = s.cmds := rfl
@[simp] theorem State.setResv_movers (s : State) (k : Nat) (v : Resv) : (s.setResv k v).movers = s.movers := rfl
@[simp] theorem State.setResv_launches (s : State) (k : Nat) (v : Resv) : (s.setResv k v).launches = s.launches := rfl
@[simp] theorem State.setResv_ctxs (s : State) (k : Nat) (v : Resv) : (s.setResv k v).ctxs = s.ctxs := rfl
@[simp] theorem State.setResv_rr (s : State) (k : Nat) (v : Resv) : (s.setResv k v).rr = s.rr := rfl
@[simp] theorem State.setResv_clusters (s : State) (k : Nat) (v : Resv) : (s.setResv k v).clusters = s.clusters := rfl
@[simp] theorem State.setResv_beacons (s : State) (k : Nat) (v : Resv) : (s.setResv k v).beacons = s.beacons := rfl
@[simp] theorem State.setResv_sync (s : State) (k : Nat) (v : Resv) : (s.setResv k v).sync = s.sync := rfl
@[simp] theorem State.setResv_sess (s : State) (k : Nat) (v : Resv) : (s.setResv k v).sess = s.sess := rfl
@[simp] theorem State.setResv_disp (s : State) (k : Nat) (v : Resv) : (s.setResv k v).disp = s.disp := rfl
@[simp] theorem State.setResv_trim (s : State) (k : Nat) (v : Resv) : (s.setResv k v).trim = s.trim := rfl
@[simp] theorem State.setResv_caches (s : State) (k : Nat) (v : Resv) : (s.setResv k v).caches = s.caches := rfl
@[simp] theorem State.setResv_htab (s : State) (k : Nat) (v : Resv) : (s.setResv k v).htab = s.htab := rfl
@[simp] theorem State.setResv_mem (s : State) (k : Nat) (v : Resv) : (s.setResv k v).mem = s.mem := rfl
@[simp] theorem State.setResv_poison (s : State) (k : Nat) (v : Resv) : (s.setResv k v).poison = s.poison := rfl
@[simp] theorem State.setResv_vague (s : State) (k : Nat) (v : Resv) : (s.setResv k v).vague = s.vague := rfl
@[simp] theorem State.setResv_flips (s : State) (k : Nat) (v : Resv) : (s.setResv k v).flips = s.flips := rfl
@[simp] theorem State.setResv_regs (s : State) (k : Nat) (v : Resv) : (s.setResv k v).regs = s.regs := rfl
@[simp] theorem State.setResv_expert (s : State) (k : Nat) (v : Resv) : (s.setResv k v).expert = s.expert := rfl
@[simp] theorem State.setResv_effect (s : State) (k : Nat) (v : Resv) : (s.setResv k v).effect = s.effect := rfl
@[simp] theorem State.setResv_lowWord (s : State) (k : Nat) (v : Resv) : (s.setResv k v).lowWord = s.lowWord := rfl
@[simp] theorem State.setResv_capture (s : State) (k : Nat) (v : Resv) : (s.setResv k v).capture = s.capture := rfl
@[simp] theorem State.setResv_lockUsed (s : State) (k : Nat) (v : Resv) : (s.setResv k v).lockUsed = s.lockUsed := rfl
@[simp] theorem State.setResv_own (s : State) (k : Nat) (v : Resv) : (s.setResv k v).own = s.own := rfl
@[simp] theorem State.setResv_nextId (s : State) (k : Nat) (v : Resv) : (s.setResv k v).nextId = s.nextId := rfl
@[simp] theorem State.setResv_pending (s : State) (k : Nat) (v : Resv) : (s.setResv k v).pending = s.pending := rfl
@[simp] theorem State.setResv_inst (s : State) (k : Nat) (v : Resv) (i : Nat) : (s.setResv k v).inst i = s.inst i := rfl
@[simp] theorem State.setResv_slot (s : State) (k : Nat) (v : Resv) (i : Nat) : (s.setResv k v).slot i = s.slot i := rfl
@[simp] theorem State.setResv_queue (s : State) (k : Nat) (v : Resv) (i : Nat) : (s.setResv k v).queue i = s.queue i := rfl
@[simp] theorem State.setResv_ringsOf (s : State) (k : Nat) (v : Resv) (i : Nat) : (s.setResv k v).ringsOf i = s.ringsOf i := rfl
@[simp] theorem State.setResv_cluster (s : State) (k : Nat) (v : Resv) (i : Nat) : (s.setResv k v).cluster i = s.cluster i := rfl
@[simp] theorem State.setResv_beacon (s : State) (k : Nat) (v : Resv) (i : Nat) : (s.setResv k v).beacon i = s.beacon i := rfl
@[simp] theorem State.setResv_obj (s : State) (k : Nat) (v : Resv) (i : Nat) : (s.setResv k v).obj i = s.obj i := rfl
@[simp] theorem State.setResv_session (s : State) (k : Nat) (v : Resv) (i : Nat) : (s.setResv k v).session i = s.session i := rfl
@[simp] theorem State.setResv_fn (s : State) (k : Nat) (v : Resv) (i : Nat) : (s.setResv k v).fn i = s.fn i := rfl
@[simp] theorem State.setResv_head (s : State) (k : Nat) (v : Resv) (i : Nat) : (s.setResv k v).head i = s.head i := rfl
@[simp] theorem State.setResv_port (s : State) (k : Nat) (v : Resv) (i : Nat) : (s.setResv k v).port i = s.port i := rfl
@[simp] theorem State.setResv_reg (s : State) (k : Nat) (v : Resv) (i : Nat) : (s.setResv k v).reg i = s.reg i := rfl
@[simp] theorem State.setResv_memByte (s : State) (k : Nat) (v : Resv) (a : Nat) : (s.setResv k v).memByte a = s.memByte a := rfl

/-! ### setObj -/

@[simp] theorem State.setObj_pw (s : State) (k : Nat) (v : SyncObj) : (s.setObj k v).pw = s.pw := rfl
@[simp] theorem State.setObj_ck (s : State) (k : Nat) (v : SyncObj) : (s.setObj k v).ck = s.ck := rfl
@[simp] theorem State.setObj_pcie (s : State) (k : Nat) (v : SyncObj) : (s.setObj k v).pcie = s.pcie := rfl
@[simp] theorem State.setObj_sec (s : State) (k : Nat) (v : SyncObj) : (s.setObj k v).sec = s.sec := rfl
@[simp] theorem State.setObj_fw (s : State) (k : Nat) (v : SyncObj) : (s.setObj k v).fw = s.fw := rfl
@[simp] theorem State.setObj_fcol (s : State) (k : Nat) (v : SyncObj) : (s.setObj k v).fcol = s.fcol := rfl
@[simp] theorem State.setObj_brn (s : State) (k : Nat) (v : SyncObj) : (s.setObj k v).brn = s.brn := rfl
@[simp] theorem State.setObj_insts (s : State) (k : Nat) (v : SyncObj) : (s.setObj k v).insts = s.insts := rfl
@[simp] theorem State.setObj_slots (s : State) (k : Nat) (v : SyncObj) : (s.setObj k v).slots = s.slots := rfl
@[simp] theorem State.setObj_queues (s : State) (k : Nat) (v : SyncObj) : (s.setObj k v).queues = s.queues := rfl
@[simp] theorem State.setObj_cmds (s : State) (k : Nat) (v : SyncObj) : (s.setObj k v).cmds = s.cmds := rfl
@[simp] theorem State.setObj_movers (s : State) (k : Nat) (v : SyncObj) : (s.setObj k v).movers = s.movers := rfl
@[simp] theorem State.setObj_launches (s : State) (k : Nat) (v : SyncObj) : (s.setObj k v).launches = s.launches := rfl
@[simp] theorem State.setObj_ctxs (s : State) (k : Nat) (v : SyncObj) : (s.setObj k v).ctxs = s.ctxs := rfl
@[simp] theorem State.setObj_rr (s : State) (k : Nat) (v : SyncObj) : (s.setObj k v).rr = s.rr := rfl
@[simp] theorem State.setObj_clusters (s : State) (k : Nat) (v : SyncObj) : (s.setObj k v).clusters = s.clusters := rfl
@[simp] theorem State.setObj_beacons (s : State) (k : Nat) (v : SyncObj) : (s.setObj k v).beacons = s.beacons := rfl
@[simp] theorem State.setObj_resvs (s : State) (k : Nat) (v : SyncObj) : (s.setObj k v).resvs = s.resvs := rfl
@[simp] theorem State.setObj_sess (s : State) (k : Nat) (v : SyncObj) : (s.setObj k v).sess = s.sess := rfl
@[simp] theorem State.setObj_disp (s : State) (k : Nat) (v : SyncObj) : (s.setObj k v).disp = s.disp := rfl
@[simp] theorem State.setObj_trim (s : State) (k : Nat) (v : SyncObj) : (s.setObj k v).trim = s.trim := rfl
@[simp] theorem State.setObj_caches (s : State) (k : Nat) (v : SyncObj) : (s.setObj k v).caches = s.caches := rfl
@[simp] theorem State.setObj_htab (s : State) (k : Nat) (v : SyncObj) : (s.setObj k v).htab = s.htab := rfl
@[simp] theorem State.setObj_mem (s : State) (k : Nat) (v : SyncObj) : (s.setObj k v).mem = s.mem := rfl
@[simp] theorem State.setObj_poison (s : State) (k : Nat) (v : SyncObj) : (s.setObj k v).poison = s.poison := rfl
@[simp] theorem State.setObj_vague (s : State) (k : Nat) (v : SyncObj) : (s.setObj k v).vague = s.vague := rfl
@[simp] theorem State.setObj_flips (s : State) (k : Nat) (v : SyncObj) : (s.setObj k v).flips = s.flips := rfl
@[simp] theorem State.setObj_regs (s : State) (k : Nat) (v : SyncObj) : (s.setObj k v).regs = s.regs := rfl
@[simp] theorem State.setObj_expert (s : State) (k : Nat) (v : SyncObj) : (s.setObj k v).expert = s.expert := rfl
@[simp] theorem State.setObj_effect (s : State) (k : Nat) (v : SyncObj) : (s.setObj k v).effect = s.effect := rfl
@[simp] theorem State.setObj_lowWord (s : State) (k : Nat) (v : SyncObj) : (s.setObj k v).lowWord = s.lowWord := rfl
@[simp] theorem State.setObj_capture (s : State) (k : Nat) (v : SyncObj) : (s.setObj k v).capture = s.capture := rfl
@[simp] theorem State.setObj_lockUsed (s : State) (k : Nat) (v : SyncObj) : (s.setObj k v).lockUsed = s.lockUsed := rfl
@[simp] theorem State.setObj_own (s : State) (k : Nat) (v : SyncObj) : (s.setObj k v).own = s.own := rfl
@[simp] theorem State.setObj_nextId (s : State) (k : Nat) (v : SyncObj) : (s.setObj k v).nextId = s.nextId := rfl
@[simp] theorem State.setObj_pending (s : State) (k : Nat) (v : SyncObj) : (s.setObj k v).pending = s.pending := rfl
@[simp] theorem State.setObj_sync_blocks (s : State) (k : Nat) (v : SyncObj) : (s.setObj k v).sync.blocks = s.sync.blocks := rfl
@[simp] theorem State.setObj_sync_waiters (s : State) (k : Nat) (v : SyncObj) : (s.setObj k v).sync.waiters = s.sync.waiters := rfl
@[simp] theorem State.setObj_inst (s : State) (k : Nat) (v : SyncObj) (i : Nat) : (s.setObj k v).inst i = s.inst i := rfl
@[simp] theorem State.setObj_slot (s : State) (k : Nat) (v : SyncObj) (i : Nat) : (s.setObj k v).slot i = s.slot i := rfl
@[simp] theorem State.setObj_queue (s : State) (k : Nat) (v : SyncObj) (i : Nat) : (s.setObj k v).queue i = s.queue i := rfl
@[simp] theorem State.setObj_ringsOf (s : State) (k : Nat) (v : SyncObj) (i : Nat) : (s.setObj k v).ringsOf i = s.ringsOf i := rfl
@[simp] theorem State.setObj_cluster (s : State) (k : Nat) (v : SyncObj) (i : Nat) : (s.setObj k v).cluster i = s.cluster i := rfl
@[simp] theorem State.setObj_beacon (s : State) (k : Nat) (v : SyncObj) (i : Nat) : (s.setObj k v).beacon i = s.beacon i := rfl
@[simp] theorem State.setObj_resv (s : State) (k : Nat) (v : SyncObj) (i : Nat) : (s.setObj k v).resv i = s.resv i := rfl
@[simp] theorem State.setObj_session (s : State) (k : Nat) (v : SyncObj) (i : Nat) : (s.setObj k v).session i = s.session i := rfl
@[simp] theorem State.setObj_fn (s : State) (k : Nat) (v : SyncObj) (i : Nat) : (s.setObj k v).fn i = s.fn i := rfl
@[simp] theorem State.setObj_head (s : State) (k : Nat) (v : SyncObj) (i : Nat) : (s.setObj k v).head i = s.head i := rfl
@[simp] theorem State.setObj_port (s : State) (k : Nat) (v : SyncObj) (i : Nat) : (s.setObj k v).port i = s.port i := rfl
@[simp] theorem State.setObj_reg (s : State) (k : Nat) (v : SyncObj) (i : Nat) : (s.setObj k v).reg i = s.reg i := rfl
@[simp] theorem State.setObj_memByte (s : State) (k : Nat) (v : SyncObj) (a : Nat) : (s.setObj k v).memByte a = s.memByte a := rfl

/-! ### setSession -/

@[simp] theorem State.setSession_pw (s : State) (k : Nat) (v : Sess) : (s.setSession k v).pw = s.pw := rfl
@[simp] theorem State.setSession_ck (s : State) (k : Nat) (v : Sess) : (s.setSession k v).ck = s.ck := rfl
@[simp] theorem State.setSession_pcie (s : State) (k : Nat) (v : Sess) : (s.setSession k v).pcie = s.pcie := rfl
@[simp] theorem State.setSession_sec (s : State) (k : Nat) (v : Sess) : (s.setSession k v).sec = s.sec := rfl
@[simp] theorem State.setSession_fw (s : State) (k : Nat) (v : Sess) : (s.setSession k v).fw = s.fw := rfl
@[simp] theorem State.setSession_fcol (s : State) (k : Nat) (v : Sess) : (s.setSession k v).fcol = s.fcol := rfl
@[simp] theorem State.setSession_brn (s : State) (k : Nat) (v : Sess) : (s.setSession k v).brn = s.brn := rfl
@[simp] theorem State.setSession_insts (s : State) (k : Nat) (v : Sess) : (s.setSession k v).insts = s.insts := rfl
@[simp] theorem State.setSession_slots (s : State) (k : Nat) (v : Sess) : (s.setSession k v).slots = s.slots := rfl
@[simp] theorem State.setSession_queues (s : State) (k : Nat) (v : Sess) : (s.setSession k v).queues = s.queues := rfl
@[simp] theorem State.setSession_cmds (s : State) (k : Nat) (v : Sess) : (s.setSession k v).cmds = s.cmds := rfl
@[simp] theorem State.setSession_movers (s : State) (k : Nat) (v : Sess) : (s.setSession k v).movers = s.movers := rfl
@[simp] theorem State.setSession_launches (s : State) (k : Nat) (v : Sess) : (s.setSession k v).launches = s.launches := rfl
@[simp] theorem State.setSession_ctxs (s : State) (k : Nat) (v : Sess) : (s.setSession k v).ctxs = s.ctxs := rfl
@[simp] theorem State.setSession_rr (s : State) (k : Nat) (v : Sess) : (s.setSession k v).rr = s.rr := rfl
@[simp] theorem State.setSession_clusters (s : State) (k : Nat) (v : Sess) : (s.setSession k v).clusters = s.clusters := rfl
@[simp] theorem State.setSession_beacons (s : State) (k : Nat) (v : Sess) : (s.setSession k v).beacons = s.beacons := rfl
@[simp] theorem State.setSession_resvs (s : State) (k : Nat) (v : Sess) : (s.setSession k v).resvs = s.resvs := rfl
@[simp] theorem State.setSession_sync (s : State) (k : Nat) (v : Sess) : (s.setSession k v).sync = s.sync := rfl
@[simp] theorem State.setSession_disp (s : State) (k : Nat) (v : Sess) : (s.setSession k v).disp = s.disp := rfl
@[simp] theorem State.setSession_trim (s : State) (k : Nat) (v : Sess) : (s.setSession k v).trim = s.trim := rfl
@[simp] theorem State.setSession_caches (s : State) (k : Nat) (v : Sess) : (s.setSession k v).caches = s.caches := rfl
@[simp] theorem State.setSession_htab (s : State) (k : Nat) (v : Sess) : (s.setSession k v).htab = s.htab := rfl
@[simp] theorem State.setSession_mem (s : State) (k : Nat) (v : Sess) : (s.setSession k v).mem = s.mem := rfl
@[simp] theorem State.setSession_poison (s : State) (k : Nat) (v : Sess) : (s.setSession k v).poison = s.poison := rfl
@[simp] theorem State.setSession_vague (s : State) (k : Nat) (v : Sess) : (s.setSession k v).vague = s.vague := rfl
@[simp] theorem State.setSession_flips (s : State) (k : Nat) (v : Sess) : (s.setSession k v).flips = s.flips := rfl
@[simp] theorem State.setSession_regs (s : State) (k : Nat) (v : Sess) : (s.setSession k v).regs = s.regs := rfl
@[simp] theorem State.setSession_expert (s : State) (k : Nat) (v : Sess) : (s.setSession k v).expert = s.expert := rfl
@[simp] theorem State.setSession_effect (s : State) (k : Nat) (v : Sess) : (s.setSession k v).effect = s.effect := rfl
@[simp] theorem State.setSession_lowWord (s : State) (k : Nat) (v : Sess) : (s.setSession k v).lowWord = s.lowWord := rfl
@[simp] theorem State.setSession_capture (s : State) (k : Nat) (v : Sess) : (s.setSession k v).capture = s.capture := rfl
@[simp] theorem State.setSession_lockUsed (s : State) (k : Nat) (v : Sess) : (s.setSession k v).lockUsed = s.lockUsed := rfl
@[simp] theorem State.setSession_own (s : State) (k : Nat) (v : Sess) : (s.setSession k v).own = s.own := rfl
@[simp] theorem State.setSession_nextId (s : State) (k : Nat) (v : Sess) : (s.setSession k v).nextId = s.nextId := rfl
@[simp] theorem State.setSession_pending (s : State) (k : Nat) (v : Sess) : (s.setSession k v).pending = s.pending := rfl
@[simp] theorem State.setSession_inst (s : State) (k : Nat) (v : Sess) (i : Nat) : (s.setSession k v).inst i = s.inst i := rfl
@[simp] theorem State.setSession_slot (s : State) (k : Nat) (v : Sess) (i : Nat) : (s.setSession k v).slot i = s.slot i := rfl
@[simp] theorem State.setSession_queue (s : State) (k : Nat) (v : Sess) (i : Nat) : (s.setSession k v).queue i = s.queue i := rfl
@[simp] theorem State.setSession_ringsOf (s : State) (k : Nat) (v : Sess) (i : Nat) : (s.setSession k v).ringsOf i = s.ringsOf i := rfl
@[simp] theorem State.setSession_cluster (s : State) (k : Nat) (v : Sess) (i : Nat) : (s.setSession k v).cluster i = s.cluster i := rfl
@[simp] theorem State.setSession_beacon (s : State) (k : Nat) (v : Sess) (i : Nat) : (s.setSession k v).beacon i = s.beacon i := rfl
@[simp] theorem State.setSession_resv (s : State) (k : Nat) (v : Sess) (i : Nat) : (s.setSession k v).resv i = s.resv i := rfl
@[simp] theorem State.setSession_obj (s : State) (k : Nat) (v : Sess) (i : Nat) : (s.setSession k v).obj i = s.obj i := rfl
@[simp] theorem State.setSession_fn (s : State) (k : Nat) (v : Sess) (i : Nat) : (s.setSession k v).fn i = s.fn i := rfl
@[simp] theorem State.setSession_head (s : State) (k : Nat) (v : Sess) (i : Nat) : (s.setSession k v).head i = s.head i := rfl
@[simp] theorem State.setSession_port (s : State) (k : Nat) (v : Sess) (i : Nat) : (s.setSession k v).port i = s.port i := rfl
@[simp] theorem State.setSession_reg (s : State) (k : Nat) (v : Sess) (i : Nat) : (s.setSession k v).reg i = s.reg i := rfl
@[simp] theorem State.setSession_memByte (s : State) (k : Nat) (v : Sess) (a : Nat) : (s.setSession k v).memByte a = s.memByte a := rfl

/-! ### setFn -/

@[simp] theorem State.setFn_pw (s : State) (k : Nat) (v : FnCfg) : (s.setFn k v).pw = s.pw := rfl
@[simp] theorem State.setFn_ck (s : State) (k : Nat) (v : FnCfg) : (s.setFn k v).ck = s.ck := rfl
@[simp] theorem State.setFn_sec (s : State) (k : Nat) (v : FnCfg) : (s.setFn k v).sec = s.sec := rfl
@[simp] theorem State.setFn_fw (s : State) (k : Nat) (v : FnCfg) : (s.setFn k v).fw = s.fw := rfl
@[simp] theorem State.setFn_fcol (s : State) (k : Nat) (v : FnCfg) : (s.setFn k v).fcol = s.fcol := rfl
@[simp] theorem State.setFn_brn (s : State) (k : Nat) (v : FnCfg) : (s.setFn k v).brn = s.brn := rfl
@[simp] theorem State.setFn_insts (s : State) (k : Nat) (v : FnCfg) : (s.setFn k v).insts = s.insts := rfl
@[simp] theorem State.setFn_slots (s : State) (k : Nat) (v : FnCfg) : (s.setFn k v).slots = s.slots := rfl
@[simp] theorem State.setFn_queues (s : State) (k : Nat) (v : FnCfg) : (s.setFn k v).queues = s.queues := rfl
@[simp] theorem State.setFn_cmds (s : State) (k : Nat) (v : FnCfg) : (s.setFn k v).cmds = s.cmds := rfl
@[simp] theorem State.setFn_movers (s : State) (k : Nat) (v : FnCfg) : (s.setFn k v).movers = s.movers := rfl
@[simp] theorem State.setFn_launches (s : State) (k : Nat) (v : FnCfg) : (s.setFn k v).launches = s.launches := rfl
@[simp] theorem State.setFn_ctxs (s : State) (k : Nat) (v : FnCfg) : (s.setFn k v).ctxs = s.ctxs := rfl
@[simp] theorem State.setFn_rr (s : State) (k : Nat) (v : FnCfg) : (s.setFn k v).rr = s.rr := rfl
@[simp] theorem State.setFn_clusters (s : State) (k : Nat) (v : FnCfg) : (s.setFn k v).clusters = s.clusters := rfl
@[simp] theorem State.setFn_beacons (s : State) (k : Nat) (v : FnCfg) : (s.setFn k v).beacons = s.beacons := rfl
@[simp] theorem State.setFn_resvs (s : State) (k : Nat) (v : FnCfg) : (s.setFn k v).resvs = s.resvs := rfl
@[simp] theorem State.setFn_sync (s : State) (k : Nat) (v : FnCfg) : (s.setFn k v).sync = s.sync := rfl
@[simp] theorem State.setFn_sess (s : State) (k : Nat) (v : FnCfg) : (s.setFn k v).sess = s.sess := rfl
@[simp] theorem State.setFn_disp (s : State) (k : Nat) (v : FnCfg) : (s.setFn k v).disp = s.disp := rfl
@[simp] theorem State.setFn_trim (s : State) (k : Nat) (v : FnCfg) : (s.setFn k v).trim = s.trim := rfl
@[simp] theorem State.setFn_caches (s : State) (k : Nat) (v : FnCfg) : (s.setFn k v).caches = s.caches := rfl
@[simp] theorem State.setFn_htab (s : State) (k : Nat) (v : FnCfg) : (s.setFn k v).htab = s.htab := rfl
@[simp] theorem State.setFn_mem (s : State) (k : Nat) (v : FnCfg) : (s.setFn k v).mem = s.mem := rfl
@[simp] theorem State.setFn_poison (s : State) (k : Nat) (v : FnCfg) : (s.setFn k v).poison = s.poison := rfl
@[simp] theorem State.setFn_vague (s : State) (k : Nat) (v : FnCfg) : (s.setFn k v).vague = s.vague := rfl
@[simp] theorem State.setFn_flips (s : State) (k : Nat) (v : FnCfg) : (s.setFn k v).flips = s.flips := rfl
@[simp] theorem State.setFn_regs (s : State) (k : Nat) (v : FnCfg) : (s.setFn k v).regs = s.regs := rfl
@[simp] theorem State.setFn_expert (s : State) (k : Nat) (v : FnCfg) : (s.setFn k v).expert = s.expert := rfl
@[simp] theorem State.setFn_effect (s : State) (k : Nat) (v : FnCfg) : (s.setFn k v).effect = s.effect := rfl
@[simp] theorem State.setFn_lowWord (s : State) (k : Nat) (v : FnCfg) : (s.setFn k v).lowWord = s.lowWord := rfl
@[simp] theorem State.setFn_capture (s : State) (k : Nat) (v : FnCfg) : (s.setFn k v).capture = s.capture := rfl
@[simp] theorem State.setFn_lockUsed (s : State) (k : Nat) (v : FnCfg) : (s.setFn k v).lockUsed = s.lockUsed := rfl
@[simp] theorem State.setFn_own (s : State) (k : Nat) (v : FnCfg) : (s.setFn k v).own = s.own := rfl
@[simp] theorem State.setFn_nextId (s : State) (k : Nat) (v : FnCfg) : (s.setFn k v).nextId = s.nextId := rfl
@[simp] theorem State.setFn_pending (s : State) (k : Nat) (v : FnCfg) : (s.setFn k v).pending = s.pending := rfl
@[simp] theorem State.setFn_pcie_linkUp (s : State) (k : Nat) (v : FnCfg) : (s.setFn k v).pcie.linkUp = s.pcie.linkUp := rfl
@[simp] theorem State.setFn_pcie_rate (s : State) (k : Nat) (v : FnCfg) : (s.setFn k v).pcie.rate = s.pcie.rate := rfl
@[simp] theorem State.setFn_pcie_width (s : State) (k : Nat) (v : FnCfg) : (s.setFn k v).pcie.width = s.pcie.width := rfl
@[simp] theorem State.setFn_pcie_flit (s : State) (k : Nat) (v : FnCfg) : (s.setFn k v).pcie.flit = s.pcie.flit := rfl
@[simp] theorem State.setFn_pcie_pfBar2 (s : State) (k : Nat) (v : FnCfg) : (s.setFn k v).pcie.pfBar2 = s.pcie.pfBar2 := rfl
@[simp] theorem State.setFn_pcie_vfBar2 (s : State) (k : Nat) (v : FnCfg) : (s.setFn k v).pcie.vfBar2 = s.pcie.vfBar2 := rfl
@[simp] theorem State.setFn_pcie_vfEn (s : State) (k : Nat) (v : FnCfg) : (s.setFn k v).pcie.vfEn = s.pcie.vfEn := rfl
@[simp] theorem State.setFn_pcie_vfMse (s : State) (k : Nat) (v : FnCfg) : (s.setFn k v).pcie.vfMse = s.pcie.vfMse := rfl
@[simp] theorem State.setFn_pcie_numVfs (s : State) (k : Nat) (v : FnCfg) : (s.setFn k v).pcie.numVfs = s.pcie.numVfs := rfl
@[simp] theorem State.setFn_pcie_ptmEn (s : State) (k : Nat) (v : FnCfg) : (s.setFn k v).pcie.ptmEn = s.pcie.ptmEn := rfl
@[simp] theorem State.setFn_pcie_ats (s : State) (k : Nat) (v : FnCfg) : (s.setFn k v).pcie.ats = s.pcie.ats := rfl
@[simp] theorem State.setFn_pcie_txq (s : State) (k : Nat) (v : FnCfg) : (s.setFn k v).pcie.txq = s.pcie.txq := rfl
@[simp] theorem State.setFn_pcie_held (s : State) (k : Nat) (v : FnCfg) : (s.setFn k v).pcie.held = s.pcie.held := rfl
@[simp] theorem State.setFn_pcie_stall (s : State) (k : Nat) (v : FnCfg) : (s.setFn k v).pcie.stall = s.pcie.stall := rfl
@[simp] theorem State.setFn_pcie_stallStart (s : State) (k : Nat) (v : FnCfg) : (s.setFn k v).pcie.stallStart = s.pcie.stallStart := rfl
@[simp] theorem State.setFn_pcie_reads (s : State) (k : Nat) (v : FnCfg) : (s.setFn k v).pcie.reads = s.pcie.reads := rfl
@[simp] theorem State.setFn_pcie_sent (s : State) (k : Nat) (v : FnCfg) : (s.setFn k v).pcie.sent = s.pcie.sent := rfl
@[simp] theorem State.setFn_pcie_pba (s : State) (k : Nat) (v : FnCfg) : (s.setFn k v).pcie.pba = s.pcie.pba := rfl
@[simp] theorem State.setFn_inst (s : State) (k : Nat) (v : FnCfg) (i : Nat) : (s.setFn k v).inst i = s.inst i := rfl
@[simp] theorem State.setFn_slot (s : State) (k : Nat) (v : FnCfg) (i : Nat) : (s.setFn k v).slot i = s.slot i := rfl
@[simp] theorem State.setFn_queue (s : State) (k : Nat) (v : FnCfg) (i : Nat) : (s.setFn k v).queue i = s.queue i := rfl
@[simp] theorem State.setFn_ringsOf (s : State) (k : Nat) (v : FnCfg) (i : Nat) : (s.setFn k v).ringsOf i = s.ringsOf i := rfl
@[simp] theorem State.setFn_cluster (s : State) (k : Nat) (v : FnCfg) (i : Nat) : (s.setFn k v).cluster i = s.cluster i := rfl
@[simp] theorem State.setFn_beacon (s : State) (k : Nat) (v : FnCfg) (i : Nat) : (s.setFn k v).beacon i = s.beacon i := rfl
@[simp] theorem State.setFn_resv (s : State) (k : Nat) (v : FnCfg) (i : Nat) : (s.setFn k v).resv i = s.resv i := rfl
@[simp] theorem State.setFn_obj (s : State) (k : Nat) (v : FnCfg) (i : Nat) : (s.setFn k v).obj i = s.obj i := rfl
@[simp] theorem State.setFn_session (s : State) (k : Nat) (v : FnCfg) (i : Nat) : (s.setFn k v).session i = s.session i := rfl
@[simp] theorem State.setFn_head (s : State) (k : Nat) (v : FnCfg) (i : Nat) : (s.setFn k v).head i = s.head i := rfl
@[simp] theorem State.setFn_port (s : State) (k : Nat) (v : FnCfg) (i : Nat) : (s.setFn k v).port i = s.port i := rfl
@[simp] theorem State.setFn_reg (s : State) (k : Nat) (v : FnCfg) (i : Nat) : (s.setFn k v).reg i = s.reg i := rfl
@[simp] theorem State.setFn_memByte (s : State) (k : Nat) (v : FnCfg) (a : Nat) : (s.setFn k v).memByte a = s.memByte a := rfl

/-! ### setLaunch -/

@[simp] theorem State.setLaunch_pw (s : State) (k : Nat) (v : Launch) : (s.setLaunch k v).pw = s.pw := rfl
@[simp] theorem State.setLaunch_ck (s : State) (k : Nat) (v : Launch) : (s.setLaunch k v).ck = s.ck := rfl
@[simp] theorem State.setLaunch_pcie (s : State) (k : Nat) (v : Launch) : (s.setLaunch k v).pcie = s.pcie := rfl
@[simp] theorem State.setLaunch_sec (s : State) (k : Nat) (v : Launch) : (s.setLaunch k v).sec = s.sec := rfl
@[simp] theorem State.setLaunch_fw (s : State) (k : Nat) (v : Launch) : (s.setLaunch k v).fw = s.fw := rfl
@[simp] theorem State.setLaunch_fcol (s : State) (k : Nat) (v : Launch) : (s.setLaunch k v).fcol = s.fcol := rfl
@[simp] theorem State.setLaunch_brn (s : State) (k : Nat) (v : Launch) : (s.setLaunch k v).brn = s.brn := rfl
@[simp] theorem State.setLaunch_insts (s : State) (k : Nat) (v : Launch) : (s.setLaunch k v).insts = s.insts := rfl
@[simp] theorem State.setLaunch_slots (s : State) (k : Nat) (v : Launch) : (s.setLaunch k v).slots = s.slots := rfl
@[simp] theorem State.setLaunch_queues (s : State) (k : Nat) (v : Launch) : (s.setLaunch k v).queues = s.queues := rfl
@[simp] theorem State.setLaunch_cmds (s : State) (k : Nat) (v : Launch) : (s.setLaunch k v).cmds = s.cmds := rfl
@[simp] theorem State.setLaunch_movers (s : State) (k : Nat) (v : Launch) : (s.setLaunch k v).movers = s.movers := rfl
@[simp] theorem State.setLaunch_ctxs (s : State) (k : Nat) (v : Launch) : (s.setLaunch k v).ctxs = s.ctxs := rfl
@[simp] theorem State.setLaunch_rr (s : State) (k : Nat) (v : Launch) : (s.setLaunch k v).rr = s.rr := rfl
@[simp] theorem State.setLaunch_clusters (s : State) (k : Nat) (v : Launch) : (s.setLaunch k v).clusters = s.clusters := rfl
@[simp] theorem State.setLaunch_beacons (s : State) (k : Nat) (v : Launch) : (s.setLaunch k v).beacons = s.beacons := rfl
@[simp] theorem State.setLaunch_resvs (s : State) (k : Nat) (v : Launch) : (s.setLaunch k v).resvs = s.resvs := rfl
@[simp] theorem State.setLaunch_sync (s : State) (k : Nat) (v : Launch) : (s.setLaunch k v).sync = s.sync := rfl
@[simp] theorem State.setLaunch_sess (s : State) (k : Nat) (v : Launch) : (s.setLaunch k v).sess = s.sess := rfl
@[simp] theorem State.setLaunch_disp (s : State) (k : Nat) (v : Launch) : (s.setLaunch k v).disp = s.disp := rfl
@[simp] theorem State.setLaunch_trim (s : State) (k : Nat) (v : Launch) : (s.setLaunch k v).trim = s.trim := rfl
@[simp] theorem State.setLaunch_caches (s : State) (k : Nat) (v : Launch) : (s.setLaunch k v).caches = s.caches := rfl
@[simp] theorem State.setLaunch_htab (s : State) (k : Nat) (v : Launch) : (s.setLaunch k v).htab = s.htab := rfl
@[simp] theorem State.setLaunch_mem (s : State) (k : Nat) (v : Launch) : (s.setLaunch k v).mem = s.mem := rfl
@[simp] theorem State.setLaunch_poison (s : State) (k : Nat) (v : Launch) : (s.setLaunch k v).poison = s.poison := rfl
@[simp] theorem State.setLaunch_vague (s : State) (k : Nat) (v : Launch) : (s.setLaunch k v).vague = s.vague := rfl
@[simp] theorem State.setLaunch_flips (s : State) (k : Nat) (v : Launch) : (s.setLaunch k v).flips = s.flips := rfl
@[simp] theorem State.setLaunch_regs (s : State) (k : Nat) (v : Launch) : (s.setLaunch k v).regs = s.regs := rfl
@[simp] theorem State.setLaunch_expert (s : State) (k : Nat) (v : Launch) : (s.setLaunch k v).expert = s.expert := rfl
@[simp] theorem State.setLaunch_effect (s : State) (k : Nat) (v : Launch) : (s.setLaunch k v).effect = s.effect := rfl
@[simp] theorem State.setLaunch_lowWord (s : State) (k : Nat) (v : Launch) : (s.setLaunch k v).lowWord = s.lowWord := rfl
@[simp] theorem State.setLaunch_capture (s : State) (k : Nat) (v : Launch) : (s.setLaunch k v).capture = s.capture := rfl
@[simp] theorem State.setLaunch_lockUsed (s : State) (k : Nat) (v : Launch) : (s.setLaunch k v).lockUsed = s.lockUsed := rfl
@[simp] theorem State.setLaunch_own (s : State) (k : Nat) (v : Launch) : (s.setLaunch k v).own = s.own := rfl
@[simp] theorem State.setLaunch_nextId (s : State) (k : Nat) (v : Launch) : (s.setLaunch k v).nextId = s.nextId := rfl
@[simp] theorem State.setLaunch_pending (s : State) (k : Nat) (v : Launch) : (s.setLaunch k v).pending = s.pending := rfl
@[simp] theorem State.setLaunch_inst (s : State) (k : Nat) (v : Launch) (i : Nat) : (s.setLaunch k v).inst i = s.inst i := rfl
@[simp] theorem State.setLaunch_slot (s : State) (k : Nat) (v : Launch) (i : Nat) : (s.setLaunch k v).slot i = s.slot i := rfl
@[simp] theorem State.setLaunch_queue (s : State) (k : Nat) (v : Launch) (i : Nat) : (s.setLaunch k v).queue i = s.queue i := rfl
@[simp] theorem State.setLaunch_ringsOf (s : State) (k : Nat) (v : Launch) (i : Nat) : (s.setLaunch k v).ringsOf i = s.ringsOf i := rfl
@[simp] theorem State.setLaunch_cluster (s : State) (k : Nat) (v : Launch) (i : Nat) : (s.setLaunch k v).cluster i = s.cluster i := rfl
@[simp] theorem State.setLaunch_beacon (s : State) (k : Nat) (v : Launch) (i : Nat) : (s.setLaunch k v).beacon i = s.beacon i := rfl
@[simp] theorem State.setLaunch_resv (s : State) (k : Nat) (v : Launch) (i : Nat) : (s.setLaunch k v).resv i = s.resv i := rfl
@[simp] theorem State.setLaunch_obj (s : State) (k : Nat) (v : Launch) (i : Nat) : (s.setLaunch k v).obj i = s.obj i := rfl
@[simp] theorem State.setLaunch_session (s : State) (k : Nat) (v : Launch) (i : Nat) : (s.setLaunch k v).session i = s.session i := rfl
@[simp] theorem State.setLaunch_fn (s : State) (k : Nat) (v : Launch) (i : Nat) : (s.setLaunch k v).fn i = s.fn i := rfl
@[simp] theorem State.setLaunch_head (s : State) (k : Nat) (v : Launch) (i : Nat) : (s.setLaunch k v).head i = s.head i := rfl
@[simp] theorem State.setLaunch_port (s : State) (k : Nat) (v : Launch) (i : Nat) : (s.setLaunch k v).port i = s.port i := rfl
@[simp] theorem State.setLaunch_reg (s : State) (k : Nat) (v : Launch) (i : Nat) : (s.setLaunch k v).reg i = s.reg i := rfl
@[simp] theorem State.setLaunch_memByte (s : State) (k : Nat) (v : Launch) (a : Nat) : (s.setLaunch k v).memByte a = s.memByte a := rfl

/-! ### setCtx -/

@[simp] theorem State.setCtx_pw (s : State) (k : Nat) (v : Ctx) : (s.setCtx k v).pw = s.pw := rfl
@[simp] theorem State.setCtx_ck (s : State) (k : Nat) (v : Ctx) : (s.setCtx k v).ck = s.ck := rfl
@[simp] theorem State.setCtx_pcie (s : State) (k : Nat) (v : Ctx) : (s.setCtx k v).pcie = s.pcie := rfl
@[simp] theorem State.setCtx_sec (s : State) (k : Nat) (v : Ctx) : (s.setCtx k v).sec = s.sec := rfl
@[simp] theorem State.setCtx_fw (s : State) (k : Nat) (v : Ctx) : (s.setCtx k v).fw = s.fw := rfl
@[simp] theorem State.setCtx_fcol (s : State) (k : Nat) (v : Ctx) : (s.setCtx k v).fcol = s.fcol := rfl
@[simp] theorem State.setCtx_brn (s : State) (k : Nat) (v : Ctx) : (s.setCtx k v).brn = s.brn := rfl
@[simp] theorem State.setCtx_insts (s : State) (k : Nat) (v : Ctx) : (s.setCtx k v).insts = s.insts := rfl
@[simp] theorem State.setCtx_slots (s : State) (k : Nat) (v : Ctx) : (s.setCtx k v).slots = s.slots := rfl
@[simp] theorem State.setCtx_queues (s : State) (k : Nat) (v : Ctx) : (s.setCtx k v).queues = s.queues := rfl
@[simp] theorem State.setCtx_cmds (s : State) (k : Nat) (v : Ctx) : (s.setCtx k v).cmds = s.cmds := rfl
@[simp] theorem State.setCtx_movers (s : State) (k : Nat) (v : Ctx) : (s.setCtx k v).movers = s.movers := rfl
@[simp] theorem State.setCtx_launches (s : State) (k : Nat) (v : Ctx) : (s.setCtx k v).launches = s.launches := rfl
@[simp] theorem State.setCtx_rr (s : State) (k : Nat) (v : Ctx) : (s.setCtx k v).rr = s.rr := rfl
@[simp] theorem State.setCtx_clusters (s : State) (k : Nat) (v : Ctx) : (s.setCtx k v).clusters = s.clusters := rfl
@[simp] theorem State.setCtx_beacons (s : State) (k : Nat) (v : Ctx) : (s.setCtx k v).beacons = s.beacons := rfl
@[simp] theorem State.setCtx_resvs (s : State) (k : Nat) (v : Ctx) : (s.setCtx k v).resvs = s.resvs := rfl
@[simp] theorem State.setCtx_sync (s : State) (k : Nat) (v : Ctx) : (s.setCtx k v).sync = s.sync := rfl
@[simp] theorem State.setCtx_sess (s : State) (k : Nat) (v : Ctx) : (s.setCtx k v).sess = s.sess := rfl
@[simp] theorem State.setCtx_disp (s : State) (k : Nat) (v : Ctx) : (s.setCtx k v).disp = s.disp := rfl
@[simp] theorem State.setCtx_trim (s : State) (k : Nat) (v : Ctx) : (s.setCtx k v).trim = s.trim := rfl
@[simp] theorem State.setCtx_caches (s : State) (k : Nat) (v : Ctx) : (s.setCtx k v).caches = s.caches := rfl
@[simp] theorem State.setCtx_htab (s : State) (k : Nat) (v : Ctx) : (s.setCtx k v).htab = s.htab := rfl
@[simp] theorem State.setCtx_mem (s : State) (k : Nat) (v : Ctx) : (s.setCtx k v).mem = s.mem := rfl
@[simp] theorem State.setCtx_poison (s : State) (k : Nat) (v : Ctx) : (s.setCtx k v).poison = s.poison := rfl
@[simp] theorem State.setCtx_vague (s : State) (k : Nat) (v : Ctx) : (s.setCtx k v).vague = s.vague := rfl
@[simp] theorem State.setCtx_flips (s : State) (k : Nat) (v : Ctx) : (s.setCtx k v).flips = s.flips := rfl
@[simp] theorem State.setCtx_regs (s : State) (k : Nat) (v : Ctx) : (s.setCtx k v).regs = s.regs := rfl
@[simp] theorem State.setCtx_expert (s : State) (k : Nat) (v : Ctx) : (s.setCtx k v).expert = s.expert := rfl
@[simp] theorem State.setCtx_effect (s : State) (k : Nat) (v : Ctx) : (s.setCtx k v).effect = s.effect := rfl
@[simp] theorem State.setCtx_lowWord (s : State) (k : Nat) (v : Ctx) : (s.setCtx k v).lowWord = s.lowWord := rfl
@[simp] theorem State.setCtx_capture (s : State) (k : Nat) (v : Ctx) : (s.setCtx k v).capture = s.capture := rfl
@[simp] theorem State.setCtx_lockUsed (s : State) (k : Nat) (v : Ctx) : (s.setCtx k v).lockUsed = s.lockUsed := rfl
@[simp] theorem State.setCtx_own (s : State) (k : Nat) (v : Ctx) : (s.setCtx k v).own = s.own := rfl
@[simp] theorem State.setCtx_nextId (s : State) (k : Nat) (v : Ctx) : (s.setCtx k v).nextId = s.nextId := rfl
@[simp] theorem State.setCtx_pending (s : State) (k : Nat) (v : Ctx) : (s.setCtx k v).pending = s.pending := rfl
@[simp] theorem State.setCtx_inst (s : State) (k : Nat) (v : Ctx) (i : Nat) : (s.setCtx k v).inst i = s.inst i := rfl
@[simp] theorem State.setCtx_slot (s : State) (k : Nat) (v : Ctx) (i : Nat) : (s.setCtx k v).slot i = s.slot i := rfl
@[simp] theorem State.setCtx_queue (s : State) (k : Nat) (v : Ctx) (i : Nat) : (s.setCtx k v).queue i = s.queue i := rfl
@[simp] theorem State.setCtx_ringsOf (s : State) (k : Nat) (v : Ctx) (i : Nat) : (s.setCtx k v).ringsOf i = s.ringsOf i := rfl
@[simp] theorem State.setCtx_cluster (s : State) (k : Nat) (v : Ctx) (i : Nat) : (s.setCtx k v).cluster i = s.cluster i := rfl
@[simp] theorem State.setCtx_beacon (s : State) (k : Nat) (v : Ctx) (i : Nat) : (s.setCtx k v).beacon i = s.beacon i := rfl
@[simp] theorem State.setCtx_resv (s : State) (k : Nat) (v : Ctx) (i : Nat) : (s.setCtx k v).resv i = s.resv i := rfl
@[simp] theorem State.setCtx_obj (s : State) (k : Nat) (v : Ctx) (i : Nat) : (s.setCtx k v).obj i = s.obj i := rfl
@[simp] theorem State.setCtx_session (s : State) (k : Nat) (v : Ctx) (i : Nat) : (s.setCtx k v).session i = s.session i := rfl
@[simp] theorem State.setCtx_fn (s : State) (k : Nat) (v : Ctx) (i : Nat) : (s.setCtx k v).fn i = s.fn i := rfl
@[simp] theorem State.setCtx_head (s : State) (k : Nat) (v : Ctx) (i : Nat) : (s.setCtx k v).head i = s.head i := rfl
@[simp] theorem State.setCtx_port (s : State) (k : Nat) (v : Ctx) (i : Nat) : (s.setCtx k v).port i = s.port i := rfl
@[simp] theorem State.setCtx_reg (s : State) (k : Nat) (v : Ctx) (i : Nat) : (s.setCtx k v).reg i = s.reg i := rfl
@[simp] theorem State.setCtx_memByte (s : State) (k : Nat) (v : Ctx) (a : Nat) : (s.setCtx k v).memByte a = s.memByte a := rfl

/-! ### setHead -/

@[simp] theorem State.setHead_pw (s : State) (k : Nat) (v : Head) : (s.setHead k v).pw = s.pw := rfl
@[simp] theorem State.setHead_ck (s : State) (k : Nat) (v : Head) : (s.setHead k v).ck = s.ck := rfl
@[simp] theorem State.setHead_pcie (s : State) (k : Nat) (v : Head) : (s.setHead k v).pcie = s.pcie := rfl
@[simp] theorem State.setHead_sec (s : State) (k : Nat) (v : Head) : (s.setHead k v).sec = s.sec := rfl
@[simp] theorem State.setHead_fw (s : State) (k : Nat) (v : Head) : (s.setHead k v).fw = s.fw := rfl
@[simp] theorem State.setHead_fcol (s : State) (k : Nat) (v : Head) : (s.setHead k v).fcol = s.fcol := rfl
@[simp] theorem State.setHead_brn (s : State) (k : Nat) (v : Head) : (s.setHead k v).brn = s.brn := rfl
@[simp] theorem State.setHead_insts (s : State) (k : Nat) (v : Head) : (s.setHead k v).insts = s.insts := rfl
@[simp] theorem State.setHead_slots (s : State) (k : Nat) (v : Head) : (s.setHead k v).slots = s.slots := rfl
@[simp] theorem State.setHead_queues (s : State) (k : Nat) (v : Head) : (s.setHead k v).queues = s.queues := rfl
@[simp] theorem State.setHead_cmds (s : State) (k : Nat) (v : Head) : (s.setHead k v).cmds = s.cmds := rfl
@[simp] theorem State.setHead_movers (s : State) (k : Nat) (v : Head) : (s.setHead k v).movers = s.movers := rfl
@[simp] theorem State.setHead_launches (s : State) (k : Nat) (v : Head) : (s.setHead k v).launches = s.launches := rfl
@[simp] theorem State.setHead_ctxs (s : State) (k : Nat) (v : Head) : (s.setHead k v).ctxs = s.ctxs := rfl
@[simp] theorem State.setHead_rr (s : State) (k : Nat) (v : Head) : (s.setHead k v).rr = s.rr := rfl
@[simp] theorem State.setHead_clusters (s : State) (k : Nat) (v : Head) : (s.setHead k v).clusters = s.clusters := rfl
@[simp] theorem State.setHead_beacons (s : State) (k : Nat) (v : Head) : (s.setHead k v).beacons = s.beacons := rfl
@[simp] theorem State.setHead_resvs (s : State) (k : Nat) (v : Head) : (s.setHead k v).resvs = s.resvs := rfl
@[simp] theorem State.setHead_sync (s : State) (k : Nat) (v : Head) : (s.setHead k v).sync = s.sync := rfl
@[simp] theorem State.setHead_sess (s : State) (k : Nat) (v : Head) : (s.setHead k v).sess = s.sess := rfl
@[simp] theorem State.setHead_trim (s : State) (k : Nat) (v : Head) : (s.setHead k v).trim = s.trim := rfl
@[simp] theorem State.setHead_caches (s : State) (k : Nat) (v : Head) : (s.setHead k v).caches = s.caches := rfl
@[simp] theorem State.setHead_htab (s : State) (k : Nat) (v : Head) : (s.setHead k v).htab = s.htab := rfl
@[simp] theorem State.setHead_mem (s : State) (k : Nat) (v : Head) : (s.setHead k v).mem = s.mem := rfl
@[simp] theorem State.setHead_poison (s : State) (k : Nat) (v : Head) : (s.setHead k v).poison = s.poison := rfl
@[simp] theorem State.setHead_vague (s : State) (k : Nat) (v : Head) : (s.setHead k v).vague = s.vague := rfl
@[simp] theorem State.setHead_flips (s : State) (k : Nat) (v : Head) : (s.setHead k v).flips = s.flips := rfl
@[simp] theorem State.setHead_regs (s : State) (k : Nat) (v : Head) : (s.setHead k v).regs = s.regs := rfl
@[simp] theorem State.setHead_expert (s : State) (k : Nat) (v : Head) : (s.setHead k v).expert = s.expert := rfl
@[simp] theorem State.setHead_effect (s : State) (k : Nat) (v : Head) : (s.setHead k v).effect = s.effect := rfl
@[simp] theorem State.setHead_lowWord (s : State) (k : Nat) (v : Head) : (s.setHead k v).lowWord = s.lowWord := rfl
@[simp] theorem State.setHead_capture (s : State) (k : Nat) (v : Head) : (s.setHead k v).capture = s.capture := rfl
@[simp] theorem State.setHead_lockUsed (s : State) (k : Nat) (v : Head) : (s.setHead k v).lockUsed = s.lockUsed := rfl
@[simp] theorem State.setHead_own (s : State) (k : Nat) (v : Head) : (s.setHead k v).own = s.own := rfl
@[simp] theorem State.setHead_nextId (s : State) (k : Nat) (v : Head) : (s.setHead k v).nextId = s.nextId := rfl
@[simp] theorem State.setHead_pending (s : State) (k : Nat) (v : Head) : (s.setHead k v).pending = s.pending := rfl
@[simp] theorem State.setHead_inst (s : State) (k : Nat) (v : Head) (i : Nat) : (s.setHead k v).inst i = s.inst i := rfl
@[simp] theorem State.setHead_slot (s : State) (k : Nat) (v : Head) (i : Nat) : (s.setHead k v).slot i = s.slot i := rfl
@[simp] theorem State.setHead_queue (s : State) (k : Nat) (v : Head) (i : Nat) : (s.setHead k v).queue i = s.queue i := rfl
@[simp] theorem State.setHead_ringsOf (s : State) (k : Nat) (v : Head) (i : Nat) : (s.setHead k v).ringsOf i = s.ringsOf i := rfl
@[simp] theorem State.setHead_cluster (s : State) (k : Nat) (v : Head) (i : Nat) : (s.setHead k v).cluster i = s.cluster i := rfl
@[simp] theorem State.setHead_beacon (s : State) (k : Nat) (v : Head) (i : Nat) : (s.setHead k v).beacon i = s.beacon i := rfl
@[simp] theorem State.setHead_resv (s : State) (k : Nat) (v : Head) (i : Nat) : (s.setHead k v).resv i = s.resv i := rfl
@[simp] theorem State.setHead_obj (s : State) (k : Nat) (v : Head) (i : Nat) : (s.setHead k v).obj i = s.obj i := rfl
@[simp] theorem State.setHead_session (s : State) (k : Nat) (v : Head) (i : Nat) : (s.setHead k v).session i = s.session i := rfl
@[simp] theorem State.setHead_fn (s : State) (k : Nat) (v : Head) (i : Nat) : (s.setHead k v).fn i = s.fn i := rfl
@[simp] theorem State.setHead_port (s : State) (k : Nat) (v : Head) (i : Nat) : (s.setHead k v).port i = s.port i := rfl
@[simp] theorem State.setHead_reg (s : State) (k : Nat) (v : Head) (i : Nat) : (s.setHead k v).reg i = s.reg i := rfl
@[simp] theorem State.setHead_memByte (s : State) (k : Nat) (v : Head) (a : Nat) : (s.setHead k v).memByte a = s.memByte a := rfl

/-! ### setPort -/

@[simp] theorem State.setPort_pw (s : State) (k : Nat) (v : DpPort) : (s.setPort k v).pw = s.pw := rfl
@[simp] theorem State.setPort_ck (s : State) (k : Nat) (v : DpPort) : (s.setPort k v).ck = s.ck := rfl
@[simp] theorem State.setPort_pcie (s : State) (k : Nat) (v : DpPort) : (s.setPort k v).pcie = s.pcie := rfl
@[simp] theorem State.setPort_sec (s : State) (k : Nat) (v : DpPort) : (s.setPort k v).sec = s.sec := rfl
@[simp] theorem State.setPort_fw (s : State) (k : Nat) (v : DpPort) : (s.setPort k v).fw = s.fw := rfl
@[simp] theorem State.setPort_fcol (s : State) (k : Nat) (v : DpPort) : (s.setPort k v).fcol = s.fcol := rfl
@[simp] theorem State.setPort_brn (s : State) (k : Nat) (v : DpPort) : (s.setPort k v).brn = s.brn := rfl
@[simp] theorem State.setPort_insts (s : State) (k : Nat) (v : DpPort) : (s.setPort k v).insts = s.insts := rfl
@[simp] theorem State.setPort_slots (s : State) (k : Nat) (v : DpPort) : (s.setPort k v).slots = s.slots := rfl
@[simp] theorem State.setPort_queues (s : State) (k : Nat) (v : DpPort) : (s.setPort k v).queues = s.queues := rfl
@[simp] theorem State.setPort_cmds (s : State) (k : Nat) (v : DpPort) : (s.setPort k v).cmds = s.cmds := rfl
@[simp] theorem State.setPort_movers (s : State) (k : Nat) (v : DpPort) : (s.setPort k v).movers = s.movers := rfl
@[simp] theorem State.setPort_launches (s : State) (k : Nat) (v : DpPort) : (s.setPort k v).launches = s.launches := rfl
@[simp] theorem State.setPort_ctxs (s : State) (k : Nat) (v : DpPort) : (s.setPort k v).ctxs = s.ctxs := rfl
@[simp] theorem State.setPort_rr (s : State) (k : Nat) (v : DpPort) : (s.setPort k v).rr = s.rr := rfl
@[simp] theorem State.setPort_clusters (s : State) (k : Nat) (v : DpPort) : (s.setPort k v).clusters = s.clusters := rfl
@[simp] theorem State.setPort_beacons (s : State) (k : Nat) (v : DpPort) : (s.setPort k v).beacons = s.beacons := rfl
@[simp] theorem State.setPort_resvs (s : State) (k : Nat) (v : DpPort) : (s.setPort k v).resvs = s.resvs := rfl
@[simp] theorem State.setPort_sync (s : State) (k : Nat) (v : DpPort) : (s.setPort k v).sync = s.sync := rfl
@[simp] theorem State.setPort_sess (s : State) (k : Nat) (v : DpPort) : (s.setPort k v).sess = s.sess := rfl
@[simp] theorem State.setPort_trim (s : State) (k : Nat) (v : DpPort) : (s.setPort k v).trim = s.trim := rfl
@[simp] theorem State.setPort_caches (s : State) (k : Nat) (v : DpPort) : (s.setPort k v).caches = s.caches := rfl
@[simp] theorem State.setPort_htab (s : State) (k : Nat) (v : DpPort) : (s.setPort k v).htab = s.htab := rfl
@[simp] theorem State.setPort_mem (s : State) (k : Nat) (v : DpPort) : (s.setPort k v).mem = s.mem := rfl
@[simp] theorem State.setPort_poison (s : State) (k : Nat) (v : DpPort) : (s.setPort k v).poison = s.poison := rfl
@[simp] theorem State.setPort_vague (s : State) (k : Nat) (v : DpPort) : (s.setPort k v).vague = s.vague := rfl
@[simp] theorem State.setPort_flips (s : State) (k : Nat) (v : DpPort) : (s.setPort k v).flips = s.flips := rfl
@[simp] theorem State.setPort_regs (s : State) (k : Nat) (v : DpPort) : (s.setPort k v).regs = s.regs := rfl
@[simp] theorem State.setPort_expert (s : State) (k : Nat) (v : DpPort) : (s.setPort k v).expert = s.expert := rfl
@[simp] theorem State.setPort_effect (s : State) (k : Nat) (v : DpPort) : (s.setPort k v).effect = s.effect := rfl
@[simp] theorem State.setPort_lowWord (s : State) (k : Nat) (v : DpPort) : (s.setPort k v).lowWord = s.lowWord := rfl
@[simp] theorem State.setPort_capture (s : State) (k : Nat) (v : DpPort) : (s.setPort k v).capture = s.capture := rfl
@[simp] theorem State.setPort_lockUsed (s : State) (k : Nat) (v : DpPort) : (s.setPort k v).lockUsed = s.lockUsed := rfl
@[simp] theorem State.setPort_own (s : State) (k : Nat) (v : DpPort) : (s.setPort k v).own = s.own := rfl
@[simp] theorem State.setPort_nextId (s : State) (k : Nat) (v : DpPort) : (s.setPort k v).nextId = s.nextId := rfl
@[simp] theorem State.setPort_pending (s : State) (k : Nat) (v : DpPort) : (s.setPort k v).pending = s.pending := rfl
@[simp] theorem State.setPort_inst (s : State) (k : Nat) (v : DpPort) (i : Nat) : (s.setPort k v).inst i = s.inst i := rfl
@[simp] theorem State.setPort_slot (s : State) (k : Nat) (v : DpPort) (i : Nat) : (s.setPort k v).slot i = s.slot i := rfl
@[simp] theorem State.setPort_queue (s : State) (k : Nat) (v : DpPort) (i : Nat) : (s.setPort k v).queue i = s.queue i := rfl
@[simp] theorem State.setPort_ringsOf (s : State) (k : Nat) (v : DpPort) (i : Nat) : (s.setPort k v).ringsOf i = s.ringsOf i := rfl
@[simp] theorem State.setPort_cluster (s : State) (k : Nat) (v : DpPort) (i : Nat) : (s.setPort k v).cluster i = s.cluster i := rfl
@[simp] theorem State.setPort_beacon (s : State) (k : Nat) (v : DpPort) (i : Nat) : (s.setPort k v).beacon i = s.beacon i := rfl
@[simp] theorem State.setPort_resv (s : State) (k : Nat) (v : DpPort) (i : Nat) : (s.setPort k v).resv i = s.resv i := rfl
@[simp] theorem State.setPort_obj (s : State) (k : Nat) (v : DpPort) (i : Nat) : (s.setPort k v).obj i = s.obj i := rfl
@[simp] theorem State.setPort_session (s : State) (k : Nat) (v : DpPort) (i : Nat) : (s.setPort k v).session i = s.session i := rfl
@[simp] theorem State.setPort_fn (s : State) (k : Nat) (v : DpPort) (i : Nat) : (s.setPort k v).fn i = s.fn i := rfl
@[simp] theorem State.setPort_head (s : State) (k : Nat) (v : DpPort) (i : Nat) : (s.setPort k v).head i = s.head i := rfl
@[simp] theorem State.setPort_reg (s : State) (k : Nat) (v : DpPort) (i : Nat) : (s.setPort k v).reg i = s.reg i := rfl
@[simp] theorem State.setPort_memByte (s : State) (k : Nat) (v : DpPort) (a : Nat) : (s.setPort k v).memByte a = s.memByte a := rfl

/-! ### bumpFree -/

@[simp] theorem State.bumpFree_pw (s : State) : s.bumpFree.pw = s.pw := rfl
@[simp] theorem State.bumpFree_ck (s : State) : s.bumpFree.ck = s.ck := rfl
@[simp] theorem State.bumpFree_pcie (s : State) : s.bumpFree.pcie = s.pcie := rfl
@[simp] theorem State.bumpFree_sec (s : State) : s.bumpFree.sec = s.sec := rfl
@[simp] theorem State.bumpFree_fw (s : State) : s.bumpFree.fw = s.fw := rfl
@[simp] theorem State.bumpFree_fcol (s : State) : s.bumpFree.fcol = s.fcol := rfl
@[simp] theorem State.bumpFree_brn (s : State) : s.bumpFree.brn = s.brn := rfl
@[simp] theorem State.bumpFree_insts (s : State) : s.bumpFree.insts = s.insts := rfl
@[simp] theorem State.bumpFree_slots (s : State) : s.bumpFree.slots = s.slots := rfl
@[simp] theorem State.bumpFree_queues (s : State) : s.bumpFree.queues = s.queues := rfl
@[simp] theorem State.bumpFree_cmds (s : State) : s.bumpFree.cmds = s.cmds := rfl
@[simp] theorem State.bumpFree_movers (s : State) : s.bumpFree.movers = s.movers := rfl
@[simp] theorem State.bumpFree_launches (s : State) : s.bumpFree.launches = s.launches := rfl
@[simp] theorem State.bumpFree_ctxs (s : State) : s.bumpFree.ctxs = s.ctxs := rfl
@[simp] theorem State.bumpFree_rr (s : State) : s.bumpFree.rr = s.rr := rfl
@[simp] theorem State.bumpFree_clusters (s : State) : s.bumpFree.clusters = s.clusters := rfl
@[simp] theorem State.bumpFree_beacons (s : State) : s.bumpFree.beacons = s.beacons := rfl
@[simp] theorem State.bumpFree_resvs (s : State) : s.bumpFree.resvs = s.resvs := rfl
@[simp] theorem State.bumpFree_sync (s : State) : s.bumpFree.sync = s.sync := rfl
@[simp] theorem State.bumpFree_sess (s : State) : s.bumpFree.sess = s.sess := rfl
@[simp] theorem State.bumpFree_disp (s : State) : s.bumpFree.disp = s.disp := rfl
@[simp] theorem State.bumpFree_trim (s : State) : s.bumpFree.trim = s.trim := rfl
@[simp] theorem State.bumpFree_caches (s : State) : s.bumpFree.caches = s.caches := rfl
@[simp] theorem State.bumpFree_htab (s : State) : s.bumpFree.htab = s.htab := rfl
@[simp] theorem State.bumpFree_mem (s : State) : s.bumpFree.mem = s.mem := rfl
@[simp] theorem State.bumpFree_poison (s : State) : s.bumpFree.poison = s.poison := rfl
@[simp] theorem State.bumpFree_vague (s : State) : s.bumpFree.vague = s.vague := rfl
@[simp] theorem State.bumpFree_flips (s : State) : s.bumpFree.flips = s.flips := rfl
@[simp] theorem State.bumpFree_regs (s : State) : s.bumpFree.regs = s.regs := rfl
@[simp] theorem State.bumpFree_expert (s : State) : s.bumpFree.expert = s.expert := rfl
@[simp] theorem State.bumpFree_effect (s : State) : s.bumpFree.effect = s.effect := rfl
@[simp] theorem State.bumpFree_lowWord (s : State) : s.bumpFree.lowWord = s.lowWord := rfl
@[simp] theorem State.bumpFree_capture (s : State) : s.bumpFree.capture = s.capture := rfl
@[simp] theorem State.bumpFree_lockUsed (s : State) : s.bumpFree.lockUsed = s.lockUsed := rfl
@[simp] theorem State.bumpFree_nextId (s : State) : s.bumpFree.nextId = s.nextId := rfl
@[simp] theorem State.bumpFree_pending (s : State) : s.bumpFree.pending = s.pending := rfl
@[simp] theorem State.bumpFree_inst (s : State) (i : Nat) : s.bumpFree.inst i = s.inst i := rfl
@[simp] theorem State.bumpFree_slot (s : State) (i : Nat) : s.bumpFree.slot i = s.slot i := rfl
@[simp] theorem State.bumpFree_queue (s : State) (i : Nat) : s.bumpFree.queue i = s.queue i := rfl
@[simp] theorem State.bumpFree_ringsOf (s : State) (i : Nat) : s.bumpFree.ringsOf i = s.ringsOf i := rfl
@[simp] theorem State.bumpFree_cluster (s : State) (i : Nat) : s.bumpFree.cluster i = s.cluster i := rfl
@[simp] theorem State.bumpFree_beacon (s : State) (i : Nat) : s.bumpFree.beacon i = s.beacon i := rfl
@[simp] theorem State.bumpFree_resv (s : State) (i : Nat) : s.bumpFree.resv i = s.resv i := rfl
@[simp] theorem State.bumpFree_obj (s : State) (i : Nat) : s.bumpFree.obj i = s.obj i := rfl
@[simp] theorem State.bumpFree_session (s : State) (i : Nat) : s.bumpFree.session i = s.session i := rfl
@[simp] theorem State.bumpFree_fn (s : State) (i : Nat) : s.bumpFree.fn i = s.fn i := rfl
@[simp] theorem State.bumpFree_head (s : State) (i : Nat) : s.bumpFree.head i = s.head i := rfl
@[simp] theorem State.bumpFree_port (s : State) (i : Nat) : s.bumpFree.port i = s.port i := rfl
@[simp] theorem State.bumpFree_reg (s : State) (i : Nat) : s.bumpFree.reg i = s.reg i := rfl
@[simp] theorem State.bumpFree_memByte (s : State) (a : Nat) : s.bumpFree.memByte a = s.memByte a := rfl

/-! ### setReg -/

@[simp] theorem State.setReg_pw (s : State) (k : Nat) (v : W) : (s.setReg k v).pw = s.pw := rfl
@[simp] theorem State.setReg_ck (s : State) (k : Nat) (v : W) : (s.setReg k v).ck = s.ck := rfl
@[simp] theorem State.setReg_pcie (s : State) (k : Nat) (v : W) : (s.setReg k v).pcie = s.pcie := rfl
@[simp] theorem State.setReg_sec (s : State) (k : Nat) (v : W) : (s.setReg k v).sec = s.sec := rfl
@[simp] theorem State.setReg_fw (s : State) (k : Nat) (v : W) : (s.setReg k v).fw = s.fw := rfl
@[simp] theorem State.setReg_fcol (s : State) (k : Nat) (v : W) : (s.setReg k v).fcol = s.fcol := rfl
@[simp] theorem State.setReg_brn (s : State) (k : Nat) (v : W) : (s.setReg k v).brn = s.brn := rfl
@[simp] theorem State.setReg_insts (s : State) (k : Nat) (v : W) : (s.setReg k v).insts = s.insts := rfl
@[simp] theorem State.setReg_slots (s : State) (k : Nat) (v : W) : (s.setReg k v).slots = s.slots := rfl
@[simp] theorem State.setReg_queues (s : State) (k : Nat) (v : W) : (s.setReg k v).queues = s.queues := rfl
@[simp] theorem State.setReg_cmds (s : State) (k : Nat) (v : W) : (s.setReg k v).cmds = s.cmds := rfl
@[simp] theorem State.setReg_movers (s : State) (k : Nat) (v : W) : (s.setReg k v).movers = s.movers := rfl
@[simp] theorem State.setReg_launches (s : State) (k : Nat) (v : W) : (s.setReg k v).launches = s.launches := rfl
@[simp] theorem State.setReg_ctxs (s : State) (k : Nat) (v : W) : (s.setReg k v).ctxs = s.ctxs := rfl
@[simp] theorem State.setReg_rr (s : State) (k : Nat) (v : W) : (s.setReg k v).rr = s.rr := rfl
@[simp] theorem State.setReg_clusters (s : State) (k : Nat) (v : W) : (s.setReg k v).clusters = s.clusters := rfl
@[simp] theorem State.setReg_beacons (s : State) (k : Nat) (v : W) : (s.setReg k v).beacons = s.beacons := rfl
@[simp] theorem State.setReg_resvs (s : State) (k : Nat) (v : W) : (s.setReg k v).resvs = s.resvs := rfl
@[simp] theorem State.setReg_sync (s : State) (k : Nat) (v : W) : (s.setReg k v).sync = s.sync := rfl
@[simp] theorem State.setReg_sess (s : State) (k : Nat) (v : W) : (s.setReg k v).sess = s.sess := rfl
@[simp] theorem State.setReg_disp (s : State) (k : Nat) (v : W) : (s.setReg k v).disp = s.disp := rfl
@[simp] theorem State.setReg_trim (s : State) (k : Nat) (v : W) : (s.setReg k v).trim = s.trim := rfl
@[simp] theorem State.setReg_caches (s : State) (k : Nat) (v : W) : (s.setReg k v).caches = s.caches := rfl
@[simp] theorem State.setReg_htab (s : State) (k : Nat) (v : W) : (s.setReg k v).htab = s.htab := rfl
@[simp] theorem State.setReg_mem (s : State) (k : Nat) (v : W) : (s.setReg k v).mem = s.mem := rfl
@[simp] theorem State.setReg_poison (s : State) (k : Nat) (v : W) : (s.setReg k v).poison = s.poison := rfl
@[simp] theorem State.setReg_vague (s : State) (k : Nat) (v : W) : (s.setReg k v).vague = s.vague := rfl
@[simp] theorem State.setReg_flips (s : State) (k : Nat) (v : W) : (s.setReg k v).flips = s.flips := rfl
@[simp] theorem State.setReg_expert (s : State) (k : Nat) (v : W) : (s.setReg k v).expert = s.expert := rfl
@[simp] theorem State.setReg_effect (s : State) (k : Nat) (v : W) : (s.setReg k v).effect = s.effect := rfl
@[simp] theorem State.setReg_lowWord (s : State) (k : Nat) (v : W) : (s.setReg k v).lowWord = s.lowWord := rfl
@[simp] theorem State.setReg_capture (s : State) (k : Nat) (v : W) : (s.setReg k v).capture = s.capture := rfl
@[simp] theorem State.setReg_lockUsed (s : State) (k : Nat) (v : W) : (s.setReg k v).lockUsed = s.lockUsed := rfl
@[simp] theorem State.setReg_own (s : State) (k : Nat) (v : W) : (s.setReg k v).own = s.own := rfl
@[simp] theorem State.setReg_nextId (s : State) (k : Nat) (v : W) : (s.setReg k v).nextId = s.nextId := rfl
@[simp] theorem State.setReg_pending (s : State) (k : Nat) (v : W) : (s.setReg k v).pending = s.pending := rfl
@[simp] theorem State.setReg_inst (s : State) (k : Nat) (v : W) (i : Nat) : (s.setReg k v).inst i = s.inst i := rfl
@[simp] theorem State.setReg_slot (s : State) (k : Nat) (v : W) (i : Nat) : (s.setReg k v).slot i = s.slot i := rfl
@[simp] theorem State.setReg_queue (s : State) (k : Nat) (v : W) (i : Nat) : (s.setReg k v).queue i = s.queue i := rfl
@[simp] theorem State.setReg_ringsOf (s : State) (k : Nat) (v : W) (i : Nat) : (s.setReg k v).ringsOf i = s.ringsOf i := rfl
@[simp] theorem State.setReg_cluster (s : State) (k : Nat) (v : W) (i : Nat) : (s.setReg k v).cluster i = s.cluster i := rfl
@[simp] theorem State.setReg_beacon (s : State) (k : Nat) (v : W) (i : Nat) : (s.setReg k v).beacon i = s.beacon i := rfl
@[simp] theorem State.setReg_resv (s : State) (k : Nat) (v : W) (i : Nat) : (s.setReg k v).resv i = s.resv i := rfl
@[simp] theorem State.setReg_obj (s : State) (k : Nat) (v : W) (i : Nat) : (s.setReg k v).obj i = s.obj i := rfl
@[simp] theorem State.setReg_session (s : State) (k : Nat) (v : W) (i : Nat) : (s.setReg k v).session i = s.session i := rfl
@[simp] theorem State.setReg_fn (s : State) (k : Nat) (v : W) (i : Nat) : (s.setReg k v).fn i = s.fn i := rfl
@[simp] theorem State.setReg_head (s : State) (k : Nat) (v : W) (i : Nat) : (s.setReg k v).head i = s.head i := rfl
@[simp] theorem State.setReg_port (s : State) (k : Nat) (v : W) (i : Nat) : (s.setReg k v).port i = s.port i := rfl
@[simp] theorem State.setReg_memByte (s : State) (k : Nat) (v : W) (a : Nat) : (s.setReg k v).memByte a = s.memByte a := rfl

/-! ### clearReg -/

@[simp] theorem State.clearReg_pw (s : State) (k : Nat) : (s.clearReg k).pw = s.pw := rfl
@[simp] theorem State.clearReg_ck (s : State) (k : Nat) : (s.clearReg k).ck = s.ck := rfl
@[simp] theorem State.clearReg_pcie (s : State) (k : Nat) : (s.clearReg k).pcie = s.pcie := rfl
@[simp] theorem State.clearReg_sec (s : State) (k : Nat) : (s.clearReg k).sec = s.sec := rfl
@[simp] theorem State.clearReg_fw (s : State) (k : Nat) : (s.clearReg k).fw = s.fw := rfl
@[simp] theorem State.clearReg_fcol (s : State) (k : Nat) : (s.clearReg k).fcol = s.fcol := rfl
@[simp] theorem State.clearReg_brn (s : State) (k : Nat) : (s.clearReg k).brn = s.brn := rfl
@[simp] theorem State.clearReg_insts (s : State) (k : Nat) : (s.clearReg k).insts = s.insts := rfl
@[simp] theorem State.clearReg_slots (s : State) (k : Nat) : (s.clearReg k).slots = s.slots := rfl
@[simp] theorem State.clearReg_queues (s : State) (k : Nat) : (s.clearReg k).queues = s.queues := rfl
@[simp] theorem State.clearReg_cmds (s : State) (k : Nat) : (s.clearReg k).cmds = s.cmds := rfl
@[simp] theorem State.clearReg_movers (s : State) (k : Nat) : (s.clearReg k).movers = s.movers := rfl
@[simp] theorem State.clearReg_launches (s : State) (k : Nat) : (s.clearReg k).launches = s.launches := rfl
@[simp] theorem State.clearReg_ctxs (s : State) (k : Nat) : (s.clearReg k).ctxs = s.ctxs := rfl
@[simp] theorem State.clearReg_rr (s : State) (k : Nat) : (s.clearReg k).rr = s.rr := rfl
@[simp] theorem State.clearReg_clusters (s : State) (k : Nat) : (s.clearReg k).clusters = s.clusters := rfl
@[simp] theorem State.clearReg_beacons (s : State) (k : Nat) : (s.clearReg k).beacons = s.beacons := rfl
@[simp] theorem State.clearReg_resvs (s : State) (k : Nat) : (s.clearReg k).resvs = s.resvs := rfl
@[simp] theorem State.clearReg_sync (s : State) (k : Nat) : (s.clearReg k).sync = s.sync := rfl
@[simp] theorem State.clearReg_sess (s : State) (k : Nat) : (s.clearReg k).sess = s.sess := rfl
@[simp] theorem State.clearReg_disp (s : State) (k : Nat) : (s.clearReg k).disp = s.disp := rfl
@[simp] theorem State.clearReg_trim (s : State) (k : Nat) : (s.clearReg k).trim = s.trim := rfl
@[simp] theorem State.clearReg_caches (s : State) (k : Nat) : (s.clearReg k).caches = s.caches := rfl
@[simp] theorem State.clearReg_htab (s : State) (k : Nat) : (s.clearReg k).htab = s.htab := rfl
@[simp] theorem State.clearReg_mem (s : State) (k : Nat) : (s.clearReg k).mem = s.mem := rfl
@[simp] theorem State.clearReg_poison (s : State) (k : Nat) : (s.clearReg k).poison = s.poison := rfl
@[simp] theorem State.clearReg_vague (s : State) (k : Nat) : (s.clearReg k).vague = s.vague := rfl
@[simp] theorem State.clearReg_flips (s : State) (k : Nat) : (s.clearReg k).flips = s.flips := rfl
@[simp] theorem State.clearReg_expert (s : State) (k : Nat) : (s.clearReg k).expert = s.expert := rfl
@[simp] theorem State.clearReg_effect (s : State) (k : Nat) : (s.clearReg k).effect = s.effect := rfl
@[simp] theorem State.clearReg_lowWord (s : State) (k : Nat) : (s.clearReg k).lowWord = s.lowWord := rfl
@[simp] theorem State.clearReg_capture (s : State) (k : Nat) : (s.clearReg k).capture = s.capture := rfl
@[simp] theorem State.clearReg_lockUsed (s : State) (k : Nat) : (s.clearReg k).lockUsed = s.lockUsed := rfl
@[simp] theorem State.clearReg_own (s : State) (k : Nat) : (s.clearReg k).own = s.own := rfl
@[simp] theorem State.clearReg_nextId (s : State) (k : Nat) : (s.clearReg k).nextId = s.nextId := rfl
@[simp] theorem State.clearReg_pending (s : State) (k : Nat) : (s.clearReg k).pending = s.pending := rfl
@[simp] theorem State.clearReg_inst (s : State) (k : Nat) (i : Nat) : (s.clearReg k).inst i = s.inst i := rfl
@[simp] theorem State.clearReg_slot (s : State) (k : Nat) (i : Nat) : (s.clearReg k).slot i = s.slot i := rfl
@[simp] theorem State.clearReg_queue (s : State) (k : Nat) (i : Nat) : (s.clearReg k).queue i = s.queue i := rfl
@[simp] theorem State.clearReg_ringsOf (s : State) (k : Nat) (i : Nat) : (s.clearReg k).ringsOf i = s.ringsOf i := rfl
@[simp] theorem State.clearReg_cluster (s : State) (k : Nat) (i : Nat) : (s.clearReg k).cluster i = s.cluster i := rfl
@[simp] theorem State.clearReg_beacon (s : State) (k : Nat) (i : Nat) : (s.clearReg k).beacon i = s.beacon i := rfl
@[simp] theorem State.clearReg_resv (s : State) (k : Nat) (i : Nat) : (s.clearReg k).resv i = s.resv i := rfl
@[simp] theorem State.clearReg_obj (s : State) (k : Nat) (i : Nat) : (s.clearReg k).obj i = s.obj i := rfl
@[simp] theorem State.clearReg_session (s : State) (k : Nat) (i : Nat) : (s.clearReg k).session i = s.session i := rfl
@[simp] theorem State.clearReg_fn (s : State) (k : Nat) (i : Nat) : (s.clearReg k).fn i = s.fn i := rfl
@[simp] theorem State.clearReg_head (s : State) (k : Nat) (i : Nat) : (s.clearReg k).head i = s.head i := rfl
@[simp] theorem State.clearReg_port (s : State) (k : Nat) (i : Nat) : (s.clearReg k).port i = s.port i := rfl
@[simp] theorem State.clearReg_memByte (s : State) (k : Nat) (a : Nat) : (s.clearReg k).memByte a = s.memByte a := rfl

/-! ### count -/

@[simp] theorem State.count_pw (s : State) (k : Nat) : (s.count k).pw = s.pw := rfl
@[simp] theorem State.count_ck (s : State) (k : Nat) : (s.count k).ck = s.ck := rfl
@[simp] theorem State.count_pcie (s : State) (k : Nat) : (s.count k).pcie = s.pcie := rfl
@[simp] theorem State.count_sec (s : State) (k : Nat) : (s.count k).sec = s.sec := rfl
@[simp] theorem State.count_fw (s : State) (k : Nat) : (s.count k).fw = s.fw := rfl
@[simp] theorem State.count_fcol (s : State) (k : Nat) : (s.count k).fcol = s.fcol := rfl
@[simp] theorem State.count_brn (s : State) (k : Nat) : (s.count k).brn = s.brn := rfl
@[simp] theorem State.count_insts (s : State) (k : Nat) : (s.count k).insts = s.insts := rfl
@[simp] theorem State.count_slots (s : State) (k : Nat) : (s.count k).slots = s.slots := rfl
@[simp] theorem State.count_queues (s : State) (k : Nat) : (s.count k).queues = s.queues := rfl
@[simp] theorem State.count_cmds (s : State) (k : Nat) : (s.count k).cmds = s.cmds := rfl
@[simp] theorem State.count_movers (s : State) (k : Nat) : (s.count k).movers = s.movers := rfl
@[simp] theorem State.count_launches (s : State) (k : Nat) : (s.count k).launches = s.launches := rfl
@[simp] theorem State.count_ctxs (s : State) (k : Nat) : (s.count k).ctxs = s.ctxs := rfl
@[simp] theorem State.count_rr (s : State) (k : Nat) : (s.count k).rr = s.rr := rfl
@[simp] theorem State.count_clusters (s : State) (k : Nat) : (s.count k).clusters = s.clusters := rfl
@[simp] theorem State.count_beacons (s : State) (k : Nat) : (s.count k).beacons = s.beacons := rfl
@[simp] theorem State.count_resvs (s : State) (k : Nat) : (s.count k).resvs = s.resvs := rfl
@[simp] theorem State.count_sync (s : State) (k : Nat) : (s.count k).sync = s.sync := rfl
@[simp] theorem State.count_sess (s : State) (k : Nat) : (s.count k).sess = s.sess := rfl
@[simp] theorem State.count_disp (s : State) (k : Nat) : (s.count k).disp = s.disp := rfl
@[simp] theorem State.count_trim (s : State) (k : Nat) : (s.count k).trim = s.trim := rfl
@[simp] theorem State.count_caches (s : State) (k : Nat) : (s.count k).caches = s.caches := rfl
@[simp] theorem State.count_htab (s : State) (k : Nat) : (s.count k).htab = s.htab := rfl
@[simp] theorem State.count_mem (s : State) (k : Nat) : (s.count k).mem = s.mem := rfl
@[simp] theorem State.count_poison (s : State) (k : Nat) : (s.count k).poison = s.poison := rfl
@[simp] theorem State.count_vague (s : State) (k : Nat) : (s.count k).vague = s.vague := rfl
@[simp] theorem State.count_flips (s : State) (k : Nat) : (s.count k).flips = s.flips := rfl
@[simp] theorem State.count_expert (s : State) (k : Nat) : (s.count k).expert = s.expert := rfl
@[simp] theorem State.count_effect (s : State) (k : Nat) : (s.count k).effect = s.effect := rfl
@[simp] theorem State.count_lowWord (s : State) (k : Nat) : (s.count k).lowWord = s.lowWord := rfl
@[simp] theorem State.count_capture (s : State) (k : Nat) : (s.count k).capture = s.capture := rfl
@[simp] theorem State.count_lockUsed (s : State) (k : Nat) : (s.count k).lockUsed = s.lockUsed := rfl
@[simp] theorem State.count_own (s : State) (k : Nat) : (s.count k).own = s.own := rfl
@[simp] theorem State.count_nextId (s : State) (k : Nat) : (s.count k).nextId = s.nextId := rfl
@[simp] theorem State.count_pending (s : State) (k : Nat) : (s.count k).pending = s.pending := rfl
@[simp] theorem State.count_inst (s : State) (k : Nat) (i : Nat) : (s.count k).inst i = s.inst i := rfl
@[simp] theorem State.count_slot (s : State) (k : Nat) (i : Nat) : (s.count k).slot i = s.slot i := rfl
@[simp] theorem State.count_queue (s : State) (k : Nat) (i : Nat) : (s.count k).queue i = s.queue i := rfl
@[simp] theorem State.count_ringsOf (s : State) (k : Nat) (i : Nat) : (s.count k).ringsOf i = s.ringsOf i := rfl
@[simp] theorem State.count_cluster (s : State) (k : Nat) (i : Nat) : (s.count k).cluster i = s.cluster i := rfl
@[simp] theorem State.count_beacon (s : State) (k : Nat) (i : Nat) : (s.count k).beacon i = s.beacon i := rfl
@[simp] theorem State.count_resv (s : State) (k : Nat) (i : Nat) : (s.count k).resv i = s.resv i := rfl
@[simp] theorem State.count_obj (s : State) (k : Nat) (i : Nat) : (s.count k).obj i = s.obj i := rfl
@[simp] theorem State.count_session (s : State) (k : Nat) (i : Nat) : (s.count k).session i = s.session i := rfl
@[simp] theorem State.count_fn (s : State) (k : Nat) (i : Nat) : (s.count k).fn i = s.fn i := rfl
@[simp] theorem State.count_head (s : State) (k : Nat) (i : Nat) : (s.count k).head i = s.head i := rfl
@[simp] theorem State.count_port (s : State) (k : Nat) (i : Nat) : (s.count k).port i = s.port i := rfl
@[simp] theorem State.count_memByte (s : State) (k : Nat) (a : Nat) : (s.count k).memByte a = s.memByte a := rfl

/-! ### countField -/

@[simp] theorem State.countField_pw (s : State) (k lo n j : Nat) : (s.countField k lo n j).pw = s.pw := rfl
@[simp] theorem State.countField_ck (s : State) (k lo n j : Nat) : (s.countField k lo n j).ck = s.ck := rfl
@[simp] theorem State.countField_pcie (s : State) (k lo n j : Nat) : (s.countField k lo n j).pcie = s.pcie := rfl
@[simp] theorem State.countField_sec (s : State) (k lo n j : Nat) : (s.countField k lo n j).sec = s.sec := rfl
@[simp] theorem State.countField_fw (s : State) (k lo n j : Nat) : (s.countField k lo n j).fw = s.fw := rfl
@[simp] theorem State.countField_fcol (s : State) (k lo n j : Nat) : (s.countField k lo n j).fcol = s.fcol := rfl
@[simp] theorem State.countField_brn (s : State) (k lo n j : Nat) : (s.countField k lo n j).brn = s.brn := rfl
@[simp] theorem State.countField_insts (s : State) (k lo n j : Nat) : (s.countField k lo n j).insts = s.insts := rfl
@[simp] theorem State.countField_slots (s : State) (k lo n j : Nat) : (s.countField k lo n j).slots = s.slots := rfl
@[simp] theorem State.countField_queues (s : State) (k lo n j : Nat) : (s.countField k lo n j).queues = s.queues := rfl
@[simp] theorem State.countField_cmds (s : State) (k lo n j : Nat) : (s.countField k lo n j).cmds = s.cmds := rfl
@[simp] theorem State.countField_movers (s : State) (k lo n j : Nat) : (s.countField k lo n j).movers = s.movers := rfl
@[simp] theorem State.countField_launches (s : State) (k lo n j : Nat) : (s.countField k lo n j).launches = s.launches := rfl
@[simp] theorem State.countField_ctxs (s : State) (k lo n j : Nat) : (s.countField k lo n j).ctxs = s.ctxs := rfl
@[simp] theorem State.countField_rr (s : State) (k lo n j : Nat) : (s.countField k lo n j).rr = s.rr := rfl
@[simp] theorem State.countField_clusters (s : State) (k lo n j : Nat) : (s.countField k lo n j).clusters = s.clusters := rfl
@[simp] theorem State.countField_beacons (s : State) (k lo n j : Nat) : (s.countField k lo n j).beacons = s.beacons := rfl
@[simp] theorem State.countField_resvs (s : State) (k lo n j : Nat) : (s.countField k lo n j).resvs = s.resvs := rfl
@[simp] theorem State.countField_sync (s : State) (k lo n j : Nat) : (s.countField k lo n j).sync = s.sync := rfl
@[simp] theorem State.countField_sess (s : State) (k lo n j : Nat) : (s.countField k lo n j).sess = s.sess := rfl
@[simp] theorem State.countField_disp (s : State) (k lo n j : Nat) : (s.countField k lo n j).disp = s.disp := rfl
@[simp] theorem State.countField_trim (s : State) (k lo n j : Nat) : (s.countField k lo n j).trim = s.trim := rfl
@[simp] theorem State.countField_caches (s : State) (k lo n j : Nat) : (s.countField k lo n j).caches = s.caches := rfl
@[simp] theorem State.countField_htab (s : State) (k lo n j : Nat) : (s.countField k lo n j).htab = s.htab := rfl
@[simp] theorem State.countField_mem (s : State) (k lo n j : Nat) : (s.countField k lo n j).mem = s.mem := rfl
@[simp] theorem State.countField_poison (s : State) (k lo n j : Nat) : (s.countField k lo n j).poison = s.poison := rfl
@[simp] theorem State.countField_vague (s : State) (k lo n j : Nat) : (s.countField k lo n j).vague = s.vague := rfl
@[simp] theorem State.countField_flips (s : State) (k lo n j : Nat) : (s.countField k lo n j).flips = s.flips := rfl
@[simp] theorem State.countField_expert (s : State) (k lo n j : Nat) : (s.countField k lo n j).expert = s.expert := rfl
@[simp] theorem State.countField_effect (s : State) (k lo n j : Nat) : (s.countField k lo n j).effect = s.effect := rfl
@[simp] theorem State.countField_lowWord (s : State) (k lo n j : Nat) : (s.countField k lo n j).lowWord = s.lowWord := rfl
@[simp] theorem State.countField_capture (s : State) (k lo n j : Nat) : (s.countField k lo n j).capture = s.capture := rfl
@[simp] theorem State.countField_lockUsed (s : State) (k lo n j : Nat) : (s.countField k lo n j).lockUsed = s.lockUsed := rfl
@[simp] theorem State.countField_own (s : State) (k lo n j : Nat) : (s.countField k lo n j).own = s.own := rfl
@[simp] theorem State.countField_nextId (s : State) (k lo n j : Nat) : (s.countField k lo n j).nextId = s.nextId := rfl
@[simp] theorem State.countField_pending (s : State) (k lo n j : Nat) : (s.countField k lo n j).pending = s.pending := rfl
@[simp] theorem State.countField_inst (s : State) (k lo n j : Nat) (i : Nat) : (s.countField k lo n j).inst i = s.inst i := rfl
@[simp] theorem State.countField_slot (s : State) (k lo n j : Nat) (i : Nat) : (s.countField k lo n j).slot i = s.slot i := rfl
@[simp] theorem State.countField_queue (s : State) (k lo n j : Nat) (i : Nat) : (s.countField k lo n j).queue i = s.queue i := rfl
@[simp] theorem State.countField_ringsOf (s : State) (k lo n j : Nat) (i : Nat) : (s.countField k lo n j).ringsOf i = s.ringsOf i := rfl
@[simp] theorem State.countField_cluster (s : State) (k lo n j : Nat) (i : Nat) : (s.countField k lo n j).cluster i = s.cluster i := rfl
@[simp] theorem State.countField_beacon (s : State) (k lo n j : Nat) (i : Nat) : (s.countField k lo n j).beacon i = s.beacon i := rfl
@[simp] theorem State.countField_resv (s : State) (k lo n j : Nat) (i : Nat) : (s.countField k lo n j).resv i = s.resv i := rfl
@[simp] theorem State.countField_obj (s : State) (k lo n j : Nat) (i : Nat) : (s.countField k lo n j).obj i = s.obj i := rfl
@[simp] theorem State.countField_session (s : State) (k lo n j : Nat) (i : Nat) : (s.countField k lo n j).session i = s.session i := rfl
@[simp] theorem State.countField_fn (s : State) (k lo n j : Nat) (i : Nat) : (s.countField k lo n j).fn i = s.fn i := rfl
@[simp] theorem State.countField_head (s : State) (k lo n j : Nat) (i : Nat) : (s.countField k lo n j).head i = s.head i := rfl
@[simp] theorem State.countField_port (s : State) (k lo n j : Nat) (i : Nat) : (s.countField k lo n j).port i = s.port i := rfl
@[simp] theorem State.countField_memByte (s : State) (k lo n j : Nat) (a : Nat) : (s.countField k lo n j).memByte a = s.memByte a := rfl

/-! ### maxReg -/

@[simp] theorem State.maxReg_pw (s : State) (k j : Nat) : (s.maxReg k j).pw = s.pw := rfl
@[simp] theorem State.maxReg_ck (s : State) (k j : Nat) : (s.maxReg k j).ck = s.ck := rfl
@[simp] theorem State.maxReg_pcie (s : State) (k j : Nat) : (s.maxReg k j).pcie = s.pcie := rfl
@[simp] theorem State.maxReg_sec (s : State) (k j : Nat) : (s.maxReg k j).sec = s.sec := rfl
@[simp] theorem State.maxReg_fw (s : State) (k j : Nat) : (s.maxReg k j).fw = s.fw := rfl
@[simp] theorem State.maxReg_fcol (s : State) (k j : Nat) : (s.maxReg k j).fcol = s.fcol := rfl
@[simp] theorem State.maxReg_brn (s : State) (k j : Nat) : (s.maxReg k j).brn = s.brn := rfl
@[simp] theorem State.maxReg_insts (s : State) (k j : Nat) : (s.maxReg k j).insts = s.insts := rfl
@[simp] theorem State.maxReg_slots (s : State) (k j : Nat) : (s.maxReg k j).slots = s.slots := rfl
@[simp] theorem State.maxReg_queues (s : State) (k j : Nat) : (s.maxReg k j).queues = s.queues := rfl
@[simp] theorem State.maxReg_cmds (s : State) (k j : Nat) : (s.maxReg k j).cmds = s.cmds := rfl
@[simp] theorem State.maxReg_movers (s : State) (k j : Nat) : (s.maxReg k j).movers = s.movers := rfl
@[simp] theorem State.maxReg_launches (s : State) (k j : Nat) : (s.maxReg k j).launches = s.launches := rfl
@[simp] theorem State.maxReg_ctxs (s : State) (k j : Nat) : (s.maxReg k j).ctxs = s.ctxs := rfl
@[simp] theorem State.maxReg_rr (s : State) (k j : Nat) : (s.maxReg k j).rr = s.rr := rfl
@[simp] theorem State.maxReg_clusters (s : State) (k j : Nat) : (s.maxReg k j).clusters = s.clusters := rfl
@[simp] theorem State.maxReg_beacons (s : State) (k j : Nat) : (s.maxReg k j).beacons = s.beacons := rfl
@[simp] theorem State.maxReg_resvs (s : State) (k j : Nat) : (s.maxReg k j).resvs = s.resvs := rfl
@[simp] theorem State.maxReg_sync (s : State) (k j : Nat) : (s.maxReg k j).sync = s.sync := rfl
@[simp] theorem State.maxReg_sess (s : State) (k j : Nat) : (s.maxReg k j).sess = s.sess := rfl
@[simp] theorem State.maxReg_disp (s : State) (k j : Nat) : (s.maxReg k j).disp = s.disp := rfl
@[simp] theorem State.maxReg_trim (s : State) (k j : Nat) : (s.maxReg k j).trim = s.trim := rfl
@[simp] theorem State.maxReg_caches (s : State) (k j : Nat) : (s.maxReg k j).caches = s.caches := rfl
@[simp] theorem State.maxReg_htab (s : State) (k j : Nat) : (s.maxReg k j).htab = s.htab := rfl
@[simp] theorem State.maxReg_mem (s : State) (k j : Nat) : (s.maxReg k j).mem = s.mem := rfl
@[simp] theorem State.maxReg_poison (s : State) (k j : Nat) : (s.maxReg k j).poison = s.poison := rfl
@[simp] theorem State.maxReg_vague (s : State) (k j : Nat) : (s.maxReg k j).vague = s.vague := rfl
@[simp] theorem State.maxReg_flips (s : State) (k j : Nat) : (s.maxReg k j).flips = s.flips := rfl
@[simp] theorem State.maxReg_expert (s : State) (k j : Nat) : (s.maxReg k j).expert = s.expert := rfl
@[simp] theorem State.maxReg_effect (s : State) (k j : Nat) : (s.maxReg k j).effect = s.effect := rfl
@[simp] theorem State.maxReg_lowWord (s : State) (k j : Nat) : (s.maxReg k j).lowWord = s.lowWord := rfl
@[simp] theorem State.maxReg_capture (s : State) (k j : Nat) : (s.maxReg k j).capture = s.capture := rfl
@[simp] theorem State.maxReg_lockUsed (s : State) (k j : Nat) : (s.maxReg k j).lockUsed = s.lockUsed := rfl
@[simp] theorem State.maxReg_own (s : State) (k j : Nat) : (s.maxReg k j).own = s.own := rfl
@[simp] theorem State.maxReg_nextId (s : State) (k j : Nat) : (s.maxReg k j).nextId = s.nextId := rfl
@[simp] theorem State.maxReg_pending (s : State) (k j : Nat) : (s.maxReg k j).pending = s.pending := rfl
@[simp] theorem State.maxReg_inst (s : State) (k j : Nat) (i : Nat) : (s.maxReg k j).inst i = s.inst i := rfl
@[simp] theorem State.maxReg_slot (s : State) (k j : Nat) (i : Nat) : (s.maxReg k j).slot i = s.slot i := rfl
@[simp] theorem State.maxReg_queue (s : State) (k j : Nat) (i : Nat) : (s.maxReg k j).queue i = s.queue i := rfl
@[simp] theorem State.maxReg_ringsOf (s : State) (k j : Nat) (i : Nat) : (s.maxReg k j).ringsOf i = s.ringsOf i := rfl
@[simp] theorem State.maxReg_cluster (s : State) (k j : Nat) (i : Nat) : (s.maxReg k j).cluster i = s.cluster i := rfl
@[simp] theorem State.maxReg_beacon (s : State) (k j : Nat) (i : Nat) : (s.maxReg k j).beacon i = s.beacon i := rfl
@[simp] theorem State.maxReg_resv (s : State) (k j : Nat) (i : Nat) : (s.maxReg k j).resv i = s.resv i := rfl
@[simp] theorem State.maxReg_obj (s : State) (k j : Nat) (i : Nat) : (s.maxReg k j).obj i = s.obj i := rfl
@[simp] theorem State.maxReg_session (s : State) (k j : Nat) (i : Nat) : (s.maxReg k j).session i = s.session i := rfl
@[simp] theorem State.maxReg_fn (s : State) (k j : Nat) (i : Nat) : (s.maxReg k j).fn i = s.fn i := rfl
@[simp] theorem State.maxReg_head (s : State) (k j : Nat) (i : Nat) : (s.maxReg k j).head i = s.head i := rfl
@[simp] theorem State.maxReg_port (s : State) (k j : Nat) (i : Nat) : (s.maxReg k j).port i = s.port i := rfl
@[simp] theorem State.maxReg_memByte (s : State) (k j : Nat) (a : Nat) : (s.maxReg k j).memByte a = s.memByte a := rfl

end Sys2Proof.Machine
end

