-- ==== Sys2Proof/WellFormed.lean ====
section
/-! DEFINITION. Well-formed commands: every operand that numbers something lies in the range the spec gives it. -/

set_option Elab.async false
namespace Sys2Proof

/-- An instance or function number (R78, R306). -/
def okFn (k : Nat) : Bool := decide (k < 128)
/-- A hardware queue (09: QDESC has 1,024 entries). -/
def okQueue (h : Nat) : Bool := decide (h < 1024)
/-- A cluster (R14). -/
def okCluster (n : Nat) : Bool := decide (n < 16)
/-- An engine of a cluster: four TEs, the VU, the CDMA. -/
def okEngine (e : Nat) : Bool := decide (e < 6)
/-- A head or a port. -/
def okHead (d : Nat) : Bool := decide (d < 2)
/-- A Beacon. -/
def okBeacon (b : Nat) : Bool := decide (b < 8)
/-- A reservation. -/
def okResv (r : Nat) : Bool := decide (r < 256)
/-- A port of the Rigging hub: sixteen Yards, the Masthead and the service port. -/
def okPort (p : Nat) : Bool := decide (p < 18)
/-- A slot of HBM (R197). -/
def okSlot (n : Nat) : Bool := decide (n < 384)
/-- An offset of a BAR 0 window (R79), word-aligned. -/
def okOffset (o : Nat) : Bool := decide (o < 0x4000000) && decide (o % 4 = 0)
/-- An agent: a code of R78, and the index that goes with it. -/
def okAgent (ag : Agent) : Bool :=
  match ag.code with
  | 0 | 3 | 4 | 5 | 7 => decide (ag.idx = 0)
  | 1 => decide (0 < ag.idx ∧ ag.idx < 128)
  | 2 => decide (ag.idx < 128)
  | 6 => decide (ag.idx < 16)
  | _ => false
/-- What an ECC check found lies in a 32 B unit of HBM (R648). -/
def okEcc (e : Option (Nat × Bool)) : Bool := match e with | some (u, _) => decide (u < 384 * 2 ^ 23) | none => true

/-- Whether the operands of a command are in range. -/
def Instr.wf (i : Instr) : Bool :=
  match i with
  | .coldPowerUp _ _ => true
  | .vddAonLoss => true
  | .inputPowerLoss => true
  | .perstNAsserted _ => true
  | .perstNDeasserted _ _ _ => true
  | .rootPllLock => true
  | .trngReady => true
  | .configReady => true
  | .pcieConfigRequest k _ _ _ => okFn k
  | .hbmTrained okStacks => decide (okStacks < 16)
  | .imageVerify _ => true
  | .protSetupLock => true
  | .fwStarting => true
  | .brianeReady => true
  | .refclkLoss => true
  | .pllUnlock => true
  | .linkDown => true
  | .hotReset => true
  | .linkUp rate width _ => decide (rate < 8) && decide (width ≤ 16)
  | .l3RecoveryStart _ => true
  | .l3RecoveryDone => true
  | .resetReqL3 ag _ => okAgent ag
  | .pfFlr => true
  | .vfFlr k => okFn k
  | .flrDone k => okFn k
  | .softReset ag base _ => okAgent ag && okOffset base
  | .softResetDone base => okOffset base
  | .levelSet ag base _ => okAgent ag && okOffset base
  | .levelClear ag base _ => okAgent ag && okOffset base
  | .testModeClear ag base _ => okAgent ag && okOffset base
  | .blkIntForceWrite ag base _ => okAgent ag && okOffset base
  | .blkLockWrite ag base _ => okAgent ag && okOffset base
  | .injectArm ag base _ _ => okAgent ag && okOffset base
  | .registerWrite ag o be _ _ => okAgent ag && okOffset o && decide (be < 256)
  | .rcRegisterRead ag o _ _ => okAgent ag && okOffset o
  | .split64bitRead ag o => okAgent ag && okOffset o
  | .vfEnableSet => true
  | .vfEnableClear => true
  | .numvfsWrite n => decide (n < 65536)
  | .barSizeWrite _ _ => true
  | .bar2Access k _ len _ err _ => okFn k && decide (len ≤ 4096) && okEcc err
  | .poisonedHostWrite k => okFn k
  | .atomicopReceived k => okFn k
  | .d3hotEntry k => okFn k
  | .d0Return k => okFn k
  | .busMasterDisable k _ => okFn k
  | .msixUnmask k v => okFn k && decide (v < 16)
  | .hostReadCompletion _ _ _ => true
  | .hostReadTimeout _ => true
  | .creditStallBegin _ => true
  | .hostStallLimitExpiry _ => true
  | .creditReturn => true
  | .stallLinkLoss => true
  | .atsInvalidateRequest k _ _ => okFn k
  | .ptmDialog _ _ => true
  | .ideKmKeySetup n => decide (n < 4)
  | .ideCheckFail n => decide (n < 4)
  | .spdmGetVersion => true
  | .spdmGetCapabilities => true
  | .spdmNegotiateAlgorithms _ => true
  | .spdmGetDigests _ => true
  | .spdmGetCertificate _ _ _ => true
  | .spdmChallenge nonce => decide (nonce.length = 32)
  | .spdmGetMeasurements _ _ _ => true
  | .spdmKeyExchange _ => true
  | .spdmFinish _ => true
  | .spdmKeyUpdate => true
  | .spdmHeartbeat => true
  | .spdmEndSession => true
  | .getRandom => true
  | .hash _ _ => true
  | .pkeTest _ _ _ _ => true
  | .debugChallenge => true
  | .debugUnlock _ _ => true
  | .ownerKeyProgram _ => true
  | .arbCommit _ => true
  | .mboxReservedCmd => true
  | .rngDataRead ag _ => okAgent ag
  | .drbgReseed => true
  | .rngHealthFail => true
  | .nonceExpiry => true
  | .hbmPeekAccess ag o len _ err => okAgent ag && decide (o < 0x100000) && decide (len ≤ 4096) && okEcc err
  | .jtagDmiAccess addr _ => decide (addr < 4096)
  | .receiptWrite d => okHead d
  | .fwWatchdogExpiry core => decide (core < 3)
  | .verHello ag => okAgent ag
  | .reqProdWrite ag _ => okAgent ag
  | .rspConsWrite ag _ => okAgent ag
  | .brianeRequestStart k => okFn k
  | .brianeEventDeliver k => okFn k
  | .brianeReservedOpcode k => okFn k
  | .ping k => okFn k
  | .getInfo k => okFn k
  | .queueCreate k _ => okFn k
  | .queueDestroy k => okFn k
  | .queueRestart k => okFn k
  | .queueModify k => okFn k
  | .syncBlockAlloc k _ => okFn k
  | .syncBlockFree k => okFn k
  | .syncForce k => okFn k
  | .aspaceSet k => okFn k
  | .beaconConfig k => okFn k
  | .reserve k _ => okFn k
  | .reserveRelease k => okFn k
  | .instConfigure k => okFn k
  | .instActivate k => okFn k
  | .instQuiesce k => okFn k
  | .instReset k => okFn k
  | .instRemove k => okFn k
  | .slotAssign k => okFn k
  | .cgrpDefine k => okFn k
  | .cgrpGrant k => okFn k
  | .headAssign k => okFn k
  | .isolationSet k => okFn k
  | .dirtyLogStart k _ => okFn k
  | .dirtyHarvest k => okFn k
  | .dirtyHarvestDone k => okFn k
  | .dirtyLogStop k => okFn k
  | .shadowSize k => okFn k
  | .shadowSave k => okFn k
  | .shadowSaveDone k => okFn k
  | .shadowRestore k _ _ => okFn k
  | .shadowRestoreDone k => okFn k
  | .fwStage k _ _ => okFn k
  | .fwStageVerifyDone => true
  | .fwActivate k => okFn k
  | .fwActivateBoundary => true
  | .fwSwapCommit => true
  | .activateWindowExpiry => true
  | .fwPersist k => okFn k
  | .fwPersistDone _ => true
  | .fwDiscard k => okFn k
  | .prepareRemoval k => okFn k
  | .logFetch k => okFn k
  | .logConfig k => okFn k
  | .traceSet k => okFn k
  | .powerCapSet k => okFn k
  | .quietLimitSet k => okFn k
  | .cadenceFloorSet k => okFn k
  | .telemRead k => okFn k
  | .receiptStart k => okFn k
  | .receiptStop k => okFn k
  | .attestQuote k => okFn k
  | .attestQuoteSigned k => okFn k
  | .logSelWrite ag _ => okAgent ag
  | .quiesceLimitExpiry k => okFn k
  | .quiesceFlushDone k => okFn k
  | .flushTimeout k => okFn k
  | .instanceResetDone k => okFn k
  | .slotScrubStart n => okSlot n
  | .slotScrubDone n => okSlot n
  | .doorbell ag q _ => okAgent ag && decide (q < 64)
  | .ringDataReturn h err => okQueue h && okEcc err
  | .nop h => okQueue h
  | .indirect h err => okQueue h && okEcc err
  | .launch h => okQueue h
  | .launchInline h => okQueue h
  | .copy h err => okQueue h && okEcc err
  | .bmvDescriptorComplete _ err => okEcc err
  | .bmvCopyComplete _ => true
  | .fill h => okQueue h
  | .signal h => okQueue h
  | .wait h => okQueue h
  | .arrive h => okQueue h
  | .fence h => okQueue h
  | .cond h err => okQueue h && okEcc err
  | .loopBegin h => okQueue h
  | .loopEnd h => okQueue h
  | .timestamp h => okQueue h
  | .writeData h => okQueue h
  | .report h => okQueue h
  | .beaconWait h => okQueue h
  | .scanoutFlip h => okQueue h
  | .setContext h => okQueue h
  | .htabLoad h err => okQueue h && okEcc err
  | .regWrite h => okQueue h
  | .regRead h _ => okQueue h
  | .dmmuInvalidate h => okQueue h
  | .syncInit h err => okQueue h && okEcc err
  | .timeoutSet h => okQueue h
  | .commandTimeoutExpiry _ _ => true
  | .drainGraceExpiry _ => true
  | .launchDispatch _ err => okEcc err
  | .launchComplete _ => true
  | .sliceExpiry _ => true
  | .swapOutStart _ n => okCluster n
  | .swapOutComplete _ n => okCluster n
  | .swapIn _ n => okCluster n
  | .swapInComplete _ n err => okCluster n && okEcc err
  | .yieldLimitExpiry _ n => okCluster n
  | .forcedSaveOverdue _ n => okCluster n
  | .beaconTick b _ => okBeacon b
  | .beaconLockLoss b => okBeacon b
  | .budgetExhausted r => okResv r
  | .hubArrive port => okPort port
  | .hubSignalAdd port => okPort port
  | .hubConsume port => okPort port
  | .hubWaitGe port => okPort port
  | .hubWaitGen port => okPort port
  | .hubWaitGeConsume port => okPort port
  | .waitWatchdogExpiry _ => true
  | .spinToPark _ n => okCluster n
  | .svOpSignalAdd ag _ => okAgent ag
  | .svOpConsume ag _ => okAgent ag
  | .svOpArrive ag _ => okAgent ag
  | .svOpStatusRead ag => okAgent ag
  | .objSelWrite ag _ => okAgent ag
  | .svSelWrite ag _ => okAgent ag
  | .resSelWrite ag _ => okAgent ag
  | .yardContextEnter _ n err => okCluster n && okEcc err
  | .itemReturn _ n _ _ => okCluster n
  | .contextEnd _ n => okCluster n
  | .push _ n e ws _ => okCluster n && okEngine e && decide (ws.length ≤ 16)
  | .pushTable _ n e v _ => okCluster n && okEngine e && decide (v < 2 ^ 32)
  | .levAdd _ n k v => okCluster n && decide (k < 8) && decide (v < 2 ^ 16)
  | .cccSyncOpSignalAdd _ n _ _ => okCluster n
  | .cccSyncOpConsume _ n _ _ => okCluster n
  | .cccSyncOpArrive _ n _ _ => okCluster n
  | .cccSyncWaitGe _ n _ _ => okCluster n
  | .cccSyncWaitGen _ n _ _ => okCluster n
  | .cccSyncWaitGeConsume _ n _ _ => okCluster n
  | .cccSyncStatusRead _ n => okCluster n
  | .yield _ n _ _ => okCluster n
  | .trap _ n _ _ => okCluster n
  | .cccException _ n _ _ _ => okCluster n
  | .matmul _ n e err => okCluster n && okEngine e && okEcc err
  | .conv2d _ n e err => okCluster n && okEngine e && okEcc err
  | .dwconv _ n e err => okCluster n && okEngine e && okEcc err
  | .pool _ n e err => okCluster n && okEngine e && okEcc err
  | .eltwise _ n e err => okCluster n && okEngine e && okEcc err
  | .reduce _ n e err => okCluster n && okEngine e && okEcc err
  | .quant _ n e err => okCluster n && okEngine e && okEcc err
  | .transform _ n e err => okCluster n && okEngine e && okEcc err
  | .gather _ n e err => okCluster n && okEngine e && okEcc err
  | .move _ n e err => okCluster n && okEngine e && okEcc err
  | .move2d _ n e err => okCluster n && okEngine e && okEcc err
  | .move4d _ n e err => okCluster n && okEngine e && okEcc err
  | .descArrive _ n e => okCluster n && okEngine e
  | .descSignal _ n e => okCluster n && okEngine e
  | .descConsume _ n e => okCluster n && okEngine e
  | .descFence _ n e => okCluster n && okEngine e
  | .descriptorComplete _ n e => okCluster n && okEngine e
  | .vblankStart d err => okHead d && okEcc err
  | .lineUnderrun d => okHead d
  | .headEnable ag d _ => okAgent ag && okHead d
  | .headDisable ag d _ => okAgent ag && okHead d
  | .headHoldLimitExpiry d => okHead d
  | .portRouteWrite ag _ => okAgent ag
  | .portRestartDone d => okHead d
  | .dpPortEnable ag d _ => okAgent ag && okHead d
  | .dpTrainStart ag d => okAgent ag && okHead d
  | .dpTrainDone d _ => okHead d
  | .auxCmdStart ag d _ => okAgent ag && okHead d
  | .auxDone d result reply => okHead d && decide (result < 4) && decide (reply.length ≤ 16)
  | .hpdIrq d => okHead d
  | .hpdLoss d => okHead d
  | .hpdReturn d => okHead d
  | .sdpCommit ag d _ => okAgent ag && okHead d
  | .lutDataWrite ag d _ => okAgent ag && okHead d
  | .captureArm ag d => okAgent ag && okHead d
  | .captureDone d => okHead d
  | .trimLoop _ _ _ _ _ _ => true
  | .vrSettleExpiry => true
  | .vrTransactionFail => true
  | .vrAlert => true
  | .droopDetect n => okCluster n
  | .overcurrentDetect => true
  | .stretchEnd n => okCluster n
  | .thermalClamp => true
  | .clampRelease => true
  | .thermTrip => true
  | .lendingWindow => true
  | .telemetrySample _ _ => true
  | .bgStepTake t _ _ _ => decide (t < 6)
  | .bgForced t _ _ => decide (t < 6)
  | .hbmPatrolStep _ _ => true
  | .crackLoopMeasure _ => true
  | .railFault => true
  | .mctpEidAssign eid => decide (eid < 256)
  | .mctpControlMessage _ => true
  | .pldmSensorRead _ => true
  | .pldmEffecterSet _ _ => true
  | .fcolTakeFault => true
  | .rateWindowExpiry => true
  | .fcolSelf => true
  | .frAck ag _ => okAgent ag
  | .fwReport ag _ => okAgent ag
  | .frSelWrite ag _ => okAgent ag
  | .histSelWrite ag _ => okAgent ag
  | .sliceSelWrite ag _ => okAgent ag
  | .logFetchDone k => okFn k
  | .prepareRemovalDone => true
  | .mboxDone => true
  | .forcedKillDone k => okFn k

end Sys2Proof
end

section
/-! PROOFS. What a command and a step keep, and the safe state (03, R119). -/

set_option Elab.async false
namespace Sys2Proof.Machine

/-- The commands that are cold resets: a power-up in order (R88), VDD_AON falling (R94), input power lost (R93). -/
inductive IsColdReset : Instr → Prop
  | coldPowerUp (crack : W) : IsColdReset (.coldPowerUp true crack)
  | vddAonLoss : IsColdReset .vddAonLoss
  | inputPowerLoss : IsColdReset .inputPowerLoss

/-- Every command but a cold reset keeps what every operation keeps; a power-up out of order has no next state (R91). The rows are those
of `exec`. -/
theorem isColdReset_or_exec_keeps (c : Instr) (s : State) : IsColdReset c ∨ Kept s (exec c s) :=
  match c with
  | .coldPowerUp true crack => .inl (.coldPowerUp crack)
  | .coldPowerUp false _ => .inr (Kept.fault s _)
  | .vddAonLoss => .inl .vddAonLoss
  | .inputPowerLoss => .inl .inputPowerLoss
  | .perstNAsserted us => .inr (execPerstNAsserted_keeps us s)
  | .perstNDeasserted holdMet fusesOk board => .inr (execPerstNDeasserted_keeps holdMet fusesOk board s)
  | .rootPllLock => .inr (execRootPllLock_keeps s)
  | .trngReady => .inr (execTrngReady_keeps s)
  | .configReady => .inr (execConfigReady_keeps s)
  | .pcieConfigRequest k reg write prog => .inr (execPcieConfigRequest_keeps k reg write prog s)
  | .hbmTrained okStacks => .inr (execHbmTrained_keeps okStacks s)
  | .imageVerify flash => .inr (execImageVerify_keeps flash s)
  | .protSetupLock => .inr (execProtSetupLock_keeps s)
  | .fwStarting => .inr (execFwStarting_keeps s)
  | .brianeReady => .inr (execBrianeReady_keeps s)
  | .refclkLoss => .inr (execRefclkLoss_keeps s)
  | .pllUnlock => .inr (execPllUnlock_keeps s)
  | .linkDown => .inr (execLinkDown_keeps s)
  | .hotReset => .inr (execHotReset_keeps s)
  | .linkUp rate width flit => .inr (execLinkUp_keeps rate width flit s)
  | .l3RecoveryStart cause => .inr (execL3RecoveryStart_keeps cause s)
  | .l3RecoveryDone => .inr (execL3RecoveryDone_keeps s)
  | .resetReqL3 ag v => .inr (execResetReqL3_keeps ag v s)
  | .pfFlr => .inr (execPfFlr_keeps s)
  | .vfFlr k => .inr (execVfFlr_keeps k s)
  | .flrDone k => .inr (execFlrDone_keeps k s)
  | .softReset ag base v => .inr (execSoftReset_keeps ag base v s)
  | .softResetDone base => .inr (execSoftResetDone_keeps base s)
  | .levelSet ag base v => .inr (execLevelSet_keeps ag base v s)
  | .levelClear ag base v => .inr (execLevelClear_keeps ag base v s)
  | .testModeClear ag base v => .inr (execTestModeClear_keeps ag base v s)
  | .blkIntForceWrite ag base v => .inr (execBlkIntForceWrite_keeps ag base v s)
  | .blkLockWrite ag base v => .inr (execBlkLockWrite_keeps ag base v s)
  | .injectArm ag base v check => .inr (execInjectArm_keeps ag base v check s)
  | .registerWrite ag o be v wide => .inr (execRegisterWrite_keeps ag o be v wide s)
  | .rcRegisterRead ag o wide avail => .inr (execRcRegisterRead_keeps ag o wide avail s)
  | .split64bitRead ag o => .inr (execSplit64bitRead_keeps ag o s)
  | .vfEnableSet => .inr (execVfEnableSet_keeps s)
  | .vfEnableClear => .inr (execVfEnableClear_keeps s)
  | .numvfsWrite n => .inr (execNumvfsWrite_keeps n s)
  | .barSizeWrite vf size => .inr (execBarSizeWrite_keeps vf size s)
  | .bar2Access k off len wr err checked => .inr (execBar2Access_keeps k off len wr err checked s)
  | .poisonedHostWrite k => .inr (execPoisonedHostWrite_keeps k s)
  | .atomicopReceived k => .inr (execAtomicopReceived_keeps k s)
  | .d3hotEntry k => .inr (execD3hotEntry_keeps k s)
  | .d0Return k => .inr (execD0Return_keeps k s)
  | .busMasterDisable k prog => .inr (execBusMasterDisable_keeps k prog s)
  | .msixUnmask k v => .inr (execMsixUnmask_keeps k v s)
  | .hostReadCompletion who res data => .inr (execHostReadCompletion_keeps who res data s)
  | .hostReadTimeout n => .inr (execHostReadTimeout_keeps n s)
  | .creditStallBegin prog => .inr (execCreditStallBegin_keeps prog s)
  | .hostStallLimitExpiry prog => .inr (execHostStallLimitExpiry_keeps prog s)
  | .creditReturn => .inr (execCreditReturn_keeps s)
  | .stallLinkLoss => .inr (execStallLinkLoss_keeps s)
  | .atsInvalidateRequest k pg n => .inr (execAtsInvalidateRequest_keeps k pg n s)
  | .ptmDialog ok e => .inr (execPtmDialog_keeps ok e s)
  | .ideKmKeySetup n => .inr (execIdeKmKeySetup_keeps n s)
  | .ideCheckFail n => .inr (execIdeCheckFail_keeps n s)
  | .spdmGetVersion => .inr (execSpdmGetVersion_keeps s)
  | .spdmGetCapabilities => .inr (execSpdmGetCapabilities_keeps s)
  | .spdmNegotiateAlgorithms offered => .inr (execSpdmNegotiateAlgorithms_keeps offered s)
  | .spdmGetDigests len => .inr (execSpdmGetDigests_keeps len s)
  | .spdmGetCertificate slot off len => .inr (execSpdmGetCertificate_keeps slot off len s)
  | .spdmChallenge nonce => .inr (execSpdmChallenge_keeps nonce s)
  | .spdmGetMeasurements idx sign nonce => .inr (execSpdmGetMeasurements_keeps idx sign nonce s)
  | .spdmKeyExchange ok => .inr (execSpdmKeyExchange_keeps ok s)
  | .spdmFinish ok => .inr (execSpdmFinish_keeps ok s)
  | .spdmKeyUpdate => .inr (execSpdmKeyUpdate_keeps s)
  | .spdmHeartbeat => .inr (execSpdmHeartbeat_keeps s)
  | .spdmEndSession => .inr (execSpdmEndSession_keeps s)
  | .getRandom => .inr (execGetRandom_keeps s)
  | .hash alg data => .inr (execHash_keeps alg data s)
  | .pkeTest op curve operands fails => .inr (execPkeTest_keeps op curve operands fails s)
  | .debugChallenge => .inr (execDebugChallenge_keeps s)
  | .debugUnlock kenudOk ownerOk => .inr (execDebugUnlock_keeps kenudOk ownerOk s)
  | .ownerKeyProgram ok => .inr (execOwnerKeyProgram_keeps ok s)
  | .arbCommit ok => .inr (execArbCommit_keeps ok s)
  | .mboxReservedCmd => .inr (execMboxReservedCmd_keeps s)
  | .rngDataRead ag avail => .inr (execRngDataRead_keeps ag avail s)
  | .drbgReseed => .inr (execDrbgReseed_keeps s)
  | .rngHealthFail => .inr (execRngHealthFail_keeps s)
  | .nonceExpiry => .inr (execNonceExpiry_keeps s)
  | .hbmPeekAccess ag o len wr err => .inr (execHbmPeekAccess_keeps ag o len wr err s)
  | .jtagDmiAccess addr wr => .inr (execJtagDmiAccess_keeps addr wr s)
  | .receiptWrite d => .inr (execReceiptWrite_keeps d s)
  | .fwWatchdogExpiry core => .inr (execFwWatchdogExpiry_keeps core s)
  | .verHello ag => .inr (execVerHello_keeps ag s)
  | .reqProdWrite ag v => .inr (execReqProdWrite_keeps ag v s)
  | .rspConsWrite ag v => .inr (execRspConsWrite_keeps ag v s)
  | .brianeRequestStart k => .inr (execBrianeRequestStart_keeps k s)
  | .brianeEventDeliver k => .inr (execBrianeEventDeliver_keeps k s)
  | .brianeReservedOpcode k => .inr (execBrianeReservedOpcode_keeps k s)
  | .ping k => .inr (execPing_keeps k s)
  | .getInfo k => .inr (execGetInfo_keeps k s)
  | .queueCreate k want => .inr (execQueueCreate_keeps k want s)
  | .queueDestroy k => .inr (execQueueDestroy_keeps k s)
  | .queueRestart k => .inr (execQueueRestart_keeps k s)
  | .queueModify k => .inr (execQueueModify_keeps k s)
  | .syncBlockAlloc k want => .inr (execSyncBlockAlloc_keeps k want s)
  | .syncBlockFree k => .inr (execSyncBlockFree_keeps k s)
  | .syncForce k => .inr (execSyncForce_keeps k s)
  | .aspaceSet k => .inr (execAspaceSet_keeps k s)
  | .beaconConfig k => .inr (execBeaconConfig_keeps k s)
  | .reserve k want => .inr (execReserve_keeps k want s)
  | .reserveRelease k => .inr (execReserveRelease_keeps k s)
  | .instConfigure k => .inr (execInstConfigure_keeps k s)
  | .instActivate k => .inr (execInstActivate_keeps k s)
  | .instQuiesce k => .inr (execInstQuiesce_keeps k s)
  | .instReset k => .inr (execInstReset_keeps k s)
  | .instRemove k => .inr (execInstRemove_keeps k s)
  | .slotAssign k => .inr (execSlotAssign_keeps k s)
  | .cgrpDefine k => .inr (execCgrpDefine_keeps k s)
  | .cgrpGrant k => .inr (execCgrpGrant_keeps k s)
  | .headAssign k => .inr (execHeadAssign_keeps k s)
  | .isolationSet k => .inr (execIsolationSet_keeps k s)
  | .dirtyLogStart k fits => .inr (execDirtyLogStart_keeps k fits s)
  | .dirtyHarvest k => .inr (execDirtyHarvest_keeps k s)
  | .dirtyHarvestDone k => .inr (execDirtyHarvestDone_keeps k s)
  | .dirtyLogStop k => .inr (execDirtyLogStop_keeps k s)
  | .shadowSize k => .inr (execShadowSize_keeps k s)
  | .shadowSave k => .inr (execShadowSave_keeps k s)
  | .shadowSaveDone k => .inr (execShadowSaveDone_keeps k s)
  | .shadowRestore k img cause => .inr (execShadowRestore_keeps k img cause s)
  | .shadowRestoreDone k => .inr (execShadowRestoreDone_keeps k s)
  | .fwStage k img cause => .inr (execFwStage_keeps k img cause s)
  | .fwStageVerifyDone => .inr (execFwStageVerifyDone_keeps s)
  | .fwActivate k => .inr (execFwActivate_keeps k s)
  | .fwActivateBoundary => .inr (execFwActivateBoundary_keeps s)
  | .fwSwapCommit => .inr (execFwSwapCommit_keeps s)
  | .activateWindowExpiry => .inr (execActivateWindowExpiry_keeps s)
  | .fwPersist k => .inr (execFwPersist_keeps k s)
  | .fwPersistDone ok => .inr (execFwPersistDone_keeps ok s)
  | .fwDiscard k => .inr (execFwDiscard_keeps k s)
  | .prepareRemoval k => .inr (execPrepareRemoval_keeps k s)
  | .logFetch k => .inr (execLogFetch_keeps k s)
  | .logConfig k => .inr (execLogConfig_keeps k s)
  | .traceSet k => .inr (execTraceSet_keeps k s)
  | .powerCapSet k => .inr (execPowerCapSet_keeps k s)
  | .quietLimitSet k => .inr (execQuietLimitSet_keeps k s)
  | .cadenceFloorSet k => .inr (execCadenceFloorSet_keeps k s)
  | .telemRead k => .inr (execTelemRead_keeps k s)
  | .receiptStart k => .inr (execReceiptStart_keeps k s)
  | .receiptStop k => .inr (execReceiptStop_keeps k s)
  | .attestQuote k => .inr (execAttestQuote_keeps k s)
  | .attestQuoteSigned k => .inr (execAttestQuoteSigned_keeps k s)
  | .logSelWrite ag v => .inr (execLogSelWrite_keeps ag v s)
  | .quiesceLimitExpiry k => .inr (execQuiesceLimitExpiry_keeps k s)
  | .quiesceFlushDone k => .inr (execQuiesceFlushDone_keeps k s)
  | .flushTimeout k => .inr (execFlushTimeout_keeps k s)
  | .instanceResetDone k => .inr (execInstanceResetDone_keeps k s)
  | .slotScrubStart n => .inr (execSlotScrubStart_keeps n s)
  | .slotScrubDone n => .inr (execSlotScrubDone_keeps n s)
  | .doorbell ag q tail => .inr (execDoorbell_keeps ag q tail s)
  | .ringDataReturn h err => .inr (execRingDataReturn_keeps h err s)
  | .nop h => .inr (execNop_keeps h s)
  | .indirect h err => .inr (execIndirect_keeps h err s)
  | .launch h => .inr (execLaunch_keeps h s)
  | .launchInline h => .inr (execLaunchInline_keeps h s)
  | .copy h err => .inr (execCopy_keeps h err s)
  | .bmvDescriptorComplete id err => .inr (execBmvDescriptorComplete_keeps id err s)
  | .bmvCopyComplete id => .inr (execBmvCopyComplete_keeps id s)
  | .fill h => .inr (execFill_keeps h s)
  | .signal h => .inr (execSignal_keeps h s)
  | .wait h => .inr (execWait_keeps h s)
  | .arrive h => .inr (execArrive_keeps h s)
  | .fence h => .inr (execFence_keeps h s)
  | .cond h err => .inr (execCond_keeps h err s)
  | .loopBegin h => .inr (execLoopBegin_keeps h s)
  | .loopEnd h => .inr (execLoopEnd_keeps h s)
  | .timestamp h => .inr (execTimestamp_keeps h s)
  | .writeData h => .inr (execWriteData_keeps h s)
  | .report h => .inr (execReport_keeps h s)
  | .beaconWait h => .inr (execBeaconWait_keeps h s)
  | .scanoutFlip h => .inr (execScanoutFlip_keeps h s)
  | .setContext h => .inr (execSetContext_keeps h s)
  | .htabLoad h err => .inr (execHtabLoad_keeps h err s)
  | .regWrite h => .inr (execRegWrite_keeps h s)
  | .regRead h avail => .inr (execRegRead_keeps h avail s)
  | .dmmuInvalidate h => .inr (execDmmuInvalidate_keeps h s)
  | .syncInit h err => .inr (execSyncInit_keeps h err s)
  | .timeoutSet h => .inr (execTimeoutSet_keeps h s)
  | .commandTimeoutExpiry id n => .inr (execCommandTimeoutExpiry_keeps id n s)
  | .drainGraceExpiry l => .inr (execDrainGraceExpiry_keeps l s)
  | .launchDispatch l err => .inr (execLaunchDispatch_keeps l err s)
  | .launchComplete l => .inr (execLaunchComplete_keeps l s)
  | .sliceExpiry l => .inr (execSliceExpiry_keeps l s)
  | .swapOutStart l n => .inr (execSwapOutStart_keeps l n s)
  | .swapOutComplete l n => .inr (execSwapOutComplete_keeps l n s)
  | .swapIn l n => .inr (execSwapIn_keeps l n s)
  | .swapInComplete l n err => .inr (execSwapInComplete_keeps l n err s)
  | .yieldLimitExpiry l n => .inr (execYieldLimitExpiry_keeps l n s)
  | .forcedSaveOverdue l n => .inr (execForcedSaveOverdue_keeps l n s)
  | .beaconTick b vb => .inr (execBeaconTick_keeps b vb s)
  | .beaconLockLoss b => .inr (execBeaconLockLoss_keeps b s)
  | .budgetExhausted r => .inr (execBudgetExhausted_keeps r s)
  | .hubArrive port => .inr (execHubArrive_keeps port s)
  | .hubSignalAdd port => .inr (execHubSignalAdd_keeps port s)
  | .hubConsume port => .inr (execHubConsume_keeps port s)
  | .hubWaitGe port => .inr (execHubWaitGe_keeps port s)
  | .hubWaitGen port => .inr (execHubWaitGen_keeps port s)
  | .hubWaitGeConsume port => .inr (execHubWaitGeConsume_keeps port s)
  | .waitWatchdogExpiry l => .inr (execWaitWatchdogExpiry_keeps l s)
  | .spinToPark l n => .inr (execSpinToPark_keeps l n s)
  | .svOpSignalAdd ag v => .inr (execSvOpSignalAdd_keeps ag v s)
  | .svOpConsume ag v => .inr (execSvOpConsume_keeps ag v s)
  | .svOpArrive ag v => .inr (execSvOpArrive_keeps ag v s)
  | .svOpStatusRead ag => .inr (execSvOpStatusRead_keeps ag s)
  | .objSelWrite ag v => .inr (execObjSelWrite_keeps ag v s)
  | .svSelWrite ag v => .inr (execSvSelWrite_keeps ag v s)
  | .resSelWrite ag v => .inr (execResSelWrite_keeps ag v s)
  | .yardContextEnter l n err => .inr (execYardContextEnter_keeps l n err s)
  | .itemReturn l n a0 pc => .inr (execItemReturn_keeps l n a0 pc s)
  | .contextEnd l n => .inr (execContextEnd_keeps l n s)
  | .push l n e ws pc => .inr (execPush_keeps l n e ws pc s)
  | .pushTable l n e v pc => .inr (execPushTable_keeps l n e v pc s)
  | .levAdd l n k v => .inr (execLevAdd_keeps l n k v s)
  | .cccSyncOpSignalAdd l n word pc => .inr (execCccSyncOpSignalAdd_keeps l n word pc s)
  | .cccSyncOpConsume l n word pc => .inr (execCccSyncOpConsume_keeps l n word pc s)
  | .cccSyncOpArrive l n word pc => .inr (execCccSyncOpArrive_keeps l n word pc s)
  | .cccSyncWaitGe l n word pc => .inr (execCccSyncWaitGe_keeps l n word pc s)
  | .cccSyncWaitGen l n word pc => .inr (execCccSyncWaitGen_keeps l n word pc s)
  | .cccSyncWaitGeConsume l n word pc => .inr (execCccSyncWaitGeConsume_keeps l n word pc s)
  | .cccSyncStatusRead l n => .inr (execCccSyncStatusRead_keeps l n s)
  | .yield l n idx pc => .inr (execYield_keeps l n idx pc s)
  | .trap l n v pc => .inr (execTrap_keeps l n v pc s)
  | .cccException l n mcause mtval pc => .inr (execCccException_keeps l n mcause mtval pc s)
  | .matmul l n e err => .inr (execMatmul_keeps l n e err s)
  | .conv2d l n e err => .inr (execConv2d_keeps l n e err s)
  | .dwconv l n e err => .inr (execDwconv_keeps l n e err s)
  | .pool l n e err => .inr (execPool_keeps l n e err s)
  | .eltwise l n e err => .inr (execEltwise_keeps l n e err s)
  | .reduce l n e err => .inr (execReduce_keeps l n e err s)
  | .quant l n e err => .inr (execQuant_keeps l n e err s)
  | .transform l n e err => .inr (execTransform_keeps l n e err s)
  | .gather l n e err => .inr (execGather_keeps l n e err s)
  | .move l n e err => .inr (execMove_keeps l n e err s)
  | .move2d l n e err => .inr (execMove2d_keeps l n e err s)
  | .move4d l n e err => .inr (execMove4d_keeps l n e err s)
  | .descArrive l n e => .inr (execDescArrive_keeps l n e s)
  | .descSignal l n e => .inr (execDescSignal_keeps l n e s)
  | .descConsume l n e => .inr (execDescConsume_keeps l n e s)
  | .descFence l n e => .inr (execDescFence_keeps l n e s)
  | .descriptorComplete l n e => .inr (execDescriptorComplete_keeps l n e s)
  | .vblankStart d err => .inr (execVblankStart_keeps d err s)
  | .lineUnderrun d => .inr (execLineUnderrun_keeps d s)
  | .headEnable ag d v => .inr (execHeadEnable_keeps ag d v s)
  | .headDisable ag d v => .inr (execHeadDisable_keeps ag d v s)
  | .headHoldLimitExpiry d => .inr (execHeadHoldLimitExpiry_keeps d s)
  | .portRouteWrite ag v => .inr (execPortRouteWrite_keeps ag v s)
  | .portRestartDone d => .inr (execPortRestartDone_keeps d s)
  | .dpPortEnable ag d v => .inr (execDpPortEnable_keeps ag d v s)
  | .dpTrainStart ag d => .inr (execDpTrainStart_keeps ag d s)
  | .dpTrainDone d ok => .inr (execDpTrainDone_keeps d ok s)
  | .auxCmdStart ag d v => .inr (execAuxCmdStart_keeps ag d v s)
  | .auxDone d result reply => .inr (execAuxDone_keeps d result reply s)
  | .hpdIrq d => .inr (execHpdIrq_keeps d s)
  | .hpdLoss d => .inr (execHpdLoss_keeps d s)
  | .hpdReturn d => .inr (execHpdReturn_keeps d s)
  | .sdpCommit ag d v => .inr (execSdpCommit_keeps ag d v s)
  | .lutDataWrite ag d v => .inr (execLutDataWrite_keeps ag d v s)
  | .captureArm ag d => .inr (execCaptureArm_keeps ag d s)
  | .captureDone d => .inr (execCaptureDone_keeps d s)
  | .trimLoop p1 p10 want table lim conf => .inr (execTrimLoop_keeps p1 p10 want table lim conf s)
  | .vrSettleExpiry => .inr (execVrSettleExpiry_keeps s)
  | .vrTransactionFail => .inr (execVrTransactionFail_keeps s)
  | .vrAlert => .inr (execVrAlert_keeps s)
  | .droopDetect n => .inr (execDroopDetect_keeps n s)
  | .overcurrentDetect => .inr (execOvercurrentDetect_keeps s)
  | .stretchEnd n => .inr (execStretchEnd_keeps n s)
  | .thermalClamp => .inr (execThermalClamp_keeps s)
  | .clampRelease => .inr (execClampRelease_keeps s)
  | .thermTrip => .inr (execThermTrip_keeps s)
  | .lendingWindow => .inr (execLendingWindow_keeps s)
  | .telemetrySample vals held => .inr (execTelemetrySample_keeps vals held s)
  | .bgStepTake t u cmem found => .inr (execBgStepTake_keeps t u cmem found s)
  | .bgForced t u first => .inr (execBgForced_keeps t u first s)
  | .hbmPatrolStep u err => .inr (execHbmPatrolStep_keeps u err s)
  | .crackLoopMeasure res => .inr (execCrackLoopMeasure_keeps res s)
  | .railFault => .inr (execRailFault_keeps s)
  | .mctpEidAssign eid => .inr (execMctpEidAssign_keeps eid s)
  | .mctpControlMessage cmd => .inr (execMctpControlMessage_keeps cmd s)
  | .pldmSensorRead id => .inr (execPldmSensorRead_keeps id s)
  | .pldmEffecterSet id v => .inr (execPldmEffecterSet_keeps id v s)
  | .fcolTakeFault => .inr (execFcolTakeFault_keeps s)
  | .rateWindowExpiry => .inr (execRateWindowExpiry_keeps s)
  | .fcolSelf => .inr (execFcolSelf_keeps s)
  | .frAck ag v => .inr (execFrAck_keeps ag v s)
  | .fwReport ag v => .inr (execFwReport_keeps ag v s)
  | .frSelWrite ag v => .inr (execFrSelWrite_keeps ag v s)
  | .histSelWrite ag v => .inr (execHistSelWrite_keeps ag v s)
  | .sliceSelWrite ag v => .inr (execSliceSelWrite_keeps ag v s)
  | .logFetchDone k => .inr (execLogFetchDone_keeps k s)
  | .prepareRemovalDone => .inr (execPrepareRemovalDone_keeps s)
  | .mboxDone => .inr (execMboxDone_keeps s)
  | .forcedKillDone k => .inr (execForcedKillDone_keeps k s)

/-- The safe state under one command: it stays, or the command is a cold reset. -/
theorem exec_safe_or_isColdReset {c : Instr} {s t : State} (hs : s.pw.safe = true) (h : exec c s = .next t) :
    t.pw.safe = true ∨ IsColdReset c := by
  obtain hc | hk := isColdReset_or_exec_keeps c s
  · exact .inr hc
  · exact .inl ((hk t h).safe hs)

theorem step_of_pending_nil {s : State} (hp : s.pending = []) : step s = .next s.clockTick := by
  simp only [step, hp]

theorem step_of_pending_cons {s : State} {c : Instr} {q : List Instr} (hp : s.pending = c :: q) :
    step s = exec c { s with pending := q } := by
  simp only [step, hp]

/-- Settles O9: the idle step keeps the safe state, and of the commands only a cold reset gives it up (R119). -/
theorem safeStateIsLeftOnlyByAColdReset : Obligations.SafeStateIsLeftOnlyByAColdReset := by
  intro s t hs hstep
  cases hp : s.pending with
  | nil =>
    rw [step_of_pending_nil hp] at hstep
    cases hstep
    exact .inl ((State.clockTick_keeps s).safe hs)
  | cons c q =>
    rw [step_of_pending_cons hp] at hstep
    obtain ht | hc := exec_safe_or_isColdReset (s := { s with pending := q }) hs hstep
    · exact .inl ht
    · refine .inr ⟨q, ?_⟩
      cases hc with
      | vddAonLoss => exact .inl rfl
      | inputPowerLoss => exact .inr (.inl rfl)
      | coldPowerUp crack => exact .inr (.inr ⟨crack, rfl⟩)

end Sys2Proof.Machine
end

section
/-! PROOFS. SR-IOV and the BAR Size fields (04, R138 and R143). -/

namespace Sys2Proof.Machine

/-! ### When the host's commands reach the device -/

theorem State.parked_eq_false {s : State} (hp : s.pw.stage ≠ .parked) : s.parked = false := by
  simp [State.parked, hp]

/-- The check that the SR-IOV and BAR Size commands share lets them pass. -/
theorem State.not_linkDown_or_parked {s : State} (hl : s.pcie.linkUp = true) (hp : s.pw.stage ≠ .parked) :
    ¬ ((!s.pcie.linkUp) = true ∨ s.parked = true) := by
  simp [hl, State.parked_eq_false hp]

theorem exec_vfEnableSet {s : State} (hl : s.pcie.linkUp = true) (hp : s.pw.stage ≠ .parked) (hn : s.pcie.numVfs ≠ 0) :
    exec .vfEnableSet s = .next s.vfEnable := by
  have hopen : ¬ ((!s.pcie.linkUp) = true ∨ s.parked = true ∨ s.pcie.numVfs = 0) := by
    simp [hl, State.parked_eq_false hp, hn]
  exact congrArg Host.Outcome.next (if_neg hopen)

theorem exec_numvfsWrite (n : Nat) {s : State} (hl : s.pcie.linkUp = true) (hp : s.pw.stage ≠ .parked) :
    exec (.numvfsWrite n) s = .next (s.numVfsWrite n) :=
  congrArg Host.Outcome.next (if_neg (State.not_linkDown_or_parked hl hp))

theorem exec_barSizeWrite (vf : Bool) (n : Nat) {s : State} (hl : s.pcie.linkUp = true) (hp : s.pw.stage ≠ .parked) :
    exec (.barSizeWrite vf n) s = .next (s.barSize vf n) :=
  congrArg Host.Outcome.next (if_neg (State.not_linkDown_or_parked hl hp))

/-- A write that the NumVFs rules ignore changes nothing, whether or not it reaches the device. -/
theorem exec_numvfsWrite_of_ignored {n : Nat} {s : State} (h : s.numVfsWrite n = s) : exec (.numvfsWrite n) s = .next s :=
  congrArg Host.Outcome.next ((congrArg _ h).trans (ite_self s))

/-- A write that the BAR Size rules ignore changes nothing, whether or not it reaches the device. -/
theorem exec_barSizeWrite_of_ignored {vf : Bool} {n : Nat} {s : State} (h : s.barSize vf n = s) :
    exec (.barSizeWrite vf n) s = .next s :=
  congrArg Host.Outcome.next ((congrArg _ h).trans (ite_self s))

/-! ### NumVFs and the visible virtual functions (R138) -/

theorem State.vfSeen_iff (s : State) (k : Nat) : s.vfSeen k = true ↔ s.pcie.vfEn = true ∧ 1 ≤ k ∧ k ≤ s.pcie.numVfs := by
  simp [State.vfSeen]

/-- With VF Enable 1, NumVFs alone says which virtual functions are visible. -/
theorem State.vfSeen_iff_of_vfEn {s : State} (he : s.pcie.vfEn = true) (k : Nat) :
    s.vfSeen k = true ↔ 1 ≤ k ∧ k ≤ s.pcie.numVfs := by
  simp [State.vfSeen_iff, he]

theorem State.vfSeen_eq_false_of_numVfs_eq_zero {s : State} (hn : s.pcie.numVfs = 0) (k : Nat) : s.vfSeen k = false := by
  rw [Bool.eq_false_iff, ne_eq, State.vfSeen_iff]
  omega

theorem State.numVfsWrite_of_legal {n : Nat} {s : State} (hn : n ≤ 127) (h : s.pcie.vfEn = false ∨ s.pcie.numVfs = 0) :
    s.numVfsWrite n = { s with pcie := { s.pcie with numVfs := n } } := by
  have hlegal : ¬ (127 < n ∨ s.pcie.vfEn = true ∧ s.pcie.numVfs ≠ 0) := by
    rintro (hbig | ⟨hen, hnz⟩)
    · omega
    · cases h with
      | inl hoff => simp [hoff] at hen
      | inr hz => exact hnz hz
  exact if_neg hlegal

theorem State.numVfsWrite_of_illegal {n : Nat} {s : State} (h : 127 < n ∨ s.pcie.vfEn = true ∧ s.pcie.numVfs ≠ 0) :
    s.numVfsWrite n = s :=
  if_pos h

/-! ### Configuration reads (R107, R138) -/

/-- A visible function whose configuration space is ready answers a read with its field and status 0. -/
theorem exec_pcieConfigRequest_read {k : Nat} {s : State} (hl : s.pcie.linkUp = true) (hc : s.pw.configReady = true)
    (hseen : s.fnSeen k = true) (hretry : s.cfgRetry k = false) (reg : CfgReg) (prog : List (Nat × Nat)) :
    exec (.pcieConfigRequest k reg none prog) s = .next (s.answer (leBytes 4 (s.cfgRead k reg)) 0) := by
  change execPcieConfigRequest k reg none prog s = _
  simp [execPcieConfigRequest, hl, hc, hseen, hretry]

theorem State.cfgRetry_eq_false {k : Nat} {s : State} (hc : s.pw.configReady = true) (h3 : s.pw.l3 = false)
    (h0 : (s.fn 0).flr = false) (hk : (s.fn k).flr = false) : s.cfgRetry k = false := by
  simp [State.cfgRetry, hc, h3, h0, hk]

theorem State.fnSeen_of_vfSeen {k : Nat} {s : State} (h : s.vfSeen k = true) : s.fnSeen k = true := by
  simp [State.fnSeen, h]

/-- Settles O18: VF Enable and the legal writes of NumVFs set what `vfSeen` reads, and a function that is seen answers its reads (R138). -/
theorem virtualFunctionsAppearByNumVfs : Obligations.VirtualFunctionsAppearByNumVfs := by
  refine ⟨fun s hl hp h1 _ => ?enable, fun n s hl hp hn h => ?legal, fun n s hn => ?above, fun n s he hn => ?enabled,
    fun k s _ hn => State.vfSeen_eq_false_of_numVfs_eq_zero hn k, fun n s hl hp he h0 _ hn => ?later⟩
  case enable =>
    have hvis := State.vfSeen_iff_of_vfEn (s := s.vfEnable) rfl
    refine ⟨s.vfEnable, exec_vfEnableSet hl hp (by omega), rfl, hvis, fun hc h3 hf0 k hk1 hkn hfk reg prog => ?_⟩
    have hseen : s.vfEnable.fnSeen k = true := State.fnSeen_of_vfSeen ((hvis k).2 ⟨hk1, hkn⟩)
    have hretry : s.vfEnable.cfgRetry k = false := State.cfgRetry_eq_false hc h3 hf0 hfk
    exact ⟨_, exec_pcieConfigRequest_read (s := s.vfEnable) hl hc hseen hretry reg prog⟩
  case legal => rw [exec_numvfsWrite n hl hp, State.numVfsWrite_of_legal hn h]
  case above => exact exec_numvfsWrite_of_ignored (State.numVfsWrite_of_illegal (.inl hn))
  case enabled => exact exec_numvfsWrite_of_ignored (State.numVfsWrite_of_illegal (.inr ⟨he, hn⟩))
  case later =>
    refine ⟨_, exec_numvfsWrite n hl hp, ?_⟩
    rw [State.numVfsWrite_of_legal hn (.inr h0)]
    exact State.vfSeen_iff_of_vfEn he

/-! ### The BAR Size fields (R143) -/

theorem State.barSize_pf {n : Nat} {s : State} (hn : n ≤ 9) (hm : (s.fn 0).memEn = false) :
    s.barSize false n = { s with pcie := { s.pcie with pfBar2 := n } } := by
  simp [State.barSize, hm, Nat.not_lt.2 hn]

theorem State.barSize_vf {n : Nat} {s : State} (hn : n ≤ 9) (hm : s.pcie.vfMse = false) :
    s.barSize true n = { s with pcie := { s.pcie with vfBar2 := n } } := by
  simp [State.barSize, hm, Nat.not_lt.2 hn]

theorem State.barSize_pf_of_memEn (n : Nat) {s : State} (hm : (s.fn 0).memEn = true) : s.barSize false n = s := by
  simp [State.barSize, hm]

theorem State.barSize_vf_of_vfMse (n : Nat) {s : State} (hm : s.pcie.vfMse = true) : s.barSize true n = s := by
  simp [State.barSize, hm]

/-- Settles O19: Memory Space Enable of the PF, or of the VFs, decides whether the size is written (R143). -/
theorem barSizeIsWrittenOnlyWhileMemorySpaceIsOff : Obligations.BarSizeIsWrittenOnlyWhileMemorySpaceIsOff := by
  refine ⟨fun n s hl hp hn hm => ?pf, fun n s hl hp hn hm => ?vf, fun n s hm => ?pfKept, fun n s hm => ?vfKept⟩
  case pf => rw [exec_barSizeWrite false n hl hp, State.barSize_pf hn hm]
  case vf => rw [exec_barSizeWrite true n hl hp, State.barSize_vf hn hm]
  case pfKept => exact exec_barSizeWrite_of_ignored (State.barSize_pf_of_memEn n hm)
  case vfKept => exact exec_barSizeWrite_of_ignored (State.barSize_vf_of_vfMse n hm)

end Sys2Proof.Machine
end

section
/-! PROOFS. What a command and a step keep: memory, fuses, the queue (05, 14, 95). -/

namespace Sys2Proof.Machine

/-- A state without the safe flag keeps what the state with it keeps: the flag is no premise any more. -/
theorem Keeps.dropSafe {s t : State} (h : Keeps s t) : Keeps { s with pw := { s.pw with safe := false } } t :=
  ⟨h.pend, h.wf, h.sec, h.free, fun hsafe => nomatch hsafe⟩

/-- Every command keeps everything that operations keep but the safe flag, which a cold reset gives up (R119). -/
theorem exec_keeps_dropSafe (c : Instr) (s : State) : Kept { s with pw := { s.pw with safe := false } } (exec c s) := by
  intro t h
  obtain hc | hk := isColdReset_or_exec_keeps c s
  · cases hc with
    | coldPowerUp crack => exact execColdPowerUp_keeps true crack s t h
    | vddAonLoss => exact execVddAonLoss_keeps s t h
    | inputPowerLoss => exact execInputPowerLoss_keeps s t h
  · exact (hk t h).dropSafe

/-- What a step keeps but the queue, whose front it takes: canonical memory and the fuses. -/
theorem step_keeps {s t : State} (h : step s = .next t) : (Memory.wf s = true → Memory.wf t = true) ∧ SecLe s.sec t.sec := by
  cases hp : s.pending with
  | nil =>
    rw [step_of_pending_nil hp] at h
    cases h
    exact ⟨(State.clockTick_keeps s).wf, (State.clockTick_keeps s).sec⟩
  | cons c q =>
    rw [step_of_pending_cons hp] at h
    have hk := exec_keeps_dropSafe c { s with pending := q } t h
    exact ⟨hk.wf, hk.sec⟩

/-- Settles O4: every command and the idle step keep the canonical form. -/
theorem stepKeepsMemoryCanonical : Obligations.StepKeepsMemoryCanonical :=
  fun _ _ hwf hstep => (step_keeps hstep).1 hwf

/-- A fuse bit that is blown before is blown after. -/
theorem SecLe.testBit {a b : Sec} (h : SecLe a b) {i : Nat} (hi : a.keyRevoke.testBit i = true) : b.keyRevoke.testBit i = true := by
  rw [← h.revoke, Nat.testBit_or, hi, Bool.true_or]

/-- Settles O5: the fused state only grows (`SecLe`). -/
theorem stepNeverUnblowsAFuse : Obligations.StepNeverUnblowsAFuse :=
  fun _ _ hstep => ⟨(step_keeps hstep).2.arb, fun _ => (step_keeps hstep).2.testBit⟩

/-- Settles O6: no command touches the queue behind it, and each draw of a free value counts one. -/
theorem commandsLeaveTheQueueAlone : Obligations.CommandsLeaveTheQueueAlone :=
  fun c s t h => ⟨(exec_keeps_dropSafe c s t h).pend, (exec_keeps_dropSafe c s t h).free⟩

/-- Settles O1. -/
theorem stepRunsTheOldestCommand : Obligations.StepRunsTheOldestCommand :=
  fun _ _ _ hp => step_of_pending_cons hp

/-! ### Which commands stop (R89, R91) -/

theorem execWaitWatchdogExpiry_next (i : Nat) (s : State) : ∃ t, execWaitWatchdogExpiry i s = .next t := by
  unfold execWaitWatchdogExpiry
  dsimp only
  split
  · exact ⟨_, rfl⟩
  · exact ⟨_, rfl⟩

theorem execSpinToPark_next (l n : Nat) (s : State) : ∃ t, execSpinToPark l n s = .next t := by
  unfold execSpinToPark
  split
  · split
    · exact ⟨_, rfl⟩
    · exact ⟨_, rfl⟩
  · exact ⟨_, rfl⟩

/-- A release of PERST_N answers a next state unless its hold time is not met while the rails are up and the device is not in the safe
state (R89). -/
theorem execPerstNDeasserted_next_or_fault (holdMet fusesOk : Bool) (board : List Byte) (s : State) :
    (∃ t, execPerstNDeasserted holdMet fusesOk board s = .next t) ∨ (holdMet = false ∧ s.pw.railsUp = true ∧ s.pw.perst = true ∧
      s.pw.safe = false ∧ execPerstNDeasserted holdMet fusesOk board s = .fault .perstHoldUnmet) := by
  unfold execPerstNDeasserted
  split
  · exact .inl ⟨_, rfl⟩
  · rename_i hheld
    split
    · exact .inl ⟨_, rfl⟩
    · rename_i hsafe
      cases holdMet with
      | true => exact .inl ⟨_, rfl⟩
      | false =>
        simp only [Bool.not_eq_true', not_or, Bool.not_eq_false] at hheld
        exact .inr ⟨rfl, hheld.1, hheld.2, by simpa using hsafe, rfl⟩

/-- Settles O7: the row of every other command is a next state by definition. -/
theorem onlyTwoCommandsStop : Obligations.OnlyTwoCommandsStop := by
  intro c s
  cases c with
  | coldPowerUp inOrder crack =>
    cases inOrder with
    | true => exact .inl ⟨_, rfl⟩
    | false => exact .inr (.inl ⟨crack, rfl, rfl⟩)
  | perstNDeasserted holdMet fusesOk board =>
    obtain hnext | ⟨rfl, hup, hperst, hsafe, hstop⟩ := execPerstNDeasserted_next_or_fault holdMet fusesOk board s
    · exact .inl hnext
    · exact .inr (.inr ⟨fusesOk, board, rfl, hup, hperst, hsafe, hstop⟩)
  | waitWatchdogExpiry i => exact .inl (execWaitWatchdogExpiry_next i s)
  | spinToPark l n => exact .inl (execSpinToPark_next l n s)
  | _ => exact .inl ⟨_, rfl⟩

end Sys2Proof.Machine
end

section
/-! PROOFS. Work on the device leaves its power, time, security, trim and link alone (07, 10, 12, 13). -/

namespace Sys2Proof.Machine

/-- The commands of the work, each by the lemma of its meaning. -/
theorem exec_same_of_isWork {c : Instr} (hc : Claims.isWork c = true) (s : State) : CoreKept s (exec c s) := by
  cases c with
  | receiptWrite d => exact execReceiptWrite_same d s
  | brianeRequestStart k => exact execBrianeRequestStart_same k s
  | brianeEventDeliver k => exact execBrianeEventDeliver_same k s
  | brianeReservedOpcode k => exact execBrianeReservedOpcode_same k s
  | ping k => exact execPing_same k s
  | getInfo k => exact execGetInfo_same k s
  | queueCreate k want => exact execQueueCreate_same k want s
  | queueDestroy k => exact execQueueDestroy_same k s
  | queueRestart k => exact execQueueRestart_same k s
  | queueModify k => exact execQueueModify_same k s
  | syncBlockAlloc k want => exact execSyncBlockAlloc_same k want s
  | syncBlockFree k => exact execSyncBlockFree_same k s
  | syncForce k => exact execSyncForce_same k s
  | aspaceSet k => exact execAspaceSet_same k s
  | beaconConfig k => exact execBeaconConfig_same k s
  | reserve k want => exact execReserve_same k want s
  | reserveRelease k => exact execReserveRelease_same k s
  | instConfigure k => exact execInstConfigure_same k s
  | instActivate k => exact execInstActivate_same k s
  | instQuiesce k => exact execInstQuiesce_same k s
  | instReset k => exact execInstReset_same k s
  | instRemove k => exact execInstRemove_same k s
  | slotAssign k => exact execSlotAssign_same k s
  | cgrpDefine k => exact execCgrpDefine_same k s
  | cgrpGrant k => exact execCgrpGrant_same k s
  | headAssign k => exact execHeadAssign_same k s
  | isolationSet k => exact execIsolationSet_same k s
  | dirtyLogStart k fits => exact execDirtyLogStart_same k fits s
  | dirtyHarvest k => exact execDirtyHarvest_same k s
  | dirtyHarvestDone k => exact execDirtyHarvestDone_same k s
  | dirtyLogStop k => exact execDirtyLogStop_same k s
  | shadowSize k => exact execShadowSize_same k s
  | shadowSave k => exact execShadowSave_same k s
  | shadowSaveDone k => exact execShadowSaveDone_same k s
  | shadowRestore k img cause => exact execShadowRestore_same k img cause s
  | shadowRestoreDone k => exact execShadowRestoreDone_same k s
  | logFetch k => exact execLogFetch_same k s
  | logConfig k => exact execLogConfig_same k s
  | traceSet k => exact execTraceSet_same k s
  | receiptStart k => exact execReceiptStart_same k s
  | receiptStop k => exact execReceiptStop_same k s
  | quiesceLimitExpiry k => exact execQuiesceLimitExpiry_same k s
  | quiesceFlushDone k => exact execQuiesceFlushDone_same k s
  | flushTimeout k => exact execFlushTimeout_same k s
  | instanceResetDone k => exact execInstanceResetDone_same k s
  | slotScrubStart n => exact execSlotScrubStart_same n s
  | slotScrubDone n => exact execSlotScrubDone_same n s
  | ringDataReturn h err => exact execRingDataReturn_same h err s
  | nop h => exact execNop_same h s
  | indirect h err => exact execIndirect_same h err s
  | launch h => exact execLaunch_same h s
  | launchInline h => exact execLaunchInline_same h s
  | copy h err => exact execCopy_same h err s
  | bmvDescriptorComplete id err => exact execBmvDescriptorComplete_same id err s
  | bmvCopyComplete id => exact execBmvCopyComplete_same id s
  | fill h => exact execFill_same h s
  | signal h => exact execSignal_same h s
  | wait h => exact execWait_same h s
  | arrive h => exact execArrive_same h s
  | fence h => exact execFence_same h s
  | cond h err => exact execCond_same h err s
  | loopBegin h => exact execLoopBegin_same h s
  | loopEnd h => exact execLoopEnd_same h s
  | timestamp h => exact execTimestamp_same h s
  | writeData h => exact execWriteData_same h s
  | report h => exact execReport_same h s
  | beaconWait h => exact execBeaconWait_same h s
  | scanoutFlip h => exact execScanoutFlip_same h s
  | setContext h => exact execSetContext_same h s
  | htabLoad h err => exact execHtabLoad_same h err s
  | dmmuInvalidate h => exact execDmmuInvalidate_same h s
  | syncInit h err => exact execSyncInit_same h err s
  | timeoutSet h => exact execTimeoutSet_same h s
  | commandTimeoutExpiry id n => exact execCommandTimeoutExpiry_same id n s
  | drainGraceExpiry l => exact execDrainGraceExpiry_same l s
  | launchDispatch l err => exact execLaunchDispatch_same l err s
  | launchComplete l => exact execLaunchComplete_same l s
  | sliceExpiry l => exact execSliceExpiry_same l s
  | swapOutStart l n => exact execSwapOutStart_same l n s
  | swapOutComplete l n => exact execSwapOutComplete_same l n s
  | swapIn l n => exact execSwapIn_same l n s
  | swapInComplete l n err => exact execSwapInComplete_same l n err s
  | yieldLimitExpiry l n => exact execYieldLimitExpiry_same l n s
  | forcedSaveOverdue l n => exact execForcedSaveOverdue_same l n s
  | beaconTick b vb => exact execBeaconTick_same b vb s
  | beaconLockLoss b => exact execBeaconLockLoss_same b s
  | budgetExhausted r => exact execBudgetExhausted_same r s
  | hubArrive port => exact execHubArrive_same port s
  | hubSignalAdd port => exact execHubSignalAdd_same port s
  | hubConsume port => exact execHubConsume_same port s
  | hubWaitGe port => exact execHubWaitGe_same port s
  | hubWaitGen port => exact execHubWaitGen_same port s
  | hubWaitGeConsume port => exact execHubWaitGeConsume_same port s
  | waitWatchdogExpiry l => exact execWaitWatchdogExpiry_same l s
  | spinToPark l n => exact execSpinToPark_same l n s
  | yardContextEnter l n err => exact execYardContextEnter_same l n err s
  | itemReturn l n a0 pc => exact execItemReturn_same l n a0 pc s
  | contextEnd l n => exact execContextEnd_same l n s
  | push l n e ws pc => exact execPush_same l n e ws pc s
  | pushTable l n e v pc => exact execPushTable_same l n e v pc s
  | levAdd l n k v => exact execLevAdd_same l n k v s
  | cccSyncOpSignalAdd l n word pc => exact execCccSyncOpSignalAdd_same l n word pc s
  | cccSyncOpConsume l n word pc => exact execCccSyncOpConsume_same l n word pc s
  | cccSyncOpArrive l n word pc => exact execCccSyncOpArrive_same l n word pc s
  | cccSyncWaitGe l n word pc => exact execCccSyncWaitGe_same l n word pc s
  | cccSyncWaitGen l n word pc => exact execCccSyncWaitGen_same l n word pc s
  | cccSyncWaitGeConsume l n word pc => exact execCccSyncWaitGeConsume_same l n word pc s
  | cccSyncStatusRead l n => exact execCccSyncStatusRead_same l n s
  | yield l n idx pc => exact execYield_same l n idx pc s
  | trap l n v pc => exact execTrap_same l n v pc s
  | cccException l n mcause mtval pc => exact execCccException_same l n mcause mtval pc s
  | matmul l n e err => exact execMatmul_same l n e err s
  | conv2d l n e err => exact execConv2d_same l n e err s
  | dwconv l n e err => exact execDwconv_same l n e err s
  | pool l n e err => exact execPool_same l n e err s
  | eltwise l n e err => exact execEltwise_same l n e err s
  | reduce l n e err => exact execReduce_same l n e err s
  | quant l n e err => exact execQuant_same l n e err s
  | transform l n e err => exact execTransform_same l n e err s
  | gather l n e err => exact execGather_same l n e err s
  | move l n e err => exact execMove_same l n e err s
  | move2d l n e err => exact execMove2d_same l n e err s
  | move4d l n e err => exact execMove4d_same l n e err s
  | descArrive l n e => exact execDescArrive_same l n e s
  | descSignal l n e => exact execDescSignal_same l n e s
  | descConsume l n e => exact execDescConsume_same l n e s
  | descFence l n e => exact execDescFence_same l n e s
  | descriptorComplete l n e => exact execDescriptorComplete_same l n e s
  | vblankStart d err => exact execVblankStart_same d err s
  | lineUnderrun d => exact execLineUnderrun_same d s
  | headHoldLimitExpiry d => exact execHeadHoldLimitExpiry_same d s
  | portRestartDone d => exact execPortRestartDone_same d s
  | dpTrainDone d ok => exact execDpTrainDone_same d ok s
  | auxDone d result reply => exact execAuxDone_same d result reply s
  | hpdIrq d => exact execHpdIrq_same d s
  | hpdLoss d => exact execHpdLoss_same d s
  | hpdReturn d => exact execHpdReturn_same d s
  | captureDone d => exact execCaptureDone_same d s
  | logFetchDone k => exact execLogFetchDone_same k s
  | forcedKillDone k => exact execForcedKillDone_same k s
  | _ => cases hc

/-- Settles O10: what `SameCore` names is what the statement names. -/
theorem workLeavesPowerTimeSecurityAndTrimAlone : Obligations.WorkLeavesPowerTimeSecurityAndTrimAlone := by
  intro c s t hc h
  have hs := exec_same_of_isWork hc s t h
  exact ⟨hs.pw, hs.gtime, hs.vcore, hs.sec, hs.trim, hs.link, hs.vfs⟩

end Sys2Proof.Machine
end

section
/-! PROOFS. A write of device memory reads back (14, R149, R349, R649). -/

namespace Sys2Proof.Machine

theorem State.markGrans_eq (s : State) (g n : Nat) : s.markGrans g n = { s with sess := (s.markGrans g n).sess } := by
  unfold State.markGrans
  generalize List.range n = l
  induction l generalizing s with
  | nil => rfl
  | cons i l ih =>
    rw [List.foldl_cons, ih]

theorem State.touchHeads_eq (s : State) (pa n : Nat) : s.touchHeads pa n = { s with disp := (s.touchHeads pa n).disp } := by
  unfold State.touchHeads
  split <;> rfl

/-- What a write makes of memory and of the poison, and that it leaves the marks of the slots whose contents are open. -/
theorem State.devWriteMask_mem (s : State) {pa : Nat} {bs : List (Option Byte)} (hbs : bs ≠ []) :
    (s.devWriteMask pa bs).mem = putMem (fun a => (s.vagueAt a).isSome) pa bs s.mem ∧ (s.devWriteMask pa bs).vague = s.vague ∧
    (s.devWriteMask pa bs).poison = s.poison.filter fun u => !coversUnit pa bs u := by
  unfold State.devWriteMask
  rw [if_neg hbs]
  dsimp only
  rw [State.touchHeads_eq, State.markGrans_eq]
  split <;> split <;> exact ⟨rfl, rfl, rfl⟩

theorem State.devWriteMask_nil (s : State) (pa : Nat) : s.devWriteMask pa [] = s := if_pos rfl

/-- A byte as a write of it leaves it. -/
theorem State.devWriteMask_memByte {s : State} (hwf : Memory.wf s = true) (pa : Nat) (bs : List (Option Byte)) (a : Nat) :
    (s.devWriteMask pa bs).memByte a =
      if pa ≤ a then (match bs.getD (a - pa) none with | some v => v | none => s.memByte a) else s.memByte a := by
  by_cases hbs : bs = []
  · subst hbs
    simp [State.devWriteMask_nil]
  · obtain ⟨hmem, hvague, -⟩ := s.devWriteMask_mem (pa := pa) hbs
    have hat : (s.devWriteMask pa bs).vagueAt a = s.vagueAt a := by simp only [State.vagueAt, hvague]
    have hdef : (s.devWriteMask pa bs).memDef a = s.memDef a := by simp only [State.memDef, hat]
    have hzero : (s.vagueAt a).isSome = false → s.memDef a = 0 := by
      intro hnone
      simp [State.memDef, Option.isNone_iff_eq_none.1 (Option.isSome_eq_false_iff.1 hnone)]
    simp only [State.memByte, hmem, hdef]
    exact putMem_read _ pa bs s.mem ((memory_wf_iff s).1 hwf) a (s.memDef a) hzero

theorem coversAt_eq_false_iff {pa : Nat} {bs : List (Option Byte)} {a : Nat} :
    coversAt pa bs a = false ↔ (pa ≤ a → bs.getD (a - pa) none = none) := by
  unfold coversAt
  cases bs.getD (a - pa) none <;> simp

theorem coversUnit_nil (pa u : Nat) : coversUnit pa [] u = false := by
  have h0 : coversAt pa [] (32 * u + 0) = false := by simp [coversAt]
  exact List.all_eq_false.2 ⟨0, by simp, by rw [h0]; exact Bool.false_ne_true⟩

theorem State.mem_devWriteMask_poison (s : State) (pa : Nat) (bs : List (Option Byte)) (u : Nat) :
    u ∈ (s.devWriteMask pa bs).poison ↔ u ∈ s.poison ∧ coversUnit pa bs u = false := by
  by_cases hbs : bs = []
  · subst hbs
    simp [State.devWriteMask_nil, coversUnit_nil]
  · simp [(s.devWriteMask_mem (pa := pa) hbs).2.2]

/-- Settles O8: the read after the write (`State.devWriteMask_memByte`) at a byte written, and at one that is not covered. -/
theorem memoryReadsBackWhatWasWritten : Obligations.MemoryReadsBackWhatWasWritten := by
  refine fun s pa bs hwf => ⟨fun i b hb => ?written, fun a ha => ?other, s.mem_devWriteMask_poison pa bs⟩
  case written => rw [State.devWriteMask_memByte hwf, if_pos (Nat.le_add_right pa i), Nat.add_sub_cancel_left, hb]
  case other =>
    rw [State.devWriteMask_memByte hwf]
    split
    · rename_i hle
      rw [coversAt_eq_false_iff.1 ha hle]
    · rfl

end Sys2Proof.Machine
end

section
/-! PROOFS. The state after reset, and the idle step (02, 03). -/

namespace Sys2Proof.Machine

theorem State.reset_reg (a : Nat) : State.reset.reg a = regResetOf a := rfl

theorem regResetOf_of_row {a : Nat} {l : Loc} {r : Row} {p : Nat} (hl : locate a = some l) (hr : l.row = some (r, p)) :
    regResetOf a = l.resetVal r p := by
  simp only [regResetOf, hl, hr]

/-- Settles O3: the tables of the reset state are empty, so every entry reads as its default. -/
theorem resetStateHoldsTheResetValues : Obligations.ResetStateHoldsTheResetValues := by
  refine ⟨rfl, rfl, rfl, rfl, rfl, fun c hc => ?gated, rfl, rfl, fun a l r p hl hr => ?register, fun _ => rfl, fun _ => rfl,
    fun i hi => ?measurement, rfl⟩
  case gated => rw [List.eq_of_mem_replicate hc]; rfl
  case register => rw [State.reset_reg, regResetOf_of_row hl hr]
  case measurement => exact List.getD_replicate 0 hi

theorem State.cccStep_of_idle {s : State} {n : Nat} (h : (s.cluster n).run = none) : s.cccStep n = s := by
  simp only [State.cccStep, h]

/-- Where no cluster runs a context, the CCCs only draw whether an instruction ends. -/
theorem State.cccTick_of_idle {s : State} (h : ∀ n, (s.cluster n).run = none) :
    ∃ n, s.cccTick = { s with own := { s.own with freeCtr := n } } := by
  unfold State.cccTick
  generalize List.range 16 = l
  induction l generalizing s with
  | nil => exact ⟨s.own.freeCtr, rfl⟩
  | cons m l ih =>
    have hstep : (if Config.freeBool s.own.freeCtr then s.bumpFree.cccStep m else s.bumpFree) = s.bumpFree := by
      rw [State.cccStep_of_idle (s := s.bumpFree) (h m), ite_self]
    obtain ⟨n, hn⟩ := ih (s := s.bumpFree) h
    exact ⟨n, (congrArg (List.foldl _ · l) hstep).trans hn⟩

theorem State.countCycles_of_idle {s : State} (h : ∀ n, (s.cluster n).run = none) : s.countCycles = s := by
  simp [State.countCycles, h]

theorem State.drainTrace_of_nil {s : State} (h : s.fw.trace = []) : s.drainTrace = s := by
  simp only [State.drainTrace, h]

theorem State.fireArmed_of_nil {s : State} (h : s.armedPages = []) : s.fireArmed = s := by
  simp only [State.fireArmed, h]

theorem advanceClock_gtime {c : Clocks} (h : c.slewing = false) : (advanceClock c).gtime = c.gtime + 1 := by
  simp [advanceClock, h]

theorem State.clockTick_of_off {s : State} (h : s.pw.railsUp = false ∨ s.pw.perst = true ∨ s.pw.stage = .parked) : s.clockTick = s := by
  refine if_pos ?_
  simpa [State.parked] using h

/-- One nanosecond of an idle device: its clock advances and free choices are drawn. -/
theorem State.clockTick_of_idle {s : State} (hup : s.pw.railsUp = true) (hperst : s.pw.perst = false) (hparked : s.parked = false)
    (hslew : s.ck.slewing = false) (hrun : ∀ n, (s.cluster n).run = none) (htrace : s.fw.trace = []) (harmed : s.armedPages = [])
    (hus : (s.ck.gtime + 1).toNat / 1000 = s.ck.gtime.toNat / 1000) :
    ∃ n, s.clockTick = { s with ck := advanceClock s.ck, own := { s.own with freeCtr := n } } := by
  have hon : ¬ ((!s.pw.railsUp) = true ∨ s.pw.perst = true ∨ s.parked = true) := by simp [hup, hperst, hparked]
  obtain ⟨n, hn⟩ := State.cccTick_of_idle (s := { s with ck := advanceClock s.ck }) hrun
  refine ⟨n, ?_⟩
  unfold State.clockTick
  rw [if_neg hon]
  dsimp only
  rw [State.countCycles_of_idle (s := { s with ck := advanceClock s.ck }) hrun,
    if_neg (by rw [advanceClock_gtime hslew, hus]; exact fun h => h rfl),
    State.drainTrace_of_nil (s := { s with ck := advanceClock s.ck }) htrace, hn]
  exact State.fireArmed_of_nil harmed

/-- Settles O2. -/
theorem idleStepIsOneNanosecond : Obligations.IdleStepIsOneNanosecond := by
  refine ⟨fun s hp hoff => ?off, fun s hp hup hperst hparked hslew hrun htrace harmed hus => ?idle⟩
  case off => rw [step_of_pending_nil hp, State.clockTick_of_off hoff]
  case idle =>
    obtain ⟨n, hn⟩ := State.clockTick_of_idle hup hperst hparked hslew hrun htrace harmed hus
    exact ⟨advanceClock s.ck, n, by rw [step_of_pending_nil hp, hn], advanceClock_gtime hslew, rfl, rfl⟩

end Sys2Proof.Machine
end

section
/-! PROOFS. Cold and warm resets, PERST_N (03, R88 to R94, R111, R112, R118). -/

namespace Sys2Proof.Machine

/-! ### What a reset cuts off in the stores -/

theorem State.cutFuses_eq (s : State) : s.cutFuses = { s with sec := s.cutFuses.sec, own := s.cutFuses.own } := by
  unfold State.cutFuses
  dsimp only
  split
  · split
    · rfl
    · split
      · rfl
      · split <;> rfl
  · rfl

theorem State.cutFuses_flash (s : State) : s.cutFuses.sec.flash = s.sec.flash := by
  unfold State.cutFuses
  dsimp only
  split
  · split
    · rfl
    · split
      · rfl
      · split <;> rfl
  · rfl

theorem State.cutFlash_eq (s : State) (slotB : Bool) :
    s.cutFlash slotB = { s with sec := (s.cutFlash slotB).sec, own := (s.cutFlash slotB).own } := by
  unfold State.cutFlash
  split
  · rfl
  · split <;> rfl

/-- Only a persisting firmware writes the flash, so only then can a reset spoil a slot (R289). -/
theorem State.cutFlash_of_not_persisting {s : State} (h : s.fw.st ≠ .persisting) (slotB : Bool) : s.cutFlash slotB = s := if_pos h

theorem State.cutStores_eq (s : State) : s.cutStores = { s with sec := s.cutStores.sec, own := s.cutStores.own } := by
  unfold State.cutStores
  rw [State.cutFlash_eq, State.cutFuses_eq]

theorem State.cutStores_flash {s : State} (h : s.fw.st ≠ .persisting) : s.cutStores.sec.flash = s.sec.flash := by
  have hfw : s.cutFuses.fw.st ≠ .persisting := by rw [State.cutFuses_eq]; exact h
  unfold State.cutStores
  rw [State.cutFlash_of_not_persisting hfw, State.cutFuses_flash]

/-! ### Cold resets -/

theorem State.cold_isCold (s : State) (rails : Bool) (crack : W) :
    Claims.isCold s { s.cold rails with trim := { (s.cold rails).trim with crackBase := crack, crackLast := crack } } rails crack := by
  refine ⟨?eq, s.cutStores_keeps.sec.arb, State.cutStores_flash⟩
  unfold State.cold
  rw [State.cutStores_eq]
  rfl

/-- Settles O11. -/
theorem powerLossAndPowerUpAreColdResets : Obligations.PowerLossAndPowerUpAreColdResets :=
  ⟨fun s => ⟨_, rfl, s.cold_isCold false 0⟩, fun s => ⟨_, rfl, s.cold_isCold false 0⟩,
    fun crack s => ⟨_, rfl, s.cold_isCold true crack⟩, fun _ _ => rfl⟩

/-! ### PERST_N -/

/-- A filter that tests the key alone keeps the entry of a key that passes. -/
theorem tblFind_filter_key {β : Type} {p : Nat → Bool} {a : Nat} (h : p a = true) (t : Tbl β) :
    tblFind a (t.filter fun e => p e.1) = tblFind a t := by
  induction t with
  | nil => rfl
  | cons e t ih =>
    obtain ⟨k, v⟩ := e
    by_cases hk : k = a
    · subst hk
      simp [h, tblFind]
    · rw [List.filter_cons]
      split <;> simp [tblFind, hk, ih]

theorem State.resetRange_regs_of_outside (s : State) {lo n a : Nat} (keep : Nat → Bool) (h : a < lo ∨ lo + n ≤ a) :
    tblFind a (s.resetRange lo n keep).regs = tblFind a s.regs := by
  have hout : (!(decide (lo ≤ a ∧ a < lo + n) && !keep (a - lo))) = true := by
    have : ¬ (lo ≤ a ∧ a < lo + n) := by omega
    simp [this]
  exact tblFind_filter_key (p := fun a => !(decide (lo ≤ a ∧ a < lo + n) && !keep (a - lo))) hout s.regs

theorem exec_perstNAsserted_short {us : Nat} (s : State) (h : us < 10) : exec (.perstNAsserted us) s = .next s := by
  change execPerstNAsserted us s = _
  simp [execPerstNAsserted, h]

theorem exec_perstNAsserted_long {us : Nat} {s : State} (h : 100 ≤ us) (hup : s.pw.railsUp = true) (hperst : s.pw.perst = false) :
    exec (.perstNAsserted us) s = .next (if s.pw.safe then s.linkReset else s.warm) := by
  have hlong : ¬ us < 10 := by omega
  change execPerstNAsserted us s = _
  simp [execPerstNAsserted, hup, hperst, h, hlong]

/-- A pulse between the two lengths ends as a free choice says. -/
theorem exec_perstNAsserted_between {us : Nat} {s : State} (h : 10 ≤ us) (h' : us < 100) (hup : s.pw.railsUp = true)
    (hperst : s.pw.perst = false) (hsafe : s.pw.safe = false) :
    exec (.perstNAsserted us) s = .next (if Config.freeBool s.own.freeCtr then s.bumpFree.warm else s.bumpFree) := by
  have hlong : ¬ us < 10 := by omega
  have hshort : ¬ 100 ≤ us := by omega
  change execPerstNAsserted us s = _
  simp [execPerstNAsserted, hup, hperst, hlong, hshort, State.bumpFree, hsafe]

theorem exec_perstNDeasserted {fusesOk : Bool} {board : List Byte} {s : State} (hup : s.pw.railsUp = true) (hperst : s.pw.perst = true)
    (hsafe : s.pw.safe = false) : ∃ t, exec (.perstNDeasserted true fusesOk board) s = .next t ∧
    t = { s with
          pw := { s.pw with
            perst := false, stage := if fusesOk then .fusesRead else .bootFailed, failCause := if fusesOk then s.pw.failCause else 9
            pllOn := true, bootStart := s.ck.gtime }
          sec := { s.sec with fuseOk := fusesOk, board := bytesAt board 0 256, meas := t.sec.meas } } := by
  have hgo : ¬ ((!s.pw.railsUp) = true ∨ (!s.pw.perst) = true) := by simp [hup, hperst]
  have hsafe' : ¬ s.pw.safe = true := by simp [hsafe]
  change ∃ t, execPerstNDeasserted true fusesOk board s = .next t ∧ _
  unfold execPerstNDeasserted
  rw [if_neg hgo, if_neg hsafe', if_neg (c := (!true) = true) Bool.false_ne_true]
  cases fusesOk <;> exact ⟨_, rfl, rfl⟩

/-- Settles O12. -/
theorem perstResetsByItsPulseLength : Obligations.PerstResetsByItsPulseLength := by
  refine ⟨fun us s h hup hperst hsafe => ?warm, fun us s h hup hperst hsafe => ?link, fun us s => exec_perstNAsserted_short s,
    fun us s h h' hup hperst hsafe => ?between, fun fusesOk board s => exec_perstNDeasserted,
    fun holdMet fusesOk board s hup hperst hsafe => ?safe, fun fusesOk board s hup hperst hsafe => ?early⟩
  case warm =>
    refine ⟨s.warm, by rw [exec_perstNAsserted_long h hup hperst, hsafe]; rfl, ?_, s.cutStores_keeps.sec.arb⟩
    unfold State.warm
    rw [State.cutStores_eq]
    rfl
  case link =>
    refine ⟨s.linkReset, by rw [exec_perstNAsserted_long h hup hperst, hsafe]; rfl, rfl, rfl, rfl, rfl, rfl, rfl, rfl, rfl, rfl,
      fun _ => rfl, fun a ha => ?_⟩
    exact State.resetRange_regs_of_outside _ _ ha
  case between =>
    rw [exec_perstNAsserted_between h h' hup hperst hsafe]
    cases Config.freeBool s.own.freeCtr with
    | true => exact .inr rfl
    | false => exact .inl rfl
  case safe =>
    change execPerstNDeasserted holdMet fusesOk board s = _
    simp [execPerstNDeasserted, hup, hperst, hsafe]
  case early =>
    change execPerstNDeasserted false fusesOk board s = _
    simp [execPerstNDeasserted, hup, hperst, hsafe]

end Sys2Proof.Machine
end

section
/-! PROOFS. What interrupts, faults and host-bound messages reach: the frames that later proofs cite (02, 04, 17). -/

namespace Sys2Proof.Machine

/-! ### Bits -/

theorem bitOf_eq_testBit (x i : Nat) : bitOf x i = x.testBit i := by
  simp [bitOf, Nat.testBit_eq_decide_div_mod_eq, beq_eq_decide]

theorem bitOf_or (x y : W) (i : Nat) : bitOf (x ||| y).toNat i = (bitOf x.toNat i || bitOf y.toNat i) := by
  simp [bitOf_eq_testBit]

theorem bitOf_two_pow {i : Nat} (h : i < 32) : bitOf (BitVec.ofNat 32 (2 ^ i)).toNat i = true := by
  have hlt : 2 ^ i < 2 ^ 32 := Nat.pow_lt_pow_right (by omega) h
  rw [bitOf_eq_testBit, BitVec.toNat_ofNat, Nat.mod_eq_of_lt hlt, Nat.testBit_two_pow_self]

/-! ### The host side of the state: the link, page marks, free values -/

/-- Between `s` and `t` only the host-bound stream, the translations held for it, the page marks of sessions and the model's own fields may
differ. -/
def HostSide (s t : State) : Prop :=
  t = { s with
    pcie := { s.pcie with txq := t.pcie.txq, held := t.pcie.held, sent := t.pcie.sent, pba := t.pcie.pba, ats := t.pcie.ats }
    sess := t.sess, own := t.own }

theorem HostSide.refl (s : State) : HostSide s s := rfl

theorem HostSide.trans {s t u : State} (h : HostSide s t) (k : HostSide t u) : HostSide s u := by
  unfold HostSide at h k ⊢
  rw [k, h]

theorem HostSide.foldl {α : Type} {f : State → α → State} (hf : ∀ a x, HostSide a (f a x)) (l : List α) (s : State) :
    HostSide s (l.foldl f s) := by
  induction l generalizing s with
  | nil => exact .refl s
  | cons x l ih => exact (hf s x).trans (ih (f s x))

theorem State.atsUse_hostSide (s : State) (k a : Nat) : HostSide s (s.atsUse k a) := by
  unfold State.atsUse
  split <;> exact rfl

theorem State.atsMsg_hostSide (s : State) (m : HostMsg) : HostSide s (s.atsMsg m) := by
  unfold State.atsMsg
  split
  · exact State.atsUse_hostSide ..
  · exact .refl s

theorem State.markMsg_hostSide (s : State) (m : HostMsg) : HostSide s (s.markMsg m) := by
  unfold State.markMsg
  split <;> exact rfl

theorem State.issueHost_hostSide (s : State) (m : HostMsg) : HostSide s (s.issueHost m) := by
  have hsend (l l' : List HostMsg) : HostSide s
      ((({ s with pcie := { s.pcie with txq := l, sent := l' } } : State).atsMsg m).markMsg m) :=
    HostSide.trans (t := { s with pcie := { s.pcie with txq := l, sent := l' } }) rfl
      ((State.atsMsg_hostSide ..).trans (State.markMsg_hostSide ..))
  unfold State.issueHost
  split
  · exact .refl s
  · split
    · exact rfl
    · split
      · exact hsend _ _
      · exact rfl
    · exact hsend _ _

theorem State.issueWrite_hostSide (s : State) (k a : Nat) (d : List Byte) (marks : Bool) (copy : Nat) :
    HostSide s (s.issueWrite k a d marks copy) :=
  HostSide.foldl (fun _ _ => State.issueHost_hostSide ..) _ s

theorem State.hostWrite_hostSide (s : State) (k a : Nat) (d : List Byte) (marks : Bool) : HostSide s (s.hostWrite k a d marks) :=
  State.issueWrite_hostSide ..

theorem State.msixEvent_hostSide (s : State) (k v : Nat) : HostSide s (s.msixEvent k v) := by
  unfold State.msixEvent
  split
  · exact rfl
  · exact State.issueHost_hostSide ..

theorem State.msixRelease_hostSide (s : State) (k : Nat) : HostSide s (s.msixRelease k) := by
  refine HostSide.foldl (fun a v => ?_) _ s
  dsimp only
  split
  · exact HostSide.trans (t := { a with pcie := { a.pcie with pba := a.pcie.pba.filter (· != k * 16 + v) } }) rfl
      (State.issueHost_hostSide ..)
  · exact .refl a

theorem State.intEdge_hostSide (s : State) (base before : Nat) : HostSide s (s.intEdge base before) := by
  unfold State.intEdge
  dsimp only
  split
  · exact .refl s
  · split
    · exact State.msixEvent_hostSide ..
    · exact .refl s

/-- Causes set the bits of the page's status register; the event they raise stays on the host side. -/
theorem State.causes_hostSide (s : State) (base bits : Nat) :
    HostSide (s.setReg (base + 0x10) (s.reg (base + 0x10) ||| BitVec.ofNat 32 bits)) (s.causes base bits) :=
  State.intEdge_hostSide ..

theorem HostSide.reg {s t : State} (h : HostSide s t) (a : Nat) : t.reg a = s.reg a := (congrArg (State.reg · a) h).trans rfl

/-- A register after causes were set: the status register has their bits. -/
theorem State.causes_reg (s : State) (base bits a : Nat) :
    (s.causes base bits).reg a = if a = base + 0x10 then s.reg (base + 0x10) ||| BitVec.ofNat 32 bits else s.reg a := by
  rw [(s.causes_hostSide base bits).reg, State.setReg_reg]

theorem State.cause_reg (s : State) (base bit a : Nat) :
    (s.cause base bit).reg a = if a = base + 0x10 then s.reg (base + 0x10) ||| BitVec.ofNat 32 (2 ^ bit) else s.reg a :=
  State.causes_reg ..

theorem State.cause_reg_of_ne (s : State) {base a : Nat} (bit : Nat) (h : a ≠ base + 0x10) : (s.cause base bit).reg a = s.reg a := by
  rw [State.cause_reg, if_neg h]

theorem State.cause_sets (s : State) (base : Nat) {bit : Nat} (h : bit < 32) :
    bitOf ((s.cause base bit).reg (base + 0x10)).toNat bit = true := by
  rw [State.cause_reg, if_pos rfl, bitOf_or, bitOf_two_pow h, Bool.or_true]

/-! ### Stored registers -/

/-- Between `s` and `t` only stored registers may differ. -/
def RegsOnly (s t : State) : Prop := t = { s with regs := t.regs }

theorem RegsOnly.refl (s : State) : RegsOnly s s := rfl

theorem RegsOnly.trans {s t u : State} (h : RegsOnly s t) (k : RegsOnly t u) : RegsOnly s u := by
  unfold RegsOnly at h k ⊢
  rw [k, h]

theorem State.setReg_regsOnly (s : State) (a : Nat) (v : W) : RegsOnly s (s.setReg a v) := rfl

theorem State.setRegs_regsOnly (s : State) (a : Nat) (l : List W) : RegsOnly s (s.setRegs a l) := by
  induction l generalizing s a with
  | nil => exact .refl s
  | cons w l ih => exact (s.setReg_regsOnly a w).trans (ih ..)

/-! ### Signals: registers, faults in the collector's input queue, the host side -/

/-- Between `s` and `t` only stored registers, the fault collector, the host-bound stream, page marks and the model's own fields may
differ: what interrupts, faults, counters and host-bound messages reach. -/
def Signals (s t : State) : Prop :=
  t = { s with
    regs := t.regs, fcol := t.fcol
    pcie := { s.pcie with txq := t.pcie.txq, held := t.pcie.held, sent := t.pcie.sent, pba := t.pcie.pba, ats := t.pcie.ats }
    sess := t.sess, own := t.own }

theorem Signals.refl (s : State) : Signals s s := rfl

theorem Signals.trans {s t u : State} (h : Signals s t) (k : Signals t u) : Signals s u := by
  unfold Signals at h k ⊢
  rw [k, h]

/-- The last operation of a chain first, as its text reads from the outside. -/
theorem Signals.of {s t u : State} (k : Signals t u) (h : Signals s t) : Signals s u := h.trans k

theorem HostSide.signals {s t : State} (h : HostSide s t) : Signals s t := by
  unfold Signals
  rw [h]

theorem Signals.ite {s a b : State} {c : Prop} [Decidable c] (h : Signals s a) (k : Signals s b) : Signals s (if c then a else b) := by
  split
  · exact h
  · exact k

theorem Signals.foldl {α : Type} {f : State → α → State} (hf : ∀ a x, Signals a (f a x)) (l : List α) (s : State) :
    Signals s (l.foldl f s) := by
  induction l generalizing s with
  | nil => exact .refl s
  | cons x l ih => exact (hf s x).trans (ih (f s x))

section
variable {s t : State} (h : Signals s t)
include h
theorem Signals.pw : t.pw = s.pw := (congrArg State.pw h).trans rfl
theorem Signals.ck : t.ck = s.ck := (congrArg State.ck h).trans rfl
theorem Signals.sec : t.sec = s.sec := (congrArg State.sec h).trans rfl
theorem Signals.fw : t.fw = s.fw := (congrArg State.fw h).trans rfl
theorem Signals.brn : t.brn = s.brn := (congrArg State.brn h).trans rfl
theorem Signals.insts : t.insts = s.insts := (congrArg State.insts h).trans rfl
theorem Signals.slots : t.slots = s.slots := (congrArg State.slots h).trans rfl
theorem Signals.queues : t.queues = s.queues := (congrArg State.queues h).trans rfl
theorem Signals.cmds : t.cmds = s.cmds := (congrArg State.cmds h).trans rfl
theorem Signals.movers : t.movers = s.movers := (congrArg State.movers h).trans rfl
theorem Signals.launches : t.launches = s.launches := (congrArg State.launches h).trans rfl
theorem Signals.ctxs : t.ctxs = s.ctxs := (congrArg State.ctxs h).trans rfl
theorem Signals.disp : t.disp = s.disp := (congrArg State.disp h).trans rfl
theorem Signals.trim : t.trim = s.trim := (congrArg State.trim h).trans rfl
theorem Signals.sync : t.sync = s.sync := (congrArg State.sync h).trans rfl
theorem Signals.poison : t.poison = s.poison := (congrArg State.poison h).trans rfl
theorem Signals.memByte (a : Nat) : t.memByte a = s.memByte a := (congrArg (State.memByte · a) h).trans rfl
theorem Signals.sameMem : Claims.SameMem s t := fun a => h.memByte a
theorem Signals.inst (k : Nat) : t.inst k = s.inst k := (congrArg (State.inst · k) h).trans rfl
theorem Signals.queue (k : Nat) : t.queue k = s.queue k := (congrArg (State.queue · k) h).trans rfl
theorem Signals.slot (k : Nat) : t.slot k = s.slot k := (congrArg (State.slot · k) h).trans rfl
theorem Signals.head (k : Nat) : t.head k = s.head k := (congrArg (State.head · k) h).trans rfl
theorem Signals.port (k : Nat) : t.port k = s.port k := (congrArg (State.port · k) h).trans rfl
theorem Signals.fn (k : Nat) : t.fn k = s.fn k := (congrArg (State.fn · k) h).trans rfl
theorem Signals.linkUp : t.pcie.linkUp = s.pcie.linkUp := (congrArg (·.pcie.linkUp) h).trans rfl
theorem Signals.stall : t.pcie.stall = s.pcie.stall := (congrArg (·.pcie.stall) h).trans rfl
theorem Signals.ringsOf (k : Nat) : t.ringsOf k = s.ringsOf k := (congrArg (State.ringsOf · k) h).trans rfl
end

theorem State.setReg_signals (s : State) (a : Nat) (v : W) : Signals s (s.setReg a v) := rfl

theorem State.count_signals (s : State) (a : Nat) : Signals s (s.count a) := rfl

theorem State.countField_signals (s : State) (a lo n k : Nat) : Signals s (s.countField a lo n k) := rfl

theorem State.bumpFree_signals (s : State) : Signals s s.bumpFree := rfl

theorem State.captureAt_signals (s : State) (a v ovr : Nat) : Signals s (s.captureAt a v ovr).2 := by
  unfold State.captureAt
  split <;> rfl

theorem State.capture31_signals (s : State) (a v : Nat) : Signals s (s.capture31 a v) := State.captureAt_signals ..

theorem State.causes_signals (s : State) (base bits : Nat) : Signals s (s.causes base bits) :=
  (State.setReg_signals ..).trans (s.causes_hostSide base bits).signals

theorem State.cause_signals (s : State) (base bit : Nat) : Signals s (s.cause base bit) := State.causes_signals ..

theorem State.msixEvent_signals (s : State) (k v : Nat) : Signals s (s.msixEvent k v) := (State.msixEvent_hostSide ..).signals

theorem State.dropFault_signals (s : State) : Signals s s.dropFault := (State.cause_signals ..).of (State.count_signals ..)

theorem State.enqueueFault_signals (s : State) (f : FaultIn) : Signals s (s.enqueueFault f) := by
  unfold State.enqueueFault
  extract_lets z q put
  have hz : Signals s z := State.count_signals ..
  clear_value z
  have hdrop : Signals s z.dropFault := hz.trans (State.dropFault_signals ..)
  have hput (l : List FaultIn) {u : State} (hu : Signals s u) : Signals s (put l u) := hu.trans rfl
  exact .ite (hput _ hz) (.ite (.ite (hput _ hz) hdrop) (.ite (hput _ hz) (.ite (hput _ (hz.trans (State.count_signals ..)))
    (hput _ hdrop))))

theorem State.raiseAs_signals (s : State) (code cls : Nat) (lvl : Level) (o : Owner) (hwq : Option Nat) (base chk detail : Nat)
    (scrub injected onFaulted : Bool) : Signals s (s.raiseAs code cls lvl o hwq base chk detail scrub injected onFaulted) :=
  State.enqueueFault_signals ..

theorem State.raise_signals (s : State) (code : Nat) (o : Owner) (hwq : Option Nat) (base detail : Nat) :
    Signals s (s.raise code o hwq base detail) := State.raiseAs_signals ..

/-- A device-fatal fault bypasses the limits of the collector's input queue (R751). -/
theorem State.enqueueFault_mem_of_fatal (s : State) {f : FaultIn} (h : f.cls = 3) : f ∈ (s.enqueueFault f).fcol.inq := by
  unfold State.enqueueFault
  simp [h]

end Sys2Proof.Machine
end

section
/-! PROOFS. The boot, the loss of the clocks and of the link (03, 05). -/

namespace Sys2Proof.Machine

/-! ### The stages of the boot -/

theorem State.setRng_of_ne {s : State} {st : Nat} (h : s.sec.rng ≠ st) :
    s.setRng st = State.cause { s with sec := { s.sec with rng := st } } 0x6000 9 := if_neg h

theorem State.deriveKey_eq {s : State} (h : s.sec.rng = 2) :
    s.deriveKey = { s with sec := { s.sec with attestKey := s.sec.attestKey || bitOf (s.reg 0x4100).toNat 0 } } := by
  unfold State.deriveKey
  cases hb : bitOf (s.reg 0x4100).toNat 0 with
  | true => rw [if_pos ⟨h, rfl⟩, Bool.or_true]
  | false => rw [if_neg (fun hc => Bool.false_ne_true hc.2), Bool.or_false]

theorem State.deriveKey_attestKey {s : State} (h : s.sec.rng = 2) (hlock : bitOf (s.reg 0x4100).toNat 0 = true) :
    s.deriveKey.sec.attestKey = true := by
  simp [State.deriveKey_eq h, hlock]

theorem State.deriveKey_eq_sec (s : State) : s.deriveKey = { s with sec := s.deriveKey.sec } := by
  unfold State.deriveKey
  split <;> rfl

theorem State.deriveKey_pw (s : State) : s.deriveKey.pw = s.pw := by rw [State.deriveKey_eq_sec]
theorem State.deriveKey_ck (s : State) : s.deriveKey.ck = s.ck := by rw [State.deriveKey_eq_sec]
theorem State.deriveKey_insts (s : State) : s.deriveKey.insts = s.insts := by rw [State.deriveKey_eq_sec]
theorem State.deriveKey_queues (s : State) : s.deriveKey.queues = s.queues := by rw [State.deriveKey_eq_sec]
theorem State.deriveKey_reg (s : State) (a : Nat) : s.deriveKey.reg a = s.reg a := by
  rw [State.deriveKey_eq_sec]
  rfl

/-- The step of the boot that the start-up test of the random number generator ends (R222, R225). -/
theorem exec_trngReady {s : State} (hlock : s.pw.pllLock = true) (hrng : s.sec.rng = 1) : ∃ t, exec .trngReady s = .next t ∧
    t.pw = { s.pw with trngReady := true } ∧
    t.sec = { s.sec with rng := 2, drbgCount := 0, rngRerun := false, attestKey := s.sec.attestKey || bitOf (t.reg 0x4100).toNat 0 } ∧
    bitOf (t.reg 0x6010).toNat 9 = true ∧ Claims.SameMem s t := by
  have hgo : ¬ ((!s.pw.pllLock) = true ∨ s.sec.rng ≠ 1) := by simp [hlock, hrng]
  have hne : s.sec.rng ≠ 2 := by omega
  let u : State := { s with pw := { s.pw with trngReady := true }, sec := { s.sec with drbgCount := 0, rngRerun := false } }
  let v : State := State.cause { u with sec := { u.sec with rng := 2 } } 0x6000 9
  have hv : v.sec = { u.sec with rng := 2 } := (State.cause_signals ..).sec
  have hkey := State.deriveKey_eq (s := v) (by rw [hv])
  have hexec : exec .trngReady s = .next v.deriveKey := by
    change execTrngReady s = _
    rw [execTrngReady, if_neg hgo, State.setRng_of_ne (s := u) hne]
  refine ⟨v.deriveKey, hexec, ?pw, ?sec, ?status, ?mem⟩ <;> rw [hkey]
  case pw => exact (State.cause_signals ..).pw
  case sec => dsimp only; rw [hv]; rfl
  case status => exact State.cause_sets _ 0x6000 (by omega)
  case mem => exact (State.cause_signals { u with sec := { u.sec with rng := 2 } } 0x6000 9).sameMem

/-- The first image that passes its checks is run: the preferred slot's. -/
theorem exec_imageVerify_some (given : Flash) {s : State} (hst : s.pw.stage = .hbmReady) : ∃ t f i b,
    exec (.imageVerify (some given)) s = .next t ∧ f = s.sec.flash.getD given ∧ (b = true ↔ prefersB f = true) ∧
    i = (if b then f.slotB else f.slotA) ∧ (imageCause s.sec i = 0 → t = { s with
      pw := { s.pw with stage := .imageVerified }
      sec := { s.sec with meas := t.sec.meas, flash := some f, image := some i, slotB := b, svn := i.svn } }) := by
  have hgo : ¬ s.pw.stage ≠ .hbmReady := not_not.2 hst
  refine ⟨_, s.sec.flash.getD given, if prefersB (s.sec.flash.getD given) then (s.sec.flash.getD given).slotB
    else (s.sec.flash.getD given).slotA, prefersB (s.sec.flash.getD given), rfl, rfl, Iff.rfl, rfl, fun h => ?_⟩
  rw [if_neg hgo]
  dsimp only
  rw [if_pos (by exact h)]
  rfl

theorem exec_imageVerify_none {s : State} (hst : s.pw.stage = .hbmReady) : ∃ t, exec (.imageVerify none) s = .next t ∧ t = { s with
    pw := { s.pw with stage := .bootFailed, failCause := 1 }
    sec := { s.sec with meas := t.sec.meas, firstFail := 1, fallback := true } } := by
  have hgo : ¬ s.pw.stage ≠ .hbmReady := not_not.2 hst
  refine ⟨_, rfl, ?_⟩
  rw [if_neg hgo]
  rfl

theorem State.setRegs_reg_of_lt (s : State) {a b : Nat} (l : List W) (h : b < a) : (s.setRegs a l).reg b = s.reg b := by
  induction l generalizing s a with
  | nil => rfl
  | cons w l ih =>
    have hb : b ≠ a := by omega
    rw [State.setRegs, ih _ (by omega), State.setReg_reg, if_neg hb]

theorem State.forget_eq (s : State) (ns : List Nat) :
    s.forget ns = { s with mem := (s.forget ns).mem, vague := (s.forget ns).vague, own := (s.forget ns).own } := by
  unfold State.forget
  dsimp only
  split <;> rfl

theorem State.extend_eq (s : State) (i : Nat) (c : List Byte) :
    s.extend i c = { s with sec := { s.sec with meas := (s.extend i c).sec.meas } } := rfl

/-- The words of the ACT as an image gives them. -/
def actWords (i : Image) : List W := (List.range 64).map fun j => BitVec.ofNat 32 (if j < 48 then (i.act.getD j 0).toNat else 0)

/-- The protection setup as it stands before it is measured: carve-outs, tenant pool, ACT, core windows and the lock (R195 to R197). -/
def State.protSetup (s : State) (i : Image) : State :=
  (((((s.setReg 0x4110 (BitVec.ofNat 32 ((383 - i.fwCarve) + 2 ^ 16 * i.fwCarve))).setReg 0x4114 (BitVec.ofNat 32 (383 + 2 ^ 16))).setReg 0x4118
    (BitVec.ofNat 32 (2 ^ 16 * ((383 - i.fwCarve) - 1)))).setRegs 0x4200 (actWords i)).setRegs 0x4300 (winWords i.windows)).setReg 0x4100 1

/-- The protection setup written and measured; the contents of the carve-outs are the firmware's own. -/
def State.protDone (s : State) (i : Image) : State :=
  (((s.protSetup i).extend 5 (wordsBytes ([(s.protSetup i).reg 0x4110, (s.protSetup i).reg 0x4114, (s.protSetup i).reg 0x4118] ++
    actWords i ++ winWords i.windows))).extend 6 [0]).forget ((List.range i.fwCarve).map fun j => (383 - i.fwCarve) + j)

theorem State.protSetup_reg (s : State) (i : Image) : (s.protSetup i).reg 0x4100 = 1 ∧ (s.protSetup i).reg 0x4114 = 0x1017F := by
  unfold State.protSetup
  constructor
  · simp
  · rw [State.setReg_reg, if_neg (by omega), State.setRegs_reg_of_lt _ _ (by omega), State.setRegs_reg_of_lt _ _ (by omega)]
    simp

theorem exec_protSetupLock {i : Image} {s : State} (hst : s.pw.stage = .imageVerified) (him : s.sec.image = some i) :
    exec .protSetupLock s =
      .next (State.deriveKey { s.protDone i with pw := { (s.protDone i).pw with stage := .protLocked } }) := by
  change execProtSetupLock s = _
  unfold execProtSetupLock
  rw [hst, him]
  rfl

theorem State.protSetup_regsOnly (s : State) (i : Image) : RegsOnly s (s.protSetup i) :=
  ((((State.setReg_regsOnly ..).trans (State.setReg_regsOnly ..)).trans (State.setReg_regsOnly ..)).trans
    (State.setRegs_regsOnly ..)).trans (State.setRegs_regsOnly ..) |>.trans (State.setReg_regsOnly ..)

theorem State.protDone_eq (s : State) (i : Image) : s.protDone i = { s with
    regs := (s.protSetup i).regs, sec := { s.sec with meas := (s.protDone i).sec.meas }, mem := (s.protDone i).mem
    vague := (s.protDone i).vague, own := (s.protDone i).own } := by
  have hp : s.protSetup i = _ := s.protSetup_regsOnly i
  unfold State.protDone
  generalize wordsBytes _ = c
  generalize (s.protSetup i).regs = r at hp ⊢
  rw [hp, State.forget_eq]
  rfl

/-- Settles O13: each stage from the one before it. -/
theorem bootStagesAdvanceInOrder : Obligations.BootStagesAdvanceInOrder := by
  refine ⟨fun s hpll hlock href hsafe => ?pll, fun s => exec_trngReady, fun s hperst hpll => ?config, fun n s hst => ?hbm,
    fun given s => exec_imageVerify_some given, fun s => exec_imageVerify_none, fun i s hst him => ?prot, fun i s hst him => ?fw,
    fun s hst => ?briane⟩
  case pll => exact congrArg Host.Outcome.next (if_neg (by simp [hpll, hlock, href, hsafe]))
  case config => exact congrArg Host.Outcome.next (if_neg (by simp [hperst, hpll]))
  case hbm =>
    refine congrArg Host.Outcome.next ((if_neg (not_not.2 hst)).trans ?_)
    rfl
  case prot =>
    let t : State := { s.protDone i with pw := { (s.protDone i).pw with stage := .protLocked } }
    have hdone := s.protDone_eq i
    have hreg (a : Nat) : t.reg a = (s.protSetup i).reg a := (congrArg (State.reg · a) hdone :)
    have hrng : t.sec.rng = s.sec.rng := (congrArg (·.sec.rng) hdone :)
    have hlock : bitOf (t.reg 0x4100).toNat 0 = true := by rw [hreg, (s.protSetup_reg i).1]; rfl
    refine ⟨t.deriveKey, exec_protSetupLock hst him, ?_, ?_, ?_, fun h => State.deriveKey_attestKey (hrng.trans h) hlock, ?_, ?_, ?_⟩
    · rw [State.deriveKey_pw]
      exact congrArg (fun u : State => { u.pw with stage := .protLocked }) hdone
    · rw [State.deriveKey_reg, hreg, (s.protSetup_reg i).1]
    · rw [State.deriveKey_reg, hreg, (s.protSetup_reg i).2]
    · rw [State.deriveKey_queues]
      exact (congrArg State.queues hdone :)
    · rw [State.deriveKey_insts]
      exact (congrArg State.insts hdone :)
    · rw [State.deriveKey_ck]
      exact (congrArg State.ck hdone :)
  case fw =>
    have hexec : exec .fwStarting s = execFwStarting s := rfl
    rw [hexec]
    unfold execFwStarting
    rw [hst, him]
    exact ⟨_, rfl, rfl, rfl, rfl, rfl, fun _ => rfl⟩
  case briane => exact congrArg Host.Outcome.next (if_neg (not_not.2 hst))

end Sys2Proof.Machine
end

section
/-! PROOFS. The loss of a clock and of the link (03, R104, R105, R128, R129). -/

namespace Sys2Proof.Machine

theorem State.raise_mem_inq_of_fatal (s : State) {code : Nat} (hc : codeClass code = (3, .l4)) (o : Owner) (hwq : Option Nat)
    (base detail : Nat) : ∃ f ∈ (s.raise code o hwq base detail).fcol.inq, f.code = code ∧ f.cls = 3 ∧ f.level = .l4 := by
  unfold State.raise State.raiseAs
  rw [hc]
  exact ⟨_, State.enqueueFault_mem_of_fatal s rfl, rfl, rfl, rfl⟩

/-- Settles O14. -/
theorem clockLossSwitchesSclkAndRaisesAFault : Obligations.ClockLossSwitchesSclkAndRaisesAFault := by
  refine ⟨fun s hup href => ?reference, fun s href hlock => ?pll⟩
  case reference =>
    let lock := Config.freeBool s.own.freeCtr
    let u : State := { s.bumpFree with pw := { s.pw with refclk := false, sclk := 2, pllLock := s.pw.pllLock && lock } }
    have hexec : exec .refclkLoss s = .next ((u.countField 0x110C 8 8 1).raise 0x0B05 .device none 0x1000 0) :=
      congrArg Host.Outcome.next (if_neg (by simp [hup, href]))
    have hs : Signals u ((u.countField 0x110C 8 8 1).raise 0x0B05 .device none 0x1000 0) :=
      (State.raise_signals ..).of (State.countField_signals ..)
    exact ⟨_, lock, hexec, hs.pw, State.raise_mem_inq_of_fatal _ rfl .device none 0x1000 0, hs.sec, hs.ck, hs.sameMem⟩
  case pll =>
    let u : State := { s with pw := { s.pw with pllLock := false, sclk := 0 } }
    have hexec : exec .pllUnlock s = .next ((u.countField 0x110C 0 8 1).raise 0x0B06 .device none 0x1000 0) :=
      congrArg Host.Outcome.next (if_neg (by simp [href, hlock]))
    have hs : Signals u ((u.countField 0x110C 0 8 1).raise 0x0B06 .device none 0x1000 0) :=
      (State.raise_signals ..).of (State.countField_signals ..)
    exact ⟨_, hexec, hs.pw, State.raise_mem_inq_of_fatal _ rfl .device none 0x1000 0, hs.sec, hs.ck, hs.sameMem⟩

/-! ### L3 recovery and the link -/

/-- What an L3 recovery of a ready device makes of its core: the reset's stage and cause, and a fresh random number generator. -/
theorem State.l3Start_core (s : State) (cause : ResetLast) (hsafe : s.pw.safe = false) (hst : s.pw.stage = .ready) :
    SameCore { s with
      pw := { s.pw with last := cause, stage := .l3Recovery, l3 := true, l3Count := min (s.pw.l3Count + 1) 0xFFFFFFFF, removing := false }
      sec := { s.sec with drbgCount := 0 } } (s.l3Start cause) := by
  have hgo : ¬ (s.pw.safe = true ∨ s.pw.stage ≠ .ready) := by simp [hsafe, hst]
  generalize hu : { s with
      pw := { s.pw with last := cause, stage := .l3Recovery, l3 := true, l3Count := min (s.pw.l3Count + 1) 0xFFFFFFFF, removing := false }
      sec := { s.sec with drbgCount := 0 } } = u
  unfold State.l3Start
  rw [if_neg hgo]
  extract_lets power a b link c d sec fw e
  have hcd : SameCore a d :=
    (State.cutAll_same a).trans (SameCore.trans (t := c) ⟨rfl, rfl, rfl, rfl, rfl, rfl, rfl, rfl⟩
      (((State.holdStart_same ..).trans (State.holdStart_same ..)).trans (State.resetAll_same ..)))
  clear_value d
  refine SameCore.trans (t := e) ?_ (State.setFw_same ..)
  subst hu
  exact ⟨hcd.pw, hcd.gtime, hcd.vcore, congrArg (fun c : Sec => { c with drbgCount := 0 }) hcd.sec, hcd.trim, hcd.link, hcd.vfs⟩

/-- The loss of the link brings the controller to its reset state and reaches nothing else of the core. -/
theorem State.linkDrop_core (s : State) : SameCore { s with pcie := pcieReset } s.linkDrop := by
  have hcut := State.cutAll_same s
  unfold State.linkDrop
  extract_lets a link b
  refine SameCore.trans (t := b) ?_ ((State.countField_same ..).trans (State.cause_same ..))
  exact ⟨hcut.pw, hcut.gtime, hcut.vcore, hcut.sec, hcut.trim, rfl, rfl, rfl⟩

theorem State.linkLoss_core (s : State) : SameCore (s.linkDrop.l3Start .linkLoss) s.linkLoss := State.raiseAs_same ..

/-- What a link that goes down, or a Hot Reset, leaves of a ready device's core. -/
theorem State.linkDrop_l3Start {s : State} (cause : ResetLast) (hsafe : s.pw.safe = false) (hst : s.pw.stage = .ready) :
    (s.linkDrop.l3Start cause).pcie.linkUp = false ∧ (s.linkDrop.l3Start cause).pcie.vfEn = false ∧
    (s.linkDrop.l3Start cause).pw.stage = .l3Recovery ∧ (s.linkDrop.l3Start cause).pw.last = cause ∧
    (s.linkDrop.l3Start cause).sec.arb = s.sec.arb ∧ (s.linkDrop.l3Start cause).ck.gtime = s.ck.gtime := by
  have hd := s.linkDrop_core
  have hl := s.linkDrop.l3Start_core cause (by rw [hd.pw]; exact hsafe) (by rw [hd.pw]; exact hst)
  exact ⟨hl.link.trans hd.link, hl.vfs.1.trans hd.vfs.1, congrArg Power.stage hl.pw, congrArg Power.last hl.pw,
    (congrArg Sec.arb hl.sec :).trans (congrArg Sec.arb hd.sec :), hl.gtime.trans hd.gtime⟩

/-- Settles O15: a loss of the link and a Hot Reset are `State.linkDrop_l3Start`; the loss also raises its fault. -/
theorem linkEventsResetTheLinkSide : Obligations.LinkEventsResetTheLinkSide := by
  refine ⟨fun s hl hsafe hst => ?down, fun s hl hsafe hst => ?hot, fun rate width flit s hl hperst hpll hr hw => ?up⟩
  case down =>
    obtain ⟨hlink, hvf, hstage, hlast, harb, hgtime⟩ := State.linkDrop_l3Start .linkLoss hsafe hst
    have hc := s.linkLoss_core
    refine ⟨s.linkLoss, congrArg Host.Outcome.next (if_pos hl), hc.link.trans hlink, hc.vfs.1.trans hvf, ?_, ?_, ?_,
      hc.gtime.trans hgtime⟩
    · rw [hc.pw, hstage]
    · rw [hc.pw, hlast]
    · rw [hc.sec, harb]
  case hot => exact ⟨_, congrArg Host.Outcome.next (if_pos hl), State.linkDrop_l3Start .hotReset hsafe hst⟩
  case up =>
    have hrate : ¬ 5 < rate := by omega
    exact congrArg Host.Outcome.next (if_neg (by simpa [hl, hperst, hpll, hrate, imp_iff_not_or] using hw))

end Sys2Proof.Machine
end

section
/-! PROOFS. Configuration requests, BAR 2, host reads (04). -/

namespace Sys2Proof.Machine

theorem State.fnSeen_of_or {s : State} {k : Nat} (h : k = 0 ∨ s.vfSeen k = true) : s.fnSeen k = true := by
  simpa [State.fnSeen] using h

/-- A function that exists, on a link that is up, of a device that is not parked, gets the host's commands. -/
theorem State.not_unseen_or_parked {s : State} {k : Nat} (hl : s.pcie.linkUp = true) (hk : k = 0 ∨ s.vfSeen k = true)
    (hp : s.pw.stage ≠ .parked) : ¬ ((!s.pcie.linkUp) = true ∨ (!s.fnSeen k) = true ∨ s.parked = true) := by
  simp [hl, State.fnSeen_of_or hk, State.parked_eq_false hp]

/-! ### Configuration requests (R107, R135, R138, R139) -/

section
variable {k : Nat} {s : State} (reg : CfgReg) (w : Option Nat) (prog : List (Nat × Nat))

theorem exec_pcieConfigRequest_of_not_ready (hl : s.pcie.linkUp = true) (hc : s.pw.configReady = false) :
    exec (.pcieConfigRequest k reg w prog) s = .next (s.answer [] 2) := by
  change execPcieConfigRequest k reg w prog s = _
  simp [execPcieConfigRequest, hl, hc]

theorem exec_pcieConfigRequest_of_unseen (hl : s.pcie.linkUp = true) (hc : s.pw.configReady = true) (hk : s.fnSeen k = false) :
    exec (.pcieConfigRequest k reg w prog) s = .next (s.answer [] 1) := by
  change execPcieConfigRequest k reg w prog s = _
  simp [execPcieConfigRequest, hl, hc, hk]

theorem exec_pcieConfigRequest_of_retry (hl : s.pcie.linkUp = true) (hc : s.pw.configReady = true) (hk : s.fnSeen k = true)
    (hr : s.cfgRetry k = true) : exec (.pcieConfigRequest k reg w prog) s = .next (s.answer [] 2) := by
  change execPcieConfigRequest k reg w prog s = _
  simp [execPcieConfigRequest, hl, hc, hk, hr]

theorem exec_pcieConfigRequest_write (v : Nat) (hl : s.pcie.linkUp = true) (hc : s.pw.configReady = true) (hk : s.fnSeen k = true)
    (hr : s.cfgRetry k = false) (hp : s.pw.stage ≠ .parked) :
    exec (.pcieConfigRequest k reg (some v) prog) s = .next ((s.cfgWrite k reg v prog).answer [] 0) := by
  change execPcieConfigRequest k reg (some v) prog s = _
  simp [execPcieConfigRequest, hl, hc, hk, hr, State.parked_eq_false hp]

end

/-- Settles O17. -/
theorem configurationRequestsAnswerByReadiness : Obligations.ConfigurationRequestsAnswerByReadiness := by
  refine ⟨fun k reg w prog s hl hc => exec_pcieConfigRequest_of_not_ready reg w prog hl hc, fun k reg w prog s hl hc hk hv => ?unseen,
    fun k reg w prog s hl hc hk hr => ?retry, fun k prog s hl hc hk h3 h0 hf => ?served⟩
  case unseen => exact exec_pcieConfigRequest_of_unseen reg w prog hl hc (by simp [State.fnSeen, hk, hv])
  case retry =>
    exact exec_pcieConfigRequest_of_retry reg w prog hl hc (State.fnSeen_of_or hk) (by simpa [State.cfgRetry, hc, or_assoc] using hr)
  case served =>
    have hseen := State.fnSeen_of_or hk
    have hretry := State.cfgRetry_eq_false hc h3 h0 hf
    have hread := exec_pcieConfigRequest_read hl hc hseen hretry
    refine ⟨(hread .classCode prog).trans (congrArg (fun d => Host.Outcome.next (s.answer d 0)) ?_), ?_, ?_, fun hp => ⟨fun v => ?_, fun v => ?_, fun v => ?_⟩⟩
    · exact (by decide : leBytes 4 0x120000 = [0x00, 0x00, 0x12, 0x00])
    · rw [hread .vendorId prog]
      by_cases h : k = 0
      · subst h
        exact congrArg (fun d => Host.Outcome.next (s.answer d 0)) (by decide : leBytes 4 0x1E9C = [0x9C, 0x1E, 0, 0])
      · have hid : s.cfgRead k .vendorId = 0xFFFF := by simp [State.cfgRead, h]
        rw [hid, if_neg h]
        exact congrArg (fun d => Host.Outcome.next (s.answer d 0)) (by decide : leBytes 4 0xFFFF = [0xFF, 0xFF, 0, 0])
    · have hbit : ∀ b, leBytes 4 (b2n b) = [BitVec.ofNat 8 (b2n b), 0, 0, 0] := by decide
      exact (hread .busMaster prog).trans (congrArg (fun d => Host.Outcome.next (s.answer d 0)) (hbit _))
    · exact exec_pcieConfigRequest_write .cplTimeout prog v hl hc hseen hretry hp
    · exact exec_pcieConfigRequest_write .mps prog v hl hc hseen hretry hp
    · rw [exec_pcieConfigRequest_write .ptmEnable prog v hl hc (State.fnSeen_of_or (.inl rfl)) (State.cfgRetry_eq_false hc h3 h0 h0) hp]
      simp [State.cfgWrite, bitOf]

/-! ### BAR 2 (R144 to R149) -/

theorem State.bar2Map_pf (off : Nat) (s : State) : s.bar2Map 0 off =
    if 2 ^ 28 * (s.reg 0x1E0114).toNat + off < 384 * 2 ^ 28 ∧ s.inCarve (2 ^ 28 * (s.reg 0x1E0114).toNat + off) = false
    then some (2 ^ 28 * (s.reg 0x1E0114).toNat + off) else none := by
  unfold State.bar2Map
  rw [if_pos rfl]
  generalize 2 ^ 28 * (s.reg 0x1E0114).toNat + off = pa
  by_cases h : pa < 384 * 2 ^ 28 ∧ s.inCarve pa = false
  · refine (if_neg ?_).trans (if_pos h).symm
    rintro (hbig | hcarve)
    · exact Nat.not_le.2 h.1 hbig
    · exact Bool.false_ne_true (h.2.symm.trans hcarve)
  · refine (if_pos ?_).trans (if_neg h).symm
    exact (not_and_or.1 h).imp Nat.not_lt.1 Bool.eq_true_of_not_eq_false

/-- The offset of a VF names the slot at its place in the list. -/
theorem State.bar2Map_vf {k : Nat} {s : State} (hk : k ≠ 0) (off : Nat) : s.bar2Map k off =
    match (s.slotList k)[off / 2 ^ 28]? with
    | none => none
    | some n => if slotPending (s.slot n) then none else some (2 ^ 28 * n + off % 2 ^ 28) := if_neg hk

theorem State.bar2Map_vf_slot {k i o n : Nat} {s : State} (hk : k ≠ 0) (ho : o < 2 ^ 28) (hn : (s.slotList k)[i]? = some n) :
    s.bar2Map k (i * 2 ^ 28 + o) = if slotPending (s.slot n) then none else some (2 ^ 28 * n + o) := by
  have hdiv : (i * 2 ^ 28 + o) / 2 ^ 28 = i := by omega
  have hmod : (i * 2 ^ 28 + o) % 2 ^ 28 = o := by omega
  rw [State.bar2Map_vf hk, hdiv, hmod, hn]

theorem State.memOpen_linkUp {k : Nat} {s : State} (h : s.memOpen k = true) : s.pcie.linkUp = true ∧ s.fnSeen k = true := by
  unfold State.memOpen at h
  simp only [Bool.and_eq_true] at h
  exact ⟨h.1.1.1, h.1.1.2⟩

/-- Where no injection is checked for, BAR 2 fires none. -/
theorem State.bar2Fire_unchecked (s : State) (pa : Nat) (wr : Bool) : s.bar2Fire pa wr false = s := rfl

theorem State.bar2Read_clean {s : State} {pa len : Nat} (hp : s.poisonAt pa len = none) (hf : s.flipAt pa len = none) :
    s.bar2Read pa len none = s.answer (s.memBytes pa len) 0 := by
  unfold State.bar2Read
  simp only [hf, State.eccFind, hp]

/-- What an access of an open BAR 2 does, by where its offset maps: memory is read or written; an access of nothing is counted. -/
def State.bar2Open (s : State) (k len : Nat) : Option Nat → Option (List (Option Byte)) → State
  | none, none => (s.count 0x1E0118).answer (List.replicate len 0) 0
  | none, some _ => (s.count 0x1E0118).answer [] 0
  | some pa, none => s.bar2Read pa len none
  | some pa, some bs =>
    if k ≠ 0 ∧ (s.inst k).st = .shadowed then (s.count 0x1E0118).answer [] 0 else (s.devWriteMask pa bs).answer [] 0

theorem exec_bar2Access {k off len : Nat} {wr : Option (List (Option Byte))} {s : State} (hlen : 0 < len)
    (hwr : ∀ bs, wr = some bs → bs.length = len) (hpage : off % 4096 + len ≤ 4096)
    (hsize : off + len ≤ s.bar2Size k) (hopen : s.memOpen k = true) (hsafe : s.pw.safe = false) (hlock : s.reg 0x4100 ≠ 0)
    (hflr : (s.fn k).flr = false) (hp : s.pw.stage ≠ .parked) :
    exec (.bar2Access k off len wr none false) s = .next (s.bar2Open k len (s.bar2Map k off) wr) := by
  obtain ⟨hl, hseen⟩ := State.memOpen_linkUp hopen
  have hpos : len ≠ 0 := by omega
  have hpage' : ¬ 4096 < off % 4096 + len := by omega
  have hsize' : ¬ s.bar2Size k < off + len := by omega
  change execBar2Access k off len wr none false s = _
  cases wr with
  | none =>
    simp only [execBar2Access, hl, hseen, hpos, hpage', hsize', hopen, hsafe, hlock, hflr, State.parked_eq_false hp, Bool.not_true,
      Bool.false_eq_true, and_false, or_false, if_false, State.bar2Fire_unchecked]
    cases s.bar2Map k off <;> rfl
  | some bs =>
    have hbs := hwr bs rfl
    subst hbs
    simp only [execBar2Access, hl, hseen, hpos, hpage', hsize', hopen, hsafe, hlock, hflr, State.parked_eq_false hp, Bool.not_true,
      Bool.false_eq_true, and_false, or_false, if_false, State.bar2Fire_unchecked]
    cases s.bar2Map k off <;> rfl

/-- Settles O21. -/
theorem bar2ReachesDeviceMemory : Obligations.Bar2ReachesDeviceMemory := by
  refine ⟨fun k off len s hlen hpage hsize hopen hsafe hlock hflr hp => ?access, State.bar2Map_pf,
    fun k i o n s hk ho hn hfree => ?slot, fun k i o n s hk ho hn hpend => ?pending, fun k off s hk hout => ?beyond⟩
  case access =>
    have hexec (wr : Option (List (Option Byte))) (hwr : ∀ bs, wr = some bs → bs.length = len) :=
      exec_bar2Access hlen hwr hpage hsize hopen hsafe hlock hflr hp
    refine ⟨fun pa hm hpoison hflip => ?_, fun hm => ?_, fun bs hbs pa hm hsh => ?_, fun bs hbs hno => ?_⟩
    · rw [hexec none nofun, hm, State.bar2Open, State.bar2Read_clean hpoison hflip]
    · rw [hexec none nofun, hm, State.bar2Open]
    · have hlive : ¬ (k ≠ 0 ∧ (s.inst k).st = .shadowed) := by tauto
      rw [hexec (some bs) (fun _ h => by cases h; exact hbs), hm]
      exact congrArg Host.Outcome.next (if_neg hlive)
    · rw [hexec (some bs) (fun _ h => by cases h; exact hbs)]
      cases hm : s.bar2Map k off with
      | none => rfl
      | some pa => exact congrArg Host.Outcome.next (if_pos (hno.resolve_left (by simp [hm])))
  case slot => exact (State.bar2Map_vf_slot hk ho hn).trans (if_neg (by simp [hfree]))
  case pending => exact (State.bar2Map_vf_slot hk ho hn).trans (if_pos hpend)
  case beyond => rw [State.bar2Map_vf hk, List.getElem?_eq_none hout]

/-! ### Requests refused, and host reads (R137, R160 to R162) -/

/-- Settles O22. -/
theorem badHostRequestsAreLoggedInAer : Obligations.BadHostRequestsAreLoggedInAer := by
  have hseen {k : Nat} {s : State} (hl : s.pcie.linkUp = true) (hk : k = 0 ∨ s.vfSeen k = true) :
      ¬ ((!s.pcie.linkUp) = true ∨ (!s.fnSeen k) = true) := by simp [hl, State.fnSeen_of_or hk]
  exact ⟨fun k s hl hk => congrArg Host.Outcome.next (if_neg (hseen hl hk)),
    fun k s hl hk => congrArg Host.Outcome.next (if_neg (hseen hl hk))⟩

theorem exec_hostReadCompletion {n : Nat} {e : Cpl} {data : List Byte} {s : State} (hl : s.pcie.linkUp = true) (he : e ≠ .timeout) :
    exec (.hostReadCompletion (.read n) e data) s = .next (s.readEnd n e data) := by
  refine congrArg Host.Outcome.next ((if_neg (by simp [hl])).trans ?_)
  cases e with
  | timeout => exact absurd rfl he
  | _ => rfl

theorem exec_hostReadTimeout {n : Nat} {s : State} (hl : s.pcie.linkUp = true) :
    exec (.hostReadTimeout n) s = .next (s.readEnd n .timeout []) :=
  congrArg Host.Outcome.next (if_neg (by simp [hl]))

/-- The failed read of an indirect buffer is noted in its frame with the cause. -/
theorem State.readEnd_indirect_fail {n h dp o : Nat} {e : Cpl} {data : List Byte} {s : State} {r : HostRead}
    (hr : s.pcie.reads[n]? = some r) (hw : r.what = .indirect h dp o) (he : e ≠ .ok) : s.readEnd n e data =
    (({ s with pcie := { s.pcie with reads := s.pcie.reads.eraseIdx n } } : State).onFrame h dp fun f =>
      { f with fails := (o, r.len / 4, e) :: f.fails }).settleLink := by
  unfold State.readEnd
  rw [hr]
  dsimp only
  rw [hw]
  cases e with
  | ok => exact absurd rfl he
  | _ => rfl

/-- Settles O23. -/
theorem hostReadsReachWhatWaitsForThem : Obligations.HostReadsReachWhatWaitsForThem := by
  refine ⟨fun n h dp o len data s r hl hr hw hlen => ?data, fun n h dp o e data s r hl hr hw he ht => ?fail,
    fun n h dp o s r hl hr hw => ?timeout, fun n h c data s r hl hr hw => ?ring⟩
  case data =>
    refine ⟨_, exec_hostReadCompletion hl nofun, ?_⟩
    unfold State.readEnd
    rw [hr]
    dsimp only
    rw [hw, hlen]
  case fail => exact ⟨_, exec_hostReadCompletion hl ht, State.readEnd_indirect_fail hr hw he⟩
  case timeout => exact ⟨_, exec_hostReadTimeout hl, State.readEnd_indirect_fail hr hw nofun⟩
  case ring =>
    refine ⟨_, exec_hostReadCompletion hl nofun, ?_⟩
    unfold State.readEnd
    rw [hr]
    dsimp only
    rw [hw]

end Sys2Proof.Machine
end

section
/-! PROOFS. Function states, the host stall, ATS, PTM and IDE (04). -/

namespace Sys2Proof.Machine

/-! ### What has ended and lets nothing go on -/

theorem State.settleHost_of_none {s : State} (h : ∀ c ∈ s.cmds, c.work ≠ .hostWait) : s.settleHost = s := by
  unfold State.settleHost
  rw [List.filter_eq_nil_iff.2]
  · rfl
  · intro c hc
    have hw := h c hc
    cases hcw : c.work <;> simp_all

theorem State.settleInval_of_none {s : State} (h : ∀ c ∈ s.cmds, c.work ≠ .inval) : s.settleInval = s := by
  unfold State.settleInval
  rw [List.filter_eq_nil_iff.2]
  · rfl
  · intro c hc
    have hw := h c hc
    cases hcw : c.work <;> simp_all

theorem State.settleAts_of_nil {s : State} (h : s.pcie.atsInval = []) : s.settleAts = s := by
  unfold State.settleAts
  rw [h]
  rfl

/-- With no command that waits for host accesses and no invalidation to answer, the end of an access lets nothing go on. -/
theorem State.settleLink_of_quiet {s : State} (hc : ∀ c ∈ s.cmds, c.work ≠ .inval ∧ c.work ≠ .hostWait) (ha : s.pcie.atsInval = []) :
    s.settleLink = s := by
  unfold State.settleLink
  rw [State.settleHost_of_none fun c h => (hc c h).2, State.settleInval_of_none fun c h => (hc c h).1, State.settleAts_of_nil ha]

/-! ### Rising lists of numbers -/

theorem mem_addNat {n m : Nat} {l : List Nat} : m ∈ addNat n l ↔ m = n ∨ m ∈ l := by
  induction l with
  | nil => simp [addNat]
  | cons k l ih =>
    unfold addNat
    split
    · simp
    · split
      · rename_i hk
        simp [hk]
      · simp only [List.mem_cons, ih]
        tauto

theorem mem_foldl_addNat {α : Type} (f : α → Nat) {m : Nat} (l : List α) (t : List Nat) :
    m ∈ l.foldl (fun t v => addNat (f v) t) t ↔ (∃ v ∈ l, f v = m) ∨ m ∈ t := by
  induction l generalizing t with
  | nil => simp
  | cons v l ih =>
    rw [List.foldl_cons, ih, mem_addNat, List.exists_mem_cons_iff, eq_comm (a := m), or_left_comm, or_assoc]

/-! ### VF Enable, D3hot, Bus Master Enable (R140, R153, R159, R309) -/

theorem State.vfDisable_core {s : State} (h : s.pcie.vfEn = true) :
    SameCore { s with pcie := { s.pcie with vfEn := false } } s.vfDisable := by
  have hgo : ¬ (!s.pcie.vfEn) = true := by simp [h]
  unfold State.vfDisable
  rw [if_neg hgo]
  refine SameCore.ite (fun _ => ⟨rfl, rfl, rfl, rfl, rfl, rfl, rfl, rfl⟩) (fun _ => ?_)
  exact SameCore.trans (t := { s with pcie := { s.pcie with
      vfEn := false, fns := s.pcie.fns.filter fun (k, _) => k == 0, ats := s.pcie.ats.filter fun (k, _) => k == 0 } })
    ⟨rfl, rfl, rfl, rfl, rfl, rfl, rfl, rfl⟩
    (SameCore.foldl (fun _ _ => (State.closeRings_same ..).trans (State.trigger_same ..)) (.refl _))

theorem State.d3Enter_same (s : State) (k : Nat) : SameCore s (s.d3Enter k) :=
  SameCore.ite (fun _ => .refl s) fun _ =>
    SameCore.ite (fun _ => State.setFn_same ..) fun _ => (State.setFn_same ..).trans (State.trigger_same ..)

/-- Bus Master Enable of a function without copies to the host clears: what waited for the link is dropped, its messages become pending
bits (R153, R159). -/
theorem State.bmeClear_of_no_copy {k : Nat} {s : State} (prog : List (Nat × Nat)) (hb : (s.fn k).bme = true)
    (hm : ∀ m ∈ s.movers, m.inst = k → m.toHost = false) (ha : s.pcie.atsInval = [])
    (hc : ∀ c ∈ s.cmds, c.work ≠ .inval ∧ c.work ≠ .hostWait) :
    s.bmeClear k prog = let u := s.setFn k { s.fn k with bme := false }
      { u with pcie := { u.pcie with
        txq := s.pcie.txq.filter fun m => msgInst m != k
        held := s.pcie.held.filter fun m => msgInst m != k
        pba := ((s.pcie.txq ++ s.pcie.held).filterMap fun m =>
          match m with | .msix j v => if j = k then some v else none | _ => none).foldl (fun l v => addNat (k * 16 + v) l) s.pcie.pba } } := by
  have hgo : ¬ (!(s.fn k).bme) = true := by simp [hb]
  have hprog : (prog.filter fun (id, _) => s.movers.any fun m => m.id == id && m.inst == k && m.toHost) = [] := by
    rw [List.filter_eq_nil_iff]
    rintro ⟨id, n⟩ -
    simp only [List.any_eq_true, Bool.and_eq_true, beq_iff_eq, not_exists, not_and]
    rintro m hmem ⟨-, hk⟩ hto
    simp [hm m hmem hk] at hto
  have hmov : (s.movers.filter fun m => m.inst = k ∧ m.toHost) = [] := by
    rw [List.filter_eq_nil_iff]
    intro m hmem
    simp only [decide_eq_true_eq, not_and]
    intro hk
    simp [hm m hmem hk]
  unfold State.bmeClear
  rw [if_neg hgo, hprog]
  dsimp only [State.movedBy, List.foldl_nil]
  rw [State.setFn_movers, hmov]
  exact State.settleLink_of_quiet hc ha

/-- Settles O20. -/
theorem functionsEnterAndLeaveTheirStates : Obligations.FunctionsEnterAndLeaveTheirStates := by
  refine ⟨fun s hl hp hv => ?vfs, fun k s hl hk hp hd => ?d3hot, fun k s hl hk hp => ?d0, fun k prog s hl hk hp hb hm ha hc => ?bme⟩
  case vfs =>
    have hd := State.vfDisable_core hv
    refine ⟨s.vfDisable, congrArg Host.Outcome.next (if_neg (State.not_linkDown_or_parked hl hp)), hd.vfs.1, fun k => ?_, hd.pw, hd.sec,
      hd.trim⟩
    simp [State.vfSeen, hd.vfs.1]
  case d3hot =>
    have hexec : exec (.d3hotEntry k) s = .next (s.d3Enter k) :=
      congrArg Host.Outcome.next (if_neg (State.not_unseen_or_parked hl hk hp))
    have hsame : SameCore s (s.d3Enter k) := State.d3Enter_same s k
    refine ⟨s.d3Enter k, hexec, hsame.pw, hsame.sec, hsame.link.trans hl, ?_⟩
    unfold State.d3Enter
    rw [if_neg (by simp [hd])]
    rfl
  case d0 => exact congrArg Host.Outcome.next (if_neg (State.not_unseen_or_parked hl hk hp))
  case bme =>
    have hexec : exec (.busMasterDisable k prog) s = .next (s.bmeClear k prog) :=
      congrArg Host.Outcome.next (if_neg (State.not_unseen_or_parked hl hk hp))
    refine ⟨_, hexec, ?_⟩
    rw [State.bmeClear_of_no_copy prog hb hm ha hc]
    refine ⟨rfl, rfl, fun m hmem => ?_, fun m hmem hk => ?_, fun v hv => ?_⟩
    · rw [← List.filter_append, List.mem_filter] at hmem
      simpa using hmem.2
    · exact List.mem_filter.2 ⟨hmem, by simpa using hk⟩
    · exact (mem_foldl_addNat (fun v => k * 16 + v) _ _).2 (.inl ⟨v, List.mem_filterMap.2 ⟨_, hv, by simp⟩, rfl⟩)

/-! ### The host stall (R164 to R172) -/

/-- A fault that finds the collector's input queue short enough joins its end and is counted for its class (R751). -/
theorem State.enqueueFault_of_room {s : State} (f : FaultIn) (h : s.fcol.inq.length < 48) :
    s.enqueueFault f = { s.count (0x9120 + 4 * f.cls) with fcol := { s.fcol with inq := s.fcol.inq ++ [f] } } := by
  have hlow : lowFaults s.fcol.inq < 48 := (List.length_filter_le ..).trans_lt h
  have hqueued : queuedFaults s.fcol.inq < 64 := ((List.length_filter_le ..).trans_lt h).trans (by decide)
  unfold State.enqueueFault
  simp [hlow, hqueued]

/-- A raised fault that finds room stands in the input queue with its code and its time. -/
theorem State.raise_of_room {s : State} (h : s.fcol.inq.length < 48) (code : Nat) (o : Owner) (hwq : Option Nat) (base detail : Nat) :
    ∃ f l, s.raise code o hwq base detail = { s with regs := l, fcol := { s.fcol with inq := s.fcol.inq ++ [f] } } ∧
      f.code = code ∧ f.gtime = s.ck.gtime :=
  ⟨_, _, State.enqueueFault_of_room _ h, rfl, rfl⟩

theorem State.raise_mem_inq_of_room {s : State} (h : s.fcol.inq.length < 48) (code : Nat) (o : Owner) (hwq : Option Nat) (base detail : Nat) :
    ∃ f ∈ (s.raise code o hwq base detail).fcol.inq, f.code = code ∧ f.gtime = s.ck.gtime := by
  obtain ⟨f, l, hraise, hcode, hgtime⟩ := State.raise_of_room h code o hwq base detail
  rw [hraise]
  exact ⟨f, List.mem_append_right _ (List.mem_singleton_self f), hcode, hgtime⟩

/-- What LINK_STALL keeps through counters, interrupts and the ends of copies: the stall itself, the posted transmit queue, the
collector, power state and memory. -/
structure StallKept (s t : State) : Prop where
  stall : t.pcie.stall = s.pcie.stall
  txq : s.pcie.stall = .linkStall → t.pcie.txq = s.pcie.txq
  fcol : t.fcol = s.fcol
  pw : t.pw = s.pw
  mem : Claims.SameMem s t

theorem StallKept.refl (s : State) : StallKept s s := ⟨rfl, fun _ => rfl, rfl, rfl, fun _ => rfl⟩

theorem StallKept.trans {s t u : State} (h : StallKept s t) (k : StallKept t u) : StallKept s u :=
  ⟨k.stall.trans h.stall, fun hs => (k.txq (h.stall.trans hs)).trans (h.txq hs), k.fcol.trans h.fcol, k.pw.trans h.pw,
    fun a => (k.mem a).trans (h.mem a)⟩

theorem StallKept.foldl {α : Type} {f : State → α → State} (hf : ∀ a x, StallKept a (f a x)) (l : List α) (s : State) :
    StallKept s (l.foldl f s) := by
  induction l generalizing s with
  | nil => exact .refl s
  | cons x l ih => exact (hf s x).trans (ih (f s x))

theorem HostSide.stallKept {s t : State} (h : HostSide s t) (htxq : s.pcie.stall = .linkStall → t.pcie.txq = s.pcie.txq) :
    StallKept s t :=
  ⟨h.signals.stall, htxq, (congrArg State.fcol h).trans rfl, h.signals.pw, h.signals.sameMem⟩

theorem State.setReg_stallKept (s : State) (a : Nat) (v : W) : StallKept s (s.setReg a v) := ⟨rfl, fun _ => rfl, rfl, rfl, fun _ => rfl⟩

/-- LINK_STALL holds every host-bound write that the link and the function let through. -/
theorem State.issueHost_of_linkStall {s : State} (m : HostMsg) (hl : s.pcie.linkUp = true) (hb : (s.fn (msgInst m)).bme = true)
    (hsafe : s.pw.safe = false) (hstall : s.pcie.stall = .linkStall) :
    s.issueHost m = { s with pcie := { s.pcie with held := s.pcie.held ++ [m] } } := by
  unfold State.issueHost
  rw [if_neg (by simp [hl, hb, hsafe]), hstall]

theorem State.issueHost_stallKept (s : State) (m : HostMsg) : StallKept s (s.issueHost m) := by
  refine (s.issueHost_hostSide m).stallKept fun hstall => ?_
  unfold State.issueHost
  rw [hstall]
  split <;> rfl

theorem State.msixEvent_stallKept (s : State) (k v : Nat) : StallKept s (s.msixEvent k v) := by
  unfold State.msixEvent
  split
  · exact ⟨rfl, fun _ => rfl, rfl, rfl, fun _ => rfl⟩
  · exact s.issueHost_stallKept _

theorem State.intEdge_stallKept (s : State) (base before : Nat) : StallKept s (s.intEdge base before) := by
  unfold State.intEdge
  dsimp only
  split
  · exact .refl s
  · split
    · exact s.msixEvent_stallKept ..
    · exact .refl s

theorem State.cause_stallKept (s : State) (base bit : Nat) : StallKept s (s.cause base bit) :=
  (s.setReg_stallKept ..).trans (State.intEdge_stallKept ..)

theorem State.stallCut_stallKept (s : State) (m : Mover) : StallKept s (s.stallCut m) := by
  have hcount : StallKept s (s.countIncomplete m) := by
    unfold State.countIncomplete
    split
    · exact (s.setReg_stallKept ..).trans (State.cause_stallKept ..)
    · exact .refl s
  unfold State.stallCut
  split
  · exact ⟨rfl, fun _ => rfl, rfl, rfl, fun _ => rfl⟩
  · generalize s.countIncomplete m = u at hcount
    exact hcount.trans ⟨rfl, fun _ => rfl, rfl, rfl, fun _ => rfl⟩

theorem State.atsMsg_markMsg_stream (s : State) (m : HostMsg) :
    ((s.atsMsg m).markMsg m).pcie.txq = s.pcie.txq ∧ ((s.atsMsg m).markMsg m).pcie.sent = s.pcie.sent := by
  have hmark (u : State) : (u.markMsg m).pcie = u.pcie := by
    unfold State.markMsg
    split <;> rfl
  rw [hmark]
  unfold State.atsMsg State.atsUse
  split
  · split <;> exact ⟨rfl, rfl⟩
  · exact ⟨rfl, rfl⟩

/-- Outside a stall a message goes onto the link at once, or is discarded. -/
theorem State.issueHost_of_normal {s : State} (m : HostMsg) (h : s.pcie.stall = .normal) :
    (s.issueHost m).pcie.txq = s.pcie.txq ∧ ∃ l, (s.issueHost m).pcie.sent = s.pcie.sent ++ l ∧
      (s.pcie.linkUp = true → s.pw.safe = false → (s.fn (msgInst m)).bme = true → l = [m]) := by
  unfold State.issueHost
  rw [h]
  split
  case isTrue hdrop =>
    refine ⟨rfl, [], (List.append_nil _).symm, fun hl hsafe hb => ?_⟩
    simp [hl, hsafe, hb] at hdrop
  case isFalse => exact ⟨(State.atsMsg_markMsg_stream ..).1, [m], (State.atsMsg_markMsg_stream ..).2, fun _ _ _ => rfl⟩

theorem State.cause_of_normal {s : State} (base bit : Nat) (h : s.pcie.stall = .normal) :
    (s.cause base bit).pcie.txq = s.pcie.txq ∧ ∃ l, (s.cause base bit).pcie.sent = s.pcie.sent ++ l := by
  have hsame (u : State) (hu : u.pcie = s.pcie) : u.pcie.txq = s.pcie.txq ∧ ∃ l, u.pcie.sent = s.pcie.sent ++ l :=
    ⟨by rw [hu], [], by rw [hu, List.append_nil]⟩
  unfold State.cause State.causes State.intEdge
  dsimp only
  split
  · exact hsame _ rfl
  · split
    · unfold State.msixEvent
      split
      · exact ⟨rfl, [], (List.append_nil _).symm⟩
      · obtain ⟨htxq, l, hsent, -⟩ := State.issueHost_of_normal (s := s.setReg _ _) (.msix _ _) h
        exact ⟨htxq, l, hsent⟩
    · exact hsame _ rfl

/-- Held messages that nothing drops go onto the link in their order once the stall is over. -/
theorem State.foldl_issueHost_of_normal (l : List HostMsg) {s : State} (h : s.pcie.stall = .normal) (hl : s.pcie.linkUp = true)
    (hsafe : s.pw.safe = false) (hb : ∀ m ∈ l, (s.fn (msgInst m)).bme = true) :
    (l.foldl (fun s m => s.issueHost m) s).pcie.txq = s.pcie.txq ∧ (l.foldl (fun s m => s.issueHost m) s).pcie.sent = s.pcie.sent ++ l := by
  induction l generalizing s with
  | nil => exact ⟨rfl, (List.append_nil _).symm⟩
  | cons m l ih =>
    have hs := (s.issueHost_hostSide m).signals
    obtain ⟨htxq, k, hsent, hk⟩ := State.issueHost_of_normal m h
    obtain ⟨htxq', hsent'⟩ := ih (hs.stall.trans h) (hs.linkUp.trans hl) (by rw [hs.pw]; exact hsafe)
      (fun j hj => by rw [hs.fn]; exact hb j (List.mem_cons_of_mem m hj))
    rw [List.foldl_cons]
    refine ⟨htxq'.trans htxq, ?_⟩
    rw [hsent', hsent, hk hl hsafe (hb m List.mem_cons_self), List.append_assoc, List.singleton_append]

/-- Settles O24. -/
theorem hostStallGoesThroughItsStates : Obligations.HostStallGoesThroughItsStates := by
  refine ⟨fun s hl hn => ?begin0, fun prog s hl hn => ?begin, fun s hw hroom => ?limit, fun m s hl hb hsafe hst => ?held,
    fun s hst hl hsafe hb hc ha => ?credit, fun s hst hsafe hready => ?loss⟩
  case begin0 => exact congrArg Host.Outcome.next (if_neg (by simp [hl, hn]))
  case begin =>
    have hm := s.movedBy_same prog
    exact ⟨_, congrArg Host.Outcome.next (if_neg (by simp [hl, hn])), rfl, hm.pw, hm.sec, hm.gtime⟩
  case limit =>
    let a := s.setStall .linkStall
    let b := (a.count 0x1E0110).cause 0x1E0000 8
    have hb : StallKept a b := (a.setReg_stallKept ..).trans (State.cause_stallKept ..)
    have hck : b.ck = s.ck := ((a.count_signals _).trans (State.cause_signals ..)).ck
    obtain ⟨f, l, hraise, hcode, hgtime⟩ := State.raise_of_room (s := b) (by rw [hb.fcol]; exact hroom) 0x0401 .device none 0x1E0000 0
    let c := b.raise 0x0401 .device none 0x1E0000 0
    have hd : StallKept c (c.movers.foldl (fun s m => if moverPart m then s.stallCut m else s) c) := by
      refine StallKept.foldl (fun u m => ?_) _ c
      split
      · exact u.stallCut_stallKept m
      · exact .refl u
    have hexec : exec (.hostStallLimitExpiry []) s = .next (c.movers.foldl (fun s m => if moverPart m then s.stallCut m else s) c) :=
      congrArg Host.Outcome.next (if_neg (by simp [hw]))
    have hc : c = { b with regs := l, fcol := { b.fcol with inq := b.fcol.inq ++ [f] } } := hraise
    clear_value c b
    have hcp : c.pcie = b.pcie := by rw [hc]
    have hstall : c.pcie.stall = .linkStall := by rw [hcp, hb.stall]; rfl
    refine ⟨_, hexec, hd.stall.trans hstall, ?_, ?_, ⟨f, ?_, hcode, ?_⟩, fun x => ?_⟩
    · exact (hd.txq hstall).trans ((congrArg (·.txq) hcp).trans (hb.txq rfl))
    · rw [hd.pw, hc]; exact hb.pw
    · rw [hd.fcol, hc]; exact List.mem_append_right _ (List.mem_singleton_self f)
    · rw [hgtime, hck]
    · rw [hd.mem, hc]; exact hb.mem x
  case held => exact State.issueHost_of_linkStall m hl hb hsafe hst
  case credit =>
    let a : State := { s with pcie := { s.pcie with stall := .normal, txq := [], held := [], sent := s.pcie.sent ++ s.pcie.txq } }
    let b := s.pcie.held.foldl (fun s m => s.issueHost m) a
    have hbside : HostSide a b := .foldl (fun _ _ => State.issueHost_hostSide ..) _ a
    obtain ⟨hbtx, hbsent⟩ : b.pcie.txq = [] ∧ b.pcie.sent = s.pcie.sent ++ s.pcie.txq ++ s.pcie.held :=
      State.foldl_issueHost_of_normal s.pcie.held (s := a) rfl hl hsafe hb
    let c := if s.pcie.stall = .linkStall then b.cause 0x1E0000 9 else b
    have hexec : exec .creditReturn s = .next (c.cmds.foldl (fun s x => s.stallRecord x) c).settleLink :=
      congrArg Host.Outcome.next (if_neg hst)
    have hc : Signals b c ∧ c.fcol = b.fcol ∧ c.pcie.atsInval = b.pcie.atsInval ∧ c.pcie.txq = b.pcie.txq ∧
        ∃ l, c.pcie.sent = b.pcie.sent ++ l ∧ (s.pcie.stall = .creditWait → l = []) := by
      by_cases hls : s.pcie.stall = .linkStall
      · obtain ⟨htxq, l, hsent⟩ := State.cause_of_normal 0x1E0000 9 (s := b) hbside.signals.stall
        have hcs := b.causes_hostSide 0x1E0000 (2 ^ 9)
        rw [show c = b.cause 0x1E0000 9 from if_pos hls]
        exact ⟨b.cause_signals .., (congrArg State.fcol hcs).trans rfl, (congrArg (·.pcie.atsInval) hcs).trans rfl, htxq, l, hsent,
          fun h => by simp [hls] at h⟩
      · rw [show c = b from if_neg hls]
        exact ⟨.refl b, rfl, rfl, rfl, [], (List.append_nil _).symm, fun _ => rfl⟩
    have hsig : Signals a c := hbside.signals.trans hc.1
    obtain ⟨-, hfcol, hats, htxq, l, hsent, hnil⟩ := hc
    have hcmds : c.cmds = [] := hsig.cmds.trans hc
    have hinval : c.pcie.atsInval = [] := (hats.trans ((congrArg (·.pcie.atsInval) hbside).trans rfl)).trans ha
    have hsettle : c.settleLink = c := State.settleLink_of_quiet (by simp [hcmds]) hinval
    rw [hcmds, List.foldl_nil, hsettle] at hexec
    refine ⟨c, l, hexec, hsig.stall, htxq.trans hbtx, by rw [hsent, hbsent], hnil, hsig.pw, ?_, hsig.sameMem⟩
    exact hfcol.trans ((congrArg State.fcol hbside).trans rfl)
  case loss =>
    let u := s.countField 0x1E0104 24 8 1
    obtain ⟨hlink, -, hstage, hlast, -, -⟩ := State.linkDrop_l3Start (s := u) .linkLoss hsafe hready
    have hc := u.linkLoss_core
    refine ⟨u.linkLoss, congrArg Host.Outcome.next (if_neg hst), hc.link.trans hlink, ?_, ?_⟩
    · rw [hc.pw, hstage]
    · rw [hc.pw, hlast]

/-! ### ATS, PTM, IDE (R175 to R181) -/

/-- Answering invalidations leaves the translations, and everything off the link, alone. -/
theorem State.settleAts_frame (s : State) : (s.settleAts.pcie.ats = s.pcie.ats) ∧ s.settleAts.pw = s.pw ∧ s.settleAts.sec = s.sec ∧
    Claims.SameMem s s.settleAts := by
  have hissue (u : State) (k : Nat) : (u.issueHost (.atsDone k)).pcie.ats = u.pcie.ats := by
    unfold State.issueHost
    split
    · rfl
    · split
      · rfl
      · split <;> rfl
      · rfl
  unfold State.settleAts
  generalize s.pcie.atsInval = l
  induction l generalizing s with
  | nil => exact ⟨rfl, rfl, rfl, fun _ => rfl⟩
  | cons e l ih =>
    rw [List.foldl_cons]
    split
    · exact ih s
    · let u : State := { s with pcie := { s.pcie with atsInval := s.pcie.atsInval.erase e } }
      have hs := (u.issueHost_hostSide (.atsDone e.1)).signals
      obtain ⟨hats, hpw, hsec, hmem⟩ := ih (u.issueHost (.atsDone e.1))
      exact ⟨hats.trans (hissue ..), hpw.trans hs.pw, hsec.trans hs.sec, fun a => (hmem a).trans (hs.memByte a)⟩

/-- Settles O25. -/
theorem atsPtmAndIde : Obligations.AtsPtmAndIde := by
  refine ⟨fun k pg n s hl hk he => ?inval, fun e s hl hp => ?ptmOk, fun e s hl hp hr => ?ptmFail, fun n s hl hn hsp => ?keys,
    fun n s hl hide hroom => ?check⟩
  case inval =>
    have hseen : s.fnSeen k = true := State.fnSeen_of_or hk
    let u : State := { s with pcie := { s.pcie with
      ats := s.pcie.ats.filter fun (j, a) => !(j == k && decide (pg ≤ a ∧ a < pg + n))
      atsInval := s.pcie.atsInval ++ [(k, pg, n)] } }
    obtain ⟨hats, hpw, hsec, hmem⟩ := u.settleAts_frame
    refine ⟨u.settleAts, congrArg Host.Outcome.next (if_neg (by simp [hl, hseen, he])), fun a h1 h2 hin => ?_, fun x hx hout => ?_, hpw, hsec,
      hmem⟩
    · rw [hats] at hin
      simp [u, h1, h2] at hin
    · rw [hats]
      refine List.mem_filter.2 ⟨hx, ?_⟩
      obtain ⟨j, a⟩ := x
      simp only [Bool.not_eq_true', Bool.and_eq_false_iff, beq_eq_false_iff_ne, decide_eq_false_iff_not]
      rcases hout with h | h | h
      · exact .inl h
      · exact .inr (by omega)
      · exact .inr (by omega)
  case ptmOk =>
    refine ⟨s.ptmCorrect e, congrArg Host.Outcome.next ((if_neg (by simp [hl, hp])).trans (if_pos rfl)), ?_⟩
    unfold State.ptmCorrect
    dsimp only
    by_cases hstep : 1000000 < e
    · rw [if_pos hstep, if_pos hstep, if_pos hstep, if_pos hstep]
      exact ⟨rfl, rfl, rfl, rfl, rfl, rfl, rfl, rfl, fun _ => rfl⟩
    · rw [if_neg hstep, if_neg hstep, if_neg hstep, if_neg hstep]
      exact ⟨rfl, rfl, rfl, rfl, rfl, rfl, rfl, rfl, fun _ => rfl⟩
  case ptmFail =>
    have hmin : min 3 (s.ck.failRun + 1) = s.ck.failRun + 1 := by omega
    have hne : s.ck.failRun ≠ 2 := by omega
    refine congrArg Host.Outcome.next ((if_neg (by simp [hl, hp])).trans ?_)
    simp [hmin, hne]
  case keys => exact congrArg Host.Outcome.next (if_neg (by simp [hl, hsp, hn]))
  case check =>
    let u : State := { s with pcie := { s.pcie with ide := s.pcie.ide.set n 2, ideFails := min 255 (s.pcie.ideFails + 1) } }
    let b := (u.aerLog 0 28).cause 0x1E0000 11
    have hcs := (u.aerLog 0 28).causes_hostSide 0x1E0000 (2 ^ 11)
    have hs : Signals (u.aerLog 0 28) b := State.cause_signals ..
    have hfcol : b.fcol = s.fcol := (congrArg State.fcol hcs).trans rfl
    obtain ⟨f, l, hraise, hcode, -⟩ := State.raise_of_room (s := b) (by rw [hfcol]; exact hroom) 0x0403 .device none 0x1E0000 0
    have hide1 : b.pcie.ide = s.pcie.ide.set n 2 := (congrArg (·.pcie.ide) hs).trans rfl
    have haer : (b.fn 0).aer = (s.fn 0).aer ++ [28] := by
      rw [hs.fn, State.aerLog, State.setFn_fn, if_pos rfl]
      rfl
    refine ⟨b.raise 0x0403 .device none 0x1E0000 0, congrArg Host.Outcome.next (if_neg (by simp [hl, hide])), ?_⟩
    have hpw : b.pw = s.pw := hs.pw
    have hsec : b.sec = s.sec := hs.sec
    have hmem : Claims.SameMem s b := hs.sameMem
    clear_value b
    rw [hraise]
    exact ⟨hide1, haer, ⟨f, List.mem_append_right _ (List.mem_singleton_self f), hcode⟩, hpw, hsec, hmem⟩

end Sys2Proof.Machine
end

section
/-! PROOFS. The SPDM responder, the security mailbox and the fuses (05). -/

namespace Sys2Proof.Machine

/-! ### The SPDM responder (R226 to R228) -/

theorem next_congr {s t : State} (h : s = t) : (.next s : Host.Outcome State Fault Refusal) = .next t := congrArg _ h

theorem State.doeOpen_of {s : State} (hl : s.pcie.linkUp = true) (hc : s.pw.configReady = true) (hsafe : s.pw.safe = false)
    (hp : s.pw.stage ≠ .parked) (hh : 0 ∉ s.sec.halted) : s.doeOpen = true := by
  simp [State.doeOpen, State.parked, hl, hc, hsafe, hp, hh]

/-- The open responder answers a request that its connection is ready for, and any other as unexpected. -/
theorem State.onSpdm_of_open {s : State} (h : s.doeOpen = true) (ok : Bool) (body : State → State) :
    s.onSpdm ok body = if ok then body s else s.doeSay .unexpected := by
  simp [State.onSpdm, h]

theorem State.onSpdm_ready {s : State} (h : s.doeOpen = true) {ok : Bool} (hok : ok = true) (body : State → State) :
    s.onSpdm ok body = body s := by
  rw [State.onSpdm_of_open h, if_pos hok]

/-- GET_MEASUREMENTS of one index from 1 to 9. -/
theorem exec_spdmGetMeasurements_one {s : State} (h : s.doeOpen = true) (hr : spdmReady s.sec.spdm = true) (hf : s.spdmFresh = true) {i : Nat}
    (h1 : 1 ≤ i) (h9 : i ≤ 9) (sign : Bool) (nonce : List Byte) :
    exec (.spdmGetMeasurements i sign nonce) s = .next ((s.generate 32).2.doeSay (.data
      (if sign then signed (BitVec.ofNat 8 i :: s.measValue i ++ nonce ++ (s.generate 32).1)
        else BitVec.ofNat 8 i :: s.measValue i ++ nonce ++ (s.generate 32).1))) := by
  have hone : i ≠ 0xFF := by omega
  have hin : ¬ (i = 0 ∨ 9 < i) := by omega
  refine next_congr ((State.onSpdm_ready h hr _).trans ?_)
  simp [hf, hone, hin]

/-- Settles O26. -/
theorem spdmResponderFollowsItsConnection : Obligations.SpdmResponderFollowsItsConnection := by
  intro s hl hc hsafe hp hh
  have ho := State.doeOpen_of hl hc hsafe hp hh
  refine ⟨next_congr (State.onSpdm_ready ho rfl _), fun hv => next_congr (State.onSpdm_ready ho (by simp [hv]) _), fun hv => ?unexpected, fun hv => ?algos, fun hr => ?ready,
    fun hv => ?finish, fun hv => ?session⟩
  case unexpected =>
    refine congrArg Host.Outcome.next ((State.onSpdm_of_open ho ..).trans (if_neg ?_))
    simpa using hv
  case algos =>
    have hcaps : (s.sec.spdm == .caps) = true := by simp [hv]
    exact ⟨next_congr (State.onSpdm_ready ho hcaps _), next_congr (State.onSpdm_ready ho hcaps _)⟩
  case ready =>
    have hready : spdmReady s.sec.spdm = true := by
      rcases hr with h | h | h <;> simp [h, spdmReady]
    refine ⟨fun len => next_congr (State.onSpdm_ready ho hready _), fun off len => next_congr (State.onSpdm_ready ho hready _), fun slot off len hs => ?_, fun hf => ?_, fun hf => ?_⟩
    · refine next_congr ((State.onSpdm_ready ho hready _).trans (if_neg hs))
    · have hbusy : (!s.spdmFresh) = true := by simp [hf]
      exact ⟨fun nonce => next_congr ((State.onSpdm_ready ho hready _).trans (if_pos hbusy)),
        fun idx sign nonce => next_congr ((State.onSpdm_ready ho hready _).trans (if_pos hbusy)),
        fun ok => next_congr ((State.onSpdm_ready ho hready _).trans (if_pos hbusy))⟩
    · have hfresh : ¬ (!s.spdmFresh) = true := by simp [hf]
      refine ⟨fun nonce => next_congr ((State.onSpdm_ready ho hready _).trans (if_neg hfresh)), fun i nonce h1 h8 => ?_, fun nonce => ?_,
        next_congr ((State.onSpdm_ready ho hready _).trans (if_neg hfresh))⟩
      · rw [exec_spdmGetMeasurements_one ho hready hf h1 (by omega)]
        simp [State.measValue, show i ≠ 9 by omega]
      · rw [exec_spdmGetMeasurements_one ho hready hf (by decide) (by decide)]
        rfl
  case finish =>
    have hkeyed : (s.sec.spdm == .keyed) = true := by simp [hv]
    exact ⟨next_congr (State.onSpdm_ready ho hkeyed _), next_congr (State.onSpdm_ready ho hkeyed _)⟩
  case session =>
    have hsession : (s.sec.spdm == .session) = true := by simp [hv]
    exact ⟨next_congr (State.onSpdm_ready ho hsession _), next_congr (State.onSpdm_ready ho hsession _), next_congr (State.onSpdm_ready ho hsession _)⟩

/-! ### The security mailbox (R231 to R234) -/

/-- The SEC core that runs takes an unanswered command of the code. -/
theorem State.onMbox_eq {s : State} {m : Mbox} (h : s.sec.mbox = some m) (ha : m.answer = none) (hh : 0 ∉ s.sec.halted)
    (body : State → Mbox → State) : s.onMbox m.cmd body = body s m := by
  unfold State.onMbox
  rw [h]
  simp [ha, hh]

theorem State.onMbox_new {s : State} {cmd len : Nat} (h : s.sec.mbox = some ⟨cmd, len, none⟩) (hh : 0 ∉ s.sec.halted)
    (body : State → Mbox → State) :
    s.onMbox cmd body = body s ⟨cmd, len, none⟩ :=
  State.onMbox_eq (m := ⟨cmd, len, none⟩) h rfl hh body

theorem State.mboxAnswer_eq {s : State} {m : Mbox} (h : s.sec.mbox = some m) (code : Nat) (d : List Byte) :
    s.mboxAnswer code d = { s with sec := { s.sec with mbox := some { m with answer := some (code, d) } } } := by
  unfold State.mboxAnswer
  rw [h]

/-- The registers after a fold that writes `n` consecutive words. -/
theorem foldl_setReg_reg (b : Nat) (f : Nat → W) (n : Nat) (s : State) (a : Nat) :
    (∀ i, i < n → a ≠ b + 4 * i) → ((List.range n).foldl (fun s i => s.setReg (b + 4 * i) (f i)) s).reg a = s.reg a := by
  induction n with
  | zero => exact fun _ => rfl
  | succ n ih =>
    intro h
    rw [List.range_succ, List.foldl_append, List.foldl_cons, List.foldl_nil, State.setReg_reg, if_neg (h n (by omega))]
    exact ih fun i hi => h i (by omega)

theorem foldl_setReg_reg_at (b : Nat) (f : Nat → W) {n i : Nat} (hi : i < n) (s : State) :
    ((List.range n).foldl (fun s i => s.setReg (b + 4 * i) (f i)) s).reg (b + 4 * i) = f i := by
  induction n with
  | zero => omega
  | succ n ih =>
    rw [List.range_succ, List.foldl_append, List.foldl_cons, List.foldl_nil, State.setReg_reg]
    by_cases hin : i = n
    · rw [hin, if_pos rfl]
    · rw [if_neg (by omega)]
      exact ih (by omega)

theorem State.mboxRsp_signals (s : State) (d : List Byte) : Signals s (s.mboxRsp d) := .foldl (fun _ _ => State.setReg_signals ..) _ s

theorem State.mboxRsp_reg {s : State} {d : List Byte} {i : Nat} (h : 4 * i < d.length) :
    (s.mboxRsp d).reg (0x6300 + 4 * i) = BitVec.ofNat 32 (leNat (bytesAt d (4 * i) 4)) :=
  foldl_setReg_reg_at 0x6300 (fun i => BitVec.ofNat 32 (leNat (bytesAt d (4 * i) 4))) (show i < (d.length + 3) / 4 by omega) s

/-- MBOX_DONE of an answered command: its fuses, then registers and one cause. -/
theorem exec_mboxDone {s : State} {m : Mbox} {code : Nat} {d : List Byte} (h : s.sec.mbox = some m) (ha : m.answer = some (code, d)) :
    exec .mboxDone s = .next (((State.mboxRsp { s with sec := { fusesDone s.sec m code with mbox := none } } d).setReg 0x6104
      (BitVec.ofNat 32 (1 + 2 ^ 8 * code + 2 ^ 16 * d.length))).cause 0x6000 8) := by
  change execMboxDone s = _
  unfold execMboxDone
  rw [h]
  dsimp only
  rw [ha]

theorem exec_mboxDone_effect {s : State} {m : Mbox} {code : Nat} {d : List Byte} (h : s.sec.mbox = some m) (ha : m.answer = some (code, d)) :
    ∃ t, exec .mboxDone s = .next t ∧ t.sec = { fusesDone s.sec m code with mbox := none } ∧
      t.reg 0x6104 = BitVec.ofNat 32 (1 + 2 ^ 8 * code + 2 ^ 16 * d.length) ∧
      (∀ i, 4 * i < d.length → t.reg (0x6300 + 4 * i) = BitVec.ofNat 32 (leNat (bytesAt d (4 * i) 4))) ∧
      bitOf (t.reg 0x6010).toNat 8 = true ∧ t.pw = s.pw ∧ Claims.SameMem s t := by
  let a : State := { s with sec := { fusesDone s.sec m code with mbox := none } }
  let b := (a.mboxRsp d).setReg 0x6104 (BitVec.ofNat 32 (1 + 2 ^ 8 * code + 2 ^ 16 * d.length))
  have hs : Signals a (b.cause 0x6000 8) := ((a.mboxRsp_signals d).trans (State.setReg_signals ..)).trans (State.cause_signals ..)
  refine ⟨b.cause 0x6000 8, exec_mboxDone h ha, hs.sec, ?_, fun i hi => ?_, State.cause_sets b 0x6000 (by decide), hs.pw, hs.sameMem⟩
  · rw [State.cause_reg_of_ne b 8 (by decide), State.setReg_reg, if_pos rfl]
  · rw [State.cause_reg_of_ne b 8 (by omega), State.setReg_reg, if_neg (by omega), State.mboxRsp_reg hi]

/-- Settles O27. -/
theorem securityMailboxAnswersItsCommands : Obligations.SecurityMailboxAnswersItsCommands := by
  refine ⟨fun s len hm hh => ?random, fun s len hm hh data => ?hash, fun s len op curve operands hm hh hop hcurve => ?pke, fun s hm hh hrng => ?challenge,
    fun s => rfl, fun s code len hm hh hcode => ?reserved, fun s cmd len code d hm hd h20 h21 => ?done⟩
  case random =>
    refine ⟨fun hlen => next_congr ((State.onMbox_new hm hh _).trans (if_pos hlen)), fun h1 h256 hrng => ?_, fun h1 h256 hrng => ?_⟩
    · exact next_congr ((State.onMbox_new hm hh _).trans ((if_neg (by dsimp only; omega)).trans (if_pos hrng)))
    · exact next_congr ((State.onMbox_new hm hh _).trans ((if_neg (by dsimp only; omega)).trans (if_neg (by simp [hrng]))))
  case hash =>
    refine ⟨fun hlen alg => next_congr ((State.onMbox_new hm hh _).trans (if_pos hlen)), fun hlen => ?_⟩
    have hgo : ¬ 192 < data.length := by omega
    exact ⟨next_congr ((State.onMbox_new hm hh _).trans (if_neg hgo)),
      next_congr ((State.onMbox_new hm hh _).trans (if_neg hgo))⟩
  case pke =>
    have hgo : ¬ (2 < op ∨ 1 < curve) := by omega
    have hfail (fails : List Bool) {c : Nat} (hc : pkeCheck fails = some c) :
        exec (.pkeTest op curve operands fails) s = .next (s.mboxAnswer c []) := by
      refine next_congr ((State.onMbox_new hm hh _).trans ((if_neg hgo).trans ?_))
      rw [hc]
    refine ⟨fun zero range coord inf ncurve sig h => hfail _ (if_pos h), fun inf ncurve sig => hfail _ rfl, fun ncurve sig => hfail _ rfl, fun sig => hfail _ rfl, hfail _ rfl,
      fun hop2 => ?_⟩
    refine next_congr ((State.onMbox_new hm hh _).trans ((if_neg hgo).trans ?_))
    simp [pkeCheck, hop2]
  case challenge =>
    refine ⟨_, next_congr ((State.onMbox_new hm hh _).trans ((if_neg (by simp)).trans (if_neg (by simp [hrng])))), ?_⟩
    exact State.mboxAnswer_eq (m := ⟨0x10, 0, none⟩)
      (s := { (s.generate 32).2 with sec := { (s.generate 32).2.sec with nonce := some (BitVec.ofNat 256 (leNat (s.generate 32).1)) } }) hm ..
  case reserved =>
    change execMboxReservedCmd s = _
    unfold execMboxReservedCmd
    rw [hm]
    exact next_congr (if_neg (by simp_all))
  case done =>
    obtain ⟨t, hexec, hsec, hst, hrsp, hint, hpw, hmem⟩ := exec_mboxDone_effect hm rfl
    refine ⟨t, hexec, ?_, hst, hrsp, hint, hpw, hmem⟩
    rw [hsec]
    simp [fusesDone, h20, h21]

/-! ### Fuses (R205 to R209) -/

/-- Settles O28: the answers of the commands, then `exec_mboxDone_effect` for the fuses that stand at MBOX_DONE. -/
theorem fuseCommandsProgramOnce : Obligations.FuseCommandsProgramOnce := by
  refine ⟨fun s ok hm hh ho => ?second, fun s hm hh ho => ?first, fun s ok hm hh hsvn => ?low, fun s hm hh hsvn => ?raised, fun s hm hh hsvn => ?failed⟩
  case second =>
    exact next_congr ((State.onMbox_new hm hh _).trans ((if_neg (by simp)).trans (if_pos ho)))
  case first =>
    let u : State := { s with sec := { s.sec with ownerHash := BitVec.ofNat 384 (leNat (s.mboxReq 48)), ownerStep := true } }
    have hexec : exec (.ownerKeyProgram true) s = .next (u.mboxAnswer 0 []) :=
      next_congr ((State.onMbox_new hm hh _).trans ((if_neg (by simp)).trans ((if_neg (by simp [ho])).trans (if_pos rfl))))
    rw [State.mboxAnswer_eq (s := u) (m := ⟨0x20, 48, none⟩) hm] at hexec
    obtain ⟨w, hdone, hsec, -⟩ := exec_mboxDone_effect (s := { u with sec := { u.sec with mbox := some ⟨0x20, 48, some (0, [])⟩ } }) rfl rfl
    refine ⟨_, w, hexec, rfl, hdone, ?_, ?_⟩
    · rw [hsec]
      simp [fusesDone, ownerState]
    · rw [hsec]
      rfl
  case low =>
    have hexec : exec (.arbCommit ok) s = .next (s.mboxAnswer 0 (leBytes 4 s.sec.arb)) :=
      next_congr ((State.onMbox_new hm hh _).trans ((if_neg (by simp)).trans (if_pos hsvn)))
    have hans := State.mboxAnswer_eq hm 0 (leBytes 4 s.sec.arb)
    obtain ⟨u, hdone, hsec, hreg, -⟩ := exec_mboxDone_effect
      (s := { s with sec := { s.sec with mbox := some ⟨0x21, 0, some (0, leBytes 4 s.sec.arb)⟩ } }) rfl rfl
    refine ⟨_, u, hexec, rfl, by rw [hans]; exact hdone, ?_, ?_, ?_⟩
    · rw [hsec]
      simp [fusesDone, Nat.not_lt.2 hsvn]
    · rw [hsec]
      simp [fusesDone, Nat.not_lt.2 hsvn]
    · rw [hreg]
      simp [leBytes, bitsOf]
  case raised =>
    let t : State := { s with sec := { s.sec with mbox := some ⟨0x21, 0, some (0, leBytes 4 s.sec.svn)⟩ } }
    have hexec : exec (.arbCommit true) s = .next t := by
      refine next_congr ((State.onMbox_new hm hh _).trans ((if_neg (by simp)).trans ((if_neg (Nat.not_le.2 hsvn)).trans ((if_pos rfl).trans ?_))))
      exact State.mboxAnswer_eq hm 0 (leBytes 4 s.sec.svn)
    obtain ⟨u, hdone, hsec, -⟩ := exec_mboxDone_effect (s := t) rfl rfl
    have hfuse : fusesDone t.sec ⟨0x21, 0, some (0, leBytes 4 s.sec.svn)⟩ 0 =
        { t.sec with arb := s.sec.svn, keyRevoke := s.sec.keyRevoke ||| revokeMask s.sec } :=
      (if_neg (by decide)).trans ((if_neg (by simp)).trans (if_pos ⟨rfl, hsvn⟩))
    refine ⟨t, u, hexec, rfl, hdone, ?_, ?_⟩ <;> rw [hsec, hfuse]
  case failed =>
    let u : State := { s.bumpFree with sec := { s.sec with
      arb := s.sec.arb + Config.freeNat s.own.freeCtr % (s.sec.svn - s.sec.arb + 1)
      keyRevoke := s.sec.keyRevoke ||| (revokeMask s.sec &&& Config.freeNat (s.own.freeCtr + 1)) } }
    have hexec : exec (.arbCommit false) s = .next (u.mboxAnswer 12 []) :=
      next_congr ((State.onMbox_new hm hh _).trans ((if_neg (by simp)).trans ((if_neg (Nat.not_le.2 hsvn)).trans (if_neg (by simp)))))
    have hmod := Nat.mod_lt (Config.freeNat s.own.freeCtr) (show 0 < s.sec.svn - s.sec.arb + 1 by omega)
    rw [State.mboxAnswer_eq (s := u) (m := ⟨0x21, 0, none⟩) hm] at hexec
    exact ⟨_, hexec, Nat.le_add_right .., by dsimp only [u]; omega, rfl⟩

end Sys2Proof.Machine
end

section
/-! PROOFS. Register reads (02), the random number generator and debug access (05). -/

namespace Sys2Proof.Machine

/-! ### Little-endian numbers -/

theorem leNat_lt (l : List Byte) : leNat l < 256 ^ l.length := by
  induction l with
  | nil => simp [leNat]
  | cons b t ih =>
    have hb := b.isLt
    rw [leNat, List.length_cons, Nat.pow_succ]
    omega

/-- Only the low `8 n` bits of a number stand in its `n` bytes. -/
theorem leBytes_mod (n x : Nat) : leBytes n (x % 256 ^ n) = leBytes n x := by
  induction n generalizing x with
  | zero => rfl
  | succ n ih =>
    rw [leBytes, leBytes, Nat.pow_succ, Nat.mul_comm, Nat.mod_mul_right_div_self, ih]
    congr 1
    apply BitVec.eq_of_toNat_eq
    simp

theorem leBytes_toNat_ofNat (x : Nat) : leBytes 4 (BitVec.ofNat 32 x).toNat = leBytes 4 x := leBytes_mod 4 x

/-! ### Reads (R54 to R59) -/

/-- What a page gives for a plain register of 32 bits, and what a read of an RC register does (R54, R56). -/
theorem State.readLoc_narrow {s : State} {l : Loc} {r : Row} {p : Nat} (ag : Agent) (avail : Bool) (hrow : l.row = some (r, p)) (hw : r.wide = false)
    (hwo : r.acc ≠ .wo) (he : l.expert = false) (hdm : l.pg ≠ .dbgDm) (hpk : l.pg ≠ .dbgPeek) (hh : ¬ (l.pg.hasHeader = true ∧ l.off < 0x100))
    (hf : s.freeBits l = 0) : s.readLoc ag l avail = (s.view l p, if r.acc = .rc then s.readClear l else s) := by
  unfold State.readLoc
  rw [if_neg hdm, if_neg hpk, if_neg hh, hrow]
  simp [hwo, he, hw, State.viewFree, hf]

/-- A read of the low word of a 64-bit register captures the high word for its agent (R58). -/
theorem State.readLoc_low {s : State} {l : Loc} {r : Row} (ag : Agent) (avail : Bool) (hrow : l.row = some (r, 0)) (hw : r.wide = true)
    (hwo : r.acc ≠ .wo) (he : l.expert = false) (hdm : l.pg ≠ .dbgDm) (hpk : l.pg ≠ .dbgPeek) (hh : ¬ (l.pg.hasHeader = true ∧ l.off < 0x100)) :
    s.readLoc ag l avail = ((s.wideValue l avail).1, { (s.wideValue l avail).2.2 with
      capture := tblPut (wideKey (l.base + l.off) ag) (BitVec.ofNat 32 (s.wideValue l avail).2.1) (s.wideValue l avail).2.2.capture }) := by
  unfold State.readLoc
  rw [if_neg hdm, if_neg hpk, if_neg hh, hrow]
  simp [hwo, he, hw]

/-- A read of the high word of a 64-bit register gives the word captured for its agent (R58). -/
theorem State.readLoc_high {s : State} {l : Loc} {r : Row} {v : W} (ag : Agent) (avail : Bool) (hrow : l.row = some (r, 1)) (hw : r.wide = true)
    (hwo : r.acc ≠ .wo) (he : l.expert = false) (hdm : l.pg ≠ .dbgDm) (hpk : l.pg ≠ .dbgPeek) (hh : ¬ (l.pg.hasHeader = true ∧ l.off < 0x100))
    (hc : tblFind (wideKey (l.base + (l.off - 4)) ag) s.capture = some v) :
    s.readLoc ag l avail = (v.toNat, { s with capture := tblErase (wideKey (l.base + (l.off - 4)) ag) s.capture }) := by
  unfold State.readLoc
  rw [if_neg hdm, if_neg hpk, if_neg hh, hrow]
  simp [hwo, he, hw, hc]

/-- An accepted 32-bit read answers what its page gives; in PARKED it leaves the state alone (R59, R126). -/
theorem State.regRead_go {s : State} {ag : Agent} {a : Nat} {l : Loc} (ha : a % 4 = 0) (hg : s.gate ag a false = .go l) (avail : Bool) :
    s.regRead ag a false avail =
      (if s.parked then s else (s.readLoc ag l avail).2).answer (leBytes 4 (s.readLoc ag l avail).1) 0 := by
  have ha4 : a / 4 * 4 = a := by omega
  unfold State.regRead
  rw [ha4, hg]
  by_cases hp : s.parked = true <;> simp [State.readWords, b2n, hg, hp]

/-- An accepted 64-bit read is two reads of its page, the second after the first. -/
theorem State.regRead_go_wide {s : State} {ag : Agent} {a : Nat} {l l' : Loc} {avail : Bool} (ha : a % 4 = 0) (hp : s.parked = false)
    (hg : s.gate ag a false = .go l) (hp' : (s.readLoc ag l avail).2.parked = false)
    (hg' : (s.readLoc ag l avail).2.gate ag (a + 4) false = .go l') :
    s.regRead ag a true avail = ((s.readLoc ag l avail).2.readLoc ag l' avail).2.answer
      (leBytes 4 (s.readLoc ag l avail).1 ++ leBytes 4 ((s.readLoc ag l avail).2.readLoc ag l' avail).1) 0 := by
  have ha4 : a / 4 * 4 = a := by omega
  unfold State.regRead
  rw [ha4, hg]
  simp [State.readWords, b2n, hg, hp, hp', hg']

theorem State.answer_readData (s : State) (d : List Byte) (c : Nat) : (s.answer d c).own.readData = d := rfl

/-- Settles O32. -/
theorem registerReadsAnswerTheirRegister : Obligations.RegisterReadsAnswerTheirRegister := by
  refine ⟨fun ag a av s l r ha hg hrow hw hacc he hdm hpk hh hf => ?plain, fun ag a av s l r ha hg hrow hw hacc he hl2 hdm hpk hh hf hp => ?clear,
    fun ag a wide av s ha hg => ?unmapped, fun ag a wide av s l ha hg => ?denied,
    fun ag a s l r ha hg hg' hrow hw hacc he hdm hpk hsec hh hrow' he' hp => ?split⟩
  case plain =>
    have hwo : r.acc ≠ .wo := by rcases hacc with h | h | h <;> simp [h]
    have hrc : r.acc ≠ .rc := by rcases hacc with h | h | h <;> simp [h]
    refine next_congr ((State.regRead_go ha hg av).trans ?_)
    rw [State.readLoc_narrow ag av hrow hw hwo he hdm hpk hh hf, if_neg hrc, ite_self]
  case clear =>
    have hexec : exec (.rcRegisterRead ag a false av) s = .next ((s.clearReg (l.base + l.off)).answer (leBytes 4 (s.view l 0)) 0) := by
      refine next_congr ((State.regRead_go ha hg av).trans ?_)
      rw [State.readLoc_narrow ag av hrow hw (by simp [hacc]) he hdm hpk hh hf, if_pos hacc, State.parked_eq_false hp]
      simp [State.readClear, hl2]
    refine ⟨_, hexec, rfl, ?_⟩
    change tblGet _ _ (tblErase _ _) = _
    rw [tblGet, tblFind_tblErase, if_neg (by simp [capKey])]
    exact (State.setReg_reg ..).trans (if_pos rfl)
  case unmapped =>
    have ha4 : a / 4 * 4 = a := by omega
    change Host.Outcome.next (s.regRead ag a wide av) = _
    unfold State.regRead
    rw [ha4, hg]
    cases wide <;> rfl
  case denied =>
    have ha4 : a / 4 * 4 = a := by omega
    change Host.Outcome.next (s.regRead ag a wide av) = _
    unfold State.regRead
    rw [ha4, hg]
    cases wide <;> rfl
  case split =>
    have hwo : r.acc ≠ .wo := by rcases hacc with h | h <;> simp [h]
    have hval : s.wideValue l true = (s.view l 0, s.view l 1, s) := if_neg fun h => hsec h.1
    let k := wideKey (l.base + l.off) ag
    let t : State := ({ s with capture := tblPut k (BitVec.ofNat 32 (s.view l 1)) s.capture } : State).answer (leBytes 4 (s.view l 0)) 0
    have hexec : exec (.split64bitRead ag a) s = .next t := by
      refine next_congr ((State.regRead_go ha hg true).trans ?_)
      rw [State.readLoc_low ag true hrow hw hwo he hdm hpk hh, State.parked_eq_false hp, hval]
      rfl
    let l' : Loc := { l with off := l.off + 4 }
    have hgt : t.gate ag (a + 4) false = .go l' := hg'
    have hpt : t.parked = false := State.parked_eq_false hp
    have hh' : ¬ (l'.pg.hasHeader = true ∧ l'.off < 0x100) := fun h => hh ⟨h.1, by have := h.2; dsimp only [l'] at this; omega⟩
    have hcap : tblFind (wideKey (l'.base + (l'.off - 4)) ag) t.capture = some (BitVec.ofNat 32 (s.view l 1)) := by
      change tblFind (wideKey (l.base + (l.off + 4 - 4)) ag) (tblPut k _ s.capture) = _
      rw [Nat.add_sub_cancel, tblFind_tblPut, if_pos rfl]
    have hread := State.readLoc_high (s := t) ag true hrow' hw hwo he' hdm hpk hh' hcap
    refine ⟨t, _, hexec, rfl, rfl, next_congr (State.regRead_go (by omega) hgt true), ?_, ?_⟩
    · rw [State.answer_readData, hread, leBytes_toNat_ofNat]
    · rw [hread, hpt]
      rfl

/-! ### The random number generator (R222 to R225, R236) -/

/-- A change of the generator's state keeps all but what its interrupt reaches. -/
theorem State.setRng_eq (s : State) (st : Nat) : Signals { s with sec := { s.sec with rng := st } } (s.setRng st) ∧ (s.setRng st).fcol = s.fcol := by
  unfold State.setRng
  split
  case isTrue h =>
    subst h
    exact ⟨.refl s, rfl⟩
  case isFalse => exact ⟨State.cause_signals .., (congrArg State.fcol (State.causes_hostSide ..)).trans rfl⟩

/-- RNG_DATA: a read-only register of 64 bits at 0x110 of its page. -/
theorem rngData_row {unit base region : Nat} :
    (⟨.secMbox, unit, base, 0x110, region⟩ : Loc).row = some (⟨0x110, 1, 4, .ro, 0, .immediate, 0, false, true⟩, 0) ∧
    (⟨.secMbox, unit, base, 0x114, region⟩ : Loc).row = some (⟨0x110, 1, 4, .ro, 0, .immediate, 0, false, true⟩, 1) := by
  have hrows : findRow 0x110 rowsSecMbox = some (⟨0x110, 1, 4, .ro, 0, .immediate, 0, false, true⟩, 0) ∧
      findRow 0x114 rowsSecMbox = some (⟨0x110, 1, 4, .ro, 0, .immediate, 0, false, true⟩, 1) := by decide
  exact hrows

/-- A 64-bit read of RNG_DATA gives what the generator has, and draws it once (R236). -/
theorem State.regRead_rngData {s : State} {l : Loc} {ag : Agent} {avail : Bool} (hg : s.gate ag 0x6110 false = .go l)
    (hg' : s.gate ag 0x6114 false = .go { l with off := 0x114 }) (ho : l.off = 0x110) (hpg : l.pg = .secMbox) (hp : s.pw.stage ≠ .parked) :
    (s.regRead ag 0x6110 true avail).own.readData = leBytes 4 (s.rngData avail).1 ++ leBytes 4 ((s.rngData avail).1 / 2 ^ 32) ∧
    (s.regRead ag 0x6110 true avail).own.cpl = 0 ∧ (s.regRead ag 0x6110 true avail).sec = (s.rngData avail).2.sec := by
  obtain ⟨pg, unit, base, off, region⟩ := l
  subst ho hpg
  let l : Loc := ⟨.secMbox, unit, base, 0x110, region⟩
  have hval : s.wideValue ⟨.secMbox, unit, base, 0x110, region⟩ avail =
      (half (s.rngData avail).1 0, half (s.rngData avail).1 1, (s.rngData avail).2) := if_pos ⟨rfl, rfl⟩
  have hsame : (s.rngData avail).2 = { s with
      own := (s.rngData avail).2.own, sec := { s.sec with drbgCount := (s.rngData avail).2.sec.drbgCount } } := by
    unfold State.rngData
    split <;> rfl
  have hread := State.readLoc_low (s := s) (l := ⟨.secMbox, unit, base, 0x110, region⟩) ag avail rngData_row.1 rfl (by decide) rfl (by simp)
    (by simp) (by simp)
  rw [hval] at hread
  generalize s.rngData avail = d at hread hsame
  obtain ⟨v, u⟩ := d
  dsimp only at hread hsame
  have hgate : (s.readLoc ag ⟨.secMbox, unit, base, 0x110, region⟩ avail).2.gate ag 0x6114 false = .go ⟨.secMbox, unit, base, 0x114, region⟩ := by
    rw [hread, hsame]
    exact hg'
  have hparked : (s.readLoc ag ⟨.secMbox, unit, base, 0x110, region⟩ avail).2.parked = false := by
    rw [hread, hsame]
    exact State.parked_eq_false hp
  rw [State.regRead_go_wide (by decide) (State.parked_eq_false hp) hg hparked hgate, hread]
  have hhigh := State.readLoc_high (s := { u with capture := tblPut (wideKey (base + 0x110) ag) (BitVec.ofNat 32 (half v 1)) u.capture })
    (l := ⟨.secMbox, unit, base, 0x114, region⟩) ag avail rngData_row.2 rfl (by decide) rfl (by simp) (by simp) (by simp)
    ((tblFind_tblPut ..).trans (if_pos rfl))
  rw [hhigh]
  refine ⟨?_, rfl, rfl⟩
  rw [State.answer_readData, leBytes_toNat_ofNat]
  exact congrArg₂ (· ++ ·) (leBytes_mod 4 v) (leBytes_mod 4 (v / 2 ^ 32))

/-- Settles O29. -/
theorem randomNumberGeneratorStopsOnFailure : Obligations.RandomNumberGeneratorStopsOnFailure := by
  refine ⟨fun s hr hc => ?reseed, fun s hr hroom => ?health, fun s l ag avail hg hg' ho hpg hp hno => ?none, fun s l ag hg hg' ho hpg hp hr => ?valid⟩
  case reseed => exact next_congr (if_pos ⟨hr, hc⟩)
  case health =>
    let a : State := { s with sec := { s.sec with rngFails := min 255 (s.sec.rngFails + 1), rngRerun := true } }
    let b := a.setRng (if s.sec.rngRerun then 3 else 1)
    obtain ⟨hb, hfcol⟩ := a.setRng_eq (if s.sec.rngRerun then 3 else 1)
    have hraise : Signals b (b.raise 0x0901 .device none 0x6000 0) := State.raise_signals ..
    have hexec : exec .rngHealthFail s = .next (b.raise 0x0901 .device none 0x6000 0) :=
      next_congr (if_neg (by rcases hr with h | h <;> simp [h]))
    obtain ⟨f, hf, hcode, hgtime⟩ := State.raise_mem_inq_of_room (s := b) (by rw [hfcol]; exact hroom) 0x0901 .device none 0x6000 0
    have hs := hb.trans hraise
    exact ⟨_, hexec, hs.sec, ⟨f, hf, hcode, by rw [hgtime, hb.ck]⟩, hs.pw, hs.sameMem⟩
  case none =>
    obtain ⟨hdata, hcpl, hsec⟩ := State.regRead_rngData (avail := avail) hg hg' ho hpg hp
    have hrng : s.rngData avail = (0, s) := if_neg (by simpa [imp_iff_not_or] using hno)
    rw [hrng] at hdata hsec
    exact ⟨_, rfl, hdata.trans (by dsimp only; decide), hcpl, hsec⟩
  case valid =>
    obtain ⟨hdata, -, hsec⟩ := State.regRead_rngData (avail := true) hg hg' ho hpg hp
    have hrng : s.rngData true = (leNat (s.generate 4).1 + 2 ^ 32, (s.generate 4).2) := if_pos ⟨hr, rfl⟩
    have hlt : leNat (s.generate 4).1 < 256 ^ 4 := (leNat_lt _).trans_eq (by simp [State.generate])
    rw [hrng] at hdata hsec
    refine ⟨_, rfl, hdata.trans ?_, hsec⟩
    have hlow := leBytes_mod 4 (leNat (s.generate 4).1 + 256 ^ 4)
    rw [Nat.add_mod_right, leBytes_mod] at hlow
    have hhigh : (leNat (s.generate 4).1 + 256 ^ 4) / 256 ^ 4 = 1 := by omega
    exact congrArg₂ (· ++ ·) hlow.symm (congrArg (leBytes 4) hhigh)

/-! ### Debug access (R210 to R216) -/

/-- Settles O30. -/
theorem debugOpensOnlyByAnAcceptedToken : Obligations.DebugOpensOnlyByAnAcceptedToken := by
  refine ⟨fun s m k o hm hc ha hh hd => ?disabled, fun s k o hm hh hd hr hok => ?wrong, fun s k o hm hh hd hr hroom hok => ?accepted,
    fun s l ag off len pa ho hg hp hpa hpo hfl => ?peek, fun s l ag off pa bs ho hg hpa => ?poke, fun s ag off len ho hg => ?closed,
    fun s addr wr hd => ?bypass, fun s c w h1 h2 hp hc hact => ?dmi⟩
  case disabled =>
    have htake := State.onMbox_eq hm ha hh
    rw [hc] at htake
    exact next_congr ((htake _).trans (if_pos hd))
  case wrong =>
    let u : State := { s with sec := { s.sec with nonce := none } }
    have hexec : exec (.debugUnlock k o) s = .next (u.mboxAnswer 13 []) :=
      next_congr ((State.onMbox_new hm hh _).trans ((if_neg (by simp [hd])).trans ((if_neg (by simp)).trans ((if_neg hr).trans
        (if_pos (by simp [hok]))))))
    rw [State.mboxAnswer_eq (s := u) (m := ⟨0x11, 256, none⟩) hm] at hexec
    exact hexec
  case accepted =>
    let t := s.mboxReq 256
    let u : State := { s with sec := { s.sec with nonce := none, dbgScope := leNat (bytesAt t 4 4) % 8 + 8, dbgSlot := leNat (bytesAt t 0x30 1) } }
    let v := u.extend 6 (bytesAt t 0 0x40)
    have hexec : exec (.debugUnlock k o) s = .next ((v.raise 0x0902 .device none 0x6000 0).mboxAnswer 0 []) :=
      next_congr ((State.onMbox_new hm hh _).trans ((if_neg (by simp [hd])).trans ((if_neg (by simp)).trans ((if_neg hr).trans
        (if_neg (by simp [hok]))))))
    obtain ⟨f, hf, hcode, -⟩ := State.raise_mem_inq_of_room (s := v) hroom 0x0902 .device none 0x6000 0
    have hs : Signals v (v.raise 0x0902 .device none 0x6000 0) := State.raise_signals ..
    generalize v.raise 0x0902 .device none 0x6000 0 = w at hexec hf hs
    have hmb : w.sec.mbox = some ⟨0x11, 256, none⟩ := (congrArg Sec.mbox hs.sec).trans hm
    rw [State.mboxAnswer_eq hmb] at hexec
    exact ⟨_, hexec, congrArg Sec.nonce hs.sec, congrArg Sec.dbgScope hs.sec, rfl, ⟨f, hf, hcode⟩, (congrArg Sec.arb hs.sec :), hs.pw, hs.sameMem⟩
  case peek =>
    have hno : s.peekRead off len none = (s.memBytes pa len, s) := by
      unfold State.peekRead
      rw [hpa]
      simp [hfl, hpo, State.eccFind]
    refine next_congr ((if_neg (by dsimp only; omega)).trans ?_)
    simp only [Option.isSome_none, hg, State.parked_eq_false hp, hno]
    rfl
  case poke =>
    refine next_congr ((if_neg (by dsimp only; omega)).trans ?_)
    simp only [Option.isSome_some, hg, State.peekWrite, hpa]
  case closed =>
    refine next_congr ((if_neg (by dsimp only; omega)).trans ?_)
    simp only [Option.isSome_none, hg]
  case bypass => exact next_congr (if_pos (by simp [hd]))
  case dmi =>
    have hdiv : (128 * c + 4) / 128 = c := by omega
    have hmod : (128 * c + 4) % 128 = 4 := by omega
    have hlast : ¬ 18 < c := by omega
    have hgo1 : ¬ (!s.dbgOpen 1) = true := by simp [h1]
    have hgo2 : ¬ ((!s.dbgOpen 2) = true ∨ s.parked = true) := by simp [h2, State.parked_eq_false hp]
    have hw : s.dmWrite c 4 w = s.setDm c { s.dm c with data0 := w } := by simp [State.dmWrite, hlast, hact]
    have hr : s.dmRead c 4 = (s.dm c).data0.toNat := by simp [State.dmRead, hlast, hact]
    refine ⟨next_congr ((if_neg hgo1).trans ((if_neg hgo2).trans ?_)), next_congr ((if_neg hgo1).trans ((if_neg hgo2).trans ?_))⟩
    · dsimp only
      rw [hdiv, hmod, hw]
    · dsimp only
      rw [hdiv, hmod, hr]

end Sys2Proof.Machine
end

section
/-! PROOFS. Register writes and select registers (02). -/

namespace Sys2Proof.Machine

/-! ### The checks of a write -/

/-- An access that reaches a page has an offset of its agent. -/
theorem State.accessAddr_of_gate {s : State} {ag : Agent} {o : Nat} {w : Bool} {l : Loc} (h : s.gate ag o w = .go l) :
    ∃ b, accessAddr ag o = some b := by
  unfold State.gate at h
  split at h
  · simp at h
  · rename_i b hb
    exact ⟨b, hb⟩

/-- A 32-bit write with every byte enabled that reaches a page is one of that page, at the address its agent names. -/
theorem State.regWrite_go {s : State} {ag : Agent} {o b : Nat} {l : Loc} (hg : s.gate ag o true = .go l) (hb : accessAddr ag o = some b) (v : Nat) :
    s.regWrite ag o v 15 false = s.writeLoc ag b l (v % 2 ^ 32) := by
  simp only [State.regWrite, State.regWrite32, hg, hb]
  rfl

/-- A write of a page below its header region, of a register of 32 bits that agents may write. -/
theorem State.writeLoc_row {s : State} {l : Loc} {r : Row} {p : Nat} (ag : Agent) (a v : Nat) (hrow : l.row = some (r, p)) (hw : r.wide = false)
    (hacc : r.acc = .rw ∨ r.acc = .wo ∨ r.acc = .w1s ∨ r.acc = .w1c) (hh : ¬ (l.pg.hasHeader = true ∧ l.off < 0x100)) :
    s.writeLoc ag a l v = s.writeRow ag a l r v := by
  have hdm : l.pg ≠ .dbgDm := fun h => by simp [Loc.row, h, rowsOf, findRow] at hrow
  have hpk : l.pg ≠ .dbgPeek := fun h => by simp [Loc.row, h, rowsOf, findRow] at hrow
  unfold State.writeLoc
  rw [if_neg hdm, if_neg hpk, if_neg hh, hrow]
  rcases hacc with h | h | h | h <;> simp [h, hw]

/-- A locked register takes no write (R40, R76). -/
theorem State.writeRow_locked {s : State} {l : Loc} {r : Row} (ag : Agent) (a v : Nat) (hacc : r.acc = .rw) (hlock : s.rowLocked l r = true) :
    s.writeRow ag a l r v = s.lockViol a l.page (rowCode l r) ag := by
  unfold State.writeRow
  simp [hacc, hlock]

/-- A register that nothing locks or holds back takes its fields. -/
theorem State.writeRow_accept {s : State} {l : Loc} {r : Row} {v : Nat} (ag : Agent) (a : Nat) (hw : r.wide = false)
    (hone : r.acc = .w1s → v &&& r.mask ≠ 0) (hlock : s.rowLocked l r = false) (henc : reservedEnc l.pg l.off (v &&& r.mask) = false)
    (he : l.expert = false) (hheld : s.rowHeld l r = false) : s.writeRow ag a l r v = s.applyWrite ag a l r (v &&& r.mask) := by
  have hone' : ¬ (r.acc = .w1s ∧ v &&& r.mask = 0) := fun h => hone h.1 h.2
  unfold State.writeRow
  simp [hw, hone', hlock, henc, he, hheld]

/-- A 32-bit write that passes every check of its page. -/
theorem State.regWrite_reaches {s : State} {ag : Agent} {o v : Nat} {l : Loc} {r : Row} {x : Nat} (h : Claims.reachesRow s ag o v l r x)
    (hone : r.acc = .w1s → x ≠ 0) : ∃ b, accessAddr ag o = some b ∧ s.regWrite ag o v 15 false = s.applyWrite ag b l r x := by
  obtain ⟨hg, hrow, hw, hacc, hlock, hheld, he, henc, rfl, hh⟩ := h
  obtain ⟨b, hb⟩ := State.accessAddr_of_gate hg
  refine ⟨b, hb, ?_⟩
  rw [State.regWrite_go hg hb, State.writeLoc_row ag b _ hrow hw (by tauto) hh, State.writeRow_accept ag b hw hone hlock henc he hheld]

/-- Pages whose registers only take what is written. -/
theorem State.applyWrite_store {s : State} {l : Loc} (ag : Agent) (a : Nat) (r : Row) (v : Nat)
    (h : l.pg ∉ [Pg.reset, .secMbox, .beacon, .brn, .logtrace, .fcol, .scan, .head, .dp, .msix]) : s.applyWrite ag a l r v = s.store l r v := by
  unfold State.applyWrite
  split <;> simp_all

theorem State.store_plain {s : State} {l : Loc} {r : Row} (v : Nat) (hlatch : s.latchLive l r = false) (he : l.expert = false) :
    s.store l r v = s.setReg (l.base + l.off) (BitVec.ofNat 32 (v &&& r.mask)) := by
  unfold State.store
  simp [hlatch, he]

theorem ofNat_mod_and (v m : Nat) : BitVec.ofNat 32 (v % 2 ^ 32 &&& m &&& m) = BitVec.ofNat 32 (v &&& m) := by
  apply BitVec.eq_of_toNat_eq
  simp only [BitVec.toNat_ofNat, Nat.and_assoc, Nat.and_self]
  rw [Nat.and_mod_two_pow, Nat.and_mod_two_pow, Nat.mod_mod]

theorem exec_registerWrite {a : Nat} (ha : a % 4 = 0) (ag : Agent) (be : Nat) (v : BitVec 64) (wide : Bool) (s : State) :
    exec (.registerWrite ag a be v wide) s = .next (s.regWrite ag a v.toNat be wide) := by
  have ha4 : a / 4 * 4 = a := by omega
  change Host.Outcome.next (s.regWrite ag (a / 4 * 4) v.toNat be wide) = _
  rw [ha4]

/-- Settles O31. -/
theorem registerWritesAreCheckedThenStored : Obligations.RegisterWritesAreCheckedThenStored := by
  refine ⟨fun ag a v s l r ha hg hplain => ?stored, fun ag a v s l r ha hg hrow hacc hw hlock hdm hpk hh => ?locked, fun ag a be v s l ha hg h0 h15 hreg hpk => ?part,
    fun ag a be v s ha hg h0 h15 => ?unmapped, fun ag a v s l ha hg => ?denied, fun ag a be v wide s ha hg => ?quiet⟩
  all_goals rw [exec_registerWrite ha]
  case stored =>
    obtain ⟨hrow, hacc, hw, hlock, henc, he, hheld, hlatch, hpg, hh⟩ := hplain
    obtain ⟨b, -, hwrite⟩ := State.regWrite_reaches ⟨hg, hrow, hw, .inl hacc, hlock, hheld, he, henc, rfl, hh⟩ (by simp [hacc])
    rw [hwrite, State.applyWrite_store ag b r _ (by simp_all), State.store_plain _ hlatch he, ofNat_mod_and]
  case locked =>
    obtain ⟨b, hb⟩ := State.accessAddr_of_gate hg
    refine ⟨b, ?_, hb⟩
    rw [State.regWrite_go hg hb, State.writeLoc_row ag b _ hrow hw (.inl hacc) hh, State.writeRow_locked ag b _ hacc hlock]
  case part =>
    have hbe : be % 16 = be := by omega
    refine next_congr ?_
    simp only [State.regWrite, State.regWrite32, Bool.not_false, if_true, hbe, hg]
    rw [if_neg (by omega), if_neg (by simp [hreg]; omega), if_neg hpk]
    rfl
  case unmapped =>
    have hbe : be % 16 ≠ 0 := by omega
    refine next_congr ?_
    simp only [State.regWrite, State.regWrite32, Bool.not_false, if_true, hg]
    exact if_neg hbe
  case denied =>
    refine next_congr ?_
    simp only [State.regWrite, State.regWrite32, Bool.not_false, if_true, hg]
  case quiet =>
    refine next_congr ?_
    cases wide <;> simp [State.regWrite, State.regWrite32, hg]

/-! ### Select registers -/

/-- A device whose VF 1 may use its own window, as a state: powered, out of reset, its access table set up. -/
def vfWindowState : State :=
  { State.reset with
    pw := { powerReset with railsUp := true, perst := false }
    pcie := { pcieReset with linkUp := true, vfEn := true, numVfs := 1, vfMse := true }
    insts := [(1, { instReset 1 with st := .active })]
    regs := [(0x4100, 1), (0x42BC, 8)] }

theorem vfWindowState_gate : vfWindowState.gate ⟨1, 1⟩ 0xB108 true = .go ⟨.rsvd, 1, 0x10015000, 0x6108, 47⟩ := by decide

/-- Refutes O34: a VF's agent counts offsets in its own INSTANCE window, so at 0xB108 a write of VF 1 reaches a reserved part of that
window and LOG_SEL stays. -/
theorem not_selectRegistersNameAnEntry : ¬ Obligations.SelectRegistersNameAnEntry := by
  intro h
  have hclaim := h.1 ⟨1, 1⟩ 1 vfWindowState _ vfWindowState_gate rfl
  have hexec : exec (.logSelWrite ⟨1, 1⟩ 1) vfWindowState = .next vfWindowState :=
    next_congr (State.regWrite_go vfWindowState_gate rfl 1)
  rw [hexec] at hclaim
  have hreg : vfWindowState.reg 0xB108 = 1 :=
    (congrArg (State.reg · 0xB108) (Host.Outcome.next.inj hclaim)).trans
      ((vfWindowState.setReg_reg 0xB108 0xB108 1 :).trans (if_pos rfl))
  exact absurd hreg (by decide)

end Sys2Proof.Machine
end

section
/-! PROOFS. The common header of pages (02, R30 to R49). -/

namespace Sys2Proof.Machine

/-! ### Fields of a word -/

theorem setField_toNat (w : W) {lo n : Nat} (h : lo + n ≤ 32) (v : Nat) :
    (setField w lo n v).toNat = 2 ^ lo * (2 ^ n * (w.toNat / 2 ^ (lo + n)) + v % 2 ^ n) + w.toNat % 2 ^ lo := by
  have hw := w.isLt
  have hlo : w.toNat % 2 ^ lo < 2 ^ lo := Nat.mod_lt _ (Nat.two_pow_pos lo)
  have hv : v % 2 ^ n < 2 ^ n := Nat.mod_lt _ (Nat.two_pow_pos n)
  have hsplit : 2 ^ 32 = 2 ^ lo * (2 ^ n * 2 ^ (32 - (lo + n))) := by
    rw [← Nat.pow_add, ← Nat.pow_add]
    congr 1
    omega
  have hhigh : w.toNat / 2 ^ (lo + n) < 2 ^ (32 - (lo + n)) := by
    rw [Nat.div_lt_iff_lt_mul (Nat.two_pow_pos _), ← Nat.pow_add, show 32 - (lo + n) + (lo + n) = 32 by omega]
    exact hw
  have hmid : 2 ^ n * (w.toNat / 2 ^ (lo + n)) + v % 2 ^ n < 2 ^ n * 2 ^ (32 - (lo + n)) :=
    calc 2 ^ n * (w.toNat / 2 ^ (lo + n)) + v % 2 ^ n < 2 ^ n * (w.toNat / 2 ^ (lo + n)) + 2 ^ n := Nat.add_lt_add_left hv _
      _ = 2 ^ n * (w.toNat / 2 ^ (lo + n) + 1) := by rw [Nat.mul_succ]
      _ ≤ 2 ^ n * 2 ^ (32 - (lo + n)) := Nat.mul_le_mul_left _ hhigh
  have hall : 2 ^ lo * (2 ^ n * (w.toNat / 2 ^ (lo + n)) + v % 2 ^ n) + w.toNat % 2 ^ lo < 2 ^ 32 :=
    calc _ < 2 ^ lo * (2 ^ n * (w.toNat / 2 ^ (lo + n)) + v % 2 ^ n) + 2 ^ lo := Nat.add_lt_add_left hlo _
      _ = 2 ^ lo * (2 ^ n * (w.toNat / 2 ^ (lo + n)) + v % 2 ^ n + 1) := by rw [Nat.mul_succ]
      _ ≤ 2 ^ lo * (2 ^ n * 2 ^ (32 - (lo + n))) := Nat.mul_le_mul_left _ hmid
      _ = 2 ^ 32 := hsplit.symm
  rw [setField, BitVec.toNat_ofNat, ← Nat.mod_eq_of_lt hall, Nat.pow_add]
  congr 1
  ring

/-- The bits of a word after one of its fields was replaced. -/
theorem bitOf_setField (w : W) {lo n : Nat} (h : lo + n ≤ 32) (v i : Nat) :
    bitOf (setField w lo n v).toNat i = if lo ≤ i ∧ i < lo + n then bitOf v (i - lo) else bitOf w.toNat i := by
  have hlo : w.toNat % 2 ^ lo < 2 ^ lo := Nat.mod_lt _ (Nat.two_pow_pos lo)
  have hv : v % 2 ^ n < 2 ^ n := Nat.mod_lt _ (Nat.two_pow_pos n)
  rw [bitOf_eq_testBit, bitOf_eq_testBit, bitOf_eq_testBit, setField_toNat w h, Nat.testBit_two_pow_mul_add _ hlo, Nat.testBit_mod_two_pow]
  by_cases hi : i < lo
  · simp [hi, show ¬ (lo ≤ i ∧ i < lo + n) by omega]
  · rw [if_neg hi, Nat.testBit_two_pow_mul_add _ hv, Nat.testBit_mod_two_pow]
    by_cases hin : i - lo < n
    · simp [hin, show lo ≤ i ∧ i < lo + n by omega]
    · rw [if_neg hin, if_neg (by omega), Nat.testBit_div_two_pow, show i - lo - n + (lo + n) = i by omega]

/-! ### Where pages with a header lie -/

theorem locateInst_base (k o : Nat) : (locateInst k o).pg.hasHeader = false ∨ (locateInst k o).base % 0x1000 = 0 := by
  unfold locateInst instWin
  dsimp only
  split_ifs <;> simp [Pg.hasHeader] <;> omega

theorem blockPage_base (blk o : Nat) : (blockPage blk o).pg.hasHeader = false ∨ (blockPage blk o).base % 0x1000 = 0 := by
  have hblk : 0x10000 * blk % 0x1000 = 0 := by omega
  unfold blockPage
  dsimp only
  split
  case h_2 => exact .inl rfl
  all_goals split_ifs <;> simp [Pg.hasHeader] <;> omega

/-- What a chain of choices yields is one of its choices. -/
theorem of_ite_eq_some {α : Type} {P c : Prop} [Decidable c] {x y : Option α} {l : α} (h : (if c then x else y) = some l)
    (hx : x = some l → P) (hy : y = some l → P) : P := by
  split at h
  · exact hx h
  · exact hy h

/-- A page with a header lies at a multiple of its size. -/
theorem locate_base {a : Nat} {l : Loc} (h : locate a = some l) (hh : l.pg.hasHeader = true) : l.base % 0x1000 = 0 := by
  have hsome {x : Loc} (hx : x.pg.hasHeader = false ∨ x.base % 0x1000 = 0) (hl : some x = some l) :
      l.pg.hasHeader = false ∨ l.base % 0x1000 = 0 := Option.some.inj hl ▸ hx
  have hnone (hl : (none : Option Loc) = some l) : l.pg.hasHeader = false ∨ l.base % 0x1000 = 0 := by simp at hl
  have hmul (n : Nat) : 0x1000 * n % 0x1000 = 0 := Nat.mul_mod_right ..
  have hor : l.pg.hasHeader = false ∨ l.base % 0x1000 = 0 := by
    unfold locate at h
    refine of_ite_eq_some h (hsome (.inr (hmul _))) fun h => ?_
    refine of_ite_eq_some h hnone fun h => ?_
    refine of_ite_eq_some h (hsome (.inr (hmul _))) fun h => ?_
    refine of_ite_eq_some h hnone fun h => ?_
    refine of_ite_eq_some h (hsome (.inr (by norm_num))) fun h => ?_
    refine of_ite_eq_some h hnone fun h => ?_
    refine of_ite_eq_some h (hsome (.inl rfl)) fun h => ?_
    refine of_ite_eq_some h hnone fun h => ?_
    refine of_ite_eq_some h (hsome (.inr (hmul _))) fun h => ?_
    refine of_ite_eq_some h (hsome (blockPage_base ..)) fun h => ?_
    refine of_ite_eq_some h (hsome (.inl (by split_ifs <;> rfl))) fun h => ?_
    refine of_ite_eq_some h (hsome (locateInst_base ..)) fun h => ?_
    exact of_ite_eq_some h (hsome (locateInst_base ..)) hnone
  simpa [hh] using hor

theorem State.gate_base {s : State} {ag : Agent} {o : Nat} {w : Bool} {l : Loc} (h : s.gate ag o w = .go l) (hh : l.pg.hasHeader = true) :
    l.base % 0x1000 = 0 := by
  have hloc : ∃ a, locate a = some l := by
    unfold State.gate at h
    repeat' split at h
    all_goals simp at h
    all_goals
      subst h
      exact ⟨_, by assumption⟩
  obtain ⟨a, ha⟩ := hloc
  exact locate_base ha hh

/-! ### Registers, levels and busy pages -/

/-- Between `s` and `t` only stored, held and latched register values may differ. -/
def RegSide (s t : State) : Prop := t = { s with regs := t.regs, expert := t.expert, effect := t.effect }

theorem RegSide.refl (s : State) : RegSide s s := rfl

theorem RegSide.trans {s t u : State} (h : RegSide s t) (k : RegSide t u) : RegSide s u := by
  unfold RegSide at h k ⊢
  rw [k, h]

theorem RegSide.foldl {α : Type} {f : State → α → State} (hf : ∀ a x, RegSide a (f a x)) (l : List α) (s : State) :
    RegSide s (l.foldl f s) := by
  induction l generalizing s with
  | nil => exact .refl s
  | cons x l ih => exact (hf s x).trans (ih (f s x))

theorem State.holdEffect_regSide (s : State) (a : Nat) : RegSide s (s.holdEffect a) := by
  unfold State.holdEffect
  split <;> rfl

theorem State.holdEffect_regs (s : State) (a : Nat) : (s.holdEffect a).regs = s.regs := by
  unfold State.holdEffect
  split <;> rfl

theorem State.store_regSide (s : State) (l : Loc) (r : Row) (v : Nat) : RegSide s (s.store l r v) := by
  have hhold : RegSide s (if s.latchLive l r then s.holdEffect (l.base + l.off) else s) := by
    split
    · exact s.holdEffect_regSide _
    · exact .refl s
  unfold State.store
  dsimp only
  generalize (if s.latchLive l r then s.holdEffect (l.base + l.off) else s) = u at hhold ⊢
  split <;> exact hhold.trans rfl

theorem State.levelUp_regSide (s : State) (base : Nat) : RegSide s (s.levelUp base) := by
  refine RegSide.foldl (fun u e => ?_) _ s
  dsimp only
  split
  · split
    · exact u.store_regSide ..
    · exact .refl u
  · exact .refl u

/-- What LEVEL's clearing does for one stored register: a LAUNCH or FRAME field waits for its event. -/
def State.holdLatched (s : State) (e : Nat × W) : State :=
  match locate e.1 with
  | some l => (match l.row with | some (r, _) => if s.latchLive l r then s.holdEffect e.1 else s | none => s)
  | none => s

theorem State.levelDown_eq (s : State) (base : Nat) : s.levelDown base =
    { (s.regs.filter fun (a, _) => inExpert base a).foldl State.holdLatched s with
      regs := ((s.regs.filter fun (a, _) => inExpert base a).foldl State.holdLatched s).regs.filter fun e => !inExpert base e.1 } := rfl

theorem State.holdLatched_frame (s : State) (e : Nat × W) : RegSide s (s.holdLatched e) ∧ (s.holdLatched e).regs = s.regs := by
  unfold State.holdLatched
  split
  · split
    · split
      · exact ⟨s.holdEffect_regSide _, s.holdEffect_regs _⟩
      · exact ⟨.refl s, rfl⟩
    · exact ⟨.refl s, rfl⟩
  · exact ⟨.refl s, rfl⟩

/-- The clearing of LEVEL returns the expert region to its reset values and leaves every other register (R49). -/
theorem State.levelDown_frame (s : State) (base : Nat) :
    RegSide s (s.levelDown base) ∧ (s.levelDown base).regs = s.regs.filter fun e => !inExpert base e.1 := by
  have hall (l : List (Nat × W)) (u : State) : RegSide u (l.foldl State.holdLatched u) ∧ (l.foldl State.holdLatched u).regs = u.regs := by
    induction l generalizing u with
    | nil => exact ⟨.refl u, rfl⟩
    | cons e l ih =>
      obtain ⟨h1, h2⟩ := u.holdLatched_frame e
      obtain ⟨h3, h4⟩ := ih (u.holdLatched e)
      exact ⟨h1.trans h3, h4.trans h2⟩
  obtain ⟨h1, h2⟩ := hall (s.regs.filter fun (a, _) => inExpert base a) s
  rw [State.levelDown_eq]
  exact ⟨h1.trans rfl, congrArg _ h2⟩

theorem tblFind_filter_key_out {β : Type} {p : Nat → Bool} {a : Nat} (h : p a = false) (t : Tbl β) :
    tblFind a (t.filter fun e => p e.1) = none := by
  induction t with
  | nil => rfl
  | cons e t ih =>
    obtain ⟨k, v⟩ := e
    by_cases hk : k = a
    · subst hk
      simp [h, ih]
    · rw [List.filter_cons]
      split <;> simp [tblFind, hk, ih]

theorem State.levelDown_reg (s : State) (base a : Nat) :
    (s.levelDown base).reg a = if inExpert base a then regResetOf a else s.reg a := by
  unfold State.reg tblGet
  rw [(s.levelDown_frame base).2]
  split
  case isTrue h => rw [tblFind_filter_key_out (p := fun a => !inExpert base a) (by simp [h])]; rfl
  case isFalse h => rw [tblFind_filter_key (p := fun a => !inExpert base a) (by simp [h])]

/-! ### A write of BLK_CTRL (R34 to R49) -/

/-- The LEVEL part of a write of BLK_CTRL. -/
def State.levelWrite (s : State) (l : Loc) (v : Nat) : State :=
  let up := bitOf v 2 && !l.pg.isInst
  let u := s.setReg (l.base + 8) (setField (s.reg (l.base + 8)) 2 1 (b2n up))
  if up && !s.levelOf l.base then u.levelUp l.base else if s.levelOf l.base && !up then u.levelDown l.base else u

/-- The TEST_MODE part. -/
def State.testWrite (s : State) (l : Loc) (v : Nat) : State :=
  let u := s.setReg (l.base + 8) (setField (s.reg (l.base + 8)) 3 1 (bitsOf v 3 1))
  if bitOf v 3 then u else u.setReg (aInject l.base) (setField (u.reg (aInject l.base)) 16 1 0)

/-- The ENABLE part. -/
def State.enableWrite (s : State) (ag : Agent) (l : Loc) (v : Nat) : State :=
  match l.pg with
  | .head => if bitOf v 0 then s.headEnable l.unit ag else s.headDisable l.unit
  | .dp => s.portEnable l.unit (bitOf v 0)
  | _ => s

/-- The parts of a write of BLK_CTRL before its SOFT_RESET. -/
def State.ctrlParts (s : State) (ag : Agent) (a : Nat) (l : Loc) (v : Nat) : State :=
  let u := s.levelWrite l v
  (if u.blkBusy l then u.busyDrop a l.base 3 ag else u.testWrite l v).enableWrite ag l v

theorem State.ctrlWrite_eq {s : State} {l : Loc} (ag : Agent) (a v : Nat) (h : s.blkLocked l = false) :
    s.ctrlWrite ag a l v = if bitOf v 1 && l.pg.softReset && (s.levelOf l.base || (bitOf v 2 && !l.pg.isInst))
      then (s.ctrlParts ag a l v).softReset l else s.ctrlParts ag a l v := by
  unfold State.ctrlWrite
  rw [if_neg (by simp [h])]
  rfl

/-- A write of ENABLE that changes no head's state leaves the registers. -/
theorem State.enableWrite_regs {s : State} {l : Loc} {v : Nat} (ag : Agent) (h : l.pg = .head → bitOf v 0 = (s.head l.unit).enabled) :
    (s.enableWrite ag l v).regs = s.regs := by
  unfold State.enableWrite
  split
  case h_1 hpg =>
    have he := h hpg
    cases hv : bitOf v 0 with
    | true => simp [State.headEnable, ← he, hv]
    | false => simp [State.headDisable, ← he, hv]
  case h_2 =>
    unfold State.portEnable
    dsimp only
    split <;> rfl
  case h_3 => rfl

theorem State.levelWrite_regSide (s : State) (l : Loc) (v : Nat) : RegSide s (s.levelWrite l v) := by
  unfold State.levelWrite
  dsimp only
  split
  · exact RegSide.trans (State.setReg_regsOnly ..) (State.levelUp_regSide ..)
  · split
    · exact RegSide.trans (t := s.setReg _ _) rfl (State.levelDown_frame ..).1
    · exact rfl

theorem State.testWrite_reg (s : State) (l : Loc) (v a : Nat) : (s.testWrite l v).reg a =
    if a = l.base + 8 then setField (s.reg (l.base + 8)) 3 1 (bitsOf v 3 1)
    else if a = l.base + 0x20 ∧ bitOf v 3 = false then setField (s.reg (l.base + 0x20)) 16 1 0 else s.reg a := by
  unfold State.testWrite aInject
  dsimp only
  by_cases h3 : bitOf v 3 = true
  · simp [h3]
  · by_cases h8 : a = l.base + 8
    · simp [h3, h8]
    · by_cases h20 : a = l.base + 0x20 <;> simp [h3, h8, h20]

theorem State.setReg_find {s : State} {a k : Nat} (h : k ≠ a) (v : W) : tblFind k (s.setReg a v).regs = tblFind k s.regs := by
  unfold State.setReg tblSet
  dsimp only
  split
  · simp [tblFind_tblErase, h]
  · simp [tblFind_tblPut, h]

/-- Registers do not decide whether a page is busy, but for the flag of its soft reset. -/
theorem State.blkBusy_of_regSide {s t : State} {l : Loc} (h : RegSide s t) (hk : tblFind (softKey l.base) t.regs = tblFind (softKey l.base) s.regs) :
    t.blkBusy l = s.blkBusy l := by
  have ht : t.blkBusy l = ({ s with regs := t.regs, expert := t.expert, effect := t.effect } : State).blkBusy l := congrArg (State.blkBusy · l) h
  rw [ht]
  unfold State.blkBusy tblGet
  dsimp only
  rw [hk]
  rfl

theorem State.levelWrite_keep {s : State} {l : Loc} {v : Nat} (h : (bitOf v 2 && !l.pg.isInst) = s.levelOf l.base) :
    s.levelWrite l v = s.setReg (l.base + 8) (setField (s.reg (l.base + 8)) 2 1 (b2n (s.levelOf l.base))) := by
  unfold State.levelWrite
  cases hl : s.levelOf l.base <;> simp [h, hl]

theorem State.levelWrite_up {s : State} {l : Loc} {v : Nat} (hup : (bitOf v 2 && !l.pg.isInst) = true) (hwas : s.levelOf l.base = false) :
    s.levelWrite l v = (s.setReg (l.base + 8) (setField (s.reg (l.base + 8)) 2 1 1)).levelUp l.base := by
  unfold State.levelWrite
  simp [hup, hwas, b2n]

theorem State.levelWrite_down {s : State} {l : Loc} {v : Nat} (hup : (bitOf v 2 && !l.pg.isInst) = false) (hwas : s.levelOf l.base = true) :
    s.levelWrite l v = (s.setReg (l.base + 8) (setField (s.reg (l.base + 8)) 2 1 0)).levelDown l.base := by
  unfold State.levelWrite
  simp [hup, hwas, b2n]

theorem State.levelUp_of_none {s : State} (h : s.expert = []) (base : Nat) : s.levelUp base = s := by
  unfold State.levelUp
  rw [h]
  rfl

/-- LEVEL's setting applies the one held value (R48). -/
theorem State.levelUp_of_one {s : State} {a : Nat} {w : W} {l' : Loc} {r : Row} {base p : Nat} (h : s.expert = [(a, w)]) (hin : inExpert base a = true)
    (hloc : locate a = some l') (hrow : l'.row = some (r, p)) : s.levelUp base = s.store l' r w.toNat := by
  unfold State.levelUp
  rw [h]
  simp [hin, hloc, hrow]

theorem State.store_find {s : State} {l : Loc} {r : Row} {k : Nat} (h : k ≠ l.base + l.off) (v : Nat) :
    tblFind k (s.store l r v).regs = tblFind k s.regs := by
  unfold State.store
  dsimp only
  have hhold : (if s.latchLive l r then s.holdEffect (l.base + l.off) else s).regs = s.regs := by
    split
    · exact s.holdEffect_regs _
    · rfl
  generalize (if s.latchLive l r then s.holdEffect (l.base + l.off) else s) = u at hhold ⊢
  split
  · exact (State.setReg_find h _).trans (by rw [hhold])
  · exact (State.setReg_find h _).trans (by rw [hhold])

theorem State.store_reg (s : State) (l : Loc) (r : Row) (v a : Nat) :
    (s.store l r v).reg a = if a = l.base + l.off then BitVec.ofNat 32 (v &&& r.mask) else s.reg a := by
  unfold State.store
  dsimp only
  have hhold : (if s.latchLive l r then s.holdEffect (l.base + l.off) else s).reg a = s.reg a := by
    unfold State.reg
    split
    · rw [s.holdEffect_regs _]
    · rfl
  generalize (if s.latchLive l r then s.holdEffect (l.base + l.off) else s) = u at hhold ⊢
  rw [← hhold]
  split
  · exact State.setReg_reg ..
  · exact State.setReg_reg ..

/-- The registers after a write of BLK_CTRL to a page that is not busy and resets nothing. -/
theorem State.ctrlParts_reg {s : State} {l : Loc} {v : Nat} (ag : Agent) (a : Nat)
    (hbusy : s.blkBusy l = false) (hk : tblFind (softKey l.base) (s.levelWrite l v).regs = tblFind (softKey l.base) s.regs)
    (hhead : l.pg = .head → bitOf v 0 = (s.head l.unit).enabled) (x : Nat) :
    (s.ctrlParts ag a l v).reg x = ((s.levelWrite l v).testWrite l v).reg x := by
  have hside := s.levelWrite_regSide l v
  have hbusy' : (s.levelWrite l v).blkBusy l = false := (State.blkBusy_of_regSide hside hk).trans hbusy
  have hheads : ((s.levelWrite l v).testWrite l v).head l.unit = s.head l.unit := by
    have h1 : (s.levelWrite l v).head l.unit = s.head l.unit := (congrArg (State.head · l.unit) hside).trans rfl
    unfold State.testWrite
    dsimp only
    split <;> exact h1
  unfold State.ctrlParts
  dsimp only
  rw [hbusy', if_neg (by simp)]
  unfold State.reg
  rw [State.enableWrite_regs ag (by rw [hheads]; exact hhead)]

theorem State.levelOf_eq (s : State) (base : Nat) : s.levelOf base = bitOf (s.reg (base + 8)).toNat 2 := rfl

/-! ### SOFT_RESET (R35, R36) -/

/-- A soft reset of an unlocked page returns its registers to their reset values, and the page is busy. -/
theorem State.softReset_effect {s : State} {l : Loc} (h : s.blkLocked l = false) :
    (∀ o, 0x24 ≤ o → o < 0x1000 → (s.softReset l).reg (l.base + o) = regResetOf (l.base + o)) ∧ (s.softReset l).blkBusy l = true := by
  unfold State.softReset
  rw [h]
  dsimp only
  generalize s.softBlock l false = u
  generalize BitVec.ofNat 32 _ = w
  constructor
  · intro o h1 h2
    have hkeep : (fun a => !(decide (l.base ≤ a ∧ a < l.base + 0x1000) && !softKeeps l false (a - l.base))) (l.base + o) = false := by
      have ho : ¬ o = 0x1C ∧ ¬ o = 0x10 := by omega
      simp [softKeeps, h2, ho]
    have hfind : tblFind (l.base + o) (tblPut (softKey l.base) 1 ((u.resetRange l.base 0x1000 (softKeeps l false)).setReg (l.base + 8) w).regs) = none := by
      rw [tblFind_tblPut, if_neg (by unfold softKey; omega), State.setReg_find (by omega)]
      exact tblFind_filter_key_out (p := fun a => !(decide (l.base ≤ a ∧ a < l.base + 0x1000) && !softKeeps l false (a - l.base))) hkeep u.regs
    unfold State.reg tblGet
    rw [hfind]
    rfl
  · unfold State.blkBusy tblGet
    dsimp only
    rw [tblFind_tblPut, if_pos rfl]
    rfl

/-! ### What a report leaves of other registers -/

theorem State.count_reg_of_ne (s : State) {a x : Nat} (h : x ≠ a) : (s.count a).reg x = s.reg x :=
  (s.setReg_reg a x _).trans (if_neg h)

/-- A fault on its way to the collector touches the collector's counters and its status alone. -/
theorem State.enqueueFault_reg (s : State) (f : FaultIn) {x : Nat} (hx : x ≠ 0x9120 + 4 * f.cls) (hd : x ≠ aFrDropped) (hi : x ≠ 0x9010)
    (hself : x ≠ 0x912C) : (s.enqueueFault f).reg x = s.reg x := by
  unfold State.enqueueFault
  extract_lets z q put
  have hz : z.reg x = s.reg x := s.count_reg_of_ne hx
  clear_value z
  have hput (l : List FaultIn) (u : State) : (put l u).reg x = u.reg x := rfl
  have hdrop : z.dropFault.reg x = s.reg x := by
    unfold State.dropFault
    rw [State.cause_reg_of_ne _ _ hi, State.count_reg_of_ne _ hd, hz]
  split_ifs
  · rw [hput, hz]
  · rw [hput, hz]
  · exact hdrop
  · rw [hput, hz]
  · rw [hput, State.count_reg_of_ne _ hself, hz]
  · rw [hput, hdrop]

/-- A write that a busy block drops leaves the lock of every page. -/
theorem State.busyDrop_lock (s : State) (a apply : Nat) (ag : Agent) {base x : Nat} (hb : base % 0x1000 = 0) (hx : x % 0x1000 = 0x1C) :
    (s.busyDrop a base apply ag).reg x = s.reg x := by
  have hcap (u : State) : (u.captureEvent a 2 apply ag).reg x = u.reg x := by
    unfold State.captureEvent
    split
    · rw [State.setReg_reg, if_neg (by omega), State.setReg_reg, if_neg (by omega)]
    · rw [State.setReg_reg, if_neg (by omega)]
  unfold State.busyDrop State.raise State.raiseAs
  rw [State.enqueueFault_reg _ _ (show x ≠ 0x9120 + 4 * 0 by omega) (by unfold aFrDropped; omega) (by omega) (by omega), hcap,
    State.cause_reg_of_ne _ _ (by omega), State.setReg_reg, if_neg (by omega)]

/-! ### Bits of the words that commands write -/

theorem bitOf_toNat (x : W) (i : Nat) : bitOf x.toNat i = x.getLsbD i := bitOf_eq_testBit ..

theorem bitOf_and_not (x y : W) {i : Nat} (h : i < 32) : bitOf (x &&& ~~~y).toNat i = (bitOf x.toNat i && !bitOf y.toNat i) := by
  rw [bitOf_toNat, bitOf_toNat, bitOf_toNat]
  simp [h]

/-- A 32-bit write that reaches the header of a page. -/
theorem State.regWrite_header {s : State} {ag : Agent} {o : Nat} {l : Loc} (hg : s.gate ag o true = .go l) (hh : l.pg.hasHeader = true)
    (ho : l.off < 0x100) (v : W) :
    ∃ b, accessAddr ag o = some b ∧ s.regWrite ag o v.toNat 15 false = s.headerWrite ag b l v.toNat := by
  obtain ⟨b, hb⟩ := State.accessAddr_of_gate hg
  have hdm : l.pg ≠ .dbgDm := fun h => by simp [h, Pg.hasHeader] at hh
  have hpk : l.pg ≠ .dbgPeek := fun h => by simp [h, Pg.hasHeader] at hh
  refine ⟨b, hb, ?_⟩
  rw [State.regWrite_go hg hb, Nat.mod_eq_of_lt v.isLt]
  unfold State.writeLoc
  rw [if_neg hdm, if_neg hpk, if_pos ⟨hh, ho⟩]

theorem State.headerWrite_ctrl {s : State} {l : Loc} (ag : Agent) (a v : Nat) (ho : l.off = 8) : s.headerWrite ag a l v = s.ctrlWrite ag a l v := by
  unfold State.headerWrite
  rw [ho]
  rfl

/-- A write of BLK_CTRL to an unlocked page that is not busy and resets nothing: what its registers hold then. -/
theorem State.regWrite_ctrl {s : State} {ag : Agent} {o : Nat} {l : Loc} {v : W} (hg : s.gate ag o true = .go l) (hh : l.pg.hasHeader = true)
    (ho : l.off = 8) (hlock : s.blkLocked l = false) (hreset : bitOf v.toNat 1 = false) (hhead : l.pg = .head → bitOf v.toNat 0 = (s.head l.unit).enabled)
    (hbusy : s.blkBusy l = false) (hk : tblFind (softKey l.base) (s.levelWrite l v.toNat).regs = tblFind (softKey l.base) s.regs) (x : Nat) :
    (s.regWrite ag o v.toNat 15 false).reg x = ((s.levelWrite l v.toNat).testWrite l v.toNat).reg x := by
  obtain ⟨b, -, hwrite⟩ := State.regWrite_header hg hh (by omega) v
  rw [hwrite, State.headerWrite_ctrl ag b _ ho, State.ctrlWrite_eq ag b _ hlock, if_neg (by simp [hreset])]
  exact State.ctrlParts_reg ag b hbusy hk hhead x

theorem bitOf_or_const (v c : W) (i : Nat) : bitOf (v ||| c).toNat i = (bitOf v.toNat i || bitOf c.toNat i) := bitOf_or v c i

theorem State.levelWrite_reg_of_level {s : State} {l : Loc} (v : Nat) {x : Nat} (hwas : s.levelOf l.base = true) (h8 : x ≠ l.base + 8)
    (hin : inExpert l.base x = false) : (s.levelWrite l v).reg x = s.reg x := by
  cases hup : bitOf v 2 && !l.pg.isInst with
  | true => rw [State.levelWrite_keep (hup.trans hwas.symm), State.setReg_reg, if_neg h8]
  | false => rw [State.levelWrite_down hup hwas, State.levelDown_reg, hin, if_neg (by simp), State.setReg_reg, if_neg h8]

/-- BLK_LOCK stays through the parts of a write of BLK_CTRL to a page whose LEVEL is 1. -/
theorem State.ctrlParts_locked {s : State} {l : Loc} {v : Nat} (ag : Agent) (a : Nat) (hbase : l.base % 0x1000 = 0) (hwas : s.levelOf l.base = true)
    (hhead : l.pg = .head → bitOf v 0 = (s.head l.unit).enabled) : (s.ctrlParts ag a l v).blkLocked l = s.blkLocked l := by
  have hlevel : (s.levelWrite l v).reg (l.base + 0x1C) = s.reg (l.base + 0x1C) :=
    State.levelWrite_reg_of_level v hwas (by omega) (by simp [inExpert])
  have hheads : (s.levelWrite l v).head l.unit = s.head l.unit := (congrArg (State.head · l.unit) (s.levelWrite_regSide l v)).trans rfl
  unfold State.ctrlParts
  dsimp only
  generalize s.levelWrite l v = u at hlevel hheads
  have hparts {w : State} (hw : w.reg (l.base + 0x1C) = u.reg (l.base + 0x1C)) (hh : w.head l.unit = u.head l.unit) :
      (w.enableWrite ag l v).blkLocked l = s.blkLocked l := by
    unfold State.blkLocked State.reg
    rw [State.enableWrite_regs ag (by rw [hh, hheads]; exact hhead)]
    exact congrArg (fun w : W => l.pg.hasHeader && bitOf w.toNat 0) (hw.trans hlevel)
  split
  · have hs : Signals u (u.busyDrop a l.base 3 ag) := by
      have hcap (z : State) : Signals z (z.captureEvent a 2 3 ag) := by
        unfold State.captureEvent
        split <;> rfl
      exact (((State.setReg_signals ..).trans (State.cause_signals ..)).trans (hcap _)).trans (State.raise_signals ..)
    exact hparts (State.busyDrop_lock u a 3 ag hbase (by omega)) (hs.head _)
  · refine hparts ?_ ?_
    · rw [State.testWrite_reg, if_neg (by omega), if_neg (by omega)]
    · unfold State.testWrite
      dsimp only
      split <;> rfl

theorem mod_eq_of_bitOf {x y n : Nat} (h : ∀ i < n, bitOf x i = bitOf y i) : x % 2 ^ n = y % 2 ^ n := Nat.eq_of_testBit_eq fun i => by
  rw [Nat.testBit_mod_two_pow, Nat.testBit_mod_two_pow]
  by_cases hi : i < n
  · rw [← bitOf_eq_testBit, ← bitOf_eq_testBit, h i hi]
  · simp [hi]

theorem bitOf_bitsOf_one (x i : Nat) : bitOf (bitsOf x i 1) 0 = bitOf x i := by simp [bitOf, bitsOf]

/-- A write of INJECT to an unlocked page with ARM set: its fields are stored, then it arms or is rejected (R43, R46). -/
theorem State.injectWrite_eq {s : State} {l : Loc} {ag : Agent} {v : Nat} {a : Nat} (hlock : s.blkLocked l = false) (h16 : bitOf v 16 = true) :
    ∃ u : State, (∀ x, u.reg x = if x = l.base + 0x20
        then setField (s.reg (l.base + 0x20) &&& ~~~(BitVec.ofNat 32 (v &&& 0x60000))) 0 16 v else s.reg x) ∧
      s.injectWrite ag a l v =
        if !bitOf (s.reg (l.base + 8)).toNat 3 ∨ ag.code ≠ 0 ∨ l.pg.checkers ≤ v % 256
        then u.setReg (l.base + 0x20) (setField (u.reg (l.base + 0x20)) 18 1 1)
        else { (u.setReg (l.base + 0x20) (setField (u.reg (l.base + 0x20)) 16 1 1)) with
          regs := tblSet 0 (l.base + 0x20 + 1) (BitVec.ofNat 32 (u.copySel l.pg)) (u.setReg (l.base + 0x20) (setField (u.reg (l.base + 0x20)) 16 1 1)).regs } := by
  let z := s.setReg (l.base + 0x20) (s.reg (l.base + 0x20) &&& ~~~(BitVec.ofNat 32 (v &&& 0x60000)))
  let u := z.setReg (l.base + 0x20) (setField (z.reg (l.base + 0x20)) 0 16 v)
  have hz (x : Nat) (hx : x ≠ l.base + 0x20) : z.reg x = s.reg x := (s.setReg_reg ..).trans (if_neg hx)
  have hu (x : Nat) (hx : x ≠ l.base + 0x20) : u.reg x = s.reg x := ((z.setReg_reg ..).trans (if_neg hx)).trans (hz x hx)
  have hzlock : ¬ z.blkLocked l = true := by
    unfold State.blkLocked at hlock ⊢
    rw [hz _ (by omega), hlock]
    simp
  refine ⟨u, fun x => ?_, ?_⟩
  · by_cases hx : x = l.base + 0x20
    · subst hx
      rw [if_pos rfl]
      refine ((z.setReg_reg ..).trans (if_pos rfl)).trans ?_
      rw [show z.reg (l.base + 0x20) = _ from (s.setReg_reg ..).trans (if_pos rfl)]
    · rw [if_neg hx, hu x hx]
  · rw [← hu (l.base + 8) (by omega)]
    unfold State.injectWrite aInject
    exact (if_neg hzlock).trans (if_neg (by simp [h16]))

/-- The bits of INJECT once a write's fields are stored: ARM as it was, the fields those written. -/
theorem injectFields (w : W) (v : Nat) :
    bitOf (setField (w &&& ~~~(BitVec.ofNat 32 (v &&& 0x60000))) 0 16 v).toNat 16 = bitOf w.toNat 16 ∧
    ∀ i < 16, bitOf (setField (w &&& ~~~(BitVec.ofNat 32 (v &&& 0x60000))) 0 16 v).toNat i = bitOf v i := by
  constructor
  · rw [bitOf_setField _ (by decide), if_neg (by omega), bitOf_and_not _ _ (by decide)]
    have hmask : bitOf (BitVec.ofNat 32 (v &&& 0x60000)).toNat 16 = false := by
      rw [bitOf_toNat, BitVec.getLsbD_ofNat, Nat.testBit_and]
      simp [show Nat.testBit 0x60000 16 = false by decide]
    rw [hmask, Bool.not_false, Bool.and_true]
  · intro i hi
    rw [bitOf_setField _ (by decide), if_pos (by omega), Nat.sub_zero]

/-- Settles O33. -/
theorem headerRegistersControlTheirPage : Obligations.HeaderRegistersControlTheirPage := by
  refine ⟨fun ag base v s l hg ho hh hsr hlock hwas hhead => ?softReset, fun base s => ?softDone, fun ag base v s l hg ho hh hi hlock h1 hhead hbusy hexp => ?levelSet,
    fun ag base v s l a l' r w hg ho hh hi hlock h1 hhead hwas hbusy hexp hin hloc ha hrow hlatch => ?held,
    fun ag base v s l hg ho hh hlock h1 hhead hwas hbusy => ?levelClear,
    fun ag base v s l hg ho hh hlock h1 h2 hi hhead hbusy => ?testClear, fun ag base v s l hg ho hh => ?force,
    fun ag base v s l hg ho hh hused => ?lock, fun ag base v s l b hg ho hh hused hb => ?relock,
    fun ag base v s l hg ho hh hlock => ?inject⟩
  case softReset =>
    have hbit0 : bitOf (v ||| 2).toNat 0 = bitOf v.toNat 0 := by rw [bitOf_or]; simp [bitOf]
    have hbit1 : bitOf (v ||| 2).toNat 1 = true := by rw [bitOf_or]; simp [bitOf]
    obtain ⟨b, -, hwrite⟩ := State.regWrite_header hg hh (by omega) (v ||| 2)
    rw [State.headerWrite_ctrl ag b _ ho, State.ctrlWrite_eq ag b _ hlock, if_pos (by rw [hbit1, hsr, hwas]; rfl)] at hwrite
    exact ⟨_, next_congr hwrite, State.softReset_effect
      ((State.ctrlParts_locked ag b (State.gate_base hg hh) hwas (by rw [hbit0]; exact hhead)).trans hlock)⟩
  case softDone =>
    refine ⟨_, rfl, (tblFind_tblErase ..).trans (if_pos rfl), fun a ha => ?_, fun _ => rfl⟩
    unfold State.reg tblGet
    rw [tblFind_tblErase, if_neg ha]
  case levelSet =>
    have hbit0 : bitOf (v ||| 4).toNat 0 = bitOf v.toNat 0 := by rw [bitOf_or]; simp [bitOf]
    have hbit1 : bitOf (v ||| 4).toNat 1 = false := by rw [bitOf_or]; simpa [bitOf] using h1
    have hbit2 : bitOf (v ||| 4).toNat 2 = true := by rw [bitOf_or]; simp [bitOf]
    have hup : (bitOf (v ||| 4).toNat 2 && !l.pg.isInst) = true := by rw [hbit2, hi]; rfl
    have hlevel : s.levelWrite l (v ||| 4).toNat = s.setReg (l.base + 8) (setField (s.reg (l.base + 8)) 2 1 1) := by
      cases hwas : s.levelOf l.base with
      | true => rw [State.levelWrite_keep (hup.trans hwas.symm), hwas]; rfl
      | false => exact (State.levelWrite_up hup hwas).trans (State.levelUp_of_none (by exact hexp) _)
    have hreg := State.regWrite_ctrl hg hh ho hlock hbit1 (by rw [hbit0]; exact hhead) hbusy
      (by rw [hlevel]; exact State.setReg_find (by unfold softKey; omega) _) (l.base + 8)
    refine ⟨_, rfl, ?_⟩
    rw [State.levelOf_eq, hreg, State.testWrite_reg, if_pos rfl, hlevel, State.setReg_reg, if_pos rfl, bitOf_setField _ (by decide), if_neg (by omega),
      bitOf_setField _ (by decide), if_pos (by omega)]
    rfl
  case held =>
    have hbit0 : bitOf (v ||| 4).toNat 0 = bitOf v.toNat 0 := by rw [bitOf_or]; simp [bitOf]
    have hbit1 : bitOf (v ||| 4).toNat 1 = false := by rw [bitOf_or]; simpa [bitOf] using h1
    have hbit2 : bitOf (v ||| 4).toNat 2 = true := by rw [bitOf_or]; simp [bitOf]
    have hup : (bitOf (v ||| 4).toNat 2 && !l.pg.isInst) = true := by rw [hbit2, hi]; rfl
    have hlow : l.base + 0x400 ≤ a := by
      unfold inExpert at hin
      simp only [decide_eq_true_eq] at hin
      exact hin.1
    let u := s.setReg (l.base + 8) (setField (s.reg (l.base + 8)) 2 1 1)
    have hlevel : s.levelWrite l (v ||| 4).toNat = u.store l' r w.toNat := by
      rw [State.levelWrite_up hup hwas]
      exact State.levelUp_of_one (s := u) hexp hin hloc hrow
    have hreg := State.regWrite_ctrl hg hh ho hlock hbit1 (by rw [hbit0]; exact hhead) hbusy (by
      rw [hlevel, State.store_find (by unfold softKey; omega)]
      exact State.setReg_find (by unfold softKey; omega) _) a
    refine ⟨_, rfl, ?_⟩
    rw [hreg, State.testWrite_reg, if_neg (by omega), if_neg (by omega), hlevel, State.store_reg, if_pos ha.symm]
    apply BitVec.eq_of_toNat_eq
    rw [BitVec.toNat_and, BitVec.toNat_ofNat, BitVec.toNat_ofNat, Nat.and_mod_two_pow, Nat.mod_eq_of_lt w.isLt]
  case levelClear =>
    have hbit0 : bitOf (v &&& ~~~4).toNat 0 = bitOf v.toNat 0 := by rw [bitOf_and_not _ _ (by decide)]; simp [bitOf]
    have hbit1 : bitOf (v &&& ~~~4).toNat 1 = false := by rw [bitOf_and_not _ _ (by decide)]; simp [h1]
    have hbit2 : bitOf (v &&& ~~~4).toNat 2 = false := by rw [bitOf_and_not _ _ (by decide)]; simp [bitOf]
    have hlevel := State.levelWrite_down (s := s) (l := l) (v := (v &&& ~~~4).toNat) (by rw [hbit2]; rfl) hwas
    let u := s.setReg (l.base + 8) (setField (s.reg (l.base + 8)) 2 1 0)
    have hfind : tblFind (softKey l.base) (s.levelWrite l (v &&& ~~~4).toNat).regs = tblFind (softKey l.base) s.regs := by
      rw [hlevel, (u.levelDown_frame l.base).2, tblFind_filter_key (p := fun a => !inExpert l.base a) (by simp [inExpert, softKey])]
      exact State.setReg_find (by unfold softKey; omega) _
    have hreg := State.regWrite_ctrl hg hh ho hlock hbit1 (by rw [hbit0]; exact hhead) hbusy hfind
    refine ⟨_, rfl, ?_, fun a h4 hc => ?_⟩
    · rw [State.levelOf_eq, hreg, State.testWrite_reg, if_pos rfl, hlevel, State.levelDown_reg, if_neg (by simp [inExpert]), State.setReg_reg, if_pos rfl,
        bitOf_setField _ (by decide), if_neg (by omega), bitOf_setField _ (by decide), if_pos (by omega)]
      rfl
    · rw [hreg, State.testWrite_reg, if_neg (by omega), if_neg (by omega), hlevel, State.levelDown_reg, if_pos (by simp [inExpert, h4, hc])]
  case testClear =>
    have hbit0 : bitOf (v &&& ~~~8).toNat 0 = bitOf v.toNat 0 := by rw [bitOf_and_not _ _ (by decide)]; simp [bitOf]
    have hbit1 : bitOf (v &&& ~~~8).toNat 1 = false := by rw [bitOf_and_not _ _ (by decide)]; simp [h1]
    have hbit2 : bitOf (v &&& ~~~8).toNat 2 = bitOf v.toNat 2 := by rw [bitOf_and_not _ _ (by decide)]; simp [bitOf]
    have hbit3 : bitOf (v &&& ~~~8).toNat 3 = false := by rw [bitOf_and_not _ _ (by decide)]; simp [bitOf]
    have hlevel := State.levelWrite_keep (s := s) (l := l) (v := (v &&& ~~~8).toNat) (by rw [hbit2, hi, h2]; exact Bool.and_true _)
    have hreg := State.regWrite_ctrl hg hh ho hlock hbit1 (by rw [hbit0]; exact hhead) hbusy
      (by rw [hlevel]; exact State.setReg_find (by unfold softKey; omega) _)
    refine ⟨_, rfl, ?_, ?_⟩
    · rw [hreg, State.testWrite_reg, if_pos rfl, bitOf_setField _ (by decide), if_pos (by omega)]
      exact (bitOf_bitsOf_one ..).trans hbit3
    · rw [hreg, State.testWrite_reg, if_neg (by omega), if_pos ⟨rfl, hbit3⟩, bitOf_setField _ (by decide), if_pos (by omega)]
      rfl
  case force =>
    obtain ⟨b, -, hwrite⟩ := State.regWrite_header hg hh (by omega) v
    refine next_congr (hwrite.trans ?_)
    unfold State.headerWrite
    rw [ho]
    rfl
  case lock =>
    obtain ⟨b, -, hwrite⟩ := State.regWrite_header hg hh (by omega) v
    refine next_congr (hwrite.trans ?_)
    unfold State.headerWrite
    rw [ho]
    exact if_neg (by simpa using hused)
  case relock =>
    obtain ⟨b', hb', hwrite⟩ := State.regWrite_header hg hh (by omega) v
    obtain rfl : b' = b := Option.some.inj (hb'.symm.trans hb)
    refine next_congr (hwrite.trans ?_)
    unfold State.headerWrite
    rw [ho]
    exact if_pos (by simpa using hused)
  case inject =>
    have hv16 : bitOf (v ||| 0x10000).toNat 16 = true := by rw [bitOf_or]; simp [bitOf]
    have hlow (i : Nat) (hi : i < 16) : bitOf (v ||| 0x10000).toNat i = bitOf v.toNat i := by
      rw [bitOf_or, bitOf_toNat 0x10000]
      interval_cases i <;> simp
    have hbyte : (v ||| 0x10000).toNat % 2 ^ 8 = v.toNat % 2 ^ 8 := mod_eq_of_bitOf fun i hi => hlow i (by omega)
    obtain ⟨b, -, hwrite⟩ := State.regWrite_header hg hh (by omega) (v ||| 0x10000)
    have hexec : exec (.injectArm ag base v none) s = .next (s.injectWrite ag b l (v ||| 0x10000).toNat) := by
      refine next_congr (hwrite.trans ?_)
      unfold State.headerWrite
      rw [ho]
      rfl
    obtain ⟨u, hu, hinj⟩ := State.injectWrite_eq (ag := ag) (a := b) hlock hv16
    have hu20 := (hu (l.base + 0x20)).trans (if_pos rfl)
    obtain ⟨hf16, hflow⟩ := injectFields (s.reg (l.base + 0x20)) (v ||| 0x10000).toNat
    rw [show (v ||| 0x10000).toNat % 256 = v.toNat % 256 from hbyte] at hinj
    refine ⟨fun htest h0 hc => ?_, fun hno => ?_⟩
    · rw [if_neg (by simp [htest, h0, hc])] at hinj
      rw [hinj] at hexec
      have hreg : tblFind (l.base + 0x20) (tblSet 0 (l.base + 0x20 + 1) (BitVec.ofNat 32 (u.copySel l.pg))
          (u.setReg (l.base + 0x20) (setField (u.reg (l.base + 0x20)) 16 1 1)).regs) =
          tblFind (l.base + 0x20) (u.setReg (l.base + 0x20) (setField (u.reg (l.base + 0x20)) 16 1 1)).regs := by
        unfold tblSet
        split
        · rw [tblFind_tblErase, if_neg (by omega)]
        · rw [tblFind_tblPut, if_neg (by omega)]
      have ht := (congrArg (Option.getD · (regResetOf (l.base + 0x20))) hreg).trans ((u.setReg_reg ..).trans (if_pos rfl))
      refine ⟨_, hexec, (congrArg (fun w : W => bitOf w.toNat 16) ht).trans ?_, (congrArg (fun w : W => w.toNat % 2 ^ 16) ht).trans ?_⟩
      · rw [bitOf_setField _ (by decide), if_pos (by omega)]
        rfl
      · refine mod_eq_of_bitOf fun i hi => ?_
        rw [bitOf_setField _ (by decide), if_neg (by omega), hu20, hflow i hi, hlow i hi]
    · rw [if_pos (by simpa using hno)] at hinj
      rw [hinj] at hexec
      refine ⟨_, hexec, ?_, ?_⟩
      · rw [State.setReg_reg, if_pos rfl, bitOf_setField _ (by decide), if_pos (by omega)]
        rfl
      · rw [State.setReg_reg, if_pos rfl, bitOf_setField _ (by decide), if_neg (by omega), hu20, hf16]

end Sys2Proof.Machine
end

section
/-! PROOFS. Briane's rings: responses, requests, events and the handshake (06). -/

namespace Sys2Proof.Machine

/-! ### What an answer reaches -/

/-- Between `s` and `t` only Briane's rings and what an interrupt reaches may differ. -/
def Answers (s t : State) : Prop :=
  t = { s with
    regs := t.regs, fcol := t.fcol, brn := t.brn
    pcie := { s.pcie with txq := t.pcie.txq, held := t.pcie.held, sent := t.pcie.sent, pba := t.pcie.pba, ats := t.pcie.ats }
    sess := t.sess, own := t.own }

theorem Answers.trans {s t u : State} (h : Answers s t) (k : Answers t u) : Answers s u := by
  unfold Answers at h k ⊢
  rw [k, h]

theorem Signals.answers {s t : State} (h : Signals s t) : Answers s t := by
  unfold Answers
  rw [h]

theorem State.setRings_answers (s : State) (k : Nat) (b : Brn) : Answers s (s.setRings k b) := rfl

section
variable {s t : State} (h : Answers s t)
include h
theorem Answers.pw : t.pw = s.pw := (congrArg State.pw h).trans rfl
theorem Answers.sec : t.sec = s.sec := (congrArg State.sec h).trans rfl
theorem Answers.fw : t.fw = s.fw := (congrArg State.fw h).trans rfl
theorem Answers.insts : t.insts = s.insts := (congrArg State.insts h).trans rfl
theorem Answers.queues : t.queues = s.queues := (congrArg State.queues h).trans rfl
theorem Answers.mem : t.mem = s.mem := (congrArg State.mem h).trans rfl
theorem Answers.sameMem : Claims.SameMem s t := fun a => (congrArg (State.memByte · a) h).trans rfl
end

/-! ### Response entries (R250, R252) -/

theorem State.rspWrite_rings (s : State) (k : Nat) (e : List Byte) :
    Signals (s.setRings k { s.ringsOf k with rspProd := (s.ringsOf k).rspProd + 1 }) (s.rspWrite k e) := by
  let a := brnBase k + 0x300 + 64 * ((s.ringsOf k).rspProd.toNat % 4)
  let u := (List.range 16).foldl (fun s i => s.setReg (a + 4 * i) (wordAt (bytesWords 16 e) i)) s
  have hu : RegsOnly s u := by
    have hall (l : List Nat) (z : State) : RegsOnly z (l.foldl (fun s i => s.setReg (a + 4 * i) (wordAt (bytesWords 16 e) i)) z) := by
      induction l generalizing z with
      | nil => exact .refl z
      | cons i l ih => exact (z.setReg_regsOnly ..).trans (ih _)
    exact hall _ s
  have hset : Signals (s.setRings k { s.ringsOf k with rspProd := (s.ringsOf k).rspProd + 1 })
      (u.setRings k { u.ringsOf k with rspProd := (s.ringsOf k).rspProd + 1 }) := by
    clear_value u
    rw [hu]
    rfl
  exact hset.trans (State.cause_signals ..)

theorem State.rspWrite_answers (s : State) (k : Nat) (e : List Byte) : Answers s (s.rspWrite k e) :=
  (s.setRings_answers k _).trans (s.rspWrite_rings k e).answers

theorem State.rspWrite_ringsOf (s : State) (k : Nat) (e : List Byte) (j : Nat) :
    (s.rspWrite k e).ringsOf j = if j = k then { s.ringsOf k with rspProd := (s.ringsOf k).rspProd + 1 } else s.ringsOf j :=
  ((s.rspWrite_rings k e).ringsOf j).trans (State.setRings_ringsOf ..)

/-- The response's words stand in its entry of the response ring (R250). -/
theorem State.rspWrite_reg (s : State) (k : Nat) (e : List Byte) {i : Nat} (hi : i < 16) :
    (s.rspWrite k e).reg (brnBase k + 0x300 + 64 * ((s.ringsOf k).rspProd.toNat % 4) + 4 * i) = wordAt (bytesWords 16 e) i := by
  unfold State.rspWrite
  rw [State.cause_reg_of_ne _ 8 (by omega), State.setRings_reg]
  exact foldl_setReg_reg_at _ (fun i => wordAt (bytesWords 16 e) i) hi s

theorem State.rspWrite_avail (s : State) (k : Nat) (e : List Byte) : bitOf ((s.rspWrite k e).reg (brnBase k + 0x10)).toNat 8 = true :=
  State.cause_sets _ (brnBase k) (by decide)

theorem State.respond_answers (s : State) (k : Nat) (r : Req) (st det : Nat) (pl : List Byte) : Answers s (s.respond k r st det pl) :=
  (s.rspWrite_answers k _).trans (State.setRings_answers ..)

theorem State.respond_ringsOf (s : State) (k : Nat) (r : Req) (st det : Nat) (pl : List Byte) (j : Nat) :
    (s.respond k r st det pl).ringsOf j =
      if j = k then { s.ringsOf k with rspProd := (s.ringsOf k).rspProd + 1, cur := none } else s.ringsOf j := by
  unfold State.respond
  dsimp only
  rw [State.setRings_ringsOf]
  split
  · rw [State.rspWrite_ringsOf, if_pos rfl]
  · rw [State.rspWrite_ringsOf, if_neg ‹_›]

theorem State.respond_reg (s : State) (k : Nat) (r : Req) (st det : Nat) (pl : List Byte) (a : Nat) :
    (s.respond k r st det pl).reg a = (s.rspWrite k (rspEntry r.op st (if opLong r.op then 4 else 0) r.tag.toNat det pl)).reg a :=
  State.setRings_reg ..

theorem State.respondPending_answers (s : State) (k : Nat) (r : Req) (l : Long) : Answers s (s.respondPending k r l) :=
  (s.rspWrite_answers k _).trans (State.setRings_answers ..)

theorem State.respondPending_ringsOf (s : State) (k : Nat) (r : Req) (l : Long) (j : Nat) : (s.respondPending k r l).ringsOf j =
    if j = k then { s.ringsOf k with rspProd := (s.ringsOf k).rspProd + 1, cur := none, long := some { l with req := r } } else s.ringsOf j := by
  unfold State.respondPending
  dsimp only
  rw [State.setRings_ringsOf]
  split
  · rw [State.rspWrite_ringsOf, if_pos rfl]
  · rw [State.rspWrite_ringsOf, if_neg ‹_›]

theorem leBytes_length (n x : Nat) : (leBytes n x).length = n := by
  induction n generalizing x with
  | zero => rfl
  | succ n ih => simp [leBytes, ih]

theorem leNat_leBytes (n x : Nat) : leNat (leBytes n x) = x % 256 ^ n := by
  induction n generalizing x with
  | zero => simp [leBytes, leNat, Nat.mod_one]
  | succ n ih =>
    rw [leBytes, leNat, ih, Nat.pow_succ, Nat.mul_comm (256 ^ n), Nat.mod_mul]
    simp

/-- A field of a byte string is found behind what comes before it. -/
theorem bytesAt_middle (a b c : List Byte) : bytesAt (a ++ (b ++ c)) a.length b.length = b := by
  simp [bytesAt]

theorem bytesAt_length (l : List Byte) (i n : Nat) : (bytesAt l i n).length = n := by
  unfold bytesAt
  simp only [List.length_append, List.length_take, List.length_drop, List.length_replicate]
  omega

/-- A field of a response entry: the number written at its offset. -/
theorem leNat_field {e a c : List Byte} {o n x : Nat} (he : e = a ++ (leBytes n x ++ c)) (ho : a.length = o) (hx : x < 256 ^ n) :
    leNat (bytesAt e o n) = x := by
  have hmid := bytesAt_middle a (leBytes n x) c
  rw [leBytes_length, ho] at hmid
  rw [he, hmid, leNat_leBytes, Nat.mod_eq_of_lt hx]

theorem rspEntry_eq (op st fl tag det : Nat) (pl : List Byte) : rspEntry op st fl tag det pl =
    leBytes 2 op ++ (leBytes 1 st ++ (leBytes 1 fl ++ (leBytes 4 tag ++ (leBytes 4 det ++ bytesAt pl 0 52)))) := by
  simp only [rspEntry, List.append_assoc]

/-- Settles O36. -/
theorem responsesFillTheRingInOrder : Obligations.ResponsesFillTheRingInOrder := by
  refine ⟨fun s k r st det pl hk => ?respond, fun s k r l hk => ?pending, fun op st fl tag det pl hop hst hfl htag hdet => ?entry⟩
  case respond =>
    have ha := s.respond_answers k r st det pl
    refine ⟨(s.respond_ringsOf k r st det pl k).trans (if_pos rfl), fun i hi => ?_, ?_, ha.insts, ha.queues, ha.mem, ha.pw, ha.sec⟩
    · rw [State.respond_reg, State.rspWrite_reg s k _ hi]
    · rw [State.respond_reg, State.rspWrite_avail]
  case pending =>
    have ha := s.respondPending_answers k r l
    exact ⟨(s.respondPending_ringsOf k r l k).trans (if_pos rfl), ha.insts, ha.queues, ha.mem, ha.pw⟩
  case entry =>
    refine ⟨?_, ?_, ?_, ?_, ?_⟩
    · simp [rspEntry, leBytes_length, bytesAt_length]
    · exact leNat_field (a := []) (rspEntry_eq ..) rfl hop
    · exact leNat_field (rspEntry_eq ..) (leBytes_length ..) hst
    · refine leNat_field (a := leBytes 2 op ++ (leBytes 1 st ++ leBytes 1 fl)) (c := leBytes 4 det ++ bytesAt pl 0 52) ?_ (by simp [leBytes_length]) (by omega)
      rw [rspEntry_eq, List.append_assoc, List.append_assoc]
    · refine leNat_field (a := leBytes 2 op ++ (leBytes 1 st ++ (leBytes 1 fl ++ leBytes 4 tag))) (c := bytesAt pl 0 52) ?_ (by simp [leBytes_length]) (by omega)
      rw [rspEntry_eq, List.append_assoc, List.append_assoc, List.append_assoc]

end Sys2Proof.Machine
end

section
/-! PROOFS. Briane's rings: what their registers and commands do (06). -/

namespace Sys2Proof.Machine

/-- A write of a register of a BRIANE page that is not locked reaches the page's own meaning. -/
theorem State.regWrite_brn {s : State} {ag : Agent} {o : Nat} {l : Loc} {r : Row} (hg : s.gate ag o true = .go l) (hpg : l.pg = .brn)
    (hlock : s.blkLocked l = false) (hrow : findRow l.off rowsBrn = some (r, 0)) (hw : r.wide = false) (hacc : r.acc = .rw ∨ r.acc = .wo)
    (happ : r.apply = .immediate) (hoff : 0x100 ≤ l.off) (v : W) : s.regWrite ag o v.toNat 15 false = s.brnWrite ag l r (v.toNat &&& r.mask) := by
  have hrow' : l.row = some (r, 0) := by rw [Loc.row, hpg]; exact hrow
  have hone : r.acc = .w1s → v.toNat % 2 ^ 32 &&& r.mask ≠ 0 := fun h => by rcases hacc with h' | h' <;> simp [h] at h'
  obtain ⟨b, -, hwrite⟩ := State.regWrite_reaches (s := s) (ag := ag) (o := o) (v := v.toNat)
    ⟨hg, hrow', hw, by tauto, by simp [State.rowLocked, hpg, hlock], by simp [State.rowHeld, happ, hpg], by simp [Loc.expert, hpg, Pg.isInst],
      by simp [reservedEnc, hpg], rfl, by omega⟩ hone
  rw [hwrite, Nat.mod_eq_of_lt v.isLt]
  unfold State.applyWrite
  rw [hpg]

/-- The low byte of a word survives the mask of a pointer register. -/
theorem truncate_ofNat_and_mask (v : W) : (BitVec.ofNat 32 (v.toNat &&& 0xFF)).truncate 8 = (v.truncate 8 : BitVec 8) := by
  apply BitVec.eq_of_toNat_eq
  have hmask : v.toNat &&& 0xFF = v.toNat % 2 ^ 8 := Nat.and_two_pow_sub_one_eq_mod _ 8
  simp only [BitVec.truncate_eq_setWidth, BitVec.toNat_setWidth, BitVec.toNat_ofNat, hmask]
  omega

/-! ### Requests (R251 to R254) -/

theorem taken_ringsOf (s : State) (k : Nat) (r : Req) : (Claims.taken s k r).ringsOf k = { s.ringsOf k with
    reqCons := (s.ringsOf k).reqCons + 1, cur := some r, dirty := (s.ringsOf k).dirty.filter (· ≠ (s.ringsOf k).reqCons.toNat) } :=
  (State.setRings_ringsOf ..).trans (if_pos rfl)

theorem State.reqCheck_taken (s : State) (k : Nat) (r : Req) (i : OpInfo) (q : Req) : (Claims.taken s k r).reqCheck k i q = s.reqCheck k i q := by
  have hlong : ((Claims.taken s k r).ringsOf k).long = (s.ringsOf k).long :=
    (congrArg Brn.long (taken_ringsOf s k r) :)
  unfold State.reqCheck
  rw [hlong]
  rfl

/-- Fausk takes the next entry: an opcode that is not defined and a request that passes its checks wait, a failed check is answered. -/
theorem exec_brianeRequestStart {s : State} {k : Nat} {r : Req} (h : Claims.canTake s k)
    (hr : r = reqOf (wordsBytes (s.reqWords k ((s.ringsOf k).reqCons.toNat % 4)))) :
    exec (.brianeRequestStart k) s = .next (match opFor (s.ringsOf k) r.op with
      | none => Claims.taken s k r
      | some i => match s.reqCheck k i r with
        | some (st, det) => (Claims.taken s k r).respond k r st det []
        | none => Claims.taken s k r) := by
  obtain ⟨hopen, hcur, hne, hroom, hswap, hsafe, hhalt, hready, hdirty⟩ := h
  refine next_congr ((if_neg (by simp [hopen, hcur, hne, hroom, hswap, hsafe, hhalt, hready])).trans ?_)
  dsimp only
  rw [if_neg hdirty, ← hr]
  cases opFor (s.ringsOf k) r.op with
  | none => rfl
  | some i => exact congrArg (fun c : Option (Nat × Nat) => match c with
      | some (st, det) => (Claims.taken s k r).respond k r st det []
      | none => Claims.taken s k r) (s.reqCheck_taken k r i r)

/-! ### Events and pointers -/

theorem exec_brianeEventDeliver {s : State} {k : Nat} {e : Event} {q : List Event} (hopen : (s.ringsOf k).st = .opened) (hroom : rspRoom (s.ringsOf k) = true)
    (hheld : (s.ringsOf k).held = e :: q) : ∃ u, Answers s u ∧ u.ringsOf k = { s.ringsOf k with rspProd := (s.ringsOf k).rspProd + 1 } ∧
      exec (.brianeEventDeliver k) s = .next (u.setRings k { u.ringsOf k with held := q, lostFlag := false }) := by
  refine ⟨s.rspWrite k (rspEntry e.code 0 (1 + 2 * b2n (s.ringsOf k).lostFlag) 0 0 e.payload), s.rspWrite_answers k _,
    (s.rspWrite_ringsOf k _ k).trans (if_pos rfl), ?_⟩
  change execBrianeEventDeliver k s = _
  unfold execBrianeEventDeliver
  dsimp only
  rw [hheld]
  exact next_congr (if_pos ⟨hopen, hroom⟩)

/-- Fausk answers an offer: the rings open at the highest version both sides have, or the offer is rejected (R258). -/
theorem State.negotiate_effect (s : State) (k : Nat) : Answers s (s.negotiate k) ∧
    let lo := (s.reg (brnBase k + 0x100)).toNat % 65536
    let hi := (s.reg (brnBase k + 0x100)).toNat / 65536
    let b := min hi s.fw.verMax.toNat
    (s.negotiate k).ringsOf k = if lo ≤ hi ∧ max lo s.fw.verMin.toNat ≤ b then { s.ringsOf k with st := .opened, maj := b / 256, min := b % 256 }
      else { s.ringsOf k with st := .rejected, maj := 0, min := 0 } := by
  unfold State.negotiate
  extract_lets v lo hi a b r u
  have hu : Answers s u ∧ u.ringsOf k = if lo ≤ hi ∧ a ≤ b then { r with st := .opened, maj := b / 256, min := b % 256 }
      else { r with st := .rejected, maj := 0, min := 0 } := by
    dsimp only [u]
    split
    · exact ⟨State.setRings_answers .., (State.setRings_ringsOf ..).trans (if_pos rfl)⟩
    · have hs := State.cause_signals (s.setRings k { r with st := .rejected, maj := 0, min := 0 }) 0xA000 9
      exact ⟨(State.setRings_answers ..).trans hs.answers, (hs.ringsOf k).trans ((State.setRings_ringsOf ..).trans (if_pos rfl))⟩
  clear_value u
  have hs := u.cause_signals (brnBase k) 9
  exact ⟨hu.1.trans hs.answers, (hs.ringsOf k).trans hu.2⟩

/-- Settles O35. -/
theorem brianeRingsTakeAndAnswerRequests : Obligations.BrianeRingsTakeAndAnswerRequests := by
  refine ⟨fun s k r hcan hr => ?start, fun s k i r h => if_pos h, fun s k i r h0 hk hi => ?notPf, fun s k e q hopen hroom hheld => ?deliver,
    fun s ag v l hg hpg ho hlock hopen hfew => ?reqProd, fun s ag v l hg hpg ho hlock hopen hlong => ?rspCons,
    fun s ag l hg hpg ho hlock hno hnn hready hres hun hflr hswap => ?hello⟩
  case start =>
    have hexec := exec_brianeRequestStart hcan hr
    refine ⟨fun i hop hc => ?_, fun i st det hop hc => ?_, fun hop => ⟨_, ?_, rfl, ?_⟩⟩
    · rw [hexec, hop]
      dsimp only
      rw [hc]
    · rw [hexec, hop]
      dsimp only
      rw [hc]
    · rw [hexec, hop]
    · change execBrianeReservedOpcode k _ = _
      unfold execBrianeReservedOpcode
      rw [taken_ringsOf]
      refine next_congr (if_pos ?_)
      exact Option.isNone_iff_eq_none.2 hop
  case notPf =>
    unfold State.reqCheck
    dsimp only
    rw [if_neg (by simp [h0])]
    by_cases hs : i.sender = .pf
    · rw [if_pos ⟨hs, hk⟩]
    · rw [if_neg (by simp [hs]), if_pos ⟨hk, hi.resolve_left hs⟩]
  case deliver =>
    obtain ⟨u, hu, hrings, hexec⟩ := exec_brianeEventDeliver hopen hroom hheld
    refine ⟨_, hexec, ?_, hu.insts, hu.queues, hu.sameMem⟩
    rw [State.setRings_ringsOf, if_pos rfl, hrings]
  case reqProd =>
    have hwrite := State.regWrite_brn (r := ⟨0x110, 1, 4, .rw, 0, .immediate, 0xFF, false, false⟩) hg hpg hlock (by rw [ho]; decide) rfl (.inl rfl) rfl (by omega) v
    refine next_congr (hwrite.trans ?_)
    unfold State.brnWrite
    rw [ho]
    change s.reqProdWrite l.unit (BitVec.ofNat 32 (v.toNat &&& 0xFF)) ag = _
    unfold State.reqProdWrite
    dsimp only
    rw [truncate_ofNat_and_mask, if_neg (by simp [hopen]), if_neg (Nat.not_lt.2 hfew)]
  case rspCons =>
    have hwrite := State.regWrite_brn (r := ⟨0x11C, 1, 4, .rw, 0, .immediate, 0xFF, false, false⟩) hg hpg hlock (by rw [ho]; decide) rfl (.inl rfl) rfl (by omega) v
    refine next_congr (hwrite.trans ?_)
    unfold State.brnWrite
    rw [ho]
    change s.rspConsWrite l.unit (BitVec.ofNat 32 (v.toNat &&& 0xFF)) = _
    unfold State.rspConsWrite
    dsimp only
    rw [truncate_ofNat_and_mask, if_neg (by simp [hopen]), hlong]
  case hello =>
    have hwrite := State.regWrite_brn (r := ⟨0x104, 1, 4, .wo, 0, .immediate, 1, false, false⟩) hg hpg hlock (by rw [ho]; decide) rfl (.inr rfl) rfl (by omega) 1
    let u := s.setRings l.unit { s.ringsOf l.unit with st := .negotiating }
    have hexec : exec (.verHello ag) s = .next (u.negotiate l.unit) := by
      refine next_congr (hwrite.trans ?_)
      unfold State.brnWrite
      rw [ho]
      refine (if_pos (by decide)).trans ?_
      unfold State.hello
      dsimp only
      rw [if_neg (by simp [hno, hnn]), if_neg (by simp [hready, hres, hun, hflr])]
      exact if_neg (by simp [hswap])
    obtain ⟨hans, hrings⟩ := u.negotiate_effect l.unit
    have hu : u.ringsOf l.unit = { s.ringsOf l.unit with st := .negotiating } := (State.setRings_ringsOf ..).trans (if_pos rfl)
    rw [hu] at hrings
    refine ⟨_, hexec, hans.insts, hans.sameMem, ?_⟩
    dsimp only
    split
    case isTrue h => exact hrings.trans (if_pos h)
    case isFalse h => exact hrings.trans (if_neg h)

end Sys2Proof.Machine
end

section
/-! PROOFS. Briane's requests for queues, sync blocks, address spaces, Beacons, reservations and receipts (09, 11, 12, 14, 15). -/

namespace Sys2Proof.Machine

/-- The request being served, of the opcode, is carried out. -/
theorem State.onReq_serving {s : State} {k op : Nat} {r : Req} (h : Claims.serving s k op r) (f : State → Req → State) : s.onReq k op f = f s r := by
  obtain ⟨hcur, hop, hfor⟩ := h
  unfold State.onReq
  rw [hcur]
  exact if_pos ⟨hop, hfor⟩

/-! ### Queue requests (R424 to R427, R522, R528) -/

/-- The format checks of a QUEUE_CREATE pass. -/
theorem queueCreate_format {r : Req} (hu : unusedOk r [(0, 0x18)] = true) (hloc : pay r 0 1 < 64) (huser : pay r 1 1 ≤ 1) (hband : pay r 2 1 ≤ 2)
    (hg : pay r 3 1 < 16) (hlg : 6 ≤ pay r 4 1) (hlg' : pay r 4 1 ≤ 18) (hfl : pay r 5 1 ≤ 1) (hen : pay r 7 1 ≤ 3) (hbase : pay r 8 8 % 4096 = 0) :
    ¬ (63 < pay r 0 1 ∨ 1 < pay r 1 1 ∨ 2 < pay r 2 1 ∨ 15 < pay r 3 1 ∨ pay r 4 1 < 6 ∨ 18 < pay r 4 1 ∨ 3 < pay r 5 1 ∨ 3 < pay r 7 1 ∨
      pay r 8 8 % 4096 ≠ 0 ∨ (bitOf (pay r 5 1) 1 = true ∧ presetsBad (pay r 0x10 4) = true) ∨ (!unusedOk r [(0, 0x18)]) = true) := by
  have hcustom : bitOf (pay r 5 1) 1 = false := by
    have hval : pay r 5 1 = 0 ∨ pay r 5 1 = 1 := by omega
    rcases hval with h | h <;> rw [h] <;> rfl
  rw [hcustom, hu]
  simp only [Bool.false_eq_true, false_and, Bool.not_true, or_false]
  omega

theorem State.dropFetched_setQueue_queue (s : State) (h : Nat) (q : Queue) : ((s.dropFetched h).setQueue h q).queue h = q :=
  (State.setQueue_queue ..).trans (if_pos rfl)

/-- A queue restarted at a command: what it had fetched is dropped (R426, R427). -/
def State.restartAt (s : State) (h : Nat) (head : W) (st : QSt) : State :=
  (s.dropFetched h).setQueue h { (s.dropFetched h).queue h with
    st := st, head := head, fetchPtr := head, frames := [], loops := [], pred := true, faultCode := 0, faultInfo := 0 }

/-- The four modes of a restart of a FAULTED queue. -/
theorem State.restart_faulted {s : State} {h : Nat} (hf : (s.queue h).st = .faulted) :
    s.restart h 0 = some (s.restartAt h (s.queue h).head .running) ∧
    s.restart h 1 = some (s.restartAt h (if (s.queue h).head = (s.queue h).tail then (s.queue h).head else (s.queue h).head + 1) .running) ∧
    s.restart h 2 = some (s.restartAt h (s.queue h).tail .running) ∧ s.restart h 3 = some (s.restartAt h (s.queue h).head .stopped) := by
  unfold State.restart
  dsimp only
  rw [hf]
  exact ⟨rfl, rfl, rfl, rfl⟩

/-- Settles O37. -/
theorem queueRequestsChangeTheirQueue : Obligations.QueueRequestsChangeTheirQueue := by
  refine ⟨fun s k want r h hs hu hloc huser hb1 hb2 hg hlg hlg' hfl hen hbase ht hnone hright hquota hpick => ?create,
    fun s k want r hs hu hloc huser hband hg hlg hlg' hfl hen hbase ht => ?refused, fun s k r h hs hu hloc hh => ?destroy,
    fun s k r h hs hu hloc hmode hh => ?restart, fun s h hf => ?modes, fun s k r h hs hu hloc hfl hband hg hh => ?modify⟩
  case create =>
    have hfmt := queueCreate_format hu hloc (by omega) hb2 hg hlg hlg' hfl hen hbase
    have hval : pay r 5 1 = 0 ∨ pay r 5 1 = 1 := by omega
    have hbits : bitOf (pay r 5 1) 1 = false ∧ (bitOf (pay r 5 1) 0 = true ↔ pay r 5 1 = 1) := by
      rcases hval with h | h <;> rw [h] <;> simp [bitOf]
    refine next_congr ((State.onReq_serving hs _).trans ((if_neg hfmt).trans ?_))
    rw [if_neg (by simp [ht]), if_neg (by simp [hnone]), if_neg (by simp [hright]), if_neg (by omega), if_neg (by omega), if_neg (by omega), hpick]
    simp [hbits, huser]
  case refused =>
    have hfmt := queueCreate_format hu hloc huser hband hg hlg hlg' hfl hen hbase
    have htakes : ¬ (!takes (s.inst r.target)) = true := by simp [ht]
    refine ⟨fun hsome => ?_, fun hnone hright => ?_⟩
    · exact next_congr ((State.onReq_serving hs _).trans ((if_neg hfmt).trans ((if_neg htakes).trans (if_pos (Option.isSome_iff_ne_none.2 hsome)))))
    · exact next_congr ((State.onReq_serving hs _).trans ((if_neg hfmt).trans ((if_neg htakes).trans ((if_neg (by simp [hnone])).trans
        (if_pos (by simp [hright]))))))
  case destroy =>
    have hfmt : ¬ ((!unusedOk r [(0, 1)]) = true ∨ 63 < pay r 0 1) := by simp [hu]; omega
    refine ⟨fun hrun => ?_, fun hrun hbusy hres => ?_⟩
    · refine next_congr ((State.onReq_serving hs _).trans ((if_neg hfmt).trans ?_))
      rw [hh]
      exact if_pos hrun
    · let lw : Tbl W := (s.dropFetched h).lowWord.filter fun (a, _) => a != instWin (s.queue h).inst + 0x1000 + 8 * (s.queue h).loc
      let u := ({ (s.dropFetched h).setQueue h queueReset with lowWord := lw } : State).ackQueue h
      refine ⟨_, u, next_congr ((State.onReq_serving hs _).trans ((if_neg hfmt).trans ?_)), rfl, s.dropFetched_setQueue_queue h queueReset⟩
      rw [hh]
      dsimp only
      rw [if_neg hrun, if_neg (by simp [hbusy]), hres]
      rfl
  case restart =>
    have hfmt : ¬ ((!unusedOk r [(0, 2)]) = true ∨ 63 < pay r 0 1 ∨ 3 < pay r 1 1) := by simp [hu]; omega
    refine ⟨fun t ht => ?_, fun hno => ?_⟩
    · refine next_congr ((State.onReq_serving hs _).trans ((if_neg hfmt).trans ?_))
      rw [hh]
      dsimp only
      rw [ht]
    · refine next_congr ((State.onReq_serving hs _).trans ((if_neg hfmt).trans ?_))
      rw [hh]
      dsimp only
      rw [hno]
  case modes =>
    obtain ⟨h0, h1, h2, h3⟩ := State.restart_faulted hf
    have hq (head : W) (st : QSt) : (s.restartAt h head st).queue h = _ := (State.setQueue_queue ..).trans (if_pos rfl)
    exact ⟨_, _, _, _, h0, by rw [hq], by rw [hq], h1, by rw [hq], h2, by rw [hq], by rw [hq], h3, by rw [hq]⟩
  case modify =>
    have hfmt : ¬ ((!unusedOk r [(0, 4)]) = true ∨ 63 < pay r 0 1 ∨ pay r 1 1 = 0 ∨ 3 < pay r 1 1 ∨ 2 < pay r 2 1 ∨ 15 < pay r 3 1) := by
      simp [hu]; omega
    refine ⟨fun hres => ?_, fun hres hright hmax => ?_⟩
    · refine next_congr ((State.onReq_serving hs _).trans ((if_neg hfmt).trans ?_))
      rw [hh]
      exact if_pos (Option.isSome_iff_ne_none.2 hres)
    · refine next_congr ((State.onReq_serving hs _).trans ((if_neg hfmt).trans ?_))
      rw [hh]
      dsimp only
      rw [if_neg (by simp [hres]), if_neg (by simp [hright]), if_neg (by omega), hfl]
      rfl

end Sys2Proof.Machine
end

section
/-! PROOFS. Briane's requests for sync blocks, address spaces, Beacons, reservations and receipts (11, 12, 14, 15). -/

namespace Sys2Proof.Machine

/-! ### Sync blocks and objects (R575 to R580) -/

/-- A semaphore without waiters is evaluated without an effect. -/
theorem State.evaluate_of_no_waiter {s : State} {i : Nat} (ht : (s.obj i).type = 2) (hw : ∀ w ∈ s.sync.waiters, w.obj ≠ i) :
    s.evaluate i = (s.setObj i (s.obj i), 0) := by
  have hnone : s.waitersOf i = [] := List.filter_eq_nil_iff.2 fun w h => by simpa using hw w h
  unfold State.evaluate
  dsimp only
  rw [hnone, if_neg (by rw [ht]; decide)]
  simp only [List.filter_nil, takeConsumers, List.append_nil, List.foldl_nil]
  rw [if_neg (by simp)]
  rfl

theorem State.logAppend_sync (s : State) (r : LogRec) : (s.logAppend r).sync = s.sync := by
  unfold State.logAppend
  dsimp only
  split <;> rfl

theorem State.logRec_sync (s : State) (sev source inst : Nat) : (s.logRec sev source inst).sync = s.sync := by
  unfold State.logRec
  split
  · rfl
  · exact (State.logAppend_sync ..).trans rfl

/-- The reports of a SYNC_FORCE leave every sync object. -/
theorem State.forceReports_sync (s : State) (i t detail : Nat) :
    (((((s.count 0x180130).syncEvent i 4).cause 0x180000 11).logRec 2 2 t).raise 0x0304 (.agent 0 0) none 0x180000 detail).sync = s.sync := by
  have h1 : Signals s (((s.count 0x180130).syncEvent i 4).cause 0x180000 11) :=
    ((s.count_signals _).trans (State.capture31_signals ..)).trans (State.cause_signals ..)
  generalize ((s.count 0x180130).syncEvent i 4).cause 0x180000 11 = u at h1
  exact (State.raise_signals ..).sync.trans ((State.logRec_sync ..).trans h1.sync)

theorem exec_syncForce {s : State} {k i : Nat} {r : Req} (hs : Claims.serving s k 0x0202 r) (hu : unusedOk r [(0, 5), (8, 4)] = true) (hact : pay r 4 1 = 0)
    (hid : pay r 0 4 < 2 ^ 14) (hst : (s.inst r.target).st = .active) (hi : s.syncIndex r.target (pay r 0 4) = some i) (ht : (s.obj i).type = 2)
    (hlim : pay r 8 4 ≤ (s.obj i).limit) (hw : ∀ w ∈ s.sync.waiters, w.obj ≠ i) : ∃ u : State,
    exec (.syncForce k) s = .next (u.respond k r 0 0 (leBytes 4 (s.obj i).value ++ leBytes 2 0 ++ leBytes 2 0)) ∧
    u.sync = ((s.setObj i { s.obj i with forced := true, value := pay r 8 4 }).setObj i { s.obj i with forced := true, value := pay r 8 4 }).sync := by
  let z := s.setObj i { s.obj i with forced := true, value := pay r 8 4 }
  have hz : z.obj i = { s.obj i with forced := true, value := pay r 8 4 } := (State.setObj_obj ..).trans (if_pos rfl)
  have hforce : s.forceObj i (pay r 4 1) (pay r 8 4) = (z.setObj i (z.obj i), 0) := by
    unfold State.forceObj
    rw [hact]
    exact State.evaluate_of_no_waiter (s := z) (by rw [hz]; exact ht) hw
  let y := z.setObj i (z.obj i)
  let x := ((y.count 0x180130).syncEvent i 4).cause 0x180000 11
  refine ⟨(x.logRec 2 2 r.target).raise 0x0304 (.agent 0 0) none 0x180000 (x.syncDetail i), ?_, ?_⟩
  · have hfmt : ¬ ((!unusedOk r [(0, 5), (8, 4)]) = true ∨ 2 < pay r 4 1 ∨ 2 ^ 14 ≤ pay r 0 4) := by
      rw [hu, hact]
      simpa using hid
    refine next_congr ((State.onReq_serving hs _).trans ((if_neg hfmt).trans ((if_neg (by simp [hst])).trans ?_)))
    rw [hi]
    dsimp only
    rw [hforce, hact]
    refine (if_neg (by simp [ht, hlim])).trans ?_
    rw [if_neg (show ¬ (s.obj i).type = 1 by omega)]
  · exact (State.forceReports_sync y i r.target _).trans (congrArg (fun o => (z.setObj i o).sync) hz)

/-- Settles O38. -/
theorem syncAndAddressSpaceRequests : Obligations.SyncAndAddressSpaceRequests := by
  refine ⟨fun s k want r b hs hu ho ht hfree hquota hpick => ?alloc, fun s k r b hs hu hfind => ?free,
    fun s k r i hs hu hact hid hst hi ht hlim hw => ?force, fun s k r hs hu halign hlt hst => ?aspace⟩
  case alloc =>
    have hnot : ¬ pay r 0 2 = 0xFFFF := by omega
    have hheld : (s.sync.blocks.any fun (_, p) => p == (r.target, pay r 0 2)) = false := by
      rw [List.any_eq_false]
      rintro ⟨j, p⟩ hmem
      simpa using hfree j p hmem
    have hlow : pickFree 256 (pay r 0 2) (fun x => x != pay r 0 2) = some (pay r 0 2) := if_pos ⟨by omega, by simp⟩
    refine next_congr ((State.onReq_serving hs _).trans ((if_neg (by simp [hu]; omega)).trans ((if_neg (by simp [ht])).trans ?_)))
    rw [if_neg fun h => Bool.false_ne_true (hheld.symm.trans h.2), if_neg (by omega), hpick]
    simp only [if_neg hnot, hlow]
  case free =>
    have hfind' : (s.sync.blocks.find? fun (_, p) => p == (r.target, pay r 0 1)) = some (b, (r.target, pay r 0 1)) := hfind
    refine ⟨fun ⟨w, hw, hb⟩ => ?_, fun hno => ?_⟩
    · refine next_congr ((State.onReq_serving hs _).trans ((if_neg (by simp [hu])).trans ?_))
      rw [hfind']
      exact if_pos (List.any_eq_true.2 ⟨w, hw, by simpa using hb⟩)
    · refine next_congr ((State.onReq_serving hs _).trans ((if_neg (by simp [hu])).trans ?_))
      rw [hfind']
      exact if_neg (by simpa using hno)
  case force =>
    obtain ⟨u, hexec, hsync⟩ := exec_syncForce hs hu hact hid hst hi ht hlim hw
    have hobj (j : Nat) : u.obj j = if j = i then { s.obj i with forced := true, value := pay r 8 4 } else s.obj j := by
      have hsame : u.obj j = ((s.setObj i { s.obj i with forced := true, value := pay r 8 4 }).setObj i
          { s.obj i with forced := true, value := pay r 8 4 }).obj j := congrArg (fun y : Sync => tblGet objReset j y.objs) hsync
      rw [hsame, State.setObj_obj, State.setObj_obj]
      split <;> rfl
    refine ⟨_, u, hexec, rfl, ?_, ?_, fun j hj => (hobj j).trans (if_neg hj)⟩
    · rw [hobj, if_pos rfl]
    · rw [hobj, if_pos rfl]
  case aspace =>
    have hfmt : ¬ ((!unusedOk r [(0, 8)]) = true ∨ pay r 0 8 % 4096 ≠ 0 ∨ 2 ^ 37 ≤ pay r 0 8) := by simp [hu]; omega
    refine ⟨fun hbad => ?_, fun hok => ?_⟩
    · exact next_congr ((State.onReq_serving hs _).trans ((if_neg hfmt).trans ((if_neg (by rcases hst with h | h <;> simp [h])).trans (if_pos hbad))))
    · exact next_congr ((State.onReq_serving hs _).trans ((if_neg hfmt).trans ((if_neg (by rcases hst with h | h <;> simp [h])).trans (if_neg (by simp [hok])))))

/-! ### Beacons, reservations and receipts (R505 to R527, R705, R706) -/

/-- A configuration accepted on a Beacon that is off takes effect at once (R508, R525). -/
theorem State.acceptBeacon_of_off {s : State} {b : Nat} {c : BcnCfg} (hoff : (s.beacon b).cfg.src = 0) (hc : c.src = 4) :
    (s.acceptBeacon b c).beacon b = { s.beacon b with
      cfg := c, pend := none, ticks := 0, ticked := false, since := s.ck.gtime, frames := c.div - 1, locked := true, lockLost := false } := by
  unfold State.acceptBeacon
  dsimp only
  rw [if_neg (by simp [hoff]), if_neg (by simp [hc]), hc]
  exact (State.setBeacon_beacon ..).trans (if_pos rfl)

/-- Binding queues to a reservation changes the queues named alone. -/
theorem foldl_bindQueue (j : Nat) (hs : List Nat) (s : State) :
    let u := hs.foldl (fun s h => s.setQueue h { s.queue h with res := some j }) s
    (∀ h, u.queue h = if h ∈ hs then { s.queue h with res := some j } else s.queue h) ∧ ∀ i, u.resv i = s.resv i := by
  induction hs generalizing s with
  | nil => exact ⟨fun h => by simp, fun i => rfl⟩
  | cons a hs ih =>
    obtain ⟨hq, hr⟩ := ih (s.setQueue a { s.queue a with res := some j })
    refine ⟨fun h => ?_, fun i => (hr i).trans rfl⟩
    rw [List.foldl_cons, hq h, State.setQueue_queue]
    by_cases ha : h = a
    · subst ha
      simp
    · simp [ha]

theorem exec_reserve {s : State} {k want : Nat} {r : Req} {hs : List Nat} {j : Nat} (hserv : Claims.serving s k 0x0401 r)
    (hu : unusedOk r [(0, 2), (4, 12)] = true) (hg : pay r 0 1 < 16) (hb : pay r 1 1 < 8) (hne : pay r 4 4 ≠ 0)
    (hfit : 1000 * pay r 4 4 ≤ s.grpSize (pay r 0 1) * s.bcnPeriod (pay r 1 1)) (ht : takes (s.inst r.target) = true)
    (hright : bitOf (s.inst r.target).rights.toNat (pay r 0 1) = true) (hsrc : (s.beacon (pay r 1 1)).cfg.src ≠ 0)
    (hlast : (s.bcnLatest (pay r 1 1)).src ≠ 0) (hmask : s.maskQueues r.target (pay r 8 8) = some hs)
    (hfree : ∀ h ∈ hs, (s.queue h).band = 0 ∧ (s.queue h).cgrp = pay r 0 1 ∧ (s.queue h).res = none)
    (hquota : s.resvsHeld r.target < (s.inst r.target).maxRes) (hpick : pickFree 256 want (fun j => (s.resv j).valid) = some j) :
    let v : Resv := { resvReset with
      valid := true, inst := r.target, grp := pay r 0 1, bcn := pay r 1 1, budget := pay r 4 4, queues := BitVec.ofNat 64 (pay r 8 8) }
    let u := hs.foldl (fun s h => s.setQueue h { s.queue h with res := some j }) (s.setResv j v)
    exec (.reserve k want) s = .next (if s.admits s.bcnPeriod s.grpMask [v] = true
      then u.respond k r 0 0 ([BitVec.ofNat 8 j, 0] ++ leBytes 2 (u.utilMax (u.grpMask (pay r 0 1)))) else s.respond k r 8 0 []) := by
  have hfmt : ¬ ((!unusedOk r [(0, 2), (4, 12)]) = true ∨ 15 < pay r 0 1 ∨ 7 < pay r 1 1 ∨ pay r 4 4 = 0 ∨
      (s.bcnPeriod (pay r 1 1) ≠ 0 ∧ s.grpSize (pay r 0 1) ≠ 0 ∧ s.grpSize (pay r 0 1) * s.bcnPeriod (pay r 1 1) < 1000 * pay r 4 4)) := by
    rw [hu]
    simp only [Bool.not_true, Bool.false_eq_true, false_or]
    omega
  have hband : ¬ (hs.any fun h => (s.queue h).band != 0 || (s.queue h).cgrp != pay r 0 1) = true := by
    simp only [List.any_eq_true, not_exists, not_and]
    intro h hmem
    simp [(hfree h hmem).1, (hfree h hmem).2.1]
  have hres : ¬ (hs.any fun h => (s.queue h).res.isSome) = true := by
    simp only [List.any_eq_true, not_exists, not_and]
    intro h hmem
    simp [(hfree h hmem).2.2]
  intro v u
  refine next_congr ((State.onReq_serving hserv _).trans ((if_neg hfmt).trans ((if_neg (by simp [ht])).trans ((if_neg (by simp [hright])).trans
    ((if_neg (by simp [hsrc, hlast])).trans ?_)))))
  rw [hmask]
  dsimp only
  rw [if_neg hband, if_neg hres, if_neg (by omega), hpick]
  by_cases ha : s.admits s.bcnPeriod s.grpMask [v] = true
  · rw [if_pos ha]
    exact if_neg (by simpa using ha)
  · rw [if_neg ha]
    exact if_pos (by simpa using ha)

/-- Settles O39. -/
theorem beaconReservationAndReceiptRequests : Obligations.BeaconReservationAndReceiptRequests := by
  refine ⟨fun s k r hs hu hb hsrc hdv hper hno => ?config, fun s b c hsrc => if_pos hsrc, fun s b c hoff hc => ?off,
    fun s k want r hs j hserv hu hg hb hne hfit ht hright hsrc hlast hmask hfree hquota hpick => ?reserve, fun s k r hs hu => ?release, fun s j => ?freed,
    fun s k r gs u hs hu hd hn hal hlt he he' hown hrc hsegs hhost hready => ?receipt, fun s k r hs hu hd => ?stop⟩
  case config =>
    have hhas : (s.resvs.any fun (_, v) => v.valid && v.bcn == pay r 0 1) = false := by
      rw [List.any_eq_false]
      rintro ⟨j, v⟩ hmem hv
      simp only [Bool.and_eq_true, beq_iff_eq] at hv
      exact hno j v hmem hv.1 hv.2
    have hhd : ¬ (pay r 1 1 = 1 ∨ pay r 1 1 = 2) := by omega
    refine next_congr ((State.onReq_serving hs _).trans ?_)
    dsimp only
    rw [if_neg (by simp [hu, hdv, hper]; omega), if_neg (by simp [hhd]), if_neg (by simp [hhd]), if_neg (by rw [hhas]; simp), if_neg (by rw [hhas]; simp),
      if_neg hhd, hdv]
  case off =>
    rw [State.acceptBeacon_of_off hoff hc]
    exact ⟨rfl, rfl, rfl, rfl, rfl⟩
  case reserve =>
    have hexec := exec_reserve hserv hu hg hb hne hfit ht hright hsrc hlast hmask hfree hquota hpick
    intro v
    obtain ⟨hq, hr⟩ := foldl_bindQueue j hs (s.setResv j v)
    refine ⟨fun hno => hexec.trans (next_congr (if_neg (by rw [hno]; simp))), fun hyes => ⟨_, _, hexec.trans (next_congr (if_pos hyes)), rfl, ?_, ?_, ?_, ?_⟩⟩
    · rw [hr, State.setResv_resv, if_pos rfl]
    · intro h hmem
      rw [hq, if_pos hmem]
    · intro h hmem
      rw [hq, if_neg hmem]
      rfl
    · intro i hi
      rw [hr, State.setResv_resv, if_neg hi]
  case release =>
    refine ⟨fun hno => ?_, fun hval hinst hk => ?_⟩
    · exact next_congr ((State.onReq_serving hs _).trans ((if_neg (by simp [hu])).trans (if_pos (by simpa using hno))))
    · refine next_congr ((State.onReq_serving hs _).trans ((if_neg (by simp [hu])).trans ((if_neg (by simp [hval, hinst])).trans ?_)))
      dsimp only
      rw [if_neg (by tauto)]
  case freed =>
    exact ⟨(s.setResv_resv j j resvReset :).trans (if_pos rfl), fun i hi => (s.setResv_resv j i resvReset :).trans (if_neg hi)⟩
  case receipt =>
    refine next_congr ((State.onReq_serving hs _).trans ((if_neg (by simp [hu]; omega)).trans ((if_neg (by simp [hown])).trans ((if_neg (by simp [hrc])).trans ?_))))
    rw [hsegs]
    exact (if_neg (by simp [hhost])).trans (if_neg (by simp [hready]))
  case stop =>
    have hfmt : ¬ ((!unusedOk r [(0, 1)]) = true ∨ 1 < pay r 0 1) := by simp [hu]; omega
    refine ⟨fun hno => next_congr ((State.onReq_serving hs _).trans ((if_neg hfmt).trans (if_pos hno))), fun hown c hc => ?_⟩
    refine next_congr ((State.onReq_serving hs _).trans ((if_neg hfmt).trans ((if_neg (by simp [hown])).trans ?_)))
    dsimp only
    rw [hc]

end Sys2Proof.Machine
end

section
/-! PROOFS. The life of instances: the requests that drive it (07). -/

namespace Sys2Proof.Machine

/-! ### What an answer leaves -/

section
variable {s t : State} (h : Answers s t)
include h
theorem Answers.inst (k : Nat) : t.inst k = s.inst k := (congrArg (State.inst · k) h).trans rfl
theorem Answers.slots : t.slots = s.slots := (congrArg State.slots h).trans rfl
theorem Answers.cmds : t.cmds = s.cmds := (congrArg State.cmds h).trans rfl
theorem Answers.ctxs : t.ctxs = s.ctxs := (congrArg State.ctxs h).trans rfl
theorem Answers.ck : t.ck = s.ck := (congrArg State.ck h).trans rfl
end

/-! ### Events and state changes (R255, R311) -/

theorem State.postEvent_answers (s : State) (k code : Nat) (pl : List Byte) : Answers s (s.postEvent k code pl) := by
  unfold State.postEvent
  dsimp only
  split
  · exact (Signals.refl s).answers
  · split
    · exact (s.setRings_answers ..).trans (State.setReg_signals ..).answers
    · exact s.setRings_answers ..

/-- An event joins a function's held events; its requests stay. -/
theorem State.postEvent_requests (s : State) (k code : Nat) (pl : List Byte) (j : Nat) :
    ((s.postEvent k code pl).ringsOf j).cur = (s.ringsOf j).cur ∧ ((s.postEvent k code pl).ringsOf j).long = (s.ringsOf j).long := by
  have hput (b : Brn) (hc : b.cur = (s.ringsOf k).cur) (hl : b.long = (s.ringsOf k).long) :
      ((s.setRings k b).ringsOf j).cur = (s.ringsOf j).cur ∧ ((s.setRings k b).ringsOf j).long = (s.ringsOf j).long := by
    rw [State.setRings_ringsOf]
    split
    · subst j
      exact ⟨hc, hl⟩
    · exact ⟨rfl, rfl⟩
  unfold State.postEvent
  dsimp only
  split
  · exact ⟨rfl, rfl⟩
  · split
    · rw [(State.setReg_signals ..).ringsOf]
      exact hput { s.ringsOf k with lostFlag := true } rfl rfl
    · exact hput _ rfl rfl

theorem State.postEvent_reg (s : State) (k code : Nat) (pl : List Byte) {a : Nat} (ha : a ≠ instWin k + 0x2120) :
    (s.postEvent k code pl).reg a = s.reg a := by
  unfold State.postEvent
  dsimp only
  split
  · rfl
  · split
    · rw [State.setReg_reg, if_neg ha]
      rfl
    · rfl

/-- An INST entry after a change of state: its code, its CAUSE and the count of transitions (R311). -/
def State.entered (s : State) (k : Nat) (x : InstSt) (c : Nat) : State :=
  s.setInst k { s.inst k with st := x, cause := c, trans := min ((s.inst k).trans + 1) 0xFFFF }

/-- The signals of a change of state: an event and the causes of two pages. -/
theorem State.setSt_eq (s : State) (k : Nat) {x : InstSt} (c : Nat) (hx : x ≠ .active) : s.setSt k x c =
    ((((s.entered k x c).postEvent k 0x8002 [BitVec.ofNat 8 (stCode (s.inst k).st), BitVec.ofNat 8 (stCode x), BitVec.ofNat 8 c]).causes 0x1F0000
      (2 ^ 8 + if x = .faulted then 2 ^ 9 else 0)).cause (instWin k) 8) := by
  unfold State.setSt
  exact if_neg hx

theorem State.setSt_signals (s : State) (k : Nat) {x : InstSt} (c : Nat) (hx : x ≠ .active) :
    Signals ((s.entered k x c).postEvent k 0x8002 [BitVec.ofNat 8 (stCode (s.inst k).st), BitVec.ofNat 8 (stCode x), BitVec.ofNat 8 c])
      (s.setSt k x c) := by
  rw [State.setSt_eq s k c hx]
  exact (State.causes_signals ..).trans (State.cause_signals ..)

theorem State.setSt_answers (s : State) (k : Nat) {x : InstSt} (c : Nat) (hx : x ≠ .active) : Answers (s.entered k x c) (s.setSt k x c) :=
  (State.postEvent_answers ..).trans (State.setSt_signals s k c hx).answers

theorem State.setSt_inst (s : State) (k : Nat) {x : InstSt} (c : Nat) (hx : x ≠ .active) (j : Nat) : (s.setSt k x c).inst j =
    if j = k then { s.inst k with st := x, cause := c, trans := min ((s.inst k).trans + 1) 0xFFFF } else s.inst j :=
  ((s.setSt_answers k c hx).inst j).trans (State.setInst_inst ..)

theorem State.setSt_requests (s : State) (k : Nat) {x : InstSt} (c : Nat) (hx : x ≠ .active) (j : Nat) :
    ((s.setSt k x c).ringsOf j).cur = (s.ringsOf j).cur ∧ ((s.setSt k x c).ringsOf j).long = (s.ringsOf j).long := by
  rw [(s.setSt_signals k c hx).ringsOf j]
  exact State.postEvent_requests (s.entered k x c) ..

/-- QUIESCE_LIMIT and AUTO_RESET of an INST entry stay. -/
theorem State.setSt_reg_ctrl (s : State) (k : Nat) {x : InstSt} (c : Nat) (hx : x ≠ .active) :
    (s.setSt k x c).reg (aInstCtrl k) = s.reg (aInstCtrl k) := by
  have hpage : aInstCtrl k ≠ instWin k + 0x10 ∧ aInstCtrl k ≠ 0x1F0000 + 0x10 ∧ aInstCtrl k ≠ instWin k + 0x2120 := by
    unfold aInstCtrl instWin
    omega
  obtain ⟨hwin, hmh, hev⟩ := hpage
  rw [State.setSt_eq s k c hx, State.cause_reg_of_ne _ 8 hwin, State.causes_reg, if_neg hmh, State.postEvent_reg _ _ _ _ hev]
  rfl

/-- A DRAIN quiesce of an ACTIVE INST makes it QUIESCING and leaves its work to end (R309, R316). -/
theorem State.trigger_drain {s : State} {j : Nat} (hst : (s.inst j).st = .active) (hq : (s.inst j).quiesce = none) :
    s.trigger j true false false .quiesced 0 = (s.setSt j .quiescing 0).setInst j { (s.setSt j .quiescing 0).inst j with
      quiesce := some { drain := true, forced := false, killed := false, fault := false, after := .quiesced, cause := 0 } } := by
  unfold State.trigger
  dsimp only
  rw [hst, hq]
  rfl

/-! ### INST_QUIESCE names one INST (R338) -/

theorem bitOf_two_pow_iff (j i : Nat) : bitOf (2 ^ j) i = decide (i = j) := by
  rw [bitOf_eq_testBit, Nat.testBit_two_pow]
  exact decide_eq_decide.2 eq_comm

/-- A mask of one bit names that bit. -/
theorem filter_range_two_pow {j : Nat} (hj : j < 128) : ((List.range 128).filter fun i => bitOf (2 ^ j) i) = [j] := by
  have hf : (fun i => bitOf (2 ^ j) i) = fun i => i == j := funext fun i => (bitOf_two_pow_iff j i).trans rfl
  rw [hf, List.filter_beq, List.count_eq_one_of_mem List.nodup_range (List.mem_range.2 hj)]
  rfl

theorem exec_instQuiesce_drain {s : State} {k j : Nat} {r : Req} (hs : Claims.serving s k 0x0502 r) (hu : unusedOk r [(0, 1), (8, 16)] = true)
    (hop : pay r 0 1 = 1) (hj : j < 128) (hmask : pay r 8 16 = 2 ^ j) (hst : (s.inst j).st = .active) (hq : (s.inst j).quiesce = none) :
    ∃ l, exec (.instQuiesce k) s = .next ((s.respondPending k r l).trigger j true false false .quiesced 0) := by
  have hks : ((List.range 128).filter fun i => bitOf (pay r 8 16) i) = [j] := by rw [hmask, filter_range_two_pow hj]
  have hcan : canQuiesce (s.inst j) = true := by
    unfold canQuiesce
    rw [hq]
    simp [hst]
  let l : Long := { longNew r with mask := [j], done := [j].filter fun i => isQuiet (s.inst i),
                                   failed := [j].filter fun i => !isQuiet (s.inst i) && !canQuiesce (s.inst i) }
  refine ⟨l, next_congr ((State.onReq_serving hs _).trans ((if_neg (by simp [hu, hop])).trans ?_))⟩
  dsimp only
  have hwait : ([j].filter fun i => canQuiesce (s.inst i)) = [j] := by simp [hcan]
  rw [hks, hwait, if_neg (by simp)]
  refine (if_pos ?_).trans (congrArg (fun d => (s.respondPending k r l).trigger j d false false .quiesced 0) (by rw [hop]; rfl))
  rw [(s.respondPending_answers k r l).inst]
  exact hst

/-! ### SLOT_ASSIGN of one slot (R301, R305, R339) -/

/-- A slot given or taken: its entry, and the signal to its owner where its bitmap changes. -/
theorem State.slotStep (s : State) (n w : Nat) (v : Slot) (c : Prop) [Decidable c] :
    ∃ u, u = (if c then (s.setSlot n v).cause w 10 else s.setSlot n v) ∧ u.slot n = v ∧ ∀ m, m ≠ n → u.slot m = s.slot m := by
  have hu : Signals (s.setSlot n v) (if c then (s.setSlot n v).cause w 10 else s.setSlot n v) :=
    .ite (State.cause_signals ..) (.refl _)
  exact ⟨_, rfl, (hu.slot n).trans ((State.setSlot_slot ..).trans (if_pos rfl)), fun m hm => (hu.slot m).trans ((State.setSlot_slot ..).trans (if_neg hm))⟩

theorem exec_slotAssign_check {s : State} {k n : Nat} {r : Req} {x : Nat × Nat} (hs : Claims.serving s k 0x0505 r)
    (hu : unusedOk r [(0, 2), (4, 2)] = true) (hop : pay r 0 1 = 0) (hn : pay r 1 1 = 1) (hp : pay r 4 2 = n)
    (hc : s.slotCheck r.target 0 [n] = some x) : exec (.slotAssign k) s = .next (s.respond k r x.1 x.2 []) := by
  subst hp
  refine next_congr ((State.onReq_serving hs _).trans ?_)
  dsimp only
  rw [hop, hn, if_neg (by simp [hu])]
  simp only [List.range_one, List.map_cons, List.map_nil, Nat.mul_zero, Nat.add_zero, hc]

theorem exec_slotAssign_give {s : State} {k n : Nat} {r : Req} (hs : Claims.serving s k 0x0505 r) (hu : unusedOk r [(0, 2), (4, 2)] = true)
    (hop : pay r 0 1 = 0) (hn : pay r 1 1 = 1) (hp : pay r 4 2 = n) (hc : s.slotCheck r.target 0 [n] = none) (ha : (s.inst r.target).st ≠ .active) :
    ∃ u : State, exec (.slotAssign k) s = .next (u.respond k r 0 0 (leBytes 4 (if (s.slot n).scrub = .clean then 0 else 1))) ∧
      u.slot n = { s.slot n with owner := some r.target } ∧ ∀ m, m ≠ n → u.slot m = s.slot m := by
  subst hp
  obtain ⟨u, hdef, hsame, hother⟩ :=
    s.slotStep (pay r 4 2) (instWin r.target) { s.slot (pay r 4 2) with owner := some r.target } ((s.slot (pay r 4 2)).scrub = .clean)
  refine ⟨u, ?_, hsame, hother⟩
  refine next_congr ((State.onReq_serving hs _).trans ?_)
  dsimp only
  rw [hop, hn, if_neg (by simp [hu])]
  simp only [List.range_one, List.map_cons, List.map_nil, Nat.mul_zero, Nat.add_zero, hc]
  rw [if_neg (by decide), if_neg (fun h => ha h.1), List.foldl_cons, List.foldl_nil, ← hdef]
  refine congrArg (fun x => u.respond k r 0 0 (leBytes 4 x)) ?_
  by_cases hclean : (s.slot (pay r 4 2)).scrub = .clean
  · simp [hclean]
  · simp [hclean]

theorem exec_slotAssign_take {s : State} {k n : Nat} {r : Req} (hs : Claims.serving s k 0x0505 r) (hu : unusedOk r [(0, 2), (4, 2)] = true)
    (hop : pay r 0 1 = 1) (hn : pay r 1 1 = 1) (hp : pay r 4 2 = n) (hc : s.slotCheck r.target 1 [n] = none) :
    ∃ u : State, exec (.slotAssign k) s = .next (u.respond k r 0 0 (leBytes 4 0)) ∧
      u.slot n = { owner := none, scrub := if (s.slot n).scrub = .clean then .waiting else (s.slot n).scrub } ∧ ∀ m, m ≠ n → u.slot m = s.slot m := by
  subst hp
  obtain ⟨u, hdef, hsame, hother⟩ := s.slotStep (pay r 4 2) (instWin r.target)
    { owner := none, scrub := if (s.slot (pay r 4 2)).scrub = .clean then .waiting else (s.slot (pay r 4 2)).scrub } ((s.slot (pay r 4 2)).scrub = .clean)
  refine ⟨u, ?_, hsame, hother⟩
  refine next_congr ((State.onReq_serving hs _).trans ?_)
  dsimp only
  rw [hop, hn, if_neg (by simp [hu])]
  simp only [List.range_one, List.map_cons, List.map_nil, Nat.mul_zero, Nat.add_zero, hc]
  rw [if_pos trivial, List.foldl_cons, List.foldl_nil, ← hdef]

/-! ### The requests -/

/-- A list that no element of fails a test. -/
theorem any_eq_false_of {α : Type} {l : List α} {p : α → Bool} (h : ∀ x ∈ l, p x = false) : l.any p = false :=
  List.any_eq_false.2 fun x hx => by rw [h x hx]; exact Bool.false_ne_true

/-- Settles O40. -/
theorem instanceRequestsDriveTheLifeCycle : Obligations.InstanceRequestsDriveTheLifeCycle := by
  refine ⟨fun s k r hs hu hmq hhl hms hmr hfl hql hql' => ?configure, fun s k r hs hu => ?activate,
    fun s k r j hs hu hop hj hmask hst hq hk => ?quiesce, fun s k r hs hu => ?reset, fun s k r hs hu => ?remove,
    fun s k r n hs hu hop hn hp => ?give, fun s k r n hs hu hop hn hp hc => ?take, fun s k r hs hu hg hm => ?define,
    fun s k r hs hu hg hst hst' hq hv => ?grant, fun s k r hs hu hd hst => ?head, fun s k r hs hu hkd hg hv => ?isolation⟩
  case configure =>
    have hfmt : ¬ ((!unusedOk r [(0, 8)]) = true ∨ 64 < pay r 0 1 ∨ (pay r 1 1 ≠ 0 ∧ (pay r 1 1 < 8 ∨ 16 < pay r 1 1)) ∨ 256 < pay r 2 2 ∨
        64 < pay r 4 1 ∨ 1 < pay r 5 1 ∨ pay r 6 2 = 0 ∨ 1000 < pay r 6 2) := by
      rw [hu]
      simp only [Bool.not_true, Bool.false_eq_true, false_or]
      omega
    refine ⟨fun ht hvf => ?_, fun ht hst hq hb hr hoq hos hor hoh => ?_⟩
    · exact next_congr ((State.onReq_serving hs _).trans ((if_neg hfmt).trans (if_pos ⟨ht, by simpa using hvf⟩)))
    · have hfn : ¬ (r.target ≠ 0 ∧ (((!s.pcie.vfEn) = true) ∨ s.pcie.numVfs < r.target)) := by
        rintro ⟨h0, h1⟩
        rcases ht with h | ⟨hen, hle⟩
        · exact h0 h
        · rcases h1 with h | h
          · simp [hen] at h
          · omega
      have hok : ¬ (!decide ((s.inst r.target).st = .unassigned ∨ (s.inst r.target).st = .configured ∨ (s.inst r.target).st = .quiesced ∨
          (r.target = 0 ∧ (s.inst r.target).st = .active))) = true := by
        have hst' : (s.inst r.target).st = .unassigned ∨ (s.inst r.target).st = .configured ∨ (s.inst r.target).st = .quiesced ∨
            (r.target = 0 ∧ (s.inst r.target).st = .active) := by
          rcases hst with h | h | h | ⟨h0, h⟩
          · exact .inl h
          · exact .inr (.inl h)
          · exact .inr (.inr (.inl h))
          · exact .inr (.inr (.inr ⟨h0, by rw [h0]; exact h⟩))
        rw [decide_eq_true hst']
        decide
      exact next_congr ((State.onReq_serving hs _).trans ((if_neg hfmt).trans ((if_neg hfn).trans ((if_neg hok).trans
        ((if_neg (by omega)).trans (if_neg (by omega)))))))
  case activate =>
    refine ⟨fun hq hst => ?_, fun h1 h2 h3 => ?_⟩
    · exact next_congr ((State.onReq_serving hs _).trans ((if_neg (by simp [hu])).trans (if_neg (by
        rcases hst with h | h | h <;> simp [hq, h]))))
    · exact next_congr ((State.onReq_serving hs _).trans ((if_neg (by simp [hu])).trans (if_pos (.inr (by simp [h1, h2, h3])))))
  case quiesce =>
    obtain ⟨l, hexec⟩ := exec_instQuiesce_drain hs hu hop hj hmask hst hq
    have ha := s.respondPending_answers k r l
    have hcur := (s.respondPending_ringsOf k r l k).trans (if_pos rfl)
    generalize s.respondPending k r l = u at hexec ha hcur
    rw [State.trigger_drain ((congrArg Inst.st (ha.inst j)).trans hst) ((congrArg Inst.quiesce (ha.inst j)).trans hq)] at hexec
    have hset := u.setSt_answers j (x := .quiescing) 0 (by decide)
    have hinst := u.setSt_inst j (x := .quiescing) 0 (by decide)
    refine ⟨_, hexec, ?_, ?_, fun i hi => ?_, hset.queues.trans ha.queues, hset.cmds.trans ha.cmds, hset.ctxs.trans ha.ctxs, ?_⟩
    · rw [State.setInst_inst, if_pos rfl, hinst, if_pos rfl]
    · rw [State.setInst_inst, if_pos rfl]
    · rw [State.setInst_inst, if_neg hi, hinst, if_neg hi, ha.inst]
    · rw [State.setInst_ringsOf, (u.setSt_requests j (x := .quiescing) 0 (by decide) k).1, hcur]
  case reset =>
    exact ⟨fun hst => next_congr ((State.onReq_serving hs _).trans ((if_neg (by simp [hu])).trans ((if_neg (by simp)).trans (if_pos hst)))),
      fun hst => next_congr ((State.onReq_serving hs _).trans ((if_neg (by simp [hu])).trans ((if_neg (by simp)).trans (if_neg hst))))⟩
  case remove =>
    exact ⟨fun h0 => next_congr ((State.onReq_serving hs _).trans ((if_neg (by simp [hu])).trans (if_pos ⟨rfl, h0⟩))),
      fun h0 hst => next_congr ((State.onReq_serving hs _).trans ((if_neg (by simp [hu])).trans ((if_neg fun h => h0 h.2).trans (if_neg hst))))⟩
  case give =>
    refine ⟨fun st d hc => exec_slotAssign_check (x := (st, d)) hs hu hop hn hp hc, fun hc ha => ?_⟩
    obtain ⟨u, hexec, hsame, hother⟩ := exec_slotAssign_give hs hu hop hn hp hc ha
    exact ⟨_, u, hexec, rfl, hsame, hother⟩
  case take =>
    obtain ⟨u, hexec, hsame, hother⟩ := exec_slotAssign_take hs hu hop hn hp hc
    refine ⟨_, u, hexec, rfl, ?_, ?_, hother⟩
    · rw [hsame]
    · rw [hsame]
      dsimp only
      split
      · decide
      · assumption
  case define =>
    have hfmt : ¬ ((!unusedOk r [(0, 1), (2, 2)]) = true ∨ 15 < pay r 0 1) := by simp [hu]; omega
    exact ⟨fun hno => next_congr ((State.onReq_serving hs _).trans ((if_neg hfmt).trans ((if_neg fun h => hm h.1).trans (if_pos (by simp [hno]))))),
      fun hyes => next_congr ((State.onReq_serving hs _).trans ((if_neg hfmt).trans ((if_neg fun h => hm h.1).trans (if_neg (by simp [hyes])))))⟩
  case grant =>
    have hmask : ((List.range 16).any fun g => bitOf (pay r 0 2) g && s.grpMask g == 0) = false := by
      refine any_eq_false_of fun g hmem => ?_
      by_cases hb : bitOf (pay r 0 2) g = true
      · rw [beq_eq_false_iff_ne.2 (hg g (List.mem_range.1 hmem) hb), Bool.and_false]
      · simp [hb]
    have hqs : (s.queues.any fun (_, q) => q.st != .free && q.inst == r.target &&
        (bitOf (s.inst r.target).rights.toNat q.cgrp && !bitOf (pay r 0 2) q.cgrp)) = false :=
      any_eq_false_of fun ⟨h, q⟩ hmem => by rcases hq h q hmem with h | h | h <;> simp [h]
    have hvs : (s.resvs.any fun (_, v) => v.valid && v.inst == r.target &&
        (bitOf (s.inst r.target).rights.toNat v.grp && !bitOf (pay r 0 2) v.grp)) = false :=
      any_eq_false_of fun ⟨j, v⟩ hmem => by rcases hv j v hmem with h | h | h <;> simp [h]
    refine next_congr ((State.onReq_serving hs _).trans ?_)
    dsimp only
    rw [hmask, hqs, hvs, if_neg (by simp [hu]), if_neg (by simp [hst, hst']), if_neg (by simp)]
  case head =>
    have hst' : ¬ (!decide ((s.inst r.target).st = .configured ∨ (s.inst r.target).st = .active ∨ (s.inst r.target).st = .quiesced)) = true := by
      rw [decide_eq_true hst]
      decide
    have hfmt {op : Nat} (hop : op ≤ 1) : ¬ ((!unusedOk r [(0, 2)]) = true ∨ 1 < pay r 0 1 ∨ 1 < op) := by
      rw [hu]
      simp only [Bool.not_true, Bool.false_eq_true, false_or]
      omega
    refine ⟨fun hop ho => ?_, fun hop ho => ?_, fun hop ho => ?_, fun hop ho => ?_⟩
    · exact next_congr ((State.onReq_serving hs _).trans ((if_neg (hfmt (by omega))).trans ((if_neg hst').trans
        ((if_pos hop).trans (if_neg (by simp [ho]))))))
    · exact next_congr ((State.onReq_serving hs _).trans ((if_neg (hfmt (by omega))).trans ((if_neg hst').trans
        ((if_pos hop).trans (if_pos (Option.isSome_iff_ne_none.2 ho))))))
    · exact next_congr ((State.onReq_serving hs _).trans ((if_neg (hfmt (by omega))).trans ((if_neg hst').trans
        ((if_neg (by omega)).trans (if_pos ho)))))
    · exact next_congr ((State.onReq_serving hs _).trans ((if_neg (hfmt (by omega))).trans ((if_neg hst').trans
        ((if_neg (by omega)).trans (if_neg (by simp [ho]))))))
  case isolation =>
    have hfmt : ¬ ((!unusedOk r [(0, 4)]) = true ∨ 1 < pay r 0 1 ∨ (pay r 0 1 = 0 ∧ (r.target ≠ 0 ∨ 15 < pay r 1 1 ∨ pay r 2 2 = 0 ∨ 0xFFF < pay r 2 2)) ∨
        (pay r 0 1 = 1 ∧ (pay r 1 1 ≠ 0 ∨ 255 < pay r 2 2))) := by
      rw [hu]
      simp only [Bool.not_true, Bool.false_eq_true, false_or]
      omega
    have hkd' : ¬ pay r 0 1 = 0 := by omega
    refine ⟨fun hl => next_congr ((State.onReq_serving hs _).trans ((if_neg hfmt).trans (if_pos (by simp [hl])))), fun hl => ?_⟩
    refine next_congr ((State.onReq_serving hs _).trans ((if_neg hfmt).trans ((if_neg (by simp [hl])).trans ?_)))
    rw [if_neg hkd', if_neg hkd']

end Sys2Proof.Machine
end

section
/-! PROOFS. The life of instances: the rows of the quiesce sequence and the slot scrub (07). -/

namespace Sys2Proof.Machine

/-! ### Tables and device memory -/

/-- A filter that keeps every entry of a key leaves what the key finds. -/
theorem tblFind_filter_keep {β : Type} {p : Nat × β → Bool} {a : Nat} (h : ∀ v, p (a, v) = true) (t : Tbl β) :
    tblFind a (t.filter p) = tblFind a t := by
  induction t with
  | nil => rfl
  | cons e t ih =>
    obtain ⟨k, v⟩ := e
    by_cases hk : k = a
    · subst hk
      simp [h, tblFind]
    · rw [List.filter_cons]
      split <;> simp [tblFind, hk, ih]

/-- A byte of device memory reads as before where its entry and what its slot leaves open stay. -/
theorem State.memByte_congr {s t : State} {a : Nat} (hm : tblFind a t.mem = tblFind a s.mem)
    (hv : tblFind (a / 2 ^ 28) t.vague = tblFind (a / 2 ^ 28) s.vague) : t.memByte a = s.memByte a := by
  unfold State.memByte State.memDef State.vagueAt
  rw [hm, hv]

/-- The contents of one slot become open; every other byte stays (R112). -/
theorem State.forget_one_memByte (s : State) {n a : Nat} (ha : a / 2 ^ 28 ≠ n) : (s.forget [n]).memByte a = s.memByte a := by
  have hlist : [n].contains (a / 2 ^ 28) = false := by simpa using ha
  refine State.memByte_congr ((tblFind_filter_keep (fun v => ?_) s.mem :)) (((tblFind_tblPut ..).trans (if_neg ha) :))
  dsimp only
  rw [hlist, Bool.not_false, Bool.true_or]

theorem State.forget_one_slot (s : State) (n m : Nat) : (s.forget [n]).slot m = s.slot m := rfl

/-! ### The end of a quiesce -/

theorem State.quiesceReport_of_none {s : State} {k : Nat} {ok : Bool} (h : (s.ringsOf 0).long = none) : s.quiesceReport k ok = s := by
  unfold State.quiesceReport
  rw [h]

/-- A quiesce that ends in a state `x` with nobody waiting for it: INST is in it, and no other one changed. -/
theorem State.quiesceEnd (s : State) (k : Nat) {x : InstSt} (c : Nat) (hx : x ≠ .active) :
    let t := (s.setSt k x c).setInst k { (s.setSt k x c).inst k with quiesce := none }
    (t.inst k).st = x ∧ (t.inst k).quiesce = none ∧ (∀ i, i ≠ k → t.inst i = s.inst i) ∧ t.queues = s.queues ∧ t.slots = s.slots ∧ Claims.SameMem s t := by
  have ha := s.setSt_answers k c hx
  have hi := s.setSt_inst k c hx
  refine ⟨?_, ?_, fun i hik => ?_, ha.queues, ha.slots, ha.sameMem⟩
  · rw [State.setInst_inst, if_pos rfl, hi, if_pos rfl]
  · rw [State.setInst_inst, if_pos rfl]
  · rw [State.setInst_inst, if_neg hik, hi, if_neg hik]

theorem exec_quiesceFlushDone {s : State} {k : Nat} {q : Quiesce} (hq : (s.inst k).quiesce = some q) (hst : (s.inst k).st = .quiescing)
    (hf : q.fault = false) (ha : q.after = .quiesced) (hb : s.instBusy k = false) (hw : s.queuedWrites k = false) (hl : (s.ringsOf 0).long = none) :
    exec (.quiesceFlushDone k) s = .next ((s.setSt k .quiesced q.cause).setInst k { (s.setSt k .quiesced q.cause).inst k with quiesce := none }) := by
  have hl' := (s.setSt_requests k (x := .quiesced) q.cause (by decide) 0).2.trans hl
  change execQuiesceFlushDone k s = _
  unfold execQuiesceFlushDone
  rw [hq]
  dsimp only
  rw [if_neg (by simp [hst, hf, hb, hw]), ha]
  exact next_congr (State.quiesceReport_of_none hl')

theorem exec_forcedKillDone {s : State} {k : Nat} {q : Quiesce} (hq : (s.inst k).quiesce = some q) (hf : q.fault = true) (ha : q.after = .quiesced)
    (hauto : bitOf (s.reg (aInstCtrl k)).toNat 16 = false) (hl : (s.ringsOf 0).long = none) :
    exec (.forcedKillDone k) s = .next ((s.setInst k { s.inst k with quiesce := none }).setSt k .faulted 5) := by
  have hl' := ((s.setInst k { s.inst k with quiesce := none }).setSt_requests k (x := .faulted) 5 (by decide) 0).2.trans hl
  have hauto' := (s.setInst k { s.inst k with quiesce := none }).setSt_reg_ctrl k (x := .faulted) 5 (by decide)
  change execForcedKillDone k s = _
  unfold execForcedKillDone
  rw [hq]
  dsimp only
  rw [if_neg (by simp [hf]), ha, State.quiesceReport_of_none hl', hauto']
  exact next_congr (if_neg (by rw [State.setInst_reg, hauto]; simp))

/-! ### The slot scrub (R302 to R304) -/

/-- Device memory with a slot scrubbed: no entry, no free bytes, no poison and no flipped bit in it. -/
def State.scrubbed (s : State) (n : Nat) : State :=
  { s with
    mem := s.mem.filter fun (a, _) => a / 2 ^ 28 != n
    vague := s.vague.filter fun (m, _) => m != n
    poison := s.poison.filter fun u => 32 * u / 2 ^ 28 != n
    flips := s.flips.filter fun (u, _) => 32 * u / 2 ^ 28 != n }

theorem State.scrubbed_memByte (s : State) (n a : Nat) : (s.scrubbed n).memByte a = if a / 2 ^ 28 = n then 0 else s.memByte a := by
  split
  · next h =>
    have hm : tblFind a (s.scrubbed n).mem = none := tblFind_filter_key_out (p := fun i => i / 2 ^ 28 != n) (by simpa using h) s.mem
    have hv : tblFind (a / 2 ^ 28) (s.scrubbed n).vague = none := tblFind_filter_key_out (p := fun m => m != n) (by simpa using h) s.vague
    unfold State.memByte State.memDef State.vagueAt
    rw [hm, hv]
    rfl
  · next h =>
    exact State.memByte_congr (tblFind_filter_key (p := fun i => i / 2 ^ 28 != n) (by simpa using h) s.mem)
      (tblFind_filter_key (p := fun m => m != n) (by simpa using h) s.vague)

/-- A finished scrub: the slot is clean in scrubbed memory, and what reports it are signals. -/
theorem exec_slotScrubDone {s : State} {n : Nat} (hs : (s.slot n).scrub = .active) :
    ∃ t, exec (.slotScrubDone n) s = .next t ∧ Signals ((s.scrubbed n).setSlot n { s.slot n with scrub := .clean }) t := by
  let y := (s.scrubbed n).setSlot n { s.slot n with scrub := .clean }
  let z := match (s.slot n).owner with
    | some k => y.cause (instWin k) 10
    | none => y
  have hz : Signals y z := by
    unfold z
    split
    · exact State.cause_signals ..
    · exact .refl y
  exact ⟨if (z.slots.all fun (_, w) => w.scrub == .clean) = true then z.cause 0x1F0000 10 else z, next_congr (if_neg (by simp [hs])),
    hz.trans (.ite (State.cause_signals ..) (.refl z))⟩

/-- Settles O41. -/
theorem instanceEventsEndWhatTheyWaitFor : Obligations.InstanceEventsEndWhatTheyWaitFor := by
  refine ⟨fun s k q hq hst hk hb => ?limit, fun s k q hq hst hf ha hb hw hl => ?flush, fun s k q hq hk => ?timeout, fun s k hst => ?reset,
    fun s k x c hx => ?enter, fun s k q hq hf ha hauto hl => ?forced, fun s n hs hn hh => ?scrubStart, fun s n hs => ?scrubDone⟩
  case limit =>
    refine ⟨_, s.killWork k (!q.drain), ?_, rfl, rfl⟩
    change execQuiesceLimitExpiry k s = _
    unfold execQuiesceLimitExpiry
    rw [hq]
    exact next_congr (if_neg (by simp [hst, hk, hb]))
  case flush => exact ⟨_, exec_quiesceFlushDone hq hst hf ha hb hw hl, s.quiesceEnd k q.cause (by decide)⟩
  case timeout =>
    refine ⟨_, _, ?_, rfl, rfl⟩
    change execFlushTimeout k s = _
    unfold execFlushTimeout
    rw [hq]
    exact next_congr (if_neg (by simp [hk]))
  case reset => exact next_congr (if_neg (by simp [hst]))
  case enter =>
    have hi := s.setSt_inst k c hx
    refine ⟨?_, ?_, ?_, fun i hik => (hi i).trans (if_neg hik), (s.setSt_answers k c hx).queues⟩ <;> rw [hi, if_pos rfl]
  case forced =>
    have hi := (s.setInst k { s.inst k with quiesce := none }).setSt_inst k (x := .faulted) 5 (by decide)
    have ha' := (s.setInst k { s.inst k with quiesce := none }).setSt_answers k (x := .faulted) 5 (by decide)
    refine ⟨_, exec_forcedKillDone hq hf ha hauto hl, ?_, ?_, fun i hik => ?_, ha'.queues⟩
    · rw [hi, if_pos rfl]
    · rw [hi, if_pos rfl, State.setInst_inst, if_pos rfl]
    · rw [hi, if_neg hik, State.setInst_inst, if_neg hik]
  case scrubStart =>
    refine ⟨_, next_congr (if_pos ⟨hs, hn, by simp [hh]⟩), (State.setSlot_slot ..).trans (if_pos rfl),
      fun m hm => (State.setSlot_slot ..).trans (if_neg hm), fun a ha => (State.setSlot_memByte ..).trans (s.forget_one_memByte ha)⟩
  case scrubDone =>
    obtain ⟨t, hexec, hsig⟩ := exec_slotScrubDone hs
    have hmem (a : Nat) := (hsig.memByte a).trans (s.scrubbed_memByte n a)
    refine ⟨t, hexec, (hsig.slot n).trans ((State.setSlot_slot ..).trans (if_pos rfl)),
      fun m hm => (hsig.slot m).trans ((State.setSlot_slot ..).trans (if_neg hm)), fun a ha => (hmem a).trans (if_pos ha),
      fun a ha => (hmem a).trans (if_neg ha), fun u hu => ?_⟩
    rw [hsig.poison] at hu
    simpa using (List.mem_filter.1 hu).2

end Sys2Proof.Machine
end

section
/-! PROOFS. Live migration: dirty-page logging and Shadow images (08). -/

namespace Sys2Proof.Machine

/-! ### Dirty-page logging (R347, R351 to R356) -/

/-- A migration request of a VF is carried out; one that names the PF is refused (R355). -/
theorem State.onVf_serving {s : State} {k op : Nat} {r : Req} (h : Claims.serving s k op r) (ht : r.target ≠ 0) (f : State → Req → State) :
    s.onVf k op f = f s r :=
  (State.onReq_serving h _).trans (if_neg ht)

theorem State.onVf_pf {s : State} {k op : Nat} {r : Req} (h : Claims.serving s k op r) (ht : r.target = 0) (f : State → Req → State) :
    s.onVf k op f = s.respond k r 4 0 [] :=
  (State.onReq_serving h _).trans (if_pos ht)

theorem exec_dirtyLogStart_dev {s : State} {k n : Nat} {r : Req} (fits : Bool) (hs : Claims.serving s k 0x0600 r) (ht : r.target ≠ 0)
    (hfl : pay r 0 1 = 2) (hnw : pay r 1 1 = 0) (hu : unusedOk r [(0, 2), (8, 12 * pay r 1 1)] = true) (hst : (s.inst r.target).st = .active)
    (hno : s.sessOf r.target = none) (hfree : (List.range 8).find? (fun j => !(s.session j).active) = some n) :
    exec (.dirtyLogStart k fits) s = .next (if !fits then s.respond k r 5 0 [] else
      (s.setSession n { sessReset with active := true, inst := r.target, host := false, dev := true, wins := [] }).respond k r 0 0
        ([BitVec.ofNat 8 n, 0, 0, 0] ++ leBytes 4 0 ++ leBytes 4 (512 * (s.slotList r.target).length))) := by
  have hbits : bitOf 2 0 = false ∧ bitOf 2 1 = true := by decide
  refine next_congr ((State.onVf_serving hs ht _).trans ?_)
  dsimp only
  rw [hu, hfl, hnw, hbits.1, hbits.2, if_neg (by simp [windowsOk, reqWindows]), if_neg (by simp [hst]), if_neg (by simp [hno]), hfree]
  rfl

/-- A harvest of device marks swaps their sets and leaves the host's (R351). -/
theorem exec_dirtyHarvest_dev {s : State} {k n : Nat} {r : Req} {v : Sess} (hs : Claims.serving s k 0x0601 r) (ht : r.target ≠ 0)
    (hfl : pay r 0 1 = 2) (hu : unusedOk r [(0, 1), (8, 12), (0x18, 12)] = true) (hv : s.sessOf r.target = some (n, v)) (hd : v.dev = true)
    (hlen : 512 * (s.slotList r.target).length ≤ pay r 0x20 4) :
    let w : Sess := { v with spareD := v.marksD, marksD := v.spareD, missed := 0, harvest := s.ck.gtime }
    exec (.dirtyHarvest k) s = .next (((s.setSession n w).respondPending k r { longNew r with
      data := leBytes 4 0 ++ leBytes 4 v.marksD.length ++ leBytes 4 v.missed ++ leBytes 4 0 ++ leBytes 8 s.ck.gtime.toNat }).hostWrite 0 (pay r 0x18 8)
        (devBitmap w (s.slotList r.target)) true) := by
  have hbits : bitOf 2 0 = false ∧ bitOf 2 1 = true := by decide
  intro w
  refine next_congr ((State.onVf_serving hs ht _).trans ?_)
  dsimp only
  rw [hu, hfl, hbits.1, hbits.2, if_neg (by decide), hv]
  dsimp only
  have hdev : (true && v.dev) = true := hd
  rw [if_neg (by simp [hd]; omega), hdev, Bool.false_and]
  simp only [Bool.false_eq_true, if_false, if_true]
  have hslots (l : Long) : ((s.setSession n w).respondPending k r l).slotList r.target = s.slotList r.target :=
    (congrArg (State.slotList · r.target) (State.respondPending_answers (s.setSession n w) k r l)).trans rfl
  rw [hslots]
  rfl

/-- Settles O42. -/
theorem dirtyLoggingSwapsItsSets : Obligations.DirtyLoggingSwapsItsSets := by
  refine ⟨fun s k r n hs ht hfl hnw hu hst hno hfree => ?start, fun s k r fits hs ht => next_congr (State.onVf_pf hs ht _),
    fun s k r n v hs ht hfl hu hv hd hlen => ?harvest, fun s k l n v hl hop hout hiss hv => ?done, fun s k r n v hs ht hu => ?stop⟩
  case start =>
    exact ⟨exec_dirtyLogStart_dev false hs ht hfl hnw hu hst hno hfree, _, _, exec_dirtyLogStart_dev true hs ht hfl hnw hu hst hno hfree, rfl, rfl⟩
  case harvest =>
    exact ⟨_, _, exec_dirtyHarvest_dev hs ht hfl hu hv hd hlen, (State.setSession_session ..).trans (if_pos rfl),
      fun j hj => (State.setSession_session ..).trans (if_neg hj), rfl⟩
  case done =>
    refine ⟨_, _, ?_, rfl, rfl⟩
    change execDirtyHarvestDone k s = _
    unfold execDirtyHarvestDone
    rw [hl]
    dsimp only
    rw [if_pos ⟨hop, by simp [hout], hiss⟩, hv]
  case stop =>
    refine ⟨fun hno => ?_, fun hv => ?_⟩
    · refine next_congr ((State.onVf_serving hs ht _).trans ((if_neg (by simp [hu])).trans ?_))
      rw [hno]
    · refine next_congr ((State.onVf_serving hs ht _).trans ((if_neg (by simp [hu])).trans ?_))
      rw [hv]

/-! ### Shadow images (R362 to R375) -/

/-- Settles O43. -/
theorem shadowSaveAndRestore : Obligations.ShadowSaveAndRestore := by
  refine ⟨fun s k r hs ht hu => ?size, fun s k r hs ht hu => ?save, fun s k l hl hop hiss => ?saved, fun s k r m cause hs ht hfl hu => ?restore,
    fun s k l m hl himg hc => ?restored⟩
  case size =>
    refine ⟨fun hno => ?_, fun m hm => ?_⟩
    · exact next_congr ((State.onVf_serving hs ht _).trans ((if_neg (by simp [hu])).trans (if_pos (by simp [hno]))))
    · exact next_congr ((State.onVf_serving hs ht _).trans ((if_neg (by simp [hu])).trans (if_neg (by simp [hm]))))
  case save =>
    refine ⟨fun hst => ?_, fun hst hq hl hlen => ?_, fun hst hq hl hlen m hm => ⟨_, _, ?_, rfl, rfl⟩⟩
    · exact next_congr ((State.onVf_serving hs ht _).trans ((if_neg (by simp [hu])).trans (if_pos (.inl hst))))
    · exact next_congr ((State.onVf_serving hs ht _).trans ((if_neg (by simp [hu])).trans ((if_neg (by simp [hst, hq])).trans
        ((if_neg (by simp [hl])).trans (if_pos hlen)))))
    · refine next_congr ((State.onVf_serving hs ht _).trans ((if_neg (by simp [hu])).trans ((if_neg (by simp [hst, hq])).trans
        ((if_neg (by simp [hl])).trans ((if_neg (by omega)).trans ?_)))))
      rw [hm]
  case saved =>
    change execShadowSaveDone k s = _
    unfold execShadowSaveDone
    rw [hl]
    exact next_congr (if_pos ⟨hop, hiss⟩)
  case restore =>
    have hfmt : ¬ (1 < pay r 0 1 ∨ (!unusedOk r [(0, 1), (8, 12)]) = true) := by simp [hu]; omega
    refine ⟨next_congr ((State.onVf_serving hs ht _).trans (if_neg hfmt)), fun st d hc => ?_, fun hc => ?_⟩
    · refine next_congr ((State.onVf_serving hs ht _).trans ((if_neg hfmt).trans ?_))
      dsimp only
      rw [hc]
    · refine next_congr ((State.onVf_serving hs ht _).trans ((if_neg hfmt).trans ?_))
      dsimp only
      rw [hc]
  case restored =>
    refine ⟨_, _, ?_, rfl, rfl⟩
    change execShadowRestoreDone k s = _
    unfold execShadowRestoreDone
    rw [hl]
    dsimp only
    rw [himg]
    dsimp only
    rw [hc]

end Sys2Proof.Machine
end

section
/-! PROOFS. Firmware: staging, activation and persistence (06). -/

namespace Sys2Proof.Machine

/-! ### The firmware's state and the end of a long request -/

theorem State.setFw_signals (s : State) (st : FwSt) : Signals { s with fw := { s.fw with st := st } } (s.setFw st) := by
  unfold State.setFw
  split
  · next h =>
    subst h
    exact .refl s
  · exact State.cause_signals ..

theorem State.finishLong_answers (s : State) (k st det : Nat) (pl : List Byte) : Answers s (s.finishLong k st det pl) := by
  unfold State.finishLong
  split
  · exact (Signals.refl s).answers
  · split
    · exact (Signals.refl s).answers
    · dsimp only
      split
      · exact (s.rspWrite_answers k _).trans (State.setRings_answers ..)
      · exact s.setRings_answers ..

/-- Firmware's state after `setFw` and the final response. -/
theorem State.setFw_finishLong (s : State) (x : FwSt) (k st det : Nat) (pl : List Byte) :
    let t := (s.setFw x).finishLong k st det pl
    t.fw = { s.fw with st := x } ∧ t.pw = s.pw ∧ t.sec = s.sec := by
  have hs := s.setFw_signals x
  have ha := (s.setFw x).finishLong_answers k st det pl
  exact ⟨ha.fw.trans hs.fw, ha.pw.trans hs.pw, ha.sec.trans hs.sec⟩

/-! ### A swap reaches neither power nor the SEC core (R284, R285) -/

theorem State.releasePaused_same (s : State) : SameCore s s.releasePaused :=
  SameCore.foldl (fun a b => SameCore.ite (fun _ => .refl a) fun _ => (a.releaseBeacon_same b).trans (State.setBeacon_same ..)) (.refl s)

theorem State.announceFw_same (s : State) (old new : W64) : SameCore s (s.announceFw old new) :=
  SameCore.foldl (fun _ _ => State.postEvent_same ..) (.refl s)

/-- Firmware's version and the SEC core's image once the staged image runs. -/
def State.swapped (s : State) (i : Image) : State :=
  let s := s.extend 7 (digestBytes i.header ++ digestBytes i.body)
  { s with
    sec := { s.sec with image := some i, svn := i.svn }
    fw := { s.fw with version := i.version, verMin := i.brnMin, verMax := i.brnMax, staged := none, actBy := none, paused := false, swapping := false } }

theorem exec_fwSwapCommit {s : State} {k : Nat} {i : Image} (hk : s.fw.actBy = some k) (hi : s.fw.staged = some i) (hs : s.fw.swapping = true) :
    ∃ t, exec .fwSwapCommit s = .next t ∧ SameCore (s.swapped i) t := by
  have hexec : ∃ w pl, exec .fwSwapCommit s =
      .next (((((((s.swapped i).setReg 0xA118 w).setFw .running).releasePaused).finishLong k 0 0 pl).announceFw s.fw.version i.version).negotiateAll).kick := by
    exact ⟨_, _, by
      change execFwSwapCommit s = _
      unfold execFwSwapCommit
      rw [hk, hi]
      exact next_congr (if_neg (by simp [hs]))⟩
  obtain ⟨w, pl, hexec⟩ := hexec
  exact ⟨_, hexec, (State.setReg_same ..).trans ((State.setFw_same ..).trans ((State.releasePaused_same _).trans ((State.finishLong_same ..).trans
    ((State.announceFw_same ..).trans ((State.negotiateAll_same _).trans (State.kick_same _))))))⟩

/-! ### The stages -/

theorem fwStage_format {r : Req} (hu : unusedOk r [(0, 12)] = true) (hal : pay r 0 8 % 4096 = 0) (hlt : pay r 0 8 < 2 ^ 48) (hmin : 1024 ≤ pay r 8 4)
    (hmax : pay r 8 4 ≤ 3145728) : ¬ ((!unusedOk r [(0, 12)]) = true ∨ pay r 0 8 % 4096 ≠ 0 ∨ 2 ^ 48 ≤ pay r 0 8 ∨ pay r 8 4 < 1024 ∨ 3145728 < pay r 8 4) := by
  rw [hu]
  simp only [Bool.not_true, Bool.false_eq_true, false_or]
  omega

theorem exec_fwPersistDone_ok {s : State} {l : Long} {f : Flash} {i : Image} (hl : (s.ringsOf 0).long = some l) (hf : s.sec.flash = some f)
    (hop : l.req.op = 0x0702) (hout : l.out = none) (hh : 0 ∉ s.sec.halted) (hp : pay l.req 0 1 = 0) (hi : s.sec.image = some i)
    (hc : imageCause s.sec i = 0) : ∃ x pl, exec (.fwPersistDone true) s =
      .next ((({ s with sec := { s.sec with flash := some (switchBcb (putSlot f i)) } } : State).setFw x).finishLong 0 0 0 pl) := by
  have himg : (if pay l.req 0 1 = 1 then s.fw.staged else s.sec.image) = some i := (if_neg (by omega)).trans hi
  exact ⟨if s.fw.staged.isSome then .staged else .running, _, by
    change execFwPersistDone true s = _
    unfold execFwPersistDone
    rw [hl, hf]
    dsimp only
    rw [if_neg (by simp [hop, hout, hh]), himg]
    simp only [if_true, hc, and_self]
    rfl⟩

/-- Settles O44. -/
theorem firmwareUpdateGoesThroughItsStages : Obligations.FirmwareUpdateGoesThroughItsStages := by
  refine ⟨fun s k r i cause u gs hs hu hal hlt hmin hmax hsegs => ?stage, fun s k r img cause u gs x hs hu hal hlt hmin hmax hsegs => ?stageFails,
    fun s i hst hi hh => ?verify, fun s k r hs hu => ?activate, fun s k hk hsw hi hb hh => ?boundary, fun s k i hk hi hs => ?commit,
    fun s k hk hsw hi => ?window, fun s k r hs hu hp => ?persist, fun s l f i hl hf hop hout hh hp hi hc => ?persisted, fun s k r hs hu => ?discard⟩
  case stage =>
    refine next_congr ((State.onReq_serving hs _).trans ((if_neg (fwStage_format hu hal hlt hmin hmax)).trans ?_))
    rw [hsegs]
    rfl
  case stageFails =>
    refine next_congr ((State.onReq_serving hs _).trans ((if_neg (fwStage_format hu hal hlt hmin hmax)).trans ?_))
    rw [hsegs]
    rfl
  case verify =>
    have hstart {t : State} (h : (if imageCause s.sec i ≠ 0 then s.dropStaged.finishLong 0 9 (imageCause s.sec i) (leBytes 8 0)
        else if (!s.sameSetup i) = true then s.dropStaged.finishLong 0 10 0 (leBytes 8 0)
        else if (!s.keepsVersions i) = true then s.dropStaged.finishLong 0 11 0 (leBytes 8 0)
        else (s.setFw .staged).finishLong 0 0 0 (leBytes 8 i.version.toNat)) = t) : exec .fwStageVerifyDone s = .next t := by
      change execFwStageVerifyDone s = _
      unfold execFwStageVerifyDone
      rw [hst, hi]
      exact next_congr ((if_neg (by simpa using hh)).trans h)
    refine ⟨fun hc => hstart (if_pos hc), fun hc hss => hstart ?_, fun hc hss hkv => hstart ?_, fun hc hss hkv => hstart ?_⟩
    · exact (if_neg (not_not_intro hc)).trans (if_pos (by simp [hss]))
    · exact (if_neg (not_not_intro hc)).trans ((if_neg (by simp [hss])).trans (if_pos (by simp [hkv])))
    · exact (if_neg (not_not_intro hc)).trans ((if_neg (by simp [hss])).trans (if_neg (by simp [hkv])))
  case activate =>
    refine ⟨fun hno => ?_, fun hsome => ?_⟩
    · exact next_congr ((State.onReq_serving hs _).trans ((if_neg (by simp [hu])).trans (if_pos (by simp [hno]))))
    · have hsome' : ¬ s.fw.staged.isNone = true := by simpa using hsome
      have hexec : ∃ v, v = s.respondPending k r (longNew r) ∧ exec (.fwActivate k) s =
          .next (({ v with fw := { v.fw with paused := true, actBy := some k, actStart := v.ck.gtime } } : State).setFw .activating) :=
        ⟨_, rfl, next_congr ((State.onReq_serving hs _).trans ((if_neg (by simp [hu])).trans (if_neg hsome')))⟩
      obtain ⟨v, hv, hexec⟩ := hexec
      have ha := s.respondPending_answers k r (longNew r)
      rw [← hv] at ha
      have hv := State.setFw_signals { v with fw := { v.fw with paused := true, actBy := some k, actStart := v.ck.gtime } } .activating
      refine ⟨_, hexec, ?_⟩
      rw [hv.fw, hv.pw, hv.sec]
      refine ⟨rfl, rfl, congrArg (·.gtime) ha.ck, rfl, congrArg (·.staged) ha.fw, ha.pw, ha.sec, fun a => (hv.memByte a).trans (ha.sameMem a)⟩
  case boundary =>
    have hexec : exec .fwActivateBoundary s = .next (({ s with fw := { s.fw with swapping := true } } : State).setLong k fun l =>
        { l with detail := (s.ck.gtime - s.fw.actStart).toNat }) := by
      change execFwActivateBoundary s = _
      unfold execFwActivateBoundary
      rw [hk]
      exact next_congr (if_neg (by simp [hsw, hb, hh, hi]))
    exact ⟨_, hexec, rfl, rfl, fun a => rfl⟩
  case commit =>
    obtain ⟨t, hexec, hsame⟩ := exec_fwSwapCommit hk hi hs
    refine ⟨t, hexec, ?_, ?_, ?_, hsame.pw⟩ <;> rw [hsame.sec] <;> rfl
  case window =>
    let u : State := { s with fw := { s.fw with actBy := none, paused := false } }
    have hexec : ∃ w pl, exec .activateWindowExpiry s = .next (((u.setReg 0xA118 w).setFw .staged).finishLong k 7 0 pl) := by
      have hst (w : W) : (if (u.setReg 0xA118 w).fw.staged.isSome = true then FwSt.staged else .running) = .staged :=
        if_pos (Option.isSome_iff_ne_none.2 hi)
      let w := actResult 2 ((s.ck.gtime - s.fw.actStart).toNat / 1000) 0
      exact ⟨w, _, by
        change execActivateWindowExpiry s = _
        unfold execActivateWindowExpiry
        rw [hk]
        exact next_congr ((if_neg (show ¬ s.fw.swapping = true by simp [hsw])).trans (congrArg (fun x => ((u.setReg 0xA118 w).setFw x).finishLong k 7 0 _) (hst w)))⟩
    obtain ⟨w, pl, hexec⟩ := hexec
    obtain ⟨hfw, hpw, hsec⟩ := (u.setReg 0xA118 w).setFw_finishLong .staged k 7 0 pl
    refine ⟨_, hexec, ?_, ?_, ?_, ?_, hpw, hsec⟩ <;> rw [hfw] <;> rfl
  case persist =>
    exact next_congr ((State.onReq_serving hs _).trans ((if_neg (by simp [hu, hp])).trans (if_neg fun h => by omega)))
  case persisted =>
    obtain ⟨x, pl, hexec⟩ := exec_fwPersistDone_ok hl hf hop hout hh hp hi hc
    obtain ⟨-, hpw, hsec⟩ := State.setFw_finishLong { s with sec := { s.sec with flash := some (switchBcb (putSlot f i)) } } x 0 0 0 pl
    exact ⟨_, hexec, hsec, hpw⟩
  case discard =>
    refine ⟨fun hst => ?_, fun hst => ?_⟩
    · refine next_congr ((State.onReq_serving hs _).trans ((if_neg (by simp [hu])).trans ?_))
      rw [hst]
    · refine next_congr ((State.onReq_serving hs _).trans ((if_neg (by simp [hu])).trans ?_))
      rw [hst]

end Sys2Proof.Machine
end

section
/-! PROOFS. What translations, reads, writes and the fetch of a queue reach: the frames that the proofs of queue commands cite (09, 10, 14). -/

namespace Sys2Proof.Machine

/-! ### Lookups: translations, host reads, ECC checks -/

/-- Between `s` and `t` only what interrupts reach, host reads, cached translations and ECC marks may differ: what translating an address,
asking for host data or checking a read changes. -/
def Lookups (s t : State) : Prop :=
  t = { s with
    regs := t.regs, fcol := t.fcol
    pcie := { s.pcie with reads := t.pcie.reads, txq := t.pcie.txq, held := t.pcie.held, sent := t.pcie.sent, pba := t.pcie.pba, ats := t.pcie.ats }
    sess := t.sess, own := t.own, caches := t.caches, poison := t.poison, flips := t.flips }

theorem Lookups.refl (s : State) : Lookups s s := rfl

theorem Lookups.trans {s t u : State} (h : Lookups s t) (k : Lookups t u) : Lookups s u := by
  unfold Lookups at h k ⊢
  rw [k, h]

theorem Signals.lookups {s t : State} (h : Signals s t) : Lookups s t := by
  unfold Lookups
  rw [h]

theorem Lookups.foldl {α : Type} {f : State → α → State} (hf : ∀ a x, Lookups a (f a x)) (l : List α) (s : State) : Lookups s (l.foldl f s) := by
  induction l generalizing s with
  | nil => exact .refl s
  | cons x l ih => exact (hf s x).trans (ih (f s x))

section
variable {s t : State} (h : Lookups s t)
include h
theorem Lookups.pw : t.pw = s.pw := (congrArg State.pw h).trans rfl
theorem Lookups.ck : t.ck = s.ck := (congrArg State.ck h).trans rfl
theorem Lookups.insts : t.insts = s.insts := (congrArg State.insts h).trans rfl
theorem Lookups.queues : t.queues = s.queues := (congrArg State.queues h).trans rfl
theorem Lookups.cmds : t.cmds = s.cmds := (congrArg State.cmds h).trans rfl
theorem Lookups.sync : t.sync = s.sync := (congrArg State.sync h).trans rfl
theorem Lookups.nextId : t.nextId = s.nextId := (congrArg State.nextId h).trans rfl
theorem Lookups.launches : t.launches = s.launches := (congrArg State.launches h).trans rfl
theorem Lookups.ctxs : t.ctxs = s.ctxs := (congrArg State.ctxs h).trans rfl
theorem Lookups.movers : t.movers = s.movers := (congrArg State.movers h).trans rfl
theorem Lookups.queue (i : Nat) : t.queue i = s.queue i := (congrArg (State.queue · i) h).trans rfl
theorem Lookups.memByte (a : Nat) : t.memByte a = s.memByte a := (congrArg (State.memByte · a) h).trans rfl
theorem Lookups.sameMem : Claims.SameMem s t := fun a => h.memByte a
end

theorem State.xlatePage_lookups (s : State) (k va : Nat) (write : Bool) (a : Asker) : Lookups s (s.xlatePage k va write a).1 := by
  unfold State.xlatePage
  extract_lets pg w fresh
  have hfresh (z : State) : Lookups z (fresh z).1 := by
    have hz : Lookups z ((z.count 0x1A0104).count (if a.unit = 16 then 0x1A010C else 0x1A0108)) :=
      ((z.count_signals _).trans (State.count_signals ..)).lookups
    unfold fresh
    generalize (z.count 0x1A0104).count (if a.unit = 16 then 0x1A010C else 0x1A0108) = y at hz
    cases w with
    | ok l => exact hz.trans rfl
    | error x => exact hz
  clear_value w fresh
  split
  · exact hfresh s
  · extract_lets kept same
    clear_value kept same
    split
    · exact .refl s
    · split
      · exact s.bumpFree_signals.lookups
      · exact s.bumpFree_signals.lookups.trans (hfresh s.bumpFree)

theorem State.xlate_lookups (s : State) (k va : Nat) (write : Bool) (a : Asker) : Lookups s (s.xlate k va write a).1 := by
  have hpage := s.xlatePage_lookups k va write a
  unfold State.xlate
  split
  · next heq => rw [heq] at hpage; exact hpage
  · next heq =>
    rw [heq] at hpage
    split
    · exact hpage
    · split <;> exact hpage

theorem State.xlateRange_lookups (k : Nat) (write : Bool) (a : Asker) (n : Nat) (s : State) (va off len : Nat) (acc : List Seg) :
    Lookups s (s.xlateRange k write a n va off len acc).1 := by
  induction n generalizing s va off len acc with
  | zero => exact .refl s
  | succ n ih =>
    unfold State.xlateRange
    have hx := s.xlate_lookups k va write a
    split
    · exact .refl s
    · dsimp only
      split
      · next heq => rw [heq] at hx; exact hx
      · next heq => rw [heq] at hx; exact hx.trans (ih ..)

theorem State.segs_lookups (s : State) (k va len : Nat) (write : Bool) (a : Asker) : Lookups s (s.segs k va len write a).1 :=
  State.xlateRange_lookups ..

theorem State.issueRead_lookups (s : State) (k : Nat) (w : ReadFor) (a len : Nat) : Lookups s (s.issueRead k w a len) := by
  unfold State.issueRead
  split
  · exact (s.atsUse_hostSide k a).signals.lookups.trans rfl
  · exact .refl s

/-- A capture, and the two words that a successful one writes besides. -/
theorem State.captureAt_two (s : State) (a v ovr x y : Nat) (w z : W) :
    Signals s (match s.captureAt a v ovr with | (true, u) => (u.setReg x w).setReg y z | (false, u) => u) := by
  have h := s.captureAt_signals a v ovr
  generalize s.captureAt a v ovr = r at h
  obtain ⟨b, u⟩ := r
  cases b with
  | true => exact h.trans ((u.setReg_signals x w).trans (State.setReg_signals ..))
  | false => exact h

theorem State.eccEvent_signals (s : State) (pa : Nat) (uncorr patrol : Bool) : Signals s (s.eccEvent pa uncorr patrol) :=
  s.captureAt_two ..

theorem Lookups.setFlips {s t : State} (h : Lookups s t) (l : Tbl Nat) : Lookups s { t with flips := l } := h.trans rfl

theorem State.eccFind_lookups (s : State) (e : Option (Nat × Bool)) (patrol : Bool) : Lookups s (s.eccFind e patrol) := by
  unfold State.eccFind
  split
  · exact .refl s
  · split
    · exact .refl s
    · exact (((s.count_signals _).trans (State.eccEvent_signals ..)).trans (State.raiseAs_signals ..)).lookups.setFlips _
  · split
    · exact .refl s
    · next u _ =>
      refine Lookups.trans (t := { s with poison := addNat u s.poison }) rfl ?_
      exact (((State.count_signals ..).trans (State.eccEvent_signals ..)).trans (State.cause_signals ..)).lookups

theorem State.xFault_signals (s : State) (k va : Nat) (write : Bool) (a : Asker) (x : XErr) : Signals s (s.xFault k va write a x) := by
  unfold State.xFault
  extract_lets cap
  have hcap (kind c l : Nat) (z : State) : Signals z (cap kind c l z) :=
    z.captureAt_two ..
  clear_value cap
  cases x with
  | dmmu c l => exact ((s.count_signals _).trans (hcap ..)).trans (State.cause_signals ..)
  | slot c l => exact ((s.count_signals _).trans (hcap ..)).trans (State.cause_signals ..)
  | ecc pa => exact .refl s

theorem State.fetchPieces_lookups (h k depth va : Nat) (l : List (Nat × Nat)) (s : State) (got : Tbl (List W)) (bad : List (Nat × Nat × Cpl)) :
    Lookups s (State.fetchPieces h k depth va l s got bad).1 := by
  induction l generalizing s got bad with
  | nil => exact .refl s
  | cons p l ih =>
    obtain ⟨o, n⟩ := p
    have hx := s.xlate_lookups k (va + o) false askCmd
    unfold State.fetchPieces
    split
    · next heq => rw [heq] at hx; exact hx.trans (ih ..)
    · next heq =>
      rw [heq] at hx
      split
      · exact hx.trans ((State.issueRead_lookups ..).trans (ih ..))
      · exact hx.trans (ih ..)
    · next heq => rw [heq] at hx; exact hx.trans (ih ..)

/-- Reading a buffer changes no queue; the frame keeps its address, its length and its position. -/
theorem State.loadFrame_lookups (s : State) (h k depth : Nat) (f : Frame) :
    Lookups s (s.loadFrame h k depth f).1 ∧ (s.loadFrame h k depth f).2.addr = f.addr ∧ (s.loadFrame h k depth f).2.len = f.len ∧
      (s.loadFrame h k depth f).2.pos = f.pos := by
  have hs := s.segs_lookups k f.addr (4 * f.len) false askCmd
  unfold State.loadFrame
  generalize s.segs k f.addr (4 * f.len) false askCmd = r at hs
  obtain ⟨u, gs, x⟩ := r
  dsimp only at hs ⊢
  split
  · exact ⟨hs.trans (Lookups.trans (t := { u with pcie := { u.pcie with reads := _ } }) rfl (State.fetchPieces_lookups ..)), rfl, rfl, rfl⟩
  · exact ⟨hs, rfl, rfl, rfl⟩

/-! ### The queues -/

/-- Between `s` and `t` only queues and what lookups reach may differ. -/
def QueueSide (s t : State) : Prop := Lookups { s with queues := t.queues } t

theorem Lookups.queueSide {s t : State} (h : Lookups s t) : QueueSide s t := by
  unfold QueueSide Lookups
  rw [h]

theorem QueueSide.trans {s t u : State} (h : QueueSide s t) (k : QueueSide t u) : QueueSide s u := by
  unfold QueueSide Lookups at h k ⊢
  rw [k, h]

theorem State.setQueue_queueSide (s : State) (h : Nat) (q : Queue) : QueueSide s (s.setQueue h q) := rfl

section
variable {s t : State} (h : QueueSide s t)
include h
theorem QueueSide.cmds : t.cmds = s.cmds := Lookups.cmds (s := { s with queues := t.queues }) h
theorem QueueSide.insts : t.insts = s.insts := Lookups.insts (s := { s with queues := t.queues }) h
theorem QueueSide.sync : t.sync = s.sync := Lookups.sync (s := { s with queues := t.queues }) h
theorem QueueSide.nextId : t.nextId = s.nextId := Lookups.nextId (s := { s with queues := t.queues }) h
theorem QueueSide.launches : t.launches = s.launches := Lookups.launches (s := { s with queues := t.queues }) h
theorem QueueSide.sameMem : Claims.SameMem s t := Lookups.sameMem (s := { s with queues := t.queues }) h
end

/-- A step of queue `h`: no other queue changes. -/
structure QueueStep (h : Nat) (s t : State) : Prop where
  side : QueueSide s t
  other : ∀ j, j ≠ h → t.queue j = s.queue j

theorem QueueStep.trans {h : Nat} {s t u : State} (x : QueueStep h s t) (y : QueueStep h t u) : QueueStep h s u :=
  ⟨x.side.trans y.side, fun j hj => (y.other j hj).trans (x.other j hj)⟩

theorem Lookups.queueStep {h : Nat} {s t : State} (x : Lookups s t) : QueueStep h s t := ⟨x.queueSide, fun j _ => x.queue j⟩

theorem State.setQueue_step (s : State) (h : Nat) (q : Queue) : QueueStep h s (s.setQueue h q) :=
  ⟨s.setQueue_queueSide h q, fun _ hj => (State.setQueue_queue ..).trans (if_neg hj)⟩

/-! ### The fetch of ring entries (R416) -/

/-- Between two records of a queue only its fetch pointer and its failed fetches may differ. -/
def SameStream (q q' : Queue) : Prop := q' = { q with fetchPtr := q'.fetchPtr, fetchFail := q'.fetchFail }

theorem SameStream.refl (q : Queue) : SameStream q q := rfl

theorem SameStream.trans {q q' r : Queue} (h : SameStream q q') (k : SameStream q' r) : SameStream q r := by
  unfold SameStream at h k ⊢
  rw [k, h]

theorem State.fetchRing_step (h n : Nat) (s : State) :
    QueueStep h s (State.fetchRing h n s) ∧ SameStream (s.queue h) ((State.fetchRing h n s).queue h) := by
  induction n generalizing s with
  | zero => exact ⟨(Lookups.refl s).queueStep, .refl _⟩
  | succ n ih =>
    unfold State.fetchRing
    dsimp only
    split
    · exact ⟨(Lookups.refl s).queueStep, .refl _⟩
    · generalize min (min (min ((s.queue h).tail - (s.queue h).fetchPtr).toNat (4 - ((s.queue h).fetchPtr - (s.queue h).head).toNat))
        (2 ^ (s.queue h).log2 - (s.queue h).fetchPtr.toNat % 2 ^ (s.queue h).log2))
        (min ((4096 - ((s.queue h).base.toNat + 64 * ((s.queue h).fetchPtr.toNat % 2 ^ (s.queue h).log2)) % 4096) / 64)
          (max 1 ((s.fn (s.queue h).inst).mrrs / 64))) = m
      have hq (q : Queue) : (s.setQueue h q).queue h = q := (State.setQueue_queue ..).trans (if_pos rfl)
      let q1 : Queue := { s.queue h with fetchPtr := (s.queue h).fetchPtr + BitVec.ofNat 32 m }
      have h1 : QueueStep h s (s.setQueue h q1) ∧ SameStream (s.queue h) ((s.setQueue h q1).queue h) := ⟨s.setQueue_step h q1, by rw [hq]; rfl⟩
      split
      · have h2 (w : ReadFor) (a len : Nat) := (s.setQueue h q1).issueRead_lookups (s.queue h).inst w a len
        exact ⟨h1.1.trans ((h2 ..).queueStep.trans (ih _).1), h1.2.trans (((h2 ..).queue h).symm ▸ (ih _).2)⟩
      · have h2 (bad : List (Nat × Cpl)) : QueueStep h (s.setQueue h q1) ((s.setQueue h q1).setQueue h { (s.setQueue h q1).queue h with fetchFail := bad }) :=
          State.setQueue_step ..
        refine ⟨h1.1.trans ((h2 _).trans (ih _).1), h1.2.trans (SameStream.trans ?_ (ih _).2)⟩
        unfold SameStream
        rw [State.setQueue_queue, if_pos rfl]

theorem State.fetch_step (s : State) (h : Nat) : QueueStep h s (s.fetch h) ∧ SameStream (s.queue h) ((s.fetch h).queue h) := by
  unfold State.fetch
  dsimp only
  split
  · exact State.fetchRing_step ..
  · exact ⟨(Lookups.refl s).queueStep, .refl _⟩

/-! ### The stream moves past a command of a ring (R384, R431) -/

/-- A queue at ring level after its front command has begun. -/
def pastFront (q : Queue) : Queue := { q with head := q.head + 1, fetched := tblErase q.head.toNat q.fetched, checked := false }

theorem State.advance_ring {s : State} {h : Nat} (f : Front) (hf : (s.queue h).frames = []) :
    QueueStep h s (s.advance h f) ∧ SameStream (pastFront (s.queue h)) ((s.advance h f).queue h) := by
  let u := s.setQueue h (pastFront (s.queue h))
  have hu : u.queue h = pastFront (s.queue h) := (State.setQueue_queue ..).trans (if_pos rfl)
  have hleave : State.leave h 3 u = u := by
    unfold State.leave
    dsimp only
    rw [show (u.queue h).frames = [] by rw [hu]; exact hf]
  have hadv : s.advance h f = u.fetch h := by
    unfold State.advance
    dsimp only
    split
    · exact congrArg (State.fetch · h) hleave
    · next heq => exact absurd (hf.symm.trans heq) (List.cons_ne_nil _ _).symm
  obtain ⟨hstep, hsame⟩ := u.fetch_step h
  rw [hadv]
  exact ⟨(s.setQueue_step h _).trans hstep, hu ▸ hsame⟩

theorem State.countDone_step (s : State) (h : Nat) (hdr : W) :
    QueueStep h s (s.countDone h hdr) ∧ (s.countDone h hdr).queue h = { s.queue h with cmdDone := (s.queue h).cmdDone + 1 } := by
  let u := s.setQueue h { s.queue h with cmdDone := (s.queue h).cmdDone + 1 }
  have hu : u.queue h = { s.queue h with cmdDone := (s.queue h).cmdDone + 1 } := (State.setQueue_queue ..).trans (if_pos rfl)
  have hsig : Signals u (s.countDone h hdr) := by
    unfold State.countDone
    dsimp only
    exact .ite (State.msixEvent_signals ..) (.refl u)
  exact ⟨(s.setQueue_step h _).trans hsig.lookups.queueStep, (hsig.queue h).trans hu⟩

/-- A command of a ring that begins and completes at once: its queue is past it and counts it. -/
theorem State.finish_ring {s : State} {h : Nat} (f : Front) (hf : (s.queue h).frames = []) :
    QueueStep h s (s.finish h f false) ∧
      SameStream { pastFront (s.queue h) with cmdDone := (s.queue h).cmdDone + 1 } ((s.finish h f false).queue h) := by
  obtain ⟨hadv, hsame⟩ := State.advance_ring f hf
  obtain ⟨hcount, hq⟩ := (s.advance h f).countDone_step h (wordAt f.words 0)
  have hdone : ((s.advance h f).queue h).cmdDone = (s.queue h).cmdDone := (congrArg Queue.cmdDone hsame).trans rfl
  refine ⟨hadv.trans hcount, ?_⟩
  change SameStream _ (((s.advance h f).countDone h (wordAt f.words 0)).queue h)
  rw [hq, hdone]
  unfold SameStream at hsame ⊢
  rw [hsame]

end Sys2Proof.Machine
end

section
/-! PROOFS. Faults of a queue, doorbells and decode (09). -/

namespace Sys2Proof.Machine

/-! ### Writes to memory -/

/-- Between `s` and `t` only device memory, what running copies and heads see of it, and what lookups reach may differ: what a write of a
command's bytes changes. -/
def Stores (s t : State) : Prop := Lookups { s with mem := t.mem, movers := t.movers, disp := t.disp } t

theorem Lookups.stores {s t : State} (h : Lookups s t) : Stores s t := by
  unfold Stores Lookups
  rw [h]

theorem Stores.refl (s : State) : Stores s s := (Lookups.refl s).stores

theorem Stores.trans {s t u : State} (h : Stores s t) (k : Stores t u) : Stores s u := by
  unfold Stores Lookups at h k ⊢
  rw [k, h]

theorem Stores.queues {s t : State} (h : Stores s t) : t.queues = s.queues := Lookups.queues (s := { s with mem := t.mem, movers := t.movers, disp := t.disp }) h

theorem Stores.queue {s t : State} (h : Stores s t) (j : Nat) : t.queue j = s.queue j := congrArg (tblGet queueReset j) h.queues

theorem State.markGrans_signals (s : State) (g n : Nat) : Signals s (s.markGrans g n) := by
  unfold State.markGrans
  exact Signals.foldl (fun a i => show Signals a { a with sess := markDev (a.slot ((g + i) / 4096)).owner (g + i) a.sess } from rfl) _ s

theorem State.touchHeads_stores (s : State) (pa n : Nat) : Stores s (s.touchHeads pa n) := by
  unfold State.touchHeads
  split
  · exact rfl
  · exact .refl s

theorem State.devWriteMask_stores (s : State) (pa : Nat) (bs : List (Option Byte)) : Stores s (s.devWriteMask pa bs) := by
  have hend {z : State} (hz : Stores s z) (g n : Nat) : Stores s ((z.markGrans g n).touchHeads pa bs.length) :=
    hz.trans ((z.markGrans_signals g n).lookups.stores.trans (State.touchHeads_stores ..))
  unfold State.devWriteMask
  split
  · exact .refl s
  · extract_lets mark hit mem poison u v w
    have hu : Stores s u := rfl
    have hv : Stores s v := by
      unfold v
      split
      · exact hu.trans rfl
      · exact hu
    have hw : Stores s w := by
      unfold w
      split
      · exact hv.trans rfl
      · exact hv
    exact hend hw _ _

theorem State.devWrite_stores (s : State) (pa : Nat) (bs : List Byte) : Stores s (s.devWrite pa bs) := s.devWriteMask_stores ..

theorem State.segWrite_stores (k : Nat) (marks : Bool) (l : List Seg) (s : State) (d : List Byte) : Stores s (s.segWrite k marks l d) := by
  induction l generalizing s d with
  | nil => exact .refl s
  | cons g l ih =>
    obtain ⟨o, dest, n⟩ := g
    cases dest with
    | hbm pa => exact (s.devWrite_stores ..).trans (ih ..)
    | host a => exact (s.hostWrite_hostSide ..).signals.lookups.stores.trans (ih ..)

theorem State.storeAt_stores (s : State) (k va : Nat) (d : List Byte) : Stores s (s.storeAt k va d).1 := by
  have h := s.segs_lookups k va d.length true askCmd
  unfold State.storeAt
  generalize s.segs k va d.length true askCmd = r at h
  exact h.stores.trans (State.segWrite_stores ..)

/-! ### A queue enters FAULTED (R398, R399, R439) -/

theorem State.faultRecord_stores (s : State) (h : Nat) (p : Pos) (kind code detail : Nat) : Stores s (s.faultRecord h p kind code detail) := by
  have hs := s.segs_lookups (s.queue h).inst (s.queue h).faultRec.toNat 32 true askCmd
  unfold State.faultRecord
  dsimp only
  split
  · exact (s.count_signals _).lookups.stores
  · generalize s.segs (s.queue h).inst (s.queue h).faultRec.toNat 32 true askCmd = r at hs
    obtain ⟨u, gs, x⟩ := r
    cases x with
    | none => exact hs.stores.trans (State.segWrite_stores ..)
    | some x => exact hs.stores.trans (State.count_signals ..).lookups.stores

/-- A queue as a fault leaves it. -/
def faultedQueue (q : Queue) (code : Nat) (p : Pos) : Queue :=
  { q with st := .faulted, faultCode := BitVec.ofNat 16 code, faultInfo := faultInfoOf p, checked := false, waiting := false, ready := none }

/-- A queue that is not FAULTED yet enters it; no other queue changes. -/
theorem State.enterFaulted_queue {s : State} {h : Nat} (code : Nat) (p : Pos) (kind detail : Nat) (hf : (s.queue h).st ≠ .faulted)
    (hfree : (s.queue h).st ≠ .free) (j : Nat) :
    (s.enterFaulted h code p kind detail).queue j = if j = h then faultedQueue (s.queue h) code p else s.queue j := by
  unfold State.enterFaulted
  dsimp only
  rw [if_neg (by simp [hf, hfree])]
  generalize hu : s.setQueue h _ = u
  have hset : u.queue j = if j = h then faultedQueue (s.queue h) code p else s.queue j := by
    rw [← hu]
    exact State.setQueue_queue ..
  rw [← hset]
  have hrec (z : State) (hz : z.queue j = u.queue j) : ((z.endWaits h).faultRecord h p kind code detail).queue j = u.queue j :=
    ((State.faultRecord_stores ..).queue j).trans hz
  have hcause (v : State) (hv : v.queue j = u.queue j) :
      (((v.count 0x11108).capture31 0x11104 (h + 2 ^ 10 * code)).cause 0x11000 8).queue j = u.queue j :=
    ((((v.count_signals _).trans (State.capture31_signals ..)).trans (State.cause_signals ..)).queue j).trans hv
  have hready : (match (s.queue h).ready with
    | some i => { u with launches := tblErase i u.launches }
    | none => u).queue j = u.queue j := by
    split <;> rfl
  split
  · exact ((State.msixEvent_signals ..).queue j).trans (hrec _ (hcause _ hready))
  · exact hrec _ (hcause _ hready)

theorem State.queueFault_queue {s : State} {h : Nat} (code : Nat) (p : Pos) (kind rd d : Nat) (hf : (s.queue h).st ≠ .faulted)
    (hfree : (s.queue h).st ≠ .free) (j : Nat) :
    (s.queueFault h code p kind rd d).queue j = if j = h then faultedQueue (s.queue h) code p else s.queue j :=
  ((State.raiseAs_signals ..).queue j).trans (State.enterFaulted_queue code p kind rd hf hfree j)

/-! ### Doorbells (R393 to R396) -/

/-- A doorbell reaches its queue once its write passed the checks of a register. -/
theorem State.regWrite_doorbell {s : State} {ag : Agent} {i : Nat} {tail : W} {l : Loc} {r : Row}
    (hg : s.gate ag (winOff ag (0x1000 + 8 * (i % 64))) true = .go l) (hpg : l.pg = .doorbell) (hoff : l.off = 8 * (i % 64))
    (hrow : l.row = some (r, 0)) (hw : r.wide = true) (hacc : r.acc = .rw) (hlock : s.rowLocked l r = false) (hheld : s.rowHeld l r = false)
    (he : l.expert = false) (hrem : s.pw.removing = false) : ∃ u : State, u = { s with lowWord := u.lowWord } ∧
    exec (.doorbell ag i tail) s = .next (u.doorbell l.unit (i % 64) tail) := by
  let u : State := { s with lowWord := tblPut (l.base + l.off) (BitVec.ofNat 32 tail.toNat) s.lowWord }
  have hulock : u.rowLocked l r = false := hlock
  have huheld : u.rowHeld l r = false := hheld
  have hurem : u.pw.removing = false := hrem
  have hloc : l.off / 8 = i % 64 := by omega
  have hval : BitVec.ofNat 32 (tail.toNat % 2 ^ 64) = tail := by
    apply BitVec.eq_of_toNat_eq
    have := tail.isLt
    simp only [BitVec.toNat_ofNat]
    omega
  refine ⟨u, rfl, next_congr ?_⟩
  unfold State.regWrite
  rw [hg]
  dsimp only
  rw [hrow]
  dsimp only
  rw [if_neg (by decide), if_pos ⟨hw, rfl, rfl, .inl hacc⟩]
  change u.writeRow ag _ l r _ = _
  unfold State.writeRow
  dsimp only
  rw [if_pos hw, if_neg (by simp [hacc]), if_neg (by simp [hulock]), if_neg (by simp [hw]), if_neg (by simp [he]), if_neg (by simp [huheld]), if_pos hw]
  unfold State.applyWide
  rw [hpg]
  exact (if_neg (by simp [hurem])).trans (by rw [hloc, hval])

/-- A tail within the ring is latched and the fetch goes on. -/
theorem State.doorbell_latched {s : State} {k i h : Nat} {tail : W} (hst : (s.inst k).st ∉ [InstSt.unassigned, .resetting, .faulted])
    (hp : s.pw.stage ≠ .parked) (hq : s.hwqOf k i = some h) (hhead : (tail - (s.queue h).head).toNat ≤ 2 ^ (s.queue h).log2)
    (htail : (tail - (s.queue h).tail).toNat ≤ 2 ^ (s.queue h).log2) :
    s.doorbell k i tail = ((s.count 0x10104).setQueue h { s.queue h with tail := tail }).fetch h := by
  unfold State.doorbell
  dsimp only
  rw [if_neg (by simp_all), hq]
  exact if_pos ⟨hhead, htail⟩

/-- A tail outside the ring stops the queue. -/
theorem State.doorbell_overrun {s : State} {k i h : Nat} {tail : W} (hst : (s.inst k).st ∉ [InstSt.unassigned, .resetting, .faulted])
    (hp : s.pw.stage ≠ .parked) (hq : s.hwqOf k i = some h) (hf : (s.queue h).st ≠ .faulted)
    (hout : 2 ^ (s.queue h).log2 < (tail - (s.queue h).head).toNat ∨ 2 ^ (s.queue h).log2 < (tail - (s.queue h).tail).toNat) :
    s.doorbell k i tail = s.queueFault h 0x0107 (s.queuePos h) 2 0 (cmdDetail (s.queuePos h)) := by
  unfold State.doorbell
  dsimp only
  rw [if_neg (by simp_all), hq]
  exact (if_neg (by omega)).trans (if_neg hf)

theorem State.doorbell_unbound {s : State} {k i : Nat} {tail : W} (hst : (s.inst k).st ∉ [InstSt.unassigned, .resetting, .faulted])
    (hp : s.pw.stage ≠ .parked) (hq : s.hwqOf k i = none) : s.doorbell k i tail = s.doorbellDrop k i := by
  unfold State.doorbell
  dsimp only
  rw [if_neg (by simp_all), hq]

/-! ### Decode (R403, R404, R438) -/

theorem exec_ringDataReturn {s u : State} {h : Nat} {err : Option (Nat × Bool)} (hu : u = s.eccFind err false) (ho : u.open_ h = true)
    (hc : (u.queue h).checked = false) : exec (.ringDataReturn h err) s = .next (match u.front h with
      | .none => u.fetch h
      | .fail c p => u.hostReadFault h c p 2 none
      | .refused va x p => u.accessFault h va false askCmd x p 2 none
      | .cmd f => match u.checkCmd (u.queue h) f (hPred (wordAt f.words 0) && !(u.queue h).pred) with
        | some c => u.cmdFault h c f.pos
        | none => if (hPred (wordAt f.words 0) && !(u.queue h).pred) = true then
            (u.advance h f).setQueue h { (u.advance h f).queue h with cmdDone := ((u.advance h f).queue h).cmdDone + 1 }
          else u.setQueue h { u.queue h with checked := true }) := by
  subst hu
  exact next_congr (if_neg (by simp [ho, hc]))

/-- Settles O46. -/
theorem doorbellsAndDecodeFeedTheQueue : Obligations.DoorbellsAndDecodeFeedTheQueue := by
  refine ⟨fun ag i tail s l r h hg hpg hoff hrow hw hacc hlock hheld he hrem hp hst => ?doorbell, fun h err s u hu ho hc => ?decode⟩
  case doorbell =>
    obtain ⟨u, hu, hexec⟩ := State.regWrite_doorbell (tail := tail) hg hpg hoff hrow hw hacc hlock hheld he hrem
    have hinst : (u.inst l.unit).st ∉ [InstSt.unassigned, .resetting, .faulted] := by rw [hu]; exact hst
    have hstage : u.pw.stage ≠ .parked := by rw [hu]; exact hp
    have hqueue (j : Nat) : u.queue j = s.queue j := by rw [hu]; rfl
    have hfind : u.hwqOf l.unit (i % 64) = s.hwqOf l.unit (i % 64) := by rw [hu]; rfl
    refine ⟨fun hq hhead htail => ?latched, fun hq hrun hout => ?overrun, fun hq => ?unbound⟩
    case latched =>
      rw [State.doorbell_latched hinst hstage (hfind.trans hq) (by rw [hqueue]; exact hhead) (by rw [hqueue]; exact htail)] at hexec
      let v := (u.count 0x10104).setQueue h { u.queue h with tail := tail }
      have hv : v.queue h = { u.queue h with tail := tail } := (State.setQueue_queue ..).trans (if_pos rfl)
      have hstep : QueueStep h u v := (u.count_signals 0x10104).lookups.queueStep.trans (State.setQueue_step ..)
      obtain ⟨hfetch, hsame⟩ := v.fetch_step h
      have hall := hstep.trans hfetch
      rw [hv] at hsame
      refine ⟨_, hexec, (congrArg Queue.tail hsame).trans rfl, (congrArg Queue.head hsame).trans (congrArg Queue.head (hqueue h) :),
        fun j hj => (hall.other j hj).trans (hqueue j), hall.side.insts.trans ?_, hall.side.sync.trans ?_, fun a => (hall.side.sameMem a).trans ?_⟩ <;>
        rw [hu] <;> rfl
    case overrun =>
      have hnf : (u.queue h).st ≠ .faulted ∧ (u.queue h).st ≠ .free := by
        rw [hqueue]
        rcases hrun with h | h <;> simp [h]
      rw [State.doorbell_overrun hinst hstage (hfind.trans hq) hnf.1 (by rw [hqueue]; exact hout)] at hexec
      have hfault := (State.queueFault_queue (s := u) 0x0107 (u.queuePos h) 2 0 (cmdDetail (u.queuePos h)) hnf.1 hnf.2 h).trans (if_pos rfl)
      refine ⟨_, hexec, ?_, ?_, ?_⟩ <;> rw [hfault]
      · rfl
      · rfl
      · exact (congrArg Queue.tail (hqueue h) :)
    case unbound =>
      rw [State.doorbell_unbound hinst hstage (hfind.trans hq)] at hexec
      have hsig : Signals u (u.doorbellDrop l.unit (i % 64)) :=
        ((u.count_signals _).trans (State.capture31_signals ..)).trans (State.cause_signals ..)
      refine ⟨_, u, hexec, rfl, ?_, hsig.queues.trans ?_, fun a => (hsig.memByte a).trans ?_⟩ <;> rw [hu] <;> rfl
  case decode =>
    have hexec := exec_ringDataReturn hu ho hc
    refine ⟨fun hfr => ?_, fun c p hfr => ?_, fun va x p hfr => ?_, fun f hfr => ⟨fun c hck => ?_, fun hck hgo => ?_, fun hck hpred hq hf => ?skipped⟩⟩
    · rw [hexec, hfr]
    · rw [hexec, hfr]
    · rw [hexec, hfr]
    · rw [hexec, hfr]
      dsimp only
      rw [hck]
    · have hskip : (hPred (wordAt f.words 0) && !(u.queue h).pred) = false := by rcases hgo with h | h <;> simp [h]
      rw [hexec, hfr]
      dsimp only
      rw [hskip, hck]
      rfl
    case skipped =>
      have hskip : (hPred (wordAt f.words 0) && !(u.queue h).pred) = true := by simp [hpred, hq]
      have hexec' : exec (.ringDataReturn h err) s =
          .next ((u.advance h f).setQueue h { (u.advance h f).queue h with cmdDone := ((u.advance h f).queue h).cmdDone + 1 }) := by
        rw [hexec, hfr]
        dsimp only
        rw [hskip, hck]
        rfl
      obtain ⟨hadv, hsame⟩ := State.advance_ring f hf
      generalize u.advance h f = v at hexec' hadv hsame
      have hset : (v.setQueue h { v.queue h with cmdDone := (v.queue h).cmdDone + 1 }).queue h = { v.queue h with cmdDone := (v.queue h).cmdDone + 1 } :=
        (State.setQueue_queue ..).trans (if_pos rfl)
      have hall := hadv.trans (State.setQueue_step v h { v.queue h with cmdDone := (v.queue h).cmdDone + 1 })
      have hmem : Claims.SameMem s u := hu ▸ (s.eccFind_lookups err false).sameMem
      refine ⟨_, hexec', ?_, ?_, ?_, hall.other, hall.side.cmds, fun a => (hall.side.sameMem a).trans (hmem a)⟩ <;> (rw [hset, hsame]; rfl)

end Sys2Proof.Machine
end

section
/-! PROOFS. Stream commands: NOP, FENCE, INDIRECT, COND and loops (09, 10). -/

namespace Sys2Proof.Machine

/-! ### A command begins (R410, R443) -/

/-- The front command, which was checked and whose handles and ranges pass again, runs its body. -/
theorem State.begin_of_mayBegin {s : State} {h op : Nat} {q : Queue} {f : Front} (hb : Claims.mayBegin s h op q f)
    (body : State → Queue → Front → List W → State) : s.begin_ h op body = body s q f (Claims.cmdWords f) := by
  obtain ⟨hready, hreloc, hrange⟩ := hb
  have hnone : (if q.user = true then s.relocFault q (f.words.take (hLen (wordAt f.words 0)))
      (s.operands op (f.words.take (hLen (wordAt f.words 0)))) else none) = none := by
    split
    · exact hreloc ‹_›
    · rfl
  unfold State.begin_
  rw [hready]
  dsimp only
  rw [hnone]
  exact if_neg (by rw [show s.rangeFault q op (f.words.take (hLen (wordAt f.words 0))) = false from hrange]; simp)

/-- The front command's queue and opcode. -/
theorem State.ready_some {s : State} {h op : Nat} {q : Queue} {f : Front} (hr : s.ready h op = some (q, f)) : q = s.queue h ∧ f.pos.op = op := by
  unfold State.ready at hr
  split at hr
  · split at hr
    · split at hr
      · next hop =>
        simp only [Option.some.injEq, Prod.mk.injEq] at hr
        obtain ⟨rfl, rfl⟩ := hr
        exact ⟨rfl, hop⟩
      · simp at hr
    · simp at hr
  · simp at hr

theorem mayBegin_queue {s : State} {h op : Nat} {q : Queue} {f : Front} (hb : Claims.mayBegin s h op q f) : q = s.queue h :=
  (State.ready_some hb.1).1

theorem mayBegin_op {s : State} {h op : Nat} {q : Queue} {f : Front} (hb : Claims.mayBegin s h op q f) : f.pos.op = op :=
  (State.ready_some hb.1).2

/-! ### INDIRECT and loops (R447, R470) -/

theorem exec_indirect {s u v : State} {h : Nat} {err : Option (Nat × Bool)} {q : Queue} {f : Front} {p : XDest} (hu : u = s.eccFind err false)
    (hb : Claims.mayBegin u h 0x01 q f) (hx : u.xlate q.inst (u.opAddr q 0x01 (Claims.cmdWords f) 0) false askCmd = (v, .ok p)) :
    ∃ w fr, exec (.indirect h err) s = .next (w.setQueue h { w.queue h with
        frames := fr :: (match (w.queue h).frames with | [] => [] | o :: rest => { o with pos := o.pos + 4 } :: rest), checked := false }) ∧
      Lookups s w ∧ fr.addr = u.opAddr q 0x01 (Claims.cmdWords f) 0 ∧ fr.len = natAt (Claims.cmdWords f) 3 ∧ fr.pos = 0 := by
  subst hu
  let fr : Frame := { addr := (s.eccFind err false).opAddr q 0x01 (Claims.cmdWords f) 0, len := natAt (Claims.cmdWords f) 3, host := false,
                      words := [], got := [], fails := [], pos := 0 }
  obtain ⟨hlook, haddr, hlen, hpos⟩ := v.loadFrame_lookups h q.inst (q.frames.length + 1) fr
  have hxl := (s.eccFind err false).xlate_lookups q.inst ((s.eccFind err false).opAddr q 0x01 (Claims.cmdWords f) 0) false askCmd
  rw [hx] at hxl
  refine ⟨(v.loadFrame h q.inst (q.frames.length + 1) fr).1, (v.loadFrame h q.inst (q.frames.length + 1) fr).2, ?_,
    (s.eccFind_lookups err false).trans (hxl.trans hlook), haddr, hlen, hpos⟩
  refine next_congr ((State.begin_of_mayBegin hb _).trans ?_)
  dsimp only
  rw [hx] <;> rfl

/-- A body that is repeated: the loop counts, the buffer goes back to the body's start, and LOOP_END counts as completed. -/
theorem State.loop_repeats (s : State) (h : Nat) (hdr : W) (ls : List Loop) (fs : List Frame) :
    let t := (s.setQueue h { s.queue h with loops := ls, frames := fs, checked := false }).countDone h hdr
    (t.queue h).loops = ls ∧ (t.queue h).frames = fs ∧ (t.queue h).cmdDone = (s.queue h).cmdDone + 1 ∧ Claims.SameMem s t := by
  let u := s.setQueue h { s.queue h with loops := ls, frames := fs, checked := false }
  have hu : u.queue h = { s.queue h with loops := ls, frames := fs, checked := false } := (State.setQueue_queue ..).trans (if_pos rfl)
  obtain ⟨hstep, hq⟩ := u.countDone_step h hdr
  rw [hu] at hq
  refine ⟨congrArg Queue.loops hq, congrArg Queue.frames hq, congrArg Queue.cmdDone hq, ?_⟩
  exact fun a => hstep.side.sameMem a

/-- Settles O47. -/
theorem streamCommandsMoveTheQueueOn : Obligations.StreamCommandsMoveTheQueueOn := by
  refine ⟨fun s h f hf => ?finish, fun s h q f hb => next_congr (State.begin_of_mayBegin hb _), fun s h q f hb => ?fence,
    fun s h err q f u v p hu hb hx => ?indirect, fun s h err q f u hu hb => ?cond, fun s h q f hb => ?loopBegin, fun s h q f hb => ?loopEnd⟩
  case finish =>
    obtain ⟨hstep, hsame⟩ := State.finish_ring f hf
    refine ⟨(congrArg Queue.head hsame).trans rfl, (congrArg Queue.cmdDone hsame).trans rfl, (congrArg Queue.checked hsame).trans rfl,
      (congrArg Queue.tail hsame).trans rfl, hstep.other, hstep.side.cmds, hstep.side.insts, hstep.side.sync, hstep.side.sameMem⟩
  case fence =>
    exact ⟨fun hbusy => next_congr ((State.begin_of_mayBegin hb _).trans (if_pos hbusy)),
      fun hbusy => next_congr ((State.begin_of_mayBegin hb _).trans (if_neg (by simp [hbusy])))⟩
  case indirect =>
    obtain ⟨w, fr, hexec, hlook, haddr, hlen, hpos⟩ := exec_indirect hu hb hx
    have hq : w.queue h = q := by rw [mayBegin_queue hb, hu, (s.eccFind_lookups err false).queue, hlook.queue]
    rw [hq] at hexec
    have hset (x : Queue) : (w.setQueue h x).queue h = x := (State.setQueue_queue ..).trans (if_pos rfl)
    refine ⟨_, fr, hexec, haddr, hlen, hpos, ?_, ?_, ?_, fun j hj => ?_, hlook.sameMem⟩
    · rw [hset] <;> rfl
    · rw [hset]
    · rw [hset]
    · rw [State.setQueue_queue, if_neg hj, hlook.queue]
  case cond =>
    subst hu
    refine ⟨fun hsrc => ?_, fun hsrc hno => ?_, fun i hsrc hi => ?_, fun i hsrc hi => ?_⟩
    · exact next_congr ((State.begin_of_mayBegin hb _).trans (if_pos hsrc))
    · refine next_congr ((State.begin_of_mayBegin hb _).trans ((if_neg (by omega)).trans ?_))
      rw [hno]
    · refine next_congr ((State.begin_of_mayBegin hb _).trans ((if_neg (by omega)).trans ?_))
      rw [hi]
      dsimp only
      rw [if_pos hsrc]
    · refine next_congr ((State.begin_of_mayBegin hb _).trans ((if_neg (by omega)).trans ?_))
      rw [hi]
      dsimp only
      rw [if_neg (by omega)]
  case loopBegin =>
    exact ⟨fun hfull => next_congr ((State.begin_of_mayBegin hb _).trans (if_pos hfull)),
      fun hroom => next_congr ((State.begin_of_mayBegin hb _).trans (if_neg (by omega)))⟩
  case loopEnd =>
    refine ⟨fun hno => ?_, fun l rest hl => ⟨fun hlev => ?_, fun hlev hend => ?_, fun fr fs hlev hmore hpred hfs => ?_⟩⟩
    · refine next_congr ((State.begin_of_mayBegin hb _).trans ?_)
      rw [hno]
    · refine next_congr ((State.begin_of_mayBegin hb _).trans ?_)
      rw [hl]
      exact if_pos hlev
    · have hstop : ¬ (l.done + 1 < l.count ∧ (l.isWhile = true → q.pred = true)) := by
        rintro ⟨hlt, himp⟩
        rcases hend with h | ⟨hw, hp⟩
        · omega
        · rw [himp hw] at hp
          cases hp
      refine next_congr ((State.begin_of_mayBegin hb _).trans ?_)
      rw [hl]
      exact (if_neg (not_not_intro hlev)).trans (if_neg hstop)
    · have hq := mayBegin_queue hb
      have hexec : exec (.loopEnd h) s = .next ((s.setQueue h { s.queue h with
          loops := { l with done := l.done + 1 } :: rest, frames := { fr with pos := l.body } :: fs, checked := false }).countDone h (wordAt f.words 0)) := by
        refine next_congr ((State.begin_of_mayBegin hb _).trans ?_)
        rw [hl]
        refine (if_neg (not_not_intro hlev)).trans ((if_pos ⟨hmore, hpred⟩).trans ?_)
        rw [hfs, hq]
      obtain ⟨hloops, hframes, hdone, hmem⟩ := s.loop_repeats h (wordAt f.words 0) ({ l with done := l.done + 1 } :: rest) ({ fr with pos := l.body } :: fs)
      exact ⟨_, hexec, hloops, hframes, hq ▸ hdone, hmem⟩

end Sys2Proof.Machine
end

section
/-! PROOFS. Reports, Beacon waits and flips (10). -/

namespace Sys2Proof.Machine

/-! ### A command of a ring that stays in flight (R384, R432) -/

/-- A state with one more command in flight. -/
def State.begun (s : State) (h : Nat) (f : Front) (blocking : Bool) (w : Work) : State :=
  { s with cmds := s.cmds ++ [Front.cmd f s.nextId h (s.queue h) blocking w], nextId := s.nextId + 1 }

theorem State.start_ring {s : State} {h : Nat} (f : Front) (blocking : Bool) (w : Work) (hf : (s.queue h).frames = []) :
    QueueStep h (s.begun h f blocking w) (s.start h f blocking w) ∧ SameStream (pastFront (s.queue h)) ((s.start h f blocking w).queue h) :=
  State.advance_ring (s := s.begun h f blocking w) f hf

/-- A command of a ring that waits: its queue is past it and waits. -/
theorem State.start_waiting {s : State} {h : Nat} (f : Front) (w : Work) (hf : (s.queue h).frames = []) :
    let t := (s.start h f true w).setQueue h { (s.start h f true w).queue h with waiting := true }
    (t.queue h).waiting = true ∧ (t.queue h).head = (s.queue h).head + 1 ∧ (t.queue h).cmdDone = (s.queue h).cmdDone ∧
      t.cmds = s.cmds ++ [Front.cmd f s.nextId h (s.queue h) true w] ∧ Claims.SameMem s t := by
  obtain ⟨hstep, hsame⟩ := State.start_ring f true w hf
  have hset (x : Queue) : ((s.start h f true w).setQueue h x).queue h = x := (State.setQueue_queue ..).trans (if_pos rfl)
  refine ⟨?_, ?_, ?_, hstep.side.cmds, hstep.side.sameMem⟩
  · rw [hset]
  · rw [hset, hsame] <;> rfl
  · rw [hset, hsame] <;> rfl

/-! ### TIMESTAMP and REPORT (R436, R472, R473) -/

/-- The words a result keeps while it waits: the header, its address and its own words. -/
def resultWords (f : Front) (va : Nat) (rest : List W) : List W := [wordAt f.words 0, BitVec.ofNat 32 va, BitVec.ofNat 32 (va / 2 ^ 32)] ++ rest

theorem State.beginResult_ok {s v : State} {h va : Nat} {q : Queue} {f : Front} {wait : Bool} {rest : List W} {p : XDest}
    (hx : s.xlate q.inst va true askCmd = (v, .ok p)) : s.beginResult h q f va wait rest =
      if (wait && v.busyQ h) = true then
        (v.start h f true (.earlier (resultWords f va rest))).setQueue h { (v.start h f true (.earlier (resultWords f va rest))).queue h with waiting := true }
      else v.putBytesOf h q f va (v.resultBytes h f.pos (resultWords f va rest)) := by
  unfold State.beginResult
  rw [hx] <;> rfl

/-- A result that waits for earlier commands of its ring. -/
theorem State.beginResult_waits {s v : State} {h va : Nat} {q : Queue} {f : Front} {rest : List W} {p : XDest} (hq : q = s.queue h)
    (hx : s.xlate q.inst va true askCmd = (v, .ok p)) (hb : v.busyQ h = true) (hf : q.frames = []) :
    ((s.beginResult h q f va true rest).queue h).waiting = true ∧ ((s.beginResult h q f va true rest).queue h).cmdDone = q.cmdDone ∧
      Claims.SameMem s (s.beginResult h q f va true rest) := by
  have hlook := s.xlate_lookups q.inst va true askCmd
  rw [hx] at hlook
  have hvq : v.queue h = q := (hlook.queue h).trans hq.symm
  obtain ⟨hwait, -, hdone, -, hmem⟩ := State.start_waiting (s := v) f (.earlier (resultWords f va rest)) (by rw [hvq]; exact hf)
  rw [State.beginResult_ok hx, if_pos (by simp [hb])]
  exact ⟨hwait, hdone.trans (congrArg Queue.cmdDone hvq), fun a => (hmem a).trans (hlook.memByte a)⟩

theorem State.resultBytes_timestamp (s : State) (h : Nat) {p : Pos} (ws : List W) (hp : p.op = 0x40) :
    s.resultBytes h p ws = leBytes 8 s.ck.gtime.toNat := if_pos hp

theorem State.resultBytes_report (s : State) (h : Nat) {p : Pos} (ws : List W) (hp : p.op = 0x42) :
    s.resultBytes h p ws = recBytes (natAt ws 3) p 0 h 0 s.ck.gtime (nat64At ws 4) := if_neg (by rw [hp]; decide)

theorem exec_timestamp {s : State} {h : Nat} {q : Queue} {f : Front} (hb : Claims.mayBegin s h 0x40 q f) : exec (.timestamp h) s =
    .next (s.beginResult h q f (s.opAddr q 0x40 (Claims.cmdWords f) 0) (bitOf (natAt (Claims.cmdWords f) 1) 0) []) :=
  next_congr (State.begin_of_mayBegin hb _)

theorem exec_report {s : State} {h : Nat} {q : Queue} {f : Front} (hb : Claims.mayBegin s h 0x42 q f) : exec (.report h) s =
    .next (s.beginResult h q f (s.opAddr q 0x42 (Claims.cmdWords f) 0) true
      [wordAt (Claims.cmdWords f) 3, wordAt (Claims.cmdWords f) 4, wordAt (Claims.cmdWords f) 5]) :=
  next_congr (State.begin_of_mayBegin hb _)

/-! ### Beacon waits (R475) -/

theorem beaconHolds_self (t : W) : beaconHolds t t = true := by
  unfold beaconHolds
  simp

/-- Settles O48. -/
theorem reportsBeaconWaitsAndFlips : Obligations.ReportsBeaconWaitsAndFlips := by
  refine ⟨fun s h q f v p hb hx => ?timestamp, fun s h q f v p hb hx => ?report, fun s h q f v hst hb hx => ?writeData, fun s h q f hb => ?beacon,
    fun s h q f hb => ?flip⟩
  case timestamp =>
    refine ⟨fun hgo => ?_, fun hbit hbusy hf => ?_⟩
    · rw [exec_timestamp hb, State.beginResult_ok hx, if_neg (by rcases hgo with h | h <;> simp [h]), State.resultBytes_timestamp _ _ _ (mayBegin_op hb)]
    · obtain ⟨hwait, hdone, hmem⟩ := State.beginResult_waits (f := f) (rest := []) (mayBegin_queue hb) hx hbusy hf
      exact ⟨_, (exec_timestamp hb).trans (by rw [hbit]), hwait, hdone, hmem⟩
  case report =>
    refine ⟨fun hbusy => ?_, fun hbusy hf => ?_⟩
    · rw [exec_report hb, State.beginResult_ok hx, if_neg (by simp [hbusy]), State.resultBytes_report _ _ _ (mayBegin_op hb)] <;> rfl
    · obtain ⟨hwait, hdone, hmem⟩ := State.beginResult_waits (f := f)
        (rest := [wordAt (Claims.cmdWords f) 3, wordAt (Claims.cmdWords f) 4, wordAt (Claims.cmdWords f) 5]) (mayBegin_queue hb) hx hbusy hf
      exact ⟨_, exec_report hb, hwait, hdone, hmem⟩
  case writeData =>
    refine next_congr ((State.begin_of_mayBegin hb _).trans ?_)
    unfold State.putBytesOf
    rw [hx]
  case beacon =>
    refine ⟨fun hbit htick => ?_, fun hno hf => ?_⟩
    · exact next_congr ((State.begin_of_mayBegin hb _).trans (if_pos (by rw [hbit, htick, beaconHolds_self]; rfl)))
    · have hq := mayBegin_queue hb
      let w : Work := .beacon (bitsOf (natAt (Claims.cmdWords f) 1) 0 3) (bitOf (natAt (Claims.cmdWords f) 1) 8) (wordAt (Claims.cmdWords f) 2)
      have hexec : exec (.beaconWait h) s = .next ((s.start h f true w).setQueue h { (s.start h f true w).queue h with waiting := true }) :=
        next_congr ((State.begin_of_mayBegin hb _).trans (if_neg (by rcases hno with h | h <;> simp [h])))
      obtain ⟨hwait, hhead, -, hcmds, hmem⟩ := State.start_waiting (s := s) f w (by rw [← hq]; exact hf)
      refine ⟨_, hexec, hwait, hq ▸ hhead, ⟨Front.cmd f s.nextId h (s.queue h) true w, ?_, rfl, rfl, rfl, rfl⟩, hmem⟩
      rw [hcmds]
      exact List.mem_append_right _ (List.mem_singleton.2 rfl)
  case flip =>
    refine ⟨fun hown => ?_, fun hown hfmt => ?_, fun v hown hfmt hpl => ?_⟩
    · exact next_congr ((State.begin_of_mayBegin hb _).trans (if_pos hown))
    · exact next_congr ((State.begin_of_mayBegin hb _).trans ((if_neg (not_not_intro hown)).trans (if_pos (by simp [hfmt]))))
    · let pg := State.planePages q.inst (max (natAt (Claims.cmdWords f) 8) (if bitsOf (natAt (Claims.cmdWords f) 1) 16 4 = 2 then natAt (Claims.cmdWords f) 9
        else 0) * v.headLines (natAt (Claims.cmdWords f) 1 % 2)) ((s.operands 0x51 (Claims.cmdWords f)).map (s.va q (Claims.cmdWords f))) v
      let fr : FrameT :=
        { planes := ((s.operands 0x51 (Claims.cmdWords f)).map (s.va q (Claims.cmdWords f))).map (BitVec.ofNat 64)
          pitch0 := natAt (Claims.cmdWords f) 8, pitch12 := natAt (Claims.cmdWords f) 9, format := bitsOf (natAt (Claims.cmdWords f) 1) 16 4
          crcValid := bitOf (natAt (Claims.cmdWords f) 1) 8, crc := wordAt (Claims.cmdWords f) 10, hwq := h, pages := pg.2 }
      refine ⟨pg.1, fr, ?_, rfl, rfl, rfl, rfl, rfl, rfl, rfl⟩
      refine next_congr ((State.begin_of_mayBegin hb _).trans ((if_neg (not_not_intro hown)).trans ((if_neg (by simp [hfmt])).trans ?_)))
      rw [hpl]

end Sys2Proof.Machine
end

section
/-! PROOFS. Kernel commands (10, 12). -/

namespace Sys2Proof.Machine

/-! ### A command that completes keeps every queue's save area (R477) -/

/-- No queue's next save area differs. -/
structure SameSave (s t : State) : Prop where
  save : ∀ j, (t.queue j).saveNext = (s.queue j).saveNext

theorem SameSave.refl (s : State) : SameSave s s := ⟨fun _ => rfl⟩

theorem SameSave.trans {s t u : State} (h : SameSave s t) (k : SameSave t u) : SameSave s u := ⟨fun j => (k.save j).trans (h.save j)⟩

theorem Lookups.sameSave {s t : State} (h : Lookups s t) : SameSave s t := ⟨fun j => congrArg Queue.saveNext (h.queue j)⟩

theorem State.setQueue_sameSave (s : State) (h : Nat) {q : Queue} (hq : q.saveNext = (s.queue h).saveNext) : SameSave s (s.setQueue h q) := by
  refine ⟨fun j => ?_⟩
  rw [State.setQueue_queue]
  split
  · subst j
    exact hq
  · rfl

theorem QueueStep.sameSave {h : Nat} {s t : State} (hs : QueueStep h s t) (hq : (t.queue h).saveNext = (s.queue h).saveNext) : SameSave s t := by
  refine ⟨fun j => ?_⟩
  by_cases hj : j = h
  · rw [hj, hq]
  · rw [hs.other j hj]

theorem State.queueFault_sameSave (s : State) (h code : Nat) (p : Pos) (kind rd d : Nat) : SameSave s (s.queueFault h code p kind rd d) := by
  refine ⟨fun j => ?_⟩
  have hraise := (State.raiseAs_signals (s.enterFaulted h code p kind rd) code (codeClass code).1 (codeClass code).2
    (.queue ((s.enterFaulted h code p kind rd).queue h).inst h) (some h) 0x11000 0xFF d false false (decide ((s.queue h).st = .faulted))).queue j
  refine (congrArg Queue.saveNext hraise).trans ?_
  by_cases hst : (s.queue h).st = .faulted ∨ (s.queue h).st = .free
  · unfold State.enterFaulted
    dsimp only
    rw [if_pos hst]
  · rw [State.enterFaulted_queue code p kind rd (fun x => hst (.inl x)) (fun x => hst (.inr x))]
    split
    · subst j
      rfl
    · rfl

theorem State.cmdFault_sameSave (s : State) (h code : Nat) (p : Pos) : SameSave s (s.cmdFault h code p) := by
  have hsig (c d : Nat) : SameSave s ((s.countField 0x12108 c 16 1).cause 0x12000 d) :=
    ((s.countField_signals ..).trans (State.cause_signals ..)).lookups.sameSave
  unfold State.cmdFault
  dsimp only
  split
  · exact (hsig ..).trans (State.queueFault_sameSave ..)
  · split
    · exact (hsig ..).trans (State.queueFault_sameSave ..)
    · exact State.queueFault_sameSave ..

theorem State.leave_sameSave (h n : Nat) (s : State) : SameSave s (State.leave h n s) := by
  induction n generalizing s with
  | zero => exact .refl s
  | succ n ih =>
    have hleft (rest : List Frame) : SameSave s (s.setQueue h (leaveFrame (s.queue h) rest)) := s.setQueue_sameSave h rfl
    unfold State.leave
    dsimp only
    split
    · exact .refl s
    · split
      · exact .refl s
      · split
        · split
          · exact State.cmdFault_sameSave ..
          · exact (hleft _).trans (ih _)
        · exact (hleft _).trans (ih _)

theorem State.advance_sameSave (s : State) (h : Nat) (f : Front) : SameSave s (s.advance h f) := by
  have hend (q : Queue) (hq : q.saveNext = (s.queue h).saveNext) : SameSave s ((State.leave h 3 (s.setQueue h q)).fetch h) := by
    obtain ⟨hstep, hsame⟩ := (State.leave h 3 (s.setQueue h q)).fetch_step h
    exact (s.setQueue_sameSave h hq).trans ((State.leave_sameSave ..).trans (hstep.sameSave ((congrArg Queue.saveNext hsame).trans rfl)))
  unfold State.advance
  dsimp only
  split
  · exact hend _ rfl
  · exact hend _ rfl

theorem State.finish_sameSave (s : State) (h : Nat) (f : Front) : SameSave s (s.finish h f false) := by
  obtain ⟨hstep, hq⟩ := (s.advance h f).countDone_step h (wordAt f.words 0)
  exact (s.advance_sameSave h f).trans (hstep.sameSave ((congrArg Queue.saveNext hq).trans rfl))

/-- What SET_CONTEXT makes of its queue's record. -/
def contextSet (ws : List W) (q : Queue) : Queue :=
  let q := if bitOf (natAt ws 1) 8 then { q with faultRec := BitVec.ofNat 64 (nat64At ws 2) } else q
  if bitOf (natAt ws 1) 9 then { q with saveNext := some (BitVec.ofNat 64 (nat64At ws 4)) } else q

theorem contextSet_faultRec {ws : List W} (q : Queue) (h : bitOf (natAt ws 1) 8 = true) :
    (contextSet ws q).faultRec = BitVec.ofNat 64 (nat64At ws 2) := by
  unfold contextSet
  rw [if_pos h]
  dsimp only
  split <;> rfl

theorem contextSet_saveNext (ws : List W) (q : Queue) : (contextSet ws q).saveNext =
    if bitOf (natAt ws 1) 9 then some (BitVec.ofNat 64 (nat64At ws 4)) else q.saveNext := by
  unfold contextSet
  dsimp only
  split
  · rfl
  · split <;> rfl

/-- SET_CONTEXT of a queue it names: `v` is the state once the record's address has translated. -/
theorem exec_setContext {s v : State} {h j : Nat} {q : Queue} {f : Front} (hb : Claims.mayBegin s h 0x80 q f)
    (hj : s.hwqOf q.inst (bitsOf (natAt (Claims.cmdWords f) 1) 0 6) = some j)
    (hv : (bitOf (natAt (Claims.cmdWords f) 1) 8 = false ∨ nat64At (Claims.cmdWords f) 2 = 0) ∧ v = s ∨
      bitOf (natAt (Claims.cmdWords f) 1) 8 = true ∧ nat64At (Claims.cmdWords f) 2 ≠ 0 ∧
        ∃ p, s.xlate q.inst (nat64At (Claims.cmdWords f) 2) true askCmd = (v, .ok p)) :
    exec (.setContext h) s = .next ((v.finish h f false).setQueue j (contextSet (Claims.cmdWords f) ((v.finish h f false).queue j))) := by
  refine next_congr ((State.begin_of_mayBegin hb _).trans ?_)
  dsimp only
  rw [hj]
  dsimp only
  rcases hv with ⟨hno, rfl⟩ | ⟨hbit, hne, p, hx⟩
  · rw [if_neg (by rcases hno with h | h <;> simp [h])] <;> rfl
  · rw [if_pos ⟨hbit, hne⟩, hx] <;> rfl

/-! ### HTAB_LOAD (R407, R478) -/

/-- Entries written one after another: each stands at its place and nothing else changes. -/
theorem foldl_tblSet_zipIdx {β : Type} [DecidableEq β] (d : β) (b : Nat) (es : List β) (n : Nat) (t : Tbl β) :
    let u := (es.zipIdx n).foldl (fun t (e, i) => tblSet d (b + i) e t) t
    (∀ i e, es[i]? = some e → tblGet d (b + n + i) u = e) ∧ ∀ j, (j < b + n ∨ b + n + es.length ≤ j) → tblGet d j u = tblGet d j t := by
  induction es generalizing n t with
  | nil => exact ⟨fun i e h => by simp at h, fun j _ => rfl⟩
  | cons e es ih =>
    obtain ⟨hin, hout⟩ := ih (n + 1) (tblSet d (b + n) e t)
    refine ⟨fun i x hx => ?_, fun j hj => ?_⟩
    · cases i with
      | zero =>
        obtain rfl : e = x := by simpa using hx
        exact (hout (b + n) (.inl (by omega))).trans ((tblGet_tblSet ..).trans (if_pos rfl))
      | succ i =>
        have h := hin i x (by simpa using hx)
        rwa [show b + (n + 1) + i = b + n + (i + 1) by omega] at h
    · rw [List.length_cons] at hj
      exact (hout j (by omega)).trans ((tblGet_tblSet ..).trans (if_neg (by omega)))

theorem htabEnts_length (n : Nat) (d : List Byte) : (htabEnts n d).length = n := by
  induction n generalizing d with
  | zero => rfl
  | succ n ih => simp [htabEnts, ih]

/-- HTAB_LOAD's effect: every entry passes its check, and the table has the entries. -/
theorem State.htabEffect_ok {s t : State} {k : Nat} {ws : List W} {d : List Byte} (h : s.htabEffect k ws d = .ok t) :
    (htabEnts (natAt ws 2) d).all htabOk = true ∧ t = { s with htab := ((htabEnts (natAt ws 2) d).zipIdx.foldl (fun t (e, i) =>
      tblSet { w0 := 0, w1 := 0 } (65536 * k + natAt ws 1 + i) e t) s.htab) } := by
  unfold State.htabEffect at h
  dsimp only at h
  split at h
  · next hall =>
    cases h
    exact ⟨hall, rfl⟩
  · cases h

/-! ### REG_WRITE and REG_READ (R479) -/

theorem exec_regWrite_refused {s : State} {h : Nat} {q : Queue} {f : Front} {l : Loc} (hb : Claims.mayBegin s h 0x82 q f)
    (hl : s.regRefused (bitsOf (natAt (Claims.cmdWords f) 1) 0 26) (bitsOf (natAt (Claims.cmdWords f) 1) 26 4 + 1) true = some l) :
    exec (.regWrite h) s = .next ((s.actDenied regAgent l.region true).cmdFault h 0x0102 f.pos) := by
  refine next_congr ((State.begin_of_mayBegin hb _).trans ?_)
  dsimp only
  rw [hl]

theorem exec_regWrite_granted {s : State} {h : Nat} {q : Queue} {f : Front} (hb : Claims.mayBegin s h 0x82 q f)
    (hl : s.regRefused (bitsOf (natAt (Claims.cmdWords f) 1) 0 26) (bitsOf (natAt (Claims.cmdWords f) 1) 26 4 + 1) true = none) :
    exec (.regWrite h) s = .next (((List.range (bitsOf (natAt (Claims.cmdWords f) 1) 26 4 + 1)).foldl (fun s i =>
      s.regWrite regAgent (bitsOf (natAt (Claims.cmdWords f) 1) 0 26 + 4 * i) (natAt (Claims.cmdWords f) (2 + i)) 15 false) (s.advance h f)).countDone h
      (wordAt f.words 0)) := by
  refine next_congr ((State.begin_of_mayBegin hb _).trans ?_)
  dsimp only
  rw [hl]

/-- REG_READ of one register (R479). -/
theorem exec_regRead_one {s v : State} {h : Nat} {avail : Bool} {q : Queue} {f : Front} {gs : List Seg} (hb : Claims.mayBegin s h 0x83 q f)
    (hn : bitsOf (natAt (Claims.cmdWords f) 1) 26 4 = 0) (hl : s.regRefused (bitsOf (natAt (Claims.cmdWords f) 1) 0 26) 1 false = none)
    (hsegs : s.segs q.inst (s.opAddr q 0x83 (Claims.cmdWords f) 0) 4 true askCmd = (v, gs, none)) :
    let u := v.regRead regAgent (bitsOf (natAt (Claims.cmdWords f) 1) 0 26) false avail
    exec (.regRead h avail) s = .next (({ u with own := { u.own with readData := v.own.readData, cpl := v.own.cpl } } : State).putBytesOf h q f
      (s.opAddr q 0x83 (Claims.cmdWords f) 0) (bytesAt u.own.readData 0 4)) := by
  refine next_congr ((State.begin_of_mayBegin hb _).trans ?_)
  dsimp only
  rw [hn, Nat.zero_add, hl]
  dsimp only
  rw [Nat.mul_one, hsegs] <;> rfl

/-- Settles O49. -/
theorem kernelCommandsSetWhatTheyName : Obligations.KernelCommandsSetWhatTheyName := by
  refine ⟨fun s h q f hb => ?context, fun s h err q f u hu hb => ?htab, fun s k ws d t ht => ?htabEffect, fun s h q f hb => ?regWrite,
    fun s h avail q f hb => ?regRead, fun s h q f hb => ?inval, fun s h err q f u hu hb => ?syncInit, fun s h q f hb => ?timeout,
    fun s h q f ws va n sync eff u gs hsegs hpoison hhost => ?operand⟩
  case context =>
    have hset {v : State} {j : Nat} (x : Queue) : (((v.finish h f false).setQueue j x).queue j) = x := (State.setQueue_queue ..).trans (if_pos rfl)
    refine ⟨fun hno => ?_, fun j hj hv => ?_, fun j v p hj hbit hne hx => ?_⟩
    · refine next_congr ((State.begin_of_mayBegin hb _).trans ?_)
      dsimp only
      rw [hno]
    · refine ⟨_, exec_setContext hb hj (.inl ⟨hv, rfl⟩), fun hbit => ?_, fun hbit => ?_, fun hbit => ?_⟩
      · have hzero : nat64At (Claims.cmdWords f) 2 = 0 := by
          rcases hv with h | h
          · rw [hbit] at h
            cases h
          · exact h
        rw [hset, contextSet_faultRec _ hbit, hzero] <;> rfl
      · rw [hset, contextSet_saveNext, if_pos hbit]
      · rw [hset, contextSet_saveNext, if_neg (by simp [hbit]), (s.finish_sameSave h f).save j]
    · refine ⟨_, exec_setContext hb hj (.inr ⟨hbit, hne, p, hx⟩), ?_, fun hbit' => ?_⟩
      · rw [hset, contextSet_faultRec _ hbit]
      · rw [hset, contextSet_saveNext, if_pos hbit']
  case htab =>
    subst hu
    exact ⟨fun hlt => next_congr ((State.begin_of_mayBegin hb _).trans (if_pos hlt)),
      fun hle => next_congr ((State.begin_of_mayBegin hb _).trans (if_neg (by omega)))⟩
  case htabEffect =>
    obtain ⟨hall, rfl⟩ := State.htabEffect_ok ht
    obtain ⟨hin, hout⟩ := foldl_tblSet_zipIdx { w0 := 0, w1 := 0 } (65536 * k + natAt ws 1) (htabEnts (natAt ws 2) d) 0 s.htab
    refine ⟨hall, rfl, hin, fun j hj => hout j ?_⟩
    rw [htabEnts_length]
    exact hj
  case regWrite =>
    refine ⟨fun l hl => exec_regWrite_refused hb hl, fun hn hl => ?_, fun hl => exec_regWrite_granted hb hl⟩
    have hexec := exec_regWrite_granted hb (by rw [hn]; exact hl)
    rw [hn] at hexec
    exact hexec
  case regRead =>
    refine ⟨fun l hl => ?_, fun v gs hn hl hsegs => ⟨_, rfl, exec_regRead_one hb hn hl hsegs⟩⟩
    refine next_congr ((State.begin_of_mayBegin hb _).trans ?_)
    dsimp only
    rw [hl]
  case inval =>
    let out (e : TlbEnt) : Bool := decide (e.inst = q.inst) && (decide (natAt (Claims.cmdWords f) 1 = 0) ||
      decide (nat64At (Claims.cmdWords f) 2 / 4096 ≤ e.page ∧ e.page < nat64At (Claims.cmdWords f) 2 / 4096 + natAt (Claims.cmdWords f) 4))
    refine ⟨{ s with caches := { s.caches with tlb := s.caches.tlb.filter fun e => !out e } }, rfl, fun e => ?_, fun hacc => ?_, fun hacc => ?_⟩
    · simp only [List.mem_filter, out, Bool.not_eq_true', Bool.and_eq_false_iff, Bool.or_eq_false_iff, decide_eq_false_iff_not]
      tauto
    · have hno : ¬ s.accessing q.inst = true := by simp [hacc]
      exact next_congr ((State.begin_of_mayBegin hb _).trans (if_neg hno))
    · exact next_congr ((State.begin_of_mayBegin hb _).trans (if_pos hacc))
  case syncInit =>
    subst hu
    refine ⟨fun hbad => ?_, fun hsome hfit => ?_⟩
    · exact next_congr ((State.begin_of_mayBegin hb _).trans (if_pos (hbad.imp_left fun h => by simp [h])))
    · exact next_congr ((State.begin_of_mayBegin hb _).trans (if_neg (by simp [Option.isNone_iff_eq_none, hsome]; omega)))
  case timeout =>
    refine ⟨fun hno => ?_, fun ⟨i, hi, h15⟩ => ?_, fun j hj hok => ?_⟩
    · refine next_congr ((State.begin_of_mayBegin hb _).trans ?_)
      rw [hno]
    · refine next_congr ((State.begin_of_mayBegin hb _).trans ?_)
      dsimp only
      split
      · rfl
      · exact if_pos (List.any_eq_true.2 ⟨i, List.mem_range.2 hi, by simpa using h15⟩)
    · have hexec : exec (.timeoutSet h) s = .next ((s.finish h f false).setQueue j { (s.finish h f false).queue j with presets := wordAt (Claims.cmdWords f) 2 }) := by
        refine next_congr ((State.begin_of_mayBegin hb _).trans ?_)
        rw [hj]
        refine if_neg ?_
        rw [Bool.not_eq_true]
        exact any_eq_false_of fun i hi => by simpa using hok i (List.mem_range.1 hi)
      refine ⟨_, hexec, ?_, rfl, fun i hi => (State.setQueue_queue ..).trans (if_neg hi)⟩
      rw [State.setQueue_queue, if_pos rfl]
  case operand =>
    have hstart (r : Except Nat State) (hr : eff u (u.segBytes gs) = r) : s.withOperand h q f ws va n sync eff = u.endOperand h f sync r := by
      unfold State.withOperand
      rw [hsegs]
      dsimp only
      rw [hpoison]
      dsimp only
      rw [if_pos (by simp [hhost]), hr]
    refine ⟨fun t ht => hstart _ ht, fun c hc hsync => (hstart _ hc).trans (if_pos hsync)⟩

end Sys2Proof.Machine
end

section
/-! PROOFS. Launches, copies and operations on sync objects start their work (10, 12). -/

namespace Sys2Proof.Machine

/-! ### Launches become ready (R449, R497) -/

theorem State.saveCheck_lookups (s : State) (k sa n : Nat) : Lookups s (s.saveCheck k sa n).1 := by
  have hx := s.xlate_lookups k sa true askCmd
  unfold State.saveCheck
  split
  · exact .refl s
  · split
    · exact .refl s
    · generalize s.xlate k sa true askCmd = r at hx
      obtain ⟨u, x⟩ := r
      cases x with
      | error x => exact hx
      | ok d => cases d <;> exact hx

/-- A state with one more ready launch of queue `h`. -/
def State.withReady (s : State) (h sa : Nat) (l : Launch) : State :=
  { (s.setLaunch s.nextId l).setQueue h { (s.setLaunch s.nextId l).queue h with ready := some s.nextId, saveArea := BitVec.ofNat 64 sa, saveNext := none } with
    nextId := s.nextId + 1 }

theorem State.withReady_effect (s : State) (h sa : Nat) (l : Launch) : ((s.withReady h sa l).queue h).ready = some s.nextId ∧
    ((s.withReady h sa l).queue h).head = (s.queue h).head ∧ tblFind s.nextId (s.withReady h sa l).launches = some l := by
  have hq : (s.withReady h sa l).queue h = { (s.setLaunch s.nextId l).queue h with ready := some s.nextId, saveArea := BitVec.ofNat 64 sa, saveNext := none } :=
    ((s.setLaunch s.nextId l).setQueue_queue h h _ :).trans (if_pos rfl)
  refine ⟨?_, ?_, (tblFind_tblPut ..).trans (if_pos rfl)⟩
  · rw [hq]
  · rw [hq] <;> rfl

theorem exec_launchInline_ready {s v w : State} {h g p : Nat} {q : Queue} {f : Front} (hb : Claims.mayBegin s h 0x11 q f)
    (hg : g = (if bitOf (natAt (Claims.cmdWords f) 3) 4 then bitsOf (natAt (Claims.cmdWords f) 3) 0 4 else q.cgrp)) (hok : s.grpOk q.inst g = true)
    (hx : s.xlate q.inst (s.opAddr q 0x11 (Claims.cmdWords f) 0) false askCmd = (v, .ok (.hbm p)))
    (hc : v.saveCheck q.inst (q.saveNext.getD q.saveArea).toNat (maskList (v.grpMask g)).length = (w, none)) :
    exec (.launchInline h) s = .next (w.withReady h (q.saveNext.getD q.saveArea).toNat
      { newLaunch q h g (w.grpMask g) (Claims.cmdWords f) (s.opAddr q 0x11 (Claims.cmdWords f) 0) 0 (q.saveNext.getD q.saveArea).toNat true with
        gtime := w.ck.gtime }) := by
  refine next_congr ((State.begin_of_mayBegin hb _).trans ?_)
  unfold State.readyLaunch
  simp only [if_true]
  rw [← hg, if_neg (by simp [hok]), hx]
  dsimp only
  rw [hc] <;> rfl

theorem exec_launch_ready {s v x w : State} {h g p : Nat} {d : XDest} {q : Queue} {f : Front} (hb : Claims.mayBegin s h 0x10 q f)
    (hg : g = (if bitOf (natAt (Claims.cmdWords f) 3) 4 then bitsOf (natAt (Claims.cmdWords f) 3) 0 4 else q.cgrp)) (hok : s.grpOk q.inst g = true)
    (hx : s.xlate q.inst (s.opAddr q 0x10 (Claims.cmdWords f) 0) false askCmd = (v, .ok (.hbm p)))
    (hcb : v.xlate q.inst (s.opAddr q 0x10 (Claims.cmdWords f) 1) false askCmd = (x, .ok d))
    (hc : x.saveCheck q.inst (q.saveNext.getD q.saveArea).toNat (maskList (x.grpMask g)).length = (w, none)) :
    exec (.launch h) s = .next (w.withReady h (q.saveNext.getD q.saveArea).toNat
      { newLaunch q h g (w.grpMask g) (Claims.cmdWords f) (s.opAddr q 0x10 (Claims.cmdWords f) 0) (s.opAddr q 0x10 (Claims.cmdWords f) 1)
          (q.saveNext.getD q.saveArea).toNat false with gtime := w.ck.gtime }) := by
  refine next_congr ((State.begin_of_mayBegin hb _).trans ?_)
  unfold State.readyLaunch
  simp only [Bool.false_eq_true, if_false]
  rw [← hg, if_neg (by simp [hok]), hx]
  dsimp only
  rw [hcb]
  dsimp only
  rw [hc] <;> rfl

/-! ### Copies run on (R432, R453) -/

/-- What follows a copy's movement: it stops, waits, ends at its stop, or is done. -/
theorem State.moverRun_cases {s : State} {id : Nat} {m : Mover} (hm : s.mover id = some m) (fin : State → Mover → State) :
    (∃ v n x, s.moverMove m m.todo.length = (v, n, some x) ∧ s.moverRun id fin = v.moverStop n x true) ∨
    (∃ v n, s.moverMove m m.todo.length = (v, n, none) ∧ (n.todo ≠ [] ∨ n.hostRows ≠ []) ∧ s.moverRun id fin = v) ∨
    (∃ v n x, s.moverMove m m.todo.length = (v, n, none) ∧ n.todo = [] ∧ n.hostRows = [] ∧ n.stop = some x ∧ s.moverRun id fin = v.moverStop n x false) ∨
    (∃ v n, s.moverMove m m.todo.length = (v, n, none) ∧ n.todo = [] ∧ n.hostRows = [] ∧ n.stop = none ∧ s.moverRun id fin = fin v n) := by
  unfold State.moverRun
  rw [hm]
  dsimp only
  generalize s.moverMove m m.todo.length = r
  obtain ⟨v, n, st⟩ := r
  cases st with
  | some x => exact .inl ⟨v, n, x, rfl, rfl⟩
  | none =>
    dsimp only
    by_cases hmore : n.todo ≠ [] ∨ n.hostRows ≠ []
    · exact .inr (.inl ⟨v, n, rfl, hmore, if_pos hmore⟩)
    · rw [if_neg hmore]
      obtain ⟨htodo, hrows⟩ : n.todo = [] ∧ n.hostRows = [] := by tauto
      cases hstop : n.stop with
      | some x => exact .inr (.inr (.inl ⟨v, n, x, rfl, htodo, hrows, hstop, rfl⟩))
      | none => exact .inr (.inr (.inr ⟨v, n, rfl, htodo, hrows, hstop, rfl⟩))

/-! ### Operations on sync objects (R464, R465) -/

/-- A command that sends an operation to the hub: it stays in flight, its ring is past it and the operation is the FIFO's last. -/
theorem State.start_sends {s : State} {h : Nat} (f : Front) (w : Work) (op : HubOp) (hf : (s.queue h).frames = []) :
    let t := (s.start h f true w).sendOp op
    t.sync.fifo = s.sync.fifo ++ [op] ∧ (t.queue h).head = (s.queue h).head + 1 ∧
      t.cmds = s.cmds ++ [Front.cmd f s.nextId h (s.queue h) true w] ∧ t.sync.objs = s.sync.objs ∧ Claims.SameMem s t := by
  obtain ⟨hstep, hsame⟩ := State.start_ring f true w hf
  have hsync : (s.start h f true w).sync = s.sync := hstep.side.sync
  refine ⟨?_, (congrArg Queue.head hsame).trans rfl, hstep.side.cmds, (congrArg Sync.objs hsync :), hstep.side.sameMem⟩
  change (s.start h f true w).sync.fifo ++ [op] = _
  rw [hsync]

/-- The command of an operation on a sync object. -/
theorem State.sendCmd_cases {s : State} {h : Nat} {q : Queue} {f : Front} (hq : q = s.queue h) (ws : List W) (kd : HubKind) (val : Nat) (wk : Work) :
    (s.syncIndex q.inst (bitsOf (natAt ws 1) 0 14) = none → s.sendCmd h q f ws kd val wk = s.cmdFault h 0x0103 f.pos) ∧
    (∀ i, s.syncIndex q.inst (bitsOf (natAt ws 1) 0 14) = some i →
      (opFits (s.obj i) kd val = false → s.sendCmd h q f ws kd val wk = s.cmdFault h 0x0103 f.pos) ∧
      (opFits (s.obj i) kd val = true → s.sendCmd h q f ws kd val wk = (s.start h f true wk).sendOp
        { port := 0, who := .queue h s.nextId, inst := q.inst, kind := kd, id := bitsOf (natAt ws 1) 0 14, val := val, spin := false })) := by
  unfold State.sendCmd
  dsimp only
  refine ⟨fun hno => by rw [hno], fun i hi => ?_⟩
  rw [hi]
  exact ⟨fun hfit => if_pos (by simp [hfit]), fun hfit => (if_neg (by simp [hfit])).trans (by rw [hq])⟩

/-- The three commands that send an operation to the hub. -/
theorem exec_sends {s : State} {h op val : Nat} {q : Queue} {f : Front} {kd : HubKind} {wk : Work} {c : Instr}
    (hc : (op, kd, val, wk, c) ∈ [(0x20, HubKind.add, natAt (Claims.cmdWords f) 2, Work.sync, Instr.signal h),
      (0x22, .arrive, 1, .sync, .arrive h), (0x21, (match bitsOf (natAt (Claims.cmdWords f) 1) 16 2 with | 0 => .waitGe | 1 => .waitGen | _ => .waitGeConsume),
        natAt (Claims.cmdWords f) 2, .wait, .wait h)]) (hb : Claims.mayBegin s h op q f) :
    exec c s = .next (s.sendCmd h q f (Claims.cmdWords f) kd val wk) := by
  simp only [List.mem_cons, List.not_mem_nil, or_false, Prod.mk.injEq] at hc
  rcases hc with ⟨rfl, rfl, rfl, rfl, rfl⟩ | ⟨rfl, rfl, rfl, rfl, rfl⟩ | ⟨rfl, rfl, rfl, rfl, rfl⟩ <;> exact next_congr (State.begin_of_mayBegin hb _)

/-- Settles O50. -/
theorem workCommandsStartTheirWork : Obligations.WorkCommandsStartTheirWork := by
  refine ⟨fun s h q f g im sa v p w hb hg him hsa hok hx hc => ?inline, fun s h q f g im cb sa v p w d x hb hg him hcb hsa hok hx hxc hc => ?launch,
    fun s h q f hb hno => ?noGroup, fun s h err q f u src dst g hu hb hsrc hdst hg => ?copy, fun s h q f v sh dh hb hroom hgeo hfirst => ?fill,
    fun s id m hm hchain => ?complete, fun s id err u m v n hm hchain hu hum hmove htodo hrows hstop => ?descriptor, fun s h q f op kd val wk c hc hb => ?sync⟩
  case inline =>
    subst him hsa
    have hlook := (s.xlate_lookups q.inst (s.opAddr q 0x11 (Claims.cmdWords f) 0) false askCmd)
    rw [hx] at hlook
    have hsave := v.saveCheck_lookups q.inst (q.saveNext.getD q.saveArea).toNat (maskList (v.grpMask g)).length
    rw [hc] at hsave
    have hq : w.queue h = q := ((hlook.trans hsave).queue h).trans (mayBegin_queue hb).symm
    obtain ⟨hready, hhead, hfind⟩ := w.withReady_effect h (q.saveNext.getD q.saveArea).toNat _
    exact ⟨_, exec_launchInline_ready hb hg hok hx hc, hready, hhead.trans (congrArg Queue.head hq), hfind⟩
  case launch =>
    subst him hsa hcb
    have hlook := (s.xlate_lookups q.inst (s.opAddr q 0x10 (Claims.cmdWords f) 0) false askCmd)
    rw [hx] at hlook
    have hlookc := (v.xlate_lookups q.inst (s.opAddr q 0x10 (Claims.cmdWords f) 1) false askCmd)
    rw [hxc] at hlookc
    have hsave := x.saveCheck_lookups q.inst (q.saveNext.getD q.saveArea).toNat (maskList (x.grpMask g)).length
    rw [hc] at hsave
    have hq : w.queue h = q := ((hlook.trans (hlookc.trans hsave)).queue h).trans (mayBegin_queue hb).symm
    obtain ⟨hready, hhead, hfind⟩ := w.withReady_effect h (q.saveNext.getD q.saveArea).toNat _
    exact ⟨_, exec_launch_ready hb hg hok hx hxc hc, hready, hhead.trans (congrArg Queue.head hq), hfind⟩
  case noGroup => exact next_congr ((State.begin_of_mayBegin hb _).trans (if_pos (by simp [hno])))
  case copy =>
    subst hu hsrc hdst hg
    refine ⟨fun hasync hsync hfull => next_congr ((State.begin_of_mayBegin hb _).trans (if_pos ⟨hasync, by simp [hsync], hfull⟩)), fun hroom => ?_⟩
    have hroom' : ¬ (bitOf (natAt (Claims.cmdWords f) 1) 2 = true ∧ (!hSync (wordAt (Claims.cmdWords f) 0)) = true ∧
        4 ≤ (s.eccFind err false).asyncCount h) := by
      rintro ⟨h1, h2, h3⟩
      rcases hroom with h | h | h
      · simp [h] at h1
      · simp [h] at h2
      · omega
    have hstart {t : State} (hchain : bitOf (natAt (Claims.cmdWords f) 1) 3 = false)
        (h : (s.eccFind err false).beginCopy h q f (Claims.cmdWords f) = t) : exec (.copy _ err) s = .next t :=
      next_congr ((State.begin_of_mayBegin hb _).trans ((if_neg hroom').trans ((if_neg (by simp [hchain])).trans h)))
    refine ⟨fun hchain => next_congr ((State.begin_of_mayBegin hb _).trans ((if_neg hroom').trans (if_pos hchain))),
      fun hchain hgeo => hstart hchain (if_pos (by simp [hgeo])), fun v sh dh hchain hgeo hfirst => ?_⟩
    have hbegin : (s.eccFind err false).beginCopy h q f (Claims.cmdWords f) = _ := if_neg (by simp [hgeo])
    rw [hfirst] at hbegin
    dsimp only at hbegin
    refine ⟨fun hsh hdh => hstart hchain (hbegin.trans (if_pos (by simp [hsh, hdh]))),
      fun hboth huns => hstart hchain (hbegin.trans ((if_neg (by simp [hboth])).trans (if_pos huns))), fun w p hboth hsafe hplan => ?_⟩
    refine hstart hchain (hbegin.trans ((if_neg (by simp [hboth])).trans ((if_neg hsafe).trans ?_)))
    rw [hplan]
  case fill =>
    have hroom' : ¬ (bitOf (natAt (Claims.cmdWords f) 1) 2 = true ∧ (!hSync (wordAt (Claims.cmdWords f) 0)) = true ∧ 4 ≤ s.asyncCount h) := by
      rintro ⟨h1, h2, h3⟩
      rcases hroom with h | h | h
      · simp [h] at h1
      · simp [h] at h2
      · omega
    refine next_congr ((State.begin_of_mayBegin hb _).trans ((if_neg hroom').trans ((if_neg (by simp [hgeo])).trans ?_)))
    rw [hfirst]
  case complete =>
    have hexec : exec (.bmvCopyComplete id) s = .next (s.moverRun id State.moverDone) := by
      change execBmvCopyComplete id s = _
      unfold execBmvCopyComplete
      rw [hm]
      exact next_congr (if_neg (by simp [hchain]))
    rcases State.moverRun_cases hm State.moverDone with ⟨v, n, x, hmove, hrun⟩ | ⟨v, n, hmove, hmore, hrun⟩ | ⟨v, n, x, hmove, htodo, hrows, hstop, hrun⟩ |
        ⟨v, n, hmove, htodo, hrows, hstop, hrun⟩
    · exact .inr (.inl ⟨v, n, x, hmove, hexec.trans (next_congr hrun)⟩)
    · exact .inr (.inr (.inl ⟨v, n, hmove, hmore, hexec.trans (next_congr hrun)⟩))
    · exact .inr (.inr (.inr ⟨v, n, x, hmove, htodo, hrows, hstop, hexec.trans (next_congr hrun)⟩))
    · exact .inl ⟨v, n, hmove, htodo, hrows, hstop, hexec.trans (next_congr hrun)⟩
  case descriptor =>
    subst hu
    have hexec : exec (.bmvDescriptorComplete id err) s = .next (v.chainNext n) := by
      change execBmvDescriptorComplete id err s = _
      unfold execBmvDescriptorComplete
      rw [hm]
      refine next_congr ((if_pos hchain).trans ?_)
      unfold State.moverRun
      rw [hum]
      dsimp only
      rw [hmove]
      dsimp only
      rw [if_neg (by simp [htodo, hrows]), hstop]
    refine ⟨fun h0 => hexec.trans (next_congr (if_pos h0)), fun _ => hexec⟩
  case sync =>
    have hexec := exec_sends hc hb
    obtain ⟨hnone, hsome⟩ := State.sendCmd_cases (f := f) (mayBegin_queue hb) (Claims.cmdWords f) kd val wk
    refine ⟨fun hno => hexec.trans (next_congr (hnone hno)), fun i hi => ⟨fun hfit => hexec.trans (next_congr ((hsome i hi).1 hfit)), fun hfit hf => ?_⟩⟩
    obtain ⟨hfifo, hhead, hcmds, hobjs, hmem⟩ := State.start_sends f wk
      { port := 0, who := .queue h s.nextId, inst := q.inst, kind := kd, id := bitsOf (natAt (Claims.cmdWords f) 1) 0 14, val := val, spin := false }
      (by rw [← mayBegin_queue hb]; exact hf)
    refine ⟨_, hexec.trans (next_congr ((hsome i hi).2 hfit)), hfifo, ?_, ⟨Front.cmd f s.nextId h (s.queue h) true wk, ?_, rfl, rfl, rfl, rfl⟩, hobjs, hmem⟩
    · rw [hhead, ← mayBegin_queue hb]
    · rw [hcmds]
      exact List.mem_append_right _ (List.mem_singleton.2 rfl)

end Sys2Proof.Machine
end

section
/-! PROOFS. Timeouts, dispatch, completion and slices of launches (10, 11). -/

namespace Sys2Proof.Machine

/-! ### Timeouts (R482, R519, R531) -/

theorem State.noteTimeout_signals (s : State) (h op : Nat) : Signals s (s.noteTimeout h op) :=
  ((s.count_signals _).trans (State.capture31_signals ..)).trans (State.cause_signals ..)

/-- The timeout of a command without further effect faults its queue. -/
theorem State.timeoutEnd_queue (s : State) (c : Cmd) (hr : (s.queue c.hwq).st = .running) :
    ((s.timeoutEnd c).queue c.hwq).st = .faulted ∧ ((s.timeoutEnd c).queue c.hwq).faultCode = 0x0104 := by
  unfold State.timeoutEnd
  extract_lets _ u
  have hu : (u.queue c.hwq).st = .running := hr
  clear_value u
  rw [State.queueFault_queue _ _ _ _ _ (by simp [hu]) (by simp [hu]), if_pos rfl]
  exact ⟨rfl, rfl⟩

theorem exec_commandTimeout_launch {s : State} {id n i : Nat} {c : Cmd} {l : Launch} (hc : s.cmd id = some c) (hw : c.work = .launch i)
    (hl : tblFind i s.launches = some l) :
    exec (.commandTimeoutExpiry id n) s = .next (if l.drain then s else (s.noteTimeout c.hwq c.op).drainLaunch i) := by
  change execCommandTimeoutExpiry id n s = _
  unfold execCommandTimeoutExpiry
  rw [hc]
  dsimp only
  rw [hw]
  dsimp only
  rw [hl]

theorem exec_commandTimeout_waiting {s : State} {id n : Nat} {c : Cmd} (hc : s.cmd id = some c)
    (hw : c.work = .wait ∨ (∃ b a v, c.work = .beacon b a v) ∨ ∃ ws, c.work = .earlier ws) :
    exec (.commandTimeoutExpiry id n) s = .next ((s.noteTimeout c.hwq c.op).timeoutEnd c) := by
  change execCommandTimeoutExpiry id n s = _
  unfold execCommandTimeoutExpiry
  rw [hc]
  dsimp only
  obtain hw | ⟨b, a, v, hw⟩ | ⟨ws, hw⟩ := hw <;> rw [hw]

theorem exec_commandTimeout_copy {s u : State} {id n m : Nat} {c : Cmd} {v : Mover} (hc : s.cmd id = some c) (hw : c.work = .copy m)
    (hu : u = (s.noteTimeout c.hwq c.op).moverPartly m n) (hv : u.mover m = some v) :
    exec (.commandTimeoutExpiry id n) s =
      .next (u.moverFault v fun s p kind => s.queueFault c.hwq 0x0104 p kind (moverDetail v) (moverDetail v)) := by
  subst hu
  change execCommandTimeoutExpiry id n s = _
  unfold execCommandTimeoutExpiry
  rw [hc]
  dsimp only
  rw [hw]
  dsimp only
  rw [hv]

theorem exec_drainGrace {s : State} {i : Nat} {l : Launch} (hl : tblFind i s.launches = some l) (hd : l.drain = true) :
    ∃ u : State, u = { s with regs := u.regs } ∧
      exec (.drainGraceExpiry i) s = .next (((maskList l.mask).foldl (fun s n => s.dropCtx i n) u).drained i).kick := by
  refine ⟨if tblGet 0 (capKey 0x15110) (s.count 0x1510C).regs = 1 ∧ bitsOf ((s.count 0x1510C).reg 0x15110).toNat 0 10 = l.hwq then
    (s.count 0x1510C).setReg 0x15110 ((s.count 0x1510C).reg 0x15110 ||| 0x400) else s.count 0x1510C, ?_, ?_⟩
  · split <;> rfl
  · change execDrainGraceExpiry i s = _
    unfold execDrainGraceExpiry
    rw [hl]
    exact next_congr (if_neg (by simp [hd]))

/-! ### Dispatch (R484 to R491) -/

/-- A launch that is the next to be dispatched, up to the check of its group. -/
theorem exec_launchDispatch {s : State} {i : Nat} {err : Option (Nat × Bool)} {l : Launch} {f : Front} (hl : tblFind i s.launches = some l)
    (hcan : s.canDispatch l = true) (hnext : s.nextInRound l = true) (hf : s.frontCmd l.hwq = some f)
    (hg : (s.eccFind err false).grpOk l.inst ((s.eccFind err false).readyGroup l) = false) :
    exec (.launchDispatch i err) s = .next (((s.eccFind err false).withdraw i).cmdFault l.hwq 0x0102 f.pos) := by
  change execLaunchDispatch i err s = _
  unfold execLaunchDispatch
  rw [hl]
  refine next_congr ((if_neg (by simp [hcan, hnext])).trans ?_)
  rw [hf]
  exact if_pos (by simp [hg])

theorem exec_launchDispatch_ok {s u : State} {i : Nat} {err : Option (Nat × Bool)} {l : Launch} {f : Front} (hl : tblFind i s.launches = some l)
    (hcan : s.canDispatch l = true) (hnext : s.nextInRound l = true) (hf : s.frontCmd l.hwq = some f) (hu : u = s.eccFind err false)
    (hg : u.grpOk l.inst (u.readyGroup l) = true) :
    ∃ v m, exec (.launchDispatch i err) s = .next ((State.placeCtxs v i l.gran (u.grpMask (u.readyGroup l))).takeSnapshot i m) ∧
      m.dispatched = true ∧ m.hwq = l.hwq ∧ m.grp = u.readyGroup l ∧ m.mask = u.grpMask (u.readyGroup l) ∧ m.band = (u.effBand l).1 ∧
      m.res = (u.effBand l).2 ∧ m.gtime = u.ck.gtime ∧ m.cmd = u.nextId := by
  have hexec : exec (.launchDispatch i err) s = execLaunchDispatch i err s := rfl
  unfold execLaunchDispatch at hexec
  rw [hl] at hexec
  dsimp only at hexec
  rw [if_neg (by simp [hcan, hnext]), hf] at hexec
  dsimp only at hexec
  rw [← hu, if_neg (by simp [hg])] at hexec
  refine ⟨_, _, hexec, rfl, rfl, rfl, rfl, rfl, rfl, ?_, rfl⟩
  dsimp only
  split <;> split <;> rfl

theorem exec_launchDispatch_not {s : State} {i : Nat} {err : Option (Nat × Bool)} {l : Launch} (hl : tblFind i s.launches = some l)
    (h : s.canDispatch l = false ∨ s.nextInRound l = false) : exec (.launchDispatch i err) s = .next s := by
  change execLaunchDispatch i err s = _
  unfold execLaunchDispatch
  rw [hl]
  exact next_congr (if_pos (by rcases h with h | h <;> simp [h]))

/-! ### Completion (R450): a launch that has left the table does not come back -/

theorem tblFind_tblErase_none {β : Type} {i : Nat} {t : Tbl β} (j : Nat) (h : tblFind i t = none) : tblFind i (tblErase j t) = none := by
  rw [tblFind_tblErase, h, ite_self]

theorem State.enterFaulted_noLaunch {s : State} {i : Nat} (h code : Nat) (p : Pos) (kind detail : Nat) (hi : tblFind i s.launches = none) :
    tblFind i (s.enterFaulted h code p kind detail).launches = none := by
  unfold State.enterFaulted
  dsimp only
  split
  · exact hi
  · generalize hu : s.setQueue h _ = u
    have hu : tblFind i u.launches = none := hu ▸ hi
    have hready : tblFind i (match (s.queue h).ready with
      | some j => { u with launches := tblErase j u.launches }
      | none => u).launches = none := by
      split
      · exact tblFind_tblErase_none _ hu
      · exact hu
    have hrec (z : State) (hz : tblFind i z.launches = none) :
        tblFind i ((((z.count 0x11108).capture31 0x11104 (h + 2 ^ 10 * code)).cause 0x11000 8).endWaits h |>.faultRecord h p kind code detail).launches =
          none := by
      rw [(State.faultRecord_stores ..).launches]
      exact (congrArg (tblFind i) (((z.count_signals _).trans (State.capture31_signals ..)).trans (State.cause_signals ..)).launches).trans hz
    split
    · exact (congrArg (tblFind i) (State.msixEvent_signals ..).launches).trans (hrec _ hready)
    · exact hrec _ hready

theorem State.accessFault_noLaunch {s : State} {i : Nat} (h va : Nat) (write : Bool) (a : Asker) (x : XErr) (p : Pos) (kind : Nat) (prog : Option Nat)
    (hi : tblFind i s.launches = none) : tblFind i (s.accessFault h va write a x p kind prog).launches = none := by
  unfold State.accessFault
  refine (congrArg (tblFind i) (State.raiseAs_signals ..).launches).trans (State.enterFaulted_noLaunch _ _ _ _ _ ?_)
  exact (congrArg (tblFind i) (State.xFault_signals ..).launches).trans hi

/-- Reading the buffers of a queue again, from the outermost. -/
theorem foldr_loadFrame_lookups (h k : Nat) (fs : List Frame) (s : State) :
    Lookups s (fs.foldr (fun f (s, l) => match s.loadFrame h k (l.length + 1) f with | (s, f) => (s, f :: l)) (s, ([] : List Frame))).1 := by
  induction fs with
  | nil => exact .refl s
  | cons f fs ih => exact ih.trans (State.loadFrame_lookups ..).1

theorem State.refreshFrames_queueSide (s : State) (h : Nat) : QueueSide s (s.refreshFrames h) :=
  (foldr_loadFrame_lookups h (s.queue h).inst (s.queue h).frames s).queueSide.trans (State.setQueue_queueSide ..)

theorem State.completeOne_launches (s : State) (c : Cmd) : (s.completeOne c).launches = s.launches := by
  unfold State.completeOne
  extract_lets u q v
  have hu : u.launches = s.launches := (State.countDone_step _ c.hwq c.hdr).1.side.launches
  have hv : v.launches = s.launches := hu
  clear_value v
  split
  · exact (State.fetch_step ..).1.side.launches.trans ((v.refreshFrames_queueSide c.hwq).launches.trans hv)
  · exact hv

theorem State.writeResult_noLaunch {s : State} {i : Nat} (c : Cmd) (ws : List W) (hi : tblFind i s.launches = none) :
    tblFind i (s.writeResult c ws).launches = none := by
  have hstore := (s.storeAt_stores (s.queue c.hwq).inst (nat64At ws 1) (s.resultBytes c.hwq (cmdPos c) ws)).launches
  unfold State.writeResult
  dsimp only
  generalize s.storeAt (s.queue c.hwq).inst (nat64At ws 1) (s.resultBytes c.hwq (cmdPos c) ws) = r at hstore
  obtain ⟨u, host, x⟩ := r
  have hu : tblFind i u.launches = none := (congrArg (tblFind i) hstore).trans hi
  have hone : tblFind i (u.completeOne c).launches = none := (congrArg (tblFind i) (u.completeOne_launches c)).trans hu
  cases x with
  | some p => exact State.accessFault_noLaunch _ _ _ _ _ _ _ _ hu
  | none =>
    cases host with
    | false => exact hone
    | true =>
      dsimp only
      split
      · exact hone
      · exact hu

theorem State.complete_noLaunch {s : State} {i : Nat} (c : Cmd) (hi : tblFind i s.launches = none) : tblFind i (s.complete c).launches = none := by
  have hone : tblFind i (s.completeOne c).launches = none := (congrArg (tblFind i) (s.completeOne_launches c)).trans hi
  unfold State.complete State.settle
  split
  · split
    · exact State.writeResult_noLaunch _ _ hone
    · exact hone
  · exact hone

theorem State.launchDone_noLaunch {s : State} {i : Nat} {l : Launch} (hl : tblFind i s.launches = some l) :
    tblFind i (s.launchDone i).launches = none := by
  have hgone : tblFind i (tblErase i s.launches) = none := (tblFind_tblErase ..).trans (if_pos rfl)
  unfold State.launchDone
  rw [hl]
  dsimp only
  split
  · exact State.complete_noLaunch _ hgone
  · exact hgone

/-- The command of a launch that has ended completes. -/
theorem State.launchDone_cmd {s : State} {i : Nat} {l : Launch} {c : Cmd} (hl : tblFind i s.launches = some l) (hc : s.cmd l.cmd = some c) :
    s.launchDone i = ({ s with launches := tblErase i s.launches } : State).complete c := by
  unfold State.launchDone
  rw [hl]
  dsimp only
  rw [show ({ s with launches := tblErase i s.launches } : State).cmd l.cmd = some c from hc]

theorem exec_launchComplete {s : State} {i : Nat} {l : Launch} (hl : tblFind i s.launches = some l) (hd : l.dispatched = true)
    (hctx : ∀ x ∈ s.ctxs, x.1 / 16 ≠ i) (hfifo : s.sync.fifo = []) : exec (.launchComplete i) s = .next (s.launchDone i) := by
  change execLaunchComplete i s = _
  unfold execLaunchComplete
  rw [hl]
  dsimp only
  rw [any_eq_false_of fun x hx => beq_false_of_ne (hctx x hx), hfifo, hd]
  rfl

/-! ### Slices (R492, R493) -/

/-- A context whose slice has passed. -/
def slicePassed (c : Ctx) : Ctx := { c with full := min 2 (c.full + 1) }

/-- The slice of launch `i` has passed on cluster `n`, where no other work wants it. -/
def State.passSlice (i : Nat) (s : State) (n : Nat) : State :=
  match s.ctx i n with
  | none => s
  | some c => s.setCtx (ctxKey i n) (slicePassed c)

theorem State.passSlice_ctxs (i n k : Nat) (s : State) :
    tblFind k (State.passSlice i s n).ctxs = if k = ctxKey i n then (tblFind k s.ctxs).map slicePassed else tblFind k s.ctxs := by
  unfold State.passSlice
  split
  · next hnone =>
    split
    · next hk => rw [hk, show tblFind (ctxKey i n) s.ctxs = none from hnone]; rfl
    · rfl
  · next c hsome =>
    rw [State.setCtx_ctx]
    split
    · next hk => rw [hk, show tblFind (ctxKey i n) s.ctxs = some c from hsome]; rfl
    · rfl

theorem State.passSlice_rest (i n : Nat) (s : State) : (State.passSlice i s n).queues = s.queues ∧ Claims.SameMem s (State.passSlice i s n) := by
  unfold State.passSlice
  split
  · exact ⟨rfl, fun _ => rfl⟩
  · exact ⟨rfl, fun _ => rfl⟩

theorem foldl_passSlice_rest (i : Nat) (l : List Nat) (s : State) :
    (l.foldl (State.passSlice i) s).queues = s.queues ∧ Claims.SameMem s (l.foldl (State.passSlice i) s) := by
  induction l generalizing s with
  | nil => exact ⟨rfl, fun _ => rfl⟩
  | cons n l ih =>
    obtain ⟨hq, hm⟩ := State.passSlice_rest i n s
    obtain ⟨hq', hm'⟩ := ih (State.passSlice i s n)
    exact ⟨hq'.trans hq, fun a => (hm' a).trans (hm a)⟩

theorem foldl_passSlice_other (i k : Nat) (l : List Nat) (s : State) (hk : ∀ n ∈ l, k ≠ ctxKey i n) :
    tblFind k (l.foldl (State.passSlice i) s).ctxs = tblFind k s.ctxs := by
  induction l generalizing s with
  | nil => rfl
  | cons n l ih =>
    obtain ⟨hn, hl⟩ := List.forall_mem_cons.1 hk
    exact (ih _ hl).trans ((State.passSlice_ctxs i n k s).trans (if_neg hn))

theorem ctxKey_inj {i m n : Nat} (h : ctxKey i m = ctxKey i n) : m = n := Nat.add_left_cancel h

theorem foldl_passSlice_mem (i n : Nat) (l : List Nat) (s : State) (hl : l.Nodup) (hn : n ∈ l) :
    (l.foldl (State.passSlice i) s).ctx i n = (s.ctx i n).map slicePassed := by
  induction l generalizing s with
  | nil => cases hn
  | cons m l ih =>
    obtain ⟨hm, hl⟩ := List.nodup_cons.1 hl
    have hhead (k : Nat) := State.passSlice_ctxs i m k s
    obtain rfl | hmem := List.mem_cons.1 hn
    · exact (foldl_passSlice_other i _ l _ fun j hj hk => hm (by rwa [ctxKey_inj hk])).trans ((hhead _).trans (if_pos rfl))
    · refine (ih _ hl hmem).trans (congrArg (Option.map slicePassed) ((hhead _).trans (if_neg fun hk => hm (by rwa [← ctxKey_inj hk]))))

theorem maskList_nodup (m : BitVec 16) : (maskList m).Nodup := List.nodup_range.filter _

theorem exec_sliceExpiry {s : State} {i : Nat} {l : Launch} (hl : tblFind i s.launches = some l)
    (hx : ∃ x ∈ s.ctxs, x.1 / 16 = i ∧ (x.2.st = .running ∨ x.2.st = .spinning)) (hw : s.sliceWanted i l = false) :
    exec (.sliceExpiry i) s = .next ((maskList l.mask).foldl (State.passSlice i) s) := by
  obtain ⟨x, hmem, hi, hst⟩ := hx
  have hany : (s.ctxs.any fun (k, c) => k / 16 == i && (c.st == .running || c.st == .spinning)) = true :=
    List.any_eq_true.2 ⟨x, hmem, by rcases hst with h | h <;> simp [hi, h]⟩
  change execSliceExpiry i s = _
  unfold execSliceExpiry
  rw [hl]
  refine next_congr ((if_neg (by rw [hany]; decide)).trans (congrArg (List.foldl · s (maskList l.mask)) ?_))
  funext z n
  unfold State.passSlice
  rw [hw]
  rfl

theorem exec_sliceExpiry_yield {s : State} {i n : Nat} {l : Launch} {c : Ctx} (hl : tblFind i s.launches = some l)
    (hx : ∃ x ∈ s.ctxs, x.1 / 16 = i ∧ (x.2.st = .running ∨ x.2.st = .spinning)) (hw : s.sliceWanted i l = true) (hm : maskList l.mask = [n])
    (hc : s.ctx i n = some c) (hst : c.st = .running ∨ c.st = .spinning) :
    exec (.sliceExpiry i) s = .next ((s.setCtx (ctxKey i n) { c with full := min 2 (c.full + 1), held := true }).askYield i n
      { c with full := min 2 (c.full + 1), held := true }) := by
  obtain ⟨x, hmem, hi, hrun⟩ := hx
  have hany : (s.ctxs.any fun (k, c) => k / 16 == i && (c.st == .running || c.st == .spinning)) = true :=
    List.any_eq_true.2 ⟨x, hmem, by rcases hrun with h | h <;> simp [hi, h]⟩
  change execSliceExpiry i s = _
  unfold execSliceExpiry
  rw [hl]
  refine next_congr ((if_neg (by rw [hany]; decide)).trans ?_)
  rw [hm]
  dsimp only [List.foldl]
  rw [hc]
  dsimp only
  rw [hw]
  exact if_pos (by rcases hst with h | h <;> simp [h])

/-- Settles O51. -/
theorem launchesAreDispatchedAndTimedOut : Obligations.LaunchesAreDispatchedAndTimedOut := by
  unfold Obligations.LaunchesAreDispatchedAndTimedOut
  refine ⟨fun s id n c hc => ⟨fun i l hw hl => ⟨fun hd => ?_, fun hd => ?_⟩, fun hw => ?_, fun m u v hw hu hv => exec_commandTimeout_copy hc hw hu hv⟩,
    fun s i l hl => ⟨fun hd => ?_, exec_drainGrace hl⟩, fun s i err l f u hl hcan hnext hf hu => ⟨fun hg => ?_, exec_launchDispatch_ok hl hcan hnext hf hu⟩,
    fun s i err l hl h => exec_launchDispatch_not hl h, fun s i l hl hd hctx hfifo => ?_, fun s i l hl hx => ⟨fun hw => ?_, fun n c hw hm hc hst => ?_⟩⟩
  case refine_1 => exact (exec_commandTimeout_launch hc hw hl).trans (next_congr (if_neg (by simp [hd])))
  case refine_2 => exact (exec_commandTimeout_launch hc hw hl).trans (next_congr (if_pos hd))
  case refine_3 =>
    exact ⟨_, exec_commandTimeout_waiting hc hw, rfl, fun hr => State.timeoutEnd_queue _ c ((congrArg Queue.st ((s.noteTimeout_signals ..).queue _)).trans hr)⟩
  case refine_4 =>
    change execDrainGraceExpiry i s = _
    unfold execDrainGraceExpiry
    rw [hl]
    exact next_congr (if_pos (by simp [hd]))
  case refine_5 =>
    subst hu
    exact exec_launchDispatch hl hcan hnext hf hg
  case refine_6 => exact ⟨_, exec_launchComplete hl hd hctx hfifo, State.launchDone_noLaunch hl, fun c hc => State.launchDone_cmd hl hc⟩
  case refine_7 =>
    obtain ⟨hq, hm⟩ := foldl_passSlice_rest i (maskList l.mask) s
    refine ⟨_, exec_sliceExpiry hl hx hw, fun n c hn hc => ?_, fun k hk => foldl_passSlice_other i k _ s hk, hq, hm⟩
    rw [foldl_passSlice_mem i n _ s (maskList_nodup _) hn, hc]
    rfl
  case refine_8 => exact exec_sliceExpiry_yield hl hx hw hm hc hst

end Sys2Proof.Machine
end

section
/-! PROOFS. Beacons and reservations; swapping and stopping contexts (11). -/

namespace Sys2Proof.Machine

/-! ### Beacons (R505 to R512) -/

theorem exec_beaconTick_none {s : State} {b : Nat} {vb : Bool} (h : s.idealTick b vb = none) : exec (.beaconTick b vb) s = .next s := by
  change execBeaconTick b vb s = _
  unfold execBeaconTick
  rw [h]

theorem exec_beaconTick_some {s : State} {b : Nat} {vb : Bool} {x : Nat} (h : s.idealTick b vb = some x) :
    exec (.beaconTick b vb) s = .next (if s.tickDue (s.beacon b) x then (s.relock b vb).tickBeacon b x else s) := by
  change execBeaconTick b vb s = _
  unfold execBeaconTick
  rw [h]

/-- A time-sourced Beacon's ideal tick is the last multiple of its period, from its offset on, that is not in the future. -/
theorem State.idealTick_of_time {s : State} {b x : Nat} (hsrc : (s.beacon b).cfg.src = 3) (hx : s.idealTick b false = some x) :
    x ≤ s.ck.gtime.toNat ∧ s.bcnOffset b ≤ x ∧ (x - s.bcnOffset b) % (s.beacon b).cfg.period = 0 ∧ s.ck.gtime.toNat < x + (s.beacon b).cfg.period := by
  unfold State.idealTick at hx
  dsimp only at hx
  rw [hsrc] at hx
  change (if (s.beacon b).cfg.period = 0 ∨ s.ck.gtime.toNat < s.bcnOffset b then none else some _) = some x at hx
  split at hx
  · cases hx
  · next hno =>
    obtain ⟨hperiod, hoffset⟩ := not_or.1 hno
    generalize (s.beacon b).cfg.period = p at hx hperiod ⊢
    generalize s.bcnOffset b = o at hx hoffset ⊢
    generalize s.ck.gtime.toNat = t at hx hoffset ⊢
    obtain rfl := Option.some.inj hx
    have hdiv := Nat.div_add_mod' (t - o) p
    have hmod := Nat.mod_lt (t - o) (Nat.pos_of_ne_zero hperiod)
    refine ⟨by omega, Nat.le_add_right .., ?_, by omega⟩
    rw [Nat.add_sub_cancel_left, Nat.mul_mod_left]

/-- A tick of a Beacon that has ticked is due at its ideal time, half a period or more after the last one. -/
theorem State.tickDue_of_ticked {s : State} {v : Beacon} {x : Nat} (ht : v.ticked = true) (hdue : s.tickDue v x = true) :
    x ≤ s.ck.gtime.toNat ∧ v.cfg.period ≤ 2 * (x - v.lastTick.toNat) := by
  unfold State.tickDue at hdue
  rw [if_pos ht, Bool.and_eq_true, decide_eq_true_iff, decide_eq_true_iff] at hdue
  exact hdue

theorem State.loseLock_signals {s : State} {b : Nat} (hsrc : (s.beacon b).cfg.src ≠ 0) (hlost : (s.beacon b).lockLost = false) :
    Signals (s.setBeacon b { s.beacon b with locked := false, lockLost := true }) (s.loseLock b) := by
  unfold State.loseLock
  dsimp only
  rw [if_neg (by simp [hsrc, hlost])]
  exact (State.countField_signals ..).trans (State.cause_signals ..)

theorem Signals.beacon {s t : State} (h : Signals s t) (j : Nat) : t.beacon j = s.beacon j := (congrArg (State.beacon · j) h).trans rfl
theorem Signals.resvs {s t : State} (h : Signals s t) : t.resvs = s.resvs := (congrArg State.resvs h).trans rfl

theorem exec_beaconLockLoss_head {s : State} {b : Nat} (h : (s.beacon b).cfg.src = 1 ∨ (s.beacon b).cfg.src = 2) :
    exec (.beaconLockLoss b) s = .next (s.loseLock b) :=
  next_congr (if_pos h)

theorem exec_beaconLockLoss_not {s : State} {b : Nat} (h : (s.beacon b).cfg.src ∉ [1, 2] ∨ (s.beacon b).lockLost = true) :
    exec (.beaconLockLoss b) s = .next s := by
  refine next_congr ?_
  split
  · next hhead =>
    have hlost : (s.beacon b).lockLost = true := h.resolve_left fun hn => hn (by simpa using hhead)
    unfold State.loseLock
    exact if_pos (.inr hlost)
  · rfl

/-! ### Reservations (R515) -/

theorem exec_budgetExhausted_not {s : State} {r : Nat}
    (h : (s.resv r).valid = false ∨ (s.resv r).exhaust = true ∨ (s.resv r).charged < (s.resv r).budget) : exec (.budgetExhausted r) s = .next s :=
  next_congr (if_pos (by simpa using h))

/-- Settles O53. -/
theorem beaconsTickAndBudgetsExhaust : Obligations.BeaconsTickAndBudgetsExhaust := by
  unfold Obligations.BeaconsTickAndBudgetsExhaust
  refine ⟨fun s b vb => ⟨exec_beaconTick_none, fun x hx => ⟨fun hd => ?_, fun hd => ?_⟩⟩, fun s b x => State.idealTick_of_time,
    fun s b x => State.tickDue_of_ticked, fun s b hsrc hlost => ?_, fun s b => exec_beaconLockLoss_not, fun s r hv he hb => ?_,
    fun s r => exec_budgetExhausted_not⟩
  case refine_1 => exact (exec_beaconTick_some hx).trans (next_congr (if_neg (by simp [hd])))
  case refine_2 => exact (exec_beaconTick_some hx).trans (next_congr (if_pos hd))
  case refine_3 =>
    have hsig := State.loseLock_signals (s := s) (b := b) (by omega) hlost
    refine ⟨_, exec_beaconLockLoss_head hsrc, (hsig.beacon b).trans ?_, fun j hj => (hsig.beacon j).trans ?_, hsig.resvs, hsig.sameMem⟩
    · rw [State.setBeacon_beacon, if_pos rfl]
    · rw [State.setBeacon_beacon, if_neg hj]
  case refine_4 =>
    refine ⟨_, rfl, (State.setResv_resv ..).trans (if_pos rfl), next_congr (if_neg ?_)⟩
    simp [hv, he, hb]

/-! ### Swapping (R494 to R498, R590) -/

theorem exec_swapOutStart_quiesce {s u : State} {i n : Nat} {l : Launch} {c : Ctx} {gs : List Seg} (hl : tblFind i s.launches = some l)
    (hd : l.dispatched = true) (hc : s.ctx i n = some c) (hq : (s.inst l.inst).st = .quiescing) (hrun : s.mayRun i = false)
    (hst : c.st = .ready ∨ c.st = .parked) (hidle : enginesIdle c = true) (hseg : s.imageSegs i n l c true = (u, some gs)) :
    exec (.swapOutStart i n) s = .next ((u.count 0x13120).setCtx (ctxKey i n) { c with st := .swappingOut }) := by
  change execSwapOutStart i n s = _
  unfold execSwapOutStart
  rw [hl]
  refine next_congr ((if_pos hd).trans ?_)
  rw [hc]
  refine (if_pos ⟨hq, by simp [hrun], hst, hidle⟩).trans ?_
  unfold State.swapOut
  rw [hl]
  dsimp only
  rw [hseg]

theorem exec_swapOutStart_victim {s : State} {i n j : Nat} {l : Launch} {c : Ctx} (hl : tblFind i s.launches = some l)
    (hd : l.dispatched = false) (hready : s.isReady l = true) (hbit : bitOf (s.readyMask l).toNat n = true) (hfit : s.fits n l.gran = false)
    (hno : ∀ x ∈ s.resident n, x.2.st ≠ .swappingOut) (hv : s.pickVictim n (s.effBand l).1 = some (j, c)) :
    exec (.swapOutStart i n) s = .next (s.swapOut j n c) := by
  have hany : ((s.resident n).any fun x => x.2.st == .swappingOut) = false := any_eq_false_of fun x hx => beq_false_of_ne (hno x hx)
  change execSwapOutStart i n s = _
  unfold execSwapOutStart
  rw [hl]
  refine next_congr ((if_neg (by simp [hd])).trans ((if_pos ?_).trans ?_))
  · rw [hany, hready, hbit, hfit]; decide
  · rw [hv]

theorem exec_swapOutComplete {s u : State} {i n : Nat} {l : Launch} {c : Ctx} {gs : List Seg} (hl : tblFind i s.launches = some l)
    (hc : s.ctx i n = some c) (hst : c.st = .swappingOut) (hseg : s.imageSegs i n l c true = (u, some gs)) :
    exec (.swapOutComplete i n) s = .next ((((u.segWrite l.inst false gs (u.imageBytes c)).bumpFree.setCtx (ctxKey i n)
      { c with st := .swappedOut }).leaveSlot n c.slot).kick) := by
  change execSwapOutComplete i n s = _
  unfold execSwapOutComplete
  rw [hc, hl]
  refine next_congr ((if_neg (by simp [hst])).trans ?_)
  rw [hseg]

/-- An image whose pages all pass: they were looked up and nothing else happened. -/
theorem State.imageSegs_lookups {s u : State} {i n : Nat} {l : Launch} {c : Ctx} {write : Bool} {gs : List Seg}
    (h : s.imageSegs i n l c write = (u, some gs)) : Lookups s u := by
  have hsegs := s.segs_lookups l.inst (imageBase l n) (imageLen c) write (askSave n)
  unfold State.imageSegs at h
  generalize s.segs l.inst (imageBase l n) (imageLen c) write (askSave n) = r at h hsegs
  obtain ⟨v, g, x⟩ := r
  cases x with
  | some p => cases h
  | none =>
    dsimp only at h
    split at h
    · cases h
    · obtain ⟨rfl, -⟩ := Prod.mk.inj h
      exact hsegs

theorem Lookups.setCaches {s t : State} (h : Lookups s t) (c : Caches) : Lookups s { t with caches := c } := h.trans rfl

theorem State.takeSlot_lookups (s : State) (n slot k : Nat) : Lookups s (s.takeSlot n slot k) := by
  unfold State.takeSlot
  have hgran (l : List Nat) : Lookups s (s.setGranMap n l) := (Lookups.refl s).setCaches _
  exact Lookups.setCaches ((hgran _).trans (State.count_signals ..).lookups) _

theorem exec_swapIn {s u : State} {i n : Nat} {l : Launch} {c : Ctx} {gs : List Seg} (hl : tblFind i s.launches = some l) (hc : s.ctx i n = some c)
    (hst : c.st = .swappedOut) (hwait : s.ctxWaits i n = false) (hfit : s.fits n c.gran = true) (hband : s.bandWaits n (s.bandOf i) = false)
    (hrun : s.mayRun i = true) (hdrain : l.drain = false) (hseg : s.imageSegs i n l c false = (u, some gs)) :
    exec (.swapIn i n) s = .next (((u.count 0x13124).takeSlot n (u.freeSlot n) c.gran).setCtx (ctxKey i n)
      { c with st := .swappingIn, slot := u.freeSlot n }) := by
  change execSwapIn i n s = _
  unfold execSwapIn
  rw [hc, hl]
  refine next_congr ((if_neg (by simp [hst, hwait, hfit, hband, hrun, hdrain])).trans ?_)
  rw [hseg]

theorem exec_swapInComplete {s u : State} {i n : Nat} {err : Option (Nat × Bool)} {l : Launch} {c : Ctx} {gs : List Seg}
    (hl : tblFind i s.launches = some l) (hc : s.ctx i n = some c) (hst : c.st = .swappingIn)
    (hseg : (s.eccFind err false).imageSegs i n l c false = (u, some gs)) (hpoison : u.segPoison gs = none) :
    exec (.swapInComplete i n err) s = .next ((u.setCtx (ctxKey i n) { c with
      st := .ready, sp := putBytes 0 (((u.segBytes gs).drop 0x100000).map some) [], since := u.nextId, full := 0 }).tick.able n i) := by
  change execSwapInComplete i n err s = _
  unfold execSwapInComplete
  rw [hc, hl]
  refine next_congr ((if_neg (by simp [hst])).trans ?_)
  rw [hseg]
  dsimp only
  rw [hpoison]

/-! ### Yield limits (R503, R504, R563) -/

theorem exec_yieldLimit {s : State} {i n : Nat} {c : Ctx} (hc : s.ctx i n = some c) :
    exec (.yieldLimitExpiry i n) s = .next (if !c.yieldReq ∨ c.forced then s
      else if c.st = .spinning then ((s.count 0x15114).yieldGap c).leaveRun i n { c with st := .parked, yieldReq := false }
      else if c.st = .running ∨ c.st = .ending then ((s.count 0x15114).setCtx (ctxKey i n) { c with forced := true }).tryStop i n
      else s) := by
  change execYieldLimitExpiry i n s = _
  unfold execYieldLimitExpiry
  rw [hc]

theorem exec_forcedSaveOverdue {s : State} {i n : Nat} {c : Ctx} (hc : s.ctx i n = some c) :
    exec (.forcedSaveOverdue i n) s = .next (if !c.forced ∨ enginesIdle c then s
      else (((s.count 0x15118).cause 0x15000 9).launchFault i 0x0502 (engineMask c + 2 ^ 8 * n) (yardBase n)).kick) := by
  change execForcedSaveOverdue i n s = _
  unfold execForcedSaveOverdue
  rw [hc]

theorem exec_spinToPark {s : State} {i n : Nat} {c : Ctx} (hc : s.ctx i n = some c) (hst : c.st = .spinning) :
    ∃ u : State, u = { s with regs := u.regs } ∧ exec (.spinToPark i n) s = .next (u.leaveRun i n { c with st := .parked, yieldReq := false }) := by
  refine ⟨s.countField 0x180134 0 16 1, rfl, ?_⟩
  change execSpinToPark i n s = _
  unfold execSpinToPark
  rw [hc]
  exact if_pos hst

theorem exec_spinToPark_not {s : State} {i n : Nat} {c : Ctx} (hc : s.ctx i n = some c) (hst : c.st ≠ .spinning) :
    exec (.spinToPark i n) s = .next s := by
  change execSpinToPark i n s = _
  unfold execSpinToPark
  rw [hc]
  exact if_neg hst

/-- Settles O52. -/
theorem contextsSwapAndStop : Obligations.ContextsSwapAndStop := by
  unfold Obligations.ContextsSwapAndStop
  refine ⟨fun s i n l hl => ⟨fun c u gs hd hc => exec_swapOutStart_quiesce hl hd hc, fun j c => exec_swapOutStart_victim hl,
    fun c u gs => exec_swapOutComplete hl, fun c u gs hc hst hwait hfit hband hrun hdrain hseg => ?_, fun err c u gs hc hst hseg hp => ?_⟩,
    fun s i n c hc => ⟨fun hy hf hst => ?_, fun hy hf hst => ?_, fun h => ?_, fun hf hidle => ?_, fun h => ?_, exec_spinToPark hc,
      exec_spinToPark_not hc⟩⟩
  case refine_1 =>
    have hu := State.imageSegs_lookups hseg
    have hslot : Lookups s ((u.count 0x13124).takeSlot n (u.freeSlot n) c.gran) := hu.trans ((State.count_signals ..).lookups.trans (State.takeSlot_lookups ..))
    exact ⟨_, exec_swapIn hl hc hst hwait hfit hband hrun hdrain hseg, (State.setCtx_ctx ..).trans (if_pos rfl), hslot.queues, hslot.sameMem⟩
  case refine_2 => exact ⟨_, exec_swapInComplete hl hc hst hseg hp, rfl, rfl, rfl, rfl, rfl, rfl⟩
  case refine_3 =>
    have hne : c.st ≠ .spinning := by rcases hst with h | h <;> simp [h]
    exact (exec_yieldLimit hc).trans (next_congr ((if_neg (by simp [hy, hf])).trans ((if_neg hne).trans (if_pos hst))))
  case refine_4 => exact (exec_yieldLimit hc).trans (next_congr ((if_neg (by simp [hy, hf])).trans (if_pos hst)))
  case refine_5 => exact (exec_yieldLimit hc).trans (next_congr (if_pos (by simpa using h)))
  case refine_6 => exact (exec_forcedSaveOverdue hc).trans (next_congr (if_neg (by simp [hf, hidle])))
  case refine_7 => exact (exec_forcedSaveOverdue hc).trans (next_congr (if_pos (by simpa using h)))

end Sys2Proof.Machine
end

section
/-! PROOFS. The Rigging hub (12). -/

namespace Sys2Proof.Machine

/-! ### The head of a port (R535, R536) -/

/-- The state in which the hub applies the operation it took. -/
def State.tookOp (s : State) (op : HubOp) : State := { s with sync := { s.sync with fifo := s.sync.fifo.erase op } }

theorem State.hubTake_none {s : State} {p : Nat} (kd : HubKind) (f : State → HubOp → State) (h : s.portHead p = none) : s.hubTake p kd f = s := by
  unfold State.hubTake
  rw [h]

theorem State.hubTake_other {s : State} {p : Nat} {kd : HubKind} {op : HubOp} (f : State → HubOp → State) (h : s.portHead p = some op)
    (hk : op.kind ≠ kd) : s.hubTake p kd f = s := by
  unfold State.hubTake
  rw [h]
  exact if_neg hk

theorem State.hubTake_kind {s : State} {p : Nat} {kd : HubKind} {op : HubOp} (f : State → HubOp → State) (h : s.portHead p = some op)
    (hk : op.kind = kd) : s.hubTake p kd f = f (s.tookOp op) op := by
  unfold State.hubTake
  rw [h]
  exact if_pos hk

/-! ### What the hub does with an operation (R543 to R551, R555) -/

theorem State.hubArrive_misuse {u : State} {op : HubOp} (h : u.target op = none) : u.hubArrive op = u.misuse op.who op.id := by
  unfold State.hubArrive
  rw [h]

theorem State.hubAdd_misuse {u : State} {op : HubOp} (h : u.target op = none) : u.hubAdd op = u.misuse op.who op.id := by
  unfold State.hubAdd
  rw [h]

theorem State.hubConsume_misuse {u : State} {op : HubOp} (h : u.target op = none) : u.hubConsume op = u.misuse op.who op.id := by
  unfold State.hubConsume
  rw [h]

theorem State.hubWait_misuse {u : State} {op : HubOp} (kd : WaitKind) (h : u.target op = none) : u.hubWait op kd = u.misuse op.who op.id := by
  unfold State.hubWait
  rw [h]

/-- Each row of the hub applies its kind of operation, and refuses one that names no object it fits. -/
theorem exec_hubRow {p : Nat} {kd : HubKind} {c : Instr}
    (hc : (kd, c) ∈ [(HubKind.arrive, Instr.hubArrive p), (.add, .hubSignalAdd p), (.consume, .hubConsume p), (.waitGe, .hubWaitGe p),
      (.waitGen, .hubWaitGen p), (.waitGeConsume, .hubWaitGeConsume p)]) :
    ∃ f, (∀ s, exec c s = .next (s.hubTake p kd f)) ∧ ∀ u op, u.target op = none → f u op = u.misuse op.who op.id := by
  simp only [List.mem_cons, Prod.mk.injEq, List.not_mem_nil, or_false] at hc
  obtain ⟨rfl, rfl⟩ | ⟨rfl, rfl⟩ | ⟨rfl, rfl⟩ | ⟨rfl, rfl⟩ | ⟨rfl, rfl⟩ | ⟨rfl, rfl⟩ := hc
  · exact ⟨State.hubArrive, fun _ => rfl, fun _ _ => State.hubArrive_misuse⟩
  · exact ⟨State.hubAdd, fun _ => rfl, fun _ _ => State.hubAdd_misuse⟩
  · exact ⟨State.hubConsume, fun _ => rfl, fun _ _ => State.hubConsume_misuse⟩
  · exact ⟨fun s op => s.hubWait op .ge, fun _ => rfl, fun _ _ => State.hubWait_misuse _⟩
  · exact ⟨fun s op => s.hubWait op .gen, fun _ => rfl, fun _ _ => State.hubWait_misuse _⟩
  · exact ⟨fun s op => s.hubWait op .geConsume, fun _ => rfl, fun _ _ => State.hubWait_misuse _⟩

theorem exec_hubWaitRow {p : Nat} {kd : HubKind} {wk : WaitKind} {c : Instr}
    (hc : (kd, wk, c) ∈ [(HubKind.waitGe, WaitKind.ge, Instr.hubWaitGe p), (.waitGen, .gen, .hubWaitGen p),
      (.waitGeConsume, .geConsume, .hubWaitGeConsume p)]) (s : State) :
    exec c s = .next (s.hubTake p kd fun s op => s.hubWait op wk) := by
  simp only [List.mem_cons, Prod.mk.injEq, List.not_mem_nil, or_false] at hc
  obtain ⟨rfl, rfl, rfl⟩ | ⟨rfl, rfl, rfl⟩ | ⟨rfl, rfl, rfl⟩ := hc <;> rfl

theorem State.hubArrive_more {u : State} {op : HubOp} {i : Nat} (h : u.target op = some i) (hlt : (u.obj i).value + 1 < (u.obj i).limit) :
    u.hubArrive op = (u.setObj i { u.obj i with value := (u.obj i).value + 1 }).applied op.who op.id := by
  unfold State.hubArrive
  rw [h]
  exact congrArg (State.applied · op.who op.id) (if_neg hlt.ne)

theorem State.hubArrive_last {u : State} {op : HubOp} {i : Nat} (h : u.target op = some i) (hlast : (u.obj i).value + 1 = (u.obj i).limit) :
    u.hubArrive op = (u.releaseBarrier i).1.applied op.who op.id := by
  unfold State.hubArrive
  rw [h]
  exact congrArg (State.applied · op.who op.id) (if_pos hlast)

theorem State.hubAdd_fits {u : State} {op : HubOp} {i : Nat} (h : u.target op = some i) (hle : (u.obj i).value + op.val ≤ (u.obj i).limit) :
    u.hubAdd op = ((u.setObj i { u.obj i with value := (u.obj i).value + op.val }).evaluate i).1.applied op.who op.id := by
  unfold State.hubAdd
  rw [h]
  exact if_neg hle.not_gt

theorem State.hubAdd_over {u : State} {op : HubOp} {i : Nat} (h : u.target op = some i) (hlt : (u.obj i).limit < (u.obj i).value + op.val)
    (hcad : (u.obj i).cadence = false) : u.hubAdd op = (u.syncFault i false op.who).opResult op.who op.id 2 := by
  unfold State.hubAdd
  rw [h]
  exact (if_pos hlt).trans (if_neg (by simp [hcad]))

theorem State.hubConsume_fits {u : State} {op : HubOp} {i : Nat} (h : u.target op = some i) (hle : op.val ≤ (u.obj i).value) :
    u.hubConsume op = ((u.setObj i { u.obj i with value := (u.obj i).value - op.val }).evaluate i).1.applied op.who op.id := by
  unfold State.hubConsume
  rw [h]
  exact if_neg hle.not_gt

theorem State.hubConsume_under {u : State} {op : HubOp} {i : Nat} (h : u.target op = some i) (hlt : (u.obj i).value < op.val)
    (hcad : (u.obj i).cadence = false) : u.hubConsume op = (u.syncFault i true op.who).opResult op.who op.id 1 := by
  unfold State.hubConsume
  rw [h]
  exact (if_pos hlt).trans (if_neg (by simp [hcad]))

/-- A wait on an object: whether it is satisfied at once. -/
def State.waitHolds (u : State) (i : Nat) (wk : WaitKind) (v : Nat) : Bool :=
  satisfied (u.obj i) wk v && !(wk == .geConsume && (u.waitersOf i).any (·.kind == .geConsume))

/-- The state after a satisfied wait has consumed what it consumes. -/
def State.waitTakes (u : State) (i : Nat) (wk : WaitKind) (v : Nat) : State :=
  if wk = .geConsume then u.setObj i { u.obj i with value := (u.obj i).value - v } else u

theorem State.hubWait_now {u : State} {op : HubOp} {i : Nat} {wk : WaitKind} (h : u.target op = some i) (hnow : u.waitHolds i wk op.val = true) :
    u.hubWait op wk =
      let v := if (u.obj i).notify && (u.obj i).type == 2 then (u.waitTakes i wk op.val).notify i else u.waitTakes i wk op.val
      match op.who with
      | .ctx l n _ => v.wakeCtx l n
      | w => v.applied w op.id := by
  unfold State.hubWait
  rw [h]
  exact if_pos hnow

theorem State.hubWait_later {u : State} {op : HubOp} {i : Nat} {wk : WaitKind} (h : u.target op = some i) (hnow : u.waitHolds i wk op.val = false) :
    u.hubWait op wk =
      let v : State := { u with sync := { u.sync with waiters := u.sync.waiters ++ [⟨op.who, i, wk, op.val⟩] } }
      match op.who with
      | .ctx l n _ => v.parkCtx l n op.spin
      | .queue h _ => v.setQueue h { v.queue h with waiting := true }
      | _ => v := by
  unfold State.hubWait
  rw [h]
  exact if_neg fun hyes => Bool.false_ne_true (hnow.symm.trans hyes)

/-! ### The watchdog of waits (R566) -/

/-- An object without waiters stays as it is when it is evaluated. -/
theorem State.evaluate_none {s : State} {i : Nat} (h : s.waitersOf i = []) (ht : (s.obj i).type ≠ 1) :
    (s.evaluate i).1.obj i = s.obj i ∧ (s.evaluate i).2 = 0 := by
  unfold State.evaluate
  dsimp only
  rw [if_neg ht, h]
  have hset : (s.setObj i { s.obj i with value := (s.obj i).value }).obj i = s.obj i := (State.setObj_obj ..).trans (if_pos rfl)
  refine ⟨?_, rfl⟩
  dsimp only [List.filter_nil, takeConsumers, List.append_nil, List.foldl_nil]
  exact (congrArg (State.obj · i) (if_neg (by simp))).trans hset

theorem exec_waitWatchdog_not {s : State} {i : Nat} (h : s.waitersOf i = [] ∨ (s.inst (s.syncOwner i)).st ≠ .active) :
    exec (.waitWatchdogExpiry i) s = .next s := by
  change execWaitWatchdogExpiry i s = _
  unfold execWaitWatchdogExpiry
  exact if_pos h

/-- What the watchdog notes before it ends the waits. -/
def State.noteWatchdog (s : State) (i : Nat) : State :=
  (((s.count 0x18012C).syncEvent i 3).cause 0x180000 10).cause (svBase (s.syncOwner i)) 8

theorem State.noteWatchdog_signals (s : State) (i : Nat) : Signals s (s.noteWatchdog i) :=
  (((s.count_signals _).trans (State.capture31_signals ..)).trans (State.cause_signals ..)).trans (State.cause_signals ..)

theorem exec_waitWatchdog_ctx {s : State} {i l n : Nat} {w : Waiter} {b : Option Nat} (h : s.waitersOf i = [w]) (hw : w.who = .ctx l n b)
    (hst : (s.inst (s.syncOwner i)).st = .active) :
    exec (.waitWatchdogExpiry i) s = .next ((s.noteWatchdog i).launchFault l 0x0303 (s.syncDetail i) 0x180000) := by
  change execWaitWatchdogExpiry i s = _
  unfold execWaitWatchdogExpiry
  dsimp only
  rw [if_neg (by simp [h, hst]), h]
  dsimp only [List.foldl]
  rw [hw]
  rfl

/-- A running queue that is faulted for a wait that timed out. -/
theorem State.raised_timeout {v : State} {h : Nat} (hv : (v.queue h).st = .running) (p : Pos) (o : Owner) (d : Nat) (was : Bool) :
    (((v.enterFaulted h 0x0303 p 2 0).raiseAs 0x0303 1 .l2 o (some h) 0x180000 0xFF d false false was).queue h).st = .faulted ∧
      (((v.enterFaulted h 0x0303 p 2 0).raiseAs 0x0303 1 .l2 o (some h) 0x180000 0xFF d false false was).queue h).faultCode = 0x0303 := by
  rw [(State.raiseAs_signals ..).queue, State.enterFaulted_queue _ _ _ _ (fun hf => nomatch hv.symm.trans hf) (fun hf => nomatch hv.symm.trans hf),
    if_pos rfl]
  exact ⟨rfl, rfl⟩

theorem exec_waitWatchdog_queue {s : State} {i h c : Nat} {w : Waiter} {cm : Cmd} (hws : s.waitersOf i = [w]) (hw : w.who = .queue h c)
    (hc : s.cmd c = some cm) (hrun : (s.queue h).st = .running) (hst : (s.inst (s.syncOwner i)).st = .active) :
    ∃ t, exec (.waitWatchdogExpiry i) s = .next t ∧ (t.queue h).st = .faulted ∧ (t.queue h).faultCode = 0x0303 := by
  have hsig := s.noteWatchdog_signals i
  have hexec : exec (.waitWatchdogExpiry i) s = execWaitWatchdogExpiry i s := rfl
  have hfind : (s.noteWatchdog i).cmd c = some cm := (congrArg (State.cmd · c) hsig).trans hc
  have hend : (s.noteWatchdog i).endCmd c = (some cm, { s.noteWatchdog i with cmds := (s.noteWatchdog i).cmds.filter (·.id ≠ c) }) :=
    congrArg (Prod.mk · _) hfind
  unfold execWaitWatchdogExpiry at hexec
  dsimp only at hexec
  rw [if_neg (by simp [hws, hst]), hws] at hexec
  dsimp only [List.foldl] at hexec
  rw [hw] at hexec
  dsimp only at hexec
  rw [show (((s.count 0x18012C).syncEvent i 3).cause 0x180000 10).cause (svBase (s.syncOwner i)) 8 = s.noteWatchdog i from rfl, hend] at hexec
  have hq : ((s.noteWatchdog i).queue h).st = .running := (congrArg Queue.st (hsig.queue h)).trans hrun
  generalize s.noteWatchdog i = u at hexec hq
  dsimp only at hexec
  generalize hv : ({ u with cmds := _, sync := _ } : State) = v at hexec
  have hv : (v.queue h).st = .running := hv ▸ hq
  exact ⟨_, hexec, State.raised_timeout hv ..⟩

/-- Settles O54. -/
theorem hubAppliesTheOldestOperation : Obligations.HubAppliesTheOldestOperation := by
  unfold Obligations.HubAppliesTheOldestOperation
  refine ⟨fun s p kd c hc => ?_, fun s p op u i hp hu hi => ⟨fun hk hv => ?_, fun hk hv => ?_, fun hk hv => ?_, fun hk hv hcad => ?_, fun hk hv => ?_,
    fun hk hv hcad => ?_⟩, fun s p op u i kd wk c now hc hp hk hu hi hnow => ?_, fun s i o ho hw ht => ?_, fun s i => exec_waitWatchdog_not,
    fun s i w l n b hws hw hst => ?_, fun s i w h c cm => exec_waitWatchdog_queue⟩
  case refine_1 =>
    obtain ⟨f, hexec, hmis⟩ := exec_hubRow hc
    refine ⟨fun hp => (hexec s).trans (next_congr (State.hubTake_none _ _ hp)), fun op hp hk => (hexec s).trans (next_congr (State.hubTake_other _ hp hk)),
      fun op u hp hk hu ht => (hexec s).trans (next_congr ((State.hubTake_kind _ hp hk).trans ?_))⟩
    subst hu
    exact hmis _ _ ht
  case refine_2 => subst hu; exact next_congr ((State.hubTake_kind _ hp hk).trans (State.hubArrive_more hi hv))
  case refine_3 => subst hu; exact next_congr ((State.hubTake_kind _ hp hk).trans (State.hubArrive_last hi hv))
  case refine_4 => subst hu; exact next_congr ((State.hubTake_kind _ hp hk).trans (State.hubAdd_fits hi hv))
  case refine_5 => subst hu; exact next_congr ((State.hubTake_kind _ hp hk).trans (State.hubAdd_over hi hv hcad))
  case refine_6 => subst hu; exact next_congr ((State.hubTake_kind _ hp hk).trans (State.hubConsume_fits hi hv))
  case refine_7 => subst hu; exact next_congr ((State.hubTake_kind _ hp hk).trans (State.hubConsume_under hi hv hcad))
  case refine_8 =>
    subst hu hnow
    have hrow := (exec_hubWaitRow hc s).trans (next_congr (State.hubTake_kind _ hp hk))
    refine ⟨fun hnow => ⟨_, rfl, fun l n e hw => ?_, fun h x hw => ?_⟩, fun hnow => ⟨_, rfl, fun l n e hw => ?_, fun h x hw => ?_⟩⟩
    · exact hrow.trans (next_congr ((State.hubWait_now hi hnow).trans (by rw [hw] <;> rfl)))
    · exact hrow.trans (next_congr ((State.hubWait_now hi hnow).trans (by rw [hw] <;> rfl)))
    · exact hrow.trans (next_congr ((State.hubWait_later hi hnow).trans (by rw [hw] <;> rfl)))
    · exact hrow.trans (next_congr ((State.hubWait_later hi hnow).trans (by rw [hw] <;> rfl)))
  case refine_9 =>
    subst ho
    exact State.evaluate_none hw ht
  case refine_10 =>
    have hsig := s.noteWatchdog_signals i
    exact ⟨_, hsig.launches, hsig.queues, hsig.ctxs, exec_waitWatchdog_ctx hws hw hst⟩

end Sys2Proof.Machine
end

section
/-! PROOFS. Operations on sync objects from hosts and from programs (12, 13). -/

namespace Sys2Proof.Machine

/-! ### SV_OP (R573, R585) -/

/-- A 64-bit write that passes every check of its page: the state remembers its low word. -/
theorem State.regWrite_wide {s : State} {ag : Agent} {o v : Nat} {l : Loc} {r : Row} (hg : s.gate ag o true = .go l) (hrow : l.row = some (r, 0))
    (hw : r.wide = true) (hacc : r.acc = .rw ∨ r.acc = .wo) (hlock : s.rowLocked l r = false) (hheld : s.rowHeld l r = false)
    (he : l.expert = false) : ∃ u : State, u = { s with lowWord := u.lowWord } ∧ s.regWrite ag o v 255 true = u.applyWide ag l (v % 2 ^ 64) := by
  let u : State := { s with lowWord := tblPut (l.base + l.off) (BitVec.ofNat 32 v) s.lowWord }
  have hulock : u.rowLocked l r = false := hlock
  have huheld : u.rowHeld l r = false := hheld
  have hw1s : ¬ (r.acc = .w1s ∧ v % 2 ^ 64 = 0) := fun h => by rcases hacc with ha | ha <;> exact nomatch ha.symm.trans h.1
  refine ⟨u, rfl, ?_⟩
  unfold State.regWrite
  rw [hg]
  dsimp only
  rw [hrow]
  dsimp only
  rw [if_neg (by decide), if_pos ⟨hw, rfl, rfl, hacc⟩]
  change u.writeRow ag _ l r _ = _
  unfold State.writeRow
  dsimp only
  rw [if_pos hw, if_neg hw1s, if_neg (by simp [hulock]), if_neg (by simp [hw]), if_neg (by simp [he]), if_neg (by simp [huheld]), if_pos hw]

/-- The kind of a host operation's code. -/
def svKind (op : Nat) : HubKind := match op with | 0 => .add | 1 => .consume | _ => .arrive

/-- The operation that a host's SV_OP word asks for. -/
def svHubOp (k op v : Nat) : HubOp :=
  { port := 17, who := .host k, inst := k, kind := svKind op, id := bitsOf v 0 14, val := if op = 2 then 1 else bitsOf v 32 32, spin := false }

/-- Whether the operand of an operation is out of place: an ARRIVE with one, another without. -/
def badOperand (op v : Nat) : Prop := if op = 2 then bitsOf v 32 32 ≠ 0 else bitsOf v 32 32 = 0

theorem not_badOperand {op v : Nat} (h : if op = 2 then bitsOf v 32 32 = 0 else bitsOf v 32 32 ≠ 0) : ¬ badOperand op v := by
  unfold badOperand
  split at h
  · next h2 => rw [if_pos h2]; exact not_not.2 h
  · next h2 => rw [if_neg h2]; exact h

theorem State.svOp_sends {s : State} {k op : Nat} {w : W64} (ag : Agent) (hst : (s.inst k).st ≠ .shadowed) (hop : bitsOf w.toNat 16 2 = op) (h3 : op ≠ 3)
    (hn : ¬ badOperand op w.toNat) : s.svOp k w ag = s.sendOp (svHubOp k op w.toNat) := by
  subst hop
  unfold State.svOp
  exact (if_neg hst).trans (if_neg fun h => h.elim h3 hn)

theorem State.svOp_rsvd {s : State} {k op : Nat} {w : W64} (ag : Agent) (hst : (s.inst k).st ≠ .shadowed) (hop : bitsOf w.toNat 16 2 = op)
    (hn : badOperand op w.toNat) : s.svOp k w ag = s.rsvdValue (svBase k + 0x118) (svBase k) 0 ag := by
  subst hop
  unfold State.svOp
  exact (if_neg hst).trans (if_pos (.inr hn))

theorem exec_svOpRow {ag : Agent} {v : BitVec 64} {op : Nat} {kd : HubKind} {c : Instr}
    (hc : (op, kd, c) ∈ [(0, HubKind.add, Instr.svOpSignalAdd ag v), (1, .consume, .svOpConsume ag v), (2, .arrive, .svOpArrive ag v)]) :
    kd = svKind op ∧ op ≠ 3 ∧ ∀ s, exec c s = s.svWrite ag op v := by
  simp only [List.mem_cons, Prod.mk.injEq, List.not_mem_nil, or_false] at hc
  obtain ⟨rfl, rfl, rfl⟩ | ⟨rfl, rfl, rfl⟩ | ⟨rfl, rfl, rfl⟩ := hc <;> exact ⟨rfl, by decide, fun _ => rfl⟩

theorem State.svWrite_syncView {s : State} {ag : Agent} {v : BitVec 64} {op : Nat} {l : Loc} {r : Row} (hg : s.gate ag (winOff ag 0x4118) true = .go l)
    (hpg : l.pg = .syncView) (hrow : l.row = some (r, 0)) (hw : r.wide = true) (hacc : r.acc = .rw ∨ r.acc = .wo) (hlock : s.rowLocked l r = false)
    (hheld : s.rowHeld l r = false) (he : l.expert = false) (hop : bitsOf v.toNat 16 2 = op) :
    ∃ u : State, u = { s with lowWord := u.lowWord } ∧ s.svWrite ag op v = .next (u.svOp l.unit v ag) := by
  obtain ⟨u, hu, hwrite⟩ := State.regWrite_wide (v := v.toNat) hg hrow hw hacc hlock hheld he
  refine ⟨u, hu, next_congr ((if_pos hop).trans (hwrite.trans ?_))⟩
  unfold State.applyWide
  rw [hpg]
  have hv : BitVec.ofNat 64 (v.toNat % 2 ^ 64) = v := by rw [Nat.mod_eq_of_lt v.isLt, BitVec.ofNat_toNat, BitVec.setWidth_eq]
  exact congrArg (State.svOp u l.unit · ag) hv

theorem exec_svOpStatusRead (ag : Agent) (s : State) :
    exec (.svOpStatusRead ag) s =
      .next (if s.sync.fifo.any fun o => o.who == .host (hostFn ag) then s else s.regRead ag (winOff ag 0x4120) false true) := rfl

/-! ### SYNC_OP and SYNC_WAIT of the CCC (R602) -/

theorem exec_cccOpRow {i n : Nat} {word : BitVec 64} {pc op : Nat} {kd : HubKind} {c : Instr}
    (hc : (op, kd, c) ∈ [(0, HubKind.add, Instr.cccSyncOpSignalAdd i n word pc), (1, .consume, .cccSyncOpConsume i n word pc),
      (2, .arrive, .cccSyncOpArrive i n word pc)]) : op ≠ 3 ∧ ∀ s, exec c s = .next (s.cccOp i n op kd word pc) := by
  simp only [List.mem_cons, Prod.mk.injEq, List.not_mem_nil, or_false] at hc
  obtain ⟨rfl, rfl, rfl⟩ | ⟨rfl, rfl, rfl⟩ | ⟨rfl, rfl, rfl⟩ := hc <;> exact ⟨by decide, fun _ => rfl⟩

theorem exec_cccWaitRow {i n : Nat} {word : BitVec 64} {pc kd : Nat} {kind : HubKind} {c : Instr}
    (hc : (kd, kind, c) ∈ [(0, HubKind.waitGe, Instr.cccSyncWaitGe i n word pc), (1, .waitGen, .cccSyncWaitGen i n word pc),
      (2, .waitGeConsume, .cccSyncWaitGeConsume i n word pc)]) : kd ≠ 3 ∧ ∀ s, exec c s = .next (s.cccWait i n kd kind word pc) := by
  simp only [List.mem_cons, Prod.mk.injEq, List.not_mem_nil, or_false] at hc
  obtain ⟨rfl, rfl, rfl⟩ | ⟨rfl, rfl, rfl⟩ | ⟨rfl, rfl, rfl⟩ := hc <;> exact ⟨by decide, fun _ => rfl⟩

section
variable {s : State} {i n : Nat} {x : Launch × Ctx} (hccc : s.ccc i n = some x)
include hccc

theorem State.cccOp_sends {op : Nat} {kind : HubKind} {word : W64} (pc : Nat) (h3 : op ≠ 3) (hop : bitsOf word.toNat 16 2 = op)
    (h14 : bitsOf word.toNat 14 2 = 0) (h18 : bitsOf word.toNat 18 14 = 0) (hn : ¬ badOperand op word.toNat) :
    s.cccOp i n op kind word pc = s.sendOp
      { port := 1 + n, who := .ctx i n none, inst := s.launchInst i, kind := kind, id := bitsOf word.toNat 0 14
        val := if op = 2 then 1 else bitsOf word.toNat 32 32, spin := false } := by
  unfold State.cccOp
  rw [hccc]
  refine (if_neg fun h => h.1 hop).trans (if_neg ?_)
  rintro (h | h | h | h)
  · exact h3 (hop.symm.trans h)
  · exact h h14
  · exact h h18
  · exact hn h

theorem State.cccOp_traps {op : Nat} {kind : HubKind} {word : W64} (pc : Nat) (hop : bitsOf word.toNat 16 2 = op)
    (hbad : bitsOf word.toNat 14 2 ≠ 0 ∨ bitsOf word.toNat 18 14 ≠ 0 ∨ badOperand op word.toNat) :
    s.cccOp i n op kind word pc = (s.yardTrap i n 10 (bitsOf word.toNat 0 14) 0 pc).kick := by
  unfold State.cccOp
  rw [hccc]
  exact (if_neg fun h => h.1 hop).trans (if_pos (.inr hbad))

theorem State.cccWait_sends {kd : Nat} {kind : HubKind} {word : W64} (pc : Nat) (h3 : kd ≠ 3) (hkd : bitsOf word.toNat 16 2 = kd)
    (h14 : bitsOf word.toNat 14 2 = 0) (h18 : bitsOf word.toNat 18 2 = 0) (h21 : bitsOf word.toNat 21 11 = 0) :
    s.cccWait i n kd kind word pc = s.sendOp
      { port := 1 + n, who := .ctx i n none, inst := s.launchInst i, kind := kind, id := bitsOf word.toNat 0 14
        val := bitsOf word.toNat 32 32, spin := bitOf word.toNat 20 } := by
  unfold State.cccWait
  rw [hccc]
  refine (if_neg fun h => h.1 hkd).trans (if_neg ?_)
  rintro (h | h | h | h)
  · exact h3 (hkd.symm.trans h)
  · exact h h14
  · exact h h18
  · exact h h21

theorem State.cccWait_traps {kd : Nat} {kind : HubKind} {word : W64} (pc : Nat) (hkd : bitsOf word.toNat 16 2 = kd)
    (hbad : bitsOf word.toNat 14 2 ≠ 0 ∨ bitsOf word.toNat 18 2 ≠ 0 ∨ bitsOf word.toNat 21 11 ≠ 0) :
    s.cccWait i n kd kind word pc = (s.yardTrap i n 10 (bitsOf word.toNat 0 14) 0 pc).kick := by
  unfold State.cccWait
  rw [hccc]
  exact (if_neg fun h => h.1 hkd).trans (if_pos (.inr hbad))

theorem exec_cccSyncStatusRead :
    exec (.cccSyncStatusRead i n) s = .next (if s.sync.fifo.any fun o => decide (o.who = .ctx i n none) then s
      else s.answer (leBytes 4 (x.2.syncRes + 2 ^ 16 * (x.2.syncId % 2 ^ 14))) 0) := by
  change execCccSyncStatusRead i n s = _
  unfold execCccSyncStatusRead
  rw [hccc]

end

/-- Settles O55. -/
theorem hostAndProgramsReachTheHub : Obligations.HostAndProgramsReachTheHub := by
  unfold Obligations.HostAndProgramsReachTheHub
  refine ⟨fun ag v s l r op kd c hc hg hpg hoff hrow hw hacc hlock hheld he hst hop => ?_, fun ag s => ⟨fun ⟨o, ho, hwho⟩ => ?_, fun hno => ?_⟩,
    fun s i n word pc l x op kd c hccc hc => ?_, fun s i n word pc l x kd kind c hccc hc => ?_,
    fun s i n l x hccc => ⟨fun ⟨o, ho, hwho⟩ => ?_, fun hno => ?_⟩⟩
  case refine_1 =>
    obtain ⟨hkd, h3, hexec⟩ := exec_svOpRow hc
    obtain ⟨u, hu, hwrite⟩ := State.svWrite_syncView hg hpg hrow hw hacc hlock hheld he hop
    have hust : (u.inst l.unit).st ≠ .shadowed := by rw [hu]; exact hst
    subst hkd
    refine ⟨fun hn => ⟨u.sendOp (svHubOp l.unit op v.toNat), ?_, ?_, ?_, ?_, ?_⟩, fun hn => ⟨u, hu, ?_⟩⟩
    · exact (hexec s).trans (hwrite.trans (next_congr (State.svOp_sends ag hust hop h3 (not_badOperand hn))))
    · exact congrArg (· ++ [svHubOp l.unit op v.toNat]) (congrArg (·.sync.fifo) hu)
    · exact (congrArg (·.sync.objs) hu :)
    · exact (congrArg State.queues hu :)
    · exact fun a => (congrArg (State.memByte · a) hu :)
    · exact (hexec s).trans (hwrite.trans (next_congr (State.svOp_rsvd ag hust hop hn)))
  case refine_2 =>
    exact (exec_svOpStatusRead ag s).trans (next_congr (if_pos (List.any_eq_true.2 ⟨o, ho, by rw [hwho]; exact beq_self_eq_true _⟩)))
  case refine_3 =>
    have hany : (s.sync.fifo.any fun o => o.who == .host (hostFn ag)) = false := any_eq_false_of fun o ho => beq_false_of_ne (hno o ho)
    exact (exec_svOpStatusRead ag s).trans (next_congr (if_neg fun h => Bool.false_ne_true (hany.symm.trans h)))
  case refine_4 =>
    obtain ⟨h3, hexec⟩ := exec_cccOpRow hc
    exact ⟨fun hop h14 h18 hn => ⟨_, (hexec s).trans (next_congr (State.cccOp_sends hccc pc h3 hop h14 h18 (not_badOperand hn))), rfl, rfl, fun _ => rfl⟩,
      fun hop hbad => (hexec s).trans (next_congr (State.cccOp_traps hccc pc hop hbad))⟩
  case refine_5 =>
    obtain ⟨h3, hexec⟩ := exec_cccWaitRow hc
    exact ⟨fun hkd h14 h18 h21 => ⟨_, (hexec s).trans (next_congr (State.cccWait_sends hccc pc h3 hkd h14 h18 h21)), rfl, rfl, fun _ => rfl⟩,
      fun hkd hbad => (hexec s).trans (next_congr (State.cccWait_traps hccc pc hkd hbad))⟩
  case refine_6 => exact (exec_cccSyncStatusRead hccc).trans (next_congr (if_pos (List.any_eq_true.2 ⟨o, ho, decide_eq_true hwho⟩)))
  case refine_7 =>
    have hany : (s.sync.fifo.any fun o => decide (o.who = .ctx i n none)) = false := any_eq_false_of fun o ho => decide_eq_false (hno o ho)
    exact (exec_cccSyncStatusRead hccc).trans (next_congr (if_neg fun h => Bool.false_ne_true (hany.symm.trans h)))

end Sys2Proof.Machine
end

section
/-! PROOFS. Programs on the Yards: entering, items, pushes, yields, traps, SYNC descriptors and completions (13). -/

namespace Sys2Proof.Machine

/-! ### Ports of a context -/

theorem portOf_setPortOf_same {c : Ctx} {e : Nat} (p : Port) (he : e < c.ports.length) : portOf (setPortOf c e p) e = p := by
  unfold portOf setPortOf
  rw [List.getD_eq_getElem?_getD, List.getElem?_set_self he]
  rfl

theorem portOf_setPortOf_other (c : Ctx) {e j : Nat} (p : Port) (hj : j ≠ e) : portOf (setPortOf c e p) j = portOf c j := by
  unfold portOf setPortOf
  rw [List.getD_eq_getElem?_getD, List.getElem?_set_ne (Ne.symm hj), List.getD_eq_getElem?_getD]

theorem setPortOf_length (c : Ctx) (e : Nat) (p : Port) : (setPortOf c e p).ports.length = c.ports.length := List.length_set

/-! ### Entering a context (R594, R597) -/

section
variable {s u : State} {i n : Nat} {l : Launch} {c : Ctx} {err : Option (Nat × Bool)} {d : List Byte} (hl : tblFind i s.launches = some l)
  (hc : s.ctx i n = some c) (hst : c.st = .running) (he : c.entered = false) (hsnap : l.snapNeed = [])
  (hread : ((s.eccFind err false).dropL1 n l.inst).readImage i n l 0 256 = (u, some d))
include hl hc hst he hsnap hread

theorem exec_yardContextEnter_badHeader {o : Nat} (ho : headerFault d = some o) :
    exec (.yardContextEnter i n err) s = .next (u.yardTrap i n 1 o 0 0).kick := by
  have himage : imageFault l d [] [] = some (1, o, 0) := by unfold imageFault; rw [ho]
  change execYardContextEnter i n err s = _
  unfold execYardContextEnter
  rw [hl, hc]
  refine next_congr ((if_neg (by simp [hst, he, hsnap])).trans ?_)
  rw [hread]
  dsimp only
  rw [ho]
  dsimp only [Option.isNone]
  rw [if_neg Bool.false_ne_true]
  dsimp only
  rw [if_neg Bool.false_ne_true]
  dsimp only
  rw [himage]

variable {v w : State} {res yld : List Byte} (hok : headerFault d = none)
  (hres : u.readImage i n l (hdrAt d 0x20 4) (16 * hdrAt d 0x24 4) = (v, some res))
  (hyld : v.readImage i n l (hdrAt d 0x28 4) (8 * hdrAt d 0x2C 4) = (w, some yld))
include hok hres hyld

theorem exec_yardContextEnter_read :
    exec (.yardContextEnter i n err) s = .next (match imageFault l d res yld with
      | some t => (w.yardTrap i n t.1 t.2.1 t.2.2 0).kick
      | none =>
        let s := w.setLaunch i { l with header := bytesWords 64 d ++ bytesWords (4 * hdrAt d 0x24 4) res }
        let c := { c with entered := true }
        let c := if c.item < itemCount l then startItem l c (BitVec.ofNat 32 (hdrAt d 0xC 4)) (Config.freeWord s.own.freeCtr) else { c with st := .ending }
        (s.bumpFree).setCtx (ctxKey i n) c) := by
  change execYardContextEnter i n err s = _
  unfold execYardContextEnter
  rw [hl, hc]
  refine next_congr ((if_neg (by simp [hst, he, hsnap])).trans ?_)
  rw [hread]
  dsimp only
  rw [hok]
  dsimp only [Option.isNone]
  rw [if_pos rfl, hres]
  dsimp only
  rw [if_pos rfl, hyld] <;> rfl

theorem exec_yardContextEnter_fault {x : Trap} (hx : imageFault l d res yld = some x) :
    exec (.yardContextEnter i n err) s = .next (w.yardTrap i n x.1 x.2.1 x.2.2 0).kick := by
  rw [exec_yardContextEnter_read hl hc hst he hsnap hread hok hres hyld, hx]

theorem exec_yardContextEnter_enters (hx : imageFault l d res yld = none) :
    ∃ t, ∃ x : Ctx, exec (.yardContextEnter i n err) s = .next t ∧ t.ctx i n = some x ∧ x.entered = true ∧
      (c.item < itemCount l → x.st = .running ∧ x.pc = 0x20000000 + BitVec.ofNat 32 (hdrAt d 0xC 4)) ∧ (itemCount l ≤ c.item → x.st = .ending) ∧
      t.queues = w.queues ∧ Claims.SameMem w t := by
  have hexec := exec_yardContextEnter_read hl hc hst he hsnap hread hok hres hyld
  rw [hx] at hexec
  refine ⟨_, _, hexec, (State.setCtx_ctx ..).trans (if_pos rfl), ?_, fun hlt => ?_, fun hle => ?_, rfl, fun _ => rfl⟩
  · dsimp only
    split <;> rfl
  · dsimp only
    rw [if_pos hlt]
    exact ⟨hst, rfl⟩
  · dsimp only
    rw [if_neg hle.not_gt]

end

/-! ### The CCC (R598 to R605, R625 to R629) -/

theorem State.ccc_running {s : State} {i n : Nat} {l : Launch} {c : Ctx} (h : s.ccc i n = some (l, c)) : c.st = .running := by
  unfold State.ccc at h
  split at h
  · split at h
    · next hrun =>
      obtain ⟨-, rfl⟩ := Prod.mk.inj (Option.some.inj h)
      exact hrun.1
    · cases h
  · cases h

section
variable {s : State} {i n : Nat} {l : Launch} {c : Ctx} (hccc : s.ccc i n = some (l, c))
include hccc

theorem exec_itemReturn_trap {a0 : W} (pc : Nat) (ha : a0 ≠ 0) : exec (.itemReturn i n a0 pc) s = .next (s.yardTrap i n 12 a0.toNat 0 pc).kick := by
  refine next_congr ?_
  unfold State.itemReturn
  rw [hccc]
  exact if_pos ha

theorem exec_itemReturn_next (pc : Nat) (hlt : c.item + (maskList l.mask).length < itemCount l) :
    ∃ x : Ctx, exec (.itemReturn i n 0 pc) s = .next ((s.bumpFree.setCtx (ctxKey i n) x).tryStop i n) ∧ x.item = c.item + (maskList l.mask).length ∧
      x.atYield = c.yieldReq ∧ x.st = .running ∧ x.ports = c.ports ∧ x.sp = c.sp := by
  refine ⟨startItem l { c with item := c.item + (maskList l.mask).length, atYield := c.yieldReq } (wordAt l.header 3) (Config.freeWord s.own.freeCtr),
    next_congr ?_, rfl, rfl, (State.ccc_running hccc :), rfl, rfl⟩
  unfold State.itemReturn
  rw [hccc]
  exact (if_neg (not_not.2 rfl)).trans (if_pos hlt)

theorem exec_itemReturn_last (pc : Nat) (hle : itemCount l ≤ c.item + (maskList l.mask).length) :
    exec (.itemReturn i n 0 pc) s = .next (s.setCtx (ctxKey i n) { c with item := c.item + (maskList l.mask).length, st := .ending }) := by
  refine next_congr ?_
  unfold State.itemReturn
  rw [hccc]
  exact (if_neg (not_not.2 rfl)).trans (if_neg hle.not_gt)

/-- A context whose port holds the words of a push in its stage. -/
def staged (c : Ctx) (e : Nat) (ws : List W) : Ctx := setPortOf c e { portOf c e with stage := (ws ++ List.replicate 16 0).take 16 }

theorem exec_push {e : Nat} (ws : List W) (pc : Nat) (he : e < 6) :
    exec (.push i n e ws pc) s = .next (s.enqueue i n e (staged c e ws) ((ws ++ List.replicate 16 0).take 16) pc) := by
  refine next_congr ?_
  unfold State.cccPush
  rw [hccc]
  exact if_neg he.not_ge

theorem exec_push_room {e : Nat} (ws : List W) (pc : Nat) (he : e < 6) (hlen : e < c.ports.length) (hroom : (portOf c e).fifo.length < 32) :
    ∃ t, ∃ x : Ctx, exec (.push i n e ws pc) s = .next t ∧ t.ctx i n = some x ∧
      (portOf x e).fifo = (portOf c e).fifo ++ [{ ws := (ws ++ List.replicate 16 0).take 16, seq := s.nextId, pc := pc }] ∧
      (portOf x e).stage = (ws ++ List.replicate 16 0).take 16 ∧ (∀ j, j ≠ e → portOf x j = portOf c j) ∧ x.stall = c.stall ∧ Claims.SameMem s t := by
  have hport : portOf (staged c e ws) e = { portOf c e with stage := (ws ++ List.replicate 16 0).take 16 } := portOf_setPortOf_same _ hlen
  have hlen' : e < (staged c e ws).ports.length := hlen.trans_eq (setPortOf_length ..).symm
  have hexec := exec_push hccc ws pc he
  unfold State.enqueue at hexec
  dsimp only at hexec
  rw [hport, if_pos hroom] at hexec
  refine ⟨_, _, hexec, (State.setCtx_ctx ..).trans (if_pos rfl), ?_, ?_, fun j hj => ?_, rfl, fun _ => rfl⟩
  · rw [portOf_setPortOf_same _ hlen']
  · rw [portOf_setPortOf_same _ hlen']
  · exact (portOf_setPortOf_other _ _ hj).trans (portOf_setPortOf_other _ _ hj)

theorem exec_push_full {e : Nat} (ws : List W) (pc : Nat) (he : e < 6) (hlen : e < c.ports.length) (hfull : 32 ≤ (portOf c e).fifo.length) :
    ∃ t, ∃ x : Ctx, exec (.push i n e ws pc) s = .next t ∧ t.ctx i n = some x ∧
      x.stall = some (e, { ws := (ws ++ List.replicate 16 0).take 16, seq := s.nextId, pc := pc }) ∧ (portOf x e).fifo = (portOf c e).fifo := by
  have hport : portOf (staged c e ws) e = { portOf c e with stage := (ws ++ List.replicate 16 0).take 16 } := portOf_setPortOf_same _ hlen
  have hexec := exec_push hccc ws pc he
  unfold State.enqueue at hexec
  dsimp only at hexec
  rw [hport, if_neg hfull.not_gt] at hexec
  exact ⟨_, _, hexec, (State.setCtx_ctx ..).trans (if_pos rfl), rfl, (congrArg Port.fifo hport :)⟩

theorem exec_pushTable_none {e v : Nat} {u : State} (pc : Nat) (he : e < 6) (hd : s.nextDesc i n l c (v % 2 ^ 16) = (u, some none)) :
    exec (.pushTable i n e v pc) s = .next (u.yardTrap i n 9 (v % 2 ^ 16) 0 pc).kick := by
  refine next_congr ?_
  unfold State.cccPushTable
  rw [hccc]
  refine (if_neg he.not_ge).trans ?_
  rw [hd]

theorem exec_pushTable_some {e v : Nat} {u : State} {ws : List W} {x : Ctx} (pc : Nat) (he : e < 6)
    (hd : s.nextDesc i n l c (v % 2 ^ 16) = (u, some (some ws))) (ht : portTakes e (dClass ws) = true) (hx : u.ctx i n = some x) :
    exec (.pushTable i n e v pc) s = .next (u.enqueue i n e x ws pc) := by
  refine next_congr ?_
  unfold State.cccPushTable
  rw [hccc]
  refine (if_neg he.not_ge).trans ?_
  rw [hd]
  refine (if_neg (by rw [ht]; decide)).trans ?_
  rw [hx]

theorem exec_levAdd (k v : Nat) :
    exec (.levAdd i n k v) s = .next (s.setCtx (ctxKey i n) { c with levs := c.levs.set k (c.levs.getD k 0 + BitVec.ofNat 16 v) }) := by
  refine next_congr ?_
  unfold State.cccLevAdd
  rw [hccc]

/-- Whether the yield-point map names a yield at an image offset. -/
def yieldListed (l : Launch) (d : List Byte) (idx pc : Nat) : Bool :=
  (List.range (natAt l.header 11)).any fun j => decide (hdrAt d (8 * j) 4 = pc ∧ hdrAt d (8 * j + 4) 2 = idx)

theorem exec_yield {idx pc : Nat} {u : State} {d : List Byte} (hread : s.readImage i n l (natAt l.header 10) (8 * natAt l.header 11) = (u, some d)) :
    exec (.yield i n idx pc) s = .next (if !yieldListed l d idx pc then (u.yardTrap i n 11 idx 0 pc).kick
      else match u.ctx i n with
        | some c => if c.yieldReq then (u.setCtx (ctxKey i n) { c with atYield := true }).tryStop i n else u
        | none => u) := by
  refine next_congr ?_
  unfold State.cccYield
  rw [hccc]
  dsimp only
  rw [hread] <;> rfl

theorem exec_trap (v pc : Nat) : exec (.trap i n v pc) s = .next (s.yardTrap i n 12 v 0 pc).kick := by
  refine next_congr ?_
  unfold State.cccTrap
  rw [hccc]

theorem exec_cccException (mcause mtval pc : Nat) :
    exec (.cccException i n mcause mtval pc) s = .next (if (mcause = 1 ∨ mcause = 5 ∨ mcause = 7) ∧ mtval < 0x1000000 then (s.yardTrap i n 8 0 mtval pc).kick
      else (s.yardTrap i n 5 mcause mtval pc).kick) := by
  refine next_congr ?_
  unfold State.cccExc
  rw [hccc]

end

/-! ### SYNC descriptors (R624) -/

theorem State.beginDesc_some {s : State} {i n e cls op : Nat} {r : Run} {c : Ctx} {d : Ent} (body : State → Run → Ctx → Ent → State)
    (h : s.canBegin i n e cls op = some (r, c, d)) (hb : badClass e d.ws = false) :
    s.beginDesc i n e cls op body = body (s.setCtx (ctxKey i n) (unstall (setPortOf c e (beginPort (portOf c e) d)))) r c d := by
  unfold State.beginDesc
  rw [h]
  exact if_neg (by rw [hb]; decide)

theorem exec_descRow {i n e op : Nat} {kd : HubKind} {cm : Instr}
    (hc : (op, kd, cm) ∈ [(0, HubKind.arrive, Instr.descArrive i n e), (1, .add, .descSignal i n e), (2, .consume, .descConsume i n e)]) (s : State) :
    exec cm s = .next (s.descOp i n e op kd) := by
  simp only [List.mem_cons, Prod.mk.injEq, List.not_mem_nil, or_false] at hc
  obtain ⟨rfl, rfl, rfl⟩ | ⟨rfl, rfl, rfl⟩ | ⟨rfl, rfl, rfl⟩ := hc <;> rfl

/-- What an inline operation does once its descriptor has begun. -/
theorem State.descOp_begun {s u : State} {i n e op : Nat} {r : Run} {c : Ctx} {d : Ent} (kind : HubKind)
    (h : s.canBegin i n e 3 op = some (r, c, d)) (hb : badClass e d.ws = false)
    (hu : u = s.setCtx (ctxKey i n) (unstall (setPortOf c e (beginPort (portOf c e) d)))) :
    s.descOp i n e op kind = match reservedWord d.ws [0x1FFF3, 0xFFFFFFFF, 0x3FFF, 0xFFFFFFFF] with
      | some w => u.trapDesc r d.pc (6, w, 0)
      | none =>
        if (if op = 0 then natAt d.ws 3 ≠ 0 else natAt d.ws 3 = 0) then u.trapDesc r d.pc (6, 3, 0)
        else u.sendOp { port := 1 + n, who := .ctx i n (some e), inst := u.launchInst i, kind := kind, id := natAt d.ws 2
                        val := if op = 0 then 1 else natAt d.ws 3, spin := false } := by
  subst hu
  exact State.beginDesc_some _ h hb

theorem exec_descFence {s : State} {i n e : Nat} {r : Run} {c : Ctx} {d : Ent} (h : s.canBegin i n e 3 3 = some (r, c, d)) (hb : badClass e d.ws = false)
    (hres : reservedWord d.ws [0x1FFF3, 0xFFFFFFFF, 0, 0, 0x3F] = none) :
    exec (.descFence i n e) s = .next (s.setCtx (ctxKey i n) (unstall (setPortOf c e (beginPort (portOf c e) d)))) := by
  refine next_congr ((State.beginDesc_some _ h hb).trans ?_)
  rw [hres]

/-! ### Completion of descriptors (R603 to R605, R610) -/

theorem State.endStaging_ctxs (s : State) (n : Nat) : (s.endStaging n).ctxs = s.ctxs := by
  unfold State.endStaging
  split <;> rfl

/-- The context of a descriptor that is complete and names none to come next. -/
def descDone (c : Ctx) (e w : Nat) : Ctx :=
  let x := setPortOf c e { portOf c e with run := none, doneCount := (portOf c e).doneCount + 1, chain := bitOf w 8 }
  if bitOf w 9 then { x with levs := x.levs.set (bitsOf w 10 3) (x.levs.getD (bitsOf w 10 3) 0 + 1) } else x

theorem descDone_ports (c : Ctx) (e w : Nat) :
    (descDone c e w).ports = (setPortOf c e { portOf c e with run := none, doneCount := (portOf c e).doneCount + 1, chain := bitOf w 8 }).ports := by
  unfold descDone
  split <;> rfl

section
variable {s : State} {i n e : Nat} {l : Launch} {c : Ctx} {d : Ent} (hl : tblFind i s.launches = some l) (hc : s.ctx i n = some c)
  (hrun : (portOf c e).run = some d)
include hl hc hrun

theorem exec_descriptorComplete_waits
    (hw : dClass d.ws = 3 ∧ (if dOp d.ws = 3 then !fenceMet (setPortOf c e { portOf c e with run := none }) d else !s.opApplied i n e)) :
    exec (.descriptorComplete i n e) s = .next s := by
  change execDescriptorComplete i n e s = _
  unfold execDescriptorComplete
  rw [hl, hc]
  dsimp only
  rw [hrun]
  exact next_congr (if_pos hw)

theorem exec_descriptorComplete_done (hcls : dClass d.ws ≠ 3) (hnext : bitOf (natAt d.ws 0) 8 = false) :
    ∃ u : State, exec (.descriptorComplete i n e) s = .next (u.tryStop i n) ∧ u.ctx i n = some (descDone c e (natAt d.ws 0)) := by
  have hexec : exec (.descriptorComplete i n e) s = execDescriptorComplete i n e s := rfl
  unfold execDescriptorComplete at hexec
  rw [hl, hc] at hexec
  dsimp only at hexec
  rw [hrun] at hexec
  dsimp only at hexec
  rw [if_neg fun h => hcls h.1, if_neg (by rw [hnext]; decide)] at hexec
  have hctx : (((s.count (engBase n e + 0x104)).setCtx (ctxKey i n) (descDone c e (natAt d.ws 0)))).ctx i n = some (descDone c e (natAt d.ws 0)) :=
    (State.setCtx_ctx ..).trans (if_pos rfl)
  refine ⟨_, hexec, ?_⟩
  split
  · exact (congrArg (tblFind (ctxKey i n)) (State.endStaging_ctxs ..)).trans hctx
  · exact hctx

end

/-- Settles O56. -/
theorem yardProgramsRunTheirItems : Obligations.YardProgramsRunTheirItems := by
  unfold Obligations.YardProgramsRunTheirItems
  refine ⟨fun s i n l c err u d hl hc hst he hsnap hread => ⟨fun o => exec_yardContextEnter_badHeader hl hc hst he hsnap hread,
      fun v res w yld hok hres hyld => ⟨fun x => exec_yardContextEnter_fault hl hc hst he hsnap hread hok hres hyld,
        exec_yardContextEnter_enters hl hc hst he hsnap hread hok hres hyld⟩⟩,
    fun s i n l c hccc => ⟨fun a0 pc => exec_itemReturn_trap hccc pc, fun pc => exec_itemReturn_next hccc pc, fun pc => exec_itemReturn_last hccc pc,
      fun e ws pc => exec_push_room hccc ws pc, fun e ws pc => exec_push_full hccc ws pc,
      fun e v pc he => ⟨fun u => exec_pushTable_none hccc pc he, fun u ws x => exec_pushTable_some hccc pc he⟩, exec_levAdd hccc,
      fun idx pc u d hread => ⟨fun hno => ?_, fun j x hj hpc hidx hx => ?_⟩, exec_trap hccc, fun mcause mtval pc hm hv => ?_, fun mcause mtval pc h => ?_⟩,
    fun s i n l c hl hc he hitem hst hidle => ?_, fun s i n e op kd cm r c d u hcm hbegin hbad hu => ⟨fun w hw => ?_, fun hw hn => ?_⟩,
    fun s i n e r c d => exec_descFence, fun s i n e l c d hl hc hrun hlen => ⟨fun h3 hop hno => ?_, fun h3 hop hno => ?_, fun h3 hnext => ?_⟩⟩
  case refine_1 =>
    have hlisted : yieldListed l d idx pc = false := any_eq_false_of fun j hj => decide_eq_false (hno j (List.mem_range.1 hj))
    exact (exec_yield hccc hread).trans (next_congr (if_pos (by rw [hlisted]; decide)))
  case refine_2 =>
    have hlisted : yieldListed l d idx pc = true := List.any_eq_true.2 ⟨j, List.mem_range.2 hj, decide_eq_true ⟨hpc, hidx⟩⟩
    have hexec := (exec_yield hccc hread).trans (next_congr (if_neg (by rw [hlisted]; decide)))
    rw [hx] at hexec
    exact ⟨fun hy => hexec.trans (next_congr (if_pos hy)), fun hy => hexec.trans (next_congr (if_neg (by simp [hy])))⟩
  case refine_3 => exact (exec_cccException hccc ..).trans (next_congr (if_pos ⟨hm, hv⟩))
  case refine_4 =>
    refine (exec_cccException hccc ..).trans (next_congr (if_neg fun hboth => ?_))
    obtain h | h := h
    · exact h (by simpa using hboth.1)
    · exact h.not_gt hboth.2
  case refine_5 =>
    change execContextEnd i n s = _
    unfold execContextEnd
    rw [hl, hc]
    refine next_congr (if_pos ?_)
    rcases hst with h | h <;> simp [he, hitem, hidle, h]
  case refine_6 =>
    refine (exec_descRow hcm s).trans (next_congr ((State.descOp_begun kd hbegin hbad hu).trans ?_))
    rw [hw]
  case refine_7 =>
    have hsent := (exec_descRow hcm s).trans (next_congr (State.descOp_begun kd hbegin hbad hu))
    rw [hw] at hsent
    dsimp only at hsent
    rw [if_neg (by split at hn <;> simp_all)] at hsent
    subst hu
    exact ⟨_, hsent, rfl, rfl, fun _ => rfl⟩
  case refine_8 => exact exec_descriptorComplete_waits hl hc hrun ⟨h3, by rw [if_neg hop, hno]; rfl⟩
  case refine_9 => exact exec_descriptorComplete_waits hl hc hrun ⟨h3, by rw [if_pos hop, hno]; rfl⟩
  case refine_10 =>
    obtain ⟨u, hexec, hctx⟩ := exec_descriptorComplete_done hl hc hrun h3 hnext
    have hports := descDone_ports c e (natAt d.ws 0)
    have hport : portOf (descDone c e (natAt d.ws 0)) e = _ :=
      (congrArg (List.getD · e portReset_) hports).trans (portOf_setPortOf_same _ hlen)
    refine ⟨u, _, hexec, hctx, ?_, ?_, ?_, fun j hj => ?_, fun h9 => ?_, fun h9 => ?_⟩
    · rw [hport]
    · rw [hport]
    · rw [hport]; exact hnext
    · exact (congrArg (List.getD · j portReset_) hports).trans (portOf_setPortOf_other _ _ hj)
    · unfold descDone
      dsimp only
      rw [if_neg (by rw [h9]; decide)]
      rfl
    · unfold descDone
      dsimp only
      rw [if_pos h9]
      rfl

end Sys2Proof.Machine
end

section
/-! PROOFS. Heads and ports: a LUT write to a head the device does not have (15). -/

namespace Sys2Proof.Machine

/-- After reset head 2, which the device does not have, selects bank 0 and entry 0. -/
theorem reset_lutIndex : State.reset.reg (headBase 2 + 0x188) = 0 := by decide

/-- A LUT write to head 2 stores nothing: there are heads 0 and 1 only. -/
theorem reset_lutWrite (v : W) (ag : Agent) : (State.reset.lutWrite 2 v ag).head 2 = headReset := by
  unfold State.lutWrite
  dsimp only
  rw [reset_lutIndex]
  rfl

/-- Refutes O58: its clause on LUT_DATA writes names any head number, and head 2 has no LUT that could take the value. -/
theorem not_headsAndPortsGoThroughTheirSteps : ¬ Obligations.HeadsAndPortsGoThroughTheirSteps := by
  intro h
  obtain ⟨-, -, -, -, -, -, -, -, -, -, -, -, -, -, -, hlut, -⟩ := h
  have hclaim := hlut State.reset 2 1 ⟨0, 0⟩ (by rw [reset_lutIndex]; decide)
  rw [reset_lutWrite, reset_lutIndex] at hclaim
  exact absurd hclaim (by decide)

end Sys2Proof.Machine
end

section
/-! PROOFS. Trim, telemetry and background work (16). -/

namespace Sys2Proof.Machine

/-! ### The clusters' clock entries -/

/-- The clock entry of a cluster. -/
def State.cclkAt (s : State) (n : Nat) : Cclk := s.ck.cclk.getD n cclkReset

theorem State.mapCclk_at (s : State) (f : Nat → Cclk → Cclk) (n : Nat) :
    (s.mapCclk f).cclkAt n = if n < s.ck.cclk.length then f n (s.cclkAt n) else s.cclkAt n := by
  unfold State.mapCclk State.cclkAt
  dsimp only
  rw [List.getD_eq_getElem?_getD, List.getD_eq_getElem?_getD, List.getElem?_mapIdx]
  split
  · next h => rw [List.getElem?_eq_getElem h]; rfl
  · next h => rw [List.getElem?_eq_none (Nat.le_of_not_lt h)]; rfl

theorem State.onCclk_at {s : State} {n : Nat} (f : Cclk → Cclk) (hn : n < s.ck.cclk.length) : (s.onCclk n f).cclkAt n = f (s.cclkAt n) :=
  (State.mapCclk_at ..).trans ((if_pos hn).trans (if_pos rfl))

theorem State.onCclk_at_ne (s : State) {n j : Nat} (f : Cclk → Cclk) (hj : j ≠ n) : (s.onCclk n f).cclkAt j = s.cclkAt j := by
  refine (State.mapCclk_at ..).trans ?_
  rw [if_neg hj, ite_self]

theorem Signals.cclkAt {s t : State} (h : Signals s t) (n : Nat) : t.cclkAt n = s.cclkAt n := congrArg (fun c => c.cclk.getD n cclkReset) h.ck

/-! ### The fast loop (R716 to R720) -/

theorem exec_droopDetect {n : Nat} {s : State} (hn : n < 16) (hr : s.pw.railsUp = true) (hst : (s.cclkAt n).stretch = false) :
    exec (.droopDetect n) s = .next ((s.onCclk n fun c => { c with stretch := true }).countField 0x7120 0 16 1) := by
  refine next_congr (if_neg ?_)
  rintro (h | h | h)
  · exact absurd hr (by simpa [State.corePower] using h)
  · exact hn.not_ge h
  · exact Bool.false_ne_true (hst.symm.trans h)

theorem exec_droopDetect_not {n : Nat} {s : State} (h : s.pw.railsUp = false ∨ (s.cclkAt n).stretch = true) : exec (.droopDetect n) s = .next s := by
  refine next_congr (if_pos ?_)
  obtain h | h := h
  · exact .inl (by simpa [State.corePower] using h)
  · exact .inr (.inr h)

/-- The clusters that an overcurrent stretches: those that are neither gated nor stretched. -/
def State.newlyStretched (s : State) : List Nat := (List.range 16).filter fun n => !s.gatedAt n && !(s.ck.cclk.getD n cclkReset).stretch

theorem exec_overcurrentDetect {s : State} (hr : s.pw.railsUp = true) (hnew : s.newlyStretched ≠ []) :
    exec .overcurrentDetect s =
      .next ((s.mapCclk fun i c => if s.newlyStretched.contains i then { c with stretch := true } else c).countField 0x7120 16 16 1) := by
  refine next_congr (if_neg ?_)
  rintro (h | h)
  · exact absurd hr (by simpa [State.corePower] using h)
  · exact hnew h

theorem exec_thermalClamp {s : State} (hr : s.pw.railsUp = true) (hc : s.trim.clamp = false) :
    exec .thermalClamp s = .next ((((s.setTrim fun t => { t with clamp := true }).mapCclk fun _ c => { c with n := 40, base := 40 }).countField 0x7124 16 16 1).cause
      0x7000 10) := by
  refine next_congr (if_neg ?_)
  rintro (h | h)
  · exact absurd hr (by simpa [State.corePower] using h)
  · exact Bool.false_ne_true (hc.symm.trans h)

theorem exec_thermTrip {s : State} (hr : s.pw.railsUp = true) :
    exec .thermTrip s = .next (({ s with pw := { s.pw with thermTripN := false } } : State).raise 0x0B03 .device none 0x7000 0) :=
  next_congr (if_neg (by simp [hr]))

theorem exec_railFault {s : State} (hr : s.pw.railsUp = true) : exec .railFault s = .next (s.raise 0x0B04 .device none 0x8000 0) :=
  next_congr (if_neg (by simp [hr]))

theorem exec_lendingWindow {s : State} (hr : s.pw.railsUp = true) (hs : s.pw.safe = false) :
    ∃ t, exec .lendingWindow s = .next t ∧ t.trim.lendR = s.reefedCount ∧ t.trim.lending = bitOf (s.reg 0x7400).toNat 0 ∧
      ∃ u : State, t = u.setDividers s.reefedCount ∧ u.ck = s.ck := by
  have hexec : exec .lendingWindow s = execLendingWindow s := rfl
  unfold execLendingWindow at hexec
  dsimp only at hexec
  rw [if_neg (by simp [hr, hs])] at hexec
  refine ⟨_, hexec, ?_, ?_, _, rfl, ?_⟩
  · split <;> rfl
  · split <;> rfl
  · split <;> rfl

/-! ### The firmware loop (R722 to R729) -/

/-- What a pass of the loop keeps of the settings, the limits and the memory. -/
structure LimitsKept (s t : State) : Prop where
  eff : t.trim.eff = s.trim.eff
  next : t.trim.next = s.trim.next
  capLim : t.trim.capLim = s.trim.capLim
  capW : t.trim.capW = s.trim.capW
  boardW : t.trim.boardW = s.trim.boardW
  mem : Claims.SameMem s t

theorem LimitsKept.of_trim {s t : State} (h : t.trim = s.trim) (hm : Claims.SameMem s t) : LimitsKept s t :=
  ⟨congrArg Trim.eff h, congrArg Trim.next h, congrArg Trim.capLim h, congrArg Trim.capW h, congrArg Trim.boardW h, hm⟩

theorem LimitsKept.refl (s : State) : LimitsKept s s := .of_trim rfl fun _ => rfl

theorem LimitsKept.trans {s t u : State} (h : LimitsKept s t) (k : LimitsKept t u) : LimitsKept s u :=
  ⟨k.eff.trans h.eff, k.next.trans h.next, k.capLim.trans h.capLim, k.capW.trans h.capW, k.boardW.trans h.boardW, fun a => (k.mem a).trans (h.mem a)⟩

theorem Signals.limitsKept {s t : State} (h : Signals s t) : LimitsKept s t := .of_trim h.trim h.sameMem

theorem Answers.trim {s t : State} (h : Answers s t) : t.trim = s.trim := (congrArg State.trim h).trans rfl

theorem State.setConflict_kept (s : State) (c : Option Conflict) : LimitsKept s (s.setTrim fun t => { t with conflict := c }) :=
  ⟨rfl, rfl, rfl, rfl, rfl, fun _ => rfl⟩

theorem State.conflictEvent_kept (s : State) (c : Conflict) (phase : Nat) : LimitsKept s (s.conflictEvent c phase) := by
  have hpost := s.postEvent_answers 0 0x8004 ([BitVec.ofNat 8 c.cause, BitVec.ofNat 8 phase, BitVec.ofNat 8 s.trim.eff.floor, BitVec.ofNat 8 c.worst] ++
    leBytes 2 c.mask.toNat ++ leBytes 2 0 ++ leBytes 4 (if phase = 0 then 0 else c.ms))
  exact (LimitsKept.of_trim hpost.trim hpost.sameMem).trans (State.cause_signals ..).limitsKept

theorem State.conflictEnd_kept (s : State) : LimitsKept s s.conflictEnd := by
  unfold State.conflictEnd
  split
  · exact (s.conflictEvent_kept _ 1).trans (State.setConflict_kept ..)
  · exact .refl s

theorem State.conflictStart_kept (s : State) (c : Conflict) : LimitsKept s (s.conflictStart c) :=
  ((s.setConflict_kept (some c)).trans (State.raise_signals ..).limitsKept).trans
    ((State.conflictEvent_kept _ c 0).trans (State.count_signals ..).limitsKept)

theorem State.conflictStep_kept (s : State) (conf : Option (Nat × Nat × BitVec 16)) : LimitsKept s (s.conflictStep conf) := by
  unfold State.conflictStep
  split
  · exact s.conflictEnd_kept
  · split
    · exact s.setConflict_kept _
    · exact s.conflictEnd_kept.trans (State.conflictStart_kept ..)
  · exact s.conflictStart_kept _

theorem State.fanDemand_kept (s : State) (h : Int) : LimitsKept s (s.fanDemand h).2 := by
  unfold State.fanDemand
  split
  · exact .refl s
  · split
    · exact .refl s
    · dsimp only
      split
      · exact .refl s
      · exact s.bumpFree_signals.limitsKept

theorem State.vout_kept (s : State) (want : Nat) : LimitsKept s (s.vout want) := by
  unfold State.vout
  dsimp only
  split
  · exact .of_trim rfl fun _ => rfl
  · split
    · exact .refl s
    · exact .of_trim rfl fun _ => rfl

/-- The last steps of a pass change the clusters' clocks and the core voltage only. -/
theorem State.loopEnd_kept (s : State) (f : Nat → Cclk → Cclk) (r want : Nat) : LimitsKept s (((s.mapCclk f).setDividers r).vout want) :=
  (LimitsKept.of_trim (s := s) (t := (s.mapCclk f).setDividers r) rfl fun _ => rfl).trans (State.vout_kept ..)

theorem State.trimPass_kept (s : State) (p1 p10 : Nat) (want table : List Nat) (lim : Nat) (conf : Option (Nat × Nat × Nat)) :
    let t := s.trimPass p1 p10 want table lim conf
    t.trim.eff = s.trim.next ∧
      t.trim.next = { cap := s.trim.capW, board := s.trim.boardW, quiet := s.trim.quietW, fan := s.trim.quietFan, floor := s.trim.floorN } ∧
      t.trim.capLim = bitOf lim 0 ∧ t.trim.capW = s.trim.capW ∧ t.trim.boardW = s.trim.boardW ∧ Claims.SameMem s t := by
  intro t
  have ht : t = s.trimPass p1 p10 want table lim conf := rfl
  clear_value t
  unfold State.trimPass at ht
  extract_lets t0 u1 h th fd u2 fan cap quiet board old raw bases need lend quick ok u3 steps left u4 u5 u6 u7 u8 at ht
  have hlow : LimitsKept u1 u4 := by
    have hfan : LimitsKept u1 u2 := u1.fanDemand_kept h
    have hconf : LimitsKept u2 u3 := u2.conflictStep_kept _
    refine (hfan.trans hconf).trans ?_
    unfold u4
    split
    · exact ((State.countField_signals ..).trans (State.cause_signals ..)).limitsKept
    · exact .refl u3
  have hhigh : LimitsKept u5 u8 := State.loopEnd_kept ..
  clear_value u8
  have hmid : Claims.SameMem u4 u5 := fun _ => rfl
  have hcap : u5.trim.capLim = cap := rfl
  have heff : u5.trim.eff = u4.trim.eff := rfl
  have hnext : u5.trim.next = u4.trim.next := rfl
  have hcapW : u5.trim.capW = u4.trim.capW := rfl
  have hboardW : u5.trim.boardW = u4.trim.boardW := rfl
  clear_value u5
  rw [ht]
  exact ⟨hhigh.eff.trans (heff.trans hlow.eff), hhigh.next.trans (hnext.trans hlow.next), hhigh.capLim.trans hcap, hhigh.capW.trans (hcapW.trans hlow.capW),
    hhigh.boardW.trans (hboardW.trans hlow.boardW), fun a => (hhigh.mem a).trans ((hmid a).trans (hlow.mem a))⟩

/-! ### Telemetry (R734, R735) -/

/-- The values a sample publishes for the 64 sensors. -/
def State.sampled (s : State) (vals : List (BitVec 16)) (held : List Nat) : List (BitVec 16) :=
  (List.range 64).map fun i => if held.contains i then s.sensor i else vals.getD i 0

theorem exec_telemetrySample {vals : List (BitVec 16)} {held : List Nat} {s : State} (ht : s.trim.telemetryOn = true) (hf : s.fwOn = true)
    (hh : 1 ∉ s.sec.halted) :
    ∃ t, exec (.telemetrySample vals held) s = .next t ∧ (∀ i, i < 64 → t.sensor i = (s.sampled vals held).getD i 0) ∧ t.trim.seq = s.trim.seq + 1 ∧
      t.trim.sampleGtime = s.ck.gtime ∧ t.trim.stale = (List.range 64).filter held.contains ∧ Claims.SameMem s t := by
  have hexec : exec (.telemetrySample vals held) s = execTelemetrySample vals held s := rfl
  unfold execTelemetrySample at hexec
  rw [if_neg (by simp [ht, hf, hh])] at hexec
  extract_lets v h fd fan all at hexec
  have hlen : v.length = 64 := by simp [v]
  have hown : fd.2 = { s with own := fd.2.own } := by
    unfold fd State.fanDemand
    split
    · rfl
    · split
      · rfl
      · dsimp only
        split <;> rfl
  have hall (i : Nat) (hi : i < 64) : all[i]? = some ((s.sampled vals held).getD i 0) := by
    have hi' : i < v.length := hlen ▸ hi
    change (v ++ _)[i]? = _
    rw [List.getElem?_append_left hi', List.getElem?_eq_getElem hi']
    exact congrArg some (List.getD_eq_getElem v 0 hi').symm
  have hseq : fd.2.trim.seq = s.trim.seq := (congrArg (·.trim.seq) hown :)
  have hmem (a : Nat) : fd.2.memByte a = s.memByte a := (congrArg (State.memByte · a) hown :)
  clear_value all fan fd h v
  refine ⟨_, hexec, fun i hi => ?_, congrArg (· + 1) hseq, rfl, rfl, hmem⟩
  obtain ⟨hin, -⟩ := foldl_tblSet_zipIdx (0 : BitVec 16) 0 all 0 []
  simp only [Nat.zero_add] at hin
  exact hin i _ (hall i hi)

theorem State.sampled_getD {s : State} {i : Nat} (vals : List (BitVec 16)) (held : List Nat) (hi : i < 64) :
    (s.sampled vals held).getD i 0 = if i ∈ held then s.sensor i else vals.getD i 0 := by
  unfold State.sampled
  rw [List.getD_eq_getElem _ 0 (by simpa using hi), List.getElem_map, List.getElem_range]
  simp only [List.contains_iff_mem]

/-! ### Voltage (R713, R788) -/

/-- A voltage that is asked for while no command settles. -/
theorem State.vout_effect {s : State} (want : Nat) (hn : s.ck.settling = none) :
    let w := max 650 (min 850 want)
    (w = s.ck.vcore → (s.vout want).ck.settling = none ∧ (s.vout want).ck.vcore = s.ck.vcore) ∧
      (s.ck.vcore < w → (s.vout want).ck.vcore = min w (s.ck.vcore + 100)) ∧ (w < s.ck.vcore → (s.vout want).ck.vcore = max w (s.ck.vcore - 100)) := by
  intro w
  have hv : s.vout want = if w = s.ck.vcore then s
      else { s with ck := { s.ck with
        vcore := if s.ck.vcore < w then min w (s.ck.vcore + 100) else max w (s.ck.vcore - 100), settling := some (s.ck.vcore, w) } } := by
    unfold State.vout
    dsimp only
    rw [hn]
  rw [hv]
  refine ⟨fun h => ?_, fun h => ?_, fun h => ?_⟩
  · rw [if_pos h]
    exact ⟨hn, rfl⟩
  · rw [if_neg h.ne']
    exact if_pos h
  · rw [if_neg h.ne]
    exact if_neg h.not_gt

/-! ### Background work (R648, R740, R744) -/

theorem exec_bgForced {i u : Nat} {first : Bool} {s : State} (hi : i ≤ 5) (hf : s.fwOn = true) (hr : 2 ≤ i ∨ s.pw.selfRefresh = 0) :
    exec (.bgForced i u first) s = .next (
      let w := match (s.count (0x71A0 + 4 * i)).captureAt 0x71C4 (i + 256 * (u % 256)) 31 with
        | (true, s) => s.cause 0x7000 11
        | (false, s) => s
      if first then w.raise 0x0802 .device none 0x7000 (i + 256 * (u % 256)) else w) := by
  refine next_congr (if_neg ?_)
  rintro (h | h | ⟨h2, h0⟩)
  · exact hi.not_gt h
  · exact absurd hf (by simpa using h)
  · exact hr.elim h2.not_ge h0

/-- What a patrol step leaves of its place and its passes. -/
def patrolOn (t : Trim) : Trim :=
  if hbmUnits ≤ t.patrol + 1 then { t with patrol := 0, patrolPasses := min (t.patrolPasses + 1) 0xFFFF } else { t with patrol := t.patrol + 1 }

section
variable {u : Nat} {s : State} (hu : u < hbmUnits) (ht : s.pw.hbmTrained = 15) (hr : s.pw.selfRefresh = 0) (hf : s.fwOn = true)
  (hflip : tblFind u s.flips = none)
include hu ht hr hf hflip

theorem exec_hbmPatrolStep_good : exec (.hbmPatrolStep u .good) s = .next (s.setTrim patrolOn) := by
  change execHbmPatrolStep u .good s = _
  unfold execHbmPatrolStep
  rw [if_neg (by simp [hu, ht, hr, hf]), hflip] <;> rfl

theorem exec_hbmPatrolStep_uncorrected (hp : u ∉ s.poison) :
    ∃ o, exec (.hbmPatrolStep u .uncorrected) s =
      .next (((s.eccFind (some (u, true)) true).raiseAs 0x0205 0 .l0 o none 0x1C0000 0xFF (32 * u) true false false).setTrim patrolOn) := by
  refine ⟨match (s.slot (u / 2 ^ 23)).owner with | some k => .inst k | none => .device, ?_⟩
  change execHbmPatrolStep u .uncorrected s = _
  unfold execHbmPatrolStep
  rw [if_neg (by simp [hu, ht, hr, hf]), hflip]
  dsimp only
  rw [if_neg hp] <;> rfl

end

theorem State.eccFind_uncorrected {s : State} {u : Nat} (patrol : Bool) (hp : u ∉ s.poison) :
    Signals { s with poison := addNat u s.poison } (s.eccFind (some (u, true)) patrol) := by
  unfold State.eccFind
  dsimp only
  rw [if_neg hp]
  exact ((State.count_signals ..).trans (State.eccEvent_signals ..)).trans (State.cause_signals ..)

/-- Settles O59. -/
theorem trimLoopsKeepTheirLimits : Obligations.TrimLoopsKeepTheirLimits := by
  unfold Obligations.TrimLoopsKeepTheirLimits
  refine ⟨fun n s hn hlen hr hst => ?droop, fun n s => exec_droopDetect_not, fun s j hj hlen hr hg hst => ?overcurrent, fun n s hn => ?stretch,
    fun s hr hc => ?clamp, fun s => ⟨_, rfl, rfl⟩, fun s hr => ⟨_, rfl, exec_thermTrip hr⟩, fun s => exec_railFault, fun s hr => ?off,
    fun s => exec_lendingWindow, fun p1 p10 want table lim conf s => ⟨fun hp => ?loopOff, fun hp => ?loop⟩, fun s v w hset => ⟨fun hp => ?settleOff, fun hp => ?settle⟩,
    fun s hset => ?settleNone, fun s hp => ⟨fun v w hset => ?failSome, fun hset => ?failNone, next_congr (if_pos hp)⟩,
    fun vals held s ht hf hh => ?sample, fun vals held s h => ?sampleOff, fun i u cmem found s => ⟨fun hi hfound hf => ?take, fun h => ?takeOff⟩,
    fun i u first s hi hf hr => ?forced, fun u s hu ht hr hf hflip => ?good, fun u s hu ht hr hf hflip hp => ?bad, fun s hf => ?crack⟩
  case droop =>
    have hsig := (s.onCclk n fun c => { c with stretch := true }).countField_signals 0x7120 0 16 1
    have hn' : n < s.ck.cclk.length := hlen ▸ hn
    exact ⟨_, exec_droopDetect hn hr hst, (hsig.cclkAt n).trans (State.onCclk_at _ hn'), fun j hj => (hsig.cclkAt j).trans (State.onCclk_at_ne _ _ hj),
      hsig.trim, hsig.pw⟩
  case overcurrent =>
    have hnew : j ∈ s.newlyStretched := List.mem_filter.2 ⟨List.mem_range.2 hj, by rw [hg, hst]; rfl⟩
    have hsig := (s.mapCclk fun i c => if s.newlyStretched.contains i then { c with stretch := true } else c).countField_signals 0x7120 16 16 1
    refine ⟨_, exec_overcurrentDetect hr (List.ne_nil_of_mem hnew), ?_, fun n hgn => ?_, hsig.trim⟩
    · have hat := (hsig.cclkAt j).trans ((State.mapCclk_at ..).trans ((if_pos (hlen ▸ hj)).trans (if_pos (List.contains_iff_mem.2 hnew))))
      exact (congrArg Cclk.stretch hat :)
    · refine ((hsig.cclkAt n).trans (State.mapCclk_at ..)).trans ?_
      have hnot : ¬ s.newlyStretched.contains n = true := fun h => by
        have h := (List.mem_filter.1 (List.contains_iff_mem.1 h)).2
        rw [hgn] at h
        exact Bool.false_ne_true h
      rw [if_neg hnot, ite_self]
      rfl
  case stretch => exact ⟨_, rfl, State.onCclk_at _ hn, fun j hj => State.onCclk_at_ne _ _ hj⟩
  case clamp =>
    have hsig := ((State.countField_signals ((s.setTrim fun t => { t with clamp := true }).mapCclk fun _ c => { c with n := 40, base := 40 })
      0x7124 16 16 1).trans (State.cause_signals _ 0x7000 10))
    refine ⟨_, exec_thermalClamp hr hc, hsig.trim, (congrArg Clocks.cclk hsig.ck).trans ?_⟩
    exact List.ext_getElem? fun i => List.getElem?_mapIdx.trans List.getElem?_map.symm
  case off => exact ⟨next_congr (if_pos (by simp [hr])), next_congr (if_pos (by simp [hr])), next_congr (if_pos (by simp [hr, State.corePower]))⟩
  case loopOff => exact next_congr (if_neg (by simp [hp]))
  case loop => exact ⟨_, next_congr (if_pos hp), s.trimPass_kept p1 p10 want table lim conf⟩
  case settleOff =>
    change execVrSettleExpiry s = _
    unfold execVrSettleExpiry
    rw [hset]
    exact next_congr (if_neg fun h => Bool.false_ne_true (hp.symm.trans h))
  case settle =>
    have hexec : exec .vrSettleExpiry s = .next (({ s with ck := { s.ck with settling := none } } : State).vout w) := by
      change execVrSettleExpiry s = _
      unfold execVrSettleExpiry
      rw [hset]
      exact next_congr (if_pos hp)
    exact ⟨_, hexec, State.vout_effect (s := { s with ck := { s.ck with settling := none } }) w rfl⟩
  case settleNone =>
    change execVrSettleExpiry s = _
    unfold execVrSettleExpiry
    rw [hset]
  case failSome =>
    refine ⟨_, rfl, ?_⟩
    change execVrTransactionFail s = _
    unfold execVrTransactionFail
    rw [if_neg (by simp [hp]), hset]
  case failNone =>
    change execVrTransactionFail s = _
    unfold execVrTransactionFail
    rw [if_neg (by simp [hp]), hset]
  case sample =>
    obtain ⟨t, hexec, hsensor, hseq, hgtime, hstale, hmem⟩ := exec_telemetrySample (vals := vals) (held := held) ht hf hh
    refine ⟨t, hexec, fun i hi hno => ?_, fun i hi hyes => ?_, hseq, hgtime, fun i => ?_, hmem⟩
    · rw [hsensor i hi, State.sampled_getD _ _ hi, if_neg hno]
    · rw [hsensor i hi, State.sampled_getD _ _ hi, if_pos hyes]
    · rw [hstale, List.mem_filter, List.mem_range, List.contains_iff_mem]
  case sampleOff =>
    refine next_congr (if_pos ?_)
    rcases h with h | h | h <;> simp [h]
  case take => exact next_congr (if_pos ⟨hi, hfound, hf⟩)
  case takeOff =>
    refine next_congr (if_neg ?_)
    rintro ⟨hi, hfound, hf⟩
    rcases h with h | h | h
    · exact h hi
    · exact Bool.false_ne_true (h.symm.trans hfound)
    · exact Bool.false_ne_true (h.symm.trans hf)
  case forced =>
    refine ⟨_, rfl, fun w hw => ?_, fun w hw => ?_⟩
    · refine (exec_bgForced hi hf hr).trans ?_
      rw [hw]
    · refine (exec_bgForced hi hf hr).trans ?_
      rw [hw]
  case good =>
    exact ⟨_, exec_hbmPatrolStep_good hu ht hr hf hflip, rfl, fun h => if_neg h.not_ge, fun h => if_pos h⟩
  case bad =>
    obtain ⟨o, hexec⟩ := exec_hbmPatrolStep_uncorrected hu ht hr hf hflip hp
    have hsig := (State.eccFind_uncorrected true hp).trans (State.raiseAs_signals _ 0x0205 0 .l0 o none 0x1C0000 0xFF (32 * u) true false false)
    refine ⟨_, hexec, fun x => ?_, fun a => hsig.memByte a⟩
    exact (iff_of_eq (congrArg (x ∈ ·) hsig.poison)).trans mem_addNat
  case crack =>
    refine ⟨⟨_, rfl, next_congr (if_neg (by simp [hf]))⟩, fun v hv => next_congr ((if_neg (by simp [hf])).trans (if_neg ?_)),
      fun v hv hrec => ⟨_, rfl, next_congr ((if_neg (by simp [hf])).trans (if_pos ?_))⟩⟩
    · simp [State.setTrim, hv.not_gt]
    · simp [State.setTrim, hv, hrec]

end Sys2Proof.Machine
end

section
/-! PROOFS. The fault collector, reports of firmware cores and board management (06, 16, 17). -/

namespace Sys2Proof.Machine

/-! ### The fault the collector takes (R751) -/

theorem foldl_max_cls (l : List FaultIn) (m : Nat) :
    m ≤ l.foldl (fun m f => max m f.cls) m ∧ ∀ f ∈ l, f.cls ≤ l.foldl (fun m f => max m f.cls) m := by
  induction l generalizing m with
  | nil => exact ⟨le_rfl, fun f hf => nomatch hf⟩
  | cons g l ih =>
    obtain ⟨hm, hl⟩ := ih (max m g.cls)
    refine ⟨(le_max_left ..).trans hm, fun f hf => ?_⟩
    obtain rfl | hf := List.mem_cons.1 hf
    · exact (le_max_right ..).trans hm
    · exact hl f hf

/-- The fault taken next is of the highest class, and every earlier one of a lower class. -/
theorem nextFault_some {l : List FaultIn} {i : Nat} {f : FaultIn} (hi : nextFault l = some i) (hf : l[i]? = some f) :
    (∀ g ∈ l, g.cls ≤ f.cls) ∧ ∀ j g, j < i → l[j]? = some g → g.cls < f.cls := by
  obtain ⟨-, hle⟩ := foldl_max_cls l 0
  unfold nextFault at hi
  dsimp only at hi
  generalize l.foldl (fun m f => max m f.cls) 0 = top at hi hle
  obtain ⟨hlt, hat, hbefore⟩ := List.findIdx?_eq_some_iff_getElem.1 hi
  obtain rfl : l[i] = f := Option.some.inj ((List.getElem?_eq_getElem hlt).symm.trans hf)
  have htop : l[i].cls = top := beq_iff_eq.1 hat
  refine ⟨fun g hg => htop ▸ hle g hg, fun j g hj hg => ?_⟩
  obtain ⟨hjlt, rfl⟩ := List.getElem?_eq_some_iff.1 hg
  have hne : l[j].cls ≠ top := fun h => hbefore j hj (beq_iff_eq.2 h)
  exact htop ▸ lt_of_le_of_ne (hle _ (List.getElem_mem hjlt)) hne

theorem exec_fcolTakeFault {s : State} {i : Nat} {f : FaultIn} (hr : s.pw.railsUp = true) (hi : nextFault s.fcol.inq = some i)
    (hf : s.fcol.inq[i]? = some f) :
    exec .fcolTakeFault s = .next (({ s with fcol := { s.fcol with inq := s.fcol.inq.eraseIdx i } } : State).process f) := by
  change execFcolTakeFault s = _
  unfold execFcolTakeFault
  rw [if_neg (by simp [hr]), hi]
  dsimp only
  rw [hf]

theorem exec_fcolTakeFault_none {s : State} (h : s.fcol.inq = []) : exec .fcolTakeFault s = .next s := by
  change execFcolTakeFault s = _
  unfold execFcolTakeFault
  rw [h]
  exact next_congr (ite_self _)

/-! ### Acknowledgement (R765) -/

theorem exec_frAck {ag : Agent} {v : BitVec 32} {s : State} {l : Loc} {r : Row} (h : Claims.reachesRow s ag 0x9110 v.toNat l r v.toNat)
    (hpg : l.pg = .fcol) (hoff : l.off = 0x110) (hacc : r.acc = .wo) : exec (.frAck ag v) s = .next (s.frAck v ag) := by
  obtain ⟨b, -, hwrite⟩ := State.regWrite_reaches h fun h => nomatch hacc.symm.trans h
  refine next_congr (hwrite.trans ?_)
  unfold State.applyWrite
  rw [hpg]
  refine (if_pos hoff).trans ?_
  rw [BitVec.ofNat_toNat, BitVec.setWidth_eq]

theorem State.frAck_of_host {s : State} {v : W} {ag : Agent} (h : ag.code = 0) :
    s.frAck v ag = { s with fcol := { s.fcol with
      ring := s.fcol.ring.map fun (r : FRec) => if (v - r.seq).toNat < 2 ^ 31 then { r with acked := true } else r
      open_ := s.fcol.open_.filter fun e => !decide ((v - e.seq).toNat < 2 ^ 31) } } := if_neg (not_not.2 h)

theorem acked_of_ack (v : W) (x : FRec) :
    let y := if (v - x.seq).toNat < 2 ^ 31 then { x with acked := true } else x
    y.seq = x.seq ∧ y.code = x.code ∧ y.acked = (x.acked || decide ((v - x.seq).toNat < 2 ^ 31)) := by
  dsimp only
  split
  · next h => exact ⟨rfl, rfl, by rw [decide_eq_true h, Bool.or_true]⟩
  · next h => exact ⟨rfl, rfl, by rw [decide_eq_false h, Bool.or_false]⟩

theorem exec_frAck_host {ag : Agent} {v : BitVec 32} {s : State} {l : Loc} {r : Row} (h : Claims.reachesRow s ag 0x9110 v.toNat l r v.toNat)
    (hpg : l.pg = .fcol) (hoff : l.off = 0x110) (hacc : r.acc = .wo) (hag : ag.code = 0) :
    ∃ t, exec (.frAck ag v) s = .next t ∧ t = { s with fcol := t.fcol } ∧
      (∀ (i : Nat) (x : FRec), s.fcol.ring[i]? = some x → ∃ y : FRec, t.fcol.ring[i]? = some y ∧ y.seq = x.seq ∧ y.code = x.code ∧
        y.acked = (x.acked || decide ((v - x.seq).toNat < 2 ^ 31))) ∧
      (∀ e : OpenEnt, e ∈ t.fcol.open_ ↔ e ∈ s.fcol.open_ ∧ 2 ^ 31 ≤ (v - e.seq).toNat) := by
  refine ⟨_, (exec_frAck h hpg hoff hacc).trans (next_congr (State.frAck_of_host hag)), rfl, fun i x hx => ⟨_, ?_, acked_of_ack v x⟩, fun e => ?_⟩
  · exact List.getElem?_map.trans (by rw [hx]; rfl)
  · refine List.mem_filter.trans (and_congr_right fun _ => ?_)
    rw [Bool.not_eq_true', decide_eq_false_iff_not, not_lt]

/-! ### Reports of firmware cores (R779, R780) -/

theorem exec_fwReport {ag : Agent} {v : BitVec 64} {s : State} {l : Loc} {r : Row} (hg : s.gate ag 0x9138 true = .go l) (hpg : l.pg = .fcol)
    (hrow : l.row = some (r, 0)) (hw : r.wide = true) (hacc : r.acc = .rw ∨ r.acc = .wo) (hlock : s.rowLocked l r = false)
    (hheld : s.rowHeld l r = false) (he : l.expert = false) :
    ∃ u : State, u = { s with lowWord := u.lowWord } ∧ exec (.fwReport ag v) s = .next (u.fwReport v ag) := by
  obtain ⟨u, hu, hwrite⟩ := State.regWrite_wide (v := v.toNat) hg hrow hw hacc hlock hheld he
  refine ⟨u, hu, next_congr (hwrite.trans ?_)⟩
  unfold State.applyWide
  rw [hpg]
  have hv : BitVec.ofNat 64 (v.toNat % 2 ^ 64) = v := by rw [Nat.mod_eq_of_lt v.isLt, BitVec.ofNat_toNat, BitVec.setWidth_eq]
  exact congrArg (State.fwReport u · ag) hv

/-- A writer that is no firmware core is ignored. -/
theorem State.fwReport_other {s : State} {v : W64} {ag : Agent} (h : ag.code ∉ [3, 4, 5]) : s.fwReport v ag = s :=
  if_pos (by simp only [List.mem_cons, List.not_mem_nil, or_false] at h; omega)

/-- A report that no rule allows. -/
def badReport (v : Nat) : Prop := bitsOf v 0 16 ∉ fwCodes ∨ 4 < bitsOf v 24 3 ∨ bitsOf v 23 1 ≠ 0 ∨ bitsOf v 30 2 ≠ 0

theorem core_of_mem {n : Nat} (h : n ∈ [3, 4, 5]) : ¬ (n < 3 ∨ 5 < n) := by
  simp only [List.mem_cons, List.not_mem_nil, or_false] at h
  omega

theorem State.fwReport_bad {s : State} {v : W64} {ag : Agent} (h : ag.code ∈ [3, 4, 5]) (hb : badReport v.toNat) :
    s.fwReport v ag = s.rsvdValue 0x9138 0x9000 0 ag := by
  refine (if_neg (core_of_mem h)).trans (if_pos ?_)
  exact hb.imp_left fun hno => by simpa using hno

theorem State.fwReport_good {s : State} {v : W64} {ag : Agent} (h : ag.code ∈ [3, 4, 5]) (hg : ¬ badReport v.toNat) :
    ∃ f : FaultIn, s.fwReport v ag = s.enqueueFault f ∧ f.code = bitsOf v.toNat 0 16 ∧ f.cls = (codeClass (bitsOf v.toNat 0 16)).1 ∧
      f.owner = fwOwner v.toNat ∧ f.source = coreSource ag.code := by
  refine ⟨_, (if_neg (core_of_mem h)).trans (if_neg fun hb => hg (hb.imp_left fun hno => ?_)), rfl, rfl, rfl, rfl⟩
  simpa using hno

/-- A C2 fault that finds an entry free joins the end of the input queue. -/
theorem State.enqueueFault_c2 {s : State} {f : FaultIn} (hc : f.cls = 2) (hq : queuedFaults s.fcol.inq < 64) :
    (s.enqueueFault f).fcol.inq = s.fcol.inq ++ [f] := by
  unfold State.enqueueFault
  extract_lets u q put
  have hput : put (q ++ [f]) u = { u with fcol := { u.fcol with inq := q ++ [f] } } := rfl
  have hq' : queuedFaults q < 64 := hq
  rw [if_neg (by omega), if_neg (by omega), if_pos hq', hput]
  rfl

/-! ### Board management (R736, R737) -/

section
variable {s : State} (hb : s.bmcOn = true)
include hb

theorem exec_pldmSensorRead {i : Nat} (h1 : 1 ≤ i) (h2 : i ≤ 67) : exec (.pldmSensorRead i) s = .next (s.answer (leBytes 2 (s.sensor (i - 1)).toNat) 0) :=
  next_congr ((if_neg (by simp [hb])).trans (if_neg (by omega)))

theorem exec_pldmSensorRead_none {i : Nat} (h : i = 0 ∨ 67 < i) : exec (.pldmSensorRead i) s = .next (s.answer [] 0x80) :=
  next_congr ((if_neg (by simp [hb])).trans (if_pos h))

theorem exec_pldmEffecterSet {v : Nat} (hv : v = 0 ∨ 150 ≤ v ∧ v ≤ 450) (hs : s.pw.safe = false) (hp : s.parked = false) :
    exec (.pldmEffecterSet 1 v) s = .next ((s.setTrim fun t => { t with boardW := v }).answer [] 0) :=
  next_congr ((if_neg (by simp [hb])).trans ((if_neg (not_not.2 rfl)).trans ((if_pos hv).trans (if_neg (by simp [hs, hp])))))

theorem exec_pldmEffecterSet_range {v : Nat} (h0 : v ≠ 0) (hv : v < 150 ∨ 450 < v) : exec (.pldmEffecterSet 1 v) s = .next (s.answer [] 2) :=
  next_congr ((if_neg (by simp [hb])).trans ((if_neg (not_not.2 rfl)).trans (if_neg (by omega))))

end

/-- Settles O60. -/
theorem collectorAndBoardManagementAnswer : Obligations.CollectorAndBoardManagementAnswer := by
  unfold Obligations.CollectorAndBoardManagementAnswer
  refine ⟨fun s _ h => exec_fcolTakeFault_none h, fun s i f hr hi hf => ⟨_, rfl, exec_fcolTakeFault hr hi hf, nextFault_some hi hf⟩, fun s => rfl,
    fun s hr => ⟨_, next_congr (if_neg (by simp [hr])), rfl, rfl, rfl, rfl, rfl⟩,
    fun ag v s l r h hpg hoff hacc => ⟨exec_frAck_host h hpg hoff hacc, fun hag => (exec_frAck h hpg hoff hacc).trans (next_congr (if_pos hag))⟩,
    fun ag v s l r hg hpg _ hrow hw hacc hlock hheld he => ?report, fun s core hcore hf => ⟨fun hh => ?watchdog, fun hh => ?halted⟩,
    fun s f => State.enqueueFault_c2, fun s hb => ⟨fun eid => ⟨_, next_congr (if_pos hb), rfl, rfl⟩, next_congr ((if_neg (by simp [hb])).trans (if_pos rfl)),
      fun i => exec_pldmSensorRead hb, fun i h => ⟨_, exec_pldmSensorRead_none hb h, rfl⟩,
      fun v hv hs hp => ⟨_, exec_pldmEffecterSet hb hv hs hp, rfl, rfl, fun _ => rfl⟩, fun v h0 hv => ⟨_, exec_pldmEffecterSet_range hb h0 hv, rfl⟩⟩,
    fun s eid cmd i v hb => ?off⟩
  case report =>
    obtain ⟨u, hu, hexec⟩ := exec_fwReport (v := v) hg hpg hrow hw hacc hlock hheld he
    refine ⟨u, hu, fun hag => hexec.trans (next_congr (State.fwReport_other hag)), fun hag hc ho h23 h30 => ?_,
      fun hag hbad => hexec.trans (next_congr (State.fwReport_bad hag hbad))⟩
    have hgood : ¬ badReport v.toNat := by
      rintro (h | h | h | h)
      · exact h hc
      · exact ho.not_gt h
      · exact h h23
      · exact h h30
    obtain ⟨f, hf, hfields⟩ := State.fwReport_good (s := u) hag hgood
    exact ⟨f, hexec.trans (next_congr hf), hfields⟩
  case watchdog => exact next_congr (if_neg (by simp [hcore.not_gt, hf, hh]))
  case halted => exact next_congr (if_pos (.inr (.inr hh)))
  case off =>
    have hoff : ¬ s.bmcOn = true := by rw [hb]; decide
    have hoff' : (!s.bmcOn) = true := by rw [hb]; rfl
    exact ⟨next_congr (if_neg hoff), next_congr (if_pos hoff'), next_congr (if_pos hoff'), next_congr (if_pos hoff')⟩

end Sys2Proof.Machine
end

section
/-! PROOFS. Requests that read or set values (03, 06, 16). -/

namespace Sys2Proof.Machine

/-! ### GET_INFO, TRACE_SET and LOG_FETCH (R268, R274) -/

theorem bytesAt_start {a : List Byte} {n : Nat} (l : List Byte) (ha : a.length = n) : bytesAt (a ++ l) 0 n = a := by
  subst ha
  exact bytesAt_middle [] a l

theorem bytesAt_append_add {a : List Byte} {m : Nat} (l : List Byte) (i n : Nat) (ha : a.length = m) : bytesAt (a ++ l) (m + i) n = bytesAt l i n := by
  subst ha
  unfold bytesAt
  rw [List.drop_append, Nat.add_sub_cancel_left, List.drop_eq_nil_of_le (Nat.le_add_right ..), List.nil_append]

/-- The fields of an answer that begins with eight, two, two, two, one, one and one bytes. -/
theorem bytesAt_info {a b c d e f g : List Byte} (rest : List Byte) (ha : a.length = 8) (hb : b.length = 2) (hc : c.length = 2) (hd : d.length = 2)
    (he : e.length = 1) (hf : f.length = 1) (hg : g.length = 1) :
    let pl := a ++ (b ++ (c ++ (d ++ (e ++ (f ++ (g ++ rest))))))
    bytesAt pl 0 8 = a ∧ bytesAt pl 8 4 = b ++ c ∧ bytesAt pl 14 1 = e ∧ bytesAt pl 16 1 = g := by
  refine ⟨bytesAt_start _ ha, ?_, ?_, ?_⟩
  · rw [bytesAt_append_add _ 0 4 ha, ← List.append_assoc b c]
    exact bytesAt_start _ (by rw [List.length_append, hb, hc])
  · rw [bytesAt_append_add _ 6 1 ha, bytesAt_append_add _ 4 1 hb, bytesAt_append_add _ 2 1 hc, bytesAt_append_add _ 0 1 hd]
    exact bytesAt_start _ he
  · rw [bytesAt_append_add _ 8 1 ha, bytesAt_append_add _ 6 1 hb, bytesAt_append_add _ 4 1 hc, bytesAt_append_add _ 2 1 hd,
      bytesAt_append_add _ 1 1 he, bytesAt_append_add _ 0 1 hf]
    exact bytesAt_start _ hg

theorem exec_getInfo {s : State} {k : Nat} {r : Req} (h : Claims.serving s k 0x0002 r) (hu : unusedOk r [] = true) :
    ∃ pl, exec (.getInfo k) s = .next (s.respond k r 0 0 pl) ∧ bytesAt pl 0 8 = leBytes 8 s.fw.version.toNat ∧
      bytesAt pl 8 4 = leBytes 2 s.fw.verMin.toNat ++ leBytes 2 s.fw.verMax.toNat ∧ bytesAt pl 14 1 = leBytes 1 r.target ∧
      bytesAt pl 16 1 = leBytes 1 (s.inst r.target).maxQ := by
  have hexec : exec (.getInfo k) s = .next _ := next_congr ((State.onReq_serving h _).trans (if_neg (by simp [hu])))
  simp only [List.append_assoc] at hexec
  exact ⟨_, hexec, bytesAt_info _ (leBytes_length ..) (leBytes_length ..) (leBytes_length ..) (leBytes_length ..) (leBytes_length ..)
    (leBytes_length ..) (leBytes_length ..)⟩

theorem exec_traceSet {s : State} {k : Nat} {r : Req} (h : Claims.serving s k 0x0802 r) (hu : unusedOk r [(0, 32)] = true) :
    exec (.traceSet k) s = .next (((List.range 8).foldl (fun s i => s.setReg (0xB140 + 4 * i) (BitVec.ofNat 32 (pay r (4 * i) 4))) s).respond k r 0 0 []) :=
  next_congr ((State.onReq_serving h _).trans (if_neg (by simp [hu])))

theorem exec_logFetch {s : State} {k : Nat} {r : Req} {x : LogRec} (h : Claims.serving s k 0x0800 r) (hu : unusedOk r [(0, 6), (8, 12)] = true)
    (hn : pay r 4 2 = 1) (hbuf : pay r 8 8 % 32 = 0) (hlen : 32 ≤ pay r 16 4) (hx : s.logFind (BitVec.ofNat 32 (pay r 0 4)) = some x)
    (ht : r.target = 0 ∨ x.inst = r.target) :
    ∃ t, ∃ u : State, exec (.logFetch k) s = .next t ∧ t = u.hostWrite r.target (pay r 8 8) (logBytes x) true ∧ (u.ringsOf k).cur = none ∧
      u.insts = s.insts ∧ u.queues = s.queues := by
  have hexec : exec (.logFetch k) s = .next _ := next_congr (State.onReq_serving h _)
  beta_reduce at hexec
  extract_lets n buf first seqs gone recs _ z f _ v at hexec
  rw [if_neg (by simp [n, buf, hu, hn, hbuf, hlen])] at hexec
  have hseqs : seqs = [first] := by
    unfold seqs
    rw [show n = 1 from hn]
    exact congrArg (fun w => [w]) (BitVec.add_zero first)
  have hrecs : recs = [x] := by
    unfold recs
    rw [hseqs, List.filterMap_cons, show s.logFind first = some x from hx]
    dsimp only
    rw [if_pos ht, List.filterMap_nil]
  have hf : f = (x.seq, z) := by
    unfold f
    rw [hrecs]
  have hz : f.2.insts = s.insts ∧ f.2.queues = s.queues := by rw [hf]; exact ⟨rfl, rfl⟩
  have hans : Answers f.2 v := State.respondPending_answers ..
  have hcur : (v.ringsOf k).cur = none := congrArg Brn.cur ((State.respondPending_ringsOf ..).trans (if_pos rfl))
  clear_value v
  rw [hrecs] at hexec
  exact ⟨_, v, hexec, congrArg (State.hostWrite v _ _ · true) (List.append_nil _), hcur, hans.insts.trans hz.1, hans.queues.trans hz.2⟩

theorem exec_logFetchDone {s : State} {k : Nat} {l : Long} (hl : (s.ringsOf k).long = some l) (hop : l.req.op = 0x0800)
    (hi : s.issuedAll l.req.target = true) : exec (.logFetchDone k) s = .next (s.finishLong k 0 0 l.data) := by
  change execLogFetchDone k s = _
  unfold execLogFetchDone
  rw [hl]
  exact next_congr (if_pos ⟨hop, hi⟩)

/-! ### Limits and telemetry (R745, R746) -/

theorem exec_powerCapSet {s : State} {k : Nat} {r : Req} (h : Claims.serving s k 0x0900 r) (hu : unusedOk r [(0, 2)] = true) (hlo : 250 ≤ pay r 0 2)
    (hhi : pay r 0 2 ≤ 450) : exec (.powerCapSet k) s =
      .next (({ s with trim := { s.trim with capW := pay r 0 2 } } : State).respond k r 0 0 (leBytes 2 (pay r 0 2) ++ leBytes 2 s.trim.boardW)) :=
  next_congr ((State.onReq_serving h _).trans (if_neg (by simp only [hu]; simp; omega)))

theorem exec_powerCapSet_refused {s : State} {k : Nat} {r : Req} (h : Claims.serving s k 0x0900 r) (hbad : pay r 0 2 < 250 ∨ 450 < pay r 0 2) :
    exec (.powerCapSet k) s = .next (s.respond k r 3 0 []) :=
  next_congr ((State.onReq_serving h _).trans (if_pos (.inr hbad)))

theorem exec_quietLimitSet {s : State} {k : Nat} {r : Req} (h : Claims.serving s k 0x0901 r) (hu : unusedOk r [(0, 3)] = true)
    (hw : pay r 0 2 = 0 ∨ 150 ≤ pay r 0 2 ∧ pay r 0 2 ≤ 450) (hf : pay r 2 1 = 0 ∨ 20 ≤ pay r 2 1 ∧ pay r 2 1 ≤ 100) : exec (.quietLimitSet k) s =
      .next (({ s with trim := { s.trim with quietW := pay r 0 2, quietFan := pay r 2 1 } } : State).respond k r 0 0 []) :=
  next_congr ((State.onReq_serving h _).trans (if_neg (by simp [hu, hw, hf])))

theorem exec_cadenceFloorSet {s : State} {k : Nat} {r : Req} (h : Claims.serving s k 0x0902 r) (hu : unusedOk r [(0, 1)] = true)
    (hn : pay r 0 1 = 0 ∨ 16 ≤ pay r 0 1 ∧ pay r 0 1 ≤ 40) : exec (.cadenceFloorSet k) s =
      .next (({ s with trim := { s.trim with floorN := pay r 0 1 } } : State).respond k r 0 0 []) :=
  next_congr ((State.onReq_serving h _).trans (if_neg (by simp [hu, hn])))

/-- A TELEM_READ whose form is right. -/
theorem exec_telemRead {s : State} {k : Nat} {r : Req} (h : Claims.serving s k 0x0903 r) (hu : unusedOk r [(0, 2)] = true) (ht : r.target = k)
    (h1 : 1 ≤ pay r 1 1) (h20 : pay r 1 1 ≤ 20) (h67 : pay r 0 1 + pay r 1 1 ≤ 67) :
    exec (.telemRead k) s = .next (if k ≠ 0 ∧ pay r 0 1 < 64 then s.respond k r 4 0 []
      else s.respond k r 0 0 (leBytes 4 s.trim.seq.toNat ++ leBytes 8 s.trim.sampleGtime.toNat ++
        (List.range (pay r 1 1)).flatMap fun i => leBytes 2 (s.sensor (pay r 0 1 + i)).toNat)) :=
  next_congr ((State.onReq_serving h _).trans (if_neg (by simp only [hu, ht]; simp; omega)))

/-! ### Quotes (R269) -/

theorem exec_attestQuote {s u : State} {k : Nat} {r : Req} {gs : List Seg} (h : Claims.serving s k 0x0A02 r) (hu : unusedOk r [(0, 0x28)] = true)
    (ht : r.target = k) (hbuf : pay r 0x20 8 % 1024 = 0) (hlt : pay r 0x20 8 < 2 ^ 48)
    (hsegs : s.segs k (pay r 0x20 8) 1024 true askCmd = (u, gs, none)) (hhost : segsHost gs = false) (hready : u.attestReady = true) :
    exec (.attestQuote k) s = .next (u.respondPending k r (longNew r)) := by
  refine next_congr ((State.onReq_serving h _).trans ((if_neg ?_).trans ?_))
  · rintro (h | h | h | h)
    · rw [hu] at h
      exact Bool.false_ne_true h
    · exact h ht
    · exact h hbuf
    · exact hlt.not_ge h
  · rw [hsegs]
    exact (if_neg (by simp [hhost])).trans (if_neg (by simp [hready]))

theorem exec_attestQuoteSigned {s u : State} {k : Nat} {l : Long} {gs : List Seg} (hl : (s.ringsOf k).long = some l) (hop : l.req.op = 0x0A02)
    (hout : l.out = none) (hh : 0 ∉ s.sec.halted) (hsegs : s.segs k (pay l.req 0x20 8) 576 true askCmd = (u, gs, none)) (hhost : segsHost gs = false) :
    exec (.attestQuoteSigned k) s = .next ((u.segWrite k false gs (signed (s.quoteBody k (bytesAt l.req.payload 0 32)))).finishLong k 0 0
      (leBytes 8 576 ++ leBytes 8 u.ck.gtime.toNat)) := by
  change execAttestQuoteSigned k s = _
  unfold execAttestQuoteSigned
  rw [hl]
  refine next_congr ((if_neg (by simp [hop, hout, hh])).trans ?_)
  rw [hsegs]
  exact congrArg (State.finishLong · k 0 0 _) (if_neg (by simp [hhost]))

/-! ### Orderly removal (03) -/

theorem State.headBlack_frame (s : State) (d : Nat) : (s.headBlack d).pw = s.pw ∧ Claims.SameMem s (s.headBlack d) := by
  unfold State.headBlack State.holdEnd
  dsimp only
  split
  · have hsig := State.cause_signals ((s.setHead d { s.head d with black := true, cur := none, pend := none }).setHead d
      { (s.setHead d { s.head d with black := true, cur := none, pend := none }).head d with hold := false }) (headBase d) 13
    exact ⟨hsig.pw, hsig.sameMem⟩
  · exact ⟨rfl, fun _ => rfl⟩

theorem exec_prepareRemoval {s : State} {k : Nat} {r : Req} (h : Claims.serving s k 0x0704 r) (hu : unusedOk r [] = true) :
    ∃ t, exec (.prepareRemoval k) s = .next t ∧ t.pw = { s.pw with removing := true } ∧ Claims.SameMem s t := by
  have hans := s.respondPending_answers k r (longNew r)
  let w : State := { s.respondPending k r (longNew r) with pw := { (s.respondPending k r (longNew r)).pw with removing := true } }
  have hexec : exec (.prepareRemoval k) s = .next ((w.headBlack 0).headBlack 1) :=
    next_congr ((State.onReq_serving h _).trans (if_neg (by simp [hu])))
  have hpw : w.pw = { s.pw with removing := true } := congrArg (fun p : Power => { p with removing := true }) hans.pw
  have hmem : Claims.SameMem s w := hans.sameMem
  clear_value w
  obtain ⟨hpw0, hmem0⟩ := w.headBlack_frame 0
  obtain ⟨hpw1, hmem1⟩ := (w.headBlack 0).headBlack_frame 1
  exact ⟨_, hexec, hpw1.trans (hpw0.trans hpw), fun a => (hmem1 a).trans ((hmem0 a).trans (hmem a))⟩

theorem exec_prepareRemovalDone {s : State} {l : Long} (hl : (s.ringsOf 0).long = some l) (hop : l.req.op = 0x0704) (hrem : s.pw.removing = true)
    (htxq : s.pcie.txq = []) (hst : s.pw.stage = .ready) (hsafe : s.pw.safe = false) :
    ∃ t, exec .prepareRemovalDone s = .next t ∧ t.pw = { s.pw with stage := .parked, selfRefresh := 15 } ∧ (∀ c ∈ t.ck.cclk, c.gated = true) ∧
      Claims.SameMem s t := by
  have hans := s.finishLong_answers 0 0 0 []
  have hexec : exec .prepareRemovalDone s = execPrepareRemovalDone s := rfl
  unfold execPrepareRemovalDone at hexec
  rw [hl] at hexec
  dsimp only at hexec
  rw [if_neg (by simp [hop, hrem, htxq, hst, hsafe])] at hexec
  generalize s.finishLong 0 0 0 [] = v at hans hexec
  refine ⟨_, hexec, ?_, fun c hc => ?_, fun a => hans.sameMem a⟩
  · dsimp only
    rw [hans.pw]
  · obtain ⟨d, -, rfl⟩ := List.mem_map.1 hc
    rfl

/-- Settles O45. -/
theorem valueRequestsAnswerWhatTheyName : Obligations.ValueRequestsAnswerWhatTheyName := by
  unfold Obligations.ValueRequestsAnswerWhatTheyName
  refine ⟨fun s k r h hu => next_congr ((State.onReq_serving h _).trans (if_pos hu)), fun s k r => exec_getInfo,
    fun s k r h hu => ⟨fun hle => next_congr ((State.onReq_serving h _).trans (if_neg (by simp [hu, hle.not_gt]))),
      fun hlt => next_congr ((State.onReq_serving h _).trans (if_pos (.inr hlt)))⟩,
    fun s k r h hu => ?trace, fun s k r h hu hn hbuf hlen x => exec_logFetch h hu hn hbuf hlen, fun s k l => exec_logFetchDone,
    fun s k r h hu => ⟨exec_powerCapSet h hu, exec_powerCapSet_refused h⟩, fun s k r => exec_quietLimitSet, fun s k r => exec_cadenceFloorSet,
    fun s k r h hu ht h1 h20 h67 => ⟨fun hyes => ?telem, fun hk ha => (exec_telemRead h hu ht h1 h20 h67).trans (next_congr (if_pos ⟨hk, ha⟩))⟩,
    fun s k r u gs => exec_attestQuote, fun s k l u gs => exec_attestQuoteSigned, fun s k r => exec_prepareRemoval, fun s l => exec_prepareRemovalDone⟩
  case trace =>
    have hset (i : Nat) (hi : i < 8) := foldl_setReg_reg_at 0xB140 (fun i => BitVec.ofNat 32 (pay r (4 * i) 4)) hi s
    have hsig := Signals.foldl (fun a (i : Nat) => a.setReg_signals (0xB140 + 4 * i) (BitVec.ofNat 32 (pay r (4 * i) 4))) (List.range 8) s
    exact ⟨_, _, exec_traceSet h hu, rfl, hset, hsig.pw, hsig.queues⟩
  case telem =>
    refine (exec_telemRead h hu ht h1 h20 h67).trans (next_congr (if_neg ?_))
    rintro ⟨hk, ha⟩
    exact hyes.elim hk ha.not_ge

end Sys2Proof.Machine
end
